-- ==== Sys2Proof/Word.lean ====
section
/-!
DEFINITION. The word types of the PX960: the 32-bit register and instruction word, the 64-bit scalar, the
128-bit lane mask, and the sparse tables that hold per-register and per-address data (R3, R4, R8).
-/

namespace Sys2Proof

/-- A 32-bit word: one lane of a vector register, or one word of code (R8, R28). -/
abbrev Word := BitVec 32

/-- A 64-bit scalar register (R8). -/
abbrev DWord := BitVec 64

/-- One bit per lane of a group: an execution mask or a predicate (R8, R12). -/
abbrev Mask := BitVec 128

/-- The 128 lanes of one vector register, lane 0 first (R8). A lane past the end of the list reads zero. -/
abbrev Lanes := List Word

/-- A sparse table: entries by rising key, an absent key standing for the table's default. -/
abbrev Tbl (α : Type) := List (Nat × α)

/-- The number of lanes of a group (R8). -/
abbrev numLanes : Nat := 128

end Sys2Proof
end

