-- ==== Sys2Proof/Config.lean ====
section
/-!
DEFINITION. What the spec fixes for every PX960 (R7, R250, R372) and the values it leaves open. A value left open is a
constant without a body: nothing can be proved of which value it is.
-/

namespace Sys2Proof.Config

/-- A fresh value of 32 bits; the step applies it to a count that it advances. -/
opaque freeWord : Nat → Word

/-- Whether frcp.f32 delivers the upper of the two FP32 values beside an inexact reciprocal (R97, bound 1 ulp). -/
opaque frcpUp : Word → Bool

/-- As `frcpUp`, for the inexact reciprocal square root of frsq.f32 (R97). -/
opaque frsqUp : Word → Bool

/-- The fixed results of fexp2.f32, flog2.f32, fsin.f32, fcos.f32 and ftanh.f32 outside their exact cases (R97),
numbered by F. -/
opaque sfuRaw : Nat → Word → Word

/-- The fixed result of fatan2.f32 outside its exact and rounded cases (R97). -/
opaque atan2Raw : Word → Word → Word

/-- The silicon revision that DEVINFO shows (R287). -/
opaque revision : BitVec 8

/-- The content of a bank restored from an image that was changed between save and load (R376), by draw and element. -/
opaque bankGarbage : Nat → Nat → Word

/-- End of the device memory of one device, 288 GiB (R7, R273). -/
abbrev localEnd : Nat := 0x4800000000

/-- Cores of a device (R7, R20). -/
abbrev numCores : Nat := 96

/-- Group slots of a core (R7). -/
abbrev slotsPerCore : Nat := 96

/-- Register granules of a core (R249). -/
abbrev granulesPerCore : Nat := 1024

/-- Records of the on-die ray pool (R209). -/
abbrev poolRecords : Nat := 262144

/-- Bins of the sorter (R213). -/
abbrev sorterBins : Nat := 4096

/-- Slots of 128 bytes of an L2 slice: 64 MiB in 64 slices (R7, R316, R335). -/
abbrev l2Slots : Nat := 8192

/-- Lines of a core's L1 and scratchpad together, 768 KiB (R7). -/
abbrev l1Lines : Nat := 6144

/-- Lines of the remote-data cache, 16 MiB (R7). -/
abbrev rdcLines : Nat := 131072

/-- Units in which reference time is kept, to a period of the 100 MHz reference clock: the least common multiple of 8 to
24, so that a clock at each of the rates 200, 225, ..., 600 MHz lasts a whole number of them (R5, R385). -/
abbrev refUnit : Nat := 5354228880

end Sys2Proof.Config
end

