-- ==== Sys2Proof/Syntax.lean ====
section
/-!
DEFINITION. The operations of the PX960: every instruction of the opcode map R47 and every indivisible step of the
device that the opcode table lists, one constructor per row. Operand fields keep the names and the widths of the
formats of R35 to R41. No meaning is given here.
-/

namespace Sys2Proof

/-- The operand extension word of R41: guard `gn`/`gp` and the fourth operand `c`. -/
structure Ox where
  gn : Bool
  gp : BitVec 3
  c : BitVec 7
  deriving DecidableEq, Repr

/-- V3: three vector fields (R35). -/
structure V3 where
  nw : Bool
  d : BitVec 7
  a : BitVec 7
  b : BitVec 7
  deriving DecidableEq, Repr

/-- V3 with B = 0x00 (R35, R78). -/
structure V2 where
  nw : Bool
  d : BitVec 7
  a : BitVec 7
  deriving DecidableEq, Repr

/-- VS: vector with scalar or 6-bit immediate (R35). -/
structure VS where
  nw : Bool
  d : BitVec 7
  a : BitVec 7
  si : Bool
  sb : BitVec 6
  deriving DecidableEq, Repr

/-- VS of opcode 0x1D, where SI is 0 (R85). -/
structure VX where
  nw : Bool
  d : BitVec 7
  a : BitVec 7
  sb : BitVec 6
  deriving DecidableEq, Repr

/-- VS with A = 0x00 (R90). -/
structure VB where
  nw : Bool
  d : BitVec 7
  si : Bool
  sb : BitVec 6
  deriving DecidableEq, Repr

/-- VS of vget.b32, whose D names a scalar (R90). -/
structure VGet where
  d : BitVec 6
  a : BitVec 7
  si : Bool
  sb : BitVec 6
  deriving DecidableEq, Repr

/-- VI: vector with a 32-bit immediate (R35). -/
structure VI where
  nw : Bool
  d : BitVec 7
  a : BitVec 7
  imm : BitVec 32
  deriving DecidableEq, Repr

/-- VI of vmov.b32, whose A is 0x00 (R85). -/
structure VM where
  nw : Bool
  d : BitVec 7
  imm : BitVec 32
  deriving DecidableEq, Repr

/-- P.c: a compare (R37). -/
structure PC where
  cond : BitVec 3
  pd : BitVec 3
  a : BitVec 7
  b : BitVec 7
  deriving DecidableEq, Repr

/-- P.l: predicate logic (R37). -/
structure PL where
  pd : BitVec 3
  pa : BitVec 3
  pb : BitVec 3
  na : Bool
  nb : Bool
  deriving DecidableEq, Repr

/-- P.l with PB = 0 and NB = 0 (R87). -/
structure P1 where
  pd : BitVec 3
  pa : BitVec 3
  na : Bool
  deriving DecidableEq, Repr

/-- S3: scalar (R36). -/
structure S3 where
  w : Bool
  d : BitVec 6
  a : BitVec 6
  si : Bool
  k : BitVec 8
  deriving DecidableEq, Repr

/-- SI: scalar with a 32-bit immediate (R36). -/
structure SI where
  w : Bool
  d : BitVec 6
  a : BitVec 6
  imm : BitVec 32
  deriving DecidableEq, Repr

/-- SI of smov.bW, whose A is 0 (R104). -/
structure SM where
  w : Bool
  d : BitVec 6
  imm : BitVec 32
  deriving DecidableEq, Repr

/-- M: vector D and A, scalar base SB (R38). -/
structure M where
  ctr : BitVec 3
  d : BitVec 7
  a : BitVec 7
  sb : BitVec 5
  deriving DecidableEq, Repr

/-- M of the prefetches, whose D is 0x00 (R119). -/
structure MP where
  ctr : BitVec 3
  a : BitVec 7
  sb : BitVec 5
  deriving DecidableEq, Repr

/-- M of ldu and stu: scalar D and A (R119, R128). -/
structure MS where
  ctr : BitVec 3
  d : BitVec 6
  a : BitVec 6
  sb : BitVec 5
  deriving DecidableEq, Repr

/-- M of acq, rel and acqrel: the scope stands in F (R136). -/
structure MQ where
  scope : BitVec 3
  ctr : BitVec 3
  sb : BitVec 5
  deriving DecidableEq, Repr

/-- M of inv.rgn (R141). -/
structure MR where
  scope : BitVec 3
  ctr : BitVec 3
  a : BitVec 6
  sb : BitVec 5
  deriving DecidableEq, Repr

/-- M of the barrier forms with one scalar besides the base (R119, R142). -/
structure MA where
  ctr : BitVec 3
  r : BitVec 6
  sb : BitVec 5
  deriving DecidableEq, Repr

/-- M with only a base scalar (R119). -/
structure MB where
  ctr : BitVec 3
  sb : BitVec 5
  deriving DecidableEq, Repr

/-- B: guard and signed word offset (R39). -/
structure B where
  pg : BitVec 3
  pn : Bool
  ofs : BitVec 20
  deriving DecidableEq, Repr

/-- X of rdsys and wrsys (R40, R118). -/
structure X where
  kd : BitVec 2
  d : BitVec 7
  sys : BitVec 8
  deriving DecidableEq, Repr

/-- E: first scalar of a run, engine port, status predicate (R38). -/
structure E where
  ctr : BitVec 3
  s : BitVec 6
  eq : BitVec 6
  pd : BitVec 3
  deriving DecidableEq, Repr

/-- E of qbind (R164). -/
structure EQ where
  ctr : BitVec 3
  n : BitVec 4
  eq : BitVec 6
  deriving DecidableEq, Repr

/-- E of qfree (R164). -/
structure EF where
  ctr : BitVec 3
  n : BitVec 4
  deriving DecidableEq, Repr

/-- E of mzero (R167). -/
structure EZ where
  ctr : BitVec 3
  bank : BitVec 2
  eq : BitVec 6
  pd : BitVec 3
  deriving DecidableEq, Repr

/-- E whose PD is zero (R173, R174). -/
structure EN where
  ctr : BitVec 3
  s : BitVec 6
  eq : BitVec 6
  deriving DecidableEq, Repr

/-- E of mpath (R175). -/
structure EP where
  ctr : BitVec 3
  s : BitVec 6
  deriving DecidableEq, Repr

/-- Y: vector D and A, scalar K (R38, R176). -/
structure Y where
  ctr : BitVec 3
  d : BitVec 7
  a : BitVec 7
  k : BitVec 5
  deriving DecidableEq, Repr

/-- Y with D and A (R193, R197). -/
structure YA where
  ctr : BitVec 3
  d : BitVec 7
  a : BitVec 7
  deriving DecidableEq, Repr

/-- Y with A and K (R188, R198). -/
structure YT where
  ctr : BitVec 3
  a : BitVec 7
  k : BitVec 5
  deriving DecidableEq, Repr

/-- Y with D and K (R186). -/
structure YK where
  ctr : BitVec 3
  d : BitVec 7
  k : BitVec 5
  deriving DecidableEq, Repr

/-- Y with D alone (R197). -/
structure YD where
  ctr : BitVec 3
  d : BitVec 7
  deriving DecidableEq, Repr

/-- Y of poolst (R199). -/
structure YS where
  ctr : BitVec 3
  d : BitVec 6
  k : BitVec 5
  deriving DecidableEq, Repr

/-- Y of dntile (R200). -/
structure YN where
  ctr : BitVec 3
  d : BitVec 6
  k : BitVec 2
  deriving DecidableEq, Repr

/-- The agents that exchange coherence messages (R298, R316, R318): a core of this device, this device's remote-data
cache, one of the 64 home slices of this device, the twin's homes, the host, and a core or cache of the twin. -/
inductive Agent where
  | core (n : Nat)
  | rdc
  | slice (n : Nat)
  | twin
  | host
  | far (unit : Nat)
  deriving DecidableEq, Repr

/-- Every operation and event of the opcode table, one constructor a row, in the table's order. -/
inductive Instr where
  /-- vadd.i32 (R79): Adds A and B in each active lane, modulo 2^32. -/
  | vaddI32 (f : V3) (ox : Option Ox)
  /-- vsub.i32 (R79): Subtracts B from A in each active lane, modulo 2^32. -/
  | vsubI32 (f : V3) (ox : Option Ox)
  /-- vadds.i32 (R79): Signed saturating addition per lane. -/
  | vaddsI32 (f : V3) (ox : Option Ox)
  /-- vsubs.i32 (R79): Signed saturating subtraction per lane. -/
  | vsubsI32 (f : V3) (ox : Option Ox)
  /-- vadds.n32 (R79): Unsigned saturating addition per lane. -/
  | vaddsN32 (f : V3) (ox : Option Ox)
  /-- vsubs.n32 (R79): Unsigned saturating subtraction per lane. -/
  | vsubsN32 (f : V3) (ox : Option Ox)
  /-- vmin.i32 (R79): Signed minimum per lane. -/
  | vminI32 (f : V3) (ox : Option Ox)
  /-- vmax.i32 (R79): Signed maximum per lane. -/
  | vmaxI32 (f : V3) (ox : Option Ox)
  /-- vmin.n32 (R79): Unsigned minimum per lane. -/
  | vminN32 (f : V3) (ox : Option Ox)
  /-- vmax.n32 (R79): Unsigned maximum per lane. -/
  | vmaxN32 (f : V3) (ox : Option Ox)
  /-- vabsd.i32 (R79): Exact absolute difference of signed values as an unsigned result. -/
  | vabsdI32 (f : V3) (ox : Option Ox)
  /-- vabsd.n32 (R79): Absolute difference of unsigned values. -/
  | vabsdN32 (f : V3) (ox : Option Ox)
  /-- vmul.i32 (R79): Low 32 bits of the product per lane. -/
  | vmulI32 (f : V3) (ox : Option Ox)
  /-- vmulhi.i32 (R79): High 32 bits of the signed 64-bit product. -/
  | vmulhiI32 (f : V3) (ox : Option Ox)
  /-- vmulhi.n32 (R79): High 32 bits of the unsigned 64-bit product. -/
  | vmulhiN32 (f : V3) (ox : Option Ox)
  /-- vmad.i32 (R80): A times B plus C per lane, low 32 bits. -/
  | vmadI32 (f : V3) (ox : Ox)
  /-- vdp4.i8 (R80): C plus the dot product of four signed bytes. -/
  | vdp4I8 (f : V3) (ox : Ox)
  /-- vdp4.n8 (R80): C plus the dot product of four unsigned bytes. -/
  | vdp4N8 (f : V3) (ox : Ox)
  /-- vdp2.i16 (R80): C plus the dot product of two signed halfwords. -/
  | vdp2I16 (f : V3) (ox : Ox)
  /-- vand.b32 (R81): Bitwise AND per lane. -/
  | vandB32 (f : V3) (ox : Option Ox)
  /-- vor.b32 (R81): Bitwise OR per lane. -/
  | vorB32 (f : V3) (ox : Option Ox)
  /-- vxor.b32 (R81): Bitwise XOR per lane. -/
  | vxorB32 (f : V3) (ox : Option Ox)
  /-- vandn.b32 (R81): A AND NOT B per lane. -/
  | vandnB32 (f : V3) (ox : Option Ox)
  /-- vorn.b32 (R81): A OR NOT B per lane. -/
  | vornB32 (f : V3) (ox : Option Ox)
  /-- vxnor.b32 (R81): NOT (A XOR B) per lane. -/
  | vxnorB32 (f : V3) (ox : Option Ox)
  /-- vshl.b32 (R81): Shift left by B[7:0], zero for counts 32 to 255. -/
  | vshlB32 (f : V3) (ox : Option Ox)
  /-- vshr.n32 (R81): Logical shift right by B[7:0]. -/
  | vshrN32 (f : V3) (ox : Option Ox)
  /-- vshr.i32 (R81): Arithmetic shift right by B[7:0]. -/
  | vshrI32 (f : V3) (ox : Option Ox)
  /-- vrotl.b32 (R81): Rotate left by n mod 32. -/
  | vrotlB32 (f : V3) (ox : Option Ox)
  /-- vrotr.b32 (R81): Rotate right by n mod 32. -/
  | vrotrB32 (f : V3) (ox : Option Ox)
  /-- vpopc.b32 (R82): Counts set bits per lane. -/
  | vpopcB32 (f : V2) (ox : Option Ox)
  /-- vclz.b32 (R82): Counts leading zeros per lane. -/
  | vclzB32 (f : V2) (ox : Option Ox)
  /-- vctz.b32 (R82): Counts trailing zeros per lane. -/
  | vctzB32 (f : V2) (ox : Option Ox)
  /-- vbrev.b32 (R82): Reverses the bits of A per lane. -/
  | vbrevB32 (f : V2) (ox : Option Ox)
  /-- vneg.i32 (R82): Negates A per lane, wrapping. -/
  | vnegI32 (f : V2) (ox : Option Ox)
  /-- vabs.i32 (R82): Absolute value of A per lane, wrapping. -/
  | vabsI32 (f : V2) (ox : Option Ox)
  /-- vmov.b32 (R82): Copies A per lane. -/
  | vmovB32 (f : V2) (ox : Option Ox)
  /-- vnot.b32 (R82): Bitwise NOT of A per lane. -/
  | vnotB32 (f : V2) (ox : Option Ox)
  /-- vbfx.n32 (R83): Extracts a bit field, zero-extended. -/
  | vbfxN32 (f : V3) (ox : Ox)
  /-- vbfx.i32 (R83): Extracts a bit field, sign-extended. -/
  | vbfxI32 (f : V3) (ox : Ox)
  /-- vbfi.b32 (R83): Inserts a bit field of B into A. -/
  | vbfiB32 (f : V3) (ox : Ox)
  /-- vfsh.b32 (R83): Funnel shift of the 64-bit value A:B. -/
  | vfshB32 (f : V3) (ox : Ox)
  /-- vprm.b8 (R83): Byte permute of A and B under selector C. -/
  | vprmB8 (f : V3) (ox : Ox)
  /-- vadd.i32 (R84): Adds a scalar or 6-bit immediate to A per lane. -/
  | vaddI32Vs (f : VS) (ox : Option Ox)
  /-- vsub.i32 (R84): Subtracts a scalar or 6-bit immediate from A per lane. -/
  | vsubI32Vs (f : VS) (ox : Option Ox)
  /-- vmul.i32 (R84): Multiplies A by a scalar or immediate per lane. -/
  | vmulI32Vs (f : VS) (ox : Option Ox)
  /-- vand.b32 (R84): ANDs A with a scalar or immediate. -/
  | vandB32Vs (f : VS) (ox : Option Ox)
  /-- vor.b32 (R84): ORs A with a scalar or immediate. -/
  | vorB32Vs (f : VS) (ox : Option Ox)
  /-- vxor.b32 (R84): XORs A with a scalar or immediate. -/
  | vxorB32Vs (f : VS) (ox : Option Ox)
  /-- vshl.b32 (R84): Shifts A left by a scalar or zero-extended immediate. -/
  | vshlB32Vs (f : VS) (ox : Option Ox)
  /-- vshr.n32 (R84): Shifts A right logically by a scalar or zero-extended immediate. -/
  | vshrN32Vs (f : VS) (ox : Option Ox)
  /-- vadd.i32 (R85): Adds a 32-bit immediate to A per lane. -/
  | vaddI32Vi (f : VI)
  /-- vmul.i32 (R85): Multiplies A by a 32-bit immediate. -/
  | vmulI32Vi (f : VI)
  /-- vand.b32 (R85): ANDs A with a 32-bit immediate. -/
  | vandB32Vi (f : VI)
  /-- vor.b32 (R85): ORs A with a 32-bit immediate. -/
  | vorB32Vi (f : VI)
  /-- vxor.b32 (R85): XORs A with a 32-bit immediate. -/
  | vxorB32Vi (f : VI)
  /-- vmov.b32 (R85): Writes a 32-bit immediate into every active lane. -/
  | vmovB32Vi (f : VM)
  /-- fadd.f32 (R85): FP32 addition of an immediate. -/
  | faddF32Vi (f : VI)
  /-- fmul.f32 (R85): FP32 multiplication by an immediate. -/
  | fmulF32Vi (f : VI)
  /-- cmp.i32 (R86): Signed compare writing one predicate bit per active lane. -/
  | cmpI32 (f : PC) (ox : Option Ox)
  /-- cmp.n32 (R86): Unsigned compare writing one predicate bit per active lane. -/
  | cmpN32 (f : PC) (ox : Option Ox)
  /-- cmp.f32 (R86): FP32 compare writing predicate bits, with NV for ordered comparisons of NaN. -/
  | cmpF32 (f : PC) (ox : Option Ox)
  /-- pand (R87): Predicate AND in active lanes. -/
  | pand (f : PL) (ox : Option Ox)
  /-- por (R87): Predicate OR in active lanes. -/
  | por (f : PL) (ox : Option Ox)
  /-- pxor (R87): Predicate XOR in active lanes. -/
  | pxor (f : PL) (ox : Option Ox)
  /-- pandn (R87): Predicate AND NOT in active lanes. -/
  | pandn (f : PL) (ox : Option Ox)
  /-- pmov (R87): Predicate move in active lanes. -/
  | pmov (f : P1) (ox : Option Ox)
  /-- vote.any (R87): Writes 1 to every active lane if the predicate holds in any active lane. -/
  | voteAny (f : P1) (ox : Option Ox)
  /-- vote.all (R87): Writes 1 to every active lane if the predicate holds in all active lanes. -/
  | voteAll (f : P1) (ox : Option Ox)
  /-- vote.uni (R87): Writes 1 if the predicate is uniform over the active lanes. -/
  | voteUni (f : P1) (ox : Option Ox)
  /-- vsel.b32 (R88): Selects A or B per lane by the predicate named in F. -/
  | vselB32 (sel : BitVec 3) (f : V3) (ox : Option Ox)
  /-- vshfl.idx.b32 (R89): Reads A from the lane indexed by B. -/
  | vshflIdxB32 (f : V3) (ox : Option Ox)
  /-- vshfl.up.b32 (R89): Reads A from lane l minus n, or keeps its own. -/
  | vshflUpB32 (f : V3) (ox : Option Ox)
  /-- vshfl.dn.b32 (R89): Reads A from lane l plus n, or keeps its own. -/
  | vshflDnB32 (f : V3) (ox : Option Ox)
  /-- vshfl.xor.b32 (R89): Reads A from lane l XOR n. -/
  | vshflXorB32 (f : V3) (ox : Option Ox)
  /-- vbcst.b32 (R90): Broadcasts a scalar or immediate to every active lane. -/
  | vbcstB32 (f : VB) (ox : Option Ox)
  /-- vbcst.lane.b32 (R90): Broadcasts lane n of A to every active lane. -/
  | vbcstLaneB32 (f : VS) (ox : Option Ox)
  /-- vget.b32 (R90): Copies lane n of A into a scalar. -/
  | vgetB32 (f : VGet) (ox : Option Ox)
  /-- vrdx.b32 (R91): Reads register A plus a per-lane index. -/
  | vrdxB32 (f : V3) (ox : Option Ox)
  /-- vwrx.b32 (R91): Writes register D plus a per-lane index. -/
  | vwrxB32 (f : V3) (ox : Option Ox)
  /-- cvt.f32.i32 (R98): Converts a signed integer to FP32. -/
  | cvtF32I32 (f : V2) (ox : Option Ox)
  /-- cvt.f32.n32 (R98): Converts an unsigned integer to FP32. -/
  | cvtF32N32 (f : V2) (ox : Option Ox)
  /-- cvt.i32.f32 (R98): Converts FP32 to a signed integer under RM. -/
  | cvtI32F32 (f : V2) (ox : Option Ox)
  /-- cvt.n32.f32 (R98): Converts FP32 to an unsigned integer under RM. -/
  | cvtN32F32 (f : V2) (ox : Option Ox)
  /-- cvt.f16.f32 (R98): Converts FP32 to FP16, stochastically under SRN. -/
  | cvtF16F32 (f : V2) (ox : Option Ox)
  /-- cvt.bf16.f32 (R98): Converts FP32 to BF16, stochastically under SRN. -/
  | cvtBf16F32 (f : V2) (ox : Option Ox)
  /-- cvt.f32.f16 (R98): Converts FP16 exactly to FP32. -/
  | cvtF32F16 (f : V2) (ox : Option Ox)
  /-- cvt.f32.bf16 (R98): Converts BF16 exactly to FP32. -/
  | cvtF32Bf16 (f : V2) (ox : Option Ox)
  /-- cvt.f16x2.f32 (R99): Packs two FP32 values as two FP16 halves. -/
  | cvtF16x2F32 (f : V3) (ox : Option Ox)
  /-- cvt.bf16x2.f32 (R99): Packs two FP32 values as two BF16 halves. -/
  | cvtBf16x2F32 (f : V3) (ox : Option Ox)
  /-- pk.e4m3 (R100): Packs a run of scaled FP32 values as E4M3. -/
  | pkE4m3 (f : V3) (ox : Option Ox)
  /-- pk.e5m2 (R100): Packs a run of scaled FP32 values as E5M2. -/
  | pkE5m2 (f : V3) (ox : Option Ox)
  /-- pk.e3m2 (R100): Packs a run of scaled FP32 values as E3M2. -/
  | pkE3m2 (f : V3) (ox : Option Ox)
  /-- pk.e2m3 (R100): Packs a run of scaled FP32 values as E2M3. -/
  | pkE2m3 (f : V3) (ox : Option Ox)
  /-- pk.e2m1 (R100): Packs eight scaled FP32 values as E2M1. -/
  | pkE2m1 (f : V3) (ox : Option Ox)
  /-- pk.i8 (R100): Packs four scaled FP32 values as INT8. -/
  | pkI8 (f : V3) (ox : Option Ox)
  /-- pk.i4 (R100): Packs eight scaled FP32 values as INT4. -/
  | pkI4 (f : V3) (ox : Option Ox)
  /-- pkq.n8 (R102): Quantises four FP32 values to AQ8 codes with scale and zero point. -/
  | pkqN8 (f : V3) (ox : Ox)
  /-- pkq.n4 (R102): Quantises eight FP32 values to AQ4 codes with scale and zero point. -/
  | pkqN4 (f : V3) (ox : Ox)
  /-- upk.e4m3 (R101): Unpacks E4M3 elements into a run of scaled FP32 values. -/
  | upkE4m3 (f : V3) (ox : Option Ox)
  /-- upk.e5m2 (R101): Unpacks E5M2 elements into scaled FP32 values. -/
  | upkE5m2 (f : V3) (ox : Option Ox)
  /-- upk.e3m2 (R101): Unpacks E3M2 elements into scaled FP32 values. -/
  | upkE3m2 (f : V3) (ox : Option Ox)
  /-- upk.e2m3 (R101): Unpacks E2M3 elements into scaled FP32 values. -/
  | upkE2m3 (f : V3) (ox : Option Ox)
  /-- upk.e2m1 (R101): Unpacks E2M1 elements into scaled FP32 values. -/
  | upkE2m1 (f : V3) (ox : Option Ox)
  /-- upk.i8 (R101): Unpacks INT8 elements into scaled FP32 values. -/
  | upkI8 (f : V3) (ox : Option Ox)
  /-- upk.i4 (R101): Unpacks INT4 elements into scaled FP32 values. -/
  | upkI4 (f : V3) (ox : Option Ox)
  /-- upk.n8 (R103): Restores four FP32 values from AQ8 codes with scale and zero point. -/
  | upkN8 (f : V3) (ox : Option Ox)
  /-- upk.n4 (R103): Restores eight FP32 values from AQ4 codes with scale and zero point. -/
  | upkN4 (f : V3) (ox : Option Ox)
  /-- sadd.iW (R104): Scalar addition of a 32-bit immediate. -/
  | saddIwSi (f : SI)
  /-- sand.bW (R104): Scalar AND with a 32-bit immediate. -/
  | sandBwSi (f : SI)
  /-- sor.bW (R104): Scalar OR with a 32-bit immediate. -/
  | sorBwSi (f : SI)
  /-- sxor.bW (R104): Scalar XOR with a 32-bit immediate. -/
  | sxorBwSi (f : SI)
  /-- smov.bW (R104): Writes a 32-bit immediate into a scalar. -/
  | smovBw (f : SM)
  /-- smul.iW (R104): Scalar multiplication by a 32-bit immediate. -/
  | smulIwSi (f : SI)
  /-- fadd.f32 (R92): FP32 addition per lane under RM and FTZ. -/
  | faddF32 (f : V3) (ox : Option Ox)
  /-- fsub.f32 (R92): FP32 subtraction per lane. -/
  | fsubF32 (f : V3) (ox : Option Ox)
  /-- fmul.f32 (R92): FP32 multiplication per lane. -/
  | fmulF32 (f : V3) (ox : Option Ox)
  /-- fmin.f32 (R92): FP32 minimum, NaN-avoiding, no flag. -/
  | fminF32 (f : V3) (ox : Option Ox)
  /-- fmax.f32 (R92): FP32 maximum, NaN-avoiding, no flag. -/
  | fmaxF32 (f : V3) (ox : Option Ox)
  /-- fabs.f32 (R92): Clears the sign bit of A. -/
  | fabsF32 (f : V2) (ox : Option Ox)
  /-- fneg.f32 (R92): Inverts the sign bit of A. -/
  | fnegF32 (f : V2) (ox : Option Ox)
  /-- fsgn.f32 (R92): A with the sign bit of B. -/
  | fsgnF32 (f : V3) (ox : Option Ox)
  /-- ffma.f32 (R93): Fused A times B plus C, one rounding. -/
  | ffmaF32 (f : V3) (ox : Ox)
  /-- ffms.f32 (R93): Fused A times B minus C, one rounding. -/
  | ffmsF32 (f : V3) (ox : Ox)
  /-- fnfma.f32 (R93): Fused minus A times B plus C. -/
  | fnfmaF32 (f : V3) (ox : Ox)
  /-- fnfms.f32 (R93): Fused minus A times B minus C. -/
  | fnfmsF32 (f : V3) (ox : Ox)
  /-- hadd.f16x2 (R94): Packed FP16 addition of two halves. -/
  | haddF16x2 (f : V3) (ox : Option Ox)
  /-- hmul.f16x2 (R94): Packed FP16 multiplication. -/
  | hmulF16x2 (f : V3) (ox : Option Ox)
  /-- hmin.f16x2 (R94): Packed FP16 minimum. -/
  | hminF16x2 (f : V3) (ox : Option Ox)
  /-- hmax.f16x2 (R94): Packed FP16 maximum. -/
  | hmaxF16x2 (f : V3) (ox : Option Ox)
  /-- hadd.bf16x2 (R94): Packed BF16 addition. -/
  | haddBf16x2 (f : V3) (ox : Option Ox)
  /-- hmul.bf16x2 (R94): Packed BF16 multiplication. -/
  | hmulBf16x2 (f : V3) (ox : Option Ox)
  /-- hmin.bf16x2 (R94): Packed BF16 minimum. -/
  | hminBf16x2 (f : V3) (ox : Option Ox)
  /-- hmax.bf16x2 (R94): Packed BF16 maximum. -/
  | hmaxBf16x2 (f : V3) (ox : Option Ox)
  /-- hfma.f16x2 (R95): Packed FP16 fused multiply-add. -/
  | hfmaF16x2 (f : V3) (ox : Ox)
  /-- hfma.bf16x2 (R95): Packed BF16 fused multiply-add. -/
  | hfmaBf16x2 (f : V3) (ox : Ox)
  /-- hdot2.f32.f16x2 (R95): Two-term FP16 dot product plus FP32 C, one rounding. -/
  | hdot2F32F16x2 (f : V3) (ox : Ox)
  /-- hdot2.f32.bf16x2 (R95): Two-term BF16 dot product plus FP32 C, one rounding. -/
  | hdot2F32Bf16x2 (f : V3) (ox : Ox)
  /-- frnd.f32 (R96): Rounds A to an integral value under RM. -/
  | frndF32 (f : V2) (ox : Option Ox)
  /-- ffloor.f32 (R96): Rounds A towards minus infinity. -/
  | ffloorF32 (f : V2) (ox : Option Ox)
  /-- fceil.f32 (R96): Rounds A towards plus infinity. -/
  | fceilF32 (f : V2) (ox : Option Ox)
  /-- ftrunc.f32 (R96): Rounds A towards zero. -/
  | ftruncF32 (f : V2) (ox : Option Ox)
  /-- ffract.f32 (R96): A minus floor(A), rounded once. -/
  | ffractF32 (f : V2) (ox : Option Ox)
  /-- fclass.f32 (R96): Writes a one-hot class mask of A. -/
  | fclassF32 (f : V2) (ox : Option Ox)
  /-- fadd.f32 (R85): FP32 addition of a scalar operand. -/
  | faddF32Vs (f : VX) (ox : Option Ox)
  /-- fmul.f32 (R85): FP32 multiplication by a scalar operand. -/
  | fmulF32Vs (f : VX) (ox : Option Ox)
  /-- fmin.f32 (R85): FP32 minimum with a scalar operand. -/
  | fminF32Vs (f : VX) (ox : Option Ox)
  /-- fmax.f32 (R85): FP32 maximum with a scalar operand. -/
  | fmaxF32Vs (f : VX) (ox : Option Ox)
  /-- sadd.iW (R104): Scalar addition, 32 or 64 bits. -/
  | saddIw (f : S3)
  /-- ssub.iW (R104): Scalar subtraction. -/
  | ssubIw (f : S3)
  /-- smul.iW (R104): Scalar multiplication, low bits. -/
  | smulIw (f : S3)
  /-- sand.bW (R104): Scalar AND. -/
  | sandBw (f : S3)
  /-- sor.bW (R104): Scalar OR. -/
  | sorBw (f : S3)
  /-- sxor.bW (R104): Scalar XOR. -/
  | sxorBw (f : S3)
  /-- sshl.bW (R104): Scalar shift left. -/
  | sshlBw (f : S3)
  /-- sshr.nW (R104): Scalar logical shift right. -/
  | sshrNw (f : S3)
  /-- sshr.iW (R104): Scalar arithmetic shift right. -/
  | sshrIw (f : S3)
  /-- smin.iW (R104): Scalar signed minimum. -/
  | sminIw (f : S3)
  /-- smax.iW (R104): Scalar signed maximum. -/
  | smaxIw (f : S3)
  /-- smin.nW (R104): Scalar unsigned minimum. -/
  | sminNw (f : S3)
  /-- smax.nW (R104): Scalar unsigned maximum. -/
  | smaxNw (f : S3)
  /-- sseq.bW (R104): Writes 1 if A equals B, else 0. -/
  | sseqBw (f : S3)
  /-- sslt.iW (R104): Writes 1 if A is less than B, signed. -/
  | ssltIw (f : S3)
  /-- sslt.nW (R104): Writes 1 if A is less than B, unsigned. -/
  | ssltNw (f : S3)
  /-- frcp.f32 (R97): Reciprocal within 1 ulp. -/
  | frcpF32 (f : V2) (ox : Option Ox)
  /-- frsq.f32 (R97): Reciprocal square root within 1 ulp. -/
  | frsqF32 (f : V2) (ox : Option Ox)
  /-- fsqrt.f32 (R97): Square root rounded under RM. -/
  | fsqrtF32 (f : V2) (ox : Option Ox)
  /-- fexp2.f32 (R97): Base-2 exponential within 2 ulp. -/
  | fexp2F32 (f : V2) (ox : Option Ox)
  /-- flog2.f32 (R97): Base-2 logarithm within 2 ulp. -/
  | flog2F32 (f : V2) (ox : Option Ox)
  /-- fsin.f32 (R97): Sine with absolute error 2^-22. -/
  | fsinF32 (f : V2) (ox : Option Ox)
  /-- fcos.f32 (R97): Cosine with absolute error 2^-22. -/
  | fcosF32 (f : V2) (ox : Option Ox)
  /-- ftanh.f32 (R97): Hyperbolic tangent within 2 ulp. -/
  | ftanhF32 (f : V2) (ox : Option Ox)
  /-- fdiv.f32 (R97): Division rounded under RM. -/
  | fdivF32 (f : V3) (ox : Option Ox)
  /-- fatan2.f32 (R97): Angle of the point (B, A) within 2 ulp. -/
  | fatan2F32 (f : V3) (ox : Option Ox)
  /-- ldg.n8 (R127): Per-lane global load of a byte, zero-extended. -/
  | ldgN8 (f : M) (ox : Option Ox)
  /-- ldg.i8 (R127): Per-lane global load of a byte, sign-extended. -/
  | ldgI8 (f : M) (ox : Option Ox)
  /-- ldg.n16 (R127): Per-lane global load of a halfword, zero-extended. -/
  | ldgN16 (f : M) (ox : Option Ox)
  /-- ldg.i16 (R127): Per-lane global load of a halfword, sign-extended. -/
  | ldgI16 (f : M) (ox : Option Ox)
  /-- ldg.b32 (R127): Per-lane global load of a word. -/
  | ldgB32 (f : M) (ox : Option Ox)
  /-- ldg.b64 (R127): Per-lane global load of 8 bytes into a run of 2. -/
  | ldgB64 (f : M) (ox : Option Ox)
  /-- ldg.b128 (R127): Per-lane global load of 16 bytes into a run of 4. -/
  | ldgB128 (f : M) (ox : Option Ox)
  /-- stg.b8 (R127): Per-lane global store of a byte. -/
  | stgB8 (f : M) (ox : Option Ox)
  /-- stg.b16 (R127): Per-lane global store of a halfword. -/
  | stgB16 (f : M) (ox : Option Ox)
  /-- stg.b32 (R127): Per-lane global store of a word. -/
  | stgB32 (f : M) (ox : Option Ox)
  /-- stg.b64 (R127): Per-lane global store of a run of 2. -/
  | stgB64 (f : M) (ox : Option Ox)
  /-- stg.b128 (R127): Per-lane global store of a run of 4. -/
  | stgB128 (f : M) (ox : Option Ox)
  /-- ldg.t.b32 (R129): Global word load whose untranslated lanes miss and are reported in the guard predicate. -/
  | ldgTB32 (f : M) (ox : Option Ox)
  /-- ldg.t.b64 (R129): Translation-tolerant 8-byte load. -/
  | ldgTB64 (f : M) (ox : Option Ox)
  /-- ldg.t.b128 (R129): Translation-tolerant 16-byte load. -/
  | ldgTB128 (f : M) (ox : Option Ox)
  /-- lds.b32 (R127): Per-lane scratchpad load of a word. -/
  | ldsB32 (f : M) (ox : Option Ox)
  /-- lds.b64 (R127): Per-lane scratchpad load of 8 bytes. -/
  | ldsB64 (f : M) (ox : Option Ox)
  /-- lds.b128 (R127): Per-lane scratchpad load of 16 bytes. -/
  | ldsB128 (f : M) (ox : Option Ox)
  /-- sts.b32 (R127): Per-lane scratchpad store of a word. -/
  | stsB32 (f : M) (ox : Option Ox)
  /-- sts.b64 (R127): Per-lane scratchpad store of 8 bytes. -/
  | stsB64 (f : M) (ox : Option Ox)
  /-- sts.b128 (R127): Per-lane scratchpad store of 16 bytes. -/
  | stsB128 (f : M) (ox : Option Ox)
  /-- ldu.b32 (R128): Uniform load of 4 bytes into a scalar. -/
  | lduB32 (f : MS) (ox : Option Ox)
  /-- ldu.b64 (R128): Uniform load of 8 bytes into a scalar. -/
  | lduB64 (f : MS) (ox : Option Ox)
  /-- ldu.b128 (R128): Uniform load of 16 bytes into a scalar run. -/
  | lduB128 (f : MS) (ox : Option Ox)
  /-- ldu.b256 (R128): Uniform load of 32 bytes into a scalar run. -/
  | lduB256 (f : MS) (ox : Option Ox)
  /-- ldu.b512 (R128): Uniform load of 64 bytes into a scalar run. -/
  | lduB512 (f : MS) (ox : Option Ox)
  /-- stu.b32 (R128): Uniform store of a scalar's low word. -/
  | stuB32 (f : MS) (ox : Option Ox)
  /-- stu.b64 (R128): Uniform store of a scalar. -/
  | stuB64 (f : MS) (ox : Option Ox)
  /-- atom.add.i32 (R131): Atomic add per lane returning the old word. -/
  | atomAddI32 (f : M) (ox : Option Ox)
  /-- atom.min.i32 (R131): Atomic signed minimum. -/
  | atomMinI32 (f : M) (ox : Option Ox)
  /-- atom.max.i32 (R131): Atomic signed maximum. -/
  | atomMaxI32 (f : M) (ox : Option Ox)
  /-- atom.min.n32 (R131): Atomic unsigned minimum. -/
  | atomMinN32 (f : M) (ox : Option Ox)
  /-- atom.max.n32 (R131): Atomic unsigned maximum. -/
  | atomMaxN32 (f : M) (ox : Option Ox)
  /-- atom.and.b32 (R131): Atomic AND. -/
  | atomAndB32 (f : M) (ox : Option Ox)
  /-- atom.or.b32 (R131): Atomic OR. -/
  | atomOrB32 (f : M) (ox : Option Ox)
  /-- atom.xor.b32 (R131): Atomic XOR. -/
  | atomXorB32 (f : M) (ox : Option Ox)
  /-- atom.xchg.b32 (R131): Atomic exchange of a word. -/
  | atomXchgB32 (f : M) (ox : Option Ox)
  /-- atom.cas.b32 (R131): Atomic compare-and-swap of a word. -/
  | atomCasB32 (f : M) (ox : Ox)
  /-- atom.add.i64 (R131): Atomic 64-bit add. -/
  | atomAddI64 (f : M) (ox : Option Ox)
  /-- atom.xchg.b64 (R131): Atomic 64-bit exchange. -/
  | atomXchgB64 (f : M) (ox : Option Ox)
  /-- atom.cas.b64 (R131): Atomic 64-bit compare-and-swap. -/
  | atomCasB64 (f : M) (ox : Ox)
  /-- red.add.f32 (R134): Contributes each lane's FP32 value to a deterministic reduction tree. -/
  | redAddF32 (f : M) (ox : Option Ox)
  /-- red.add.bf16x2 (R134): Packed BF16 reduction contribution. -/
  | redAddBf16x2 (f : M) (ox : Option Ox)
  /-- red.add.i32 (R134): 32-bit integer reduction contribution. -/
  | redAddI32 (f : M) (ox : Option Ox)
  /-- red.add.i64 (R134): 64-bit integer reduction contribution. -/
  | redAddI64 (f : M) (ox : Option Ox)
  /-- red.min.f32 (R134): FP32 minimum reduction contribution. -/
  | redMinF32 (f : M) (ox : Option Ox)
  /-- red.max.f32 (R134): FP32 maximum reduction contribution. -/
  | redMaxF32 (f : M) (ox : Option Ox)
  /-- pf.l1 (R130): Prefetches each lane's line into the core L1. -/
  | pfL1 (f : MP) (ox : Option Ox)
  /-- pf.l2 (R130): Prefetches each lane's line into its home L2 slice. -/
  | pfL2 (f : MP) (ox : Option Ox)
  /-- pf.rdc (R130): Prefetches each lane's line into the remote-data cache. -/
  | pfRdc (f : MP) (ox : Option Ox)
  /-- acq (R137): Acquire at a scope: self-invalidates the core's unregistered copies and holds later memory instructions. -/
  | acq (f : MQ) (ox : Option Ox)
  /-- rel (R137): Release at a scope of a synchronisation variable, registering dirty words at their homes. -/
  | rel (f : MQ) (ox : Option Ox)
  /-- acqrel (R138): A release immediately followed by an acquire of the same variable. -/
  | acqrel (f : MQ) (ox : Option Ox)
  /-- inv.rgn (R141): Self-invalidates the lines of an address range at a scope. -/
  | invRgn (f : MR) (ox : Option Ox)
  /-- bar.init (R142): Sets a barrier word's expected count and clears its arrivals. -/
  | barInit (f : MA) (ox : Option Ox)
  /-- bar.arr (R142): Arrives at a barrier word and returns the prior phase. -/
  | barArr (f : MA) (ox : Option Ox)
  /-- bar.wait (R142): Completes when the barrier phase differs from a given phase. -/
  | barWait (f : MA) (ox : Option Ox)
  /-- bar.sync (R142): Arrives and completes when the phase inverts. -/
  | barSync (f : MB) (ox : Option Ox)
  /-- drain.sp (R144): Completes when the core's earlier scratchpad writes are performed. -/
  | drainSp (ctr : BitVec 3) (ox : Option Ox)
  /-- drain.loc (R144): Completes when earlier writes to local device memory are performed. -/
  | drainLoc (ctr : BitVec 3) (ox : Option Ox)
  /-- drain.twin (R144): Completes when earlier writes to twin memory are performed. -/
  | drainTwin (ctr : BitVec 3) (ox : Option Ox)
  /-- drain.host (R144): Completes when earlier writes to host memory are performed. -/
  | drainHost (ctr : BitVec 3) (ox : Option Ox)
  /-- logmark (R145): Appends, checks or ignores a mark record depending on the log mode. -/
  | logmark (f : MB) (ox : Option Ox)
  /-- bra (R106): Branches the slot when the guard holds in every lane of EXEC. -/
  | bra (f : B)
  /-- bra.any (R106): Branches the slot when the guard holds in any lane of EXEC. -/
  | braAny (f : B)
  /-- split (R110): Divides a slot by its guard into two running slots with a join, pushing the split stack. -/
  | split (f : B) (join : BitVec 20)
  /-- call (R107): Writes the return header into s63 and transfers the slot. -/
  | call (f : B)
  /-- ret (R107): Moves the slot to the address in s63. -/
  | ret
  /-- exit (R108): Ends every lane of the issuing slot and empties it. -/
  | exit
  /-- yield (R108): Yield hint with no architectural effect. -/
  | yield
  /-- nop (R108): No effect. -/
  | nop
  /-- brx (R107): Moves the slot to the address in a scalar. -/
  | brx (d : BitVec 6)
  /-- trap (R114): Raises software trap 0x61 for every lane of EXEC with a code. -/
  | trap (code : BitVec 8)
  /-- brk (R114): Raises breakpoint 0x60, or halts for the debugger when debugging is enabled. -/
  | brk (code : BitVec 8)
  /-- tret.skip (R115): Leaves the handler, restoring state from the frame and resuming after the faulting word. -/
  | tretSkip
  /-- tret.retry (R115): Leaves the handler and resumes at the faulting word. -/
  | tretRetry
  /-- reggrow (R117): Requests a larger register allocation, holding the group until granted. -/
  | reggrow (code : BitVec 8)
  /-- regshrink (R117): Reduces the register allocation and returns granules. -/
  | regshrink (code : BitVec 8)
  /-- pushc (R149): Checks and sends a 64-byte command from eight scalars to a copy engine or the launch unit. -/
  | pushc (f : E) (ox : Option Ox)
  /-- qbind.in (R164): Binds a queue register and window to an input engine port. -/
  | qbindIn (f : EQ) (ox : Option Ox)
  /-- qbind.out (R164): Binds a queue register and window to an output engine port. -/
  | qbindOut (f : EQ) (ox : Option Ox)
  /-- qfree (R166): Unbinds a queue register and discards its elements. -/
  | qfree (f : EF) (ox : Option Ox)
  /-- mloop (R170): Checks the format word and descriptor and submits an accumulation loop to a quadrant. -/
  | mloop (f : E) (ox : Ox)
  /-- mscale (R172): Writes scale entries into a bank's scale ring for one operand. -/
  | mscale (f : E) (ox : Ox)
  /-- mzero (R167): Claims an accumulator bank and requests its zeroing. -/
  | mzero (f : EZ) (ox : Option Ox)
  /-- mdrain.q (R173): Drains a bank region into a queue register. -/
  | mdrainQ (f : EN) (ox : Option Ox)
  /-- mdrain.sp (R173): Drains a bank region into scratchpad. -/
  | mdrainSp (f : EN) (ox : Option Ox)
  /-- mstat (R174): Writes the quadrant's status into a scalar. -/
  | mstat (f : EN) (ox : Option Ox)
  /-- mpath (R175): Merge-path search of two sequences per lane. -/
  | mpath (f : EP) (ox : Ox)
  /-- rsv (R193): Requests ray-record reservations for the group's lanes. -/
  | rsv (f : YA) (ox : Option Ox)
  /-- spwn (R190): Creates a new ray per active lane from geometry, template and payload. -/
  | spwn (f : Y) (ox : Option Ox)
  /-- trace (R188): Re-aims the lane's own ray and sets disposition TRACE. -/
  | trace (f : YT) (ox : Option Ox)
  /-- epend (R184): Ends every lane of the slot so the episode can end. -/
  | epend (ctr : BitVec 3) (ox : Option Ox)
  /-- hitattr (R187): Reads an attribute of the lane's hit. -/
  | hitattr (f : YK) (ox : Option Ox)
  /-- rayget (R186): Reads a word of the lane's ray record. -/
  | rayget (f : YK) (ox : Option Ox)
  /-- rayset (R186): Writes a word of the lane's ray record, checking words 8 and 9. -/
  | rayset (f : YK) (ox : Option Ox)
  /-- accum (R197): Adds four samples to channels 0-3 of the ray's pixel. -/
  | accum (f : YD) (ox : Option Ox)
  /-- accum.px (R197): Adds four samples to channels 0-3 of a per-lane pixel. -/
  | accumPx (f : YA) (ox : Option Ox)
  /-- accaux (R197): Adds four samples to channels 4-7 of the ray's pixel. -/
  | accaux (f : YD) (ox : Option Ox)
  /-- accaux.px (R197): Adds four samples to channels 4-7 of a per-lane pixel. -/
  | accauxPx (f : YA) (ox : Option Ox)
  /-- ahit.accept (R196): Accepts the any-hit candidate. -/
  | ahitAccept (ctr : BitVec 3) (ox : Option Ox)
  /-- ahit.accept.end (R196): Accepts the candidate and ends traversal. -/
  | ahitAcceptEnd (ctr : BitVec 3) (ox : Option Ox)
  /-- ahit.ignore (R196): Discards the any-hit candidate. -/
  | ahitIgnore (ctr : BitVec 3) (ox : Option Ox)
  /-- tlpf (R198): Requests treelets into their owning hamlet's treelet cache. -/
  | tlpf (f : YT) (ox : Option Ox)
  /-- poolst (R199): Reads a pool count into a scalar. -/
  | poolst (f : YS) (ox : Option Ox)
  /-- dntile (R201): Hands a finished accumulation tile to a quadrant as a denoise. -/
  | dntile (f : YN) (ox : Option Ox)
  /-- rdsys (R118): Reads a named system register. -/
  | rdsys (f : X)
  /-- wrsys (R118): Writes a named system register. -/
  | wrsys (f : X)
  /-- CLAUSE_START (R387): An issue slot starts a candidate clause: fetches header and words and raises fetch faults. -/
  | clauseStart (core iss : Nat)
  /-- RUN_AHEAD_TIMEOUT (R280): Run-ahead ends 2,048 clocks after the fault. -/
  | runAheadTimeout (core slot : Nat)
  /-- FAULT_REISSUE (R279): After all verdicts, the faulting instruction reissues for its faulting lanes. -/
  | faultReissue (core slot : Nat)
  /-- LOAD_COMPLETE (R121): A load's data reaches its destination lanes and its counter decrements. -/
  | loadComplete (core slot id : Nat)
  /-- STORE_COMPLETE (R121): A store is performed or accepted and its counter decrements. -/
  | storeComplete (core slot id : Nat)
  /-- REL_BEGIN (R138): A release begins once earlier accesses complete, sending registrations. -/
  | relBegin (core slot : Nat)
  /-- ACQ_COMPLETE (R138): An acquire's self-invalidation finishes and held instructions may issue. -/
  | acqComplete (core slot : Nat)
  /-- RDQ (R320): A read request for a line arrives at its home. -/
  | rdq (src dst : Agent)
  /-- DATA (R320): A fill with VAL values arrives at the requester. -/
  | data (src dst : Agent)
  /-- FWD (R320): A forwarded read arrives at the owner. -/
  | fwd (src dst : Agent)
  /-- FREP (R320): The owner's answer arrives at the requester. -/
  | frep (src dst : Agent)
  /-- REG (R322): A registration of full dirty words arrives at the home. -/
  | reg (src dst : Agent)
  /-- MRG (R322): A merge of partial dirty bytes arrives at the home. -/
  | mrg (src dst : Agent)
  /-- MFWD (R322): A merge forwarded to the owner arrives. -/
  | mfwd (src dst : Agent)
  /-- RACK (R321): Acknowledgement of a registration arrives. -/
  | rack (src dst : Agent)
  /-- MACK (R321): Acknowledgement of a merge arrives. -/
  | mack (src dst : Agent)
  /-- WB (R324): A write-back arrives at the home. -/
  | wb (src dst : Agent)
  /-- WACK (R324): Acknowledgement of a write-back frees the holding entry. -/
  | wack (src dst : Agent)
  /-- ATQ (R328): An eager registration for an atomic arrives at the home. -/
  | atq (src dst : Agent)
  /-- XFER (R327): A transfer without value invalidates the old owner's copy. -/
  | xfer (src dst : Agent)
  /-- XFERV (R327): A transfer with value makes the old owner send AVAL. -/
  | xferv (src dst : Agent)
  /-- AVAL (R327): The value arrives at the new owner, which performs its atomic. -/
  | aval (src dst : Agent)
  /-- RCL (R325): A recall before L2 eviction makes the owner write back. -/
  | rcl (src dst : Agent)
  /-- L1_EVICT (R324): An L1 evicts a word by its state, waiting for a holding entry when needed. -/
  | l1Evict (core word : Nat)
  /-- L2_EVICT (R325): An L2 slice recalls owned words and evicts a line. -/
  | l2Evict (line : Nat)
  /-- RDC_EVICT (R333): The RDC writes back an evicted twin or host line. -/
  | rdcEvict (line : Nat)
  /-- HOST_READ (R308): A host read through CXL.mem returns the newest value, forwarded from an owner. -/
  | hostRead (addr : Nat)
  /-- HOST_WRITE (R334): A host write through CXL.mem installs its value and transfers ownership. -/
  | hostWrite (addr : Nat) (val : BitVec 32)
  /-- HOST_SNOOP (R333): A host snoop is answered from the RDC. -/
  | hostSnoop (line : Nat)
  /-- BIAS_MERGE (R286): Sibling bias regions merge after 65,536 clocks without conflict. -/
  | biasMerge (base : Nat)
  /-- SYNC_TABLE_OP (R314): An acquire or release operation is performed on a sync-variable table entry. -/
  | syncTableOp
  /-- RED_NODE_FOLD (R331): A reduction node folds a closed child in its turn. -/
  | redNodeFold (idx : Nat)
  /-- PAGE_WALK_START (R277): A walker takes a request from the hamlet walk queue. -/
  | pageWalkStart (hamlet : Nat)
  /-- PAGE_WALK_COMPLETE (R276): A walk finishes and fills the TLBs or finds the page absent. -/
  | pageWalkComplete (hamlet ctx page : Nat)
  /-- GROUP_END (R108): A group with empty slots and stack ends and frees its registers once counters are zero. -/
  | groupEnd (core slot : Nat)
  /-- EPISODE_END (R185): An episode writes back payloads, disposes rays and waits or ends. -/
  | episodeEnd (core slot : Nat)
  /-- WAIT_GROUP_TIMEOUT (R185): A waiting episode group ends after 2,048 clocks without a wave. -/
  | waitGroupTimeout (core slot : Nat)
  /-- WAVE_DISPATCH (R215): A ready shading bin forms a wave and dispatches it to a group. -/
  | waveDispatch
  /-- BIN_AGE_READY (R214): A shading bin becomes ready when its oldest ray has waited 2,048 clocks. -/
  | binAgeReady (idx : Nat)
  /-- REGGROW_GRANT (R117): The core grants granules to a waiting REGGROW. -/
  | reggrowGrant (core : Nat)
  /-- REGSHRINK_DONE (R117): A regshrink takes effect once no load targets the freed registers. -/
  | regshrinkDone (core slot : Nat)
  /-- RSV_GRANT (R194): The oldest waiting reservation is granted once capacity allows. -/
  | rsvGrant (ctx : Nat)
  /-- POOL_DRAIN_TIMEOUT (R194): After 4,096 clocks with all episode groups blocked, the oldest rsv gets a zero grant. -/
  | poolDrainTimeout (ctx : Nat)
  /-- GEN_RAY_CREATE (R242): The launch unit creates the next generation ray when capacity allows. -/
  | genRayCreate (ctx grid : Nat)
  /-- TREELET_FETCH_START (R223): A treelet fetch into its owner's slice starts on a trigger. -/
  | treeletFetchStart (ctx grid treelet : Nat)
  /-- TREELET_AGE_EXPIRE (R223): A traversal bin's oldest ray has waited 2,048 clocks, triggering a fetch. -/
  | treeletAgeExpire (ctx grid treelet : Nat)
  /-- TREELET_FETCH_COMPLETE (R223): A treelet becomes resident and its bin's rays go to traversal. -/
  | treeletFetchComplete (ctx grid treelet : Nat)
  /-- TRAVERSE (R226): A ray traverses resident treelets depth first. -/
  | traverse (ray : Nat)
  /-- RAY_SPILL (R210): The device moves a ray record to the spill region. -/
  | raySpill (ray : Nat)
  /-- RAY_UNSPILL (R211): A spilled record returns on die and is checked. -/
  | rayUnspill (ray : Nat)
  /-- TILE_RETIRE (R240): A tile merges into the accumulation image and resolve, releases, and frees its place. -/
  | tileRetire (ctx tile : Nat)
  /-- TILE_ADD_RESUME (R241): An addition waiting on a retirement lands in the tile's place. -/
  | tileAddResume
  /-- COPY (R154): A copy engine copies LEN bytes from source to destination. -/
  | copy (eng : Nat)
  /-- TCOPY (R156): A copy engine copies a tensor element by element. -/
  | tcopy (eng : Nat)
  /-- GATHER (R155): A copy engine gathers indexed table rows. -/
  | gather (eng : Nat)
  /-- SCATTER (R155): A copy engine scatters rows to indexed table rows. -/
  | scatter (eng : Nat)
  /-- FILL (R154): A copy engine fills a range with a 64-bit pattern. -/
  | fill (eng : Nat)
  /-- LAUNCH (R158): The launch unit places a launch record into a hardware launch queue. -/
  | launch
  /-- PRDX (R159): A copy engine contributes an element-wise pair reduction. -/
  | prdx (eng : Nat)
  /-- PRDX_COMBINE (R159): The home device combines the two PRDX contributions. -/
  | prdxCombine (idx : Nat)
  /-- ENGINE_CMD_COMPLETE (R162): A command completes, releases, writes the status word and arrives. -/
  | engineCmdComplete (unit id : Nat)
  /-- BANK_ZERO (R167): A bank is zeroed once earlier loops on it complete. -/
  | bankZero (quad bank : Nat)
  /-- MLOOP_START (R171): An accepted loop reads its tensor records and checks them. -/
  | mloopStart (quad : Nat)
  /-- MATRIX_STEP_START (R268): The sequencer starts the next step of the chosen loop. -/
  | matrixStepStart (quad : Nat)
  /-- MATRIX_STEP_END (R70): A step's block sum is accumulated into the bank; a finished loop signals. -/
  | matrixStepEnd (quad : Nat)
  /-- MDRAIN_READ (R173): A drain reads the bank after earlier loops and delivers converted elements. -/
  | mdrainRead (quad : Nat)
  /-- DENOISE_START (R364): A denoise zeroes the bank, reads its tile and runs three steps. -/
  | denoiseStart (quad : Nat)
  /-- LAUNCH_WINDOW (R260): Every 16 clocks the launch unit places at most one cluster. -/
  | launchWindow
  /-- HEAD_AGED (R262): A head waiting AGE clocks reserves its hamlets. -/
  | headAged (queue : Nat)
  /-- ISSUE_PROMOTE (R266): A group starved for 4,096 clocks gets effective class 0. -/
  | issuePromote (core slot : Nat)
  /-- GRID_COMPLETE (R264): The launch unit releases the grid's cores and signals completion. -/
  | gridComplete (ctx grid : Nat)
  /-- QUEUE_DOORBELL (R250): A write of WR makes new launch records available. -/
  | queueDoorbell (queue : Nat) (wr : BitVec 32)
  /-- QUEUE_STP_CLEAR (R257): Clearing STP lets a stopped queue be taken again. -/
  | queueStpClear (queue : Nat)
  /-- CMD_DOORBELL (R288): A write of KWR makes new host commands available. -/
  | cmdDoorbell (kwr : BitVec 32)
  /-- LOG_TAIL_WRITE (R344): Advancing TAIL frees ring space and writes stalled records. -/
  | logTailWrite (ctx : Nat) (tail : BitVec 32)
  /-- HOST_REG_WRITE (R287): A host write to a host-function register without a row of its own. -/
  | hostRegWrite (off size : Nat) (val : BitVec 64)
  /-- CTXCREATE (R289): Makes a context live with reset settings. -/
  | ctxcreate
  /-- CTXDESTROY (R289): Force-resets a context and frees its resources. -/
  | ctxdestroy
  /-- SETCTX_TRANS (R290): Applies or rejects the staged page-table root. -/
  | setctxTrans
  /-- SETCTX_TRAP (R290): Applies or rejects the handler address and frame base. -/
  | setctxTrap
  /-- SETCTX_LOG (R337): Applies or rejects the log mode and descriptor. -/
  | setctxLog
  /-- SETCTX_RAY (R209): Applies or rejects pool share, spill region and sort settings. -/
  | setctxRay
  /-- SETCTX_PFX (R290): Applies or rejects prefetcher settings. -/
  | setctxPfx
  /-- SETCTX_FRAME (R235): Applies or rejects the frame descriptor. -/
  | setctxFrame
  /-- SETCTX_DBG (R290): Applies or rejects the debug enable. -/
  | setctxDbg
  /-- INVAL (R283): Starts a range invalidation of a context's translations. -/
  | inval
  /-- INVAL_COMPLETE (R283): An invalidation completes once no TLB holds the range and old accesses are performed. -/
  | invalComplete (idx : Nat)
  /-- VERDICT_RESOLVED (R373): Marks a faulting page resolved so its waiters proceed. -/
  | verdictResolved
  /-- VERDICT_GIVEN_UP (R373): Marks a faulting page given up so its waiters fault. -/
  | verdictGivenUp
  /-- PREEMPT (R374): Stops a context's launches and dispatch and lets its work drain. -/
  | preempt
  /-- PREEMPT_COMPLETE (R374): No work of the context remains; KIND 0x12 is reported. -/
  | preemptComplete (ctx : Nat)
  /-- PREEMPT_DEADLINE (R375): The deadline passes and the context is force-reset. -/
  | preemptDeadline (ctx : Nat)
  /-- RESET (R375): Orders a forced reset of the context. -/
  | reset
  /-- RESUME_PREEMPT (R289): Lifts a context's pre-emption stops. -/
  | resumePreempt
  /-- RESUME_HALT (R377): Ends a debug halt of named groups. -/
  | resumeHalt
  /-- HALT (R377): Requests a debug halt of one or all groups of a context. -/
  | halt
  /-- HALT_COMPLETE (R377): Every named group has halted; KIND 0x11 is reported. -/
  | haltComplete (ctx : Nat)
  /-- STEP (R289): Lets a halted group issue one clause and halt again. -/
  | step
  /-- DBGREAD (R291): Copies selected state of a halted group to a buffer. -/
  | dbgread
  /-- DBGWRITE (R291): Copies a buffer into selected state of a halted group. -/
  | dbgwrite
  /-- RAYSAVE (R376): Moves a pre-empted context's on-die rays to its spill region. -/
  | raysave
  /-- BANKSAVE (R376): Saves a held bank as an image and releases it. -/
  | banksave
  /-- BANKLOAD (R376): Claims a bank and restores an image into it. -/
  | bankload
  /-- TILEFLUSH (R239): Retires every accumulation tile of the context. -/
  | tileflush
  /-- TILECLEAR (R239): Empties the context's tile places without retirement. -/
  | tileclear
  /-- SALVAGE (R336): Copies orphaned words to survivor memory and frees them. -/
  | salvage
  /-- COALESCER_WRITE (R372): A pending event record is written to the event ring. -/
  | coalescerWrite (core : Nat)
  /-- DEVICE_RESET (R381): Power-on or reset starts bring-up and self-tests. -/
  | deviceReset
  /-- SELF_TEST_PASS (R381): A function passes self-test and sets its READY bit. -/
  | selfTestPass (bit : Nat)
  /-- SELF_TEST_FAIL (R382): A function fails self-test, leading to the safe state or reduced operation. -/
  | selfTestFail (bit : Nat) (detail : BitVec 32)
  /-- LINK_TRAINED (R382): The host link trains; HOST is set and bring-up continues. -/
  | linkTrained
  /-- LINK_RETRAIN_TIMER (R382): Every 100 ms in link-wait the device retrains the host link. -/
  | linkRetrainTimer
  /-- SPDM_REQUEST (R384): An attestation request is answered with signed measurements. -/
  | spdmRequest (nonce : Nat)
  /-- CLOCK_CHANGE (R385): Firmware steps the arithmetic clock to hold the power cap. -/
  | clockChange (mhz : Nat)
  /-- THERMAL_THROTTLE (R385): At 100 C the clock falls to 200 MHz and KIND 0x16 is reported. -/
  | thermalThrottle
  /-- THERMAL_SHUTDOWN (R385): At 115 C the device enters the safe state with code 0x05. -/
  | thermalShutdown
  /-- SUPPLY_FAULT (R385): A supply out of range puts the device in the safe state with code 0x06. -/
  | supplyFault
  /-- TWIN_FLIT_RETRY (R292): A flit failing its CRC is retried at link level. -/
  | twinFlitRetry
  /-- TWIN_FAIL (R293): The twin is declared failed and words become orphaned or LOST. -/
  | twinFail
  /-- L2_FILL_COMPLETE (R320): The fill of a line absent from the L2 completes from device memory, and the home slice answers the waiting reads. -/
  | l2FillComplete (line : Nat)
  /-- BACK_INVALIDATION_ANSWER (R286): The host's answer to a back-invalidation snoop arrives, letting the device access to a host-biased region proceed. -/
  | backInvalidationAnswer (line : Nat)
  /-- HOST_WRITE_BACK_ACCEPT (R321): The host accepts a CXL.cache write-back of a host-homed line, on which a SYSTEM-scope release's counter waits. -/
  | hostWriteBackAccept (line : Nat)
  deriving DecidableEq, Repr

end Sys2Proof
end

