-- ==== Sys2Proof/WellFormed.lean ====
section
/-!
DEFINITION. The checks on an instruction's operands that the words alone decide: destinations and NW (R44), runs (R45),
counters and scopes (R38, R47), engine ports (R146), system registers (R17), and the fields that an entry limits. An
instruction that fails one raises trap 0x01 at its word (R48, R388).
-/

namespace Sys2Proof

/-- A vector field that names v0 to v123, not a latch (R43). -/
def isReg (r : BitVec 7) : Bool := decide (r.toNat < 0x7C)

/-- A vector destination: a register, or 0x00 with NW set (R44). -/
def dstOk (nw : Bool) (d : BitVec 7) : Bool := if nw then d == 0 else isReg d

/-- A vector run of `n` registers named by its base (R45). -/
def runOk (base : BitVec 7) (n : Nat) : Bool := base.toNat % n == 0 && decide (base.toNat + n ≤ 124)

/-- A scalar run (R45). -/
def scalarRunOk (base : BitVec 6) (n : Nat) : Bool := base.toNat % n == 0 && decide (base.toNat + n ≤ 64)

/-- A counter c0 to c5 (R38). -/
def ctrOk (c : BitVec 3) : Bool := decide (c.toNat < 6)

/-- An OX word whose C is unused must hold 0x00 (R34, R41). -/
def plainOx (ox : Option Ox) : Bool := match ox with
  | none => true
  | some o => o.c == 0

/-- The OX word of qbind names a window v0 to v123 (R164). -/
def windowOx (ox : Option Ox) : Bool := match ox with
  | none => true
  | some o => isReg o.c

/-- Ports that qbind.in accepts (R146, R164). -/
def inPort (q : BitVec 6) : Bool := (decide (0x10 ≤ q.toNat) && decide (q.toNat < 0x14)) ||
  (decide (0x18 ≤ q.toNat) && decide (q.toNat < 0x1C))

/-- Ports that qbind.out accepts (R146, R164). -/
def outPort (q : BitVec 6) : Bool := decide (0x14 ≤ q.toNat) && decide (q.toNat < 0x18)

/-- The four matrix quadrants (R146). -/
def quadPort (q : BitVec 6) : Bool := decide (4 ≤ q.toNat) && decide (q.toNat < 8)

/-- CHUNK of mscale: 3 never, 2 only for operand B (R172). -/
def chunkOk (s : BitVec 6) : Bool :=
  let chunk := (s.toNat / 2) % 4
  decide (chunk < 2) || (chunk == 2 && decide (32 ≤ s.toNat))

/-- The allocation of reggrow and regshrink (R117). -/
def allocOk (n : BitVec 8) : Bool := n.toNat % 4 == 0 && decide (8 ≤ n.toNat) && decide (n.toNat ≤ 124)

/-- The kind of D for a listed system register: 0 vector, 1 scalar, 2 predicate (R17). -/
def sysKind (n : Nat) : Option Nat := match n with
  | 0x00 | 0x21 | 0x22 => some 0
  | 0x01 | 0x02 | 0x03 | 0x04 | 0x05 | 0x06 | 0x07 | 0x08 | 0x09 | 0x0A | 0x0B | 0x0D | 0x10 => some 1
  | 0x20 | 0x30 | 0x31 | 0x32 | 0x34 | 0x35 | 0x36 | 0x40 => some 1
  | 0x0C | 0x33 => some 2
  | _ => none

/-- Whether D is coded as its kind allows (R40); a latch may be a source but no destination (R44). -/
def sysField (f : X) (source : Bool) : Bool := match f.kd.toNat with
  | 0 => source || isReg f.d
  | 1 => decide (f.d.toNat < 64)
  | 2 => decide (f.d.toNat < 8)
  | _ => false

/-- A legal rdsys (R17, R118). -/
def sysReadOk (f : X) : Bool := sysKind f.sys.toNat == some f.kd.toNat && sysField f false

/-- A legal wrsys: FPCTL, FFLAGS or SRSEED with its own kind (R17, R118). -/
def sysWriteOk (f : X) : Bool := (f.sys == 0x20 || f.sys == 0x21 || f.sys == 0x22) &&
  sysKind f.sys.toNat == some f.kd.toNat && sysField f true

/-- Whether an instruction's operands pass every check that its words decide. An event of the device has no word. -/
def Instr.wf : Instr → Bool
  | .vaddI32 f ox => dstOk f.nw f.d && plainOx ox
  | .vsubI32 f ox => dstOk f.nw f.d && plainOx ox
  | .vaddsI32 f ox => dstOk f.nw f.d && plainOx ox
  | .vsubsI32 f ox => dstOk f.nw f.d && plainOx ox
  | .vaddsN32 f ox => dstOk f.nw f.d && plainOx ox
  | .vsubsN32 f ox => dstOk f.nw f.d && plainOx ox
  | .vminI32 f ox => dstOk f.nw f.d && plainOx ox
  | .vmaxI32 f ox => dstOk f.nw f.d && plainOx ox
  | .vminN32 f ox => dstOk f.nw f.d && plainOx ox
  | .vmaxN32 f ox => dstOk f.nw f.d && plainOx ox
  | .vabsdI32 f ox => dstOk f.nw f.d && plainOx ox
  | .vabsdN32 f ox => dstOk f.nw f.d && plainOx ox
  | .vmulI32 f ox => dstOk f.nw f.d && plainOx ox
  | .vmulhiI32 f ox => dstOk f.nw f.d && plainOx ox
  | .vmulhiN32 f ox => dstOk f.nw f.d && plainOx ox
  | .vmadI32 f _ => dstOk f.nw f.d
  | .vdp4I8 f _ => dstOk f.nw f.d
  | .vdp4N8 f _ => dstOk f.nw f.d
  | .vdp2I16 f _ => dstOk f.nw f.d
  | .vandB32 f ox => dstOk f.nw f.d && plainOx ox
  | .vorB32 f ox => dstOk f.nw f.d && plainOx ox
  | .vxorB32 f ox => dstOk f.nw f.d && plainOx ox
  | .vandnB32 f ox => dstOk f.nw f.d && plainOx ox
  | .vornB32 f ox => dstOk f.nw f.d && plainOx ox
  | .vxnorB32 f ox => dstOk f.nw f.d && plainOx ox
  | .vshlB32 f ox => dstOk f.nw f.d && plainOx ox
  | .vshrN32 f ox => dstOk f.nw f.d && plainOx ox
  | .vshrI32 f ox => dstOk f.nw f.d && plainOx ox
  | .vrotlB32 f ox => dstOk f.nw f.d && plainOx ox
  | .vrotrB32 f ox => dstOk f.nw f.d && plainOx ox
  | .vpopcB32 f ox => dstOk f.nw f.d && plainOx ox
  | .vclzB32 f ox => dstOk f.nw f.d && plainOx ox
  | .vctzB32 f ox => dstOk f.nw f.d && plainOx ox
  | .vbrevB32 f ox => dstOk f.nw f.d && plainOx ox
  | .vnegI32 f ox => dstOk f.nw f.d && plainOx ox
  | .vabsI32 f ox => dstOk f.nw f.d && plainOx ox
  | .vmovB32 f ox => dstOk f.nw f.d && plainOx ox
  | .vnotB32 f ox => dstOk f.nw f.d && plainOx ox
  | .vbfxN32 f _ => dstOk f.nw f.d
  | .vbfxI32 f _ => dstOk f.nw f.d
  | .vbfiB32 f _ => dstOk f.nw f.d
  | .vfshB32 f _ => dstOk f.nw f.d
  | .vprmB8 f _ => dstOk f.nw f.d
  | .vaddI32Vs f ox => dstOk f.nw f.d && plainOx ox
  | .vsubI32Vs f ox => dstOk f.nw f.d && plainOx ox
  | .vmulI32Vs f ox => dstOk f.nw f.d && plainOx ox
  | .vandB32Vs f ox => dstOk f.nw f.d && plainOx ox
  | .vorB32Vs f ox => dstOk f.nw f.d && plainOx ox
  | .vxorB32Vs f ox => dstOk f.nw f.d && plainOx ox
  | .vshlB32Vs f ox => dstOk f.nw f.d && plainOx ox
  | .vshrN32Vs f ox => dstOk f.nw f.d && plainOx ox
  | .vaddI32Vi f => dstOk f.nw f.d
  | .vmulI32Vi f => dstOk f.nw f.d
  | .vandB32Vi f => dstOk f.nw f.d
  | .vorB32Vi f => dstOk f.nw f.d
  | .vxorB32Vi f => dstOk f.nw f.d
  | .vmovB32Vi f => dstOk f.nw f.d
  | .faddF32Vi f => dstOk f.nw f.d
  | .fmulF32Vi f => dstOk f.nw f.d
  | .cmpI32 f ox => decide (f.cond.toNat < 6) && plainOx ox
  | .cmpN32 f ox => decide (f.cond.toNat < 6) && plainOx ox
  | .cmpF32 _ ox => plainOx ox
  | .pand _ ox => plainOx ox
  | .por _ ox => plainOx ox
  | .pxor _ ox => plainOx ox
  | .pandn _ ox => plainOx ox
  | .pmov _ ox => plainOx ox
  | .voteAny _ ox => plainOx ox
  | .voteAll _ ox => plainOx ox
  | .voteUni _ ox => plainOx ox
  | .vselB32 _ f ox => dstOk f.nw f.d && plainOx ox
  | .vshflIdxB32 f ox => dstOk f.nw f.d && plainOx ox
  | .vshflUpB32 f ox => dstOk f.nw f.d && plainOx ox
  | .vshflDnB32 f ox => dstOk f.nw f.d && plainOx ox
  | .vshflXorB32 f ox => dstOk f.nw f.d && plainOx ox
  | .vbcstB32 f ox => dstOk f.nw f.d && plainOx ox
  | .vbcstLaneB32 f ox => dstOk f.nw f.d && plainOx ox
  | .vgetB32 _ ox => plainOx ox
  | .vrdxB32 f ox => dstOk f.nw f.d && isReg f.a && plainOx ox
  | .vwrxB32 f ox => dstOk f.nw f.d && isReg f.d && plainOx ox
  | .cvtF32I32 f ox => dstOk f.nw f.d && plainOx ox
  | .cvtF32N32 f ox => dstOk f.nw f.d && plainOx ox
  | .cvtI32F32 f ox => dstOk f.nw f.d && plainOx ox
  | .cvtN32F32 f ox => dstOk f.nw f.d && plainOx ox
  | .cvtF16F32 f ox => dstOk f.nw f.d && plainOx ox
  | .cvtBf16F32 f ox => dstOk f.nw f.d && plainOx ox
  | .cvtF32F16 f ox => dstOk f.nw f.d && plainOx ox
  | .cvtF32Bf16 f ox => dstOk f.nw f.d && plainOx ox
  | .cvtF16x2F32 f ox => dstOk f.nw f.d && plainOx ox
  | .cvtBf16x2F32 f ox => dstOk f.nw f.d && plainOx ox
  | .pkE4m3 f ox => dstOk f.nw f.d && runOk f.a 4 && plainOx ox
  | .pkE5m2 f ox => dstOk f.nw f.d && runOk f.a 4 && plainOx ox
  | .pkE3m2 f ox => dstOk f.nw f.d && runOk f.a 4 && plainOx ox
  | .pkE2m3 f ox => dstOk f.nw f.d && runOk f.a 4 && plainOx ox
  | .pkE2m1 f ox => dstOk f.nw f.d && runOk f.a 8 && plainOx ox
  | .pkI8 f ox => dstOk f.nw f.d && runOk f.a 4 && plainOx ox
  | .pkI4 f ox => dstOk f.nw f.d && runOk f.a 8 && plainOx ox
  | .pkqN8 f _ => dstOk f.nw f.d && runOk f.a 4
  | .pkqN4 f _ => dstOk f.nw f.d && runOk f.a 8
  | .upkE4m3 f ox => (if f.nw then f.d == 0 else runOk f.d 4) && plainOx ox
  | .upkE5m2 f ox => (if f.nw then f.d == 0 else runOk f.d 4) && plainOx ox
  | .upkE3m2 f ox => (if f.nw then f.d == 0 else runOk f.d 4) && plainOx ox
  | .upkE2m3 f ox => (if f.nw then f.d == 0 else runOk f.d 4) && plainOx ox
  | .upkE2m1 f ox => (if f.nw then f.d == 0 else runOk f.d 8) && plainOx ox
  | .upkI8 f ox => (if f.nw then f.d == 0 else runOk f.d 4) && plainOx ox
  | .upkI4 f ox => (if f.nw then f.d == 0 else runOk f.d 8) && plainOx ox
  | .upkN8 f ox => (if f.nw then f.d == 0 else runOk f.d 4) && plainOx ox
  | .upkN4 f ox => (if f.nw then f.d == 0 else runOk f.d 8) && plainOx ox
  | .saddIwSi _ => true
  | .sandBwSi _ => true
  | .sorBwSi _ => true
  | .sxorBwSi _ => true
  | .smovBw _ => true
  | .smulIwSi _ => true
  | .faddF32 f ox => dstOk f.nw f.d && plainOx ox
  | .fsubF32 f ox => dstOk f.nw f.d && plainOx ox
  | .fmulF32 f ox => dstOk f.nw f.d && plainOx ox
  | .fminF32 f ox => dstOk f.nw f.d && plainOx ox
  | .fmaxF32 f ox => dstOk f.nw f.d && plainOx ox
  | .fabsF32 f ox => dstOk f.nw f.d && plainOx ox
  | .fnegF32 f ox => dstOk f.nw f.d && plainOx ox
  | .fsgnF32 f ox => dstOk f.nw f.d && plainOx ox
  | .ffmaF32 f _ => dstOk f.nw f.d
  | .ffmsF32 f _ => dstOk f.nw f.d
  | .fnfmaF32 f _ => dstOk f.nw f.d
  | .fnfmsF32 f _ => dstOk f.nw f.d
  | .haddF16x2 f ox => dstOk f.nw f.d && plainOx ox
  | .hmulF16x2 f ox => dstOk f.nw f.d && plainOx ox
  | .hminF16x2 f ox => dstOk f.nw f.d && plainOx ox
  | .hmaxF16x2 f ox => dstOk f.nw f.d && plainOx ox
  | .haddBf16x2 f ox => dstOk f.nw f.d && plainOx ox
  | .hmulBf16x2 f ox => dstOk f.nw f.d && plainOx ox
  | .hminBf16x2 f ox => dstOk f.nw f.d && plainOx ox
  | .hmaxBf16x2 f ox => dstOk f.nw f.d && plainOx ox
  | .hfmaF16x2 f _ => dstOk f.nw f.d
  | .hfmaBf16x2 f _ => dstOk f.nw f.d
  | .hdot2F32F16x2 f _ => dstOk f.nw f.d
  | .hdot2F32Bf16x2 f _ => dstOk f.nw f.d
  | .frndF32 f ox => dstOk f.nw f.d && plainOx ox
  | .ffloorF32 f ox => dstOk f.nw f.d && plainOx ox
  | .fceilF32 f ox => dstOk f.nw f.d && plainOx ox
  | .ftruncF32 f ox => dstOk f.nw f.d && plainOx ox
  | .ffractF32 f ox => dstOk f.nw f.d && plainOx ox
  | .fclassF32 f ox => dstOk f.nw f.d && plainOx ox
  | .faddF32Vs f ox => dstOk f.nw f.d && plainOx ox
  | .fmulF32Vs f ox => dstOk f.nw f.d && plainOx ox
  | .fminF32Vs f ox => dstOk f.nw f.d && plainOx ox
  | .fmaxF32Vs f ox => dstOk f.nw f.d && plainOx ox
  | .saddIw f => (f.si || decide (f.k.toNat < 64))
  | .ssubIw f => (f.si || decide (f.k.toNat < 64))
  | .smulIw f => (f.si || decide (f.k.toNat < 64))
  | .sandBw f => (f.si || decide (f.k.toNat < 64))
  | .sorBw f => (f.si || decide (f.k.toNat < 64))
  | .sxorBw f => (f.si || decide (f.k.toNat < 64))
  | .sshlBw f => (f.si || decide (f.k.toNat < 64))
  | .sshrNw f => (f.si || decide (f.k.toNat < 64))
  | .sshrIw f => (f.si || decide (f.k.toNat < 64))
  | .sminIw f => (f.si || decide (f.k.toNat < 64))
  | .smaxIw f => (f.si || decide (f.k.toNat < 64))
  | .sminNw f => (f.si || decide (f.k.toNat < 64))
  | .smaxNw f => (f.si || decide (f.k.toNat < 64))
  | .sseqBw f => (f.si || decide (f.k.toNat < 64))
  | .ssltIw f => (f.si || decide (f.k.toNat < 64))
  | .ssltNw f => (f.si || decide (f.k.toNat < 64))
  | .frcpF32 f ox => dstOk f.nw f.d && plainOx ox
  | .frsqF32 f ox => dstOk f.nw f.d && plainOx ox
  | .fsqrtF32 f ox => dstOk f.nw f.d && plainOx ox
  | .fexp2F32 f ox => dstOk f.nw f.d && plainOx ox
  | .flog2F32 f ox => dstOk f.nw f.d && plainOx ox
  | .fsinF32 f ox => dstOk f.nw f.d && plainOx ox
  | .fcosF32 f ox => dstOk f.nw f.d && plainOx ox
  | .ftanhF32 f ox => dstOk f.nw f.d && plainOx ox
  | .fdivF32 f ox => dstOk f.nw f.d && plainOx ox
  | .fatan2F32 f ox => dstOk f.nw f.d && plainOx ox
  | .ldgN8 f ox => ctrOk f.ctr && isReg f.d && plainOx ox
  | .ldgI8 f ox => ctrOk f.ctr && isReg f.d && plainOx ox
  | .ldgN16 f ox => ctrOk f.ctr && isReg f.d && plainOx ox
  | .ldgI16 f ox => ctrOk f.ctr && isReg f.d && plainOx ox
  | .ldgB32 f ox => ctrOk f.ctr && isReg f.d && plainOx ox
  | .ldgB64 f ox => ctrOk f.ctr && runOk f.d 2 && plainOx ox
  | .ldgB128 f ox => ctrOk f.ctr && runOk f.d 4 && plainOx ox
  | .stgB8 f ox => ctrOk f.ctr && plainOx ox
  | .stgB16 f ox => ctrOk f.ctr && plainOx ox
  | .stgB32 f ox => ctrOk f.ctr && plainOx ox
  | .stgB64 f ox => ctrOk f.ctr && runOk f.d 2 && plainOx ox
  | .stgB128 f ox => ctrOk f.ctr && runOk f.d 4 && plainOx ox
  | .ldgTB32 f ox => ctrOk f.ctr && isReg f.d && plainOx ox
  | .ldgTB64 f ox => ctrOk f.ctr && runOk f.d 2 && plainOx ox
  | .ldgTB128 f ox => ctrOk f.ctr && runOk f.d 4 && plainOx ox
  | .ldsB32 f ox => ctrOk f.ctr && isReg f.d && plainOx ox
  | .ldsB64 f ox => ctrOk f.ctr && runOk f.d 2 && plainOx ox
  | .ldsB128 f ox => ctrOk f.ctr && runOk f.d 4 && plainOx ox
  | .stsB32 f ox => ctrOk f.ctr && plainOx ox
  | .stsB64 f ox => ctrOk f.ctr && runOk f.d 2 && plainOx ox
  | .stsB128 f ox => ctrOk f.ctr && runOk f.d 4 && plainOx ox
  | .lduB32 f ox => ctrOk f.ctr && plainOx ox
  | .lduB64 f ox => ctrOk f.ctr && plainOx ox
  | .lduB128 f ox => ctrOk f.ctr && scalarRunOk f.d 2 && plainOx ox
  | .lduB256 f ox => ctrOk f.ctr && scalarRunOk f.d 4 && plainOx ox
  | .lduB512 f ox => ctrOk f.ctr && scalarRunOk f.d 8 && plainOx ox
  | .stuB32 f ox => ctrOk f.ctr && plainOx ox
  | .stuB64 f ox => ctrOk f.ctr && plainOx ox
  | .atomAddI32 f ox => ctrOk f.ctr && isReg f.d && plainOx ox
  | .atomMinI32 f ox => ctrOk f.ctr && isReg f.d && plainOx ox
  | .atomMaxI32 f ox => ctrOk f.ctr && isReg f.d && plainOx ox
  | .atomMinN32 f ox => ctrOk f.ctr && isReg f.d && plainOx ox
  | .atomMaxN32 f ox => ctrOk f.ctr && isReg f.d && plainOx ox
  | .atomAndB32 f ox => ctrOk f.ctr && isReg f.d && plainOx ox
  | .atomOrB32 f ox => ctrOk f.ctr && isReg f.d && plainOx ox
  | .atomXorB32 f ox => ctrOk f.ctr && isReg f.d && plainOx ox
  | .atomXchgB32 f ox => ctrOk f.ctr && isReg f.d && plainOx ox
  | .atomCasB32 f _ => ctrOk f.ctr && isReg f.d
  | .atomAddI64 f ox => ctrOk f.ctr && runOk f.d 2 && plainOx ox
  | .atomXchgB64 f ox => ctrOk f.ctr && runOk f.d 2 && plainOx ox
  | .atomCasB64 f ox => ctrOk f.ctr && runOk f.d 2 && runOk ox.c 2
  | .redAddF32 f ox => ctrOk f.ctr && plainOx ox
  | .redAddBf16x2 f ox => ctrOk f.ctr && plainOx ox
  | .redAddI32 f ox => ctrOk f.ctr && plainOx ox
  | .redAddI64 f ox => ctrOk f.ctr && runOk f.d 2 && plainOx ox
  | .redMinF32 f ox => ctrOk f.ctr && plainOx ox
  | .redMaxF32 f ox => ctrOk f.ctr && plainOx ox
  | .pfL1 f ox => ctrOk f.ctr && plainOx ox
  | .pfL2 f ox => ctrOk f.ctr && plainOx ox
  | .pfRdc f ox => ctrOk f.ctr && plainOx ox
  | .acq f ox => ctrOk f.ctr && f.scope != 6 && plainOx ox
  | .rel f ox => ctrOk f.ctr && f.scope != 6 && plainOx ox
  | .acqrel f ox => ctrOk f.ctr && f.scope != 6 && plainOx ox
  | .invRgn f ox => ctrOk f.ctr && decide (f.scope.toNat < 6) && plainOx ox
  | .barInit f ox => ctrOk f.ctr && plainOx ox
  | .barArr f ox => ctrOk f.ctr && plainOx ox
  | .barWait f ox => ctrOk f.ctr && plainOx ox
  | .barSync f ox => ctrOk f.ctr && plainOx ox
  | .drainSp ctr ox => ctrOk ctr && plainOx ox
  | .drainLoc ctr ox => ctrOk ctr && plainOx ox
  | .drainTwin ctr ox => ctrOk ctr && plainOx ox
  | .drainHost ctr ox => ctrOk ctr && plainOx ox
  | .logmark f ox => ctrOk f.ctr && plainOx ox
  | .bra _ => true
  | .braAny _ => true
  | .split _ _ => true
  | .call _ => true
  | .ret => true
  | .exit => true
  | .yield => true
  | .nop => true
  | .brx _ => true
  | .trap _ => true
  | .brk _ => true
  | .tretSkip => true
  | .tretRetry => true
  | .reggrow code => allocOk code
  | .regshrink code => allocOk code
  | .pushc f ox => ctrOk f.ctr && scalarRunOk f.s 8 && (decide (f.eq.toNat < 4) || f.eq == 8) && plainOx ox
  | .qbindIn f ox => ctrOk f.ctr && inPort f.eq && windowOx ox
  | .qbindOut f ox => ctrOk f.ctr && outPort f.eq && windowOx ox
  | .qfree f ox => ctrOk f.ctr && plainOx ox
  | .mloop f ox => ctrOk f.ctr && scalarRunOk f.s 8 && quadPort f.eq && isReg ox.c
  | .mscale f ox => ctrOk f.ctr && quadPort f.eq && isReg ox.c && chunkOk f.s
  | .mzero f ox => ctrOk f.ctr && quadPort f.eq && plainOx ox
  | .mdrainQ f ox => ctrOk f.ctr && scalarRunOk f.s 2 && quadPort f.eq && plainOx ox
  | .mdrainSp f ox => ctrOk f.ctr && scalarRunOk f.s 2 && quadPort f.eq && plainOx ox
  | .mstat f ox => ctrOk f.ctr && quadPort f.eq && plainOx ox
  | .mpath f ox => ctrOk f.ctr && scalarRunOk f.s 4 && isReg ox.c
  | .rsv f ox => ctrOk f.ctr && isReg f.d && plainOx ox
  | .spwn f ox => ctrOk f.ctr && isReg f.d && f.d.toNat % 16 == 0 && runOk f.a 8 && plainOx ox
  | .trace f ox => ctrOk f.ctr && runOk f.a 8 && plainOx ox
  | .epend ctr ox => ctrOk ctr && plainOx ox
  | .hitattr f ox => ctrOk f.ctr && isReg f.d && decide (f.k.toNat < 8) && plainOx ox
  | .rayget f ox => ctrOk f.ctr && isReg f.d && decide (f.k.toNat < 12) && plainOx ox
  | .rayset f ox => ctrOk f.ctr && decide (f.k.toNat < 10) && plainOx ox
  | .accum f ox => ctrOk f.ctr && runOk f.d 4 && plainOx ox
  | .accumPx f ox => ctrOk f.ctr && runOk f.d 4 && plainOx ox
  | .accaux f ox => ctrOk f.ctr && runOk f.d 4 && plainOx ox
  | .accauxPx f ox => ctrOk f.ctr && runOk f.d 4 && plainOx ox
  | .ahitAccept ctr ox => ctrOk ctr && plainOx ox
  | .ahitAcceptEnd ctr ox => ctrOk ctr && plainOx ox
  | .ahitIgnore ctr ox => ctrOk ctr && plainOx ox
  | .tlpf f ox => ctrOk f.ctr && plainOx ox
  | .poolst f ox => ctrOk f.ctr && decide (f.k.toNat < 8) && plainOx ox
  | .dntile f ox => ctrOk f.ctr && scalarRunOk f.d 4 && plainOx ox
  | .rdsys f => sysReadOk f
  | .wrsys f => sysWriteOk f
  | .clauseStart _ _ => true
  | .runAheadTimeout _ _ => true
  | .faultReissue _ _ => true
  | .loadComplete _ _ _ => true
  | .storeComplete _ _ _ => true
  | .relBegin _ _ => true
  | .acqComplete _ _ => true
  | .rdq _ _ => true
  | .data _ _ => true
  | .fwd _ _ => true
  | .frep _ _ => true
  | .reg _ _ => true
  | .mrg _ _ => true
  | .mfwd _ _ => true
  | .rack _ _ => true
  | .mack _ _ => true
  | .wb _ _ => true
  | .wack _ _ => true
  | .atq _ _ => true
  | .xfer _ _ => true
  | .xferv _ _ => true
  | .aval _ _ => true
  | .rcl _ _ => true
  | .l1Evict _ _ => true
  | .l2Evict _ => true
  | .rdcEvict _ => true
  | .hostRead _ => true
  | .hostWrite _ _ => true
  | .hostSnoop _ => true
  | .biasMerge _ => true
  | .syncTableOp => true
  | .redNodeFold _ => true
  | .pageWalkStart _ => true
  | .pageWalkComplete _ _ _ => true
  | .groupEnd _ _ => true
  | .episodeEnd _ _ => true
  | .waitGroupTimeout _ _ => true
  | .waveDispatch => true
  | .binAgeReady _ => true
  | .reggrowGrant _ => true
  | .regshrinkDone _ _ => true
  | .rsvGrant _ => true
  | .poolDrainTimeout _ => true
  | .genRayCreate _ _ => true
  | .treeletFetchStart _ _ _ => true
  | .treeletAgeExpire _ _ _ => true
  | .treeletFetchComplete _ _ _ => true
  | .traverse _ => true
  | .raySpill _ => true
  | .rayUnspill _ => true
  | .tileRetire _ _ => true
  | .tileAddResume => true
  | .copy _ => true
  | .tcopy _ => true
  | .gather _ => true
  | .scatter _ => true
  | .fill _ => true
  | .launch => true
  | .prdx _ => true
  | .prdxCombine _ => true
  | .engineCmdComplete _ _ => true
  | .bankZero _ _ => true
  | .mloopStart _ => true
  | .matrixStepStart _ => true
  | .matrixStepEnd _ => true
  | .mdrainRead _ => true
  | .denoiseStart _ => true
  | .launchWindow => true
  | .headAged _ => true
  | .issuePromote _ _ => true
  | .gridComplete _ _ => true
  | .queueDoorbell _ _ => true
  | .queueStpClear _ => true
  | .cmdDoorbell _ => true
  | .logTailWrite _ _ => true
  | .hostRegWrite _ _ _ => true
  | .ctxcreate => true
  | .ctxdestroy => true
  | .setctxTrans => true
  | .setctxTrap => true
  | .setctxLog => true
  | .setctxRay => true
  | .setctxPfx => true
  | .setctxFrame => true
  | .setctxDbg => true
  | .inval => true
  | .invalComplete _ => true
  | .verdictResolved => true
  | .verdictGivenUp => true
  | .preempt => true
  | .preemptComplete _ => true
  | .preemptDeadline _ => true
  | .reset => true
  | .resumePreempt => true
  | .resumeHalt => true
  | .halt => true
  | .haltComplete _ => true
  | .step => true
  | .dbgread => true
  | .dbgwrite => true
  | .raysave => true
  | .banksave => true
  | .bankload => true
  | .tileflush => true
  | .tileclear => true
  | .salvage => true
  | .coalescerWrite _ => true
  | .deviceReset => true
  | .selfTestPass _ => true
  | .selfTestFail _ _ => true
  | .linkTrained => true
  | .linkRetrainTimer => true
  | .spdmRequest _ => true
  | .clockChange _ => true
  | .thermalThrottle => true
  | .thermalShutdown => true
  | .supplyFault => true
  | .twinFlitRetry => true
  | .twinFail => true
  | .l2FillComplete _ => true
  | .backInvalidationAnswer _ => true
  | .hostWriteBackAccept _ => true

/-- Whether the operation is an event of the device and not an instruction of the opcode map (R47). -/
def Instr.isEvent : Instr → Bool
  | .vaddI32 _ _ => false
  | .vsubI32 _ _ => false
  | .vaddsI32 _ _ => false
  | .vsubsI32 _ _ => false
  | .vaddsN32 _ _ => false
  | .vsubsN32 _ _ => false
  | .vminI32 _ _ => false
  | .vmaxI32 _ _ => false
  | .vminN32 _ _ => false
  | .vmaxN32 _ _ => false
  | .vabsdI32 _ _ => false
  | .vabsdN32 _ _ => false
  | .vmulI32 _ _ => false
  | .vmulhiI32 _ _ => false
  | .vmulhiN32 _ _ => false
  | .vmadI32 _ _ => false
  | .vdp4I8 _ _ => false
  | .vdp4N8 _ _ => false
  | .vdp2I16 _ _ => false
  | .vandB32 _ _ => false
  | .vorB32 _ _ => false
  | .vxorB32 _ _ => false
  | .vandnB32 _ _ => false
  | .vornB32 _ _ => false
  | .vxnorB32 _ _ => false
  | .vshlB32 _ _ => false
  | .vshrN32 _ _ => false
  | .vshrI32 _ _ => false
  | .vrotlB32 _ _ => false
  | .vrotrB32 _ _ => false
  | .vpopcB32 _ _ => false
  | .vclzB32 _ _ => false
  | .vctzB32 _ _ => false
  | .vbrevB32 _ _ => false
  | .vnegI32 _ _ => false
  | .vabsI32 _ _ => false
  | .vmovB32 _ _ => false
  | .vnotB32 _ _ => false
  | .vbfxN32 _ _ => false
  | .vbfxI32 _ _ => false
  | .vbfiB32 _ _ => false
  | .vfshB32 _ _ => false
  | .vprmB8 _ _ => false
  | .vaddI32Vs _ _ => false
  | .vsubI32Vs _ _ => false
  | .vmulI32Vs _ _ => false
  | .vandB32Vs _ _ => false
  | .vorB32Vs _ _ => false
  | .vxorB32Vs _ _ => false
  | .vshlB32Vs _ _ => false
  | .vshrN32Vs _ _ => false
  | .vaddI32Vi _ => false
  | .vmulI32Vi _ => false
  | .vandB32Vi _ => false
  | .vorB32Vi _ => false
  | .vxorB32Vi _ => false
  | .vmovB32Vi _ => false
  | .faddF32Vi _ => false
  | .fmulF32Vi _ => false
  | .cmpI32 _ _ => false
  | .cmpN32 _ _ => false
  | .cmpF32 _ _ => false
  | .pand _ _ => false
  | .por _ _ => false
  | .pxor _ _ => false
  | .pandn _ _ => false
  | .pmov _ _ => false
  | .voteAny _ _ => false
  | .voteAll _ _ => false
  | .voteUni _ _ => false
  | .vselB32 _ _ _ => false
  | .vshflIdxB32 _ _ => false
  | .vshflUpB32 _ _ => false
  | .vshflDnB32 _ _ => false
  | .vshflXorB32 _ _ => false
  | .vbcstB32 _ _ => false
  | .vbcstLaneB32 _ _ => false
  | .vgetB32 _ _ => false
  | .vrdxB32 _ _ => false
  | .vwrxB32 _ _ => false
  | .cvtF32I32 _ _ => false
  | .cvtF32N32 _ _ => false
  | .cvtI32F32 _ _ => false
  | .cvtN32F32 _ _ => false
  | .cvtF16F32 _ _ => false
  | .cvtBf16F32 _ _ => false
  | .cvtF32F16 _ _ => false
  | .cvtF32Bf16 _ _ => false
  | .cvtF16x2F32 _ _ => false
  | .cvtBf16x2F32 _ _ => false
  | .pkE4m3 _ _ => false
  | .pkE5m2 _ _ => false
  | .pkE3m2 _ _ => false
  | .pkE2m3 _ _ => false
  | .pkE2m1 _ _ => false
  | .pkI8 _ _ => false
  | .pkI4 _ _ => false
  | .pkqN8 _ _ => false
  | .pkqN4 _ _ => false
  | .upkE4m3 _ _ => false
  | .upkE5m2 _ _ => false
  | .upkE3m2 _ _ => false
  | .upkE2m3 _ _ => false
  | .upkE2m1 _ _ => false
  | .upkI8 _ _ => false
  | .upkI4 _ _ => false
  | .upkN8 _ _ => false
  | .upkN4 _ _ => false
  | .saddIwSi _ => false
  | .sandBwSi _ => false
  | .sorBwSi _ => false
  | .sxorBwSi _ => false
  | .smovBw _ => false
  | .smulIwSi _ => false
  | .faddF32 _ _ => false
  | .fsubF32 _ _ => false
  | .fmulF32 _ _ => false
  | .fminF32 _ _ => false
  | .fmaxF32 _ _ => false
  | .fabsF32 _ _ => false
  | .fnegF32 _ _ => false
  | .fsgnF32 _ _ => false
  | .ffmaF32 _ _ => false
  | .ffmsF32 _ _ => false
  | .fnfmaF32 _ _ => false
  | .fnfmsF32 _ _ => false
  | .haddF16x2 _ _ => false
  | .hmulF16x2 _ _ => false
  | .hminF16x2 _ _ => false
  | .hmaxF16x2 _ _ => false
  | .haddBf16x2 _ _ => false
  | .hmulBf16x2 _ _ => false
  | .hminBf16x2 _ _ => false
  | .hmaxBf16x2 _ _ => false
  | .hfmaF16x2 _ _ => false
  | .hfmaBf16x2 _ _ => false
  | .hdot2F32F16x2 _ _ => false
  | .hdot2F32Bf16x2 _ _ => false
  | .frndF32 _ _ => false
  | .ffloorF32 _ _ => false
  | .fceilF32 _ _ => false
  | .ftruncF32 _ _ => false
  | .ffractF32 _ _ => false
  | .fclassF32 _ _ => false
  | .faddF32Vs _ _ => false
  | .fmulF32Vs _ _ => false
  | .fminF32Vs _ _ => false
  | .fmaxF32Vs _ _ => false
  | .saddIw _ => false
  | .ssubIw _ => false
  | .smulIw _ => false
  | .sandBw _ => false
  | .sorBw _ => false
  | .sxorBw _ => false
  | .sshlBw _ => false
  | .sshrNw _ => false
  | .sshrIw _ => false
  | .sminIw _ => false
  | .smaxIw _ => false
  | .sminNw _ => false
  | .smaxNw _ => false
  | .sseqBw _ => false
  | .ssltIw _ => false
  | .ssltNw _ => false
  | .frcpF32 _ _ => false
  | .frsqF32 _ _ => false
  | .fsqrtF32 _ _ => false
  | .fexp2F32 _ _ => false
  | .flog2F32 _ _ => false
  | .fsinF32 _ _ => false
  | .fcosF32 _ _ => false
  | .ftanhF32 _ _ => false
  | .fdivF32 _ _ => false
  | .fatan2F32 _ _ => false
  | .ldgN8 _ _ => false
  | .ldgI8 _ _ => false
  | .ldgN16 _ _ => false
  | .ldgI16 _ _ => false
  | .ldgB32 _ _ => false
  | .ldgB64 _ _ => false
  | .ldgB128 _ _ => false
  | .stgB8 _ _ => false
  | .stgB16 _ _ => false
  | .stgB32 _ _ => false
  | .stgB64 _ _ => false
  | .stgB128 _ _ => false
  | .ldgTB32 _ _ => false
  | .ldgTB64 _ _ => false
  | .ldgTB128 _ _ => false
  | .ldsB32 _ _ => false
  | .ldsB64 _ _ => false
  | .ldsB128 _ _ => false
  | .stsB32 _ _ => false
  | .stsB64 _ _ => false
  | .stsB128 _ _ => false
  | .lduB32 _ _ => false
  | .lduB64 _ _ => false
  | .lduB128 _ _ => false
  | .lduB256 _ _ => false
  | .lduB512 _ _ => false
  | .stuB32 _ _ => false
  | .stuB64 _ _ => false
  | .atomAddI32 _ _ => false
  | .atomMinI32 _ _ => false
  | .atomMaxI32 _ _ => false
  | .atomMinN32 _ _ => false
  | .atomMaxN32 _ _ => false
  | .atomAndB32 _ _ => false
  | .atomOrB32 _ _ => false
  | .atomXorB32 _ _ => false
  | .atomXchgB32 _ _ => false
  | .atomCasB32 _ _ => false
  | .atomAddI64 _ _ => false
  | .atomXchgB64 _ _ => false
  | .atomCasB64 _ _ => false
  | .redAddF32 _ _ => false
  | .redAddBf16x2 _ _ => false
  | .redAddI32 _ _ => false
  | .redAddI64 _ _ => false
  | .redMinF32 _ _ => false
  | .redMaxF32 _ _ => false
  | .pfL1 _ _ => false
  | .pfL2 _ _ => false
  | .pfRdc _ _ => false
  | .acq _ _ => false
  | .rel _ _ => false
  | .acqrel _ _ => false
  | .invRgn _ _ => false
  | .barInit _ _ => false
  | .barArr _ _ => false
  | .barWait _ _ => false
  | .barSync _ _ => false
  | .drainSp _ _ => false
  | .drainLoc _ _ => false
  | .drainTwin _ _ => false
  | .drainHost _ _ => false
  | .logmark _ _ => false
  | .bra _ => false
  | .braAny _ => false
  | .split _ _ => false
  | .call _ => false
  | .ret => false
  | .exit => false
  | .yield => false
  | .nop => false
  | .brx _ => false
  | .trap _ => false
  | .brk _ => false
  | .tretSkip => false
  | .tretRetry => false
  | .reggrow _ => false
  | .regshrink _ => false
  | .pushc _ _ => false
  | .qbindIn _ _ => false
  | .qbindOut _ _ => false
  | .qfree _ _ => false
  | .mloop _ _ => false
  | .mscale _ _ => false
  | .mzero _ _ => false
  | .mdrainQ _ _ => false
  | .mdrainSp _ _ => false
  | .mstat _ _ => false
  | .mpath _ _ => false
  | .rsv _ _ => false
  | .spwn _ _ => false
  | .trace _ _ => false
  | .epend _ _ => false
  | .hitattr _ _ => false
  | .rayget _ _ => false
  | .rayset _ _ => false
  | .accum _ _ => false
  | .accumPx _ _ => false
  | .accaux _ _ => false
  | .accauxPx _ _ => false
  | .ahitAccept _ _ => false
  | .ahitAcceptEnd _ _ => false
  | .ahitIgnore _ _ => false
  | .tlpf _ _ => false
  | .poolst _ _ => false
  | .dntile _ _ => false
  | .rdsys _ => false
  | .wrsys _ => false
  | .clauseStart _ _ => true
  | .runAheadTimeout _ _ => true
  | .faultReissue _ _ => true
  | .loadComplete _ _ _ => true
  | .storeComplete _ _ _ => true
  | .relBegin _ _ => true
  | .acqComplete _ _ => true
  | .rdq _ _ => true
  | .data _ _ => true
  | .fwd _ _ => true
  | .frep _ _ => true
  | .reg _ _ => true
  | .mrg _ _ => true
  | .mfwd _ _ => true
  | .rack _ _ => true
  | .mack _ _ => true
  | .wb _ _ => true
  | .wack _ _ => true
  | .atq _ _ => true
  | .xfer _ _ => true
  | .xferv _ _ => true
  | .aval _ _ => true
  | .rcl _ _ => true
  | .l1Evict _ _ => true
  | .l2Evict _ => true
  | .rdcEvict _ => true
  | .hostRead _ => true
  | .hostWrite _ _ => true
  | .hostSnoop _ => true
  | .biasMerge _ => true
  | .syncTableOp => true
  | .redNodeFold _ => true
  | .pageWalkStart _ => true
  | .pageWalkComplete _ _ _ => true
  | .groupEnd _ _ => true
  | .episodeEnd _ _ => true
  | .waitGroupTimeout _ _ => true
  | .waveDispatch => true
  | .binAgeReady _ => true
  | .reggrowGrant _ => true
  | .regshrinkDone _ _ => true
  | .rsvGrant _ => true
  | .poolDrainTimeout _ => true
  | .genRayCreate _ _ => true
  | .treeletFetchStart _ _ _ => true
  | .treeletAgeExpire _ _ _ => true
  | .treeletFetchComplete _ _ _ => true
  | .traverse _ => true
  | .raySpill _ => true
  | .rayUnspill _ => true
  | .tileRetire _ _ => true
  | .tileAddResume => true
  | .copy _ => true
  | .tcopy _ => true
  | .gather _ => true
  | .scatter _ => true
  | .fill _ => true
  | .launch => true
  | .prdx _ => true
  | .prdxCombine _ => true
  | .engineCmdComplete _ _ => true
  | .bankZero _ _ => true
  | .mloopStart _ => true
  | .matrixStepStart _ => true
  | .matrixStepEnd _ => true
  | .mdrainRead _ => true
  | .denoiseStart _ => true
  | .launchWindow => true
  | .headAged _ => true
  | .issuePromote _ _ => true
  | .gridComplete _ _ => true
  | .queueDoorbell _ _ => true
  | .queueStpClear _ => true
  | .cmdDoorbell _ => true
  | .logTailWrite _ _ => true
  | .hostRegWrite _ _ _ => true
  | .ctxcreate => true
  | .ctxdestroy => true
  | .setctxTrans => true
  | .setctxTrap => true
  | .setctxLog => true
  | .setctxRay => true
  | .setctxPfx => true
  | .setctxFrame => true
  | .setctxDbg => true
  | .inval => true
  | .invalComplete _ => true
  | .verdictResolved => true
  | .verdictGivenUp => true
  | .preempt => true
  | .preemptComplete _ => true
  | .preemptDeadline _ => true
  | .reset => true
  | .resumePreempt => true
  | .resumeHalt => true
  | .halt => true
  | .haltComplete _ => true
  | .step => true
  | .dbgread => true
  | .dbgwrite => true
  | .raysave => true
  | .banksave => true
  | .bankload => true
  | .tileflush => true
  | .tileclear => true
  | .salvage => true
  | .coalescerWrite _ => true
  | .deviceReset => true
  | .selfTestPass _ => true
  | .selfTestFail _ _ => true
  | .linkTrained => true
  | .linkRetrainTimer => true
  | .spdmRequest _ => true
  | .clockChange _ => true
  | .thermalThrottle => true
  | .thermalShutdown => true
  | .supplyFault => true
  | .twinFlitRetry => true
  | .twinFail => true
  | .l2FillComplete _ => true
  | .backInvalidationAnswer _ => true
  | .hostWriteBackAccept _ => true

end Sys2Proof
end

