-- ==== Sys2Proof/Decode.lean ====
section
/-!
DEFINITION. The words of code: the clause header (R29), the legality of a clause (R30, R31), the decoder of an
instruction and its extension word (R34 to R41, R47, R48), and, after it, the encoder. The decoder rejects by name; the
operand rules that R44, R45 and the entries add are `Instr.wf`. The decoder is marked noncomputable because Lean's compiled
code cannot hold a type of 404 constructors; the kernel evaluates it.
-/

namespace Sys2Proof

/-! ## Fields -/

/-- The field of `len` bits at bit `lo`. -/
def fld (w : Word) (lo len : Nat) : BitVec len := w.extractLsb' lo len

/-- Bit `i`. -/
def bitAt (w : Word) (i : Nat) : Bool := w.getLsbD i

/-- OP, bits [31:25] (R34). -/
def opField (w : Word) : BitVec 7 := fld w 25 7

/-- F, bits [24:22] (R35 to R40). -/
def fnField (w : Word) : BitVec 3 := fld w 22 3

/-- MARK of an extension word (R41). -/
def isExt (w : Word) : Bool := opField w == 0x7E

/-- MARK of a clause header (R29). -/
def isHeader (w : Word) : Bool := opField w == 0x7F

/-! ## Clause headers (R29, R30) -/

/-- CLASS of a header (R29). -/
def hdrClass (h : Word) : Nat := (fld h 15 3).toNat

/-- N of a header: the words after it (R29). -/
def hdrN (h : Word) : Nat := (fld h 0 4).toNat

/-- The WAIT bit of counter `n` (R29). -/
def hdrWait (h : Word) (n : Nat) : Bool := bitAt h (18 + n)

/-- YLD (R29). -/
def hdrYield (h : Word) : Bool := bitAt h 24

/-- Whether a header is legal by itself (R30). -/
def hdrOk (h : Word) : Bool := isHeader h && hdrClass h != 7 && hdrN h != 0 && fld h 4 11 == 0

/-- The class of an opcode, fixed by its range for reserved opcodes too (R30, R47). -/
def opClass (op : Nat) : Nat :=
  if op < 0x20 then 0 else if op < 0x28 then 1 else if op < 0x40 then 2 else if op < 0x50 then 3
  else if op < 0x60 then 4 else if op < 0x70 then 5 else 6

/-- What an opcode says of an extension word (R34, R47). -/
inductive ExtRule where
  | never | mayOx | mustHave
  deriving DecidableEq, Repr

/-- The extension rule of an instruction word. A reserved opcode accepts none (R48). -/
def extRule (w : Word) : ExtRule :=
  match (opField w).toNat with
  | 0x02 | 0x06 | 0x08 | 0x14 | 0x16 | 0x19 | 0x1B | 0x41 | 0x52 | 0x53 | 0x57 => .mustHave
  | 0x2E => if fnField w == 1 || fnField w == 4 then .mustHave else .mayOx
  | 0x1E | 0x1F | 0x40 | 0x42 | 0x43 | 0x44 | 0x45 | 0x70 | 0x71 => .never
  | op => if op < 0x22 || (0x28 ≤ op && op < 0x38) || op == 0x50 || op == 0x51 || (0x54 ≤ op && op < 0x58) ||
      (0x60 ≤ op && op < 0x6D) then .mayOx else .never

/-- Whether the words that follow an instruction word are only its own extension word, so that it is the last (R30). -/
def lastPlace : List Word → Bool
  | [] => true
  | [x] => isExt x
  | _ => false

/-- The position, from `k`, of the first word of a clause of class `cls` that breaks R30. -/
def clauseFlaw (cls : Nat) : List Word → Nat → Option Nat
  | [], _ => none
  | w :: rest, k =>
    if isExt w || isHeader w then some k
    else if opClass (opField w).toNat ≠ cls ∧ ¬ (opClass (opField w).toNat = 3 ∧ lastPlace rest = true) then some k
    else match rest with
      | [] => if extRule w = .mustHave then some k else none
      | x :: more =>
        if isExt x then (if extRule w = .never then some (k + 1) else clauseFlaw cls more (k + 2))
        else if extRule w = .mustHave then some k
        else clauseFlaw cls (x :: more) (k + 1)

/-! ## The decoder -/

/-- Why a word is no instruction (R48). -/
inductive Reject where
  | reservedOpcode | reservedFunction | reservedKind | mustBeZero | missingExtension | strayExtension
  deriving DecidableEq, Repr

/-- A form: what it reads from an instruction word and the extension word that follows it, if one does. -/
abbrev Form := Word → Option Word → Except Reject Instr

/-- Rejects a word in which a bit that must be zero is set. -/
def zeros (mask : Word) (w : Word) : Except Reject Unit := if w &&& mask = 0 then .ok () else .error .mustBeZero

/-- The OX word (R41). -/
def readOx (x : Word) : Except Reject Ox := do
  zeros 0x01FFC380 x
  return ⟨bitAt x 13, fld x 10 3, fld x 0 7⟩

/-- A form with an optional OX word. -/
def optOx (mask : Word) (mk : Word → Option Ox → Instr) : Form := fun w x => do
  zeros mask w
  match x with
  | none => return mk w none
  | some x => return mk w (some (← readOx x))

/-- A form with a mandatory OX word. -/
def mustOx (mask : Word) (mk : Word → Ox → Instr) : Form := fun w x => do
  match x with
  | none => throw .missingExtension
  | some x =>
    zeros mask w
    return mk w (← readOx x)

/-- A form with an IX word, whose bits [24:0] are handed on (R35, R41). -/
def mustIx (mask : Word) (mk : Word → BitVec 25 → Instr) : Form := fun w x => do
  match x with
  | none => throw .missingExtension
  | some x =>
    zeros mask w
    return mk w (fld x 0 25)

/-- A form without an extension word. -/
def bare (mask : Word) (mk : Word → Instr) : Form := fun w x => do
  match x with
  | some _ => throw .strayExtension
  | none =>
    zeros mask w
    return mk w

def getV3 (w : Word) : V3 := ⟨bitAt w 21, fld w 14 7, fld w 7 7, fld w 0 7⟩
def getM (w : Word) : M := ⟨fld w 19 3, fld w 12 7, fld w 5 7, fld w 0 5⟩
def getE (w : Word) : E := ⟨fld w 19 3, fld w 13 6, fld w 7 6, fld w 4 3⟩
def getB (w : Word) : B := ⟨fld w 22 3, bitAt w 21, fld w 0 20⟩

/-- V3 with OX optional (R35). -/
def v3Form (c : V3 → Option Ox → Instr) : Form := optOx 0 fun w => c (getV3 w)
/-- V3 with OX mandatory (R47). -/
def v4Form (c : V3 → Ox → Instr) : Form := mustOx 0 fun w => c (getV3 w)
/-- V3 whose B is 0x00. -/
def v2Form (c : V2 → Option Ox → Instr) : Form := optOx 0x7F fun w => c ⟨bitAt w 21, fld w 14 7, fld w 7 7⟩
/-- vsel.b32: F is the selecting predicate. -/
def vselForm (c : BitVec 3 → V3 → Option Ox → Instr) : Form := optOx 0 fun w => c (fnField w) (getV3 w)
/-- VS (R35). -/
def vsForm (c : VS → Option Ox → Instr) : Form :=
  optOx 0 fun w => c ⟨bitAt w 21, fld w 14 7, fld w 7 7, bitAt w 6, fld w 0 6⟩
/-- VS with SI = 0. -/
def vxForm (c : VX → Option Ox → Instr) : Form :=
  optOx 0x40 fun w => c ⟨bitAt w 21, fld w 14 7, fld w 7 7, fld w 0 6⟩
/-- VS with A = 0x00. -/
def vbForm (c : VB → Option Ox → Instr) : Form := optOx 0x3F80 fun w => c ⟨bitAt w 21, fld w 14 7, bitAt w 6, fld w 0 6⟩
/-- VS of vget.b32: NW zero, D a scalar. -/
def vgetForm (c : VGet → Option Ox → Instr) : Form :=
  optOx 0x300000 fun w => c ⟨fld w 14 6, fld w 7 7, bitAt w 6, fld w 0 6⟩
/-- VI: the immediate is IH from bits [6:0] above IL (R35). -/
def viForm (c : VI → Instr) : Form := mustIx 0 fun w il => c ⟨bitAt w 21, fld w 14 7, fld w 7 7, fld w 0 7 ++ il⟩
/-- VI of vmov.b32. -/
def vmForm (c : VM → Instr) : Form := mustIx 0x3F80 fun w il => c ⟨bitAt w 21, fld w 14 7, fld w 0 7 ++ il⟩
/-- P.c (R37). -/
def pcForm (c : PC → Option Ox → Instr) : Form :=
  optOx 0x23C000 fun w => c ⟨fnField w, fld w 18 3, fld w 7 7, fld w 0 7⟩
/-- P.l (R37). -/
def plForm (c : PL → Option Ox → Instr) : Form :=
  optOx 0x2003FF fun w => c ⟨fld w 18 3, fld w 15 3, fld w 12 3, bitAt w 11, bitAt w 10⟩
/-- P.l with PB = 0 and NB = 0. -/
def p1Form (c : P1 → Option Ox → Instr) : Form := optOx 0x2077FF fun w => c ⟨fld w 18 3, fld w 15 3, bitAt w 11⟩
/-- S3 (R36). -/
def s3Form (c : S3 → Instr) : Form := bare 0 fun w => c ⟨bitAt w 21, fld w 15 6, fld w 9 6, bitAt w 8, fld w 0 8⟩
/-- SI (R36). -/
def siForm (c : SI → Instr) : Form := mustIx 0x180 fun w il => c ⟨bitAt w 21, fld w 15 6, fld w 9 6, fld w 0 7 ++ il⟩
/-- SI of smov.bW. -/
def smForm (c : SM → Instr) : Form := mustIx 0x7F80 fun w il => c ⟨bitAt w 21, fld w 15 6, fld w 0 7 ++ il⟩
/-- M (R38). -/
def mForm (c : M → Option Ox → Instr) : Form := optOx 0 fun w => c (getM w)
/-- M of the compare-and-swap forms. -/
def mcForm (c : M → Ox → Instr) : Form := mustOx 0 fun w => c (getM w)
/-- M with scalar D and A (R128). -/
def msForm (c : MS → Option Ox → Instr) : Form :=
  optOx 0x40800 fun w => c ⟨fld w 19 3, fld w 12 6, fld w 5 6, fld w 0 5⟩
/-- M of the prefetches. -/
def mpForm (c : MP → Option Ox → Instr) : Form := optOx 0x7F000 fun w => c ⟨fld w 19 3, fld w 5 7, fld w 0 5⟩
/-- M of acq, rel, acqrel. -/
def mqForm (c : MQ → Option Ox → Instr) : Form := optOx 0x7FFE0 fun w => c ⟨fnField w, fld w 19 3, fld w 0 5⟩
/-- M of inv.rgn. -/
def mrForm (c : MR → Option Ox → Instr) : Form :=
  optOx 0x7F800 fun w => c ⟨fnField w, fld w 19 3, fld w 5 6, fld w 0 5⟩
/-- M of bar.init and bar.wait: the scalar stands in A. -/
def maForm (c : MA → Option Ox → Instr) : Form := optOx 0x7F800 fun w => c ⟨fld w 19 3, fld w 5 6, fld w 0 5⟩
/-- M of bar.arr: the scalar stands in D. -/
def mdForm (c : MA → Option Ox → Instr) : Form := optOx 0x40FE0 fun w => c ⟨fld w 19 3, fld w 12 6, fld w 0 5⟩
/-- M with only a base. -/
def mbForm (c : MB → Option Ox → Instr) : Form := optOx 0x7FFE0 fun w => c ⟨fld w 19 3, fld w 0 5⟩
/-- M with only a counter. -/
def mzForm (c : BitVec 3 → Option Ox → Instr) : Form := optOx 0x7FFFF fun w => c (fld w 19 3)
/-- bra and bra.any, told apart by ANY (R39). -/
def braForm (all any : B → Instr) : Form := bare 0 fun w => if bitAt w 20 then any (getB w) else all (getB w)
/-- call: ANY must be 0 (R39). -/
def callForm (c : B → Instr) : Form := bare 0x100000 fun w => c (getB w)
/-- split with its TX word (R39). -/
def splitForm (c : B → BitVec 20 → Instr) : Form := fun w x => do
  match x with
  | none => throw .missingExtension
  | some x =>
    zeros 0x100000 w
    zeros 0x01F00000 x
    return c (getB w) (fld x 0 20)
/-- X with no operand (R40). -/
def x0Form (i : Instr) : Form := bare 0x3FFFFF fun _ => i
/-- brx: KD must be 1 (R107). -/
def xsForm (c : BitVec 6 → Instr) : Form := fun w x => do
  match x with
  | some _ => throw .strayExtension
  | none =>
    if fld w 19 2 ≠ 1 then throw .reservedKind
    zeros 0x240FFF w
    return c (fld w 12 6)
/-- X with a code in SYS. -/
def xcForm (c : BitVec 8 → Instr) : Form := bare 0x3FF00F fun w => c (fld w 4 8)
/-- X of rdsys and wrsys. -/
def xrForm (c : X → Instr) : Form := bare 0x20000F fun w => c ⟨fld w 19 2, fld w 12 7, fld w 4 8⟩
/-- E (R38). -/
def eForm (c : E → Option Ox → Instr) : Form := optOx 0xF fun w => c (getE w)
/-- E with OX mandatory. -/
def ecForm (c : E → Ox → Instr) : Form := mustOx 0xF fun w => c (getE w)
/-- E of qbind: S[5:4] and PD zero (R164). -/
def eqbForm (c : EQ → Option Ox → Instr) : Form := optOx 0x6007F fun w => c ⟨fld w 19 3, fld w 13 4, fld w 7 6⟩
/-- E of qfree (R164). -/
def efForm (c : EF → Option Ox → Instr) : Form := optOx 0x61FFF fun w => c ⟨fld w 19 3, fld w 13 4⟩
/-- E of mzero: S[5:2] zero (R167). -/
def ezForm (c : EZ → Option Ox → Instr) : Form :=
  optOx 0x7800F fun w => c ⟨fld w 19 3, fld w 13 2, fld w 7 6, fld w 4 3⟩
/-- E whose PD is zero. -/
def enForm (c : EN → Option Ox → Instr) : Form := optOx 0x7F fun w => c ⟨fld w 19 3, fld w 13 6, fld w 7 6⟩
/-- E of mpath: EQ and PD zero, OX mandatory (R175). -/
def epForm (c : EP → Ox → Instr) : Form := mustOx 0x1FFF fun w => c ⟨fld w 19 3, fld w 13 6⟩
/-- Y (R38). -/
def yForm (c : Y → Option Ox → Instr) : Form := optOx 0 fun w => c ⟨fld w 19 3, fld w 12 7, fld w 5 7, fld w 0 5⟩
/-- Y with D and A. -/
def yaForm (c : YA → Option Ox → Instr) : Form := optOx 0x1F fun w => c ⟨fld w 19 3, fld w 12 7, fld w 5 7⟩
/-- Y with A and K. -/
def ytForm (c : YT → Option Ox → Instr) : Form := optOx 0x7F000 fun w => c ⟨fld w 19 3, fld w 5 7, fld w 0 5⟩
/-- Y with only a counter. -/
def yzForm (c : BitVec 3 → Option Ox → Instr) : Form := optOx 0x7FFFF fun w => c (fld w 19 3)
/-- ahit.accept and ahit.accept.end, told apart by K[0] (R196). -/
def ahitForm (go fin : BitVec 3 → Option Ox → Instr) : Form :=
  optOx 0x7FFFE fun w => if bitAt w 0 then fin (fld w 19 3) else go (fld w 19 3)
/-- Y with D and K. -/
def ykForm (c : YK → Option Ox → Instr) : Form := optOx 0xFE0 fun w => c ⟨fld w 19 3, fld w 12 7, fld w 0 5⟩
/-- accum and accum.px, accaux and accaux.px, told apart by K[0] (R197). -/
def accForm (own : YD → Option Ox → Instr) (px : YA → Option Ox → Instr) : Form := fun w x =>
  if bitAt w 0 then optOx 0x1E (fun w => px ⟨fld w 19 3, fld w 12 7, fld w 5 7⟩) w x
  else optOx 0xFFF (fun w => own ⟨fld w 19 3, fld w 12 7⟩) w x
/-- Y of poolst: D a scalar (R199). -/
def ysForm (c : YS → Option Ox → Instr) : Form := optOx 0x40FE0 fun w => c ⟨fld w 19 3, fld w 12 6, fld w 0 5⟩
/-- Y of dntile: D a scalar, K[1:0] a quadrant (R200). -/
def ynForm (c : YN → Option Ox → Instr) : Form := optOx 0x40FFC fun w => c ⟨fld w 19 3, fld w 12 6, fld w 0 2⟩

/-- Class ALU of the opcode map (R47): the forms of each opcode by F. -/
def aluForms : List (Nat × List Form) := [
  (0x00, [v3Form .vaddI32, v3Form .vsubI32, v3Form .vaddsI32, v3Form .vsubsI32, v3Form .vaddsN32, v3Form .vsubsN32,
    v3Form .vminI32, v3Form .vmaxI32]),
  (0x01, [v3Form .vminN32, v3Form .vmaxN32, v3Form .vabsdI32, v3Form .vabsdN32, v3Form .vmulI32, v3Form .vmulhiI32,
    v3Form .vmulhiN32]),
  (0x02, [v4Form .vmadI32, v4Form .vdp4I8, v4Form .vdp4N8, v4Form .vdp2I16]),
  (0x03, [v3Form .vandB32, v3Form .vorB32, v3Form .vxorB32, v3Form .vandnB32, v3Form .vornB32, v3Form .vxnorB32]),
  (0x04, [v3Form .vshlB32, v3Form .vshrN32, v3Form .vshrI32, v3Form .vrotlB32, v3Form .vrotrB32]),
  (0x05, [v2Form .vpopcB32, v2Form .vclzB32, v2Form .vctzB32, v2Form .vbrevB32, v2Form .vnegI32, v2Form .vabsI32,
    v2Form .vmovB32, v2Form .vnotB32]),
  (0x06, [v4Form .vbfxN32, v4Form .vbfxI32, v4Form .vbfiB32, v4Form .vfshB32, v4Form .vprmB8]),
  (0x07, [vsForm .vaddI32Vs, vsForm .vsubI32Vs, vsForm .vmulI32Vs, vsForm .vandB32Vs, vsForm .vorB32Vs,
    vsForm .vxorB32Vs, vsForm .vshlB32Vs, vsForm .vshrN32Vs]),
  (0x08, [viForm .vaddI32Vi, viForm .vmulI32Vi, viForm .vandB32Vi, viForm .vorB32Vi, viForm .vxorB32Vi,
    vmForm .vmovB32Vi, viForm .faddF32Vi, viForm .fmulF32Vi]),
  (0x09, List.replicate 8 (pcForm .cmpI32)),
  (0x0A, List.replicate 8 (pcForm .cmpN32)),
  (0x0B, List.replicate 8 (pcForm .cmpF32)),
  (0x0C, [plForm .pand, plForm .por, plForm .pxor, plForm .pandn, p1Form .pmov, p1Form .voteAny, p1Form .voteAll,
    p1Form .voteUni]),
  (0x0D, List.replicate 8 (vselForm .vselB32)),
  (0x0E, [v3Form .vshflIdxB32, v3Form .vshflUpB32, v3Form .vshflDnB32, v3Form .vshflXorB32]),
  (0x0F, [vbForm .vbcstB32, vsForm .vbcstLaneB32, vgetForm .vgetB32]),
  (0x10, [v3Form .vrdxB32, v3Form .vwrxB32]),
  (0x11, [v2Form .cvtF32I32, v2Form .cvtF32N32, v2Form .cvtI32F32, v2Form .cvtN32F32, v2Form .cvtF16F32,
    v2Form .cvtBf16F32, v2Form .cvtF32F16, v2Form .cvtF32Bf16]),
  (0x12, [v3Form .cvtF16x2F32, v3Form .cvtBf16x2F32]),
  (0x13, [v3Form .pkE4m3, v3Form .pkE5m2, v3Form .pkE3m2, v3Form .pkE2m3, v3Form .pkE2m1, v3Form .pkI8, v3Form .pkI4]),
  (0x14, [v4Form .pkqN8, v4Form .pkqN4]),
  (0x15, [v3Form .upkE4m3, v3Form .upkE5m2, v3Form .upkE3m2, v3Form .upkE2m3, v3Form .upkE2m1, v3Form .upkI8,
    v3Form .upkI4]),
  (0x16, [siForm .saddIwSi, siForm .sandBwSi, siForm .sorBwSi, siForm .sxorBwSi, smForm .smovBw, siForm .smulIwSi]),
  (0x17, [v3Form .upkN8, v3Form .upkN4]),
  (0x18, [v3Form .faddF32, v3Form .fsubF32, v3Form .fmulF32, v3Form .fminF32, v3Form .fmaxF32, v2Form .fabsF32,
    v2Form .fnegF32, v3Form .fsgnF32]),
  (0x19, [v4Form .ffmaF32, v4Form .ffmsF32, v4Form .fnfmaF32, v4Form .fnfmsF32]),
  (0x1A, [v3Form .haddF16x2, v3Form .hmulF16x2, v3Form .hminF16x2, v3Form .hmaxF16x2, v3Form .haddBf16x2,
    v3Form .hmulBf16x2, v3Form .hminBf16x2, v3Form .hmaxBf16x2]),
  (0x1B, [v4Form .hfmaF16x2, v4Form .hfmaBf16x2, v4Form .hdot2F32F16x2, v4Form .hdot2F32Bf16x2]),
  (0x1C, [v2Form .frndF32, v2Form .ffloorF32, v2Form .fceilF32, v2Form .ftruncF32, v2Form .ffractF32,
    v2Form .fclassF32]),
  (0x1D, [vxForm .faddF32Vs, vxForm .fmulF32Vs, vxForm .fminF32Vs, vxForm .fmaxF32Vs]),
  (0x1E, [s3Form .saddIw, s3Form .ssubIw, s3Form .smulIw, s3Form .sandBw, s3Form .sorBw, s3Form .sxorBw,
    s3Form .sshlBw, s3Form .sshrNw]),
  (0x1F, [s3Form .sshrIw, s3Form .sminIw, s3Form .smaxIw, s3Form .sminNw, s3Form .smaxNw, s3Form .sseqBw,
    s3Form .ssltIw, s3Form .ssltNw])]

/-- Class SFU of the opcode map (R47): the forms of each opcode by F. -/
def sfuForms : List (Nat × List Form) := [
  (0x20, [v2Form .frcpF32, v2Form .frsqF32, v2Form .fsqrtF32, v2Form .fexp2F32, v2Form .flog2F32, v2Form .fsinF32,
    v2Form .fcosF32, v2Form .ftanhF32]),
  (0x21, [v3Form .fdivF32, v3Form .fatan2F32])]

/-- Class MEM of the opcode map (R47): the forms of each opcode by F. -/
def memForms : List (Nat × List Form) := [
  (0x28, [mForm .ldgN8, mForm .ldgI8, mForm .ldgN16, mForm .ldgI16, mForm .ldgB32, mForm .ldgB64, mForm .ldgB128]),
  (0x29, [mForm .stgB8, mForm .stgB16, mForm .stgB32, mForm .stgB64, mForm .stgB128]),
  (0x2A, [mForm .ldgTB32, mForm .ldgTB64, mForm .ldgTB128]),
  (0x2B, [mForm .ldsB32, mForm .ldsB64, mForm .ldsB128, mForm .stsB32, mForm .stsB64, mForm .stsB128]),
  (0x2C, [msForm .lduB32, msForm .lduB64, msForm .lduB128, msForm .lduB256, msForm .lduB512, msForm .stuB32,
    msForm .stuB64]),
  (0x2D, [mForm .atomAddI32, mForm .atomMinI32, mForm .atomMaxI32, mForm .atomMinN32, mForm .atomMaxN32,
    mForm .atomAndB32, mForm .atomOrB32, mForm .atomXorB32]),
  (0x2E, [mForm .atomXchgB32, mcForm .atomCasB32, mForm .atomAddI64, mForm .atomXchgB64, mcForm .atomCasB64]),
  (0x2F, [mForm .redAddF32, mForm .redAddBf16x2, mForm .redAddI32, mForm .redAddI64, mForm .redMinF32,
    mForm .redMaxF32]),
  (0x30, [mpForm .pfL1, mpForm .pfL2, mpForm .pfRdc]),
  (0x31, List.replicate 8 (mqForm .acq)),
  (0x32, List.replicate 8 (mqForm .rel)),
  (0x33, List.replicate 8 (mqForm .acqrel)),
  (0x34, List.replicate 8 (mrForm .invRgn)),
  (0x35, [maForm .barInit, mdForm .barArr, maForm .barWait, mbForm .barSync]),
  (0x36, [mzForm .drainSp, mzForm .drainLoc, mzForm .drainTwin, mzForm .drainHost]),
  (0x37, [mbForm .logmark])]

/-- Class CTRL of the opcode map (R47): the forms of each opcode by F. -/
noncomputable def ctrlForms : List (Nat × List Form) := [
  (0x40, List.replicate 8 (braForm .bra .braAny)),
  (0x41, List.replicate 8 (splitForm .split)),
  (0x42, List.replicate 8 (callForm .call)),
  (0x43, [x0Form .ret, x0Form .exit, x0Form .yield, x0Form .nop, xsForm .brx]),
  (0x44, [xcForm .trap, xcForm .brk, x0Form .tretSkip, x0Form .tretRetry]),
  (0x45, [xcForm .reggrow, xcForm .regshrink])]

/-- Class ENG of the opcode map (R47): the forms of each opcode by F. -/
noncomputable def engForms : List (Nat × List Form) := [
  (0x50, [eForm .pushc]),
  (0x51, [eqbForm .qbindIn, eqbForm .qbindOut, efForm .qfree]),
  (0x52, [ecForm .mloop]),
  (0x53, [ecForm .mscale]),
  (0x54, [ezForm .mzero]),
  (0x55, [enForm .mdrainQ, enForm .mdrainSp]),
  (0x56, [enForm .mstat]),
  (0x57, [epForm .mpath])]

/-- Class RAY of the opcode map (R47): the forms of each opcode by F. -/
noncomputable def rayForms : List (Nat × List Form) := [
  (0x60, [yaForm .rsv]),
  (0x61, [yForm .spwn]),
  (0x62, [ytForm .trace]),
  (0x63, [yzForm .epend]),
  (0x64, [ykForm .hitattr]),
  (0x65, [ykForm .rayget]),
  (0x66, [ykForm .rayset]),
  (0x67, [accForm .accum .accumPx]),
  (0x68, [accForm .accaux .accauxPx]),
  (0x69, [ahitForm .ahitAccept .ahitAcceptEnd, yzForm .ahitIgnore]),
  (0x6A, [ytForm .tlpf]),
  (0x6B, [ysForm .poolst]),
  (0x6C, [ynForm .dntile])]

/-- Class SYS of the opcode map (R47): the forms of each opcode by F. -/
noncomputable def sysForms : List (Nat × List Form) := [
  (0x70, [xrForm .rdsys]),
  (0x71, [xrForm .wrsys])]

/-- The opcode map (R47). An opcode it does not list is reserved, and so is an F past the end of an entry. -/
noncomputable def opcodeMap : List (Nat × List Form) :=
  aluForms ++ sfuForms ++ memForms ++ ctrlForms ++ engForms ++ rayForms ++ sysForms

/-- Decodes an instruction word and the extension word that follows it, if one does (R47, R48). -/
noncomputable def decode (w : Word) (x : Option Word) : Except Reject Instr :=
  match opcodeMap.lookup (opField w).toNat with
  | none => .error .reservedOpcode
  | some forms => match forms[(fnField w).toNat]? with
    | none => .error .reservedFunction
    | some form => form w x

/-- Decodes the head of a list of words; the rest is what follows the instruction. -/
noncomputable def decodeWords : List Word → Except Reject (Instr × List Word)
  | [] => .error .missingExtension
  | [w] => do return (← decode w none, [])
  | w :: x :: rest => do
    if isExt x then return (← decode w (some x), rest)
    return (← decode w none, x :: rest)

/-- What the decoder reads from an instruction given as the number of its bits: its first word in bits [31:0], the word
after it in bits [63:32]. -/
noncomputable def decodeTableWord (nbits w : Nat) : Option Instr :=
  match decodeWords [BitVec.ofNat 32 w, BitVec.ofNat 32 (if nbits ≤ 32 then 0 else w / 2 ^ 32)] with
  | .ok (i, _) => some i
  | .error _ => none

/-! ## The encoder, from the layouts of R35 to R41 -/

/-- An instruction word from OP, F and the 22 bits below them. -/
def formWord (op : BitVec 7) (fn : BitVec 3) (low : BitVec 22) : Word := op ++ fn ++ low

/-- One bit. -/
def bit (b : Bool) : BitVec 1 := BitVec.ofBool b

/-- The OX word (R41). -/
def oxWord (o : Ox) : Word := (0x7E : BitVec 7) ++ (0 : BitVec 11) ++ bit o.gn ++ o.gp ++ (0 : BitVec 3) ++ o.c

/-- The OX word, where there is one. -/
def oxWords : Option Ox → List Word
  | none => []
  | some o => [oxWord o]

/-- The IX word (R41). -/
def ixWord (imm : BitVec 32) : Word := (0x7E : BitVec 7) ++ imm.extractLsb' 0 25

/-- The TX word (R39). -/
def txWord (join : BitVec 20) : Word := (0x7E : BitVec 7) ++ (0 : BitVec 5) ++ join

def v3Word (op : BitVec 7) (fn : BitVec 3) (f : V3) : Word := formWord op fn (bit f.nw ++ f.d ++ f.a ++ f.b)
def v2Word (op : BitVec 7) (fn : BitVec 3) (f : V2) : Word := formWord op fn (bit f.nw ++ f.d ++ f.a ++ (0 : BitVec 7))
def vsWord (op : BitVec 7) (fn : BitVec 3) (f : VS) : Word := formWord op fn (bit f.nw ++ f.d ++ f.a ++ bit f.si ++ f.sb)
def vxWord (op : BitVec 7) (fn : BitVec 3) (f : VX) : Word :=
  formWord op fn (bit f.nw ++ f.d ++ f.a ++ (0 : BitVec 1) ++ f.sb)
def vbWord (op : BitVec 7) (fn : BitVec 3) (f : VB) : Word :=
  formWord op fn (bit f.nw ++ f.d ++ (0 : BitVec 7) ++ bit f.si ++ f.sb)
def vgetWord (op : BitVec 7) (fn : BitVec 3) (f : VGet) : Word :=
  formWord op fn ((0 : BitVec 2) ++ f.d ++ f.a ++ bit f.si ++ f.sb)
def viWords (op : BitVec 7) (fn : BitVec 3) (f : VI) : List Word :=
  [formWord op fn (bit f.nw ++ f.d ++ f.a ++ f.imm.extractLsb' 25 7), ixWord f.imm]
def vmWords (op : BitVec 7) (fn : BitVec 3) (f : VM) : List Word :=
  [formWord op fn (bit f.nw ++ f.d ++ (0 : BitVec 7) ++ f.imm.extractLsb' 25 7), ixWord f.imm]
def pcWord (op : BitVec 7) (f : PC) : Word := formWord op f.cond ((0 : BitVec 1) ++ f.pd ++ (0 : BitVec 4) ++ f.a ++ f.b)
def plWord (op : BitVec 7) (fn : BitVec 3) (f : PL) : Word :=
  formWord op fn ((0 : BitVec 1) ++ f.pd ++ f.pa ++ f.pb ++ bit f.na ++ bit f.nb ++ (0 : BitVec 10))
def p1Word (op : BitVec 7) (fn : BitVec 3) (f : P1) : Word :=
  formWord op fn ((0 : BitVec 1) ++ f.pd ++ f.pa ++ (0 : BitVec 3) ++ bit f.na ++ (0 : BitVec 11))
def s3Word (op : BitVec 7) (fn : BitVec 3) (f : S3) : Word := formWord op fn (bit f.w ++ f.d ++ f.a ++ bit f.si ++ f.k)
def siWords (op : BitVec 7) (fn : BitVec 3) (f : SI) : List Word :=
  [formWord op fn (bit f.w ++ f.d ++ f.a ++ (0 : BitVec 2) ++ f.imm.extractLsb' 25 7), ixWord f.imm]
def smWords (op : BitVec 7) (fn : BitVec 3) (f : SM) : List Word :=
  [formWord op fn (bit f.w ++ f.d ++ (0 : BitVec 8) ++ f.imm.extractLsb' 25 7), ixWord f.imm]
def mWord (op : BitVec 7) (fn : BitVec 3) (f : M) : Word := formWord op fn (f.ctr ++ f.d ++ f.a ++ f.sb)
def msWord (op : BitVec 7) (fn : BitVec 3) (f : MS) : Word :=
  formWord op fn (f.ctr ++ (0 : BitVec 1) ++ f.d ++ (0 : BitVec 1) ++ f.a ++ f.sb)
def mpWord (op : BitVec 7) (fn : BitVec 3) (f : MP) : Word := formWord op fn (f.ctr ++ (0 : BitVec 7) ++ f.a ++ f.sb)
def mqWord (op : BitVec 7) (f : MQ) : Word := formWord op f.scope (f.ctr ++ (0 : BitVec 14) ++ f.sb)
def mrWord (op : BitVec 7) (f : MR) : Word := formWord op f.scope (f.ctr ++ (0 : BitVec 8) ++ f.a ++ f.sb)
def maWord (op : BitVec 7) (fn : BitVec 3) (f : MA) : Word := formWord op fn (f.ctr ++ (0 : BitVec 8) ++ f.r ++ f.sb)
def mdWord (op : BitVec 7) (fn : BitVec 3) (f : MA) : Word :=
  formWord op fn (f.ctr ++ (0 : BitVec 1) ++ f.r ++ (0 : BitVec 7) ++ f.sb)
def mbWord (op : BitVec 7) (fn : BitVec 3) (f : MB) : Word := formWord op fn (f.ctr ++ (0 : BitVec 14) ++ f.sb)
def mzWord (op : BitVec 7) (fn : BitVec 3) (ctr : BitVec 3) : Word := formWord op fn (ctr ++ (0 : BitVec 19))
def bWord (op : BitVec 7) (f : B) (any : Bool) : Word := formWord op f.pg (bit f.pn ++ bit any ++ f.ofs)
def xWord (op : BitVec 7) (fn : BitVec 3) (kd : BitVec 2) (d : BitVec 7) (sys : BitVec 8) : Word :=
  formWord op fn ((0 : BitVec 1) ++ kd ++ d ++ sys ++ (0 : BitVec 4))
def eWord (op : BitVec 7) (fn : BitVec 3) (f : E) : Word := formWord op fn (f.ctr ++ f.s ++ f.eq ++ f.pd ++ (0 : BitVec 4))
def eqWord (op : BitVec 7) (fn : BitVec 3) (f : EQ) : Word :=
  formWord op fn (f.ctr ++ (0 : BitVec 2) ++ f.n ++ f.eq ++ (0 : BitVec 7))
def efWord (op : BitVec 7) (fn : BitVec 3) (f : EF) : Word :=
  formWord op fn (f.ctr ++ (0 : BitVec 2) ++ f.n ++ (0 : BitVec 13))
def ezWord (op : BitVec 7) (fn : BitVec 3) (f : EZ) : Word :=
  formWord op fn (f.ctr ++ (0 : BitVec 4) ++ f.bank ++ f.eq ++ f.pd ++ (0 : BitVec 4))
def enWord (op : BitVec 7) (fn : BitVec 3) (f : EN) : Word := formWord op fn (f.ctr ++ f.s ++ f.eq ++ (0 : BitVec 7))
def epWord (op : BitVec 7) (fn : BitVec 3) (f : EP) : Word := formWord op fn (f.ctr ++ f.s ++ (0 : BitVec 13))
def yWord (op : BitVec 7) (fn : BitVec 3) (ctr : BitVec 3) (d a : BitVec 7) (k : BitVec 5) : Word :=
  formWord op fn (ctr ++ d ++ a ++ k)

/-- The words of an instruction, its extension word last (R34 to R41). An event of the device has none. -/
def encode : Instr → List Word
  | .vaddI32 f ox => v3Word 0x00 0 f :: oxWords ox
  | .vsubI32 f ox => v3Word 0x00 1 f :: oxWords ox
  | .vaddsI32 f ox => v3Word 0x00 2 f :: oxWords ox
  | .vsubsI32 f ox => v3Word 0x00 3 f :: oxWords ox
  | .vaddsN32 f ox => v3Word 0x00 4 f :: oxWords ox
  | .vsubsN32 f ox => v3Word 0x00 5 f :: oxWords ox
  | .vminI32 f ox => v3Word 0x00 6 f :: oxWords ox
  | .vmaxI32 f ox => v3Word 0x00 7 f :: oxWords ox
  | .vminN32 f ox => v3Word 0x01 0 f :: oxWords ox
  | .vmaxN32 f ox => v3Word 0x01 1 f :: oxWords ox
  | .vabsdI32 f ox => v3Word 0x01 2 f :: oxWords ox
  | .vabsdN32 f ox => v3Word 0x01 3 f :: oxWords ox
  | .vmulI32 f ox => v3Word 0x01 4 f :: oxWords ox
  | .vmulhiI32 f ox => v3Word 0x01 5 f :: oxWords ox
  | .vmulhiN32 f ox => v3Word 0x01 6 f :: oxWords ox
  | .vmadI32 f ox => [v3Word 0x02 0 f, oxWord ox]
  | .vdp4I8 f ox => [v3Word 0x02 1 f, oxWord ox]
  | .vdp4N8 f ox => [v3Word 0x02 2 f, oxWord ox]
  | .vdp2I16 f ox => [v3Word 0x02 3 f, oxWord ox]
  | .vandB32 f ox => v3Word 0x03 0 f :: oxWords ox
  | .vorB32 f ox => v3Word 0x03 1 f :: oxWords ox
  | .vxorB32 f ox => v3Word 0x03 2 f :: oxWords ox
  | .vandnB32 f ox => v3Word 0x03 3 f :: oxWords ox
  | .vornB32 f ox => v3Word 0x03 4 f :: oxWords ox
  | .vxnorB32 f ox => v3Word 0x03 5 f :: oxWords ox
  | .vshlB32 f ox => v3Word 0x04 0 f :: oxWords ox
  | .vshrN32 f ox => v3Word 0x04 1 f :: oxWords ox
  | .vshrI32 f ox => v3Word 0x04 2 f :: oxWords ox
  | .vrotlB32 f ox => v3Word 0x04 3 f :: oxWords ox
  | .vrotrB32 f ox => v3Word 0x04 4 f :: oxWords ox
  | .vpopcB32 f ox => v2Word 0x05 0 f :: oxWords ox
  | .vclzB32 f ox => v2Word 0x05 1 f :: oxWords ox
  | .vctzB32 f ox => v2Word 0x05 2 f :: oxWords ox
  | .vbrevB32 f ox => v2Word 0x05 3 f :: oxWords ox
  | .vnegI32 f ox => v2Word 0x05 4 f :: oxWords ox
  | .vabsI32 f ox => v2Word 0x05 5 f :: oxWords ox
  | .vmovB32 f ox => v2Word 0x05 6 f :: oxWords ox
  | .vnotB32 f ox => v2Word 0x05 7 f :: oxWords ox
  | .vbfxN32 f ox => [v3Word 0x06 0 f, oxWord ox]
  | .vbfxI32 f ox => [v3Word 0x06 1 f, oxWord ox]
  | .vbfiB32 f ox => [v3Word 0x06 2 f, oxWord ox]
  | .vfshB32 f ox => [v3Word 0x06 3 f, oxWord ox]
  | .vprmB8 f ox => [v3Word 0x06 4 f, oxWord ox]
  | .vaddI32Vs f ox => vsWord 0x07 0 f :: oxWords ox
  | .vsubI32Vs f ox => vsWord 0x07 1 f :: oxWords ox
  | .vmulI32Vs f ox => vsWord 0x07 2 f :: oxWords ox
  | .vandB32Vs f ox => vsWord 0x07 3 f :: oxWords ox
  | .vorB32Vs f ox => vsWord 0x07 4 f :: oxWords ox
  | .vxorB32Vs f ox => vsWord 0x07 5 f :: oxWords ox
  | .vshlB32Vs f ox => vsWord 0x07 6 f :: oxWords ox
  | .vshrN32Vs f ox => vsWord 0x07 7 f :: oxWords ox
  | .vaddI32Vi f => viWords 0x08 0 f
  | .vmulI32Vi f => viWords 0x08 1 f
  | .vandB32Vi f => viWords 0x08 2 f
  | .vorB32Vi f => viWords 0x08 3 f
  | .vxorB32Vi f => viWords 0x08 4 f
  | .vmovB32Vi f => vmWords 0x08 5 f
  | .faddF32Vi f => viWords 0x08 6 f
  | .fmulF32Vi f => viWords 0x08 7 f
  | .cmpI32 f ox => pcWord 0x09 f :: oxWords ox
  | .cmpN32 f ox => pcWord 0x0A f :: oxWords ox
  | .cmpF32 f ox => pcWord 0x0B f :: oxWords ox
  | .pand f ox => plWord 0x0C 0 f :: oxWords ox
  | .por f ox => plWord 0x0C 1 f :: oxWords ox
  | .pxor f ox => plWord 0x0C 2 f :: oxWords ox
  | .pandn f ox => plWord 0x0C 3 f :: oxWords ox
  | .pmov f ox => p1Word 0x0C 4 f :: oxWords ox
  | .voteAny f ox => p1Word 0x0C 5 f :: oxWords ox
  | .voteAll f ox => p1Word 0x0C 6 f :: oxWords ox
  | .voteUni f ox => p1Word 0x0C 7 f :: oxWords ox
  | .vselB32 sel f ox => v3Word 0x0D sel f :: oxWords ox
  | .vshflIdxB32 f ox => v3Word 0x0E 0 f :: oxWords ox
  | .vshflUpB32 f ox => v3Word 0x0E 1 f :: oxWords ox
  | .vshflDnB32 f ox => v3Word 0x0E 2 f :: oxWords ox
  | .vshflXorB32 f ox => v3Word 0x0E 3 f :: oxWords ox
  | .vbcstB32 f ox => vbWord 0x0F 0 f :: oxWords ox
  | .vbcstLaneB32 f ox => vsWord 0x0F 1 f :: oxWords ox
  | .vgetB32 f ox => vgetWord 0x0F 2 f :: oxWords ox
  | .vrdxB32 f ox => v3Word 0x10 0 f :: oxWords ox
  | .vwrxB32 f ox => v3Word 0x10 1 f :: oxWords ox
  | .cvtF32I32 f ox => v2Word 0x11 0 f :: oxWords ox
  | .cvtF32N32 f ox => v2Word 0x11 1 f :: oxWords ox
  | .cvtI32F32 f ox => v2Word 0x11 2 f :: oxWords ox
  | .cvtN32F32 f ox => v2Word 0x11 3 f :: oxWords ox
  | .cvtF16F32 f ox => v2Word 0x11 4 f :: oxWords ox
  | .cvtBf16F32 f ox => v2Word 0x11 5 f :: oxWords ox
  | .cvtF32F16 f ox => v2Word 0x11 6 f :: oxWords ox
  | .cvtF32Bf16 f ox => v2Word 0x11 7 f :: oxWords ox
  | .cvtF16x2F32 f ox => v3Word 0x12 0 f :: oxWords ox
  | .cvtBf16x2F32 f ox => v3Word 0x12 1 f :: oxWords ox
  | .pkE4m3 f ox => v3Word 0x13 0 f :: oxWords ox
  | .pkE5m2 f ox => v3Word 0x13 1 f :: oxWords ox
  | .pkE3m2 f ox => v3Word 0x13 2 f :: oxWords ox
  | .pkE2m3 f ox => v3Word 0x13 3 f :: oxWords ox
  | .pkE2m1 f ox => v3Word 0x13 4 f :: oxWords ox
  | .pkI8 f ox => v3Word 0x13 5 f :: oxWords ox
  | .pkI4 f ox => v3Word 0x13 6 f :: oxWords ox
  | .pkqN8 f ox => [v3Word 0x14 0 f, oxWord ox]
  | .pkqN4 f ox => [v3Word 0x14 1 f, oxWord ox]
  | .upkE4m3 f ox => v3Word 0x15 0 f :: oxWords ox
  | .upkE5m2 f ox => v3Word 0x15 1 f :: oxWords ox
  | .upkE3m2 f ox => v3Word 0x15 2 f :: oxWords ox
  | .upkE2m3 f ox => v3Word 0x15 3 f :: oxWords ox
  | .upkE2m1 f ox => v3Word 0x15 4 f :: oxWords ox
  | .upkI8 f ox => v3Word 0x15 5 f :: oxWords ox
  | .upkI4 f ox => v3Word 0x15 6 f :: oxWords ox
  | .upkN8 f ox => v3Word 0x17 0 f :: oxWords ox
  | .upkN4 f ox => v3Word 0x17 1 f :: oxWords ox
  | .saddIwSi f => siWords 0x16 0 f
  | .sandBwSi f => siWords 0x16 1 f
  | .sorBwSi f => siWords 0x16 2 f
  | .sxorBwSi f => siWords 0x16 3 f
  | .smovBw f => smWords 0x16 4 f
  | .smulIwSi f => siWords 0x16 5 f
  | .faddF32 f ox => v3Word 0x18 0 f :: oxWords ox
  | .fsubF32 f ox => v3Word 0x18 1 f :: oxWords ox
  | .fmulF32 f ox => v3Word 0x18 2 f :: oxWords ox
  | .fminF32 f ox => v3Word 0x18 3 f :: oxWords ox
  | .fmaxF32 f ox => v3Word 0x18 4 f :: oxWords ox
  | .fabsF32 f ox => v2Word 0x18 5 f :: oxWords ox
  | .fnegF32 f ox => v2Word 0x18 6 f :: oxWords ox
  | .fsgnF32 f ox => v3Word 0x18 7 f :: oxWords ox
  | .ffmaF32 f ox => [v3Word 0x19 0 f, oxWord ox]
  | .ffmsF32 f ox => [v3Word 0x19 1 f, oxWord ox]
  | .fnfmaF32 f ox => [v3Word 0x19 2 f, oxWord ox]
  | .fnfmsF32 f ox => [v3Word 0x19 3 f, oxWord ox]
  | .haddF16x2 f ox => v3Word 0x1A 0 f :: oxWords ox
  | .hmulF16x2 f ox => v3Word 0x1A 1 f :: oxWords ox
  | .hminF16x2 f ox => v3Word 0x1A 2 f :: oxWords ox
  | .hmaxF16x2 f ox => v3Word 0x1A 3 f :: oxWords ox
  | .haddBf16x2 f ox => v3Word 0x1A 4 f :: oxWords ox
  | .hmulBf16x2 f ox => v3Word 0x1A 5 f :: oxWords ox
  | .hminBf16x2 f ox => v3Word 0x1A 6 f :: oxWords ox
  | .hmaxBf16x2 f ox => v3Word 0x1A 7 f :: oxWords ox
  | .hfmaF16x2 f ox => [v3Word 0x1B 0 f, oxWord ox]
  | .hfmaBf16x2 f ox => [v3Word 0x1B 1 f, oxWord ox]
  | .hdot2F32F16x2 f ox => [v3Word 0x1B 2 f, oxWord ox]
  | .hdot2F32Bf16x2 f ox => [v3Word 0x1B 3 f, oxWord ox]
  | .frndF32 f ox => v2Word 0x1C 0 f :: oxWords ox
  | .ffloorF32 f ox => v2Word 0x1C 1 f :: oxWords ox
  | .fceilF32 f ox => v2Word 0x1C 2 f :: oxWords ox
  | .ftruncF32 f ox => v2Word 0x1C 3 f :: oxWords ox
  | .ffractF32 f ox => v2Word 0x1C 4 f :: oxWords ox
  | .fclassF32 f ox => v2Word 0x1C 5 f :: oxWords ox
  | .faddF32Vs f ox => vxWord 0x1D 0 f :: oxWords ox
  | .fmulF32Vs f ox => vxWord 0x1D 1 f :: oxWords ox
  | .fminF32Vs f ox => vxWord 0x1D 2 f :: oxWords ox
  | .fmaxF32Vs f ox => vxWord 0x1D 3 f :: oxWords ox
  | .saddIw f => [s3Word 0x1E 0 f]
  | .ssubIw f => [s3Word 0x1E 1 f]
  | .smulIw f => [s3Word 0x1E 2 f]
  | .sandBw f => [s3Word 0x1E 3 f]
  | .sorBw f => [s3Word 0x1E 4 f]
  | .sxorBw f => [s3Word 0x1E 5 f]
  | .sshlBw f => [s3Word 0x1E 6 f]
  | .sshrNw f => [s3Word 0x1E 7 f]
  | .sshrIw f => [s3Word 0x1F 0 f]
  | .sminIw f => [s3Word 0x1F 1 f]
  | .smaxIw f => [s3Word 0x1F 2 f]
  | .sminNw f => [s3Word 0x1F 3 f]
  | .smaxNw f => [s3Word 0x1F 4 f]
  | .sseqBw f => [s3Word 0x1F 5 f]
  | .ssltIw f => [s3Word 0x1F 6 f]
  | .ssltNw f => [s3Word 0x1F 7 f]
  | .frcpF32 f ox => v2Word 0x20 0 f :: oxWords ox
  | .frsqF32 f ox => v2Word 0x20 1 f :: oxWords ox
  | .fsqrtF32 f ox => v2Word 0x20 2 f :: oxWords ox
  | .fexp2F32 f ox => v2Word 0x20 3 f :: oxWords ox
  | .flog2F32 f ox => v2Word 0x20 4 f :: oxWords ox
  | .fsinF32 f ox => v2Word 0x20 5 f :: oxWords ox
  | .fcosF32 f ox => v2Word 0x20 6 f :: oxWords ox
  | .ftanhF32 f ox => v2Word 0x20 7 f :: oxWords ox
  | .fdivF32 f ox => v3Word 0x21 0 f :: oxWords ox
  | .fatan2F32 f ox => v3Word 0x21 1 f :: oxWords ox
  | .ldgN8 f ox => mWord 0x28 0 f :: oxWords ox
  | .ldgI8 f ox => mWord 0x28 1 f :: oxWords ox
  | .ldgN16 f ox => mWord 0x28 2 f :: oxWords ox
  | .ldgI16 f ox => mWord 0x28 3 f :: oxWords ox
  | .ldgB32 f ox => mWord 0x28 4 f :: oxWords ox
  | .ldgB64 f ox => mWord 0x28 5 f :: oxWords ox
  | .ldgB128 f ox => mWord 0x28 6 f :: oxWords ox
  | .stgB8 f ox => mWord 0x29 0 f :: oxWords ox
  | .stgB16 f ox => mWord 0x29 1 f :: oxWords ox
  | .stgB32 f ox => mWord 0x29 2 f :: oxWords ox
  | .stgB64 f ox => mWord 0x29 3 f :: oxWords ox
  | .stgB128 f ox => mWord 0x29 4 f :: oxWords ox
  | .ldgTB32 f ox => mWord 0x2A 0 f :: oxWords ox
  | .ldgTB64 f ox => mWord 0x2A 1 f :: oxWords ox
  | .ldgTB128 f ox => mWord 0x2A 2 f :: oxWords ox
  | .ldsB32 f ox => mWord 0x2B 0 f :: oxWords ox
  | .ldsB64 f ox => mWord 0x2B 1 f :: oxWords ox
  | .ldsB128 f ox => mWord 0x2B 2 f :: oxWords ox
  | .stsB32 f ox => mWord 0x2B 3 f :: oxWords ox
  | .stsB64 f ox => mWord 0x2B 4 f :: oxWords ox
  | .stsB128 f ox => mWord 0x2B 5 f :: oxWords ox
  | .lduB32 f ox => msWord 0x2C 0 f :: oxWords ox
  | .lduB64 f ox => msWord 0x2C 1 f :: oxWords ox
  | .lduB128 f ox => msWord 0x2C 2 f :: oxWords ox
  | .lduB256 f ox => msWord 0x2C 3 f :: oxWords ox
  | .lduB512 f ox => msWord 0x2C 4 f :: oxWords ox
  | .stuB32 f ox => msWord 0x2C 5 f :: oxWords ox
  | .stuB64 f ox => msWord 0x2C 6 f :: oxWords ox
  | .atomAddI32 f ox => mWord 0x2D 0 f :: oxWords ox
  | .atomMinI32 f ox => mWord 0x2D 1 f :: oxWords ox
  | .atomMaxI32 f ox => mWord 0x2D 2 f :: oxWords ox
  | .atomMinN32 f ox => mWord 0x2D 3 f :: oxWords ox
  | .atomMaxN32 f ox => mWord 0x2D 4 f :: oxWords ox
  | .atomAndB32 f ox => mWord 0x2D 5 f :: oxWords ox
  | .atomOrB32 f ox => mWord 0x2D 6 f :: oxWords ox
  | .atomXorB32 f ox => mWord 0x2D 7 f :: oxWords ox
  | .atomXchgB32 f ox => mWord 0x2E 0 f :: oxWords ox
  | .atomCasB32 f ox => [mWord 0x2E 1 f, oxWord ox]
  | .atomAddI64 f ox => mWord 0x2E 2 f :: oxWords ox
  | .atomXchgB64 f ox => mWord 0x2E 3 f :: oxWords ox
  | .atomCasB64 f ox => [mWord 0x2E 4 f, oxWord ox]
  | .redAddF32 f ox => mWord 0x2F 0 f :: oxWords ox
  | .redAddBf16x2 f ox => mWord 0x2F 1 f :: oxWords ox
  | .redAddI32 f ox => mWord 0x2F 2 f :: oxWords ox
  | .redAddI64 f ox => mWord 0x2F 3 f :: oxWords ox
  | .redMinF32 f ox => mWord 0x2F 4 f :: oxWords ox
  | .redMaxF32 f ox => mWord 0x2F 5 f :: oxWords ox
  | .pfL1 f ox => mpWord 0x30 0 f :: oxWords ox
  | .pfL2 f ox => mpWord 0x30 1 f :: oxWords ox
  | .pfRdc f ox => mpWord 0x30 2 f :: oxWords ox
  | .acq f ox => mqWord 0x31 f :: oxWords ox
  | .rel f ox => mqWord 0x32 f :: oxWords ox
  | .acqrel f ox => mqWord 0x33 f :: oxWords ox
  | .invRgn f ox => mrWord 0x34 f :: oxWords ox
  | .barInit f ox => maWord 0x35 0 f :: oxWords ox
  | .barArr f ox => mdWord 0x35 1 f :: oxWords ox
  | .barWait f ox => maWord 0x35 2 f :: oxWords ox
  | .barSync f ox => mbWord 0x35 3 f :: oxWords ox
  | .drainSp ctr ox => mzWord 0x36 0 ctr :: oxWords ox
  | .drainLoc ctr ox => mzWord 0x36 1 ctr :: oxWords ox
  | .drainTwin ctr ox => mzWord 0x36 2 ctr :: oxWords ox
  | .drainHost ctr ox => mzWord 0x36 3 ctr :: oxWords ox
  | .logmark f ox => mbWord 0x37 0 f :: oxWords ox
  | .bra f => [bWord 0x40 f false]
  | .braAny f => [bWord 0x40 f true]
  | .split f join => [bWord 0x41 f false, txWord join]
  | .call f => [bWord 0x42 f false]
  | .ret => [xWord 0x43 0 0 0 0]
  | .exit => [xWord 0x43 1 0 0 0]
  | .yield => [xWord 0x43 2 0 0 0]
  | .nop => [xWord 0x43 3 0 0 0]
  | .brx d => [xWord 0x43 4 1 ((0 : BitVec 1) ++ d) 0]
  | .trap code => [xWord 0x44 0 0 0 code]
  | .brk code => [xWord 0x44 1 0 0 code]
  | .tretSkip => [xWord 0x44 2 0 0 0]
  | .tretRetry => [xWord 0x44 3 0 0 0]
  | .reggrow code => [xWord 0x45 0 0 0 code]
  | .regshrink code => [xWord 0x45 1 0 0 code]
  | .pushc f ox => eWord 0x50 0 f :: oxWords ox
  | .qbindIn f ox => eqWord 0x51 0 f :: oxWords ox
  | .qbindOut f ox => eqWord 0x51 1 f :: oxWords ox
  | .qfree f ox => efWord 0x51 2 f :: oxWords ox
  | .mloop f ox => [eWord 0x52 0 f, oxWord ox]
  | .mscale f ox => [eWord 0x53 0 f, oxWord ox]
  | .mzero f ox => ezWord 0x54 0 f :: oxWords ox
  | .mdrainQ f ox => enWord 0x55 0 f :: oxWords ox
  | .mdrainSp f ox => enWord 0x55 1 f :: oxWords ox
  | .mstat f ox => enWord 0x56 0 f :: oxWords ox
  | .mpath f ox => [epWord 0x57 0 f, oxWord ox]
  | .rsv f ox => yWord 0x60 0 f.ctr f.d f.a 0 :: oxWords ox
  | .spwn f ox => yWord 0x61 0 f.ctr f.d f.a f.k :: oxWords ox
  | .trace f ox => yWord 0x62 0 f.ctr 0 f.a f.k :: oxWords ox
  | .epend ctr ox => yWord 0x63 0 ctr 0 0 0 :: oxWords ox
  | .hitattr f ox => yWord 0x64 0 f.ctr f.d 0 f.k :: oxWords ox
  | .rayget f ox => yWord 0x65 0 f.ctr f.d 0 f.k :: oxWords ox
  | .rayset f ox => yWord 0x66 0 f.ctr f.d 0 f.k :: oxWords ox
  | .accum f ox => yWord 0x67 0 f.ctr f.d 0 0 :: oxWords ox
  | .accumPx f ox => yWord 0x67 0 f.ctr f.d f.a 1 :: oxWords ox
  | .accaux f ox => yWord 0x68 0 f.ctr f.d 0 0 :: oxWords ox
  | .accauxPx f ox => yWord 0x68 0 f.ctr f.d f.a 1 :: oxWords ox
  | .ahitAccept ctr ox => yWord 0x69 0 ctr 0 0 0 :: oxWords ox
  | .ahitAcceptEnd ctr ox => yWord 0x69 0 ctr 0 0 1 :: oxWords ox
  | .ahitIgnore ctr ox => yWord 0x69 1 ctr 0 0 0 :: oxWords ox
  | .tlpf f ox => yWord 0x6A 0 f.ctr 0 f.a f.k :: oxWords ox
  | .poolst f ox => yWord 0x6B 0 f.ctr ((0 : BitVec 1) ++ f.d) 0 f.k :: oxWords ox
  | .dntile f ox => yWord 0x6C 0 f.ctr ((0 : BitVec 1) ++ f.d) 0 ((0 : BitVec 3) ++ f.k) :: oxWords ox
  | .rdsys f => [xWord 0x70 0 f.kd f.d f.sys]
  | .wrsys f => [xWord 0x71 0 f.kd f.d f.sys]
  | .clauseStart _ _ => []
  | .runAheadTimeout _ _ => []
  | .faultReissue _ _ => []
  | .loadComplete _ _ _ => []
  | .storeComplete _ _ _ => []
  | .relBegin _ _ => []
  | .acqComplete _ _ => []
  | .rdq _ _ => []
  | .data _ _ => []
  | .fwd _ _ => []
  | .frep _ _ => []
  | .reg _ _ => []
  | .mrg _ _ => []
  | .mfwd _ _ => []
  | .rack _ _ => []
  | .mack _ _ => []
  | .wb _ _ => []
  | .wack _ _ => []
  | .atq _ _ => []
  | .xfer _ _ => []
  | .xferv _ _ => []
  | .aval _ _ => []
  | .rcl _ _ => []
  | .l1Evict _ _ => []
  | .l2Evict _ => []
  | .rdcEvict _ => []
  | .hostRead _ => []
  | .hostWrite _ _ => []
  | .hostSnoop _ => []
  | .biasMerge _ => []
  | .syncTableOp => []
  | .redNodeFold _ => []
  | .pageWalkStart _ => []
  | .pageWalkComplete _ _ _ => []
  | .groupEnd _ _ => []
  | .episodeEnd _ _ => []
  | .waitGroupTimeout _ _ => []
  | .waveDispatch => []
  | .binAgeReady _ => []
  | .reggrowGrant _ => []
  | .regshrinkDone _ _ => []
  | .rsvGrant _ => []
  | .poolDrainTimeout _ => []
  | .genRayCreate _ _ => []
  | .treeletFetchStart _ _ _ => []
  | .treeletAgeExpire _ _ _ => []
  | .treeletFetchComplete _ _ _ => []
  | .traverse _ => []
  | .raySpill _ => []
  | .rayUnspill _ => []
  | .tileRetire _ _ => []
  | .tileAddResume => []
  | .copy _ => []
  | .tcopy _ => []
  | .gather _ => []
  | .scatter _ => []
  | .fill _ => []
  | .launch => []
  | .prdx _ => []
  | .prdxCombine _ => []
  | .engineCmdComplete _ _ => []
  | .bankZero _ _ => []
  | .mloopStart _ => []
  | .matrixStepStart _ => []
  | .matrixStepEnd _ => []
  | .mdrainRead _ => []
  | .denoiseStart _ => []
  | .launchWindow => []
  | .headAged _ => []
  | .issuePromote _ _ => []
  | .gridComplete _ _ => []
  | .queueDoorbell _ _ => []
  | .queueStpClear _ => []
  | .cmdDoorbell _ => []
  | .logTailWrite _ _ => []
  | .hostRegWrite _ _ _ => []
  | .ctxcreate => []
  | .ctxdestroy => []
  | .setctxTrans => []
  | .setctxTrap => []
  | .setctxLog => []
  | .setctxRay => []
  | .setctxPfx => []
  | .setctxFrame => []
  | .setctxDbg => []
  | .inval => []
  | .invalComplete _ => []
  | .verdictResolved => []
  | .verdictGivenUp => []
  | .preempt => []
  | .preemptComplete _ => []
  | .preemptDeadline _ => []
  | .reset => []
  | .resumePreempt => []
  | .resumeHalt => []
  | .halt => []
  | .haltComplete _ => []
  | .step => []
  | .dbgread => []
  | .dbgwrite => []
  | .raysave => []
  | .banksave => []
  | .bankload => []
  | .tileflush => []
  | .tileclear => []
  | .salvage => []
  | .coalescerWrite _ => []
  | .deviceReset => []
  | .selfTestPass _ => []
  | .selfTestFail _ _ => []
  | .linkTrained => []
  | .linkRetrainTimer => []
  | .spdmRequest _ => []
  | .clockChange _ => []
  | .thermalThrottle => []
  | .thermalShutdown => []
  | .supplyFault => []
  | .twinFlitRetry => []
  | .twinFail => []
  | .l2FillComplete _ => []
  | .backInvalidationAnswer _ => []
  | .hostWriteBackAccept _ => []

end Sys2Proof
end

