-- ==== Sys2Proof/Machine/State.lean ====
section
/-!
DEFINITION. The state of one PX960 device as plain data: the groups and their registers (R8 to R27), memory and the
states of words (R316, R317), translation (R270 to R283), the engines (R146 to R174), the rays and their sorter
(R192 to R241), the launch unit (R247 to R268), the host function and the contexts (R287 to R291), the order log
(R337 to R349) and bring-up (R381 to R385); the faults and refusals a step can end in; and the state at reset.

Every agent of the device acts in steps that the spec's table lists, and the order in which agents act is not the
spec's to fix. `State.sched` holds that order as data: the turn at its head is the next to act.
-/

namespace Sys2Proof.Machine

/-! ## Translation (R270 to R283) -/

/-- The HOME codes of a page-table entry (R271). -/
inductive Home where
  | loc | twin | host | peer
  deriving DecidableEq, Repr

/-- The memory types (R271, R309). -/
inductive MemType where
  | nrm | wcb | dev | sor
  deriving DecidableEq, Repr

/-- The atomic capabilities (R271, R275). -/
inductive AtomCap where
  | none | dev | pair | sys
  deriving DecidableEq, Repr

/-- One leaf translation: a page, its size in bytes and the fields of its entry (R271, R272). -/
structure Leaf where
  vbase : Nat
  size : Nat
  home : Home
  pbase : Nat
  mt : MemType
  ac : AtomCap
  dsc : Bool
  r : Bool
  w : Bool
  x : Bool
  deriving DecidableEq, Repr

/-- A TLB entry: a leaf tagged by its context (R276). -/
structure TlbEntry where
  ctx : Nat
  leaf : Leaf
  deriving DecidableEq, Repr

/-- How a walk that finds no usable leaf ends (R273, R126). -/
inductive WalkEnd where
  | absent | malformed | poison
  deriving DecidableEq, Repr

/-- A walk request of a hamlet's queue or a walk in progress (R277). `soft` marks a walk started by ldg.t alone (R129). -/
structure WalkReq where
  ctx : Nat
  page : Nat
  core : Nat
  soft : Bool
  deriving DecidableEq, Repr

/-- The outcome of a walk that filled no TLB, kept until the access that asked for it issues again. -/
structure WalkFail where
  ctx : Nat
  page : Nat
  core : Nat
  why : WalkEnd
  deriving DecidableEq, Repr

/-! ## Word states and messages (R316 to R329) -/

/-- The L1 and RDC states of a word that is held (R317); an absent word is INV. -/
inductive CopySt where
  | cln | drt | reg
  deriving DecidableEq, Repr

/-- The stamp of a line at its home (R345). -/
structure Stamp where
  stamp : Nat
  writer : Option Nat
  ctx : Option Nat
  deriving DecidableEq, Repr

/-- A word held in an L1 or the RDC: its state, its value, the mask of the dirty bytes, the bytes whose value is known,
the poison mark, and the stamp that came with it (R317, R125, R345). -/
structure Copy where
  st : CopySt
  val : Word
  mask : BitVec 4
  held : BitVec 4
  poison : Bool
  stamp : Option Stamp
  deriving DecidableEq, Repr

/-- One of the 64 write-back holding entries of an L1 (R317, R324). `owned` tells a word given up REG from one given up
DRT; `serial` names the WB whose WACK frees the entry. -/
structure Held where
  word : Nat
  val : Word
  mask : BitVec 4
  poison : Bool
  owned : Bool
  serial : Nat
  deriving DecidableEq, Repr

/-- The home state of a word that is not VAL (R316): the owner's device and unit, or LOST. -/
inductive HomeSt where
  | own (far : Bool) (unit : Nat)
  | lost
  deriving DecidableEq, Repr

/-- The messages of R318. -/
inductive MsgKind where
  | rdq | data | fwd | frep | reg | mrg | mfwd | rack | mack | wb | wack | atq | xfer | xferv | aval | rcl
  deriving DecidableEq, Repr

/-- One word carried by a message: its address, value, byte mask, poison mark and stamp. -/
structure WordVal where
  word : Nat
  val : Word
  mask : BitVec 4
  poison : Bool
  stamp : Option Stamp
  deriving DecidableEq, Repr

/-- A message in flight about words of one line (R318, R319). `who` is the requester or new owner it names; `words` the
words named without a value, `vals` those with one. `ctx` is the context served, for an acknowledgement `serial` of its
request stands in `tag`. `form` is 1 for a DATA that gives ownership and for a WB of dirty words, 2 for a WB sent
again. `void` marks a fill that its requester no longer keeps. -/
structure Msg where
  kind : MsgKind
  src : Agent
  dst : Agent
  addr : Nat
  who : Agent
  ctx : Option Nat := none
  tag : Nat := 0
  form : Nat := 0
  words : List Nat := []
  vals : List WordVal := []
  serial : Nat := 0
  void : Bool := false
  deriving DecidableEq, Repr

/-- The states in which the RDC holds a host-homed line under CXL.cache (R317); an absent line is invalid. -/
inductive CxlSt where
  | shared | exclusive | modified
  deriving DecidableEq, Repr

/-- A host-homed line in the RDC: its state, and each word with its poison mark (R317, R333). -/
structure HostLine where
  st : CxlSt
  vals : List (Word × Bool)
  deriving DecidableEq, Repr

/-! ## Groups (R8 to R27, R109 to R117) -/

/-- The two program-counter slots (R8). -/
inductive SlotId where
  | a | b
  deriving DecidableEq, Repr

/-- The state of a program-counter slot (R109). -/
inductive SlotSt where
  | empty | running | parked
  deriving DecidableEq, Repr

/-- A program-counter slot: state, PC, execution mask, reconvergence address, and the clock since which it waits (R109, R266). -/
structure PcSlot where
  st : SlotSt
  pc : Nat
  mask : Mask
  rpc : Option Nat
  since : Nat
  deriving DecidableEq, Repr

/-- A split-stack entry as its two 64-bit words (R112). -/
structure SplitEntry where
  lo : DWord
  hi : DWord
  deriving DecidableEq, Repr

/-- The clause being issued: its slot, its header's address, its header, the words fetched, and the position of the
next word, counted from 0 (R33, R386). -/
structure Clause where
  pcs : SlotId
  addr : Nat
  hdr : Word
  words : List Word
  idx : Nat
  deriving DecidableEq, Repr

/-- The kinds of group that R177 tells apart. -/
inductive GroupKind where
  | compute | gen | hit | miss | anyhit
  deriving DecidableEq, Repr

/-- What a lane's ray does at episode end (R185). -/
inductive Disposition where
  | retire | continue | trace
  deriving DecidableEq, Repr

/-- The any-hit decision of a lane (R196). -/
inductive AnyHit where
  | accept (endTrav : Bool)
  | ignore
  deriving DecidableEq, Repr

/-- A queue register that is bound: its port, direction, window and elements, oldest first (R14, R164). An element
carries its poisoned lanes. -/
structure QueueReg where
  port : Nat
  out : Bool
  window : Nat
  elems : List (Lanes × Mask)
  deriving DecidableEq, Repr

/-- Where one lane of a memory operation acts: its virtual address, its location, its memory type, whether its page is
discarded (the read gives zeros, R274), the words it stores or combines, and the first location of its page. -/
structure LaneRef where
  lane : Nat
  va : Nat
  loc : Nat
  page : Nat
  mt : MemType
  zero : Bool
  data : List Word
  deriving DecidableEq, Repr

/-- The operations that an atomic lane applies (R131). -/
inductive AtomFn where
  | add | minS | maxS | minU | maxU | and | or | xor | xchg | cas
  deriving DecidableEq, Repr

/-- The combinations of a reduction, in the order of F (R134). -/
inductive RedForm where
  | addF32 | addBf16x2 | addI32 | addI64 | minF32 | maxF32
  deriving DecidableEq, Repr

/-- The barrier forms (R142). -/
inductive BarForm where
  | init | arr | wait | sync
  deriving DecidableEq, Repr

/-- The memories that a drain names (R144). -/
inductive DrainMem where
  | sp | loc | twin | host
  deriving DecidableEq, Repr

/-- What an outstanding operation of a group does when it completes. -/
inductive OpKind where
  | load (bytes : Nat) (signed : Bool)       -- ldg, lds, ldg.t: into vector D and the registers of its run (R127)
  | loadU (bytes : Nat)                      -- ldu: into scalars (R128)
  | store (bytes : Nat)                      -- stg, sts, stu (R127, R128)
  | atom (fn : AtomFn) (bytes : Nat)         -- atom: old values into D (R131)
  | red                                      -- a reduction's contribution has been made (R134)
  | bar (form : BarForm) (off : Nat) (arg : Nat) (phase : Option Bool)   -- R142
  | drain (m : DrainMem) (before mark : Nat) -- waits for what the core issued before it (R144)
  | rsv (n : List (Nat × Nat)) (total : Nat) (want : Option Bool)   -- a request, and what a replay gives it (R193, R195)
  | accum                                    -- additions to the accumulation buffer that wait (R197)
  | mzero (quad bank : Nat)                  -- until the bank is zeroed (R167)
  | mdrain (quad : Nat)                      -- until the drain has delivered (R173)
  | mark                                     -- a log mark waiting for the ring (R145)
  deriving DecidableEq, Repr

/-- An outstanding operation of a group, counted by counter `ctr` (R15, R121). `sp` marks the scratchpad; the last four
fields name the word that issued it. -/
structure MemOp where
  id : Nat
  kind : OpKind
  ctr : Nat
  dst : Nat
  sp : Bool
  lanes : List LaneRef
  pc : Nat
  pcs : SlotId
  idx : Nat
  hdr : Word
  deriving DecidableEq, Repr

/-- The stage of an acq, rel, acqrel (R138). -/
inductive SyncStage where
  | waiting | table | acks | inval
  deriving DecidableEq, Repr

/-- An outstanding acquire or release (R136 to R140), or inv.rgn (R141). `eff` is the scope it is performed at once the
table has answered, `seq` the SEQ that a replay gives its release, `obs` the release that its acquire observes; `mark` is the
serial below which it awaits the registrations of the releasers in `source`, each with its scope. -/
structure SyncOp where
  core : Nat
  slot : Nat
  id : Nat
  ctr : Nat
  rel : Bool
  acq : Bool
  scope : Nat
  var : Nat
  eff : Nat
  stage : SyncStage
  mark : Nat
  source : List (Nat × Nat)
  seq : Nat
  obs : Option Nat
  inv : Bool
  pc : Nat
  pcs : SlotId
  idx : Nat
  hdr : Word
  deriving DecidableEq, Repr

/-- One page of a fault batch: the page, the cause and log2 of the prefetch span (R279, R282). -/
structure BatchPage where
  page : Nat
  cause : Nat
  span : Nat
  verdict : Option Bool
  deriving DecidableEq, Repr

/-- What faulted: an instruction's lanes, the fetch of a word of a clause with what its trap would report, or a
transfer's target (R279, R387, R32). -/
inductive BatchOf where
  | lanes (mask : Mask)
  | fetch (pcs : SlotId) (pc word idx : Nat) (hdr : Word)
  | target (addr : Nat)
  deriving DecidableEq, Repr

/-- A group's fault batch (R279). `ahead` marks run-ahead, begun at clock `since`; `released` that every verdict is in
and the group may issue again. -/
structure Batch where
  what : BatchOf
  pages : List BatchPage
  ahead : Bool
  released : Bool
  since : Nat
  deriving DecidableEq, Repr

/-- The lanes and scalars that read as unknown in run-ahead (latch n as register 124 + n), and the bytes that suppressed
stores wrote, each as 2^48 times its lane plus its address (R280). -/
structure Unknowns where
  v : Tbl Mask
  p : Tbl Mask
  s : Tbl Bool
  mem : List Nat
  deriving DecidableEq, Repr

/-- The state that a trap holds aside until TRET (R113): both slots with their RPCs, and the split stack. `atHeader`
marks a trap of a clause that had issued no word; operations named from `ops` on are the handler's (R370). -/
structure Aside where
  a : PcSlot
  b : PcSlot
  who : SlotId
  top : Option SplitEntry
  depth : Nat
  atHeader : Bool
  ops : Nat
  deriving DecidableEq, Repr

/-- A clause to be resumed in the middle by its slot (R115, R390): at the word after the faulting one's extension when
`skip` is set. A debug halt keeps the clause's words; a return from a trap fetches them again (R377, R386). -/
structure Resume where
  pcs : SlotId
  addr : Nat
  hdr : Word
  idx : Nat
  skip : Bool
  words : List Word
  deriving DecidableEq, Repr

/-- A resident group: identity (R17, R20, R21), registers (R8), slots and stack (R109, R112), the clause in issue with
its latches (R16), trap registers (R17), outstanding operations (R15) and the holds on its issue (R266). -/
structure Group where
  core : Nat
  slot : Nat
  ctx : Nat
  grid : Nat
  cluster : Nat
  team : Nat
  index : Nat
  kind : GroupKind
  cls : Nat
  regAlloc : Nat
  splitMax : Nat
  spillBase : Nat
  v : Tbl Lanes
  vPoison : Tbl Mask
  s : Tbl DWord
  sPoison : Tbl Bool
  p : Tbl Mask
  fpctl : Word
  fflags : Lanes
  srseed : Lanes
  queues : Tbl QueueReg
  cnt : Tbl Nat
  a : PcSlot
  b : PcSlot
  top : Option SplitEntry
  depth : Nat
  clause : Option Clause
  resume : Option Resume
  latches : List Lanes
  latchValid : BitVec 4
  trapPc : Nat
  trapCause : Nat
  trapMask : Mask
  trapAddr : Nat
  trapDst : Nat
  inHandler : Bool
  aside : Option Aside
  diverged : Option Nat           -- the TRAPADDR of the trap with which a wave starts that differs from its record (R216)
  stopped : Option Nat            -- halted for good, by the event KIND reported (R23, R26, R112, R369)
  halted : Bool                   -- debug halt (R377)
  haltAsked : Bool                -- named by a HALT while its word waits for system software (R279, R377)
  stepping : Bool
  grow : Option (Nat × Nat)       -- reggrow: the allocation asked for, and when (R117)
  shrink : Option Nat             -- regshrink waiting for loads (R117)
  batch : Option Batch
  unknown : Unknowns
  ops : List MemOp
  rays : Tbl Nat                  -- lane to ray (R21)
  disp : Tbl Disposition
  decision : Tbl AnyHit
  res : Tbl Nat                   -- RES(l) (R192)
  spawns : Tbl Nat                -- spawn index per lane (R340)
  waveSeq : Nat                   -- SEQ of the WAVE record of the episode (R339)
  entry : Nat                     -- address of the episode's shader-table entry (R185, R255)
  byEpend : Bool                  -- the slot emptied last was emptied by epend (R185)
  waitingSince : Option Nat       -- waits for its next wave since this clock (R185)
  issuedAt : Nat                  -- clock of the last clause start, or of eligibility (R266)
  candSince : Option Nat          -- clock since which it has been a candidate and started no clause (R266)
  promoted : Bool
  yielded : Bool
  deriving DecidableEq, Repr

/-- A resident team: its place, its groups still running, its scratchpad and the barrier and status words in it (R247, R258). -/
structure Team where
  core : Nat
  ctx : Nat
  grid : Nat
  cluster : Nat
  team : Nat
  key : Nat
  size : Nat
  mem : List Host.Cell
  poison : Tbl Bool
  running : List Nat
  ng : Nat
  deriving DecidableEq, Repr

/-! ## Reductions and synchronisation (R313 to R315, R330 to R332) -/

/-- A node of a reduction tree (R330): level 0 group, 1 team, 2 cluster, 3 grid; `path` names it in its level. -/
structure RedNode where
  ctx : Nat
  grid : Nat
  loc : Nat
  va : Nat
  mt : MemType
  form : RedForm
  level : Nat
  cluster : Nat
  team : Nat
  index : Nat
  partialSum : Option DWord
  next : Nat
  closed : Bool
  born : Nat                      -- the first operation that contributes is named from here on (R283)
  deriving DecidableEq, Repr

/-- An entry of the sync-variable table (R313): the last releaser by device, core and slot; `leaving` is set while it is
being evicted, to the serial below which its catch-up's registrations are awaited (R315). -/
structure SyncEntry where
  ctx : Nat
  var : Nat
  widest : Nat
  last : Option (Bool × Nat × Nat)
  relSeq : Nat
  lastRel : Option Nat
  obs : Nat
  use : Nat
  leaving : Option Nat
  deriving DecidableEq, Repr

/-! ## Rays (R178, R207 to R234) -/

/-- A hit: its distance, barycentrics, ids, face and the fields of its instance that later rules read (R187, R229, R231). -/
structure Hit where
  t : Word
  u : Word
  v : Word
  prim : Word
  geom : Word
  inst : Word
  back : Bool
  iusr : Word
  hbase : Nat
  deriving DecidableEq, Repr

/-- The space that traversal is in below an instance (R220, R228), with what its hits take from the instance. -/
structure InstSpace where
  o : List Word
  d : List Word
  inst : Word
  iusr : Word
  hbase : Nat
  flags : Nat
  deriving DecidableEq, Repr

/-- What an entry of a traversal names: a node, or what is left of a run of triangles or instances (R218). -/
inductive TravWhat where
  | node (treelet line : Nat)
  | tris (treelet ofs count : Nat)
  | insts (treelet ofs count : Nat)
  deriving DecidableEq, Repr

/-- An entry still to be popped by a traversal (R226): what it names, its entry distance if it is a child, its space. -/
structure TravItem where
  what : TravWhat
  dist : Option Word
  space : Option InstSpace
  deriving DecidableEq, Repr

/-- The traversal state of a ray (R226, R232): its entries, next first, its committed hit and its candidate. -/
structure Trav where
  stack : List TravItem
  hit : Option Hit
  cand : Option Hit
  deriving DecidableEq, Repr

/-- Where a ray is (R207). A bin is named by its key beyond context and grid (R212). -/
inductive RayPlace where
  | travBin (treelet : Nat)
  | traversal (treelet : Nat)
  | shadeBin (entry cell dir : Nat)
  | episode (core slot lane : Nat)
  deriving DecidableEq, Repr

/-- A ray record with its traversal state, its identity (R340) and its place; words 0 to 11 and the payload (R178).
`since` is the clock at which it entered its bin, `spilled` its place in the spill region (R210), with the first of the free
values that bytes 48 to 63 hold there (R178). -/
structure Ray where
  id : Nat
  ctx : Nat
  grid : Nat
  rid : DWord
  words : List Word
  payload : List Word
  payPoison : BitVec 16
  trav : Trav
  place : RayPlace
  since : Nat
  spilled : Option (Nat × Nat)
  deriving DecidableEq, Repr

/-- A bin of the sorter (R212, R213): a shading bin names an entry, a cell and a direction class; a traversal bin a treelet. -/
structure Bin where
  ctx : Nat
  grid : Nat
  shading : Bool
  entry : Nat
  cell : Nat
  dir : Nat
  ready : Bool
  deriving DecidableEq, Repr

/-- A treelet in a treelet-cache slice, or being fetched into it; a fetch that waits for a place in a full slice is not
`placed` (R222 to R225). -/
structure Treelet where
  ctx : Nat
  base : Nat
  index : Nat
  slice : Nat
  data : List Host.Cell
  placed : Bool
  ready : Bool
  fault : Option Nat
  used : Nat
  deriving DecidableEq, Repr

/-- What a retirement takes of its context's frame as it begins (R235, R240, R290): FW, FH, IMG, MRK and RES. -/
structure TileFrame where
  fw : Nat
  fh : Nat
  img : Nat
  mrk : Nat
  res : Nat
  deriving DecidableEq, Repr

/-- A place of the accumulation buffer (R236, R237, R239): channel c of slot k at key 8k + c, mark word k. A tile that
retires goes by the `frame` it began with and has done `pos` of its accesses; `merged` and `mmark` are what the last merges
left in memory (R240). -/
structure Tile where
  ctx : Nat
  tile : Nat
  chans : Tbl DWord
  marks : Tbl (BitVec 16)
  last : Nat
  retiring : Bool
  frame : TileFrame
  waitPage : Option Nat
  pos : Nat
  merged : List DWord
  mmark : BitVec 16
  deriving DecidableEq, Repr

/-- An addition that waits for its tile's place (R239, R241), to a pixel of a frame of width `fw`. -/
structure TileAdd where
  ctx : Nat
  fw : Nat
  pixel : Nat
  first : Nat
  samples : List Word
  core : Nat
  slot : Nat
  op : Nat
  deriving DecidableEq, Repr

/-! ## Engines (R146 to R174, R352 to R364) -/

/-- A command accepted by a copy engine or the launch unit (R149, R151). `unit` is the engine, 64 the launch unit;
`team` keys the issuing team, 0 for none; `pos` counts the words or elements it has moved, `wait` is the page it waits
for (for a LAUNCH that has started, the place of its record in its queue), `freed` that its queue register was freed (R166), `worst` the class of R161 merged so far, `since` the clock
of its acceptance (R149). `recs` holds what it has read at its start: tensor records, the index array of an orderly GATHER or
SCATTER, the contribution of a PRDX; `io` says that its accesses go in ascending address order, by way of `buf` (R160). -/
structure EngCmd where
  id : Nat
  unit : Nat
  ctx : Nat
  core : Nat
  slot : Nat
  team : Nat
  words : List DWord
  started : Bool
  pos : Nat
  wait : Option Nat
  freed : Bool
  worst : Nat
  ended : Option Nat
  since : Nat
  recs : List (Word × Bool)
  io : Bool
  buf : Tbl (Word × Bool)
  deriving DecidableEq, Repr

/-- A slot of a scale ring: entries by row or column, and whether it is full (R172). -/
structure ScaleSlot where
  entries : Tbl Word
  full : Bool
  deriving DecidableEq, Repr

/-- A scale ring of 8 slots with its write and read pointers (R172). -/
structure ScaleRing where
  slots : Tbl ScaleSlot
  wptr : Nat
  rptr : Nat
  deriving DecidableEq, Repr

/-- The region record of a bank (R171). -/
structure Region where
  ma : Int
  nb : Int
  m : Nat
  n : Nat
  deriving DecidableEq, Repr

/-- An accumulator bank of 256 x 384 elements, element (i, j) at key 384 i + j (R167, R171). -/
structure Bank where
  owner : Option Nat
  elems : Tbl Word
  poison : Tbl Bool
  fmt : Option Word
  region : Option Region
  ringA : ScaleRing
  ringB : ScaleRing
  release : Bool
  deriving DecidableEq, Repr

/-- The kinds of work a quadrant accepts. -/
inductive QuadWork where
  | loop | denoise | drainQ | drainSp | zero
  deriving DecidableEq, Repr

/-- Work accepted by a quadrant, in acceptance order (R167, R170, R173, R201): the quadrant (`unit`), its descriptor and
format word, the steps completed, the tensor records it has read, and the words it has read and still has to use or deliver;
`leaves` are the translations that the stream of its next step has taken (R353). From step 3 on, a denoise counts the results
that it has written. `gone` marks work whose issuing group has ended (R362), `bad` a drain that has met an error in its
bank (R363). -/
structure QuadJob where
  id : Nat
  unit : Nat
  kind : QuadWork
  ctx : Nat
  core : Nat
  slot : Nat
  team : Nat
  cls : Nat
  bank : Nat
  desc : List DWord
  fmt : Word
  started : Bool
  step : Nat
  recs : List Word
  data : List (Word × Bool)
  wait : Option Nat
  gone : Bool
  bad : Bool
  freed : Bool
  ended : Option Nat
  worst : Nat
  op : Nat
  leaves : List Leaf
  deriving DecidableEq, Repr

/-- What the running step leaves in its bank when it ends (R70, R353): the elements, their marks, and whether its stream held
uncorrectable data. -/
structure StepOut where
  elems : Tbl Word
  poison : Tbl Bool
  bad : Bool
  deriving DecidableEq, Repr

/-- A matrix quadrant: four banks, its accepted work, the job whose step is running, and what that step gives (R167, R268). -/
structure Quad where
  banks : Tbl Bank
  jobs : List QuadJob
  running : Option Nat
  out : Option StepOut
  deriving DecidableEq, Repr

/-- A bank saved by BANKSAVE (R376). The image's layout is not architected: its words are the free values from `start`
on, and an image that memory still holds unchanged gives the bank back. `place` is 4 × quadrant + bank. -/
structure BankImage where
  bank : Bank
  place : Nat
  start : Nat
  deriving DecidableEq, Repr

/-- A pair-reduction command that has reached the destination's home (R159), with its contribution, each element with its
poison mark, and the elements combined so far. -/
structure PairRed where
  id : Nat
  far : Bool
  eng : Nat
  cmd : Nat
  ctx : Nat
  src : List (DWord × Bool)
  words : List DWord
  done : Nat
  deriving DecidableEq, Repr

/-! ## Launch unit (R250 to R265) -/

/-- A grid that has been taken from a queue (R253, R264). `recw` holds the eight words of its launch record, `ents` the
shader-table entries of a ray grid as pairs of words, `teamsLeft` the running teams of each cluster placed and not
complete, `created` the generation rays created, `waves` the episodes formed, `fromCmd` the LAUNCH command that wrote it; `relMark`
is set once its release has begun, to the serial below which its registrations are awaited (R264). -/
structure Grid where
  ctx : Nat
  key : Nat
  id : Option Nat
  queue : Nat
  recw : List DWord
  ents : List (DWord × DWord)
  cls : Nat
  nextCluster : Nat
  headSince : Nat
  aged : Option Nat
  teamsLeft : Tbl Nat
  created : Nat
  waves : Nat
  rerr : Nat
  errSeen : List Nat
  cores : List Nat
  fromCmd : Option Nat
  relMark : Option Nat
  deriving DecidableEq, Repr

/-- A command of the host command ring that has started (R288, R289): the location of its first word, its fields, its
eight words; for SETCTX the parts still to be applied and those rejected. -/
structure HostCmd where
  loc : Nat
  code : Nat
  ctx : Nat
  irq : Bool
  words : List DWord
  todo : Nat
  bad : Nat
  deriving DecidableEq, Repr

/-- A host command whose word 7 is to be written once what the RDC had sent before a serial is acknowledged (R289). -/
structure CmdEnd where
  cmd : HostCmd
  status : Nat
  result : Nat
  mark : Nat
  deriving DecidableEq, Repr

/-- An outstanding range invalidation (R283); operations named before `before` may have used a removed entry, and `ranges` are
the base and size of what has been removed: the range itself and every entry that overlapped it. -/
structure Inval where
  ctx : Nat
  base : Nat
  len : Nat
  before : Nat
  ranges : List (Nat × Nat)
  cmd : HostCmd
  deriving DecidableEq, Repr

/-- A record pending in a coalescer (R372). -/
structure EventRec where
  kind : Nat
  cause : Nat
  ctx : Nat
  core : Nat
  eng : Nat
  addr : Nat
  span : Nat
  slots : BitVec 96
  count : Nat
  aux : Word
  deriving DecidableEq, Repr

/-- A bias region that is not a device-biased 64 KiB region (R286). -/
structure BiasRegion where
  base : Nat
  size : Nat
  host : Bool
  since : Nat
  deriving DecidableEq, Repr

/-- An ownership run in progress on a word (R342): its address, its location, and its actor's core and slot, or episode. -/
structure AtomRun where
  ctx : Nat
  va : Nat
  loc : Nat
  wide : Bool
  core : Nat
  slot : Nat
  ep : Option Nat
  grid : Nat
  len : Nat
  deriving DecidableEq, Repr

/-- A record that waits for room in the log ring, with the words it will hold (R344). -/
structure LogWait where
  ctx : Nat
  words : List DWord
  core : Nat
  slot : Nat
  op : Nat
  deriving DecidableEq, Repr

/-- A context (R22): its active settings as the words of its block (R290), and what the device keeps of it. -/
structure Ctx where
  live : Bool
  active : Tbl Word
  nextGrid : Nat
  logSeq : Nat
  stopped : Bool              -- replay divergence at the launch unit or sorter (R347)
  preempt : Bool              -- pre-emption asked for and not yet lifted (R374)
  drained : Bool              -- pre-emption complete (R374)
  deadline : Option Nat       -- reference clock at which the deadline passes (R375)
  haltWait : Bool             -- a HALT command not yet reported (R377)
  irqArmed : Bool             -- the WMARK interrupt may be raised (R344)
  rsvQueue : List (Nat × Nat × Nat)   -- waiting rsv requests: core, slot, op (R194)
  rsvSince : Nat              -- clock since which the oldest has not been grantable (R194)
  var : Tbl SyncEntry         -- the variable area (R343)
  matched : List Nat          -- replay: units of records already matched (R346)
  stalls : List Nat           -- recording: what is stalled for want of room, oldest first (R344)
  flush : Option (List (Nat × Nat))   -- a forced reset under way: the words of cores still to be written back (R375)
  deriving DecidableEq, Repr

/-- The device's own condition (R381 to R383). -/
inductive DevMode where
  | boot | linkWait | safe | run
  deriving DecidableEq, Repr

/-- What the checks of a quadrant find (R363): an error that is corrected; one that ends the loop; lost entries of the
scale ring of operand B or A; an element of a bank that cannot be corrected. -/
inductive SoftErr where
  | corrected
  | fatal
  | scales (b : Bool)
  | element (key : Nat)
  deriving DecidableEq, Repr

/-- An atomic of a unit of the twin on a word that it has asked for (R327, R328). -/
structure TwinAtom where
  unit : Nat
  word : Nat
  fn : AtomFn
  data : Word
  cmp : Word
  deriving DecidableEq, Repr

/-- An operation of the twin on a sync variable whose catch-up may be out: the serial at which it began and the cores, with
scopes, whose registrations it waits for (R313, R314). -/
structure TwinOp where
  ctx : Nat
  var : Nat
  mark : Nat
  source : List (Nat × Nat)
  deriving DecidableEq, Repr

/-- What an agent of the twin does to the memory of the pair (R2, R298): a unit of it reads a line, stores to a word,
registers what it holds dirty, asks for a word for an atomic of a context at an address, gives a word up or acquires; a write of it is performed at
a word's home; its home recalls a word; a group of it acts on a synchronisation variable (R313); its part of a pair reduction
arrives (R159); a record of it arrives at the log ring of a context, or is matched in a replay (R349). -/
inductive TwinAct where
  | read (unit line : Nat)
  | store (unit word : Nat) (mask : BitVec 4) (val : Word)
  | release (unit : Nat)
  | atom (ctx va unit word : Nat) (fn : AtomFn) (data cmp : Word)
  | evict (unit word : Nat)
  | acquire (unit : Nat)
  | write (word : Nat) (mask : BitVec 4) (val : Word)
  | recall (word : Nat)
  | sync (ctx core slot var scope : Nat) (rel acq : Bool)
  | push (ctx : Nat) (src : List DWord) (words : List DWord)
  | record (ctx type : Nat) (actor : DWord) (rest : List DWord)
  | replayed (ctx unit : Nat)
  deriving DecidableEq, Repr

/-- One turn of the schedule: an event of the device or its surroundings, the issue of a group's next word, the passing
of clocks, a memory word going bad (the environment of R125), an error in a quadrant (that of R363), or a walk made ahead
of a copy engine's position (R276), or an act of the twin. -/
inductive Turn where
  | event (e : Instr)
  | issue (core slot : Nat)
  | tick (n : Nat)
  | memError (word : Nat)
  | soft (quad : Nat) (e : SoftErr)
  | walkAhead (eng ctx page : Nat)
  | twin (a : TwinAct)
  deriving DecidableEq, Repr

/-! ## The device -/

/-- The device. Each field's rule stands in its comment; INVENTORY.md lists the reset value of every one. -/
structure State where
  isW : Bool                          -- a PX960-W, one of a pair (R1, R2)
  devId : Nat                         -- DEVID (R17)
  mode : DevMode                      -- R381 to R383
  ready : DWord                       -- READY (R381)
  failRec : DWord                     -- FAILREC (R383)
  sideband : Bool                     -- the management sideband is up (R382, R383)
  verified : Bool                     -- the boot ROM has verified the boot firmware's signature (R382)
  report : Option Nat                 -- the nonce of the last report signed for an SPDM request (R384)
  twinUp : Bool                       -- the twin answers (R293)
  twinFailed : Bool                   -- the twin has been declared failed since reset (R293)
  mhz : Nat                           -- the arithmetic clock (R385)
  clock : Nat                         -- CLOCK (R17)
  refUnits : Nat                      -- reference time, `Config.refUnit` units to a 100 MHz period (R5, R287)
  bar : Tbl Word                      -- host-function registers by offset / 4 (R287)
  irqs : List Nat                     -- MSI-X vectors raised, newest first (R285)
  mem : List Host.Cell                -- memory of every home, by home * 2^52 + physical address (R270, R271)
  memPoison : Tbl Bool                -- words that hold uncorrectable data (R125)
  homes : Tbl HomeSt                  -- words that are not VAL at their home (R316)
  l2 : List (List Nat)                -- slots of the L2 slices, each with its one or two lines (R316, R335)
  l2Wait : List Msg                   -- read requests waiting for an L2 fill or an RDC fill (R320)
  l2Evict : List Nat                  -- lines being evicted, owners recalled (R325)
  stamps : Tbl Stamp                  -- R345
  l1 : Tbl (Tbl Copy)                 -- per core (R317); from 128 on, the units of the twin (R316)
  holding : Tbl (List Held)           -- per core, at 96 the RDC's (R317); from 128 on, the twin's units
  rdc : Tbl Copy                      -- the remote-data cache: twin-homed words (R333)
  hostLines : Tbl HostLine            -- the remote-data cache: host-homed lines (R317, R333)
  msgs : List Msg                     -- messages in flight, oldest first (R319)
  msgSeq : Nat                        -- MODEL'S OWN: serials of messages
  coreTlb : Tbl (List TlbEntry)       -- R276
  hamletTlb : Tbl (List TlbEntry)
  devTlb : List TlbEntry
  aheadTlb : Tbl (List TlbEntry)
  walkQ : Tbl (List WalkReq)          -- per hamlet (R277)
  walking : Tbl (List WalkReq)
  walkFails : List WalkFail
  invals : List Inval                 -- R283
  bias : List BiasRegion              -- R286
  biasWait : List Nat                 -- lines with a back-invalidation unanswered (R286)
  biasHeld : List Nat                 -- requests at slices for such lines, by their serials (R286, R319)
  storers : Tbl (Tbl Nat)             -- per core, the context that has stored to a word last (R345)
  placers : Tbl (Nat × Nat)           -- context and core that have placed a word in the remote-data cache last (R345)
  twinAtoms : List TwinAtom           -- atomics of the twin's units that wait for their words (R327, R328)
  twinOps : List TwinOp               -- the twin's operations on sync variables whose catch-up is out (R313, R314)
  hostRead : Option (Nat × Word × Bool) -- the last answer to a host read, with its poison mark (R308, R336)
  cmds : List HostCmd                 -- commands started and not complete (R288)
  events : Tbl (List EventRec)        -- coalescers, per core; 127 for events of no core (R372)
  ctxs : Tbl Ctx                      -- R22
  groups : List Group                 -- R8
  ahead : List Group                  -- what the groups in run-ahead compute, beside the checkpoint that `groups` keeps (R279)
  teams : List Team                   -- R247
  nextTeam : Nat
  cur : Option (Nat × Nat)            -- the group whose word is issuing
  syncTab : List SyncEntry            -- R313
  syncOps : List SyncOp               -- R138
  frontier : Tbl Nat                  -- per core (R345)
  reds : List RedNode                 -- R330
  rays : List Ray                     -- R207
  bins : List Bin                     -- R213
  treelets : List Treelet             -- R222
  tiles : List Tile                   -- R239
  tileAdds : List TileAdd             -- R241
  flushing : List (Nat × HostCmd)     -- TILEFLUSH and TILECLEAR commands that wait for retirements (R239, R241)
  cmdEnds : List CmdEnd               -- commands that have ended but for their release and word 7 (R289)
  engines : Tbl (List EngCmd)         -- copy engines 0 to 31; 64 the launch unit (R146)
  pairReds : List PairRed             -- R159
  quads : Tbl Quad                    -- quadrant 4 * hamlet + q (R146)
  images : List BankImage             -- R376
  grids : List Grid                   -- R253
  served : Tbl Nat                    -- queue most recently served, per class (R252)
  window : Nat                        -- the first placement window not yet used (R260)
  runs : List AtomRun                 -- R342
  logWait : List LogWait              -- R344
  nextId : Nat                        -- MODEL'S OWN: names for rays, bins, commands and jobs
  draws : Nat                         -- MODEL'S OWN: counts the free values drawn
  sched : List Turn                   -- MODEL'S OWN: which agent acts next
  deriving DecidableEq, Repr

/-- Why the machine stops. -/
inductive Fault where
  /-- An instruction's meaning was asked for while no group is issuing: `exec` raises it; no step of a program reaches
  it. Safe: the spec gives no such state. -/
  | noIssuer
  /-- An access named physical memory that does not exist at its home. Raised by the memory operations. Safe. -/
  | noMemory
  deriving DecidableEq, Repr

/-- Why the model refuses. -/
inductive Refusal where
  /-- The instruction has no meaning yet. Raised by a refused arm of `exec` alone. Safe. -/
  | notModelled (mnemonic : String)
  deriving DecidableEq, Repr

/-- The device right after reset (R381): nothing ready, no context, no work, every register of the host function at the
value its table gives, and memory with nothing listed. -/
def State.reset : State where
  isW := false
  devId := 0
  mode := .boot
  ready := 0
  failRec := 0
  sideband := true
  verified := false
  report := none
  twinUp := false
  twinFailed := false
  mhz := 600
  clock := 0
  refUnits := 0
  bar := []
  irqs := []
  mem := []
  memPoison := []
  homes := []
  l2 := []
  l2Wait := []
  l2Evict := []
  stamps := []
  l1 := []
  holding := []
  rdc := []
  hostLines := []
  msgs := []
  msgSeq := 0
  coreTlb := []
  hamletTlb := []
  devTlb := []
  aheadTlb := []
  walkQ := []
  walking := []
  walkFails := []
  invals := []
  bias := []
  biasWait := []
  biasHeld := []
  storers := []
  placers := []
  twinAtoms := []
  twinOps := []
  hostRead := none
  cmds := []
  events := []
  ctxs := []
  groups := []
  ahead := []
  teams := []
  nextTeam := 1
  cur := none
  syncTab := []
  syncOps := []
  frontier := []
  reds := []
  rays := []
  bins := []
  treelets := []
  tiles := []
  tileAdds := []
  flushing := []
  cmdEnds := []
  engines := []
  pairReds := []
  quads := []
  images := []
  grids := []
  served := []
  window := 0
  runs := []
  logWait := []
  nextId := 0
  draws := 0
  sched := []

end Sys2Proof.Machine
end

