-- ==== Sys2Proof/Machine/Tables.lean ====
section
/-!
DEFINITION. Operations on the plain data that the state is made of: sparse tables, lists with one entry per lane, lane
masks, and bytes and words of bit vectors. Element 0 and byte 0 are the least significant (R3, R57).
-/

namespace Sys2Proof.Machine

/-! ## Sparse tables -/

/-- The entry at key `k`, if the table holds one. -/
def tfind {α : Type} : Tbl α → Nat → Option α
  | [], _ => none
  | (j, v) :: t, k => if j = k then some v else tfind t k

/-- The entry at key `k`, or the default. -/
def tget {α : Type} (t : Tbl α) (k : Nat) (d : α) : α := (tfind t k).getD d

/-- Writes the entry at key `k`, keeping the keys rising. -/
def tput {α : Type} : Tbl α → Nat → α → Tbl α
  | [], k, v => [(k, v)]
  | (j, w) :: t, k, v =>
    if k < j then (k, v) :: (j, w) :: t else if k = j then (k, v) :: t else (j, w) :: tput t k v

/-- Removes the entry at key `k`. -/
def tdel {α : Type} (t : Tbl α) (k : Nat) : Tbl α := t.filter fun e => e.1 ≠ k

/-- Rewrites the entry at key `k`. -/
def tupd {α : Type} (t : Tbl α) (k : Nat) (d : α) (f : α → α) : Tbl α := tput t k (f (tget t k d))

/-! ## Lanes and masks -/

/-- Lane `l` of a register. -/
def lane (v : Lanes) (l : Nat) : Word := v.getD l 0

/-- The list with one entry for each lane. -/
def perLane {α : Type} (f : Nat → α) : List α := (List.range numLanes).map f

/-- `f` in the lanes of `act`, the old value elsewhere. -/
def mergeLanes (act : Mask) (f : Nat → Word) (old : Lanes) : Lanes :=
  perLane fun l => if act.getLsbD l then f l else lane old l

/-- The number whose bits below `n` are `p`. -/
def bitsBelow (p : Nat → Bool) : Nat → Nat
  | 0 => 0
  | n + 1 => bitsBelow p n + if p n then 2 ^ n else 0

/-- The mask of the lanes where `p` holds. -/
def maskOf (p : Nat → Bool) : Mask := BitVec.ofNat 128 (bitsBelow p numLanes)

/-- The lanes of a mask, lowest first. -/
def lanesIn (m : Mask) : List Nat := (List.range numLanes).filter fun l => m.getLsbD l

/-- Bits of `new` in the lanes of `act`, of `old` elsewhere. -/
def mergeMask (act new old : Mask) : Mask := (act &&& new) ||| (~~~act &&& old)

/-- The lowest lane of a mask. -/
def lowestLane (m : Mask) : Option Nat := (lanesIn m).head?

/-! ## Words, bytes and fields -/

/-- The field of `len` bits at bit `lo` of a 64-bit value, as a number. -/
def bitsOf (w : DWord) (lo len : Nat) : Nat := (w.extractLsb' lo len).toNat

/-- The low word of a 64-bit value. -/
def loWord (w : DWord) : Word := w.extractLsb' 0 32

/-- The high word of a 64-bit value. -/
def hiWord (w : DWord) : Word := w.extractLsb' 32 32

/-- Two words as one 64-bit value. -/
def joinWords (lo hi : Word) : DWord := hi ++ lo

/-- Byte `i` of a word. -/
def byteOf (w : Word) (i : Nat) : BitVec 8 := w.extractLsb' (8 * i) 8

/-- A word from its four bytes. -/
def wordOf (b : Nat → BitVec 8) : Word := b 3 ++ b 2 ++ b 1 ++ b 0

/-- The bytes of `new` that `mask` selects, of `old` elsewhere. -/
def mergeBytes (mask : BitVec 4) (new old : Word) : Word :=
  wordOf fun i => if mask.getLsbD i then byteOf new i else byteOf old i

/-- The words of a 64-bit list, low word first. -/
def wordsOf64 (ws : List DWord) : List Word := ws.flatMap fun w => [loWord w, hiWord w]

/-- The words of a mask, low word first. -/
def wordsOfMask (m : Mask) : List Word := [m.extractLsb' 0 32, m.extractLsb' 32 32, m.extractLsb' 64 32, m.extractLsb' 96 32]

/-- A mask from its four words. -/
def maskOfWords (w : Nat → Word) : Mask := w 3 ++ w 2 ++ w 1 ++ w 0

/-- A 64-bit value from a list of words, low word first. -/
def dwordAt (ws : List Word) (i : Nat) : DWord := joinWords (ws.getD i 0) (ws.getD (i + 1) 0)

/-- Sets element `i` of a list, extending it with the default. -/
def lput {α : Type} (l : List α) (i : Nat) (d v : α) : List α :=
  if i < l.length then l.set i v else l ++ List.replicate (i - l.length) d ++ [v]

/-- `⌈a / b⌉`. -/
def ceilDiv (a b : Nat) : Nat := (a + b - 1) / b

end Sys2Proof.Machine
end

