-- ==== Sys2Proof/Machine/Float.lean ====
section
/-!
DEFINITION. Floating-point values and their rounding, exactly: the formats of R53, the rounding modes and flags of R64
to R67, and the generator of R68. A finite value is a sign, a natural mantissa and a power of two.
-/

namespace Sys2Proof.Machine

/-- A floating-point format (R53). `maxMag`, `infMag` and `nan` are codes without the sign. -/
structure FpFmt where
  width : Nat
  mant : Nat
  bias : Int
  maxMag : Nat
  infMag : Option Nat
  nan : Option Nat
  flush : Bool               -- FTZ acts on results of this format (R65)
  deriving DecidableEq, Repr

def fp32 : FpFmt := ⟨32, 23, 127, 0x7F7FFFFF, some 0x7F800000, some 0x7FC00000, true⟩
def fp16 : FpFmt := ⟨16, 10, 15, 0x7BFF, some 0x7C00, some 0x7E00, true⟩
def bf16 : FpFmt := ⟨16, 7, 127, 0x7F7F, some 0x7F80, some 0x7FC0, true⟩
def e4m3 : FpFmt := ⟨8, 3, 7, 0x7E, none, some 0x7F, false⟩
def e5m2 : FpFmt := ⟨8, 2, 15, 0x7B, some 0x7C, some 0x7E, false⟩
def e3m2 : FpFmt := ⟨6, 2, 3, 0x1F, none, none, false⟩
def e2m3 : FpFmt := ⟨6, 3, 1, 0x1F, none, none, false⟩
def e2m1 : FpFmt := ⟨4, 1, 1, 7, none, none, false⟩

/-- A value: NaN, an infinity, or (−1)^neg × m × 2^e. -/
inductive Fp where
  | nan
  | inf (neg : Bool)
  | fin (neg : Bool) (m : Nat) (e : Int)
  deriving DecidableEq, Repr

/-- The exponent of the smallest subnormal of a format. -/
def FpFmt.low (f : FpFmt) : Int := 1 - f.bias - f.mant

/-- The code without its sign. -/
def magOf (f : FpFmt) (bits : Nat) : Nat := bits % 2 ^ (f.width - 1)

/-- The sign of a code. -/
def negOf (f : FpFmt) (bits : Nat) : Bool := bits / 2 ^ (f.width - 1) % 2 == 1

/-- The value of a code (R53, R54). -/
def fpRead (f : FpFmt) (bits : Nat) : Fp :=
  let mag := magOf f bits
  let neg := negOf f bits
  if mag ≤ f.maxMag then
    let ex := mag / 2 ^ f.mant
    if ex = 0 then .fin neg mag f.low
    else .fin neg (mag % 2 ^ f.mant + 2 ^ f.mant) (f.low + ex - 1)
  else if some mag = f.infMag then .inf neg else .nan

/-- Whether a code is a subnormal. -/
def isSub (f : FpFmt) (bits : Nat) : Bool := magOf f bits ≠ 0 && magOf f bits < 2 ^ f.mant

/-- The code with sign. -/
def withSign (f : FpFmt) (neg : Bool) (mag : Nat) : Nat := mag + if neg then 2 ^ (f.width - 1) else 0

/-- The canonical NaN of a format that has one, else +0 (R53, R66). -/
def nanCode (f : FpFmt) : Nat := f.nan.getD 0

/-- The code of an infinity, or the largest finite value of a format without one (R66). -/
def infCode (f : FpFmt) (neg : Bool) : Nat := withSign f neg (f.infMag.getD f.maxMag)

/-- An operand as an instruction reads it: with FTZ a subnormal is zero of its sign (R65). -/
def fpOperand (f : FpFmt) (ftz : Bool) (bits : Nat) : Fp :=
  if ftz && isSub f bits then .fin (negOf f bits) 0 0 else fpRead f bits

/-! ## Flags (R19) -/

/-- FFLAGS: NV, DZ, OF, UF, NX from bit 0 up. -/
abbrev Flags := BitVec 5

def flNV : Flags := 1
def flDZ : Flags := 2
def flOF : Flags := 4
def flUF : Flags := 8
def flNX : Flags := 16

/-- The rounding modes (R64). -/
inductive Rm where
  | ne | rz | up | dn
  deriving DecidableEq, Repr

/-- The mode that RM codes (R18). -/
def rmOf (code : Nat) : Rm := match code with
  | 0 => .ne
  | 1 => .rz
  | 2 => .up
  | _ => .dn

/-- A delivered code with the flags it raised. -/
structure FRes where
  bits : Nat
  fl : Flags
  deriving DecidableEq, Repr

/-- Whether a magnitude that lies `rem / 2^s` of the way, with a further part below when `sticky`, is rounded away from
zero (R64). `odd` is the parity of the lower neighbour. -/
def roundsAway (rm : Rm) (neg odd : Bool) (rem s : Nat) (sticky : Bool) : Bool :=
  let inexact := rem ≠ 0 || sticky
  match rm with
  | .rz => false
  | .up => !neg && inexact
  | .dn => neg && inexact
  | .ne => s ≠ 0 && (2 * rem > 2 ^ s || (2 * rem == 2 ^ s && (sticky || odd)))

/-- A magnitude m × 2^e cut at the quantum 2^q: the lower multiple, the remainder, and the bits cut off. -/
def cutAt (m : Nat) (e q : Int) : Nat × Nat × Nat :=
  if e ≥ q then (m * 2 ^ (e - q).toNat, 0, 0)
  else
    let s := (q - e).toNat
    (m / 2 ^ s, m % 2 ^ s, s)

/-- A magnitude m × 2^e rounded to a multiple of 2^q: the multiple, and whether it differs. -/
def roundAt (rm : Rm) (neg : Bool) (m : Nat) (e : Int) (sticky : Bool) (q : Int) : Nat × Bool :=
  let (hi, rem, s) := cutAt m e q
  (if roundsAway rm neg (hi % 2 == 1) rem s sticky then hi + 1 else hi, rem ≠ 0 || sticky)

/-- The quantum with an unbounded exponent (R65). -/
def quantum (f : FpFmt) (m : Nat) (e : Int) : Int := Nat.log2 m + e - f.mant

/-- Whether a non-zero magnitude, rounded with an unbounded exponent, lies below the smallest normal value (R65). -/
def isTiny (f : FpFmt) (rm : Rm) (neg : Bool) (m : Nat) (e : Int) (sticky : Bool) : Bool :=
  let q := quantum f m e
  let n := (roundAt rm neg m e sticky q).1
  decide ((Nat.log2 n : Int) + q < f.low + f.mant)

/-- The overflow result (R64, R66). -/
def overflowed (f : FpFmt) (rm : Rm) (neg : Bool) : FRes :=
  let toInf := match rm with
    | .ne => true
    | .rz => false
    | .up => !neg
    | .dn => neg
  ⟨if toInf then infCode f neg else withSign f neg f.maxMag, flOF ||| flNX⟩

/-- FTZ on a rounded magnitude (R65). -/
def flushed (f : FpFmt) (ftz neg : Bool) (mag : Nat) (fl : Flags) : FRes :=
  if ftz && f.flush && mag ≠ 0 && mag < 2 ^ f.mant then ⟨withSign f neg 0, flUF ||| flNX⟩ else ⟨withSign f neg mag, fl⟩

/-- Rounds the non-zero value (−1)^neg × m × 2^e, plus a further part below the last bit when `sticky`, into a format
(R64, R65). -/
def fpRound (f : FpFmt) (rm : Rm) (ftz neg : Bool) (m : Nat) (e : Int) (sticky : Bool) : FRes :=
  let q := max (quantum f m e) f.low
  let (n, inexact) := roundAt rm neg m e sticky q
  let mag := (q - f.low).toNat * 2 ^ f.mant + n
  if mag > f.maxMag then overflowed f rm neg
  else
    let uf := inexact && isTiny f rm neg m e sticky
    flushed f ftz neg mag ((if inexact then flNX else 0) ||| (if uf then flUF else 0))

/-- Delivers an exact value: rounded when finite, with the sign given for a zero. -/
def fpDeliver (f : FpFmt) (rm : Rm) (ftz : Bool) (x : Fp) : FRes :=
  match x with
  | .nan => ⟨nanCode f, 0⟩
  | .inf neg => ⟨infCode f neg, 0⟩
  | .fin neg 0 _ => ⟨withSign f neg 0, 0⟩
  | .fin neg m e => fpRound f rm ftz neg m e false

/-! ## Exact sums and products -/

/-- The signed mantissa of a finite value over the exponent `q`, which is not above its own. -/
def scaledTo (neg : Bool) (m : Nat) (e q : Int) : Int :=
  let a : Int := m * 2 ^ (e - q).toNat
  if neg then -a else a

/-- The product of two values (R92); NaN for 0 × Inf. -/
def fpMul (a b : Fp) : Fp :=
  match a, b with
  | .nan, _ => .nan
  | _, .nan => .nan
  | .inf n, .inf k => .inf (n != k)
  | .inf n, .fin k m _ => if m = 0 then .nan else .inf (n != k)
  | .fin n m _, .inf k => if m = 0 then .nan else .inf (n != k)
  | .fin n m e, .fin k o h => .fin (n != k) (m * o) (e + h)

/-- Whether a product is 0 × Inf, which raises NV (R92, R93). -/
def mulInvalid (a b : Fp) : Bool :=
  match a, b with
  | .inf _, .fin _ m _ => m == 0
  | .fin _ m _, .inf _ => m == 0
  | _, _ => false

/-- The exact sum of two values (R92, R93): infinities of opposite sign give NaN, and an exact zero takes its sign from
the mode, −0 when both terms are −0. -/
def fpAdd (rm : Rm) (a b : Fp) : Fp :=
  match a, b with
  | .nan, _ => .nan
  | _, .nan => .nan
  | .inf n, .inf k => if n = k then .inf n else .nan
  | .inf n, _ => .inf n
  | _, .inf k => .inf k
  | .fin n m e, .fin k o h =>
    let q := min e h
    let t := scaledTo n m e q + scaledTo k o h q
    if t = 0 then
      if m = 0 ∧ o = 0 ∧ n = k then .fin n 0 0 else .fin (rm == .dn) 0 0
    else .fin (decide (t < 0)) t.natAbs q

/-- Whether a sum is Inf − Inf, which raises NV. -/
def addInvalid (a b : Fp) : Bool :=
  match a, b with
  | .inf n, .inf k => n != k
  | _, _ => false

/-- The value with its sign changed. -/
def fpNeg : Fp → Fp
  | .nan => .nan
  | .inf n => .inf !n
  | .fin n m e => .fin (!n) m e

/-- Whether a value is NaN. -/
def Fp.isNan : Fp → Bool
  | .nan => true
  | _ => false

/-! ## Rounding to integers -/

/-- A finite value rounded to an integer, and whether it differs. -/
def toInteger (rm : Rm) (neg : Bool) (m : Nat) (e : Int) : Int × Bool :=
  let (n, ix) := roundAt rm neg m e false 0
  (if neg then -(n : Int) else n, ix)

/-- Conversion to an integer within limits (R66). -/
def fpToInt (rm : Rm) (lo hi : Int) (x : Fp) : Int × Flags :=
  match x with
  | .nan => (0, flNV)
  | .inf neg => (if neg then lo else hi, flNV)
  | .fin neg m e =>
    let (n, ix) := toInteger rm neg m e
    if n < lo then (lo, flNV) else if n > hi then (hi, flNV) else (n, if ix then flNX else 0)

/-- An integer as an exact value. -/
def fpOfInt (n : Int) : Fp := .fin (decide (n < 0)) n.natAbs 0

/-! ## Stochastic rounding (R67, R68) -/

/-- One advance of the generator (R68). -/
def srNext (x : Word) : Word :=
  let x := x ^^^ (x <<< 13)
  let x := x ^^^ (x >>> 17)
  x ^^^ (x <<< 5)

/-- Stochastic rounding of a non-zero finite value with draw `u` (R67). -/
def srRound (f : FpFmt) (ftz neg : Bool) (m : Nat) (e : Int) (u : Nat) : FRes :=
  let q := max (quantum f m e) f.low
  let (hi, rem, s) := cutAt m e q
  let d := rem * 65536 / 2 ^ s
  let base := (q - f.low).toNat * 2 ^ f.mant
  let inexact := rem ≠ 0
  if base + hi > f.maxMag ∨ (inexact ∧ base + hi + 1 > f.maxMag) then ⟨withSign f neg f.maxMag, flOF ||| flNX⟩
  else
    let mag := base + if u < d then hi + 1 else hi
    let uf := inexact && isTiny f .ne neg m e false
    flushed f ftz neg mag ((if inexact then flNX else 0) ||| (if uf then flUF else 0))

/-- How an instruction rounds a conversion: the mode, FTZ, and SRN (R18). -/
structure RndEnv where
  rm : Rm
  ftz : Bool
  srn : Bool
  deriving DecidableEq, Repr

/-- The rounding environment that FPCTL sets (R18). -/
def rndEnv (fpctl : Word) : RndEnv := ⟨rmOf (fpctl.toNat % 4), fpctl.getLsbD 3, fpctl.getLsbD 2⟩

/-- The special cases of R66 for a floating-point destination. -/
def convSpecial (f : FpFmt) : Fp → Option FRes
  | .nan => some ⟨nanCode f, if f.nan.isNone then flNV else 0⟩
  | .inf neg => some ⟨infCode f neg, if f.infMag.isNone then flNV else 0⟩
  | .fin neg 0 _ => some ⟨withSign f neg 0, 0⟩
  | .fin _ _ _ => none

/-- A value beyond the largest finite value of a format without Inf is that value in every mode (R66). -/
def clampNoInf (f : FpFmt) (neg : Bool) (r : FRes) : FRes :=
  if f.infMag.isNone && r.fl.getLsbD 2 then ⟨withSign f neg f.maxMag, r.fl⟩ else r

/-- Conversion of a value into a narrower format: under RM, or stochastically with the generator advanced (R66, R67). -/
def fpConvert (f : FpFmt) (env : RndEnv) (x : Fp) (seed : Word) : FRes × Word :=
  let seed' := if env.srn then srNext seed else seed
  match convSpecial f x with
  | some r => (r, seed')
  | none => match x with
    | .fin neg m e =>
      if env.srn then (srRound f env.ftz neg m e (seed'.toNat / 65536), seed')
      else (clampNoInf f neg (fpRound f env.rm env.ftz neg m e false), seed')
    | _ => (⟨nanCode f, 0⟩, seed')

/-! ## Quotients and square roots -/

/-- The quotient of two non-zero magnitudes with `k` guard bits: mantissa, exponent and whether more follows. -/
def quotient (m : Nat) (e : Int) (o : Nat) (h : Int) (k : Nat) : Nat × Int × Bool :=
  let s := Nat.log2 o + k
  (m * 2 ^ s / o, e - h - s, m * 2 ^ s % o ≠ 0)

/-- The integer square root by bits from `2 ^ k` down, added to the root `r` so far. -/
def isqrtFrom (n : Nat) : Nat → Nat → Nat
  | 0, r => r
  | k + 1, r => isqrtFrom n k (if (r + 2 ^ k) * (r + 2 ^ k) ≤ n then r + 2 ^ k else r)

/-- The integer square root. -/
def isqrt (n : Nat) : Nat := isqrtFrom n (Nat.log2 n / 2 + 1) 0

/-- The square root of a non-zero magnitude: mantissa, exponent and whether more follows. -/
def rootOf (m : Nat) (e : Int) : Nat × Int × Bool :=
  let odd := e % 2
  let n := m * 2 ^ (64 + odd.toNat)
  let r := isqrt n
  (r, (e - odd - 64) / 2, r * r ≠ n)

end Sys2Proof.Machine
end

