-- ==== Sys2Proof/Machine/Memory.lean ====
section
/-!
DEFINITION. Physical memory: the bytes of every home as one canonical list, read and written by byte and by word, and
the places of a device (R20, R271, R316). A location is a byte address: home × 2^52 + physical address. A byte that
nothing has written reads as zero (DESIGN CHOICE, log entry 1).
-/

namespace Sys2Proof.Machine

/-! ## Places -/

/-- The code of a home (R271). -/
def homeCode : Home → Nat
  | .loc => 0
  | .twin => 1
  | .host => 2
  | .peer => 3

/-- The location of a physical address in the home with the code given. -/
def locAt (home pa : Nat) : Nat := home * 2 ^ 52 + pa

/-- The code of the home that a location lies in. -/
def homeOf (loc : Nat) : Nat := loc / 2 ^ 52

/-- The physical address of a location in its home. -/
def paOf (loc : Nat) : Nat := loc % 2 ^ 52

/-- The word that holds a byte. -/
def wordBase (loc : Nat) : Nat := loc / 4 * 4

/-- The line that holds a byte (R316). -/
def lineBase (loc : Nat) : Nat := loc / 128 * 128

/-- The hamlet of a core (R20). -/
def hamletOf (core : Nat) : Nat := core / 12 / 4 * 4 + core % 12 / 3

/-- The home slice of a local line (R316). -/
def sliceOf (loc : Nat) : Nat := Nat.xor (loc / 128 % 64) (loc / 8192 % 64)

/-- Whether a physical address of a home exists: this device's memory ends at 288 GiB (R273). -/
def physExists (home pa : Nat) : Bool := if home = 0 then decide (pa < Config.localEnd) else decide (pa < 2 ^ 52)

/-! ## Bytes -/

/-- The byte at a location. -/
def memByte : List Host.Cell → Nat → BitVec 8
  | [], _ => 0
  | (a, b) :: m, k => if a = k then b else memByte m k

/-- Writes a byte, keeping the addresses rising and listing no zero. -/
def memPut : List Host.Cell → Nat → BitVec 8 → List Host.Cell
  | [], k, v => if v = 0 then [] else [(k, v)]
  | (a, b) :: m, k, v =>
    if k < a then (if v = 0 then (a, b) :: m else (k, v) :: (a, b) :: m)
    else if k = a then (if v = 0 then m else (k, v) :: m)
    else (a, b) :: memPut m k v

/-- The canonical form of memory above `low`: addresses strictly rising and no byte that reads as an unlisted one. -/
def wfAbove : Nat → List Host.Cell → Bool
  | _, [] => true
  | low, (a, b) :: m => decide (low ≤ a) && b != 0 && wfAbove (a + 1) m

/-- The canonical form of memory. -/
def Memory.wf (m : List Host.Cell) : Bool := wfAbove 0 m

/-! ## Words -/

/-- The word at a location that is a multiple of 4, little-endian (R3). -/
def memWord (m : List Host.Cell) (w : Nat) : Word := wordOf fun i => memByte m (w + i)

/-- Writes the bytes of a word that `mask` selects. -/
def memPutWord (m : List Host.Cell) (w : Nat) (mask : BitVec 4) (v : Word) : List Host.Cell :=
  [3, 2, 1, 0].foldl (fun m i => if mask.getLsbD i then memPut m (w + i) (byteOf v i) else m) m

end Sys2Proof.Machine
end

