-- ==== Sys2Proof/Machine/Report.lean ====
section
/-!
DEFINITION. The registers of the host function as words (R287 to R290), the groups and contexts of a device, and the
coalescers' pending records (R372).
-/

namespace Sys2Proof.Machine

/-! ## Host-function registers -/

/-- The reset value of a context block's word, by offset within the block (R290). -/
def ctxReset (off : Nat) : Word := if off = 0xA4 then 127 else if off = 0xB0 then 0x00010001 else 0

/-- The reset value of the register word at a BAR offset (R250, R287, R288, R371). AGE resets to 8,192 and HMASK to
all hamlets (R250). -/
def barReset (off : Nat) : Word :=
  if 0x10000 ≤ off ∧ off < 0x20000 then ctxReset (off % 1024)
  else if 0x1000 ≤ off ∧ off < 0x1800 then
    (if off % 64 = 0x20 then 0x00FF0000 else if off % 64 = 0x24 then 8192 else 0)
  else 0

/-- The register word at a BAR offset. -/
def barWord (s : State) (off : Nat) : Word := tget s.bar (off / 4) (barReset off)

/-- The 64-bit register at a BAR offset. -/
def barDWord (s : State) (off : Nat) : DWord := joinWords (barWord s off) (barWord s (off + 4))

/-- Writes a register word. -/
def putBar (s : State) (off : Nat) (v : Word) : State := { s with bar := tput s.bar (off / 4) v }

/-- Writes a 64-bit register. -/
def putBarD (s : State) (off : Nat) (v : DWord) : State := putBar (putBar s off (loWord v)) (off + 4) (hiWord v)

/-- The block of a context (R287). -/
def ctxBlock (ctx : Nat) : Nat := 0x10000 + 1024 * ctx

/-! ## Contexts -/

/-- A context that nothing has touched. -/
def noCtx : Ctx :=
  { live := false, active := [], nextGrid := 0, logSeq := 0, stopped := false, preempt := false, drained := false,
    deadline := none, haltWait := false, irqArmed := true, rsvQueue := [], rsvSince := 0, var := [], matched := [], stalls := [], flush := none }

/-- The context numbered `ctx`. -/
def ctxOf (s : State) (ctx : Nat) : Ctx := tget s.ctxs ctx noCtx

/-- Rewrites a context. -/
def updCtx (s : State) (ctx : Nat) (f : Ctx → Ctx) : State := { s with ctxs := tput s.ctxs ctx (f (ctxOf s ctx)) }

/-- The word of a context's active settings at an offset of its block (R290). -/
def ctxWord (s : State) (ctx off : Nat) : Word := tget (ctxOf s ctx).active (off / 4) (ctxReset off)

/-- The 64-bit active setting at an offset of a context's block. -/
def ctxDWord (s : State) (ctx off : Nat) : DWord := joinWords (ctxWord s ctx off) (ctxWord s ctx (off + 4))

/-- Writes a word of a context's settings that the device keeps, in the block and among the active ones. -/
def putCtx (s : State) (ctx off : Nat) (v : Word) : State :=
  putBar (updCtx s ctx fun c => { c with active := tput c.active (off / 4) v }) (ctxBlock ctx + off) v

/-- HVEC, read as TRAPVEC (R17, R290). -/
def trapVec (s : State) (ctx : Nat) : DWord := ctxDWord s ctx 0x008

/-- DBGEN (R379). -/
def dbgOn (s : State) (ctx : Nat) : Bool := (ctxWord s ctx 0x018).getLsbD 0

/-- LOGMODE (R17, R337). -/
def logMode (s : State) (ctx : Nat) : Nat := (ctxWord s ctx 0x020).toNat

/-! ## Groups and teams -/

/-- The group in a slot of a core. -/
def groupAt (s : State) (core slot : Nat) : Option Group := s.groups.find? fun g => g.core == core && g.slot == slot

/-- Puts a group back in its place. -/
def setGroup (s : State) (g : Group) : State :=
  { s with groups := s.groups.map fun h => if h.core == g.core && h.slot == g.slot then g else h }

/-- Rewrites the group in a slot, if there is one. -/
def updGroup (s : State) (core slot : Nat) (f : Group → Group) : State :=
  match groupAt s core slot with
  | some g => setGroup s (f g)
  | none => s

/-- The team with a key. -/
def teamOf (s : State) (key : Nat) : Option Team := s.teams.find? fun t => t.key == key

/-- The team of a group: its members run on one core, in one cluster of one grid (R247). An episode group has none. -/
def teamOfGroup (s : State) (g : Group) : Option Team :=
  if g.kind = .compute then
    s.teams.find? fun t => t.core == g.core && t.ctx == g.ctx && t.grid == g.grid && t.cluster == g.cluster && t.team == g.team
  else none

/-- Rewrites a team. -/
def updTeam (s : State) (key : Nat) (f : Team → Team) : State :=
  { s with teams := s.teams.map fun t => if t.key == key then f t else t }

/-- Whether an episode group (R21, R177). -/
def isEpisode (g : Group) : Bool := g.kind ≠ .compute

/-- The lanes that hold a ray, in an episode; in a compute group any lane may act (R177). -/
def rayLanes (g : Group) : Mask := if isEpisode g then maskOf fun l => (tfind g.rays l).isSome else BitVec.allOnes 128

/-- A fresh name. -/
def freshId (s : State) : Nat × State := (s.nextId, { s with nextId := s.nextId + 1 })

/-- A fresh free word. -/
def drawWord (s : State) : Word × State := (Config.freeWord s.draws, { s with draws := s.draws + 1 })

/-! ## The coalescers (R372) -/

/-- The coalescer of events of no core. -/
def noCore : Nat := 0x7F

/-- An event to report. -/
structure Report where
  kind : Nat
  cause : Nat
  ctx : Nat
  core : Nat
  addr : Nat
  slot : Option Nat
  eng : Nat
  span : Nat
  aux : Word

/-- The group-slot bit of an event. -/
def slotBit (slot : Option Nat) : BitVec 96 := match slot with
  | some n => (1 : BitVec 96) <<< n
  | none => 0

/-- Merges an event into a coalescer's pending records, or adds a record. Records past the 32nd are those that wait for
room (R372). -/
def mergeEvent : List EventRec → Report → List EventRec
  | [], r => [⟨r.kind, r.cause, r.ctx, r.core, r.eng, r.addr, r.span, slotBit r.slot, 1, r.aux⟩]
  | e :: es, r =>
    if e.kind = r.kind ∧ e.cause = r.cause ∧ e.ctx = r.ctx ∧ e.addr = r.addr then
      { e with slots := e.slots ||| slotBit r.slot, count := min (e.count + 1) 0xFFFF } :: es
    else e :: mergeEvent es r

/-- Reports an event to system software. -/
def report (s : State) (r : Report) : State := { s with events := tupd s.events r.core [] fun es => mergeEvent es r }

/-- Whether an event that a group raised still waits for room in its core's coalescer. -/
def eventWaits (s : State) (g : Group) : Bool :=
  ((tget s.events g.core []).drop 32).any fun e => e.ctx == g.ctx && e.slots.getLsbD g.slot

/-- An event of a group. -/
def reportGroup (s : State) (g : Group) (kind cause addr : Nat) : State :=
  report s ⟨kind, cause, g.ctx, g.core, addr / 4096 * 4096, some g.slot, 0, 0, 0⟩

/-- An event of a context that concerns no core. -/
def reportCtx (s : State) (ctx kind cause addr : Nat) (aux : Word) : State :=
  report s ⟨kind, cause, ctx, noCore, addr, none, 0, 0, aux⟩

end Sys2Proof.Machine
end

