-- ==== Sys2Proof/Machine/Coherence.lean ====
section
/-!
DEFINITION. The states of words (R316, R317), the order of a location (R300), the L2's slots (R335), bias (R286), and what
loads, stores, evictions, acquires and releases do to the copies of words (R320 to R325). A word is named by its location;
a message carries every word of one line that goes the same way, so that the words of one aligned access of 8 bytes move
together (R300).
-/

namespace Sys2Proof.Machine

/-! ## Agents and their copies (R316, R317) -/

/-- The home of a word as an agent (R316). -/
def homeAgent (w : Nat) : Agent :=
  match homeOf w with
  | 0 => .slice (sliceOf w)
  | 1 => .twin
  | _ => .host

/-- The device bit and unit of the tag that names an owner (R316). -/
def tagOf : Agent → Bool × Nat
  | .core n => (false, n)
  | .far u => (true, u)
  | _ => (false, 96)

/-- The agent that an owner's tag names. -/
def ownerAgent (far : Bool) (unit : Nat) : Agent := if far then .far unit else if unit = 96 then .rdc else .core unit

/-- Where a core sends a request for a word: its home, or the RDC for a word homed on the twin or the host (R320, R333). -/
def requestTo (w : Nat) : Agent := if homeOf w = 1 ∨ homeOf w = 2 then .rdc else homeAgent w

/-- The core that an agent is, if it is one of this device. -/
def coreOf : Agent → Option Nat
  | .core n => some n
  | _ => none

/-- The key under which `State.l1` and `State.holding` keep what an agent holds. -/
def unitKey : Agent → Nat
  | .core n => n
  | .far u => 128 + u
  | _ => 96

/-- The words that an agent holds copies of. -/
def copiesOf (s : State) (who : Agent) : Tbl Copy := if who = .rdc then s.rdc else tget s.l1 (unitKey who) []

/-- The copy of a word that an agent holds. -/
def copyAt (s : State) (who : Agent) (w : Nat) : Option Copy := tfind (copiesOf s who) w

/-- Rewrites an agent's copies. -/
def mapCopies (s : State) (who : Agent) (f : Tbl Copy → Tbl Copy) : State :=
  { s with
    rdc := if who = .rdc then f s.rdc else s.rdc
    l1 := if who = .rdc then s.l1 else tupd s.l1 (unitKey who) [] f }

/-- Sets an agent's copy of a word. -/
def putCopy (s : State) (who : Agent) (w : Nat) (c : Copy) : State := mapCopies s who fun t => tput t w c

/-- Drops an agent's copy of a word. -/
def dropCopy (s : State) (who : Agent) (w : Nat) : State := mapCopies s who fun t => tdel t w

/-- The copy of a word in a core's L1. -/
def l1Copy (s : State) (core w : Nat) : Option Copy := copyAt s (.core core) w

/-- The copy of a word in the RDC. -/
def rdcCopy (s : State) (w : Nat) : Option Copy := copyAt s .rdc w

/-- The write-back holding entries of an agent, oldest first. -/
def entriesOf (s : State) (who : Agent) : List Held := tget s.holding (unitKey who) []

/-- What an agent holds of a word's bytes, in its holding entries and its copy: value, bytes known, poison (R320). -/
def heldBytes (s : State) (who : Agent) (w : Nat) : Word × BitVec 4 × Bool :=
  let older := ((entriesOf s who).filter fun h => h.word == w).foldl
    (fun (a : Word × BitVec 4 × Bool) h => (mergeBytes h.mask h.val a.1, a.2.1 ||| h.mask, h.poison || (a.2.2 && h.mask ≠ 0xF)))
    (0, 0, false)
  match copyAt s who w with
  | some c => (mergeBytes c.held c.val older.1, older.2.1 ||| c.held, c.poison || (older.2.2 && c.held ≠ 0xF))
  | none => older

/-- Whether a copy is registered. -/
def regHeld (c : Option Copy) : Bool := (c.map fun c => c.st) == some .reg

/-- The words of a line. -/
def lineWords (line : Nat) : List Nat := (List.range 32).map fun i => line + 4 * i

/-- The words of the aligned 8 bytes that hold a word, which move together (R300). -/
def pairOf (w : Nat) : List Nat := if w % 8 < 4 then [w, w + 4] else [w - 4, w]

/-- Puts the words of a list together by their lines. -/
def byLine (ws : List Nat) : List (Nat × List Nat) :=
  (ws.map lineBase).dedup.map fun l => (l, ws.filter fun w => lineBase w == l)

/-- Whether the twin of a PX960-W has failed (R293). -/
def twinGone (s : State) : Bool := s.isW && !s.twinUp

/-! ## Home states and values -/

/-- A word's value in the memory of its home, with its poison mark (R125). -/
def homeWord (s : State) (w : Nat) : Word × Bool := (memWord s.mem w, tget s.memPoison w false)

/-- The home state of a word, where it is not VAL. -/
def homeSt (s : State) (w : Nat) : Option HomeSt := tfind s.homes w

/-- Sets a word VAL at its home. -/
def setVal (s : State) (w : Nat) : State := { s with homes := tdel s.homes w }

/-- Sets the owner of a word. -/
def setOwner (s : State) (w : Nat) (who : Agent) : State :=
  { s with homes := tput s.homes w (.own (tagOf who).1 (tagOf who).2) }

/-- Whether a word is LOST (R316, R336). -/
def isLost (s : State) (w : Nat) : Bool := homeSt s w == some .lost

/-- The owner of a word. -/
def ownerOf (s : State) (w : Nat) : Option Agent := match homeSt s w with
  | some (.own far unit) => some (ownerAgent far unit)
  | _ => none

/-- The owners among some words, each with its words. -/
def ownersOf (s : State) (ws : List Nat) : List (Agent × List Nat) :=
  (ws.filterMap (ownerOf s)).dedup.map fun o => (o, ws.filter fun w => ownerOf s w == some o)

/-! ## The slots of the L2 (R316, R335) -/

/-- Whether a slice caches a line. -/
def cached (s : State) (line : Nat) : Bool := s.l2.any fun slot => slot.contains line

/-- A line of 32 words in 64 bytes or less (R335): all words zero, or word 0 and 31 signed differences of 8 bits. -/
inductive Packed where
  | zeros
  | deltas (base : Word) (ds : List (BitVec 8))
  deriving DecidableEq, Repr

/-- Packs the words of a line, if it compresses (R335). -/
def packLine (ws : List Word) : Option Packed :=
  if ws.all fun w => w == 0 then some .zeros
  else
    let base := ws.headD 0
    if ws.all fun w => decide (-128 ≤ (w - base).toInt) && decide ((w - base).toInt ≤ 127) then
      some (.deltas base (ws.tail.map fun w => (w - base).extractLsb' 0 8))
    else none

/-- The words of a packed line. -/
def Packed.words : Packed → List Word
  | .zeros => List.replicate 32 0
  | .deltas base ds => base :: ds.map fun d => base + d.signExtend 32

/-- Whether a line compresses as it stands at its home: a line that holds poison never does (R335). -/
def compresses (s : State) (line : Nat) : Bool :=
  (lineWords line).all (fun w => !(homeWord s w).2) && (packLine ((lineWords line).map fun w => (homeWord s w).1)).isSome

/-- The slots of the slice of a line that are in use. -/
def slotsUsed (s : State) (line : Nat) : Nat := (s.l2.filter fun slot => slot.any fun l => sliceOf l == sliceOf line).length

/-- A slice takes a line (R335): beside another of its lines where both compress, else into a free slot; nothing where it
has neither. -/
def cacheLine (s : State) (line : Nat) : Option State :=
  if homeOf line ≠ 0 ∨ cached s line then some s
  else
    let partner := if compresses s line then
        s.l2.findIdx? fun slot => slot.length == 1 && slot.all fun l => sliceOf l == sliceOf line && compresses s l
      else none
    match partner with
    | some i => some { s with l2 := s.l2.modify i fun slot => slot ++ [line] }
    | none => if slotsUsed s line < Config.l2Slots then some { s with l2 := [line] :: s.l2 } else none

/-- A line that shares a slot and no longer compresses moves to a slot of its own; a slice that has none free evicts a
slot whose words are all VAL (R335). -/
def settledSlots (s : State) (line : Nat) : List (List Nat) :=
  if (s.l2.any fun slot => slot.contains line && slot.length == 2) && !compresses s line then
    let slots := [line] :: s.l2.map fun slot => slot.filter fun l => l ≠ line
    let used := (slots.filter fun slot => slot.any fun l => sliceOf l == sliceOf line).length
    let victim := slots.findIdx? fun slot => !slot.contains line && slot.all fun l =>
      sliceOf l == sliceOf line && (lineWords l).all fun w => (homeSt s w).isNone
    match victim with
    | some i => if used ≤ Config.l2Slots then slots else slots.eraseIdx i
    | none => slots
  else s.l2

/-! ## Bias (R286) -/

/-- The region that holds a line: an entry, or a device-biased region of 64 KiB. -/
def biasRegion (s : State) (line : Nat) : BiasRegion :=
  (s.bias.find? fun r => decide (r.base ≤ line) && decide (line < r.base + r.size)).getD ⟨line / 65536 * 65536, 65536, false, 0⟩

/-- Whether a line lies in a host-biased region. -/
def hostBiased (s : State) (line : Nat) : Bool := homeOf line == 0 && (biasRegion s line).host

/-- Splits a region down to the line of a conflict, at most `fuel` times; the part that holds the line flips. -/
def splitBias (line : Nat) (host : Bool) (clock : Nat) : Nat → BiasRegion → List BiasRegion
  | 0, r => [{ r with host, since := clock }]
  | fuel + 1, r =>
    if r.size ≤ 128 then [{ r with host, since := clock }]
    else
      let half := r.size / 2
      if line < r.base + half then splitBias line host clock fuel ⟨r.base, half, r.host, clock⟩ ++ [⟨r.base + half, half, r.host, clock⟩]
      else ⟨r.base, half, r.host, clock⟩ :: splitBias line host clock fuel ⟨r.base + half, half, r.host, clock⟩

/-- An access by one side to a line: on a conflict the region splits into halves down to the line, which flips, as far as
the 65,536 entries allow (R286). -/
def biasAccess (s : State) (line : Nat) (host : Bool) : State :=
  let r := biasRegion s line
  if homeOf line ≠ 0 ∨ r.host = host then s
  else
    let rest := s.bias.filter fun x => x.base ≠ r.base
    { s with bias := rest ++ splitBias line host s.clock (min 9 (65535 - rest.length)) r }

/-- The lines among some words that the host has first to give up for an access of the device (R286). -/
def snoopLines (s : State) (ws : List Nat) : List Nat := ((ws.map lineBase).filter (hostBiased s)).dedup

/-- An access of the device to some words snoops the host for the lines that it may hold, and waits (R286, R334); `none`
where none is host-biased. -/
def snoopFirst (s : State) (ws : List Nat) : Option State :=
  if (snoopLines s ws).isEmpty then none else some { s with biasWait := (snoopLines s ws ++ s.biasWait).dedup }

/-! ## Stamps (R345) -/

/-- Sets the stamp of a word's line when a write enters its order: by an agent of a logging context with the number of
records that the context has written, by any other writer with 0. -/
def stampWrite (s : State) (w : Nat) (ctx : Option Nat) (core : Option Nat) : State :=
  match ctx with
  | some c =>
    if logMode s c ≠ 0 then { s with stamps := tput s.stamps (lineBase w) ⟨(ctxOf s c).logSeq, core, some c⟩ }
    else { s with stamps := tdel s.stamps (lineBase w) }
  | none => { s with stamps := tdel s.stamps (lineBase w) }

/-- The context and the core whose write of a word an agent registers or writes back (R345): of a core, the context that has
stored to the word last; of the RDC, the core that has placed the word in it. -/
def writerOf (s : State) (who : Agent) (w : Nat) (ctx : Option Nat) : Option Nat × Option Nat := match who with
  | .core n => ((tfind (tget s.storers n []) w).orElse fun _ => ctx, some n)
  | .rdc => match tfind s.placers w with
    | some p => (some p.1, some p.2)
    | none => (ctx, none)
  | _ => (ctx, none)

/-- A write that an agent registers or writes back enters its word's order. -/
def stampFor (s : State) (who : Agent) (w : Nat) (ctx : Option Nat) : State :=
  stampWrite s w (writerOf s who w ctx).1 (writerOf s who w ctx).2

/-! ## Messages (R318, R319) -/

/-- Sends a message: it joins the end of those in flight, so that messages of one sender to one receiver keep their
order. -/
def send (s : State) (m : Msg) : State := { s with msgs := s.msgs ++ [{ m with serial := s.msgSeq }], msgSeq := s.msgSeq + 1 }

/-- The oldest message from one agent to another, with the rest. -/
def takeMsg (src dst : Agent) : List Msg → Option (Msg × List Msg)
  | [] => none
  | m :: ms => if m.src = src ∧ m.dst = dst then some (m, ms)
    else (takeMsg src dst ms).map fun r => (r.1, m :: r.2)

/-- The oldest message from one agent to another when it is of the kind given, and the state without it. -/
def receive (s : State) (kind : MsgKind) (src dst : Agent) : Option (Msg × State) :=
  match takeMsg src dst s.msgs with
  | some (m, rest) => if m.kind = kind then some (m, { s with msgs := rest }) else none
  | none => none

/-- Whether a message names a word. -/
def Msg.names (m : Msg) (w : Nat) : Bool := m.words.contains w || m.vals.any fun v => v.word == w

/-- The value that a message carries of a word. -/
def Msg.val (m : Msg) (w : Nat) : Option WordVal := m.vals.find? fun v => v.word == w

/-- A home asks the owners of some words to give them back, unless that is under way (R325, R328). -/
def recallWords (s : State) (ws : List Nat) : State :=
  let ws := ws.filter fun w => match ownerOf s w with
    | some o => !(s.msgs.any fun m => m.names w && ((m.kind == .rcl && m.dst == o) || (m.kind == .wb && m.src == o)))
    | none => false
  (ownersOf s ws).foldl (fun s o => (byLine o.2).foldl (fun s l =>
    send s { kind := .rcl, src := homeAgent l.1, dst := o.1, addr := l.1, who := o.1, words := l.2 }) s) s

/-- The slots of the L2 as a change of a line's words leaves them (R335). A slice that needs a slot and finds none with all
its words VAL begins the eviction of another: its owners are asked for their words (R325). -/
def settleLine (s : State) (line : Nat) : State :=
  let s1 := { s with l2 := settledSlots s line }
  if homeOf line ≠ 0 ∨ slotsUsed s1 line ≤ Config.l2Slots then s1
  else match s1.l2.find? fun slot => !slot.contains line && slot.all fun l =>
      sliceOf l == sliceOf line && (lineWords l).all fun w => !isLost s w with
    | some slot => recallWords { s1 with l2Evict := (slot ++ s1.l2Evict).dedup } (slot.flatMap lineWords)
    | none => s1

/-- Writes bytes of a word at its home. A full write sets the poison mark; a partial one can only add to it. -/
def putHomeWord (s : State) (w : Nat) (mask : BitVec 4) (v : Word) (poison : Bool) : State :=
  let p := poison || (mask ≠ 0xF && tget s.memPoison w false)
  settleLine { s with mem := memPutWord s.mem w mask v,
                      memPoison := if p then tput s.memPoison w true else tdel s.memPoison w } (lineBase w)

/-- Whether a message is an agent's read of a line or part of an answer to it. -/
def Msg.fills (m : Msg) (who : Agent) (line : Nat) : Bool :=
  m.addr == line && ((m.kind == .rdq && m.src == who) || (m.kind == .data && m.dst == who && m.form == 0) ||
    ((m.kind == .fwd || m.kind == .frep) && m.who == who))

/-- What an agent's reads under way bring is not kept where `p` holds of their line. -/
def voidFills (s : State) (who : Agent) (p : Nat → Bool) : State :=
  let mark (m : Msg) : Msg := if m.fills who m.addr && p m.addr then { m with void := true } else m
  { s with msgs := s.msgs.map mark, l2Wait := s.l2Wait.map mark }

/-- Whether a request of an agent for a line is in flight or waits, or its answer is under way. -/
def asked (s : State) (who : Agent) (line : Nat) : Bool :=
  (s.msgs.any fun m => m.fills who line) || (s.l2Wait.any fun m => m.fills who line)

/-- Asks for the line of a word unless that has been done (R320). -/
def askLine (s : State) (core w : Nat) : State :=
  if asked s (.core core) (lineBase w) then s
  else send s { kind := .rdq, src := .core core, dst := requestTo w, addr := lineBase w, who := .core core }

/-- Whether an agent's registration of a word has still to reach it in full: REG or its RACK is in flight. What the home
sent before, it sent about an earlier ownership (R319). -/
def regPending (s : State) (who : Agent) (w : Nat) : Bool :=
  s.msgs.any fun m => m.names w && ((m.kind == .reg && m.src == who) || (m.kind == .rack && m.dst == who))

/-- Whether a word's value is on its way to an agent that has become its owner (R327). -/
def valueComing (s : State) (who : Agent) (w : Nat) : Bool :=
  s.msgs.any fun m => m.names w && ((m.kind == .aval && m.dst == who) || (m.kind == .xferv && m.who == who) ||
    (m.kind == .data && m.form == 1 && m.dst == who))

/-- The entry of a word that its holder gave up registered, the oldest. -/
def ownedEntry (s : State) (who : Agent) (w : Nat) : Option Held := (entriesOf s who).find? fun h => h.word == w && h.owned

/-- Whether what a home has sent about a word concerns the copy that its receiver holds now, not an earlier ownership. -/
def concernsCopy (s : State) (who : Agent) (w : Nat) : Bool :=
  regHeld (copyAt s who w) && !regPending s who w && (ownedEntry s who w).isNone

/-- Whether a transfer or forwarded bytes of a word are on their way to an agent (R322, R327). -/
def handedOn (s : State) (who : Agent) (p : Nat → Bool) : Bool :=
  s.msgs.any fun m => (m.kind == .xfer || m.kind == .mfwd) && m.dst == who && (m.words.any p || m.vals.any fun v => p v.word)

/-- The value with which an owner answers its home: that of the entry given up, or of its registered copy (R320, R326). -/
def ownerValue (s : State) (who : Agent) (w : Nat) : Option (Word × Bool) :=
  match ownedEntry s who w with
  | some h => some (h.val, h.poison)
  | none => match copyAt s who w with
    | some c => if c.st = .reg then some (c.val, c.poison) else none
    | none => none

/-- Whether a value that one of some words, or the word it moves with, waits for is still on its way to an owner (R327). -/
def ownsLater (s : State) (who : Agent) (ws : List Nat) : Bool :=
  ws.any fun w => (pairOf w).any fun x => valueComing s who x

/-- Whether the owner of a word waits for its value (R327). -/
def ownerWaits (s : State) (w : Nat) : Bool := match ownerOf s w with
  | some o => ownsLater s o [w]
  | none => false

/-! ## The newest value of a word (R305, R307, R308) -/

/-- A value with the bytes that the home has forwarded to an agent for a word and that are still under way (R322). -/
def withForwarded (s : State) (who : Agent) (w : Nat) (v : Word × Bool) : Word × Bool :=
  (s.msgs.filter fun m => m.kind == .mfwd && m.dst == who).foldl (fun v m => match m.val w with
    | some x => (mergeBytes x.mask x.val v.1, v.2 || x.poison)
    | none => v) v

/-- The value that an owner holds or that travels to it: its copy, its write-back under way, or the owner before it. -/
def valueAt (s : State) (w : Nat) : Nat → Agent → Option (Word × Bool)
  | 0, _ => none
  | fuel + 1, who =>
    let base : Option (Word × Bool) :=
      match copyAt s who w with
      | some ⟨.reg, v, _, _, p, _⟩ => if (s.msgs.any fun m => m.kind == .reg && m.src == who && m.names w) then none else some (v, p)
      | _ => none
    let inFlight (p : Msg → Bool) : Option (Word × Bool) :=
      s.msgs.findSome? fun m => if p m then (m.val w).map fun v => (v.val, v.poison) else none
    let own := base.orElse fun _ => (inFlight fun m => m.kind == .wb && m.form == 0 && m.src == who).orElse fun _ =>
      (inFlight fun m => (m.kind == .aval || m.kind == .data && m.form == 1) && m.dst == who).orElse fun _ =>
        (s.msgs.find? fun m => m.kind == .xferv && m.who == who && m.names w).bind fun m => valueAt s w fuel m.dst
    own.map (withForwarded s who w)

/-- A host-homed word as CXL.cache has it: in the RDC's line, in a write-back under way, or in host memory (R317). -/
def hostWord (s : State) (w : Nat) : Word × Bool :=
  match tfind s.hostLines (lineBase w) with
  | some l => l.vals.getD (w % 128 / 4) (0, false)
  | none => match (s.msgs.reverse.find? fun m => m.kind == .wb && m.dst == .host && m.names w).bind fun m => m.val w with
    | some v => (v.val, v.poison)
    | none => homeWord s w

/-- The newest value in a word's order, obtained from the owner when the word is registered (R305, R307, R308). -/
def newest (s : State) (w : Nat) : Word × Bool :=
  if homeOf w = 2 then hostWord s w
  else match ownerOf s w with
    | some o => (valueAt s w 8 o).getD (homeWord s w)
    | none => homeWord s w

/-- Whether a registration of a word is on its way from an agent to the home. -/
def regSent (s : State) (who : Agent) (w : Nat) : Bool := s.msgs.any fun m => m.kind == .reg && m.src == who && m.names w

/-- What an engine, the launch unit or the walker reads: the RDC's bytes of a word homed on the twin, else the newest value
(R307, R333). A word that the twin's home has taken from the RDC is the home's. -/
def readAsEngine (s : State) (w : Nat) : Word × Bool :=
  if homeOf w ≠ 1 ∨ (regHeld (rdcCopy s w) ∧ handedOn s .rdc (· == w) = true ∧ regSent s .rdc w = false) then newest s w
  else
    let h := heldBytes s .rdc w
    if h.2.1 = 0xF then (h.1, h.2.2)
    else
      let n := newest s w
      (mergeBytes h.2.1 h.1 n.1, h.2.2 || n.2)

/-- The words of a byte range that starts at a multiple of 4. -/
def rangeWords (loc len : Nat) : List Nat := (List.range (ceilDiv len 4)).map fun i => loc + 4 * i

/-- Reads words of memory in order as an engine does. -/
def readWords (s : State) (loc n : Nat) : List Word := (List.range n).map fun i => (readAsEngine s (loc + 4 * i)).1

/-- Whether any of the words is poisoned as an engine reads it. -/
def anyPoison (s : State) (loc n : Nat) : Bool := (List.range n).any fun i => (readAsEngine s (loc + 4 * i)).2

/-! ## What a core reads and stores (R302, R320) -/

/-- What a load of a core finds of the bytes `need` of an NRM or WCB word in its L1 and its holding entries. -/
def l1Load (s : State) (core w : Nat) (need : BitVec 4) : Option (Word × Bool) :=
  let h := heldBytes s (.core core) w
  if need &&& ~~~h.2.1 = 0 then some (h.1, h.2.2) else none

/-- A store of a unit to bytes of an NRM word: at once in the order when the word is registered to the unit, else dirty
in its L1 (R300, R317, R322). -/
def storeCopy (s : State) (who : Agent) (ctx : Option Nat) (w : Nat) (mask : BitVec 4) (v : Word) (poison : Bool) : State :=
  match copyAt s who w with
  | some ⟨.reg, old, _, _, p, _⟩ =>
    stampWrite (putCopy s who w ⟨.reg, mergeBytes mask v old, 0xF, 0xF, poison || (p && mask ≠ 0xF), none⟩) w ctx (coreOf who)
  | some ⟨.drt, old, m, h, p, st⟩ =>
    putCopy s who w ⟨.drt, mergeBytes mask v old, m ||| mask, h ||| mask, poison || (p && mask ≠ 0xF), st⟩
  | some ⟨.cln, old, _, h, p, st⟩ =>
    putCopy s who w ⟨.drt, mergeBytes mask v old, mask, h ||| mask, poison || (p && mask ≠ 0xF), st⟩
  | none => putCopy s who w ⟨.drt, v, mask, mask, poison, none⟩

/-- A store of a core (R300), which keeps the context that has stored to the word last (R345). -/
def l1Store (s : State) (core ctx w : Nat) (mask : BitVec 4) (v : Word) (poison : Bool) : State :=
  storeCopy { s with storers := tupd s.storers core [] fun t => tput t w ctx } (.core core) (some ctx) w mask v poison

/-- The lines of which an L1 holds words. -/
def l1Lines (s : State) (core : Nat) : List Nat := ((copiesOf s (.core core)).map fun e => lineBase e.1).dedup

/-- The lines that a core's L1 has room for beside the scratchpads of its teams, in one memory of 768 KiB of which the
scratchpad takes multiples of 64 KiB (R7, R258). -/
def l1Room (s : State) (core : Nat) : Nat :=
  Config.l1Lines - 512 * ceilDiv (((s.teams.filter fun t => t.core == core).map fun t => t.size).sum) 65536

/-- Whether an L1 has a place for a line: it holds words of it, or has one free. -/
def l1Fits (s : State) (core line : Nat) : Bool :=
  (l1Lines s core).contains line || decide ((l1Lines s core).length < l1Room s core)

/-- Makes room in an L1 for some lines together by dropping the first of its other lines whose words are all clean, as
many as are needed (R7, R324); `none` where too few are clean. -/
def l1Reserve (s : State) (core : Nat) (lines : List Nat) : Option State :=
  let held := l1Lines s core
  let new := (lines.dedup.filter fun l => !held.contains l).length
  let excess := if new = 0 then 0 else held.length + new - l1Room s core
  let cs := copiesOf s (.core core)
  let out := (held.filter fun l => !lines.contains l && cs.all fun e => lineBase e.1 != l || e.2.st == .cln).take excess
  if out.length < excess then none
  else some (if out.isEmpty then s else mapCopies s (.core core) fun t => t.filter fun e => !out.contains (lineBase e.1))

/-- Makes room in an L1 for a line, if clean lines can be dropped. -/
def l1MakeRoom (s : State) (core line : Nat) : State := (l1Reserve s core [line]).getD s

/-- The lines that the RDC holds. -/
def rdcLines (s : State) : List Nat := (s.rdc.map fun e => lineBase e.1).dedup ++ s.hostLines.map fun e => e.1

/-- Whether the RDC has a place for a line in its 16 MiB (R7): it holds the line, or has one free. -/
def rdcFits (s : State) (line : Nat) : Bool := (rdcLines s).contains line || decide ((rdcLines s).length < Config.rdcLines)

/-! ## Writes that every later load must see (item 2 of R302) -/

/-- A word takes a write of some bytes that the baseline of every load after it includes: clean copies of it, which an L1 or
the RDC may drop at any time (R324), go everywhere, and answers under way with it are not kept. When the whole word is
written, its owner loses its copy with the write, and the transfer that the home sends it finds none (R327). -/
def overtake (s : State) (w : Nat) (mask : BitVec 4) : State :=
  let fresh (t : Tbl Copy) : Tbl Copy := t.filterMap fun e =>
    if e.1 = w then (match e.2.st with
      | .cln => none
      | .drt => some (e.1, { e.2 with held := e.2.mask })
      | .reg => some e) else some e
  { s with
    l1 := s.l1.map fun e => (e.1, fresh e.2)
    rdc := fresh s.rdc
    msgs := s.msgs.map fun m => if (m.kind == .data && m.form == 0 || m.kind == .fwd || m.kind == .frep) && m.names w
      then { m with void := true } else m } |> fun t => match ownerOf s w with
    | some o => if mask = 0xF ∧ regHeld (copyAt t o w) ∧ regSent t o w = false then dropCopy t o w else t
    | none => t

/-- A word is read at its home by a core (R309): what the core reads next must be no older (item 3 of R302), so clean
copies go as for a write. -/
def readHome (s : State) (w : Nat) : State := overtake s w 0

/-! ## Writes at the home -/

/-- The RDC takes a host-homed line exclusive through CXL.cache (R317, R275). -/
def takeHostLine (s : State) (line : Nat) : HostLine :=
  (tfind s.hostLines line).getD ⟨.exclusive, (lineWords line).map (hostWord s)⟩

/-- Whether a write-back of a line to the host is under way. -/
def hostBusy (s : State) (line : Nat) : Bool := s.msgs.any fun m => m.kind == .wb && m.dst == .host && m.addr == line

/-- Whether a core has holding entries for `n` words (R324). -/
def holdingRoom (s : State) (who : Agent) (n : Nat) : Bool :=
  match who with
  | .core _ => decide ((entriesOf s who).length + n ≤ 64)
  | _ => true

/-- Puts words of a line that an agent gives up into holding entries and sends them as one WB. -/
def holdAndSend (s : State) (who : Agent) (ctx : Option Nat) (owned : Bool) (es : List (Nat × Copy)) : State :=
  match es with
  | [] => s
  | e :: _ =>
    let held : List Held := es.map fun e => ⟨e.1, e.2.val, if owned then 0xF else e.2.mask, e.2.poison, owned, s.msgSeq⟩
    let s1 := { s with holding := tupd s.holding (unitKey who) [] fun h => h ++ held }
    let s2 := voidFills (es.foldl (fun s e => dropCopy s who e.1) s1) who fun l => l == lineBase e.1
    send s2 { kind := .wb, src := who, dst := homeAgent e.1, addr := lineBase e.1, who, ctx, form := if owned then 0 else 1,
              vals := es.map fun e => ⟨e.1, e.2.val, if owned then 0xF else e.2.mask, e.2.poison, none⟩ }

/-- Gives a line of the RDC up (R333): clean words are dropped, dirty and registered twin-homed ones sent home, a modified
host-homed line written back. Orphaned words stay (R336). -/
def rdcGiveUp (s : State) (line : Nat) : State :=
  if homeOf line = 2 then
    match tfind s.hostLines line with
    | none => s
    | some l =>
      let out := { s with hostLines := tdel s.hostLines line }
      if l.st = .modified then
        send out { kind := .wb, src := .rdc, dst := .host, addr := line, who := .rdc, form := 1,
                   vals := (lineWords line).zip l.vals |>.map fun x => ⟨x.1, x.2.1, 0xF, x.2.2, none⟩ }
      else out
  else
    let mine := s.rdc.filter fun e => lineBase e.1 == line
    let pick (st : CopySt) : List (Nat × Copy) := mine.filter fun e => e.2.st == st
    let s1 := (pick .cln).foldl (fun s e => dropCopy s .rdc e.1) s
    if twinGone s then s1
    else holdAndSend (holdAndSend s1 .rdc none true (pick .reg)) .rdc none false (pick .drt)

/-- Makes room in a full RDC for a line by giving up its first line that can leave (R7, R333). -/
def rdcMakeRoom (s : State) (line : Nat) : State :=
  if rdcFits s line then s
  else match (rdcLines s).find? fun l => homeOf l == 2 || !twinGone s || s.rdc.all fun e => lineBase e.1 != l || e.2.st == .cln with
    | some l => rdcGiveUp s l
    | none => s

/-- The RDC takes a host-homed line, with room made for it. -/
def putHostLine (s : State) (line : Nat) (l : HostLine) : State :=
  let s := rdcMakeRoom s line
  { s with hostLines := tput s.hostLines line l }

/-- Bytes of a host-homed word are written: in the RDC's line where it holds one, or takes one back that is on its way to
the host, else in host memory (R333). -/
def putHostWord (s : State) (w : Nat) (mask : BitVec 4) (v : Word) (poison : Bool) : State :=
  match (tfind s.hostLines (lineBase w)).orElse fun _ => if hostBusy s (lineBase w) then some (takeHostLine s (lineBase w)) else none with
  | some l =>
    let old := l.vals.getD (w % 128 / 4) (0, false)
    let line : HostLine := ⟨.modified, l.vals.set (w % 128 / 4) (mergeBytes mask v old.1, poison || (old.2 && mask ≠ 0xF))⟩
    putHostLine s (lineBase w) line
  | none => putHomeWord s w mask v poison

/-- What a write of this device's units leaves of a twin-homed word in the RDC, which every core of the device reads: no
clean copy, dirty bytes only where they are not written over, and a registered word with the write in it (R307, R333). The
answer says whether a registered word of the RDC has taken bytes of it. -/
def rdcSees (s : State) (w : Nat) (mask : BitVec 4) (v : Word) (poison : Bool) : State × Bool :=
  let s := voidFills s .rdc fun l => l == lineBase w
  match rdcCopy s w with
  | none => (s, false)
  | some c => match c.st with
    | .cln => (dropCopy s .rdc w, false)
    | .drt =>
      let left := c.mask &&& ~~~mask
      (if left = 0 then dropCopy s .rdc w else putCopy s .rdc w { c with mask := left, held := left }, false)
    | .reg =>
      if regSent s .rdc w then
        (putCopy s .rdc w { c with val := mergeBytes mask v c.val, poison := poison || (c.poison && mask ≠ 0xF) }, false)
      else if !concernsCopy s .rdc w then (s, false)
      else if mask = 0xF then (dropCopy s .rdc w, false)
      else (putCopy s .rdc w { c with val := mergeBytes mask v c.val, poison := c.poison || poison }, true)

/-- A write performed at the home (R300, R327): a registered word goes VAL with the whole word written and its owner's copy
transferred away, or takes a part of it at its owner (R322). A write of a whole word clears LOST; a part of a LOST word is
dropped and reported (R336); a word of a twin that has failed is written in the RDC (R336). -/
def writeAtHome (s : State) (w : Nat) (mask : BitVec 4) (v : Word) (poison : Bool) (ctx core : Option Nat) : State :=
  if isLost s w ∧ mask ≠ 0xF then reportCtx s (ctx.getD 0) 0x0D 0x30 (w / 4096 * 4096 % 2 ^ 48) 0
  else if homeOf w = 2 then stampWrite (putHostWord s w mask v poison) w ctx core
  else if homeOf w = 1 ∧ s.isW ∧ ¬ s.twinUp then storeCopy s .rdc ctx w mask v poison
  else
    let seen := if homeOf w = 1 then rdcSees s w mask v poison else (s, false)
    let s := seen.1
    stampWrite (match ownerOf s w with
      | some o =>
        if seen.2 = true then s
        else if mask = 0xF then
          putHomeWord (setVal (send s { kind := .xfer, src := homeAgent w, dst := o, addr := lineBase w, who := homeAgent w, words := [w] }) w)
            w mask v poison
        else send s { kind := .mfwd, src := homeAgent w, dst := o, addr := lineBase w, who := homeAgent w, vals := [⟨w, v, mask, poison, none⟩] }
      | none => putHomeWord (setVal s w) w mask v poison) w ctx core

/-- A write of a unit of the device at a word's home. The access turns the bias of a line that the host holds; the snoop is
answered in the same step (R286). -/
def homeWrite (s : State) (w : Nat) (mask : BitVec 4) (v : Word) (poison : Bool) (ctx core : Option Nat) : State :=
  writeAtHome (biasAccess s (lineBase w) false) w mask v poison ctx core

/-- Writes words at their home from a location up. -/
def homeWrites (s : State) (loc : Nat) (ws : List Word) (ctx : Option Nat) : State :=
  (ws.zipIdx.foldr (fun p s => homeWrite s (loc + 4 * p.2) 0xF p.1 false ctx none) s)

/-- Whether every one of some words is VAL at its home, so that an atomic can be performed there (R328). -/
def allVal (s : State) (ws : List Nat) : Bool := ws.all fun w => (homeSt s w).isNone

/-! ## Registration at the home (R322, R324, R328) -/

/-- REG of words of a line at their home: the new owner, and a transfer without value to each other owner (R322). -/
def registerAt (s : State) (src : Agent) (ws : List Nat) (ctx : Option Nat) : State :=
  let s1 := (ownersOf s ws).foldl (fun s o =>
    if o.1 = src then s
    else send s { kind := .xfer, src := homeAgent (ws.headD 0), dst := o.1, addr := lineBase (ws.headD 0), who := src, words := o.2 }) s
  ws.foldl (fun s w => stampFor (setOwner s w src) src w ctx) s1

/-- MRG of one word at its home (R322, R336). -/
def mergeAt (s : State) (src : Agent) (v : WordVal) (ctx : Option Nat) : State :=
  match homeSt s v.word with
  | some (.own far u) =>
    stampFor (send s { kind := .mfwd, src := homeAgent v.word, dst := ownerAgent far u, addr := lineBase v.word, who := src, vals := [v] })
      src v.word ctx
  | some .lost => reportCtx s (ctx.getD 0) 0x0D 0x30 (v.word / 4096 * 4096 % 2 ^ 48) 0
  | none => stampFor (putHomeWord s v.word v.mask v.val v.poison) src v.word ctx

/-- The value that a home installs from an owner's write-back: with the bytes it has forwarded to that owner since, be
they still under way or in the write-back sent again (R302, R322). -/
def installed (s : State) (src : Agent) (v : WordVal) : Word × Bool :=
  let again := (s.msgs.reverse.find? fun m => m.kind == .wb && m.form == 2 && m.src == src && m.names v.word).bind fun m => m.val v.word
  let x := again.getD v
  withForwarded s src v.word (x.val, x.poison)

/-- WB of a registered word at its home (R324). -/
def writeBackOwned (s : State) (src : Agent) (v : WordVal) : State :=
  match homeSt s v.word with
  | some (.own far u) =>
    if ownerAgent far u = src then
      let x := installed s src v
      setVal (putHomeWord s v.word 0xF x.1 x.2) v.word
    else s
  | _ => s

/-- WB of a dirty word at its home: its registration, which for a part of a word is a merge (R321), then the write-back
(R324). A part of a LOST word is dropped and reported (R336). -/
def writeBackDirty (s : State) (src : Agent) (v : WordVal) (ctx : Option Nat) : State :=
  if v.mask = 0xF then setVal (putHomeWord (registerAt s src [v.word] ctx) v.word v.mask v.val v.poison) v.word
  else mergeAt s src v ctx

/-! ## Evictions (R324) -/

/-- The RDC takes dirty bytes of a word (R321, R324, R336): beside those it holds dirty, into a registered word, or into a
host-homed line, which it holds modified then. -/
def moveToRdc (s0 : State) (w : Nat) (c : Copy) : State :=
  let s := if homeOf w = 2 then s0 else rdcMakeRoom s0 (lineBase w)
  if homeOf w = 2 then putHostWord (putHostLine s (lineBase w) (takeHostLine s (lineBase w))) w c.mask c.val c.poison
  else match rdcCopy s w with
  | some ⟨.reg, v, _, _, p, _⟩ => putCopy s .rdc w ⟨.reg, mergeBytes c.mask c.val v, 0xF, 0xF, c.poison || (p && c.mask ≠ 0xF), none⟩
  | some ⟨st, v, m, h, p, _⟩ =>
    putCopy s .rdc w ⟨.drt, mergeBytes c.mask c.val v, (if st = .drt then m else 0) ||| c.mask, h ||| c.mask,
      c.poison || (p && c.mask ≠ 0xF), none⟩
  | none => putCopy s .rdc w ⟨.drt, c.val, c.mask, c.mask, c.poison, none⟩

/-- A core's dirty word goes where its home lies elsewhere: into the RDC, or, homed on a peer of the host, which CXL.io
alone reaches, to the peer. -/
def moveAway (s : State) (core ctx w : Nat) (c : Copy) : State :=
  let by' := (tget (tget s.storers core []) w ctx, core)
  let s := voidFills (dropCopy s (.core core) w) (.core core) fun l => l == lineBase w
  if homeOf w = 3 then stampWrite (putHomeWord s w c.mask c.val c.poison) w (some by'.1) (some core)
  else moveToRdc { s with placers := tput s.placers w by' } w c

/-- Dirty words of a core go away together. A registered word of the RDC whose pair comes with it and is not registered
there is given up first, so that the bytes of an 8-byte store enter the order together (R300). -/
def moveAll (s : State) (core ctx : Nat) (es : List (Nat × Copy)) : State :=
  let split (e : Nat × Copy) : Bool := concernsCopy s .rdc e.1 && (pairOf e.1).any fun x => x != e.1 && !regHeld (rdcCopy s x) && es.any fun y => y.1 == x
  let s1 := es.foldl (fun s e => if split e then (match rdcCopy s e.1 with
      | some c => holdAndSend s .rdc none true [(e.1, c)]
      | none => s) else s) s
  es.foldl (fun s e => moveAway s core ctx e.1 e.2) s1

/-- The words that an agent gives up with one: those of its aligned 8 bytes in the same state. -/
def evictSet (s : State) (who : Agent) (w : Nat) : List (Nat × Copy) :=
  match copyAt s who w with
  | none => []
  | some c => (pairOf w).filterMap fun x => match copyAt s who x with
    | some d => if d.st = c.st then some (x, d) else none
    | none => none

/-- The words of an eviction that need holding entries. -/
def holdingNeed (s : State) (core w : Nat) : Nat := match l1Copy s core w with
  | some c => if c.st = .reg ∨ (c.st = .drt ∧ homeOf w = 0) then (evictSet s (.core core) w).length else 0
  | none => 0

/-- An L1 gives up a word, with the word that moves with it; nothing while too few holding entries are free (R324). -/
def evictL1 (s : State) (core ctx w : Nat) : State :=
  let es := evictSet s (.core core) w
  if !holdingRoom s (.core core) (holdingNeed s core w) then s
  else match l1Copy s core w with
    | none => s
    | some c => match c.st with
      | .cln => dropCopy s (.core core) w
      | .reg => holdAndSend s (.core core) (some ctx) true es
      | .drt => if homeOf w = 0 then holdAndSend s (.core core) (some ctx) false es
          else moveAll s core ctx es

/-! ## Acquires (R323) -/

/-- The words of a core's L1. -/
def l1Words (s : State) (core : Nat) : List (Nat × Copy) := copiesOf s (.core core)

/-- Self-invalidation of a core's L1 over the words that `range` selects (R323): clean words are dropped, dirty ones
written back as far as holding entries are free, registered ones kept; answers under way are not kept. -/
def selfInvalidate (s : State) (core ctx : Nat) (range : Nat → Bool) : State :=
  let s1 := mapCopies s (.core core) fun t => t.filter fun e => !(range e.1 && e.2.st == .cln)
  voidFills ((l1Words s1 core).foldl (fun s e => if range e.1 && e.2.st == .drt then evictL1 s core ctx e.1 else s) s1)
    (.core core) fun l => (lineWords l).any range

/-- Whether a self-invalidation has ended: nothing dirty is left in its range. -/
def invalidated (s : State) (core : Nat) (range : Nat → Bool) : Bool :=
  (l1Words s core).all fun e => !(range e.1 && e.2.st == .drt)

/-- Whether an acquire at a scope reaches the RDC's words of a home (R137, R323). -/
def reachesRdc (scope w : Nat) : Bool := (homeOf w == 1 && decide (4 ≤ scope)) || (homeOf w == 2 && decide (5 ≤ scope))

/-- The RDC's clean words of the homes that an acquire at a scope reaches become invalid (R323). -/
def invalidateRdc (s : State) (scope : Nat) (range : Nat → Bool) : State :=
  let hit (w : Nat) : Bool := range w && reachesRdc scope w
  voidFills { s with
    rdc := s.rdc.filterMap fun e => if !hit e.1 then some e else match e.2.st with
      | .cln => none
      | .drt => some (e.1, { e.2 with held := e.2.mask })
      | .reg => some e
    hostLines := s.hostLines.filter fun e => e.2.st == .modified || !((lineWords e.1).any hit) } .rdc fun l => (lineWords l).any hit

/-- What an acquire at a resolved scope does (R137, R323). -/
def acquireAt (s : State) (core ctx scope : Nat) (range : Nat → Bool) : State :=
  if scope < 2 then s else invalidateRdc (selfInvalidate s core ctx range) scope range

/-- Whether an acquire at a resolved scope has ended: nothing dirty is left, and what homes have sent the core about its
registered words, and the RDC about those that the scope reaches, has arrived (R302, R323). -/
def acquired (s : State) (core scope : Nat) (range : Nat → Bool) : Bool :=
  scope < 2 || (invalidated s core range && !handedOn s (.core core) range && !handedOn s .rdc fun w => range w && reachesRdc scope w)

/-- What an engine's acquire does (R307). -/
def engineAcquire (s : State) (scope : Nat) : State := if scope < 2 then s else invalidateRdc s scope fun _ => true

/-! ## Releases (R321) -/

/-- Registers the dirty words of an agent that a list names, line by line: full words by REG, and they become REG; parts of
words by MRG, and they become CLN (R321). -/
def registerWords (s : State) (who : Agent) (ctx : Option Nat) (es : List (Nat × Copy)) : State :=
  (byLine (es.map Prod.fst)).foldl (fun s l =>
    let mine := es.filter fun e => lineBase e.1 == l.1
    let full := mine.filter fun e => e.2.mask == 0xF
    let part := mine.filter fun e => e.2.mask != 0xF
    let s1 := if full.isEmpty then s else
      send (full.foldl (fun s e => putCopy s who e.1 { e.2 with st := .reg }) s)
        { kind := .reg, src := who, dst := homeAgent l.1, addr := l.1, who, ctx, words := full.map Prod.fst }
    if part.isEmpty then s1 else
      send (voidFills (part.foldl (fun s e => putCopy s who e.1 { e.2 with st := .cln, mask := 0 }) s1) who fun x => x == l.1)
        { kind := .mrg, src := who, dst := homeAgent l.1, addr := l.1, who, ctx,
          vals := part.map fun e => ⟨e.1, e.2.val, e.2.mask, e.2.poison, none⟩ }) s

/-- The RDC's part of a release: at PAIR and SYSTEM its dirty twin-homed words are registered at the twin, and at SYSTEM
its modified host-homed lines are written back and stay clean (R321). -/
def releaseRdc (s : State) (ctx : Option Nat) (scope : Nat) : State :=
  let s1 := if 4 ≤ scope && s.isW && s.twinUp then registerWords s .rdc ctx (s.rdc.filter fun e => e.2.st == .drt) else s
  if 5 ≤ scope then
    (s1.hostLines.filter fun e => e.2.st == .modified).foldl (fun s e =>
      send { s with hostLines := tput s.hostLines e.1 { e.2 with st := .exclusive } }
        { kind := .wb, src := .rdc, dst := .host, addr := e.1, who := .rdc, ctx, form := 1,
          vals := (lineWords e.1).zip e.2.vals |>.map fun x => ⟨x.1, x.2.1, 0xF, x.2.2, none⟩ }) s1
  else s1

/-- A release by a core at a resolved scope (R137, R321): its dirty words are registered at this device's homes, or moved. -/
def releaseAt (s : State) (core ctx scope : Nat) : State :=
  if scope < 2 then s
  else
    let dirty := (l1Words s core).filter fun e => e.2.st == .drt
    let s1 := registerWords s (.core core) (some ctx) (dirty.filter fun e => homeOf e.1 == 0)
    releaseRdc (moveAll s1 core ctx (dirty.filter fun e => homeOf e.1 != 0)) (some ctx) scope

/-- The key of a last releaser's core among `State.l1`: the twin's cores follow this device's. -/
def releaserKey (far : Bool) (core : Nat) : Nat := if far then 128 + core else core

/-- A catch-up by the core of a last releaser, on either device (R314, R315): a core of the twin registers its dirty words at
their homes. -/
def catchUp (s : State) (far : Bool) (core ctx scope : Nat) : State :=
  if !far then releaseAt s core ctx scope
  else if scope < 2 ∨ twinGone s then s
  else registerWords s (.far core) (some ctx) ((copiesOf s (.far core)).filter fun e => e.2.st == .drt)

/-- Whether writes that an agent sent to a home before a serial have still to enter their order or to be acknowledged: its
registrations, its dirty write-backs, and bytes that an ATQ carries (R303, R321). -/
def regsOut (s : State) (who : Agent) (mark : Nat) : Bool :=
  s.msgs.any fun m =>
    (m.src == who && decide (m.serial < mark) &&
      (m.kind == .reg || m.kind == .mrg || (m.kind == .wb && m.form == 1) || (m.kind == .atq && !m.vals.isEmpty))) ||
    (m.dst == who && decide (m.tag < mark) && (m.kind == .rack || m.kind == .mack))

/-- Whether an ATQ sent before a serial still carries bytes that cores have placed in the RDC (R303, R328). -/
def atqOut (s : State) (mark : Nat) : Bool :=
  s.msgs.any fun m => m.kind == .atq && !m.vals.isEmpty && homeOf m.addr == 1 && decide (m.serial < mark)

/-- Whether what the RDC had sent for a release begun at a serial is still out (R303, R321). -/
def rdcOut (s : State) (mark : Nat) : Bool := regsOut s .rdc mark || atqOut s mark

/-- Whether a release by a core at a scope, begun at a serial, has still registrations out (R303, R321). A key from 128 on
names a core of the twin. -/
def releaseOut (s : State) (core scope mark : Nat) : Bool :=
  if 128 ≤ core then decide (2 ≤ scope) && regsOut s (.far (core - 128)) mark
  else decide (2 ≤ scope) && (regsOut s (.core core) mark || (decide (4 ≤ scope) && rdcOut s mark))

/-- A release by a unit whose own writes are all performed at their homes: what is left is the RDC's dirty words
(R160, R240, R304). -/
def unitRelease (s : State) (ctx scope : Nat) : State := releaseRdc s (some ctx) scope

/-- Whether a unit's release has ended: the RDC has nothing left to register or write back at its scope, and nothing of the
kind is under way (R321). -/
def unitReleased (s : State) (scope : Nat) : Bool :=
  decide (scope < 4) || (!rdcOut s s.msgSeq && (!(s.isW && s.twinUp) || s.rdc.all fun e => e.2.st != .drt) &&
    (decide (scope < 5) || s.hostLines.all fun e => e.2.st != .modified))

/-! ## The ends of host commands (R289) -/

/-- Word 7 of a command that ends. -/
def CmdEnd.word7 (e : CmdEnd) : DWord := BitVec.ofNat 64 (2 ^ 63 + e.result * 2 ^ 16 + e.status)

/-- Word 7 of a command is written, and KIV raised if IRQ is set (R289). -/
def writeEnd (s : State) (e : CmdEnd) : State :=
  let s := homeWrites s (e.cmd.loc + 56) [loWord e.word7, hiWord e.word7] none
  if e.cmd.irq then { s with irqs := (barWord s 0x110).toNat % 2048 :: s.irqs } else s

/-- The commands whose releases have ended are complete. -/
def settleEnds (s : State) : State :=
  (s.cmdEnds.filter fun e => !rdcOut s e.mark).foldl writeEnd { s with cmdEnds := s.cmdEnds.filter fun e => rdcOut s e.mark }

/-- A command ends: a release at SYSTEM scope begins, and once it has ended word 7 is written (R289). -/
def finishCmd (s : State) (c : HostCmd) (status result : Nat) : State :=
  let s := unitRelease { s with cmds := s.cmds.filter fun x => x ≠ c } c.ctx 5
  settleEnds { s with cmdEnds := s.cmdEnds ++ [⟨c, status, result, s.msgSeq⟩] }

end Sys2Proof.Machine
end

