-- ==== Sys2Proof/Machine/Xlat.lean ====
section
/-!
DEFINITION. Translation: page-table entries and the walk (R270 to R273), what a leaf grants (R274, R275), the TLBs and the
walk queues (R276 to R278), and the reach of an access to words whose owner or home is lost (R336).
-/

namespace Sys2Proof.Machine

/-! ## Page-table entries -/

/-- Bit `i` of an entry. -/
def pteBit (e : DWord) (i : Nat) : Bool := e.getLsbD i

/-- HOME of an entry (R271). -/
def pteHome (e : DWord) : Home := match bitsOf e 59 2 with
  | 0 => .loc
  | 1 => .twin
  | 2 => .host
  | _ => .peer

/-- MT of an entry (R271). -/
def pteMt (e : DWord) : MemType := match bitsOf e 55 2 with
  | 0 => .nrm
  | 1 => .wcb
  | 2 => .dev
  | _ => .sor

/-- AC of an entry (R271). -/
def pteAc (e : DWord) : AtomCap := match bitsOf e 57 2 with
  | 0 => .none
  | 1 => .dev
  | 2 => .pair
  | _ => .sys

/-- PA of an entry, as a physical address (R271). -/
def ptePa (e : DWord) : Nat := bitsOf e 12 40 * 4096

/-- Whether the reserved bits are zero and a local address lies in device memory (R271, R273). -/
def pteSane (e : DWord) : Bool := bitsOf e 52 3 == 0 && bitsOf e 5 7 == 0 &&
  (bitsOf e 59 2 != 0 || decide (ptePa e < Config.localEnd))

/-- Whether an entry is a legal table pointer (R272). -/
def pteTableOk (e : DWord) : Bool := pteSane e && (bitsOf e 59 2 == 0 || bitsOf e 59 2 == 2) &&
  bitsOf e 2 3 == 0 && bitsOf e 55 2 == 0 && bitsOf e 57 2 == 0 && bitsOf e 61 3 == 0

/-- The page size of a leaf at a level, if SPAN allows one (R272). -/
def leafSize (level span : Nat) : Option Nat := match level, span with
  | 2, 0 => some 0x200000
  | 2, 1 => some 0x2000000
  | 2, 2 => some 0x20000000
  | 1, 0 => some 0x1000
  | 1, 1 => some 0x10000
  | _, _ => none

/-- The leaf that an entry at a level gives for an address, unless it is malformed (R272, R273). -/
def pteLeaf (e : DWord) (level va : Nat) : Option Leaf :=
  match leafSize level (bitsOf e 61 2) with
  | none => none
  | some size =>
    if pteSane e && ptePa e % size == 0 then
      some ⟨va / size * size, size, pteHome e, ptePa e, pteMt e, pteAc e, pteBit e 63, pteBit e 2, pteBit e 3, pteBit e 4⟩
    else none

/-- The 64-bit entry at a location, as a walk reads it at its home (R277), with its poison mark. -/
def pteAt (s : State) (loc : Nat) : DWord × Bool :=
  let a := readAsEngine s loc
  let b := readAsEngine s (loc + 4)
  (joinWords a.1 b.1, a.2 || b.2)

/-- The walk from the table at `table` down the levels that are left, with the lowest index bit of each (R270). -/
def walkFrom (s : State) (va : Nat) : List (Nat × Nat) → Nat → Except WalkEnd Leaf
  | [], _ => .error .malformed
  | (level, sh) :: more, table =>
    let (e, bad) := pteAt s (table + va / 2 ^ sh % 512 * 8)
    if bad then .error .poison
    else if !pteBit e 0 then .error .absent
    else if pteBit e 1 then
      (if level = 1 || !pteTableOk e then .error .malformed
       else walkFrom s va more (locAt (bitsOf e 59 2) (ptePa e)))
    else match pteLeaf e level va with
      | some l => .ok l
      | none => .error .malformed

/-- The page-table root of a context as a location (R290). -/
def tableRoot (s : State) (ctx : Nat) : Nat :=
  let r := ctxDWord s ctx 0
  locAt (bitsOf r 60 2) (bitsOf r 12 40 * 4096)

/-- The walk of an address in a context (R270 to R273). A root that lies outside the device's memory is a malformed table. -/
def walk (s : State) (ctx va : Nat) : Except WalkEnd Leaf :=
  if !physExists (homeOf (tableRoot s ctx)) (paOf (tableRoot s ctx)) then .error .malformed
  else walkFrom s va [(4, 39), (3, 30), (2, 21), (1, 12)] (tableRoot s ctx)

/-- The words that the walk reads down to the entry that ends it, by their locations (R270, R277). -/
def walkWords (s : State) (va : Nat) : List (Nat × Nat) → Nat → List Nat
  | [], _ => []
  | (_, sh) :: more, table =>
    let loc := table + va / 2 ^ sh % 512 * 8
    let e := (pteAt s loc).1
    loc :: (loc + 4) :: (if pteBit e 0 && pteBit e 1 then walkWords s va more (locAt (bitsOf e 59 2) (ptePa e)) else [])

/-- The words that the walk of an address in a context reads. -/
def walkReads (s : State) (ctx va : Nat) : List Nat :=
  walkWords s va [(4, 39), (3, 30), (2, 21), (1, 12)] (tableRoot s ctx)

/-- The location that a leaf gives an address. -/
def Leaf.at (l : Leaf) (va : Nat) : Nat := locAt (homeCode l.home) (l.pbase + (va - l.vbase))

/-! ## What a leaf grants (R274, R275) -/

/-- The kinds of access. -/
inductive Acc where
  | fetch | read | write | atom
  deriving DecidableEq, Repr

/-- Whether an atomic reaches its word (R275). -/
def acReaches (l : Leaf) : Bool := match l.home, l.ac with
  | .peer, _ => false
  | _, .none => false
  | .loc, _ => true
  | .twin, .pair => true
  | .twin, .sys => true
  | .host, .sys => true
  | _, _ => false

/-- The cause that a leaf raises for an access, if any (R274, R275, R292). -/
def leafCause (s : State) (l : Leaf) (acc : Acc) : Option Nat :=
  if l.home = .twin ∧ ¬ s.isW then some 0x21
  else match acc with
    | .fetch => if l.x && l.r && l.mt == .nrm && !l.dsc then none else some 0x21
    | .read => if l.r then none else some 0x21
    | .write => if !l.w then some 0x21 else if l.dsc then some 0x22 else none
    | .atom => if !(l.r && l.w) then some 0x21 else if l.dsc then some 0x22 else if acReaches l then none else some 0x23

/-- The bytes that a core can bring to an access of a word whose twin has failed: to an atomic, which the RDC performs, the
dirty ones (R336). -/
def ownBytes (s : State) (core w : Nat) (acc : Acc) : BitVec 4 := match l1Copy s core w with
  | some c => if acc = .atom then c.mask else c.held
  | none => 0

/-- The cause raised by a word whose owner or home is lost, for an access of a core, or of a unit of the device, to the
bytes `need` of it (R336). A core's store enters its L1. -/
def lostCause (s : State) (core : Option Nat) (w : Nat) (acc : Acc) (need : BitVec 4) : Option Nat :=
  if homeOf w = 1 ∧ twinGone s then
    match acc, core with
    | .write, some _ => none
    | .write, none => if (rdcCopy s w).isSome then none else some 0x31
    | acc, core =>
      let own := match core with
        | some c => ownBytes s c w acc
        | none => 0
      if need &&& ~~~((heldBytes s .rdc w).2.1 ||| own) = 0 then none else some 0x31
  else if isLost s w ∧ acc ≠ .write then some 0x30 else none

/-! ## TLBs (R276) -/

/-- Whether a TLB entry translates an address of a context. -/
def TlbEntry.hits (e : TlbEntry) (ctx va : Nat) : Bool :=
  e.ctx == ctx && decide (e.leaf.vbase ≤ va) && decide (va < e.leaf.vbase + e.leaf.size)

/-- The number from which requesters stand for copy engines, which have a walk-ahead TLB of their own. -/
def engTlb : Nat := 128

/-- The number from which requesters stand for a hamlet's own units: treelet fetches and tile retirement (R223, R235). -/
def hamTlb : Nat := 192

/-- The hamlet whose walkers serve a requester: a core's, a copy engine's (R146), or the one that a unit is of. -/
def walkHamlet (core : Nat) : Nat :=
  if hamTlb ≤ core then core - hamTlb else if engTlb ≤ core then (core - engTlb) / 4 else hamletOf core

/-- The entry of a TLB that translates an address. -/
def tlbHit (t : List TlbEntry) (ctx va : Nat) : Option Leaf := (t.find? fun e => e.hits ctx va).map fun e => e.leaf

/-- The translation that the levels hold for a requester: a core's TLB, its hamlet's, the device's; for a copy engine its
walk-ahead TLB; for a unit of a hamlet the hamlet's TLB and the device's (R276). -/
def tlbFind (s : State) (ctx core va : Nat) : Option Leaf :=
  if hamTlb ≤ core then (tlbHit (tget s.hamletTlb (core - hamTlb) []) ctx va).orElse fun _ => tlbHit s.devTlb ctx va
  else if engTlb ≤ core then tlbHit (tget s.aheadTlb (core - engTlb) []) ctx va
  else (tlbHit (tget s.coreTlb core []) ctx va).orElse fun _ =>
    (tlbHit (tget s.hamletTlb (hamletOf core) []) ctx va).orElse fun _ => tlbHit s.devTlb ctx va

/-- Adds an entry to a TLB of `n` entries; the oldest entry past them goes. -/
def tlbAdd (n : Nat) (e : TlbEntry) (t : List TlbEntry) : List TlbEntry :=
  (e :: t.filter fun x => !(x.ctx == e.ctx && x.leaf.vbase == e.leaf.vbase && x.leaf.size == e.leaf.size)).take n

/-- Fills the levels of a requester (R276): the three of a core, a copy engine's walk-ahead TLB, or a hamlet's TLB and the
device's. A device's own access that is no hamlet's fills the device's. -/
def tlbFill (s : State) (ctx core : Nat) (l : Leaf) : State :=
  let e : TlbEntry := ⟨ctx, l⟩
  if hamTlb ≤ core then { s with hamletTlb := tupd s.hamletTlb (core - hamTlb) [] (tlbAdd 8192 e), devTlb := tlbAdd 65536 e s.devTlb }
  else if engTlb ≤ core then { s with aheadTlb := tupd s.aheadTlb (core - engTlb) [] (tlbAdd 256 e) }
  else if Config.numCores ≤ core then { s with devTlb := tlbAdd 65536 e s.devTlb }
  else { s with coreTlb := tupd s.coreTlb core [] (tlbAdd 128 e),
                hamletTlb := tupd s.hamletTlb (hamletOf core) [] (tlbAdd 8192 e),
                devTlb := tlbAdd 65536 e s.devTlb }

/-- Whether the walk of an address meets a malformed entry (R273). -/
def malformedAt (s : State) (ctx va : Nat) : Bool := match walk s ctx va with
  | .error .malformed => true
  | _ => false

/-- A malformed table that a walk of the device's own meets is reported (R273). -/
def tellMalformed (s : State) (ctx core va : Nat) : State :=
  if malformedAt s ctx va then report s ⟨0x07, 0x21, ctx, core, va / 4096 * 4096, none, 0, 0, 0⟩ else s

/-- What a walk made at once for an access of the device leaves: the levels filled, or a malformed table reported
(R273, R276). -/
def fillNow (s : State) (ctx core va : Nat) : State :=
  if (tlbFind s ctx core va).isSome || decide (2 ^ 48 ≤ va) then s
  else match walk s ctx va with
    | .ok leaf => tlbFill s ctx core leaf
    | .error _ => tellMalformed s ctx (min core noCore) va

/-- How a translation ends: a leaf, a trap cause, or a walk that has still to be made. -/
inductive Xl where
  | ok (l : Leaf)
  | fail (cause : Nat)
  | miss
  deriving DecidableEq, Repr

/-- The cause of a failed walk (R273, R126). -/
def walkCause : WalkEnd → Nat
  | .absent => 0x20
  | .malformed => 0x21
  | .poison => 0x70

/-- The translation of an address for a core's access (R274, R276). -/
def xlat (s : State) (ctx core va : Nat) (acc : Acc) : Xl :=
  if 2 ^ 48 ≤ va then .fail 0x21
  else match tlbFind s ctx core va with
    | some l => match leafCause s l acc with
      | some c => .fail c
      | none => .ok l
    | none => match s.walkFails.find? fun f => f.ctx == ctx && f.core == core && f.page == va / 4096 with
      | some f => .fail (walkCause f.why)
      | none => .miss

/-- The translation of an address for the device's own access, by a TLB entry of the core or a walk made at once. -/
def xlatNow (s : State) (ctx core va : Nat) (acc : Acc) : Except Nat Leaf :=
  if 2 ^ 48 ≤ va then .error 0x21
  else
    let r : Except WalkEnd Leaf := match tlbFind s ctx core va with
      | some l => .ok l
      | none => walk s ctx va
    match r with
    | .error e => .error (walkCause e)
    | .ok l => match leafCause s l acc with
      | some c => .error c
      | none => .ok l

/-! ## Walk requests (R277) -/

/-- Whether a walk of the page for this core is queued or runs. -/
def walkAsked (s : State) (ctx core page : Nat) : Bool :=
  let h := walkHamlet core
  ((tget s.walkQ h []) ++ (tget s.walking h [])).any fun r => r.ctx == ctx && r.page == page && r.core == core

/-- Whether a page's walk may join its hamlet's queue: a walk of the page that waits is shared, and the queue holds 512. -/
def walkRoom (s : State) (ctx core page : Nat) : Bool :=
  let q := tget s.walkQ (walkHamlet core) []
  q.any (fun r => r.ctx == ctx && r.page == page) || decide ((q.map fun r => (r.ctx, r.page)).dedup.length < 512)

/-- Asks for a walk of the page of an address (R277). With the queue full, ldg.t drops its request and any other waits. -/
def askWalk (s : State) (ctx core va : Nat) (soft : Bool) : State :=
  let page := va / 4096
  if walkAsked s ctx core page || !walkRoom s ctx core page then s
  else { s with walkQ := tupd s.walkQ (walkHamlet core) [] fun q => q ++ [⟨ctx, page, core, soft⟩] }

/-- A walk made ahead of a copy engine's position: the engine's hamlet is asked for it (R276). -/
def walkAhead (s : State) (eng ctx page : Nat) : State :=
  if eng < 32 ∧ (tlbFind s ctx (engTlb + eng) (page * 4096)).isNone then askWalk s ctx (engTlb + eng) (page * 4096) true else s

/-- Forgets the failed walks of a core's accesses to some pages, once the access has been told. -/
def dropFails (s : State) (ctx core : Nat) (pages : List Nat) : State :=
  { s with walkFails := s.walkFails.filter fun f => !(f.ctx == ctx && f.core == core && pages.contains f.page) }

/-! ## Neighbourhood prefetcher (R282) -/

/-- The size of the leaf that maps an address in a context's tables, 0 where none does. -/
def leafBytes (s : State) (ctx va : Nat) : Nat := match walk s ctx va with
  | .ok l => l.size
  | .error _ => 0

/-- The valid leaf bytes of a region: by pages of 4 KiB up to a level-2 entry's 2 MiB, and from level-2 entries alone in
a larger region. -/
def validBytes (s : State) (ctx base size : Nat) : Nat :=
  let unit := if size > 0x200000 then 0x200000 else 4096
  unit * ((List.range (size / unit)).filter fun i => decide (unit ≤ leafBytes s ctx (base + i * unit))).length

/-- Growth of the span by halves, at most `fuel` times (R282). -/
def growSpan (s : State) (ctx pb pt : Nat) : Nat → Nat → Nat → Nat
  | 0, _, size => size
  | fuel + 1, base, size =>
    if 2 * size ≤ pb then
      let e := base / (2 * size) * (2 * size)
      if validBytes s ctx e (2 * size) * 16 < pt * (2 * size) then size else growSpan s ctx pb pt fuel e (2 * size)
    else size

/-- log2 of the span of a page, whose own size is 4 KiB unless its walk finds a larger leaf (R282). -/
def spanOf (s : State) (ctx page : Nat) : Nat :=
  let pt := (ctxWord s ctx 0x0AC).toNat
  let size := max 4096 (leafBytes s ctx (page * 4096))
  if pt = 0 then Nat.log2 size
  else Nat.log2 (growSpan s ctx (2 ^ (ctxWord s ctx 0x0A8).toNat) pt 17 (page * 4096 / size * size) size)

end Sys2Proof.Machine
end

