-- ==== Sys2Proof/Machine/Ops.lean ====
section
/-!
DEFINITION. The named operations of an issuing group: its registers (R8 to R16), its slots and clause (R32, R33, R109),
its counters (R15), taking a trap and the trap frame (R23 to R26, R369, R370, R388), the return from it (R25, R390), and halts.
-/

namespace Sys2Proof.Machine

/-- The outcome of a meaning. -/
abbrev Res := Host.Outcome State Fault Refusal

/-! ## Registers -/

/-- Vector register `n` (R8, R10). -/
def vReg (g : Group) (n : Nat) : Lanes := tget g.v n []

/-- Writes lanes of a vector register; the write clears their poison marks (R125). -/
def setV (g : Group) (n : Nat) (act : Mask) (f : Nat → Word) : Group :=
  { g with v := tput g.v n (mergeLanes act f (vReg g n)), vPoison := tupd g.vPoison n 0 fun p => p &&& ~~~act }

/-- Marks lanes of a vector register as poisoned (R125). -/
def poisonV (g : Group) (n : Nat) (lanes : Mask) : Group :=
  if lanes = 0 then g else { g with vPoison := tupd g.vPoison n 0 fun p => p ||| lanes }

/-- Scalar `n` (R8). -/
def sReg (g : Group) (n : Nat) : DWord := tget g.s n 0

/-- Writes a scalar; the write clears its poison mark (R126). -/
def setS (g : Group) (n : Nat) (v : DWord) : Group := { g with s := tput g.s n v, sPoison := tdel g.sPoison n }

/-- Predicate `n`; p0 is all ones (R8). -/
def pReg (g : Group) (n : Nat) : Mask := if n = 0 then BitVec.allOnes 128 else tget g.p n 0

/-- Writes a predicate; a write of p0 is ignored (R8). -/
def setP (g : Group) (n : Nat) (m : Mask) : Group := if n = 0 then g else { g with p := tput g.p n m }

/-- The value of latch `n`: one that no word of the clause has written reads zero (R16). -/
def latch (g : Group) (n : Nat) : Lanes := if g.latchValid.getLsbD n then g.latches.getD n [] else []

/-- What a vector field names: v0 to v123, or a latch (R43). -/
def fieldLanes (g : Group) (f : BitVec 7) : Lanes := if isReg f then vReg g f.toNat else latch g (f.toNat - 0x7C)

/-- The poison marks of what a vector field names. -/
def fieldPoison (g : Group) (f : BitVec 7) : Mask := if isReg f then tget g.vPoison f.toNat 0 else 0

/-- ReadV (R4). -/
def readV (g : Group) (f : BitVec 7) (l : Nat) : Word := lane (fieldLanes g f) l

/-- Whether a vector field names a register at or above REGALLOC (R9). -/
def beyond (g : Group) (f : BitVec 7) : Bool := isReg f && decide (g.regAlloc ≤ f.toNat)

/-- The fields of a run (R45). -/
def runFields (base : BitVec 7) (n : Nat) : List (BitVec 7) := (List.range n).map fun i => base + BitVec.ofNat 7 i

/-- Shifts the latches in some lanes, with a result for latch 0 (R16, R46). -/
def shiftLatches (g : Group) (act : Mask) (f : Nat → Word) : Group :=
  if act = 0 then g
  else
    { g with
      latches := [mergeLanes act f (latch g 0), mergeLanes act (lane (latch g 0)) (latch g 1),
        mergeLanes act (lane (latch g 1)) (latch g 2), mergeLanes act (lane (latch g 2)) (latch g 3)],
      latchValid := g.latchValid <<< 1 ||| 1 }

/-- The latches at a clause boundary (R16). -/
def dropLatches (g : Group) : Group := { g with latches := [], latchValid := 0 }

/-! ## Counters (R15) -/

/-- Counter `n`. -/
def cnt (g : Group) (n : Nat) : Nat := tget g.cnt n 0

/-- A counter goes up by one. -/
def incCnt (g : Group) (n : Nat) : Group := { g with cnt := tput g.cnt n (cnt g n + 1) }

/-- A counter goes down by one. -/
def decCnt (g : Group) (n : Nat) : Group := { g with cnt := tput g.cnt n (cnt g n - 1) }

/-- CNT, as a system register and the frame show it (R17). -/
def cntWord (g : Group) : DWord :=
  BitVec.ofNat 64 ((List.range 6).foldl (fun a n => a + cnt g n % 64 * 2 ^ (6 * n)) 0)

/-! ## Slots (R8, R109) -/

/-- A program-counter slot of a group. -/
def pcSlot (g : Group) : SlotId → PcSlot
  | .a => g.a
  | .b => g.b

/-- Sets a program-counter slot. -/
def setSlot (g : Group) (i : SlotId) (p : PcSlot) : Group := match i with
  | .a => { g with a := p }
  | .b => { g with b := p }

/-- The other slot. -/
def SlotId.other : SlotId → SlotId
  | .a => .b
  | .b => .a

/-- An empty slot. -/
def emptySlot : PcSlot := ⟨.empty, 0, 0, none, 0⟩

/-- EXEC of the slot that issues a clause (R12). -/
def execMask (g : Group) (c : Clause) : Mask := (pcSlot g c.pcs).mask

/-- The governing mask of an instruction: p0 without an OX word (R41, R42). -/
def guardMask (g : Group) (ox : Option Ox) : Mask := match ox with
  | none => BitVec.allOnes 128
  | some o => if o.gn then ~~~pReg g o.gp.toNat else pReg g o.gp.toNat

/-- The active lanes (R42). -/
def activeMask (g : Group) (c : Clause) (ox : Option Ox) : Mask := execMask g c &&& guardMask g ox

/-! ## The clause in issue (R32, R33) -/

/-- The address of the word being issued. -/
def wordAddr (c : Clause) : Nat := c.addr + 4 * (c.idx + 1)

/-- The header that follows a clause, h + 4 × (1 + N) (R32). -/
def nextHeader (c : Clause) : Nat := c.addr + 4 * (1 + c.words.length)

/-- Whether an extension word follows the word being issued. -/
def hasExt (c : Clause) : Bool := match c.words[c.idx + 1]? with
  | some w => isExt w
  | none => false

/-- The position after the instruction being issued. -/
def nextIdx (c : Clause) : Nat := c.idx + if hasExt c then 2 else 1

/-- A clause ends: the slot stands at an address, the latches are invalid, and a step of the debugger is over
(R16, R377). -/
def endClause (s : State) (g : Group) (c : Clause) (pc : Nat) : Group :=
  let p := pcSlot g c.pcs
  let g := setSlot g c.pcs { p with pc := pc, since := s.clock }
  { dropLatches g with clause := none, resume := none, halted := g.halted || g.stepping, stepping := false }

/-- A clause stopped in the middle by a debug halt: its slot will go on with its words, latches kept (R16, R377). -/
def suspend (g : Group) : Group := match g.clause with
  | some c => { g with clause := none, resume := some ⟨c.pcs, c.addr, c.hdr, c.idx, false, c.words⟩ }
  | none => g

/-- The instruction has retired: the next word of the clause is next, or the clause ends (R32, R33). -/
def advance (s : State) (g : Group) (c : Clause) : Group :=
  if nextIdx c < c.words.length then { g with clause := some { c with idx := nextIdx c } }
  else endClause s g c (nextHeader c)

/-- The group that issues and its clause, if any: an instruction is meant for no one else. -/
def issuer (s : State) : Option (Group × Clause) :=
  match s.cur with
  | none => none
  | some (core, slot) => match groupAt s core slot with
    | none => none
    | some g => g.clause.map fun c => (g, c)

/-- Runs a meaning for the group that issues. -/
def withIssuer (s : State) (k : Group → Clause → Res) : Res :=
  match issuer s with
  | some (g, c) => k g c
  | none => .fault .noIssuer

/-- The instruction has retired and left the group as given. -/
def retire (s : State) (g : Group) (c : Clause) : Res := .next (setGroup s (advance s g c))

/-- The instruction waits at issue: nothing changes, and its word is issued again (R15, R33, R148). -/
def waits (s : State) : Res := .next s

/-! ## Traps (R23 to R26, R368 to R370, R388) -/

/-- What a trap reports. `laneAddrs` holds the faulting address of each lane; `atHeader` marks a trap of a clause none of
whose words has issued. -/
structure TrapInfo where
  cause : Nat
  mask : Mask
  addr : Nat
  dst : Nat
  laneAddrs : Tbl Nat
  pc : Nat
  idx : Nat
  hdr : Word
  atHeader : Bool

/-- The words of the trap frame (R24). -/
def frameWords (g : Group) (who : SlotId) (t : TrapInfo) : List Word :=
  let me := pcSlot g who
  let ot := pcSlot g who.other
  let w64 (n : Nat) : List Word := [BitVec.ofNat 32 n, BitVec.ofNat 32 (n / 2 ^ 32)]
  w64 t.pc ++ w64 (if ot.st = .running then ot.pc else 0) ++ wordsOfMask me.mask
    ++ wordsOfMask (if ot.st = .empty then 0 else ot.mask) ++ wordsOfMask t.mask
    ++ [BitVec.ofNat 32 (t.cause + 0x100 * t.dst + 0x10000 * t.idx + 0x1000000 * g.latchValid.toNat), t.hdr, g.fpctl,
        BitVec.ofNat 32 g.regAlloc]
    ++ w64 (cntWord g).toNat ++ [BitVec.ofNat 32 g.depth, 0] ++ w64 t.addr ++ List.replicate 38 0
    ++ (List.range 64).flatMap (fun n => [loWord (sReg g n), hiWord (sReg g n)])
    ++ (List.range 8).flatMap (fun n => wordsOfMask (pReg g n)) ++ List.replicate 32 0
    ++ (List.range 128).flatMap (fun l => w64 (tget t.laneAddrs l 0))
    ++ (List.range 4).flatMap (fun n => perLane (lane (latch g n)))

/-- TRAPFRAME: the address of a group's trap frame (R23). -/
def frameAddr (s : State) (g : Group) : Nat :=
  ((ctxDWord s g.ctx 0x010).toNat + (g.core * 96 + g.slot) * 4096) % 2 ^ 64

/-- Whether word `i` of the frame holds half of a poisoned scalar (R126). -/
def framePoison (g : Group) (i : Nat) : Bool := 64 ≤ i && i < 192 && tget g.sPoison ((i - 64) / 2) false

/-- The frame's stores into the core's L1 (R370). -/
def storeFrame (s : State) (g : Group) (loc : Nat) (ws : List Word) : State :=
  ws.zipIdx.foldr (fun p s => l1Store s g.core g.ctx (loc + 4 * p.2) 0xF p.1 (framePoison g p.2)) s

/-- Halts a group for good and reports why (R23, R26, R112, R369). -/
def haltGroup (s : State) (g : Group) (kind cause addr : Nat) : State :=
  reportGroup (setGroup s { g with stopped := some kind, clause := none }) g kind cause addr

/-- The trap registers of a trap (R17). -/
def setTrapRegs (g : Group) (t : TrapInfo) : Group :=
  { g with trapPc := t.pc, trapCause := t.cause, trapMask := t.mask, trapAddr := t.addr, trapDst := t.dst }

/-- The reports of some faulting lanes, each with cause and address: one for every cause and page of lost data, and of
uncorrectable data (R126, R336). -/
def reportLanes (s : State) (g : Group) (fs : List (Nat × Nat × Nat)) : State :=
  ((fs.map fun f => (f.2.1, f.2.2 / 4096 * 4096)).dedup).foldl (fun s f =>
    if f.1 = 0x30 ∨ f.1 = 0x31 then reportGroup s g 0x0D f.1 f.2
    else if f.1 = 0x70 then reportGroup s g 0x0E f.1 f.2
    else s) s

/-- The reports that go with a trap beside its delivery (R369, R336, R125). What the lanes of an access have met
`reportLanes` tells. -/
def reportTrap (s : State) (g : Group) (t : TrapInfo) : State :=
  if !t.laneAddrs.isEmpty then s
  else if t.cause = 0x30 ∨ t.cause = 0x31 then reportGroup s g 0x0D t.cause t.addr
  else if t.cause = 0x70 then reportGroup s g 0x0E t.cause t.addr
  else s

/-- The report of what made an access of the device itself fail: a home or owner that is lost (R336), uncorrectable data
(R126), a malformed table (R273). -/
def tellFault (s : State) (ctx core : Nat) (slot : Option Nat) (ident cause va : Nat) : State :=
  let page := va / 4096 * 4096
  if cause = 0x30 ∨ cause = 0x31 then report s ⟨0x0D, cause, ctx, core, page, slot, ident, 0, 0⟩
  else if cause = 0x70 then report s ⟨0x0E, cause, ctx, core, page, slot, ident, 0, 0⟩
  else if cause = 0x21 ∧ malformedAt s ctx va then report s ⟨0x07, cause, ctx, core, page, slot, ident, 0, 0⟩
  else s

/-- Halts a group whose frame or spill area cannot be accessed (R23, R112). -/
def haltAccess (s : State) (g : Group) (kind cause va : Nat) : State :=
  haltGroup (tellFault s g.ctx g.core (some g.slot) 0 cause va) g kind cause va

/-- Moves a group into its handler: slot A at TRAPVEC with the execution mask of the faulting slot, slot B empty, the
interrupted slots and split stack held aside (R24, R113). -/
def enterHandler (s : State) (g : Group) (who : SlotId) (t : TrapInfo) : Group :=
  let me := pcSlot g who
  dropLatches { setTrapRegs g t with
    aside := some ⟨g.a, g.b, who, g.top, g.depth, t.atHeader, s.nextId⟩
    a := ⟨.running, (trapVec s g.ctx).toNat, me.mask, none, s.clock⟩
    b := emptySlot
    top := none
    depth := 0
    clause := none
    resume := none
    inHandler := true
    halted := g.halted || g.stepping
    stepping := false }

/-- The pages at which a trap's walks failed are forgotten: a later access walks again. -/
def trapPages (t : TrapInfo) : List Nat := t.addr / 4096 :: t.laneAddrs.map fun e => e.2 / 4096

/-- Takes a trap in slot `who` of a group (R23 to R26, R369). DESIGN CHOICE (log entry 144): system software must map the
frame's page NRM; a page of another type is written and read in the same way. A trap in a handler is a double trap; without a handler the
group halts; a frame write that faults halts it too. -/
def takeTrap (s0 : State) (g : Group) (who : SlotId) (t : TrapInfo) : State :=
  let s := dropFails s0 g.ctx g.core (trapPages t)
  if g.inHandler then haltGroup (reportTrap s g t) (setTrapRegs g t) 0x04 t.cause 0
  else if trapVec s g.ctx = 0 then haltGroup (reportTrap s g t) (setTrapRegs g t) 0x05 t.cause 0
  else match xlatNow s g.ctx g.core (frameAddr s g) .write with
    | .error k => haltAccess (reportTrap (fillNow s g.ctx g.core (frameAddr s g)) g t) (setTrapRegs g t) 0x03 k (frameAddr s g)
    | .ok leaf =>
      setGroup (storeFrame (reportTrap (fillNow s g.ctx g.core (frameAddr s g)) g t) g (leaf.at (frameAddr s g)) (frameWords g who t)) (enterHandler s g who t)

/-- A trap at the word being issued. -/
def trapAt (s : State) (g : Group) (c : Clause) (cause : Nat) (mask : Mask) (dst addr : Nat) (laneAddrs : Tbl Nat) : Res :=
  .next (takeTrap s g c.pcs ⟨cause, mask, addr, dst, laneAddrs, wordAddr c, c.idx + 1, c.hdr, false⟩)

/-- A trap that belongs to the word and not to its lanes (R388). -/
def wordTrap (s : State) (g : Group) (c : Clause) (cause : Nat) : Res :=
  trapAt s g c cause (execMask g c) 0xFF 0 []

end Sys2Proof.Machine
end

