-- ==== Sys2Proof/Machine/Flags.lean ====
section
/-!
DEFINITION. The exception conditions of floating-point instructions: how a lane's flags reach FFLAGS, which enabled
traps they raise, and the lowest cause among them (R18, R19, R77).
-/

namespace Sys2Proof.Machine

/-- The traps that FPCTL enables, as flags: TIV, TDZ, TOF, TUF, TEX are bits 4 to 8 (R18). -/
def enabledTraps (fpctl : Word) : Flags := fpctl.extractLsb' 4 5

/-- Whether raised conditions include an enabled one (R77). With no trap enabled none is. -/
def fpFaults (enabled raised : Flags) : Bool := if enabled = 0 then false else enabled &&& raised ≠ 0

/-- The lowest enabled cause among raised conditions (R77): 0x10 for NV up to 0x14 for NX. -/
def fpCause (enabled raised : Flags) : Nat :=
  0x10 + ((List.range 5).find? fun i => (enabled &&& raised).getLsbD i).getD 0

/-- FFLAGS of a lane with conditions ORed in (R19, R77). -/
def orFlags (raised : Flags) (old : Word) : Word := old ||| raised.zeroExtend 32

/-- ORs conditions into FFLAGS, lane by lane, in some lanes. -/
def setFlags (g : Group) (act : Mask) (raised : Nat → Flags) : Group :=
  { g with fflags := mergeLanes act (fun l => orFlags (raised l) (lane g.fflags l)) g.fflags }

/-- Writes SRSEED in some lanes. -/
def setSeeds (g : Group) (act : Mask) (seed : Nat → Word) : Group :=
  if act = 0 then g else { g with srseed := mergeLanes act seed g.srseed }

end Sys2Proof.Machine
end

