-- ==== Sys2Proof/Machine/Operands.lean ====
section
/-!
DEFINITION. The operand forms of lane and scalar arithmetic (R35 to R37, R42 to R46): fields and the queue windows they
may name (R165), the checks that come before an instruction's operation (R9, R48, R125, R126), and the one frame in which
every vector instruction computes lane by lane, writes, shifts the latches and faults (R76, R77).
-/

namespace Sys2Proof.Machine

/-! ## Queue windows (R14, R165) -/

/-- The queue register whose window a field names. -/
def windowOf (g : Group) (f : BitVec 7) : Option (Nat × QueueReg) :=
  if isReg f then g.queues.find? fun e => e.2.window == f.toNat else none

/-- Whether a field names the window of an input queue. -/
def inWindow (g : Group) (f : BitVec 7) : Bool := match windowOf g f with
  | some (_, q) => !q.out
  | none => false

/-- Whether a field names the window of an output queue. -/
def outWindow (g : Group) (f : BitVec 7) : Bool := match windowOf g f with
  | some (_, q) => q.out
  | none => false

/-- Elements that a queue holds in one direction (R164). -/
def queueDepth : Nat := 16

/-- What a source field gives in a lane: the oldest element of an input window, else the register or latch (R165). -/
def readField (g : Group) (f : BitVec 7) (l : Nat) : Word :=
  match windowOf g f with
  | some (_, q) => match q.elems with
    | e :: _ => lane e.1 l
    | [] => 0
  | none => readV g f l

/-- Whether a source field is poisoned in a lane (R125). -/
def poisonField (g : Group) (f : BitVec 7) (l : Nat) : Bool :=
  match windowOf g f with
  | some (_, q) => match q.elems with
    | e :: _ => e.2.getLsbD l
    | [] => false
  | none => (fieldPoison g f).getLsbD l

/-! ## Vector instructions -/

/-- What an instruction gives in one lane: the values of its destinations, the conditions raised, the generator after
it, a trap of the lane's own, and, where a lane chooses it, the register written. -/
structure LaneOut where
  vals : List Word
  fl : Flags
  seed : Option Word
  cause : Option Nat
  reg : Nat

/-- One value and nothing else. -/
def LaneOut.one (w : Word) : LaneOut := ⟨[w], 0, none, none, 0⟩

/-- A truth for a predicate bit. -/
def LaneOut.bit (b : Bool) : LaneOut := .one (if b then 1 else 0)

/-- A floating-point result. -/
def LaneOut.fp (r : FRes) : LaneOut := ⟨[BitVec.ofNat 32 r.bits], r.fl, none, none, 0⟩

/-- A trap of the lane's own. -/
def LaneOut.trap (cause : Nat) : LaneOut := ⟨[], 0, none, some cause, 0⟩

/-- The first value. -/
def LaneOut.val (o : LaneOut) (i : Nat) : Word := o.vals.getD i 0

/-- Where an instruction's results go: a register or run, unless NW is set; a register that each lane chooses; or a
predicate. -/
inductive Dst where
  | vec (nw : Bool) (d : BitVec 7) (m : Nat)
  | each (nw : Bool) (d : BitVec 7)
  | pred (pd : BitVec 3)
  deriving DecidableEq, Repr

/-- The operands of a vector instruction. `fp` marks one that can raise floating-point conditions or advance the
generator; `named` lists fields that are named but not read as they stand; `reads` gives the register lanes that a lane
reads. -/
structure VecOp where
  dst : Dst
  srcs : List (BitVec 7)
  runs : List (BitVec 7 × Nat)
  named : List (BitVec 7)
  ox : Option Ox
  scal : Option (BitVec 6)
  fp : Bool
  reads : Nat → List (BitVec 7 × Nat)

/-- The registers that the destination names. -/
def Dst.fields : Dst → List (BitVec 7)
  | .vec false d m => runFields d m
  | .each false d => [d]
  | _ => []

/-- TRAPDST of a trap that a vector instruction raises from its operation: the D field for a floating-point condition
(R77) and for an indexed register beyond the allocation (R91); for any other cause the D field if the word writes a vector
register, and 0xFF under NW (R44, R388). -/
def Dst.code (cause : Nat) : Dst → Nat
  | .vec nw d _ => if nw && cause ≠ 4 && (cause < 0x10 || 0x14 < cause) then 0xFF else d.toNat
  | .each nw d => if nw && cause ≠ 4 && (cause < 0x10 || 0x14 < cause) then 0xFF else d.toNat
  | .pred _ => 0xFF

/-- The destination's single register, if it names just one as it stands. -/
def Dst.single : Dst → Option (BitVec 7)
  | .vec false d 1 => some d
  | _ => none

/-- The destination's run. -/
def Dst.run : Dst → List (BitVec 7)
  | .vec false d m => if m = 1 then [] else runFields d m
  | _ => []

/-- The cause that the word's operands raise before its operation: 0x01 for a window used where none may stand, 0x04 for
a register at or above REGALLOC (R9, R48, R165). -/
def operandCause (g : Group) (o : VecOp) : Option Nat :=
  let runs := o.runs.flatMap fun r => runFields r.1 r.2
  let isWin (f : BitVec 7) : Bool := (windowOf g f).isSome
  if (runs ++ o.dst.run).any isWin || o.srcs.any (outWindow g) || (o.dst.single.map (inWindow g)).getD false then some 1
  else if (o.srcs ++ runs ++ o.named ++ o.dst.fields).any (beyond g) then some 4
  else none

/-- The input queues that an instruction reads. -/
def inputQueues (g : Group) (o : VecOp) : List Nat :=
  (o.srcs.filterMap fun f => match windowOf g f with
    | some (n, q) => if q.out then none else some n
    | none => none).dedup

/-- The output queue that an instruction writes. -/
def outputQueue (g : Group) (o : VecOp) : Option Nat := match o.dst.single with
  | some d => match windowOf g d with
    | some (n, q) => if q.out then some n else none
    | none => none
  | none => none

/-- The elements of a queue. -/
def queueElems (g : Group) (n : Nat) : List (Lanes × Mask) := match tfind g.queues n with
  | some q => q.elems
  | none => []

/-- Whether every input queue has an element and the output queue has room (R14, R165). -/
def queuesReady (g : Group) (o : VecOp) : Bool :=
  (inputQueues g o).all (fun n => !(queueElems g n).isEmpty) &&
  (match outputQueue g o with
    | some n => decide ((queueElems g n).length < queueDepth)
    | none => true)

/-- Rewrites the elements of a queue. -/
def setElems (g : Group) (n : Nat) (f : List (Lanes × Mask) → List (Lanes × Mask)) : Group :=
  match tfind g.queues n with
  | some q => { g with queues := tput g.queues n { q with elems := f q.elems } }
  | none => g

/-- Pops one element from each input queue (R165). -/
def popQueues (g : Group) (o : VecOp) : Group := (inputQueues g o).foldl (fun g n => setElems g n List.tail) g

/-- Pushes one element: the result in the lanes given, 0 in the others (R165). -/
def pushQueue (g : Group) (n : Nat) (act : Mask) (f : Nat → Word) : Group :=
  setElems g n fun es => es ++ [(mergeLanes act f [], 0)]

/-- Writes the results of the lanes in `good` to the destination. -/
def writeDst (g : Group) (o : VecOp) (good : Mask) (out : Nat → LaneOut) : Group :=
  match o.dst with
  | .vec nw d m =>
    if nw then g
    else match outputQueue g o with
      | some n => pushQueue g n good fun l => (out l).val 0
      | none => (List.range m).foldl (fun g i => setV g (d.toNat + i) good fun l => (out l).val i) g
  | .each nw _ =>
    if nw then g
    else ((lanesIn good).map fun l => (out l).reg).dedup.foldl
      (fun g n => setV g n (good &&& maskOf fun l => (out l).reg == n) fun l => (out l).val 0) g
  | .pred pd => setP g pd.toNat (mergeMask good (maskOf fun l => (out l).val 0 ≠ 0) (pReg g pd.toNat))

/-- Shifts the latches where the destination is a vector (R46). -/
def shiftDst (g : Group) (o : VecOp) (good : Mask) (out : Nat → LaneOut) : Group :=
  match o.dst with
  | .pred _ => g
  | _ => shiftLatches g good fun l => (out l).val 0

/-- The cause of a lane: poisoned data (R125), a trap of its own, or an enabled condition (R77). DEDUCED, log entry 110: the
lane that reads poisoned data faults, and for a shuffle or a broadcast that is the reading lane, whatever lane holds it. -/
def laneCause (g : Group) (o : VecOp) (out : Nat → LaneOut) (l : Nat) : Option Nat :=
  if (o.reads l).any (fun r => poisonField g r.1 r.2) then some 0x70
  else match (out l).cause with
    | some k => some k
    | none => if o.fp && fpFaults (enabledTraps g.fpctl) (out l).fl then some (fpCause (enabledTraps g.fpctl) (out l).fl)
      else none

/-- The lanes of `act` that fault. -/
def faultMask (g : Group) (o : VecOp) (act : Mask) (out : Nat → LaneOut) : Mask :=
  maskOf fun l => act.getLsbD l && (laneCause g o out l).isSome

/-- The lowest cause raised in any lane of a mask. -/
def lowestCause (causes : Nat → Option Nat) (m : Mask) : Nat :=
  (lanesIn m).foldl (fun a l => match causes l with
    | some k => min a k
    | none => a) 0x100

/-- The lanes whose conditions reach FFLAGS: those that performed their operation (R77). -/
def performedMask (g : Group) (o : VecOp) (act : Mask) (out : Nat → LaneOut) : Mask :=
  maskOf fun l => act.getLsbD l && !((o.reads l).any fun r => poisonField g r.1 r.2) && (out l).cause.isNone

/-- The group after a vector instruction whose lanes `good` deliver: queues, flags, generator, destination, latches. -/
def vecResult (g : Group) (o : VecOp) (act good : Mask) (out : Nat → LaneOut) : Group :=
  let g1 := if o.fp then setFlags g (performedMask g o act out) fun l => (out l).fl else g
  let g2 := if o.fp then
      setSeeds g1 (maskOf fun l => good.getLsbD l && (out l).seed.isSome) fun l => (out l).seed.getD 0
    else g1
  let g3 := writeDst g2 o good out
  shiftDst (popQueues g3 o) o good out

/-- A vector instruction (R42, R76, R77): the checks of its word, then its lanes, then its traps. It waits while a queue
it needs is not ready; one that traps has consumed its element (R165), but for a word that traps by its encoding
(log entry 147). -/
def runVec (o : VecOp) (f : Group → Nat → LaneOut) (s : State) : Res :=
  withIssuer s fun g c =>
    match operandCause g o with
    | some k => wordTrap s g c k
    | none =>
      let act := activeMask g c o.ox
      if act = 0 then retire s g c
      else if queuesReady g o = false then waits s
      else if (o.scal.map fun n => tget g.sPoison n.toNat false).getD false then
        trapAt s (popQueues g o) c 0x70 (execMask g c) (o.dst.code 0x70) 0 []
      else
        let out := f g
        let bad := faultMask g o act out
        let g' := vecResult g o act (act &&& ~~~bad) out
        if bad = 0 then retire s g' c
        else
          let k := lowestCause (laneCause g o out) bad
          trapAt s g' c k bad (o.dst.code k) 0 []

/-! ## Operand forms -/

/-- The register lanes that a lane reads when it reads its own lane of each source. -/
def ownLanes (srcs : List (BitVec 7)) (runs : List (BitVec 7 × Nat)) (l : Nat) : List (BitVec 7 × Nat) :=
  (srcs ++ runs.flatMap fun r => runFields r.1 r.2).map fun f => (f, l)

/-- Operands that read only their own lane. -/
def plainOp (dst : Dst) (srcs : List (BitVec 7)) (runs : List (BitVec 7 × Nat)) (ox : Option Ox) (fp : Bool) : VecOp :=
  ⟨dst, srcs, runs, [], ox, none, fp, ownLanes srcs runs⟩

/-- V3 (R35). -/
def v3Op (f : V3) (ox : Option Ox) (fp : Bool) : VecOp := plainOp (.vec f.nw f.d 1) [f.a, f.b] [] ox fp

/-- V3 with the fourth operand C (R41). -/
def v4Op (f : V3) (ox : Ox) (fp : Bool) : VecOp := plainOp (.vec f.nw f.d 1) [f.a, f.b, ox.c] [] (some ox) fp

/-- V3 with one source. -/
def v2Op (f : V2) (ox : Option Ox) (fp : Bool) : VecOp := plainOp (.vec f.nw f.d 1) [f.a] [] ox fp

/-- A two-source integer operation in each lane (R79, R81). -/
def intV3 (f : V3) (ox : Option Ox) (op : Word → Word → Word) : State → Res :=
  runVec (v3Op f ox false) fun g l => .one (op (readField g f.a l) (readField g f.b l))

/-- A three-source integer operation in each lane (R80, R83). -/
def intV4 (f : V3) (ox : Ox) (op : Word → Word → Word → Word) : State → Res :=
  runVec (v4Op f ox false) fun g l => .one (op (readField g f.a l) (readField g f.b l) (readField g ox.c l))

/-- A one-source integer operation in each lane (R82). -/
def intV2 (f : V2) (ox : Option Ox) (op : Word → Word) : State → Res :=
  runVec (v2Op f ox false) fun g l => .one (op (readField g f.a l))

/-- The B operand of VS: a scalar's low word, or SB sign- or zero-extended (R35, R84). -/
def vsB (g : Group) (si : Bool) (sb : BitVec 6) (zeroExt : Bool) : Word :=
  if si then (if zeroExt then sb.zeroExtend 32 else sb.signExtend 32) else loWord (sReg g sb.toNat)

/-- VS (R35). -/
def vsOp (f : VS) (ox : Option Ox) : VecOp :=
  { plainOp (.vec f.nw f.d 1) [f.a] [] ox false with scal := if f.si then none else some f.sb }

/-- An integer operation with a scalar or immediate (R84). -/
def intVS (f : VS) (ox : Option Ox) (zeroExt : Bool) (op : Word → Word → Word) : State → Res :=
  runVec (vsOp f ox) fun g l => .one (op (readField g f.a l) (vsB g f.si f.sb zeroExt))

/-- An integer operation with a 32-bit immediate, which has no guard (R85). -/
def intVI (f : VI) (op : Word → Word → Word) : State → Res :=
  runVec (plainOp (.vec f.nw f.d 1) [f.a] [] none false) fun g l => .one (op (readField g f.a l) f.imm)

/-! ## Scalar instructions (R104, R105) -/

/-- A scalar instruction: it acts once for the group whatever EXEC holds; a poisoned source traps (R126). -/
def runScalar (srcs : List Nat) (d : Nat) (f : Group → DWord) (s : State) : Res :=
  withIssuer s fun g c =>
    if srcs.any fun n => tget g.sPoison n false then trapAt s g c 0x70 (execMask g c) 0xFF 0 []
    else retire s (setS g d (f g)) c

/-- A result of width 32 is zero-extended, one of width 64 kept (R36). -/
def narrow (w : Bool) (v : DWord) : DWord := if w then v else (loWord v).zeroExtend 64

/-- The B operand of S3: a scalar, or the immediate sign-extended (R36, R104). -/
def s3B (g : Group) (f : S3) : DWord := if f.si then f.k.signExtend 64 else sReg g f.k.toNat

/-- The shift count of S3: B[7:0], or the immediate read as unsigned (R104). -/
def s3Count (g : Group) (f : S3) : Nat := if f.si then f.k.toNat else (sReg g f.k.toNat).toNat % 256

/-- The scalars that S3 reads. -/
def s3Srcs (f : S3) : List Nat := if f.si then [f.a.toNat] else [f.a.toNat, f.k.toNat]

/-- An S3 operation given at both widths. -/
def scalarS3 (f : S3) (op32 : Word → Word → Word) (op64 : DWord → DWord → DWord) : State → Res :=
  runScalar (s3Srcs f) f.d.toNat fun g =>
    if f.w then op64 (sReg g f.a.toNat) (s3B g f)
    else (op32 (loWord (sReg g f.a.toNat)) (loWord (s3B g f))).zeroExtend 64

/-- An S3 shift given at both widths. -/
def scalarShift (f : S3) (op32 : Word → Nat → Word) (op64 : DWord → Nat → DWord) : State → Res :=
  runScalar (s3Srcs f) f.d.toNat fun g =>
    if f.w then op64 (sReg g f.a.toNat) (s3Count g f)
    else (op32 (loWord (sReg g f.a.toNat)) (s3Count g f)).zeroExtend 64

/-- A compare whose result, 1 or 0, is written as a 64-bit value (R104). -/
def scalarCmp (f : S3) (op32 : Word → Word → Bool) (op64 : DWord → DWord → Bool) : State → Res :=
  runScalar (s3Srcs f) f.d.toNat fun g =>
    if (if f.w then op64 (sReg g f.a.toNat) (s3B g f) else op32 (loWord (sReg g f.a.toNat)) (loWord (s3B g f)))
    then 1 else 0

/-- An SI operation: the immediate is sign-extended at width 64 (R36, R104). -/
def scalarSI (f : SI) (op32 : Word → Word → Word) (op64 : DWord → DWord → DWord) : State → Res :=
  runScalar [f.a.toNat] f.d.toNat fun g =>
    if f.w then op64 (sReg g f.a.toNat) (f.imm.signExtend 64)
    else (op32 (loWord (sReg g f.a.toNat)) f.imm).zeroExtend 64

end Sys2Proof.Machine
end

