-- ==== Sys2Proof/Machine/Batch.lean ====
section
/-!
DEFINITION. What a fetch of code finds (R28, R386, R387), fault batches (R279), and transfers of control with the checks
of their targets (R32).
-/

namespace Sys2Proof.Machine

/-! ## Reading at once -/

/-- A word as a core's own load finds it when its data comes at once: the bytes that the core holds, and what the home or
the RDC gives of the others. -/
def readNow (s : State) (core w : Nat) : Word × Bool :=
  let h := heldBytes s (.core core) w
  if h.2.1 = 0xF then (h.1, h.2.2)
  else
    let n := readAsEngine s w
    (mergeBytes h.2.1 h.1 n.1, h.2.2 || n.2)

/-- A word as a core's own access through a translation reads it; a discarded page reads zeros (R274). -/
def readLeaf (s : State) (core : Nat) (l : Leaf) (va : Nat) : Word × Bool :=
  if l.dsc then (0, false) else readNow s core (l.at va)

/-! ## Code -/

/-- What a fetch of a word of code finds: the word, a fault, or that translation or data is still to come. -/
inductive Fetch where
  | word (w : Word)
  | fault (cause : Nat)
  | wait (s : State)
  deriving DecidableEq

/-- Fetches the word of code at an address through the core's TLBs and L1 (R28, R386). -/
def fetchWord (s : State) (ctx core addr : Nat) : Fetch :=
  match xlat s ctx core addr .fetch with
  | .fail k => .fault k
  | .miss => .wait (askWalk s ctx core addr false)
  | .ok leaf =>
    let w := leaf.at addr
    match lostCause s (some core) w .fetch 0xF with
    | some k => .fault k
    | none => match l1Load s core w 0xF with
      | some (v, bad) => if bad then .fault 0x70 else .word v
      | none => .wait (askLine s core w)

/-! ## Fault batches (R279) -/

/-- Groups of a core that run ahead. -/
def aheadCount (s : State) (core : Nat) : Nat :=
  (s.groups.filter fun g => g.core == core && (g.batch.map fun b => b.ahead).getD false).length

/-- A page of a batch, with its span (R282). -/
def batchPage (s : State) (g : Group) (p : Nat × Nat) : BatchPage := ⟨p.1, p.2, spanOf s g.ctx (p.1 / 4096), none⟩

/-- Reports the pages of a batch (R279, R372). -/
def reportPages (s : State) (g : Group) (pages : List BatchPage) : State :=
  pages.foldl (fun s p => report s ⟨0x01, p.cause, g.ctx, g.core, p.page, some g.slot, 0, p.span, 0⟩) s

/-- The pages of some faulting addresses with their causes, each once and at most 32. -/
def distinctPages (faults : List (Nat × Nat)) : List (Nat × Nat) :=
  ((faults.map fun f => (f.1 / 4096 * 4096, f.2)).foldl
    (fun acc f => if acc.any fun p => p.1 == f.1 then acc else acc ++ [f]) []).take 32

/-- Begins a group's fault batch: in run-ahead when it may run ahead and fewer than 8 groups of its core do, else
reported at once (R279). The group itself stays as it stands, its own checkpoint. -/
def startBatch (s : State) (g : Group) (what : BatchOf) (faults : List (Nat × Nat)) (mayRun : Bool) : State :=
  let pages := (distinctPages faults).map (batchPage s g)
  let ahead := mayRun && decide (aheadCount s g.core < 8)
  let g := { g with batch := some ⟨what, pages, ahead, false, s.clock⟩ }
  let s := setGroup (dropFails s g.ctx g.core (pages.map fun p => p.page / 4096)) g
  if ahead then s else reportPages s g pages

/-- Forgets what a group's run-ahead has computed. -/
def dropAhead (s : State) (core slot : Nat) : State :=
  { s with ahead := s.ahead.filter fun a => !(a.core == core && a.slot == slot) }

/-- Forgets the failed walks of a core's accesses for a context: what a run-ahead has met is no outcome of a later access
(R281). -/
def dropCoreFails (s : State) (ctx core : Nat) : State :=
  { s with walkFails := s.walkFails.filter fun f => !(f.ctx == ctx && f.core == core) }

/-- The end of a group's run-ahead (R280): it rolls back to its checkpoint, its batch goes to system software, and the walks
that have failed for it are forgotten. -/
def endAhead (s : State) (g : Group) : State := match g.batch with
  | some b =>
    if b.ahead then
      reportPages (setGroup (dropAhead (dropCoreFails s g.ctx g.core) g.core g.slot) { g with batch := some { b with ahead := false } }) g b.pages
    else s
  | none => s

/-- Whether the page of an address has been given up in a group's released batch (R279, step 6). -/
def givenUp (g : Group) (addr : Nat) : Bool := match g.batch with
  | some b => b.released && b.pages.any fun p => p.page == addr / 4096 * 4096 && p.verdict == some false
  | none => false

/-! ## Holds -/

/-- Whether an acq, acqrel or inv.rgn of the group holds its later MEM, ENG and RAY instructions (R138, R141). -/
def acqHeld (s : State) (g : Group) : Bool := s.syncOps.any fun o => o.core == g.core && o.slot == g.slot && o.acq

/-! ## Transfers of control (R32) -/

/-- What the check of a transfer's target finds. -/
inductive Target where
  | ok
  | trap (cause : Nat)
  | batch
  | wait (s : State)

/-- The check of a target: its alignment, the fetch of its header, and its MARK (R32, R107). -/
def checkTarget (s : State) (g : Group) (target : Nat) : Target :=
  if target % 4 ≠ 0 then .trap 0x03
  else match fetchWord s g.ctx g.core target with
    | .wait s' => .wait s'
    | .fault k => if k = 0x20 ∧ givenUp g target = false then .batch else .trap k
    | .word w => if isHeader w then .ok else .trap 0x03

/-- A trap of a transfer (R32): every lane of EXEC, the target as its address. -/
def targetTrap (s : State) (g : Group) (c : Clause) (cause target : Nat) : Res :=
  trapAt s { g with batch := none } c cause (execMask g c) 0xFF target []

/-- A transfer of control: checks the target and, where it holds a header, does `k` (R32). -/
def transfer (s : State) (g : Group) (c : Clause) (target : Nat) (k : Group → Res) : Res :=
  match checkTarget s g target with
  | .ok => k { g with batch := none }
  | .trap cause => targetTrap s g c cause target
  | .batch => .next (startBatch s g (.target target) [(target, 0x20)] false)
  | .wait s' => .next s'

/-- Moves the slot to a target, which ends the clause. -/
def moveTo (s : State) (g : Group) (c : Clause) (target : Nat) : Res := .next (setGroup s (endClause s g c target))

/-- The target of a branch word (R39). -/
def branchTarget (c : Clause) (ofs : BitVec 20) : Nat := (((wordAddr c : Int) + 4 * ofs.toInt) % 2 ^ 64).toNat

end Sys2Proof.Machine
end

