-- ==== Sys2Proof/Machine/Control.lean ====
section
/-!
DEFINITION. Branches, calls and the forms of OP 0x43 (R106 to R108), divergence and the split stack (R109 to R112),
software traps, breakpoints and the return from a trap (R113 to R116, R390), and the register allocation (R117).
-/

namespace Sys2Proof.Machine

/-! ## The split stack (R112) -/

/-- A Fuse entry. -/
def fuseEntry (join : Nat) (outer : Option Nat) : SplitEntry :=
  ⟨BitVec.ofNat 64 (2 ^ 60 + join % 2 ^ 48), match outer with
    | some r => BitVec.ofNat 64 (2 ^ 63 + r % 2 ^ 48)
    | none => 0⟩

/-- A pending-address entry of a slot. -/
def pendAddrEntry (p : PcSlot) : SplitEntry :=
  ⟨if p.st = .parked then BitVec.ofNat 64 (3 * 2 ^ 60) else BitVec.ofNat 64 (2 * 2 ^ 60 + p.pc % 2 ^ 48),
    BitVec.ofNat 64 (2 ^ 63 + p.rpc.getD 0 % 2 ^ 48)⟩

/-- A pending-mask entry. -/
def pendMaskEntry (m : Mask) : SplitEntry := ⟨m.extractLsb' 0 64, m.extractLsb' 64 64⟩

/-- The kind of an entry: 1 Fuse, 2 pending and running, 3 pending and parked. -/
def SplitEntry.kind (e : SplitEntry) : Nat := bitsOf e.lo 60 4

/-- The outer RPC of a Fuse entry. -/
def SplitEntry.outer (e : SplitEntry) : Option Nat := if e.hi.getLsbD 63 then some (bitsOf e.hi 0 48) else none

/-- The spill access of entry `i`: its translation, or the fault (R112). DESIGN CHOICE, log entry 111: system software must
map the area NRM, and a page of another type is taken as a fault of cause 0x21. -/
def spillAt (s : State) (g : Group) (i : Nat) (acc : Acc) : Except Nat Leaf :=
  match xlatNow s g.ctx g.core (g.spillBase + 16 * i) acc with
  | .ok leaf => if leaf.mt = .nrm then .ok leaf else .error 0x21
  | .error k => .error k

/-- The group halts on a spill or refill that faults (R112). -/
def spillFault (s : State) (g : Group) (cause i : Nat) : State := haltAccess s g 0x06 cause (g.spillBase + 16 * i)

/-- Pushes an entry: the top so far goes to the spill area. -/
def pushSplit (s : State) (g : Group) (e : SplitEntry) : Except State (State × Group) :=
  match g.top with
  | none => .ok (s, { g with top := some e, depth := 1 })
  | some t =>
    match spillAt s g (g.depth - 1) .write with
    | .error k => .error (spillFault (fillNow s g.ctx g.core (g.spillBase + 16 * (g.depth - 1))) g k (g.depth - 1))
    | .ok leaf =>
      let s := fillNow s g.ctx g.core (g.spillBase + 16 * (g.depth - 1))
      let loc := leaf.at (g.spillBase + 16 * (g.depth - 1))
      let put (s : State) (o : Nat) (v : Word) : State := l1Store s g.core g.ctx (loc + o) 0xF v false
      .ok (put (put (put (put s 0 (loWord t.lo)) 4 (hiWord t.lo)) 8 (loWord t.hi)) 12 (hiWord t.hi),
        { g with top := some e, depth := g.depth + 1 })

/-- Pops the top entry: the one below comes back from the spill area. -/
def popSplit (s : State) (g : Group) : Except State (State × Group) :=
  if g.depth ≤ 1 then .ok (s, { g with top := none, depth := 0 })
  else
    match spillAt s g (g.depth - 2) .read with
    | .error k => .error (spillFault (fillNow s g.ctx g.core (g.spillBase + 16 * (g.depth - 2))) g k (g.depth - 2))
    | .ok leaf =>
      let w (o : Nat) : Word × Bool := readLeaf s g.core leaf (g.spillBase + 16 * (g.depth - 2) + o)
      if (w 0).2 || (w 4).2 || (w 8).2 || (w 12).2 then .error (spillFault s g 0x70 (g.depth - 2))
      else .ok (fillNow s g.ctx g.core (g.spillBase + 16 * (g.depth - 2)),
        { g with top := some ⟨joinWords (w 0).1 (w 4).1, joinWords (w 8).1 (w 12).1⟩, depth := g.depth - 1 })

/-- A code address as a program-counter slot takes it: both slots always hold 4-byte aligned addresses (R28). -/
def codeAddr (w : DWord) : Nat := bitsOf w 0 48 / 4 * 4

/-- A slot filled from a pending record. -/
def pendingSlot (addr mask : SplitEntry) (now : Nat) : PcSlot :=
  ⟨if addr.kind = 3 then .parked else .running, codeAddr addr.lo, mask.hi ++ mask.lo, some (bitsOf addr.hi 0 48), now⟩

/-- Pops a pending record into a slot (R111, rules 2 and 4). -/
def fillPending (s : State) (g : Group) (i : SlotId) (addr : SplitEntry) : Except State (State × Group) :=
  match popSplit s g with
  | .error s' => .error s'
  | .ok (s, g) => match g.top with
    | none => .ok (s, g)
    | some mask => match popSplit s g with
      | .error s' => .error s'
      | .ok (s, g) => .ok (s, setSlot g i (pendingSlot addr mask s.clock))

/-- Pops a Fuse entry and runs the lanes given in slot A from its join (R111, rules 1 and 3). -/
def fuse (s : State) (g : Group) (e : SplitEntry) (mask : Mask) : Except State (State × Group) :=
  match popSplit s g with
  | .error s' => .error s'
  | .ok (s, g) => .ok (s, { g with a := ⟨.running, codeAddr e.lo, mask, e.outer, s.clock⟩, b := emptySlot })

/-- The first rule of R111 that matches, if one does. -/
def reconvergeOnce (s : State) (g : Group) : Option (Except State (State × Group)) :=
  match g.top with
  | none => none
  | some e =>
    let join := bitsOf e.lo 0 48
    let pend := e.kind = 2 ∨ e.kind = 3
    match g.a.st, g.b.st with
    | .parked, .parked =>
      if e.kind = 1 ∧ g.a.rpc = some join ∧ g.b.rpc = some join then some (fuse s g e (g.a.mask ||| g.b.mask)) else none
    | .parked, .empty =>
      if pend then some (fillPending s g .b e)
      else if e.kind = 1 ∧ g.a.rpc = some join then some (fuse s g e g.a.mask) else none
    | .empty, .parked =>
      if pend then some (fillPending s g .a e)
      else if e.kind = 1 ∧ g.b.rpc = some join then some (fuse s g e g.b.mask) else none
    | .empty, .empty =>
      if pend then some (fillPending s g .a e) else if e.kind = 1 then some (popSplit s g) else none
    | _, _ => none

/-- The rules of R111 until none matches, at most `fuel` times; every rule pops an entry. -/
def reconverge : Nat → State → Group → Except State (State × Group)
  | 0, s, g => .ok (s, g)
  | fuel + 1, s, g => match reconvergeOnce s g with
    | none => .ok (s, g)
    | some (.error s') => .error s'
    | some (.ok (s, g)) => reconverge fuel s g

/-- Applies R111 to a group, whose split stack bounds the number of rules, and puts it in its place. -/
def settle (s : State) (g : Group) : State :=
  match reconverge (g.depth + 1) s g with
  | .ok (s, g) => setGroup s g
  | .error s => s

/-! ## Branches (R106, R107) -/

/-- The lanes of EXEC where the guard of a B word holds. -/
def guardLanes (g : Group) (c : Clause) (f : B) : Mask :=
  execMask g c &&& if f.pn then ~~~pReg g f.pg.toNat else pReg g f.pg.toNat

/-- Whether the guard of a B word holds in every lane of EXEC. -/
def guardAll (g : Group) (c : Clause) (f : B) : Bool := guardLanes g c f == execMask g c

/-- bra (R106). -/
def execBra (f : B) (s : State) : Res :=
  withIssuer s fun g c =>
    if guardAll g c f then
      transfer s g c (branchTarget c f.ofs) fun g => moveTo s g c (branchTarget c f.ofs)
    else retire s g c

/-- bra.any (R106); a guard of p0 without PN is always taken. -/
def execBraAny (f : B) (s : State) : Res :=
  withIssuer s fun g c =>
    if guardLanes g c f ≠ 0 ∨ (f.pg = 0 ∧ f.pn = false) then
      transfer s g c (branchTarget c f.ofs) fun g => moveTo s g c (branchTarget c f.ofs)
    else retire s g c

/-- call (R107): s63 receives the address of the header that follows. -/
def execCall (f : B) (s : State) : Res :=
  withIssuer s fun g c =>
    if guardAll g c f then
      transfer s g c (branchTarget c f.ofs) fun g =>
        moveTo s (setS g 63 (BitVec.ofNat 64 (nextHeader c))) c (branchTarget c f.ofs)
    else retire s g c

/-- A transfer through a scalar (R107): bits [63:48] are ignored; a poisoned scalar traps (R126). -/
def jumpScalar (n : Nat) (s : State) : Res :=
  withIssuer s fun g c =>
    if tget g.sPoison n false then trapAt s g c 0x70 (execMask g c) 0xFF 0 []
    else transfer s g c (bitsOf (sReg g n) 0 48) fun g => moveTo s g c (bitsOf (sReg g n) 0 48)

/-- ret (R107). -/
def execRet (s : State) : Res := jumpScalar 63 s

/-- brx (R107). -/
def execBrx (d : BitVec 6) (s : State) : Res := jumpScalar d.toNat s

/-! ## The forms without operands (R108) -/

/-- A group's slots and stack held aside are abandoned: exit in a handler ends the whole group (R116). -/
def endHandler (g : Group) : Group :=
  { g with a := emptySlot, b := emptySlot, top := none, depth := 0, aside := none, inHandler := false }

/-- exit (R108, R116): the slot becomes empty and R111 applies. -/
def execExit (s : State) : Res :=
  withIssuer s fun g c =>
    let g1 := endClause s g c (nextHeader c)
    if g.inHandler then .next (setGroup s { endHandler g1 with byEpend := false })
    else .next (settle s (setSlot { g1 with byEpend := false } c.pcs emptySlot))

/-- yield (R108): after its clause the group ranks after the others of its issue slot. -/
def execYield (s : State) : Res := withIssuer s fun g c => retire s { g with yielded := true } c

/-- nop (R108). -/
def execNop (s : State) : Res := withIssuer s fun g c => retire s g c

/-! ## split (R110) -/

/-- The pushes of a split: the other slot's pending record when it is not empty, then the Fuse entry. -/
def pushAll (s : State) (g : Group) : List SplitEntry → Except State (State × Group)
  | [] => .ok (s, g)
  | e :: es => match pushSplit s g e with
    | .ok (s, g) => pushAll s g es
    | .error s => .error s

/-- The entries that a split pushes (R110). -/
def splitEntries (x y : PcSlot) (join : Nat) : List SplitEntry :=
  (if y.st = .empty then [] else [pendMaskEntry y.mask, pendAddrEntry y]) ++ [fuseEntry join x.rpc]

/-- split (R110). -/
def execSplit (f : B) (join : BitVec 20) (s : State) : Res :=
  withIssuer s fun g c =>
    if g.inHandler then wordTrap s g c 0x01
    else
      let target := branchTarget c f.ofs
      let x := pcSlot g c.pcs
      let y := pcSlot g c.pcs.other
      let taken := guardLanes g c f
      let rest := execMask g c &&& ~~~taken
      let entries := splitEntries x y (branchTarget c join)
      transfer s g c target fun g =>
        if rest = 0 then moveTo s g c target
        else if taken = 0 then moveTo s g c (nextHeader c)
        else if g.depth + entries.length > g.splitMax + 1 then trapAt s g c 0x48 (execMask g c) 0xFF 0 []
        else match pushAll s g entries with
          | .error s' => .next s'
          | .ok (s', g') =>
            let j := some (branchTarget c join)
            .next (setGroup s' (setSlot
              (setSlot (endClause s' g' c (nextHeader c)) c.pcs ⟨.running, nextHeader c, rest, j, s'.clock⟩)
              c.pcs.other ⟨.running, target, taken, j, s'.clock⟩))

/-! ## trap and brk (R114, R379) -/

/-- A cause raised for every lane of EXEC with the code as its address. -/
def codeTrap (s : State) (g : Group) (c : Clause) (cause code : Nat) : Res :=
  trapAt s g c cause (execMask g c) 0xFF code []

/-- trap (R114). -/
def execTrap (code : BitVec 8) (s : State) : Res := withIssuer s fun g c => codeTrap s g c 0x61 code.toNat

/-- brk (R114, R379): with debugging enabled it completes and its group halts at the next word. -/
def execBrk (code : BitVec 8) (s : State) : Res :=
  withIssuer s fun g c =>
    if dbgOn s g.ctx then
      .next (report (setGroup s (suspend { advance s g c with halted := true }))
        ⟨0x10, 0x60, g.ctx, g.core, 0, some g.slot, 0, 0, BitVec.ofNat 32 code.toNat⟩)
    else codeTrap s g c 0x60 code.toNat

/-! ## Return from a trap (R25, R115, R390) -/

/-- The words of a group's trap frame as TRET reads them through a leaf, with their poison marks. -/
def readFrame (s : State) (g : Group) (leaf : Leaf) : List (Word × Bool) :=
  (List.range 1024).map fun i => readLeaf s g.core leaf (frameAddr s g + 4 * i)

/-- Word `i` of a frame. -/
def frW (fr : List (Word × Bool)) (i : Nat) : Word := (fr.getD i (0, false)).1

/-- The 64-bit field at word `i` of a frame. -/
def frD (fr : List (Word × Bool)) (i : Nat) : DWord := joinWords (frW fr i) (frW fr (i + 1))

/-- The mask at word `i` of a frame. -/
def frMask (fr : List (Word × Bool)) (i : Nat) : Mask := maskOfWords fun j => frW fr (i + j)

/-- Whether a word outside the scalars is poisoned (R126). -/
def framePoisoned (fr : List (Word × Bool)) : Bool := fr.zipIdx.any fun p => p.1.2 && !(64 ≤ p.2 && p.2 < 192)

/-- The registers that TRET restores from the frame (R25). -/
def restoreRegs (g : Group) (fr : List (Word × Bool)) : Group :=
  { g with
    s := (List.range 64).map fun n => (n, frD fr (64 + 2 * n))
    sPoison := (List.range 64).filterMap fun n =>
      if (fr.getD (64 + 2 * n) (0, false)).2 || (fr.getD (65 + 2 * n) (0, false)).2 then some (n, true) else none
    p := (List.range 7).map fun n => (n + 1, frMask fr (196 + 4 * n))
    latches := (List.range 4).map fun n => perLane fun l => frW fr (512 + 128 * n + l)
    latchValid := (frW fr 16).extractLsb' 24 4
    fpctl := frW fr 18 &&& 0x1FF }

/-- Where the faulting slot resumes: at a header, or in the middle of a clause (R115, R390). -/
inductive ResumeAt where
  | header (addr : Nat)
  | word (r : Resume)

/-- The place that the frame names (R115, R390): the header's own N serves after a trap of the whole clause. DESIGN CHOICE,
log entry 112: a word index that the handler wrote as 0 counts as the first word, one beyond the clause leads to the header
that follows it. -/
def resumePlace (g : Group) (a : Aside) (fr : List (Word × Bool)) (skip : Bool) : ResumeAt :=
  let pc := (frD fr 0).toNat
  let idx := bitsOf (frD fr 16) 16 8
  let hdr := frW fr 17
  if pc ≠ g.trapPc then .header (codeAddr (frD fr 0))
  else if a.atHeader then .header (if skip then pc + 4 * (1 + hdrN hdr) else pc)
  else if hdrN hdr < idx ∨ (skip ∧ hdrN hdr = idx) then .header (codeAddr (BitVec.ofNat 64 (pc - 4 * idx + 4 * (1 + hdrN hdr))))
  else .word ⟨a.who, pc - 4 * idx, hdr, if skip then idx else idx - 1, skip, []⟩

/-- The headers whose MARK TRET checks: the values that the frame gives in place of the recorded ones (R390). -/
def tretTargets (g : Group) (a : Aside) (fr : List (Word × Bool)) : List Nat :=
  let other := match a.who with
    | .a => a.b
    | .b => a.a
  (if (frD fr 0).toNat = g.trapPc then [] else [codeAddr (frD fr 0)]) ++
  (if other.st = .running then [codeAddr (frD fr 2)] else [])

/-- The slots after TRET (R390). A return to a clause header stands at a clause boundary, where no latch is valid (R16). -/
def restoreSlots (g : Group) (a : Aside) (fr : List (Word × Bool)) (skip : Bool) (now : Nat) : Group :=
  let me := match a.who with
    | .a => a.a
    | .b => a.b
  let other := match a.who with
    | .a => a.b
    | .b => a.a
  let other' := if other.st = .running then
      { other with pc := codeAddr (frD fr 2), mask := frMask fr 8, since := now } else other
  let at_ := resumePlace g a fr skip
  let pc := match at_ with
    | .header h => h
    | .word r => r.addr
  let g := setSlot (setSlot g a.who { me with pc := pc, mask := frMask fr 4, since := now }) a.who.other other'
  let g := match at_ with
    | .header _ => dropLatches g
    | .word _ => g
  { g with
    top := a.top
    depth := a.depth
    aside := none
    inHandler := false
    clause := none
    resume := match at_ with
      | .header _ => none
      | .word r => some r }

/-- Stores and atoms that the handler has outstanding, for which TRET waits (R370). -/
def handlerBusy (g : Group) (a : Aside) : Bool := g.ops.any fun o =>
  decide (a.ops ≤ o.id) && match o.kind with
    | .store _ => true
    | .atom _ _ => true
    | _ => false

/-- The checks of the headers that TRET leads to: a fault of such a fetch is left to the resumed clause (R32). -/
def checkTargets (s : State) (g : Group) : List Nat → Target
  | [] => .ok
  | t :: ts => match fetchWord s g.ctx g.core t with
    | .wait s' => .wait s'
    | .fault _ => checkTargets s g ts
    | .word w => if isHeader w then checkTargets s g ts else .trap t

/-- tret.skip and tret.retry (R115, R370, R390). The frame's page is walked first where no TLB holds it (R276, R277). -/
def tret (skip : Bool) (s : State) : Res :=
  withIssuer s fun g c =>
    match g.aside with
    | none => wordTrap s g c 0x01
    | some a =>
      if handlerBusy g a then waits s
      else match xlat s g.ctx g.core (frameAddr s g) .read with
        | .miss => .next (askWalk s g.ctx g.core (frameAddr s g) false)
        | .fail k => .next (haltAccess s g 0x03 k (frameAddr s g))
        | .ok leaf =>
          let fr := readFrame s g leaf
          if framePoisoned fr then .next (haltAccess s g 0x03 0x70 (frameAddr s g))
          else match checkTargets s g (tretTargets g a fr) with
            | .wait s' => .next s'
            | .trap t => targetTrap s g c 0x03 t
            | _ =>
              let g1 := endClause s g c (nextHeader c)
              .next (settle s (restoreSlots (restoreRegs g1 fr) a fr skip s.clock))

/-- tret.skip (R115). -/
def execTretSkip (s : State) : Res := tret true s

/-- tret.retry (R115). -/
def execTretRetry (s : State) : Res := tret false s

/-! ## Register allocation (R117) -/

/-- A group's allocation becomes `n`; registers at and above it are cleared (R10, R117). -/
def setAlloc (g : Group) (n : Nat) : Group :=
  { g with regAlloc := n, v := g.v.filter fun e => decide (e.1 < n), vPoison := g.vPoison.filter fun e => decide (e.1 < n) }

/-- Whether an outstanding load has a destination at or above a register (R117). -/
def loadAbove (g : Group) (n : Nat) : Bool := g.ops.any fun o => match o.kind with
  | .load bytes _ => decide (n < o.dst + ceilDiv bytes 4)
  | .atom _ bytes => decide (n < o.dst + ceilDiv bytes 4)
  | _ => false

/-- reggrow (R117): a larger allocation waits for its grant. In mid-clause the clause gives its issue slot up meanwhile, so
that the wait blocks no other group (R269); DEDUCED, log entry 113. -/
def execReggrow (code : BitVec 8) (s : State) : Res :=
  withIssuer s fun g c =>
    if code.toNat ≤ g.regAlloc then retire s g c
    else .next (setGroup s (suspend { advance s g c with grow := some (code.toNat, s.clock) }))

/-- regshrink (R117): it takes effect once no load targets the registers given up; a window there traps
(R165), as does giving up a register of an episode's payload (R183). It waits with its issue slot held (R33). -/
def execRegshrink (code : BitVec 8) (s : State) : Res :=
  withIssuer s fun g c =>
    if (g.queues.any fun e => decide (code.toNat ≤ e.2.window)) || (isEpisode g && decide (code.toNat < 16)) then
      wordTrap s g c 0x01
    else if g.regAlloc ≤ code.toNat then retire s g c
    else if loadAbove g code.toNat then .next (setGroup s { advance s g c with shrink := some code.toNat })
    else retire s (setAlloc g code.toNat) c

end Sys2Proof.Machine
end

