-- ==== Sys2Proof/Machine/IntAlu.lean ====
section
/-!
DEFINITION. Integer arithmetic in lanes (R79, R80), with scalars and immediates (R84, R85).
-/

namespace Sys2Proof.Machine

/-! ## Operations on words -/

def addW (a b : Word) : Word := a + b
def subW (a b : Word) : Word := a - b
def mulW (a b : Word) : Word := a * b
def madW (a b c : Word) : Word := a * b + c

/-- An integer held within two limits, as a word. -/
def clampW (lo hi n : Int) : Word := BitVec.ofInt 32 (max lo (min hi n))

def addsI (a b : Word) : Word := clampW (-2 ^ 31) (2 ^ 31 - 1) (a.toInt + b.toInt)
def subsI (a b : Word) : Word := clampW (-2 ^ 31) (2 ^ 31 - 1) (a.toInt - b.toInt)
def addsN (a b : Word) : Word := clampW 0 (2 ^ 32 - 1) (a.toNat + b.toNat)
def subsN (a b : Word) : Word := clampW 0 (2 ^ 32 - 1) (a.toNat - b.toNat : Int)
def minI (a b : Word) : Word := if a.slt b then a else b
def maxI (a b : Word) : Word := if a.slt b then b else a
def minN (a b : Word) : Word := if a.ult b then a else b
def maxN (a b : Word) : Word := if a.ult b then b else a
def absdI (a b : Word) : Word := BitVec.ofNat 32 (a.toInt - b.toInt).natAbs
def absdN (a b : Word) : Word := BitVec.ofNat 32 (a.toNat - b.toNat : Int).natAbs
def mulhiI (a b : Word) : Word := BitVec.ofInt 32 (a.toInt * b.toInt / 2 ^ 32)
def mulhiN (a b : Word) : Word := BitVec.ofNat 32 (a.toNat * b.toNat / 2 ^ 32)

/-- Element `i` of `k` bits of a word. -/
def elemOf (w : Word) (k i : Nat) : BitVec k := w.extractLsb' (k * i) k

def dp4I (a b c : Word) : Word :=
  c + BitVec.ofInt 32 (((List.range 4).map fun i => (elemOf a 8 i).toInt * (elemOf b 8 i).toInt).sum)
def dp4N (a b c : Word) : Word :=
  c + BitVec.ofNat 32 (((List.range 4).map fun i => (elemOf a 8 i).toNat * (elemOf b 8 i).toNat).sum)
def dp2I (a b c : Word) : Word :=
  c + BitVec.ofInt 32 (((List.range 2).map fun i => (elemOf a 16 i).toInt * (elemOf b 16 i).toInt).sum)

/-! ## Instructions -/

/-- vadd.i32 (R79). -/
def execVaddI32 (f : V3) (ox : Option Ox) (s : State) : Res := intV3 f ox addW s

/-- vsub.i32 (R79). -/
def execVsubI32 (f : V3) (ox : Option Ox) (s : State) : Res := intV3 f ox subW s

/-- vadds.i32 (R79). -/
def execVaddsI32 (f : V3) (ox : Option Ox) (s : State) : Res := intV3 f ox addsI s

/-- vsubs.i32 (R79). -/
def execVsubsI32 (f : V3) (ox : Option Ox) (s : State) : Res := intV3 f ox subsI s

/-- vadds.n32 (R79). -/
def execVaddsN32 (f : V3) (ox : Option Ox) (s : State) : Res := intV3 f ox addsN s

/-- vsubs.n32 (R79). -/
def execVsubsN32 (f : V3) (ox : Option Ox) (s : State) : Res := intV3 f ox subsN s

/-- vmin.i32 (R79). -/
def execVminI32 (f : V3) (ox : Option Ox) (s : State) : Res := intV3 f ox minI s

/-- vmax.i32 (R79). -/
def execVmaxI32 (f : V3) (ox : Option Ox) (s : State) : Res := intV3 f ox maxI s

/-- vmin.n32 (R79). -/
def execVminN32 (f : V3) (ox : Option Ox) (s : State) : Res := intV3 f ox minN s

/-- vmax.n32 (R79). -/
def execVmaxN32 (f : V3) (ox : Option Ox) (s : State) : Res := intV3 f ox maxN s

/-- vabsd.i32 (R79). -/
def execVabsdI32 (f : V3) (ox : Option Ox) (s : State) : Res := intV3 f ox absdI s

/-- vabsd.n32 (R79). -/
def execVabsdN32 (f : V3) (ox : Option Ox) (s : State) : Res := intV3 f ox absdN s

/-- vmul.i32 (R79). -/
def execVmulI32 (f : V3) (ox : Option Ox) (s : State) : Res := intV3 f ox mulW s

/-- vmulhi.i32 (R79). -/
def execVmulhiI32 (f : V3) (ox : Option Ox) (s : State) : Res := intV3 f ox mulhiI s

/-- vmulhi.n32 (R79). -/
def execVmulhiN32 (f : V3) (ox : Option Ox) (s : State) : Res := intV3 f ox mulhiN s

/-- vmad.i32 (R80). -/
def execVmadI32 (f : V3) (ox : Ox) (s : State) : Res := intV4 f ox madW s

/-- vdp4.i8 (R80). -/
def execVdp4I8 (f : V3) (ox : Ox) (s : State) : Res := intV4 f ox dp4I s

/-- vdp4.n8 (R80). -/
def execVdp4N8 (f : V3) (ox : Ox) (s : State) : Res := intV4 f ox dp4N s

/-- vdp2.i16 (R80). -/
def execVdp2I16 (f : V3) (ox : Ox) (s : State) : Res := intV4 f ox dp2I s

/-- vadd.i32 with a scalar or immediate (R84). -/
def execVaddI32Vs (f : VS) (ox : Option Ox) (s : State) : Res := intVS f ox false addW s

/-- vsub.i32 with a scalar or immediate (R84). -/
def execVsubI32Vs (f : VS) (ox : Option Ox) (s : State) : Res := intVS f ox false subW s

/-- vmul.i32 with a scalar or immediate (R84). -/
def execVmulI32Vs (f : VS) (ox : Option Ox) (s : State) : Res := intVS f ox false mulW s

/-- vadd.i32 with a 32-bit immediate (R85). -/
def execVaddI32Vi (f : VI) (s : State) : Res := intVI f addW s

/-- vmul.i32 with a 32-bit immediate (R85). -/
def execVmulI32Vi (f : VI) (s : State) : Res := intVI f mulW s

end Sys2Proof.Machine
end

