-- ==== Sys2Proof/Machine/Pred.lean ====
section
/-!
DEFINITION. Compares, predicate logic and votes, and the select (R86 to R88).
-/

namespace Sys2Proof.Machine

/-- The conditions of an ordered comparison, by the two truths "less" and "equal": eq, ne, lt, le, gt, ge (R37). -/
def condHolds (cond : Nat) (lt eq : Bool) : Bool := match cond with
  | 0 => eq
  | 1 => !eq
  | 2 => lt
  | 3 => lt || eq
  | 4 => !(lt || eq)
  | _ => !lt

/-- P.c (R37). -/
def cmpOp (f : PC) (ox : Option Ox) (fp : Bool) : VecOp := plainOp (.pred f.pd) [f.a, f.b] [] ox fp

/-- cmp.i32 (R86). -/
def execCmpI32 (f : PC) (ox : Option Ox) (s : State) : Res :=
  runVec (cmpOp f ox false) (fun g l => .bit (condHolds f.cond.toNat
    ((readField g f.a l).slt (readField g f.b l)) (readField g f.a l == readField g f.b l))) s

/-- cmp.n32 (R86). -/
def execCmpN32 (f : PC) (ox : Option Ox) (s : State) : Res :=
  runVec (cmpOp f ox false) (fun g l => .bit (condHolds f.cond.toNat
    ((readField g f.a l).ult (readField g f.b l)) (readField g f.a l == readField g f.b l))) s

/-- Whether a < b and a = b, for values that are not NaN (R86): −0 equals +0. -/
def fpOrder (a b : Fp) : Bool × Bool :=
  match fpAdd .ne a (fpNeg b) with
  | .fin n m _ => (n && m ≠ 0, m == 0)
  | .inf n => (n, false)
  | .nan => (false, true)

/-- The truth of an FP32 condition and its flag (R86): NaN makes lt, le, gt and ge false with NV. -/
def fpCond (cond : Nat) (a b : Fp) : Bool × Flags :=
  if a.isNan || b.isNan then (cond == 1 || cond == 7, if 2 ≤ cond ∧ cond ≤ 5 then flNV else 0)
  else if cond = 6 then (true, 0)
  else if cond = 7 then (false, 0)
  else (condHolds cond (fpOrder a b).1 (fpOrder a b).2, 0)

/-- cmp.f32 (R86). -/
def execCmpF32 (f : PC) (ox : Option Ox) (s : State) : Res :=
  runVec (cmpOp f ox true) (fun g l =>
    let ftz := (rndEnv g.fpctl).ftz
    let r := fpCond f.cond.toNat (fpOperand fp32 ftz (readField g f.a l).toNat) (fpOperand fp32 ftz (readField g f.b l).toNat)
    { LaneOut.bit r.1 with fl := r.2 }) s

/-- A predicate operand of P.l (R87). -/
def predArg (g : Group) (p : BitVec 3) (neg : Bool) : Mask := if neg then ~~~pReg g p.toNat else pReg g p.toNat

/-- Predicate logic (R87): writes the bits of the active lanes. -/
def runPred (pd : BitVec 3) (ox : Option Ox) (f : Group → Mask → Mask) (s : State) : Res :=
  withIssuer s fun g c =>
    let act := activeMask g c ox
    retire s (setP g pd.toNat (mergeMask act (f g act) (pReg g pd.toNat))) c

/-- A P.l function of two predicates. -/
def predLogic (f : PL) (ox : Option Ox) (op : Mask → Mask → Mask) : State → Res :=
  runPred f.pd ox fun g _ => op (predArg g f.pa f.na) (predArg g f.pb f.nb)

/-- pand (R87). -/
def execPand (f : PL) (ox : Option Ox) (s : State) : Res := predLogic f ox (· &&& ·) s

/-- por (R87). -/
def execPor (f : PL) (ox : Option Ox) (s : State) : Res := predLogic f ox (· ||| ·) s

/-- pxor (R87). -/
def execPxor (f : PL) (ox : Option Ox) (s : State) : Res := predLogic f ox (· ^^^ ·) s

/-- pandn (R87). -/
def execPandn (f : PL) (ox : Option Ox) (s : State) : Res := predLogic f ox (fun a b => a &&& ~~~b) s

/-- pmov (R87). -/
def execPmov (f : P1) (ox : Option Ox) (s : State) : Res := runPred f.pd ox (fun g _ => predArg g f.pa f.na) s

/-- One bit in every lane. -/
def spread (b : Bool) : Mask := if b then BitVec.allOnes 128 else 0

/-- vote.any (R87). -/
def execVoteAny (f : P1) (ox : Option Ox) (s : State) : Res :=
  runPred f.pd ox (fun g act => spread (act &&& predArg g f.pa f.na ≠ 0)) s

/-- vote.all (R87). -/
def execVoteAll (f : P1) (ox : Option Ox) (s : State) : Res :=
  runPred f.pd ox (fun g act => spread (act &&& ~~~predArg g f.pa f.na = 0)) s

/-- vote.uni (R87). -/
def execVoteUni (f : P1) (ox : Option Ox) (s : State) : Res :=
  runPred f.pd ox (fun g act =>
    spread (act &&& predArg g f.pa f.na = 0 || act &&& ~~~predArg g f.pa f.na = 0)) s

/-- vsel.b32 (R88). -/
def execVselB32 (sel : BitVec 3) (f : V3) (ox : Option Ox) (s : State) : Res :=
  runVec (v3Op f ox false) (fun g l =>
    .one (if (pReg g sel.toNat).getLsbD l then readField g f.a l else readField g f.b l)) s

end Sys2Proof.Machine
end

