-- ==== Sys2Proof/Machine/FpAlu.lean ====
section
/-!
DEFINITION. Floating-point arithmetic in lanes: FP32 (R85, R92, R93), packed FP16 and BF16 (R94, R95), rounding to
integral values and classification (R96).
-/

namespace Sys2Proof.Machine

/-! ## Results -/

/-- NaN with NV. -/
def invalid (f : FpFmt) : FRes := ⟨nanCode f, flNV⟩

/-- A + B (R92): infinities of opposite sign raise NV. -/
def addRes (f : FpFmt) (env : RndEnv) (a b : Fp) : FRes :=
  if addInvalid a b then invalid f else fpDeliver f env.rm env.ftz (fpAdd env.rm a b)

/-- A × B (R92): zero times infinity raises NV. -/
def mulRes (f : FpFmt) (env : RndEnv) (a b : Fp) : FRes :=
  if mulInvalid a b then invalid f else fpDeliver f env.rm env.ftz (fpMul a b)

/-- A × B + C with the product negated when `neg`, rounded once (R93): zero times infinity raises NV even beside a NaN. -/
def fmaRes (f : FpFmt) (env : RndEnv) (neg : Bool) (a b c : Fp) : FRes :=
  if mulInvalid a b then invalid f
  else addRes f env (if neg then fpNeg (fpMul a b) else fpMul a b) c

/-- A code as an operand of fmin and fmax: a subnormal is zero of its sign under FTZ (R92). -/
def minMaxBits (f : FpFmt) (ftz : Bool) (bits : Nat) : Nat :=
  if ftz && isSub f bits then withSign f (negOf f bits) 0 else bits

/-- The place of a code that is not NaN in the order of values, −0 below +0 (R92). -/
def orderKey (f : FpFmt) (bits : Nat) : Int := if negOf f bits then -(magOf f bits : Int) - 1 else magOf f bits

/-- fmin and fmax on codes (R92): a single NaN gives the other operand, two give the canonical NaN. -/
def minMaxRes (f : FpFmt) (env : RndEnv) (wantMax : Bool) (a b : Nat) : Nat :=
  let x := minMaxBits f env.ftz a
  let y := minMaxBits f env.ftz b
  if (fpRead f a).isNan then (if (fpRead f b).isNan then nanCode f else y)
  else if (fpRead f b).isNan then x
  else if wantMax then (if orderKey f x < orderKey f y then y else x)
  else if orderKey f x < orderKey f y then x else y

/-! ## Frames of the forms -/

/-- An operand read as FP32 under FTZ. -/
def fp32In (env : RndEnv) (w : Word) : Fp := fpOperand fp32 env.ftz w.toNat

/-- A two-source FP32 operation on values. -/
def fpV3 (f : V3) (ox : Option Ox) (op : RndEnv → Fp → Fp → FRes) : State → Res :=
  runVec (v3Op f ox true) fun g l =>
    let env := rndEnv g.fpctl
    .fp (op env (fp32In env (readField g f.a l)) (fp32In env (readField g f.b l)))

/-- A three-source FP32 operation on values. -/
def fpV4 (f : V3) (ox : Ox) (op : RndEnv → Fp → Fp → Fp → FRes) : State → Res :=
  runVec (v4Op f ox true) fun g l =>
    let env := rndEnv g.fpctl
    .fp (op env (fp32In env (readField g f.a l)) (fp32In env (readField g f.b l)) (fp32In env (readField g ox.c l)))

/-- A one-source FP32 operation on values. -/
def fpV2 (f : V2) (ox : Option Ox) (op : RndEnv → Fp → FRes) : State → Res :=
  runVec (v2Op f ox true) fun g l =>
    let env := rndEnv g.fpctl
    .fp (op env (fp32In env (readField g f.a l)))

/-- An operation on codes, which raises no flag. -/
def codeV3 (f : V3) (ox : Option Ox) (op : RndEnv → Word → Word → Word) : State → Res :=
  runVec (v3Op f ox false) fun g l => .one (op (rndEnv g.fpctl) (readField g f.a l) (readField g f.b l))

/-- A one-source operation on codes, which raises no flag. -/
def codeV2 (f : V2) (ox : Option Ox) (op : RndEnv → Word → Word) : State → Res :=
  runVec (v2Op f ox false) fun g l => .one (op (rndEnv g.fpctl) (readField g f.a l))

/-- FP32 with a 32-bit immediate, which has no guard (R85). -/
def fpVI (f : VI) (op : RndEnv → Fp → Fp → FRes) : State → Res :=
  runVec (plainOp (.vec f.nw f.d 1) [f.a] [] none true) fun g l =>
    let env := rndEnv g.fpctl
    .fp (op env (fp32In env (readField g f.a l)) (fp32In env f.imm))

/-- The VS form of opcode 0x1D: the B operand is a scalar's low word (R85). -/
def vxOp (f : VX) (ox : Option Ox) (fp : Bool) : VecOp :=
  { plainOp (.vec f.nw f.d 1) [f.a] [] ox fp with scal := some f.sb }

/-- FP32 with a scalar (R85). -/
def fpVX (f : VX) (ox : Option Ox) (op : RndEnv → Fp → Fp → FRes) : State → Res :=
  runVec (vxOp f ox true) fun g l =>
    let env := rndEnv g.fpctl
    .fp (op env (fp32In env (readField g f.a l)) (fp32In env (loWord (sReg g f.sb.toNat))))

/-- As `fpVX` on codes, raising no flag. -/
def codeVX (f : VX) (ox : Option Ox) (op : RndEnv → Word → Word → Word) : State → Res :=
  runVec (vxOp f ox false) fun g l => .one (op (rndEnv g.fpctl) (readField g f.a l) (loWord (sReg g f.sb.toNat)))

/-- Half `i` of a word as a number. -/
def halfOf (w : Word) (i : Nat) : Nat := (w.extractLsb' (16 * i) 16).toNat

/-- Two 16-bit results as one lane's, with the flags of both (R94). -/
def packHalves (r : Nat → FRes) : FRes := ⟨(r 0).bits + (r 1).bits * 65536, (r 0).fl ||| (r 1).fl⟩

/-- A two-source operation on halves (R94). -/
def halfV3 (fmt : FpFmt) (f : V3) (ox : Option Ox) (op : RndEnv → Fp → Fp → FRes) : State → Res :=
  runVec (v3Op f ox true) fun g l =>
    let env := rndEnv g.fpctl
    .fp (packHalves fun i => op env (fpOperand fmt env.ftz (halfOf (readField g f.a l) i))
      (fpOperand fmt env.ftz (halfOf (readField g f.b l) i)))

/-- hmin and hmax (R94). -/
def halfMinMax (fmt : FpFmt) (wantMax : Bool) (env : RndEnv) (a b : Word) : Word :=
  let r (i : Nat) := minMaxRes fmt env wantMax (halfOf a i) (halfOf b i)
  BitVec.ofNat 32 (r 0 + r 1 * 65536)

/-- hfma (R95). -/
def halfFma (fmt : FpFmt) (f : V3) (ox : Ox) : State → Res :=
  runVec (v4Op f ox true) fun g l =>
    let env := rndEnv g.fpctl
    let x (w : Word) (i : Nat) := fpOperand fmt env.ftz (halfOf w i)
    .fp (packHalves fun i => fmaRes fmt env false (x (readField g f.a l) i) (x (readField g f.b l) i)
      (x (readField g ox.c l) i))

/-- The dot product of two pairs of halves plus C, exact and rounded once into FP32; the two invalid cases raise NV also beside
a NaN (R95). -/
def dot2Res (env : RndEnv) (a0 b0 a1 b1 c : Fp) : FRes :=
  let p := fpMul a0 b0
  let q := fpMul a1 b1
  if mulInvalid a0 b0 || mulInvalid a1 b1 || addInvalid p q || addInvalid p c || addInvalid q c then invalid fp32
  else if p.isNan || q.isNan || c.isNan then ⟨nanCode fp32, 0⟩
  else fpDeliver fp32 env.rm env.ftz (sum3 env.rm p q c)
where
  /-- The exact sum of three terms; an exact zero takes −0 only when every term is −0 or the mode is RD. -/
  sum3 (rm : Rm) (p q c : Fp) : Fp :=
    if zeroLike p && zeroLike q && zeroLike c then
      if isNegZ p && isNegZ q && isNegZ c then .fin true 0 0
      else if !isNegZ p && !isNegZ q && !isNegZ c then .fin false 0 0 else .fin (rm == .dn) 0 0
    else
      match fpAdd rm (fpAdd rm p q) c with
      | .fin _ 0 _ => .fin (rm == .dn) 0 0
      | r => r
  zeroLike : Fp → Bool
    | .fin _ 0 _ => true
    | _ => false
  isNegZ : Fp → Bool
    | .fin n 0 _ => n
    | _ => false

/-- hdot2 (R95). -/
def halfDot (fmt : FpFmt) (f : V3) (ox : Ox) : State → Res :=
  runVec (v4Op f ox true) fun g l =>
    let env := rndEnv g.fpctl
    let x (w : Word) (i : Nat) := fpOperand fmt env.ftz (halfOf w i)
    let a := readField g f.a l
    let b := readField g f.b l
    .fp (dot2Res env (x a 0) (x b 0) (x a 1) (x b 1) (fp32In env (readField g ox.c l)))

/-! ## Rounding to integral values (R96) -/

/-- A rounded to an integral value, the sign of A kept; no flag. -/
def integralBits (rm : RndEnv → Rm) (env : RndEnv) (w : Word) : Word :=
  match fp32In env w with
  | .nan => BitVec.ofNat 32 (nanCode fp32)
  | .inf _ => w
  | .fin neg m e =>
    match (toInteger (rm env) neg m e).1.natAbs with
    | 0 => BitVec.ofNat 32 (withSign fp32 neg 0)
    | n => BitVec.ofNat 32 (fpRound fp32 .rz false neg n 0 false).bits

/-- ffract.f32. -/
def fractRes (env : RndEnv) (x : Fp) : FRes :=
  match x with
  | .nan => ⟨nanCode fp32, 0⟩
  | .inf _ => invalid fp32
  | .fin neg m e =>
    match fpAdd .ne x (fpOfInt (-(toInteger .dn neg m e).1)) with
    | .fin _ 0 _ => ⟨0, 0⟩
    | d =>
      let r := fpDeliver fp32 env.rm env.ftz d
      if r.bits = 0x3F800000 then ⟨0x3F7FFFFF, flNX⟩ else r

/-- The class mask of fclass.f32. -/
def classMask (w : Word) : Word :=
  let neg := w.getLsbD 31
  let bit := match fpRead fp32 w.toNat with
    | .nan => 8
    | .inf _ => if neg then 0 else 7
    | .fin _ m _ =>
      if m = 0 then (if neg then 3 else 4)
      else if isSub fp32 w.toNat then (if neg then 2 else 5)
      else if neg then 1 else 6
  1 <<< bit

/-! ## Instructions -/

/-- fadd.f32 with an immediate (R85). -/
def execFaddF32Vi (f : VI) (s : State) : Res := fpVI f (addRes fp32) s

/-- fmul.f32 with an immediate (R85). -/
def execFmulF32Vi (f : VI) (s : State) : Res := fpVI f (mulRes fp32) s

/-- fadd.f32 (R92). -/
def execFaddF32 (f : V3) (ox : Option Ox) (s : State) : Res := fpV3 f ox (addRes fp32) s

/-- fsub.f32 (R92). -/
def execFsubF32 (f : V3) (ox : Option Ox) (s : State) : Res := fpV3 f ox (fun env a b => addRes fp32 env a (fpNeg b)) s

/-- fmul.f32 (R92). -/
def execFmulF32 (f : V3) (ox : Option Ox) (s : State) : Res := fpV3 f ox (mulRes fp32) s

/-- fmin.f32 (R92). -/
def execFminF32 (f : V3) (ox : Option Ox) (s : State) : Res := codeV3 f ox (fun env a b => BitVec.ofNat 32 (minMaxRes fp32 env false a.toNat b.toNat)) s

/-- fmax.f32 (R92). -/
def execFmaxF32 (f : V3) (ox : Option Ox) (s : State) : Res := codeV3 f ox (fun env a b => BitVec.ofNat 32 (minMaxRes fp32 env true a.toNat b.toNat)) s

/-- fabs.f32 (R92). -/
def execFabsF32 (f : V2) (ox : Option Ox) (s : State) : Res := codeV2 f ox (fun _ a => a &&& 0x7FFFFFFF) s

/-- fneg.f32 (R92). -/
def execFnegF32 (f : V2) (ox : Option Ox) (s : State) : Res := codeV2 f ox (fun _ a => a ^^^ 0x80000000) s

/-- fsgn.f32 (R92). -/
def execFsgnF32 (f : V3) (ox : Option Ox) (s : State) : Res := codeV3 f ox (fun _ a b => a &&& 0x7FFFFFFF ||| b &&& 0x80000000) s

/-- ffma.f32 (R93). -/
def execFfmaF32 (f : V3) (ox : Ox) (s : State) : Res := fpV4 f ox (fun env a b c => fmaRes fp32 env false a b c) s

/-- ffms.f32 (R93). -/
def execFfmsF32 (f : V3) (ox : Ox) (s : State) : Res := fpV4 f ox (fun env a b c => fmaRes fp32 env false a b (fpNeg c)) s

/-- fnfma.f32 (R93). -/
def execFnfmaF32 (f : V3) (ox : Ox) (s : State) : Res := fpV4 f ox (fun env a b c => fmaRes fp32 env true a b c) s

/-- fnfms.f32 (R93). -/
def execFnfmsF32 (f : V3) (ox : Ox) (s : State) : Res := fpV4 f ox (fun env a b c => fmaRes fp32 env true a b (fpNeg c)) s

/-- hadd.f16x2 (R94). -/
def execHaddF16x2 (f : V3) (ox : Option Ox) (s : State) : Res := halfV3 fp16 f ox (addRes fp16) s

/-- hmul.f16x2 (R94). -/
def execHmulF16x2 (f : V3) (ox : Option Ox) (s : State) : Res := halfV3 fp16 f ox (mulRes fp16) s

/-- hmin.f16x2 (R94). -/
def execHminF16x2 (f : V3) (ox : Option Ox) (s : State) : Res := codeV3 f ox (halfMinMax fp16 false) s

/-- hmax.f16x2 (R94). -/
def execHmaxF16x2 (f : V3) (ox : Option Ox) (s : State) : Res := codeV3 f ox (halfMinMax fp16 true) s

/-- hfma.f16x2 (R95). -/
def execHfmaF16x2 (f : V3) (ox : Ox) (s : State) : Res := halfFma fp16 f ox s

/-- hdot2.f32.f16x2 (R95). -/
def execHdot2F32F16x2 (f : V3) (ox : Ox) (s : State) : Res := halfDot fp16 f ox s

/-- hadd.bf16x2 (R94). -/
def execHaddBf16x2 (f : V3) (ox : Option Ox) (s : State) : Res := halfV3 bf16 f ox (addRes bf16) s

/-- hmul.bf16x2 (R94). -/
def execHmulBf16x2 (f : V3) (ox : Option Ox) (s : State) : Res := halfV3 bf16 f ox (mulRes bf16) s

/-- hmin.bf16x2 (R94). -/
def execHminBf16x2 (f : V3) (ox : Option Ox) (s : State) : Res := codeV3 f ox (halfMinMax bf16 false) s

/-- hmax.bf16x2 (R94). -/
def execHmaxBf16x2 (f : V3) (ox : Option Ox) (s : State) : Res := codeV3 f ox (halfMinMax bf16 true) s

/-- hfma.bf16x2 (R95). -/
def execHfmaBf16x2 (f : V3) (ox : Ox) (s : State) : Res := halfFma bf16 f ox s

/-- hdot2.f32.bf16x2 (R95). -/
def execHdot2F32Bf16x2 (f : V3) (ox : Ox) (s : State) : Res := halfDot bf16 f ox s

/-- frnd.f32 (R96). -/
def execFrndF32 (f : V2) (ox : Option Ox) (s : State) : Res := codeV2 f ox (integralBits fun env => env.rm) s

/-- ffloor.f32 (R96). -/
def execFfloorF32 (f : V2) (ox : Option Ox) (s : State) : Res := codeV2 f ox (integralBits fun _ => .dn) s

/-- fceil.f32 (R96). -/
def execFceilF32 (f : V2) (ox : Option Ox) (s : State) : Res := codeV2 f ox (integralBits fun _ => .up) s

/-- ftrunc.f32 (R96). -/
def execFtruncF32 (f : V2) (ox : Option Ox) (s : State) : Res := codeV2 f ox (integralBits fun _ => .rz) s

/-- ffract.f32 (R96). -/
def execFfractF32 (f : V2) (ox : Option Ox) (s : State) : Res := fpV2 f ox fractRes s

/-- fclass.f32 (R96). -/
def execFclassF32 (f : V2) (ox : Option Ox) (s : State) : Res := codeV2 f ox (fun _ a => classMask a) s

/-- fadd.f32 with a scalar (R85). -/
def execFaddF32Vs (f : VX) (ox : Option Ox) (s : State) : Res := fpVX f ox (addRes fp32) s

/-- fmul.f32 with a scalar (R85). -/
def execFmulF32Vs (f : VX) (ox : Option Ox) (s : State) : Res := fpVX f ox (mulRes fp32) s

/-- fmin.f32 with a scalar (R85). -/
def execFminF32Vs (f : VX) (ox : Option Ox) (s : State) : Res := codeVX f ox (fun env a b => BitVec.ofNat 32 (minMaxRes fp32 env false a.toNat b.toNat)) s

/-- fmax.f32 with a scalar (R85). -/
def execFmaxF32Vs (f : VX) (ox : Option Ox) (s : State) : Res := codeVX f ox (fun env a b => BitVec.ofNat 32 (minMaxRes fp32 env true a.toNat b.toNat)) s

end Sys2Proof.Machine
end

