-- ==== Sys2Proof/Machine/Log.lean ====
section
/-!
DEFINITION. The order log (R337 to R349): the ring and its records, the stalls of a full ring, ownership runs, races, and
the matching of a replay.
-/

namespace Sys2Proof.Machine

/-! ## Virtual accesses of the device -/

/-- The core number under which the device's own accesses look up translations: no core's TLB answers to it. -/
def noTlb : Nat := 0x7F

/-- The location of a virtual address for the device's own access. -/
def devLoc (s : State) (ctx va : Nat) (acc : Acc) : Option Nat :=
  match xlatNow s ctx noTlb va acc with
  | .ok leaf => some (leaf.at va)
  | .error _ => none

/-- The 64-bit word at a virtual address; a discarded page reads zeros (R274). -/
def readDev (s : State) (ctx va : Nat) : DWord := match xlatNow s ctx noTlb va .read with
  | .ok leaf => if leaf.dsc then 0 else joinWords (readAsEngine s (leaf.at va)).1 (readAsEngine s (leaf.at va + 4)).1
  | .error _ => 0

/-- Writes a 64-bit word at a virtual address; the walk fills the device's TLB, or is reported (R273, R276). -/
def writeDev (s0 : State) (ctx va : Nat) (v : DWord) : State :=
  let s := fillNow s0 ctx noTlb va
  match devLoc s ctx va .write with
  | some loc => homeWrite (homeWrite s loc 0xF (loWord v) false (some ctx) none) (loc + 4) 0xF (hiWord v) false (some ctx) none
  | none => s

/-- Writes 64-bit words from a virtual address up. -/
def writeDevs (s : State) (ctx va : Nat) (ws : List DWord) : State :=
  ws.zipIdx.foldl (fun s p => writeDev s ctx (va + 8 * p.2) p.1) s

/-! ## The ring (R338) -/

/-- LBASE of a context. -/
def logBase (s : State) (ctx : Nat) : Nat := bitsOf (ctxDWord s ctx 0x040) 0 48

/-- The ring's 32-byte units. -/
def logUnits (s : State) (ctx : Nat) : Nat := 2 ^ (bitsOf (ctxDWord s ctx 0x040) 48 6 - 5)

/-- HEAD, TAIL, RPTR, WMARK. -/
def logHead (s : State) (ctx : Nat) : Nat := (ctxWord s ctx 0x048).toNat
def logTail (s : State) (ctx : Nat) : Nat := (ctxWord s ctx 0x04C).toNat
def logRptr (s : State) (ctx : Nat) : Nat := (ctxWord s ctx 0x050).toNat
def logWmark (s : State) (ctx : Nat) : Nat := (ctxWord s ctx 0x054).toNat

/-- The address of a unit. -/
def unitAddr (s : State) (ctx i : Nat) : Nat := logBase s ctx + 32 * (i % logUnits s ctx)

/-- Free units: 2^(LSZ − 5) − (HEAD − TAIL) (R344). -/
def freeUnits (s : State) (ctx : Nat) : Nat :=
  logUnits s ctx - (logHead s ctx + 2 ^ 32 - logTail s ctx) % 2 ^ 32

/-- Sets or clears bits of STAT. -/
def setStat (s : State) (ctx : Nat) (bit : Nat) (on : Bool) : State :=
  let v := ctxWord s ctx 0x05C
  putCtx s ctx 0x05C (if on then v ||| ((1 : Word) <<< bit) else v &&& ~~~((1 : Word) <<< bit))

/-- Units of padding before a record of `n` units, which never wraps (R339). -/
def padUnits (s : State) (ctx n : Nat) : Nat :=
  let pos := logHead s ctx % logUnits s ctx
  if pos + n > logUnits s ctx then logUnits s ctx - pos else 0

/-- Whether a record of `n` units fits. -/
def logRoom (s : State) (ctx n : Nat) : Bool := decide (n + padUnits s ctx n ≤ freeUnits s ctx)

/-- The units of a record with `k` words after word 1. -/
def recUnits (k : Nat) : Nat := ceilDiv (2 + k) 4

/-- Word 0 of a record of a device (R339, R349). -/
def recHead (dev type len seq : Nat) : DWord :=
  BitVec.ofNat 64 (type * 2 ^ 56 + len * 2 ^ 48 + dev * 2 ^ 47 + seq)

/-- Word 1 for a group (R339). -/
def actorWord (g : Group) : DWord :=
  BitVec.ofNat 64 (g.grid * 2 ^ 32 + if isEpisode g then 2 ^ 31 + g.waveSeq % 2 ^ 31 else g.core * 256 + g.slot)

/-- Word 1 for an agent that is not a group (R339). -/
def agentWord (grid : Nat) : DWord := BitVec.ofNat 64 (grid * 2 ^ 32 + 0x7F * 256)

/-- Raises IVEC once when the free units have fallen to WMARK (R344). -/
def wmarkIrq (s : State) (ctx : Nat) : State :=
  let free := freeUnits s ctx
  if free ≤ logWmark s ctx ∧ logWmark s ctx ≠ 0 then
    (if (ctxOf s ctx).irqArmed then
      updCtx { s with irqs := (ctxWord s ctx 0x058).toNat :: s.irqs } ctx fun c => { c with irqArmed := false }
    else s)
  else updCtx s ctx fun c => { c with irqArmed := true }

/-- The next SEQ of a context's recording. -/
def logSeqOf (s : State) (ctx : Nat) : Nat := (ctxOf s ctx).logSeq % 2 ^ 31

/-- Appends a record of a device that fits, after padding (R339, R349): word 1 and the words after it. -/
def logWriteOf (s : State) (dev ctx type : Nat) (w1 : DWord) (rest : List DWord) : State :=
  let n := recUnits rest.length
  let pad := padUnits s ctx n
  let head := logHead s ctx
  let s1 := if pad = 0 then s else writeDevs s ctx (unitAddr s ctx head)
    (BitVec.ofNat 64 (0x0F * 2 ^ 56 + pad * 2 ^ 48 + s.devId * 2 ^ 47) :: List.replicate (4 * pad - 1) 0)
  let ws := recHead dev type n (logSeqOf s ctx) :: w1 :: rest
  let s2 := writeDevs s1 ctx (unitAddr s ctx (head + pad)) (ws ++ List.replicate (4 * n - ws.length) 0)
  let s3 := putCtx s2 ctx 0x048 (BitVec.ofNat 32 (head + pad + n))
  wmarkIrq (updCtx s3 ctx fun c => { c with logSeq := c.logSeq + 1 }) ctx

/-- Appends a record of this device. -/
def logWrite (s : State) (ctx type : Nat) (w1 : DWord) (rest : List DWord) : State := logWriteOf s s.devId ctx type w1 rest

/-! ## Stalls (R344) -/

/-- What a stalled event is known by in `Ctx.stalls`: a root combination, the variable area, a head of the launch unit by the
key of its grid, a wave of the sorter by its grid and entry, or an operation by its name. -/
def stallRoot : Nat := 0
def stallVar : Nat := 1
def stallLaunch (key : Nat) : Nat := 8 * key + 2
def stallSorter (grid entry : Nat) : Nat := 8 * (65536 * grid + entry) + 3
def stallOp (op : Nat) : Nat := 8 * op + 4

/-- Rewrites the stalls of a context; FULL shows whether any is left. -/
def setStalls (s : State) (ctx : Nat) (f : List Nat → List Nat) : State :=
  let s := updCtx s ctx fun c => { c with stalls := f c.stalls }
  setStat s ctx 0 (!(ctxOf s ctx).stalls.isEmpty)

/-- An event stalls, after those that stalled before it. -/
def stallAt (s : State) (ctx code : Nat) : State :=
  if (ctxOf s ctx).stalls.contains code then s else setStalls s ctx fun l => l ++ [code]

/-- An event is stalled no longer. -/
def unstall (s : State) (ctx code : Nat) : State :=
  if (ctxOf s ctx).stalls.contains code then setStalls s ctx fun l => l.filter fun c => c ≠ code else s

/-- Whether another event of a unit has stalled, behind which the unit's events of the context wait (R344). -/
def behindStall (s : State) (ctx code : Nat) : Bool := (ctxOf s ctx).stalls.any fun c => c % 8 == code % 8 && c != code

/-- The stalls of a unit whose events are no longer there are over. -/
def keepStalls (s : State) (kind : Nat) (live : Nat → Nat → Bool) : State :=
  s.ctxs.foldl (fun s c =>
    if c.2.stalls.any fun x => x % 8 == kind && !live c.1 x then setStalls s c.1 fun l => l.filter fun x => x % 8 != kind || live c.1 x
    else s) s

/-- Whether a record with `k` words after word 1 can be written now: it fits (R344). -/
def logReady (s : State) (ctx k : Nat) : Bool := logRoom s ctx (recUnits k)

/-- Whether a group's loggable events wait because it is halted by the debugger (R349). -/
def logHeld (s : State) (g : Group) : Bool := g.halted && logMode s g.ctx != 0

/-- Whether the group in a slot is halted by the debugger. -/
def haltedAt (s : State) (core slot : Nat) : Bool := ((groupAt s core slot).map fun g => g.halted).getD false

/-! ## Operations that end with a record -/

/-- Ends an outstanding operation of a group: its counter goes down (R15). -/
def endOp (g : Group) (id : Nat) : Group :=
  match g.ops.find? fun o => o.id == id with
  | some o => { decCnt g o.ctr with ops := g.ops.filter fun o => o.id ≠ id }
  | none => g

/-- Ends an outstanding acquire or release of a group. -/
def endSync (s : State) (id : Nat) : State :=
  match s.syncOps.find? fun o => o.id == id with
  | some o => updGroup { s with syncOps := s.syncOps.filter fun o => o.id ≠ id } o.core o.slot fun g => decCnt g o.ctr
  | none => s

/-- Ends the operation with a name, of either kind. -/
def endAny (s : State) (core slot id : Nat) : State := endSync (updGroup s core slot fun g => endOp g id) id

/-- Rewrites the entry of a variable. -/
def updSync (s : State) (ctx var : Nat) (f : SyncEntry → SyncEntry) : State :=
  { s with syncTab := s.syncTab.map fun e => if e.ctx == ctx && e.var == var then f e else e }

/-- A release has completed: it becomes the last of its variable; the release half of an acqrel gives way to its acquire
half, which observes it, and a rel ends (R138, R342). -/
def relDone (s : State) (ctx var seq op : Nat) : State :=
  match s.syncOps.find? fun o => o.id == op with
  | none => s
  | some o =>
    let s := if logMode s ctx = 0 then s else
      updSync s ctx var fun e => { e with lastRel := some seq, obs := if o.acq then 1 else 0 }
    if o.acq then
      { s with syncOps := s.syncOps.map fun o => if o.id == op then { o with stage := .inval, obs := some seq } else o }
    else endSync s op

/-- OBS and PSEQ of a REL record, from its variable's entry (R341). -/
def releaseTail (s : State) (ctx var : Nat) : DWord :=
  let e := s.syncTab.find? fun e => e.ctx == ctx && e.var == var
  BitVec.ofNat 64 ((e.map fun e => e.obs).getD 0 + ((e.bind fun e => e.lastRel).getD 0xFFFFFFFF) * 2 ^ 32)

/-- The words after word 1 of a REL record (R341): OBS and PSEQ are those of the moment at which it is written. -/
def relWords (s : State) (ctx op : Nat) : List DWord :=
  match s.syncOps.find? fun o => o.id == op with
  | none => []
  | some o => [BitVec.ofNat 64 (o.var + o.eff), releaseTail s ctx o.var]

/-- What follows once a record of an operation has been written: a release completes, and every other operation ends. -/
def afterRecord (s : State) (ctx type seq : Nat) (rest : List DWord) (core slot op : Nat) : State :=
  if type = 0x02 then
    relDone s ctx (bitsOf (rest.getD 0 0) 3 45 * 8) seq op
  else endAny s core slot op

/-- Writes the record with which an operation ends, or leaves both waiting for room (R344). -/
def recordOp (s : State) (ctx type : Nat) (w1 : DWord) (rest : List DWord) (core slot op : Nat) : State :=
  if logReady s ctx rest.length && !haltedAt s core slot then
    afterRecord (logWrite s ctx type w1 rest) ctx type (logSeqOf s ctx) rest core slot op
  else
    stallAt { s with logWait := s.logWait ++ [⟨ctx, BitVec.ofNat 64 type :: w1 :: rest, core, slot, op⟩] } ctx (stallOp op)

/-- Whether an operation waits for its record to be written. -/
def logStalled (s : State) (op : Nat) : Bool := s.logWait.any fun w => w.op == op

/-- The oldest record of a context that waits, of a group that is not halted (R349). -/
def nextWait (s : State) (ctx : Nat) : Option LogWait := s.logWait.find? fun w => w.ctx == ctx && !haltedAt s w.core w.slot

/-- Writes the records of a context that wait, oldest first, while they fit (R344). -/
def drainLogWait (s : State) (ctx : Nat) : Nat → State
  | 0 => s
  | fuel + 1 =>
    match nextWait s ctx with
    | none => s
    | some w =>
      match w.words with
      | type :: w1 :: words =>
        let rest := if type = 2 then relWords s ctx w.op else words
        if logReady s ctx rest.length then
          let s' := unstall { s with logWait := s.logWait.filter fun x => x.op ≠ w.op } ctx (stallOp w.op)
          drainLogWait (afterRecord (logWrite s' ctx type.toNat w1 rest) ctx type.toNat (logSeqOf s ctx) rest w.core w.slot w.op)
            ctx fuel
        else s
      | _ => s

/-- A write of TAIL in recording: it takes effect at once; IVEC may be raised again once the free units have risen above
WMARK; stalled records are written oldest first, and FULL clears once none remains (R344). -/
def tailWritten (s : State) (ctx : Nat) (tail : Word) : State :=
  let s1 := putCtx s ctx 0x04C tail
  if logMode s ctx = 1 then drainLogWait (wmarkIrq s1 ctx) ctx s.logWait.length else s1

/-- LOG_TAIL_WRITE (R344): a write of TAIL, which a replay only stages (R338). -/
def execLogTailWrite (ctx : Nat) (tail : BitVec 32) (s : State) : Res :=
  .next (if logMode s ctx = 2 then putBar s (ctxBlock ctx + 0x04C) tail else tailWritten s ctx tail)

/-! ## Replay (R346, R347) -/

/-- A record as replay reads it: its first unit, word 0 and the words from word 1 on. -/
structure LRec where
  unit : Nat
  type : Nat
  len : Nat
  dev : Bool
  seq : Nat
  words : List DWord
  deriving DecidableEq, Repr

/-- Word `i` of a record. -/
def LRec.word (r : LRec) (i : Nat) : DWord := r.words.getD (i - 1) 0

/-- The record at a unit. -/
def recAt (s : State) (ctx i : Nat) : LRec :=
  let w0 := readDev s ctx (unitAddr s ctx i)
  let len := bitsOf w0 48 8
  ⟨i % 2 ^ 32, bitsOf w0 56 8, len, w0.getLsbD 47, bitsOf w0 0 31,
    (List.range (4 * len - 1)).map fun k => readDev s ctx (unitAddr s ctx i + 8 * (k + 1))⟩

/-- Whether a record's TYPE is one of R341 and its LEN agrees with it. -/
def recSane (r : LRec) : Bool := match r.type with
  | 0x01 => r.len == 2
  | 0x05 =>
    let nl := bitsOf (r.word 2) 16 8
    decide (1 ≤ nl) && decide (nl ≤ 128) && r.len == 1 + ceilDiv nl 4
  | 0x0F => 1 ≤ r.len && r.len ≤ 33
  | 0x00 => false
  | t => decide (t ≤ 0x09) && r.len == 1

/-- The records from a unit to HEAD, up to the first that is not sane. -/
def recsFrom (s : State) (ctx : Nat) : Nat → Nat → List LRec
  | 0, _ => []
  | fuel + 1, i =>
    if i % 2 ^ 32 = logHead s ctx then []
    else
      let r := recAt s ctx i
      if recSane r then r :: recsFrom s ctx fuel (i + r.len) else [r]

/-- The records between RPTR and HEAD. -/
def replayRecs (s : State) (ctx : Nat) : List LRec :=
  recsFrom s ctx ((logHead s ctx + 2 ^ 32 - logRptr s ctx) % 2 ^ 32) (logRptr s ctx)

/-- Whether a record still has to be matched. -/
def unmatched (s : State) (ctx : Nat) (r : LRec) : Bool :=
  !((ctxOf s ctx).matched.contains r.unit) && r.type != 0x07 && r.type != 0x0F

/-- The next unmatched record of a TYPE that satisfies a test. -/
def nextRec (s : State) (ctx type : Nat) (p : LRec → Bool) : Option LRec :=
  (replayRecs s ctx).find? fun r => r.type == type && recSane r && unmatched s ctx r && p r

/-- Whether a record names a group of this device. -/
def byGroup (s : State) (g : Group) (r : LRec) : Bool := r.dev == (s.devId == 1) && r.word 1 == actorWord g

/-- Divergence at the launch unit or the sorter (R347). -/
def divergeUnit (s : State) (ctx : Nat) : State :=
  updCtx (reportCtx (setStat s ctx 1 true) ctx 0x15 0x50 0 0) ctx fun c => { c with stopped := true }

/-- The addresses of a record's first and last unit: a record spans two pages at most. -/
def recEnds (s : State) (ctx : Nat) (r : LRec) : List Nat := [unitAddr s ctx r.unit, unitAddr s ctx (r.unit + (r.len - 1))]

/-- The cause for which the device cannot read an address of its own. -/
def unreadAt (s : State) (ctx va : Nat) : Option Nat := match xlatNow s ctx noTlb va .read with
  | .ok _ => none
  | .error k => some k

/-- Whether a record is one that no replay on this device may meet (R341, R349), or cannot be read. -/
def recBad (s : State) (ctx : Nat) (r : LRec) : Bool :=
  !recSane r || (r.dev && !s.isW) || (recEnds s ctx r).any fun va => (unreadAt s ctx va).isSome

/-- A replay that looks for a record and finds none meets whatever is wrong with the recording: DIV is set, the context's
launches and dispatch stop (R341), and what keeps the record from being read is reported (R126, R273, R336). -/
def meetBad (s : State) (ctx : Nat) : State :=
  if logMode s ctx ≠ 2 ∨ (ctxOf s ctx).stopped then s
  else match (replayRecs s ctx).find? (recBad s ctx) with
    | none => s
    | some r => divergeUnit ((recEnds s ctx r).dedup.foldl (fun s va => match unreadAt s ctx va with
        | some k => tellFault s ctx noCore none 0 k va
        | none => s) s) ctx

/-- RPTR past the records at its place that are matched or never matched, and STAT.END at HEAD. -/
def advanceRptr (s : State) (ctx : Nat) : List LRec → State
  | [] => if logRptr s ctx = logHead s ctx then setStat s ctx 2 true else s
  | r :: rs =>
    if recBad s ctx r then meetBad s ctx
    else if !unmatched s ctx r then
      advanceRptr (updCtx (putCtx s ctx 0x050 (BitVec.ofNat 32 (r.unit + r.len))) ctx
        fun c => { c with matched := c.matched.filter fun u => u ≠ r.unit }) ctx rs
    else s

/-- Marks a record as matched (R346); the walk that has found it fills the device's TLB (R276). -/
def matchRec (s : State) (ctx : Nat) (r : LRec) : State :=
  let s := updCtx (fillNow s ctx noTlb (unitAddr s ctx r.unit)) ctx fun c => { c with matched := r.unit :: c.matched }
  advanceRptr s ctx (replayRecs s ctx)

/-- TRAPADDR of a divergence: the SEQ of the expected record, or all ones (R347). -/
def divergeAddr (r : Option LRec) : Nat := match r with
  | some r => r.seq
  | none => 0xFFFFFFFF

/-- Whether a context may launch and dispatch: no divergence has stopped it. -/
def logGoes (s : State) (ctx : Nat) : Bool := !(ctxOf s ctx).stopped

/-! ## Ownership runs (R342, R346) -/

/-- The run on a word. -/
def runOn (s : State) (ctx va : Nat) (wide : Bool) : Option AtomRun :=
  s.runs.find? fun r => r.ctx == ctx && r.va == va && r.wide == wide

/-- Whether a run is a group's. -/
def AtomRun.by (r : AtomRun) (g : Group) : Bool :=
  r.grid == g.grid && (if isEpisode g then r.ep == some g.waveSeq else r.ep == none && r.core == g.core && r.slot == g.slot)

/-- A group's run of one lane. -/
def newRun (g : Group) (va loc : Nat) (wide : Bool) : AtomRun :=
  ⟨g.ctx, va, loc, wide, g.core, g.slot, if isEpisode g then some g.waveSeq else none, g.grid, 1⟩

/-- Whether a run is on a word of `n` bytes at a location. -/
def AtomRun.meets (r : AtomRun) (loc n : Nat) : Bool :=
  decide (r.loc < loc + n) && decide (loc < r.loc + if r.wide then 8 else 4)

/-- Word 2 of an ATOM record. -/
def atomWord (va : Nat) (wide root : Bool) : DWord :=
  BitVec.ofNat 64 (va % 2 ^ 48 + (if root then 2 ^ 48 else 0) + if wide then 2 ^ 49 else 0)

/-- Word 1 of a run's actor. -/
def AtomRun.actor (r : AtomRun) : DWord :=
  BitVec.ofNat 64 (r.grid * 2 ^ 32 + match r.ep with
    | some q => 2 ^ 31 + q % 2 ^ 31
    | none => r.core * 256 + r.slot)

/-- Ends a run with its record. -/
def endRun (s : State) (r : AtomRun) : State :=
  logWrite { s with runs := s.runs.filter fun x => !(x.ctx == r.ctx && x.va == r.va && x.wide == r.wide) } r.ctx 0x04 r.actor
    [atomWord r.va r.wide false, BitVec.ofNat 64 r.len]

/-- What the log asks of an atomic lane before it acts. -/
inductive LogGo where
  | go (s : State)
  | stall (ctx : Nat)
  | diverge
  deriving DecidableEq, Repr

/-- The recorded runs on a word end with their records, but for those kept, while their rings have room (R342, R344);
otherwise the context whose ring is full is answered. -/
def endRuns (s : State) (loc n code : Nat) (keep : AtomRun → Bool) : Except Nat State :=
  (s.runs.filter fun r => logMode s r.ctx == 1 && r.meets loc n && !keep r).foldl (fun acc r => match acc with
    | .ok s => if logReady s r.ctx 2 then .ok (unstall (endRun s r) r.ctx code) else .error r.ctx
    | .error c => .error c) (.ok s)

/-- Recording one atomic lane of a group: its run grows by a lane, and ends at its greatest length (R342). -/
def recordAtom (s : State) (g : Group) (va loc : Nat) (wide : Bool) (code : Nat) : LogGo :=
  match runOn s g.ctx va wide with
  | none => .go { s with runs := newRun g va loc wide :: s.runs }
  | some r =>
    if r.len + 1 < 2 ^ 32 - 1 then
      .go { s with runs := s.runs.map fun x => if x == r then { x with len := x.len + 1 } else x }
    else if logReady s g.ctx 2 then .go (unstall (endRun s { r with len := r.len + 1 }) g.ctx code)
    else .stall g.ctx

/-- Replaying one atomic lane: the word's next run must name its actor (R346). -/
def replayAtom (s : State) (g : Group) (va loc : Nat) (wide : Bool) : LogGo :=
  match nextRec s g.ctx 0x04 fun r => (r.word 2).toNat % 2 ^ 48 == va && (r.word 2).getLsbD 49 == wide with
  | none => .diverge
  | some r =>
    if byGroup s g r && !(r.word 2).getLsbD 48 then
      let done := match runOn s g.ctx va wide with
        | some x => x.len + 1
        | none => 1
      let others := s.runs.filter fun x => !(x.ctx == g.ctx && x.va == va && x.wide == wide)
      if done = bitsOf (r.word 3) 0 32 then .go (matchRec { s with runs := others } g.ctx r)
      else .go { s with runs := { newRun g va loc wide with len := done } :: others }
    else .stall g.ctx

/-- The log's part in one atomic lane of an operation (R342, R346): runs of other actors on the word end first. -/
def atomLog (s : State) (g : Group) (va loc : Nat) (wide : Bool) (op : Nat) : LogGo :=
  match endRuns s loc (if wide then 8 else 4) (stallOp op) fun r => r.by g && r.ctx == g.ctx && r.va == va && r.wide == wide with
  | .error c => .stall c
  | .ok s => match logMode s g.ctx with
    | 1 => recordAtom s g va loc wide (stallOp op)
    | 2 => replayAtom s g va loc wide
    | _ => .go s

/-- Whether a replay holds a word back from a core: the word's next run is another core's, whose run has to reach its
length first (R329). -/
def runElsewhere (s : State) (ctx va core : Nat) : Bool :=
  logMode s ctx == 2 && match nextRec s ctx 0x04 fun r =>
      decide ((r.word 2).toNat % 2 ^ 48 ≤ va) && decide (va < (r.word 2).toNat % 2 ^ 48 + if (r.word 2).getLsbD 49 then 8 else 4) with
    | some r => !(s.groups.any fun g => g.ctx == ctx && g.core == core && byGroup s g r)
    | none => false

/-- Whether a replay holds a word back from the twin: the word's next run is one of this device (R329, R349). -/
def runHere (s : State) (ctx va : Nat) : Bool :=
  logMode s ctx == 2 && match nextRec s ctx 0x04 fun r =>
      decide ((r.word 2).toNat % 2 ^ 48 ≤ va) && decide (va < (r.word 2).toNat % 2 ^ 48 + if (r.word 2).getLsbD 49 then 8 else 4) with
    | some r => r.dev == (s.devId == 1)
    | none => false

/-! ## Races (R345) -/

/-- Raises a core's frontier. -/
def raiseFrontier (s : State) (core seq : Nat) : State :=
  { s with frontier := tput s.frontier core (max seq (tget s.frontier core 0)) }

/-- Whether a stamp marks a race for a load of a context on a core. -/
def racy (s : State) (ctx core : Nat) : Option Stamp → Bool
  | some t => t.ctx == some ctx && decide (tget s.frontier core 0 < t.stamp) && t.writer != some core
  | none => false

end Sys2Proof.Machine
end

