-- ==== Sys2Proof/Machine/Mem.lean ====
section
/-!
DEFINITION. What every memory instruction shares (R119 to R124): effective addresses, the checks of each lane, traps and
fault batches, the scratchpad, and the order in which the accesses of a group and of a core are performed.
-/

namespace Sys2Proof.Machine

/-! ## Scratchpad (R120, R312) -/

/-- The word of a scratchpad at an offset that is a multiple of 4, with its poison mark. -/
def spWord (t : Team) (off : Nat) : Word × Bool := (memWord t.mem off, tget t.poison off false)

/-- Writes bytes of a scratchpad word. -/
def spPut (t : Team) (off : Nat) (mask : BitVec 4) (v : Word) (poison : Bool) : Team :=
  let p := poison || (mask ≠ 0xF && tget t.poison off false)
  { t with mem := memPutWord t.mem off mask v, poison := if p then tput t.poison off true else tdel t.poison off }

/-- The 64-bit word of a scratchpad. -/
def spDWord (t : Team) (off : Nat) : DWord := joinWords (spWord t off).1 (spWord t (off + 4)).1

/-- Writes a 64-bit word of a scratchpad. -/
def spPutD (t : Team) (off : Nat) (v : DWord) : Team := spPut (spPut t off 0xF (loWord v) false) (off + 4) 0xF (hiWord v) false

/-! ## Forms -/

/-- A memory instruction: its counter, the vector fields it reads and writes, how its address is formed, its access, and
the operation that it leaves outstanding. `group` marks a form that acts once for the group. -/
structure MemForm where
  ox : Option Ox
  ctr : Nat
  srcs : List (BitVec 7)
  dsts : List (BitVec 7)
  dst : Nat
  base : Nat
  scals : List Nat
  offset : Group → Nat → Nat
  size : Nat
  acc : Acc
  sp : Bool
  group : Bool
  kind : OpKind
  data : Group → Nat → List Word

/-- The effective address B0 + (offset << k) (R120). -/
def effAddr (g : Group) (base offset : Nat) : Nat :=
  bitsOf (sReg g base) 0 48 + offset * 2 ^ bitsOf (sReg g base) 48 4

/-- The cause that a word's operands raise: 0x01 for a window (R165), 0x04 for a register beyond REGALLOC (R9). -/
def memOperandCause (g : Group) (m : MemForm) : Option Nat :=
  let fs := m.srcs ++ m.dsts
  if fs.any fun f => (windowOf g f).isSome then some 1 else if fs.any (beyond g) then some 4 else none

/-- The TRAPDST of a form: D where it writes a vector (R122). -/
def MemForm.trapDst (m : MemForm) : Nat := match m.dsts with
  | d :: _ => d.toNat
  | [] => 0xFF

/-- What the checks find of a lane. -/
inductive LaneChk where
  | ok (r : LaneRef)
  | fault (cause addr : Nat)
  | miss (va : Nat)
  deriving DecidableEq, Repr

/-- The words of an access. -/
def accWords (loc size : Nat) : List Nat := rangeWords (wordBase loc) size

/-- The bytes of each of its words that an access needs. -/
def needMask (loc size : Nat) : BitVec 4 := if size < 4 then BitVec.ofNat 4 ((2 ^ size - 1) * 2 ^ (loc % 4)) else 0xF

/-- The cause of a page that system software has given up for this group (R279, step 6). -/
def gaveUpCause (g : Group) (va : Nat) : Option Nat := match g.batch with
  | some b => if b.released then (b.pages.find? fun p => p.page == va / 4096 * 4096 && p.verdict == some false).map fun p => p.cause
    else none
  | none => none

/-- Whether a replay holds no further run of a word for an atomic (R347). -/
def noRunLeft (s : State) (g : Group) (va : Nat) (wide : Bool) : Bool :=
  logMode s g.ctx == 2 &&
    (nextRec s g.ctx 0x04 fun r => (r.word 2).toNat % 2 ^ 48 == va && (r.word 2).getLsbD 49 == wide).isNone

/-- The checks of a global access: translation and access, then owner and home (R122, R274, R336). -/
def checkGlobal (s : State) (g : Group) (m : MemForm) (l va : Nat) : LaneChk :=
  match gaveUpCause g va with
  | some k => .fault k va
  | none => match xlat s g.ctx g.core va m.acc with
    | .fail k => .fault k va
    | .miss => .miss va
    | .ok leaf =>
      let loc := leaf.at va
      let zero := leaf.dsc && m.acc == .read
      match (if zero then none else (accWords loc m.size).findSome? fun w => lostCause s (some g.core) w m.acc (needMask loc m.size)) with
      | some k => .fault k va
      | none => if m.acc = .atom ∧ noRunLeft s g (va / m.size * m.size) (m.size == 8) then .fault 0x50 0xFFFFFFFF
        else .ok ⟨l, va, loc, locAt (homeCode leaf.home) leaf.pbase, leaf.mt, zero, m.data g l⟩

/-- The check of a scratchpad access (R120). -/
def checkScratch (s : State) (g : Group) (m : MemForm) (l off : Nat) : LaneChk :=
  match teamOfGroup s g with
  | none => .fault 0x21 off
  | some t => if off + m.size ≤ t.size then .ok ⟨l, off, off, 0, .nrm, false, m.data g l⟩ else .fault 0x21 off

/-- The checks of a lane in their order: poisoned operands (R125), alignment, then the rest (R122). -/
def checkLane (s : State) (g : Group) (m : MemForm) (l : Nat) : LaneChk :=
  if m.srcs.any fun f => (fieldPoison g f).getLsbD l then .fault 0x70 0
  else
    let va := effAddr g m.base (m.offset g l)
    if va % m.size ≠ 0 then .fault 0x05 va
    else if m.sp then checkScratch s g m l va
    else checkGlobal s g m l va

/-! ## Holds at issue -/

/-- Whether an operation acts on an SOR page. -/
def sorOp (o : MemOp) : Bool := o.lanes.any fun r => r.mt == .sor

/-- Whether the group's later accesses wait for an SOR access (R309). -/
def sorHeld (g : Group) : Bool := g.ops.any sorOp

/-- The lanes for which a memory instruction issues: those of a released batch when it reissues (R279), else the active
ones. -/
def memLanes (g : Group) (c : Clause) (ox : Option Ox) : Mask := match g.batch with
  | some ⟨.lanes m, _, _, true, _⟩ => m
  | _ => activeMask g c ox

/-! ## Issue -/

/-- The results of the checks of some lanes. -/
def checkLanes (s : State) (g : Group) (m : MemForm) (act : Mask) : List (Nat × LaneChk) :=
  if m.group then [(128, checkLane s g m 128)] else (lanesIn act).map fun l => (l, checkLane s g m l)

/-- The lanes that pass. -/
def okLanes (cs : List (Nat × LaneChk)) : List LaneRef := cs.filterMap fun c => match c.2 with
  | .ok r => some r
  | _ => none

/-- The lanes that fault, with cause and address; a form of the group faults in every active lane (R128). -/
def faultLanes (m : MemForm) (act : Mask) (cs : List (Nat × LaneChk)) : List (Nat × Nat × Nat) := cs.flatMap fun c => match c.2 with
  | .fault k a => if m.group then (lanesIn act).map fun l => (l, k, a) else [(c.1, k, a)]
  | _ => []

/-- The addresses whose walks have still to be made. -/
def missed (cs : List (Nat × LaneChk)) : List Nat := cs.filterMap fun c => match c.2 with
  | .miss va => some va
  | _ => none

/-- Whether an ATQ of a core for a word is under way (R328). -/
def atqPending (s : State) (core w : Nat) : Bool :=
  (s.msgs.any fun m => m.kind == .atq && m.src == .core core && m.names w) || valueComing s (.core core) w

/-- The lines that an operation needs and no copy covers are asked for (R320); a word that an ATQ of the core is to bring
with the core's own bytes is awaited. -/
def askOp (s : State) (core size : Nat) (refs : List LaneRef) : State :=
  refs.foldl (fun s r => if r.zero || r.mt == .dev || r.mt == .sor then s
    else (accWords r.loc size).foldl (fun s w =>
      if (l1Load s core w (needMask r.loc size)).isSome || isLost s w || atqPending s core w then s else askLine s core w) s) s

/-- Adds an outstanding operation of the lanes given: its counter goes up (R15, R121). -/
def addOp (s : State) (g : Group) (c : Clause) (m : MemForm) (refs : List LaneRef) : State × Group :=
  let s1 := match m.kind with
    | .load _ _ => if m.sp then s else askOp s g.core m.size refs
    | .loadU _ => askOp s g.core m.size refs
    | _ => s
  ({ s1 with nextId := s.nextId + 1 },
    { incCnt g m.ctr with ops := g.ops ++ [⟨s.nextId, m.kind, m.ctr, m.dst, m.sp, refs, wordAddr c,
      c.pcs, c.idx + 1, c.hdr⟩] })

/-- Whether a fault goes first to system software (R279). -/
def batched (g : Group) (f : Nat × Nat × Nat) : Bool :=
  (f.2.1 == 0x20 || f.2.1 == 0x22) && (gaveUpCause g f.2.2).isNone

/-- The mask of some faults. -/
def faultsMask (fs : List (Nat × Nat × Nat)) : Mask := maskOf fun l => fs.any fun f => f.1 == l

/-- The traps of some lanes (R122), with their reports. A divergence looks at what is wrong with the recording first (R341). -/
def memTrap (s : State) (g : Group) (c : Clause) (dst : Nat) (fs : List (Nat × Nat × Nat)) : Res :=
  let s := if fs.any fun f => f.2.1 == 0x50 then meetBad s g.ctx else s
  trapAt (reportLanes s g fs) { g with batch := none } c (fs.foldl (fun a f => min a f.2.1) 0x100) (faultsMask fs) dst
    ((fs.head?.map fun f => f.2.2).getD 0) (fs.map fun f => (f.1, f.2.2))

/-- The failed walks that the lanes' checks have met are forgotten: a later access walks again. Uncorrectable data that a walk
has met is reported (R126). -/
def tellFails (s : State) (g : Group) (m : MemForm) (cs : List (Nat × LaneChk)) : State :=
  let fs := cs.filterMap fun c => match c.2 with
    | .fault k a => some (c.1, k, a)
    | _ => none
  reportLanes (dropFails s g.ctx g.core (fs.map fun f => f.2.2 / 4096)) g
    (fs.filter fun f => f.2.1 == 0x70 && !(m.srcs.any fun x => (fieldPoison g x).getLsbD f.1))

/-- The end of issue: the lanes in `refs` go on as an operation; faults of causes 0x20 and 0x22 go to system software
before any trap (R122, R279); with no fault the instruction retires. -/
def memFinish (m : MemForm) (s : State) (g : Group) (c : Clause) (refs : List LaneRef) (fs : List (Nat × Nat × Nat)) : Res :=
  let s := dropFails s g.ctx g.core (fs.map fun f => f.2.2 / 4096)
  let r := if refs.isEmpty then (s, g) else addOp s g c m refs
  if fs.any (batched g) then
    .next (startBatch r.1 { r.2 with batch := none } (.lanes (faultsMask fs))
      ((fs.filter (batched g)).map fun f => (f.2.2, f.2.1)) true)
  else if fs.isEmpty then retire r.1 { r.2 with batch := none } c
  else memTrap r.1 r.2 c m.trapDst fs

/-- The issue of a memory instruction up to its lanes (R119 to R122): operand checks, the counter's limit, holds, a
poisoned scalar (R126); `k` does the rest for the lanes it acts for. -/
def memStart (m : MemForm) (k : Group → Clause → Mask → Res) (s : State) : Res :=
  withIssuer s fun g c =>
    match memOperandCause g m with
    | some cause => wordTrap s g c cause
    | none =>
      let act := memLanes g c m.ox
      if 63 ≤ cnt g m.ctr || acqHeld s g || sorHeld g then waits s
      else if act = 0 then retire s g c
      else if (m.base :: m.scals).any fun n => tget g.sPoison n false then
        trapAt s { g with batch := none } c 0x70 (execMask g c) m.trapDst 0 []
      else k g c act

/-- A memory instruction (R121): every active lane's checks are resolved before it retires. -/
def memIssue (m : MemForm) (s : State) : Res :=
  memStart m (fun g c act =>
    let cs := checkLanes s g m act
    if (missed cs).isEmpty then
      if (okLanes cs).any (fun r => r.mt == .sor) && !g.ops.isEmpty then waits s
      else memFinish m s g c (okLanes cs) (faultLanes m act cs)
    else .next ((missed cs).foldl (fun s va => askWalk s g.ctx g.core va false) s)) s

/-! ## Outstanding operations -/

/-- The bytes that each lane of an operation accesses. -/
def OpKind.bytes : OpKind → Nat
  | .load n _ => n
  | .loadU n => n
  | .store n => n
  | .atom _ n => n
  | _ => 0

/-- Whether an operation writes. -/
def OpKind.writes : OpKind → Bool
  | .store _ => true
  | .atom _ _ => true
  | _ => false

/-- Whether two lanes reach a common byte as accesses of one lane (R123); lane 128 stands for the whole group. -/
def lanesMeet (x : LaneRef) (n : Nat) (y : LaneRef) (k : Nat) : Bool :=
  (x.lane == y.lane || x.lane == 128 || y.lane == 128) && decide (x.loc < y.loc + k) && decide (y.loc < x.loc + n)

/-- Whether an earlier access of the group to a common byte has still to be performed (R123). -/
def earlierMeets (g : Group) (o : MemOp) : Bool :=
  g.ops.any fun p => decide (p.id < o.id) && p.sp == o.sp && (p.kind.writes || o.kind.writes) &&
    p.lanes.any fun x => o.lanes.any fun y => lanesMeet x p.kind.bytes y o.kind.bytes

/-- The DEV pages of an operation. -/
def devPages (o : MemOp) : List Nat := (o.lanes.filter fun r => r.mt == .dev).map fun r => r.page

/-- Whether an earlier access of the core to one of the operation's DEV pages has still to be performed (R309). -/
def earlierDev (s : State) (core : Nat) (o : MemOp) : Bool :=
  let ps := devPages o
  !ps.isEmpty && s.groups.any fun g => g.core == core && g.ops.any fun p => decide (p.id < o.id) && (devPages p).any ps.contains

/-- Whether an operation may be performed now. -/
def opTurn (s : State) (g : Group) (o : MemOp) : Bool :=
  !earlierMeets g o && !earlierDev s g.core o && !logStalled s o.id

/-- An outstanding operation of a group by name. -/
def opNamed (s : State) (core slot id : Nat) : Option (Group × MemOp) :=
  (groupAt s core slot).bind fun g => (g.ops.find? fun o => o.id == id).map fun o => (g, o)

/-- Ends an operation and its counter's share (R15). -/
def finishOp (s : State) (core slot id : Nat) : State := updGroup s core slot fun g => endOp g id

/-- Some lanes of an outstanding operation trap, each with cause and address (R122, R336, R347): they leave it, and the
others go on. A lane of the whole group stands for every lane of its slot (R128). -/
def trapLanes (s0 : State) (core slot id : Nat) (bad : LaneRef → Option (Nat × Nat)) : State :=
  match opNamed s0 core slot id with
  | none => s0
  | some (g0, o) =>
    let s := dropAhead s0 core slot
    let left := o.lanes.filter fun r => (bad r).isNone
    let g := { (if left.isEmpty then endOp g0 id else
      { g0 with ops := g0.ops.map fun p => if p.id == id then { p with lanes := left } else p }) with batch := none }
    let fs : List (Nat × Nat × Nat) := o.lanes.flatMap fun r => match bad r with
      | some f => (if r.lane = 128 then lanesIn (pcSlot g o.pcs).mask else [r.lane]).map fun l => (l, f)
      | none => []
    takeTrap (reportLanes s g fs) g o.pcs
      ⟨fs.foldl (fun a f => min a f.2.1) 0x100, faultsMask fs, (fs.head?.map fun f => f.2.2).getD 0,
        (match o.kind with
          | .loadU _ => 0xFF
          | _ => o.dst), fs.map fun f => (f.1, f.2.2), o.pc, o.idx, o.hdr, false⟩

end Sys2Proof.Machine
end

