-- ==== Sys2Proof/Machine/Reduce.lean ====
section
/-!
DEFINITION. Reductions (R134, R135) and the reduction tree (R330 to R332).
-/

namespace Sys2Proof.Machine

/-- The environment of reductions: nearest even, subnormals kept (R64, R134). -/
def redEnv : RndEnv := ⟨.ne, false, false⟩

/-- FP32 addition at memory. -/
def addF32At (a b : Word) : Word := BitVec.ofNat 32 (addRes fp32 redEnv (fpRead fp32 a.toNat) (fpRead fp32 b.toNat)).bits

/-- BF16 addition of both halves. -/
def addBf16At (a b : Word) : Word :=
  BitVec.ofNat 32 (packHalves fun i => addRes bf16 redEnv (fpRead bf16 (halfOf a i)) (fpRead bf16 (halfOf b i))).bits

/-- FP32 minimum or maximum. -/
def minMaxAt (wantMax : Bool) (a b : Word) : Word := BitVec.ofNat 32 (minMaxRes fp32 redEnv wantMax a.toNat b.toNat)

/-- One operation of a red form (R134), on 64-bit values; the 32-bit forms use the low word. -/
def redCombine (form : RedForm) (a b : DWord) : DWord :=
  let on32 (f : Word → Word → Word) : DWord := (f (loWord a) (loWord b)).zeroExtend 64
  match form with
  | .addF32 => on32 addF32At
  | .addBf16x2 => on32 addBf16At
  | .addI32 => on32 (· + ·)
  | .addI64 => a + b
  | .minF32 => on32 (minMaxAt false)
  | .maxF32 => on32 (minMaxAt true)

/-- The place of a form in the order of F. -/
def RedForm.code : RedForm → Nat
  | .addF32 => 0
  | .addBf16x2 => 1
  | .addI32 => 2
  | .addI64 => 3
  | .minF32 => 4
  | .maxF32 => 5

/-- The bytes of a form's word. -/
def RedForm.size : RedForm → Nat
  | .addI64 => 8
  | _ => 4

/-- Two contributions of which either may be absent (R135, R331). -/
def redJoin (form : RedForm) : Option DWord → Option DWord → Option DWord
  | some a, some b => some (redCombine form a b)
  | some a, none => some a
  | none, b => b

/-- One level of the tree over lanes: neighbours pair. -/
def redPairs (form : RedForm) : List (Option DWord) → List (Option DWord)
  | a :: b :: rest => redJoin form a b :: redPairs form rest
  | rest => rest

/-- The tree over the lanes of one instruction (R135): seven levels over 128 lanes. -/
def redTree (form : RedForm) (vals : List (Option DWord)) : Option DWord :=
  (((List.range 7).foldl (fun v _ => redPairs form v) vals).head?).getD none

/-- The value that one instruction contributes to a word. -/
def redInstr (form : RedForm) (refs : List LaneRef) (loc : Nat) : Option DWord :=
  redTree form (perLane fun l => (refs.find? fun r => r.lane == l && r.loc == loc).map fun r =>
    joinWords (r.data.getD 0 0) (if form.size = 8 then r.data.getD 1 0 else 0))

/-! ## Nodes (R330) -/

/-- The slice that holds a word's entries. -/
def redSlice (loc va : Nat) : Nat := if homeOf loc = 0 then sliceOf loc else sliceOf va

/-- Entries of a slice in use. -/
def redUsed (s : State) (slice : Nat) : Nat := (s.reds.filter fun n => redSlice n.loc n.va == slice).length

/-- The node of a group for a word: episodes of a ray grid are numbered by the order in which the sorter formed them. -/
def groupNode (g : Group) (form : RedForm) (r : LaneRef) : RedNode :=
  ⟨g.ctx, g.grid, r.loc, r.va, r.mt, form, 0, if isEpisode g then 0xFFFFFFFF else g.cluster, g.team,
    if isEpisode g then g.waveSeq else g.index, none, 0, false, 0⟩

/-- Whether two nodes are the same place of one tree. -/
def RedNode.same (a b : RedNode) : Bool :=
  a.ctx == b.ctx && a.grid == b.grid && a.loc == b.loc && a.form == b.form && a.level == b.level && a.cluster == b.cluster &&
  a.team == b.team && a.index == b.index

/-- Whether two nodes belong to one tree. -/
def RedNode.tree (a b : RedNode) : Bool := a.ctx == b.ctx && a.grid == b.grid && a.loc == b.loc && a.form == b.form

/-- Whether a place (cluster, team, index) lies under an earlier child of the parent of a node of a level. -/
def RedNode.earlier (n : RedNode) (cluster team index : Nat) : Bool := match n.level with
  | 0 => cluster == n.cluster && team == n.team && decide (index < n.index)
  | 1 => cluster == n.cluster && decide (team < n.team)
  | _ => decide (cluster < n.cluster)

/-- Whether a replay still has to form a wave of a grid that comes before one in the ring (R331, R346). -/
def waveBefore (s : State) (ctx grid seq : Nat) : Bool := logMode s ctx == 2 &&
  (replayRecs s ctx).any fun r => r.type == 5 && recSane r && unmatched s ctx r && r.dev == (s.devId == 1) &&
    bitsOf (r.word 1) 32 32 == grid && decide (r.seq < seq)

/-- Whether every earlier child of a node's parent has been folded or can no longer contribute (R331). Episodes of a ray
grid fold in the order in which the sorter formed them, in a replay in the ring order of their records (R346). -/
def foldTurn (s : State) (n : RedNode) : Bool :=
  if n.cluster = 0xFFFFFFFF then
    !waveBefore s n.ctx n.grid n.index && !(s.reds.any fun a => a.tree n && a.level == 0 && decide (a.index < n.index)) &&
    !(s.groups.any fun g => g.ctx == n.ctx && g.grid == n.grid && isEpisode g && g.waitingSince.isNone && decide (g.waveSeq < n.index))
  else !(s.reds.any fun a => a.tree n && decide (a.level ≤ n.level) && n.earlier a.cluster a.team a.index) &&
    !(s.groups.any fun g => g.ctx == n.ctx && g.grid == n.grid && !isEpisode g && n.earlier g.cluster g.team g.index)

/-- Whether a node's turn has come in every fold from itself up to its root (R332). -/
def redTurn (s : State) (n : RedNode) : Bool :=
  if n.cluster = 0xFFFFFFFF then foldTurn s n
  else (List.range 3).all fun level => decide (level < n.level) || foldTurn s { n with level }

/-- Whether a red's new entries fit: the last 16 of a slice are kept for nodes whose turn has come (R332). -/
def redRoom (s : State) (g : Group) (form : RedForm) (refs : List LaneRef) : Bool :=
  let new := refs.filter fun r => !(s.reds.any fun n => n.same (groupNode g form r))
  new.all fun r =>
    let want := ((new.filter fun x => redSlice x.loc x.va == redSlice r.loc r.va).map LaneRef.loc).dedup.length
    let free := 1024 - redUsed s (redSlice r.loc r.va)
    decide (want + 16 ≤ free) || (decide (want ≤ free) && redTurn s (groupNode g form r))

/-- Adds one instruction's contribution to a word to its group's partial (R135). -/
def redAdd (s : State) (g : Group) (form : RedForm) (refs : List LaneRef) (r : LaneRef) : State :=
  let node := groupNode g form r
  let v := redInstr form refs r.loc
  if s.reds.any fun n => n.same node && !n.closed then
    { s with reds := s.reds.map fun n => if n.same node && !n.closed then { n with partialSum := redJoin form n.partialSum v, next := n.next + 1 } else n }
  else { s with reds := s.reds ++ [{ node with partialSum := v, next := 1, born := s.nextId }] }

/-- Adds the contributions of one instruction, word by word. -/
def redAddAll (s : State) (g : Group) (form : RedForm) (refs : List LaneRef) : State :=
  (refs.foldl (fun (acc : List LaneRef) r => if acc.any fun x => x.loc == r.loc then acc else acc ++ [r]) []).foldl
    (fun s r => redAdd s g form refs r) s

/-- A group's partials close, at its end or at the end of its episode (R135). -/
def closeReds (s : State) (g : Group) : State :=
  { s with reds := s.reds.map fun n =>
      if n.level = 0 ∧ n.ctx = g.ctx ∧ n.grid = g.grid ∧
        (if isEpisode g then n.cluster = 0xFFFFFFFF ∧ n.index = g.waveSeq
         else n.cluster = g.cluster ∧ n.team = g.team ∧ n.index = g.index) then { n with closed := true } else n }

/-! ## Folds (R331) -/

/-- The place that a node folds into: a team, a cluster, or the grid; an episode folds into the grid. -/
def parentOf (n : RedNode) : RedNode :=
  if n.cluster = 0xFFFFFFFF then { n with level := 3, cluster := 0xFFFFFFFF, team := 0, index := 0 }
  else match n.level with
    | 0 => { n with level := 1, index := n.team }
    | 1 => { n with level := 2, team := 0, index := n.cluster }
    | _ => { n with level := 3, cluster := 0, team := 0, index := 0 }

/-- Whether a node is closed: a group's by its end, a higher one when nothing below it can still come. -/
def redClosed (s : State) (n : RedNode) : Bool :=
  if n.level = 0 then n.closed
  else !(s.reds.any fun a => a.tree n && decide (a.level < n.level) && a.cluster == n.cluster && (n.level == 2 || a.team == n.team)) &&
    !(s.groups.any fun g => g.ctx == n.ctx && g.grid == n.grid && !isEpisode g && g.cluster == n.cluster &&
      (n.level == 2 || g.team == n.team))

/-- Folds a closed node whose turn has come into its parent, whose entry it becomes when there is none (R331). -/
def foldNode (s : State) (n : RedNode) : State :=
  let p := parentOf n
  let rest := s.reds.filter fun x => x ≠ n
  if rest.any fun x => x.same p then
    { s with reds := rest.map fun x => if x.same p then
        { x with partialSum := redJoin x.form x.partialSum n.partialSum, next := n.index + 1, born := min x.born n.born } else x }
  else { s with reds := rest ++ [{ p with partialSum := n.partialSum, next := n.index + 1, closed := false }] }

/-- RED_NODE_FOLD (R331): the entry at a place of the table folds when it is closed and its turn has come. -/
def execRedNodeFold (idx : Nat) (s : State) : Res :=
  match s.reds[idx]? with
  | some n => if n.level < 3 ∧ redClosed s n ∧ foldTurn s n then .next (foldNode s n) else .next s
  | none => .next s

/-! ## Roots (R331) -/

/-- The roots of a grid in the order in which they are combined with memory. -/
def rootsOf (s : State) (ctx grid : Nat) : List RedNode :=
  (s.reds.filter fun n => n.ctx == ctx && n.grid == grid && n.level == 3).mergeSort
    fun a b => decide (a.form.code < b.form.code) || (a.form.code == b.form.code && decide (a.loc ≤ b.loc))

/-- Whether every contribution of a grid has reached a root. -/
def rootsOnly (s : State) (ctx grid : Nat) : Bool :=
  (s.reds.all fun n => !(n.ctx == ctx && n.grid == grid) || n.level == 3)

/-- The words of a root. -/
def rootWords (n : RedNode) : List Nat := if n.form.size = 8 then [n.loc, n.loc + 4] else [n.loc]

/-- Whether a root can be combined with its words: none is registered to a unit that has first to give it back, and the
host holds no line of them (R286). -/
def rootReady (s : State) (n : RedNode) : Bool :=
  (homeOf n.loc == 1 && twinGone s) || (allVal s (rootWords n) && (snoopLines s (rootWords n)).isEmpty)

/-- What a root asks for first at the home of its words: their recall, and the host's answer (R286, R328). -/
def rootAsks (s : State) (n : RedNode) : State :=
  let s1 := recallWords s (rootWords n)
  (snoopFirst s1 (rootWords n)).getD s1

/-- Words are claimed for an atomic at their home: what may overlook its write goes (item 2 of R302), and the RDC holds a
host-homed line exclusive (R275). -/
def claimWords (s : State) (ws : List Nat) : State := ws.foldl (fun s w =>
  let s := overtake s w 0xF
  if homeOf w = 2 then putHostLine s (lineBase w) (takeHostLine s (lineBase w)) else s) s

/-- The value on which an atomic at a word's home acts; with a twin that has failed it is the RDC's (R336). -/
def rmwWord (s : State) (w : Nat) : Word × Bool :=
  if homeOf w == 1 && twinGone s then ((heldBytes s .rdc w).1, (heldBytes s .rdc w).2.2) else newest s w

/-- A root combination at the home, or in the RDC for host words, an atomic of the word (R331). -/
def rootCombine (s0 : State) (n : RedNode) : State :=
  let s := claimWords s0 (rootWords n)
  let one (w : Nat) : Word × Bool := rmwWord s w
  let old := joinWords (one n.loc).1 (if n.form.size = 8 then (one (n.loc + 4)).1 else 0)
  let new := match n.partialSum with
    | some v => redCombine n.form old v
    | none => old
  let put (s : State) (w : Nat) (v : Word) (p : Bool) : State := homeWrite s w 0xF v p (some n.ctx) none
  let s1 := put s n.loc (loWord new) (one n.loc).2
  if n.form.size = 8 then put s1 (n.loc + 4) (hiWord new) (one (n.loc + 4)).2 else s1

/-- The log's part in a root combination: other actors' runs on the word end, and the combination is a run of one with
ROOT set (R342); in replay its record must be the word's next (R346). -/
def rootLog (s : State) (n : RedNode) : LogGo :=
  let wide := n.form.size == 8
  match endRuns s n.loc n.form.size stallRoot fun _ => false with
  | .error c => .stall c
  | .ok s => match logMode s n.ctx with
    | 1 =>
      if logReady s n.ctx 2 then
        .go (unstall (logWrite s n.ctx 0x04 (agentWord n.grid) [atomWord n.va wide true, 1]) n.ctx stallRoot)
      else .stall n.ctx
    | 2 =>
      match nextRec s n.ctx 0x04 fun r => (r.word 2).toNat % 2 ^ 48 == n.va && (r.word 2).getLsbD 49 == wide with
      | none => .diverge
      | some r => if (r.word 2).getLsbD 48 && r.word 1 == agentWord n.grid then .go (matchRec s n.ctx r) else .stall n.ctx
    | _ => .go s

end Sys2Proof.Machine
end

