-- ==== Sys2Proof/Machine/Tensor.lean ====
section
/-!
DEFINITION. The fields of a tensor record (R57, R58, R157).
-/

namespace Sys2Proof.Machine

/-- Bits of an element of an operand format (R57, R58). -/
def elemBits (fmt : Nat) : Nat := match fmt with
  | 0x00 => 32
  | 0x01 => 16
  | 0x02 => 16
  | 0x05 => 6
  | 0x06 => 6
  | 0x10 => 6
  | 0x11 => 6
  | 0x07 => 4
  | 0x0A => 4
  | 0x0B => 4
  | 0x0D => 4
  | 0x12 => 4
  | 0x0E => 2
  | _ => 8

/-- A tensor record of 16 words. -/
structure Tensor where
  w : List Word

/-- Fields of a record. -/
def Tensor.d (t : Tensor) (i : Nat) : DWord := dwordAt t.w (2 * i)
def Tensor.sp (t : Tensor) : Bool := (t.d 0).getLsbD 63
def Tensor.base (t : Tensor) : Nat := bitsOf (t.d 0) 0 48
def Tensor.fmt (t : Tensor) : Nat := bitsOf (t.d 1) 0 5
def Tensor.rank (t : Tensor) : Nat := bitsOf (t.d 1) 8 8
def Tensor.dim (t : Tensor) (i : Nat) : Nat := (t.w.getD (3 + i) 0).toNat
def Tensor.stride (t : Tensor) (i : Nat) : Nat := bitsOf (t.d (3 + i)) 0 48
def Tensor.meta_ (t : Tensor) : DWord := t.d 7

/-- Bytes of a row along dimension 0. -/
def Tensor.rowBytes (t : Tensor) : Nat := ceilDiv (t.dim 0 * elemBits t.fmt) 8

/-- The end of a tensor's elements. -/
def Tensor.extent (t : Tensor) : Nat :=
  t.base + (t.dim 1 - 1) * t.stride 1 + (t.dim 2 - 1) * t.stride 2 + (t.dim 3 - 1) * t.stride 3 + t.rowBytes

end Sys2Proof.Machine
end

