-- ==== Sys2Proof/Machine/MemRun.lean ====
section
/-!
DEFINITION. The completion of memory operations: loads and atomics (LOAD_COMPLETE), stores, reductions, barriers and
drains (STORE_COMPLETE), by memory type and at the coherence point (R121 to R132, R142 to R144, R309, R328).
-/

namespace Sys2Proof.Machine

/-! ## Loads -/

/-- The words that a lane loads, in ascending order, when all are at hand: discarded pages read zero (R274), DEV and SOR
pages are read at the home (R309), others through the L1 (R320). -/
def laneWords (s : State) (g : Group) (o : MemOp) (r : LaneRef) : Option (List (Word × Bool)) :=
  (accWords r.loc o.kind.bytes).mapM fun w =>
    if o.sp then (teamOfGroup s g).map fun t => spWord t w
    else if r.zero then some (0, false)
    else if r.mt = .dev ∨ r.mt = .sor then some (newest s w)
    else l1Load s g.core w (needMask r.loc o.kind.bytes)

/-- A byte or halfword of a word, extended (R127). -/
def subWord (w : Word) (ofs bytes : Nat) (signed : Bool) : Word :=
  let v := (w >>> (8 * ofs)).toNat % 2 ^ (8 * bytes)
  if signed then BitVec.ofInt 32 (if v < 2 ^ (8 * bytes - 1) then (v : Int) else v - 2 ^ (8 * bytes)) else BitVec.ofNat 32 v

/-- A lane with the words that reached it. -/
abbrev Loaded := LaneRef × List (Word × Bool)

/-- Every lane's words, if all have arrived. -/
def loadedAll (s : State) (g : Group) (o : MemOp) : Option (List Loaded) :=
  o.lanes.mapM fun r => (laneWords s g o r).map fun ws => (r, ws)

/-- The lanes of a list that a mask is built of. -/
def loadMask (xs : List Loaded) : Mask := maskOf fun l => xs.any fun x => x.1.lane == l

/-- Word `i` of a lane's data, with its poison. -/
def loadedWord (xs : List Loaded) (i l : Nat) : Word × Bool :=
  match xs.find? fun x => x.1.lane == l with
  | some x => x.2.getD i (0, false)
  | none => (0, false)

/-- Writes a load's data to its destination run, poison included (R125, R127). -/
def deliverVec (g : Group) (dst bytes : Nat) (signed : Bool) (xs : List Loaded) : Group :=
  let act := loadMask xs
  (List.range (ceilDiv bytes 4)).foldl (fun g i =>
    let val (l : Nat) : Word :=
      if bytes < 4 then subWord (loadedWord xs i l).1 (((xs.find? fun x => x.1.lane == l).map fun x => x.1.loc % 4).getD 0) bytes signed
      else (loadedWord xs i l).1
    poisonV (setV g (dst + i) act val) (dst + i) (act &&& maskOf fun l => (loadedWord xs i l).2)) g

/-- Writes a group's load to its scalars; a scalar that receives poisoned bytes is marked (R126, R128). -/
def deliverScalars (g : Group) (dst bytes : Nat) (ws : List (Word × Bool)) : Group :=
  let w (i : Nat) : Word × Bool := ws.getD i (0, false)
  if bytes = 4 then
    let g := setS g dst ((w 0).1.zeroExtend 64)
    if (w 0).2 then { g with sPoison := tput g.sPoison dst true } else g
  else (List.range (bytes / 8)).foldl (fun g i =>
    let g := setS g (dst + i) (joinWords (w (2 * i)).1 (w (2 * i + 1)).1)
    if (w (2 * i)).2 || (w (2 * i + 1)).2 then { g with sPoison := tput g.sPoison (dst + i) true } else g) g

/-- The stamp that came with the bytes of a word that a core's load returns, if any of them was obtained from the home or an
owner (R345). -/
def stampOf (s : State) (core w : Nat) (need : BitVec 4) : Option Stamp := match l1Copy s core w with
  | some c => if need &&& ~~~c.mask = 0 then none else c.stamp
  | none => none

/-- The lanes of a load that race, with the address of the first word that does (R345). -/
def racingLanes (s : State) (g : Group) (o : MemOp) : List (Nat × Nat) :=
  if o.sp ∨ logMode s g.ctx ≠ 1 then []
  else o.lanes.filterMap fun r =>
    if r.zero ∨ r.mt = .dev ∨ r.mt = .sor then none
    else ((accWords r.loc o.kind.bytes).find? fun w =>
      racy s g.ctx g.core (stampOf s g.core w (needMask r.loc o.kind.bytes))).map fun w =>
      (r.lane, (r.va / 4 * 4 + w - wordBase r.loc) % 2 ^ 48)

/-- What reaches a group's registers reaches those of its run-ahead too (R280). -/
def alsoAhead (s : State) (core slot : Nat) (f : Group → Group) : State :=
  { s with ahead := s.ahead.map fun a => if a.core == core && a.slot == slot then f a else a }

/-- Delivers data to a group and its run-ahead. -/
def deliver (s : State) (g : Group) (f : Group → Group) : State := alsoAhead (updGroup s g.core g.slot f) g.core g.slot f

/-- Ends a load, with a RACE record when lanes raced (R342, R345). -/
def endLoad (s : State) (g : Group) (o : MemOp) (races : List (Nat × Nat)) : State :=
  match races with
  | [] => finishOp s g.core g.slot o.id
  | r :: _ => recordOp s g.ctx 0x07 (actorWord g)
      [BitVec.ofNat 64 (r.2 + min races.length 128 * 2 ^ 48), BitVec.ofNat 64 o.pc] g.core g.slot o.id

/-- The words that an operation's lanes reach at their homes: those of DEV and SOR pages (R309). -/
def devWords (o : MemOp) : List Nat :=
  if o.sp then []
  else o.lanes.flatMap fun r => if (r.mt == .dev || r.mt == .sor) && !r.zero then accWords r.loc o.kind.bytes else []

/-- The data of a load reaches its destination, or the lines still missing are asked for (R121, R320). A load at the home
first has the host give its lines up (R286); what the core reads afterwards is no older (item 3 of R302). -/
def completeLoad (s0 : State) (g : Group) (o : MemOp) : State :=
  match snoopFirst s0 (devWords o), loadedAll s0 g o with
  | some s1, _ => s1
  | none, none => askOp s0 g.core o.kind.bytes o.lanes
  | none, some xs =>
    let s := (devWords o).foldl readHome s0
    let races := racingLanes s g o
    if !races.isEmpty && logHeld s g then s0
    else match o.kind with
    | .load bytes signed => endLoad (deliver s g fun g => deliverVec g o.dst bytes signed xs) g o races
    | .loadU bytes => endLoad (deliver s g fun g => deliverScalars g o.dst bytes ((xs.head?.map Prod.snd).getD [])) g o races
    | _ => s

/-! ## Atomics (R131, R132, R328) -/

/-- The new value of an atomic word (R131): `d` the operand, `c` the compare value. -/
def atomNew (fn : AtomFn) (bytes : Nat) (old d c : DWord) : DWord :=
  let on32 (f : Word → Word → Word) : DWord := (f (loWord old) (loWord d)).zeroExtend 64
  match fn with
  | .add => if bytes = 8 then old + d else on32 (· + ·)
  | .minS => on32 fun a b => if a.slt b then a else b
  | .maxS => on32 fun a b => if a.slt b then b else a
  | .minU => on32 fun a b => if a.ult b then a else b
  | .maxU => on32 fun a b => if a.ult b then b else a
  | .and => on32 (· &&& ·)
  | .or => on32 (· ||| ·)
  | .xor => on32 (· ^^^ ·)
  | .xchg => d
  | .cas => if (if bytes = 8 then old == c else loWord old == loWord c) then d else old

/-- Whether a word is homed on a twin that has failed: what the RDC holds of it is all there is (R336). -/
def orphanHome (s : State) (w : Nat) : Bool := homeOf w == 1 && twinGone s

/-- Whether a lane's atomic is performed in the core's L1 (R328). -/
def atomInL1 (s : State) (r : LaneRef) : Bool := r.mt == .nrm && decide (homeOf r.loc < 2) && !orphanHome s r.loc

/-- Whether a core holds the words of an atomic registered, and none is about to be taken from it by a transfer that is on its
way; words in `came` have just arrived (R327, R328). -/
def atomHeld (s : State) (core : Nat) (came : List Nat) (r : LaneRef) (bytes : Nat) : Bool :=
  (accWords r.loc bytes).all fun w =>
    regHeld (l1Copy s core w) && (came.contains w || !handedOn s (.core core) fun x => x == w)

/-- The bytes of a word that a core's ATQ carries: its own dirty ones over those that the RDC holds dirty (R328, R333). -/
def atqBytes (s : State) (core w : Nat) : Option WordVal :=
  let part (c : Option Copy) (older : Option WordVal) : Option WordVal := match c with
    | some ⟨.drt, v, m, _, p, _⟩ => some (match older with
      | some x => ⟨w, mergeBytes m v x.val, m ||| x.mask, p || x.poison, none⟩
      | none => ⟨w, v, m, p, none⟩)
    | _ => older
  part (l1Copy s core w) (part (rdcCopy s w) none)

/-- What ATQ leaves of a copy whose dirty bytes it carries: a clean one. -/
def cleanDirty (s : State) (who : Agent) (w : Nat) : State := match copyAt s who w with
  | some c => if c.st = CopySt.drt then putCopy s who w { c with st := .cln, mask := 0 } else s
  | none => s

/-- Sends ATQ for words of one atomic at an address, with the core's dirty bytes of them, which enter the order first
(R328). -/
def sendAtq (s : State) (core ctx va : Nat) (ws : List Nat) : State :=
  if ws.any (atqPending s core) then s
  else
    let w0 := ws.headD 0
    let s1 := ws.foldl (fun s w => cleanDirty (cleanDirty s (.core core) w) .rdc w) s
    send (voidFills s1 (.core core) fun l => l == lineBase w0)
      { kind := .atq, src := .core core, dst := homeAgent w0, addr := lineBase w0, who := .core core, ctx := some ctx, tag := va,
        words := ws, vals := ws.filterMap (atqBytes s core) }

/-- Where an atomic is not performed in the L1, what has to come first: the core's dirty bytes of a host-homed word reach
the RDC, which takes the line exclusive (R275). -/
def atomPrepare (s : State) (core ctx : Nat) (r : LaneRef) (bytes : Nat) : State :=
  (accWords r.loc bytes).foldl (fun s w =>
    if homeOf w = 2 then
      let s1 := match (l1Copy s core w : Option Copy) with
        | some c => if c.st = CopySt.drt then moveAway s core ctx w c else s
        | none => s
      putHostLine s1 (lineBase w) (takeHostLine s1 (lineBase w))
    else if orphanHome s w then (match (l1Copy s core w : Option Copy) with
      | some c => if c.st = CopySt.drt then moveAway s core ctx w c else s
      | none => s)
    else s) s

/-- The 64-bit old value of an atomic's word, with its poison mark. -/
def atomOld (s : State) (core : Nat) (r : LaneRef) (bytes : Nat) : DWord × Bool :=
  let one (w : Nat) : Word × Bool :=
    if atomInL1 s r then (l1Load s core w 0xF).getD (0, false)
    else if orphanHome s w then ((heldBytes s .rdc w).1, (heldBytes s .rdc w).2.2) else newest s w
  if bytes = 8 then (joinWords (one r.loc).1 (one (r.loc + 4)).1, (one r.loc).2 || (one (r.loc + 4)).2)
  else ((one r.loc).1.zeroExtend 64, (one r.loc).2)

/-- Writes an atomic's word where it is performed. -/
def atomPut (s : State) (core ctx : Nat) (r : LaneRef) (bytes : Nat) (v : DWord) (poison : Bool) : State :=
  let one (s0 : State) (w : Nat) (x : Word) : State :=
    let s := overtake s0 w (if atomInL1 s0 r then 0 else 0xF)
    if atomInL1 s r then l1Store s core ctx w 0xF x poison else homeWrite s w 0xF x poison (some ctx) (some core)
  if bytes = 8 then one (one s r.loc (loWord v)) (r.loc + 4) (hiWord v) else one s r.loc (loWord v)

/-- One lane of an atomic, with its old value into D and its place among those waiting given up. -/
def atomLane (s : State) (core slot id : Nat) (fn : AtomFn) (bytes : Nat) (r : LaneRef) : State :=
  match opNamed s core slot id with
  | none => s
  | some (g, o) =>
    match atomLog s g (r.va / bytes * bytes % 2 ^ 48) (r.loc / bytes * bytes) (bytes == 8) id with
    | .stall c => if logMode s c = 1 then stallAt s c (stallOp id) else s
    | .diverge => trapLanes (meetBad s g.ctx) core slot id fun x => if x.loc = r.loc then some (0x50, 0xFFFFFFFF) else none
    | .go s =>
      let s := if atomInL1 s r then s else atomPrepare s core g.ctx r bytes
      let old := atomOld s core r bytes
      let n := bytes / 4
      let new := atomNew fn bytes old.1 (joinWords (r.data.getD 0 0) (r.data.getD 1 0))
        (joinWords (r.data.getD n 0) (r.data.getD (n + 1) 0))
      let s := atomPut s core g.ctx r bytes (if n = 1 then (loWord new).zeroExtend 64 else new) old.2
      let only : Mask := maskOf fun l => l == r.lane
      deliver s g fun g =>
        let g := setV g o.dst only fun _ => loWord old.1
        let g := if n = 2 then setV g (o.dst + 1) only fun _ => hiWord old.1 else g
        let g := if old.2 then poisonV (if n = 2 then poisonV g (o.dst + 1) only else g) o.dst only else g
        { g with ops := g.ops.map fun p => if p.id == id then { p with lanes := p.lanes.filter fun x => x.lane ≠ r.lane } else p }

/-- The lanes of an atomic whose turn it is: for each word the lowest that waits on it (R132). -/
def firstLanes (o : MemOp) : List LaneRef :=
  o.lanes.filter fun r => !(o.lanes.any fun x => x.loc == r.loc && decide (x.lane < r.lane))

/-- One pass (R132): for each word the lowest lane that waits on it, where the word is at hand; ATQ for the others, and for
a word at its home a recall where it is registered through another mapping (R328) and the host's answer where the host holds
its line (R286). -/
def atomPass (s : State) (g : Group) (o : MemOp) (fn : AtomFn) (bytes : Nat) (came : List Nat) : State :=
  let s := (firstLanes o).foldl (fun s r =>
    let ws := accWords r.loc bytes
    if atomInL1 s r then
      (if atomHeld s g.core came r bytes then atomLane s g.core g.slot o.id fn bytes r
       else sendAtq s g.core g.ctx (r.va / bytes * bytes % 2 ^ 48) (ws.filter fun w => !regHeld (l1Copy s g.core w)))
    else if orphanHome s r.loc then atomLane s g.core g.slot o.id fn bytes r
    else if allVal s ws then (match snoopFirst s ws with
      | some s' => s'
      | none => atomLane s g.core g.slot o.id fn bytes r)
    else recallWords s ws) s
  match opNamed s g.core g.slot o.id with
  | some (_, o) => if o.lanes.isEmpty then finishOp s g.core g.slot o.id else s
  | none => s

/-- The oldest atomic of a core that may act and waits for one of some words. -/
def atomFor (s : State) (core : Nat) (ws : List Nat) : Option (Group × MemOp) :=
  let waiting : List (Group × MemOp) := s.groups.flatMap fun g => if g.core = core ∧ logHeld s g = false then (g.ops.filter fun o =>
      (match o.kind with
        | .atom _ _ => opTurn s g o
        | _ => false) && o.lanes.any fun r => atomInL1 s r && (accWords r.loc o.kind.bytes).any ws.contains).map fun o => (g, o) else []
  (waiting.mergeSort fun a b => decide (a.2.id ≤ b.2.id)).head?

/-- The words that have reached a core registered: the oldest atomic that waits for one of them is performed (R328). -/
def runAtoms (s : State) (core : Nat) (ws : List Nat) : State :=
  match atomFor s core ws with
  | none => s
  | some x => match x.2.kind with
    | .atom fn bytes => atomPass s x.1 x.2 fn bytes ws
    | _ => s

/-- The context in whose ring there is no room for what the atomic that waits for some words would write on them, with the
operation (R344). -/
def atomsWait (s : State) (core : Nat) (ws : List Nat) : Option (Nat × Nat) :=
  match atomFor s core ws with
  | none => none
  | some (g, o) =>
    let n := o.kind.bytes
    let mine := (firstLanes o).filter fun r => (accWords r.loc n).any ws.contains
    match mine.foldl (fun (acc : Except Nat State) r => acc.bind fun s =>
        match atomLog s g (r.va / n * n % 2 ^ 48) (r.loc / n * n) (n == 8) o.id with
        | .go s' => .ok s'
        | .stall c => if logMode s c = 1 then .error c else .ok s
        | .diverge => .ok s) (.ok s) with
    | .error c => some (c, o.id)
    | .ok _ => none

/-- The cause for which a lane of an operation under way finds its data lost. -/
def laneLost (s : State) (g : Group) (o : MemOp) (acc : Acc) (r : LaneRef) : Option Nat :=
  if o.sp || r.zero then none
  else (accWords r.loc o.kind.bytes).findSome? fun w => lostCause s (some g.core) w acc (needMask r.loc o.kind.bytes)

/-- The access that an operation makes of the words whose data it brings. -/
def OpKind.acc : OpKind → Option Acc
  | .load _ _ => some .read
  | .loadU _ => some .read
  | .atom _ _ => some .atom
  | _ => none

/-- The cause for which a lane of an operation faults while it is under way: its data has been lost (R320, R336). -/
def lostLane (s : State) (g : Group) (o : MemOp) (r : LaneRef) : Option (Nat × Nat) :=
  (o.kind.acc.bind fun acc => laneLost s g o acc r).map fun k => (k, r.va)

/-- LOAD_COMPLETE (R121, R132): a load's data reaches its lanes, or an atomic performs a pass. Lanes whose data has been
lost while it was under way trap (R320, R336). The atomics of a group that is halted wait in a logging context (R349). -/
def execLoadComplete (core slot id : Nat) (s : State) : Res :=
  match opNamed s core slot id with
  | none => .next s
  | some (g, o) =>
    if o.lanes.any fun r => (lostLane s g o r).isSome then .next (trapLanes s core slot id (lostLane s g o))
    else if opTurn s g o then
      match o.kind with
      | .load _ _ => .next (completeLoad s g o)
      | .loadU _ => .next (completeLoad s g o)
      | .atom fn bytes => .next (if logHeld s g then s else atomPass s g o fn bytes [])
      | _ => .next s
    else .next s

/-! ## Stores -/

/-- The bytes of word `w` that a store of `bytes` at `loc` writes, and their value. -/
def storeWord (loc bytes w : Nat) (data : List Word) : BitVec 4 × Word :=
  if bytes < 4 then (BitVec.ofNat 4 ((2 ^ bytes - 1) * 2 ^ (loc % 4)), (data.getD 0 0) <<< (8 * (loc % 4)))
  else (0xF, data.getD ((w - loc) / 4) 0)

/-- Whether a registration that is on its way from a core names one of two words that move together, and not the other. -/
def regSplit (s : State) (core w : Nat) : Bool :=
  s.msgs.any fun m => m.kind == .reg && m.src == .core core && m.names w != m.names (w + 4)

/-- A store of 8 bytes to a word registered to the core and one that is not: the registered one is given up first, so that
all the bytes enter the order together (R300, R324). While the registration of one of them alone is on its way the store
waits. -/
def evenPair (s : State) (core ctx w : Nat) : Option State :=
  let one (x : Nat) : Option State := match l1Copy s core x with
    | some c => if holdingRoom s (.core core) 1 then some (holdAndSend s (.core core) (some ctx) true [(x, c)]) else none
    | none => some s
  let a := regHeld (l1Copy s core w)
  let b := regHeld (l1Copy s core (w + 4))
  if (a || b) && regSplit s core w then none
  else if a && !b then one w
  else if b && !a then one (w + 4)
  else some s

/-- The words of the lanes of a store that enter an L1. -/
def l1Stores (o : MemOp) : List Nat :=
  if o.sp then [] else o.lanes.flatMap fun r => if r.mt = .nrm then accWords r.loc o.kind.bytes else []

/-- The words of the lanes of a store that reach their homes. -/
def homeStores (o : MemOp) : List Nat :=
  if o.sp then [] else o.lanes.flatMap fun r => if r.mt = .nrm then [] else accWords r.loc o.kind.bytes

/-- What a store at the home waits for, asking for it where that is needed: the host's answer for a line that it holds
(R286), and on DEV and SOR pages the value of an owner that waits for it, and the recall of a registered word of which a part
is written, which every load after the store must find (item 2 of R302). -/
def homeWaits (s : State) (o : MemOp) : Option State :=
  let parts := if o.kind.bytes < 4 then (devWords o).filter fun w => (ownerOf s w).isSome else []
  match snoopFirst s (homeStores o) with
  | some s' => some s'
  | none =>
    if (devWords o).any (ownerWaits s) then some s
    else if parts.isEmpty then none
    else some (recallWords s parts)

/-- What an L1 needs before a store of an operation: a place for each line, and even pairs (R7, R300). -/
def storeReady (s : State) (g : Group) (o : MemOp) : Option State :=
  (l1Reserve s g.core ((l1Stores o).map lineBase)).bind fun s1 =>
    if o.kind.bytes < 8 then some s1
    else ((l1Stores o).filter fun w => w % 8 == 0).foldl (fun acc w => acc.bind fun s => evenPair s g.core g.ctx w) (some s1)

/-- Performs one lane's store: in the L1 on NRM pages, at the home on others, or in the scratchpad (R121, R309). -/
def storeLane (s : State) (g : Group) (o : MemOp) (r : LaneRef) : State :=
  (accWords r.loc o.kind.bytes).foldl (fun s w =>
    let v := storeWord r.loc o.kind.bytes w r.data
    if o.sp then (match teamOfGroup s g with
      | some t => updTeam s t.key fun t => spPut t w v.1 v.2 false
      | none => s)
    else if r.mt = .nrm then l1Store s g.core g.ctx w v.1 v.2 false
    else homeWrite (overtake s w v.1) w v.1 v.2 false (some g.ctx) (some g.core)) s

/-- The lanes of an operation by rising number: the highest writes last (R123). -/
def byLane (o : MemOp) : List LaneRef := o.lanes.mergeSort fun a b => decide (a.lane ≤ b.lane)

/-! ## Barrier words (R142, R143) -/

/-- The phase of a barrier word. -/
def barPhase (w : DWord) : Bool := w.getLsbD 63

/-- The expected count and the arrivals of a barrier word. -/
def barExpected (w : DWord) : Nat := bitsOf w 40 16
def barArrivals (w : DWord) : Nat := bitsOf w 24 16

/-- A barrier word from its fields. -/
def barMake (phase : Bool) (expected arrivals : Nat) : DWord :=
  BitVec.ofNat 64 ((if phase then 2 ^ 63 else 0) + expected % 2 ^ 16 * 2 ^ 40 + arrivals % 2 ^ 16 * 2 ^ 24)

/-- One arrival (R142): the phase inverts when the arrivals reach the expected count. -/
def barArrive (w : DWord) : DWord :=
  if barExpected w ≤ barArrivals w + 1 then barMake (!barPhase w) (barExpected w) 0
  else barMake (barPhase w) (barExpected w) (barArrivals w + 1)

/-- Whether an earlier store, atomic or reduction of the group is outstanding (R143). -/
def earlierWrite (g : Group) (id : Nat) : Bool := g.ops.any fun p => decide (p.id < id) && match p.kind with
  | .store _ => true
  | .atom _ _ => true
  | .red => true
  | _ => false

/-- A step of a barrier operation (R142): its effect on the word, and its end when it has one. -/
def barStep (s : State) (g : Group) (o : MemOp) (t : Team) (form : BarForm) (off arg : Nat) (phase : Option Bool) : State :=
  let w := spDWord t off
  let put (v : DWord) : State := updTeam s t.key fun t => spPutD t off v
  match form with
  | .init => finishOp (put (barMake (barPhase w) arg 0)) g.core g.slot o.id
  | .wait => if barPhase w ≠ (arg % 2 == 1) then finishOp s g.core g.slot o.id else s
  | .arr =>
    if earlierWrite g o.id then s
    else finishOp (updGroup (put (barArrive w)) g.core g.slot fun g => setS g o.dst (if barPhase w then 1 else 0)) g.core g.slot o.id
  | .sync =>
    match phase with
    | some p => if barPhase w ≠ p then finishOp s g.core g.slot o.id else s
    | none =>
      if earlierWrite g o.id then s
      else if barPhase (barArrive w) ≠ barPhase w then finishOp (put (barArrive w)) g.core g.slot o.id
      else updGroup (put (barArrive w)) g.core g.slot fun g =>
        { g with ops := g.ops.map fun p => if p.id == o.id then { p with kind := .bar .sync off arg (some (barPhase w)) } else p }

/-! ## Drains (R144) -/

/-- The code of the home that a drain names; the scratchpad has none. -/
def drainHome : DrainMem → Option Nat
  | .sp => none
  | .loc => some 0
  | .twin => some 1
  | .host => some 2

/-- Whether a range that an engine writes, in the scratchpad or in the memory of a context, can lie in the memory that a drain
names: a page that is not mapped can come to be homed anywhere. -/
def writesTo (s : State) (ctx : Nat) (m : DrainMem) (sp : Bool) (base len : Nat) : Bool := match drainHome m with
  | none => sp
  | some h => !sp && (List.range (ceilDiv (base % 4096 + len) 4096)).any fun i =>
      match xlatNow s ctx noTlb ((base / 4096 + i) * 4096) .write with
      | .ok leaf => homeCode leaf.home == h
      | .error _ => true

/-- Whether what a command of an engine has still to write reaches the memory that a drain names, by its destination: a TCOPY
tells it once it has read its records, a SCATTER only row by row; every command with BAR writes the scratchpad when it
completes (R153, R162). -/
def cmdWrites (s : State) (m : DrainMem) (c : EngCmd) : Bool :=
  let w (i : Nat) : DWord := c.words.getD i 0
  let dst (i len : Nat) : Bool := writesTo s c.ctx m ((w i).getLsbD 63) (bitsOf (w i) 0 48) len
  (m == .sp && (w 0).getLsbD 46) || (c.ended.isNone && match bitsOf (w 0) 56 8 with
    | 1 => dst 2 (bitsOf (w 3) 0 40)
    | 2 => c.recs.isEmpty || (let t : Tensor := ⟨(c.recs.drop 16).map Prod.fst⟩
        writesTo s c.ctx m t.sp t.base (t.extent - t.base))
    | 3 => !(w 5).getLsbD 62 && dst 5 (bitsOf (w 3) 0 32 * bitsOf (w 3) 32 24)
    | 4 => m != .sp
    | 5 => dst 1 (bitsOf (w 3) 0 40)
    | 7 => dst 2 (bitsOf (w 3) 0 32 * 8)
    | _ => false)

/-- Whether what a quadrant's work has still to write reaches the memory that a drain names: drains to scratchpad, a denoise's
results (of 384 columns until it has read its weights), and the signals of work with BAR (R162, R173, R202). -/
def jobWrites (s : State) (m : DrainMem) (j : QuadJob) : Bool :=
  let d (i : Nat) : DWord := j.desc.getD i 0
  match j.kind with
  | .loop => m == .sp && (d 6).getLsbD 47
  | .drainQ => m == .sp && (d 0).getLsbD 60
  | .drainSp => m == .sp && (j.ended.isNone || (d 0).getLsbD 60)
  | .denoise => (m == .sp && (d 3).getLsbD 47) || (j.ended.isNone &&
      writesTo s j.ctx m ((d 2).getLsbD 63) (bitsOf (d 2) 0 48) (128 * if j.recs.isEmpty then 384 else (⟨j.recs⟩ : Tensor).dim 1))
  | .zero => false

/-- Whether a release that the core has begun or is to begin has still to send the named memory what the core, or the RDC,
holds dirty of it (R144, R321). -/
def relWrites (s : State) (core h : Nat) : Bool :=
  ((l1Words s core).any fun e => homeOf e.1 == h && e.2.st == .drt) ||
  (h == 1 && s.rdc.any fun e => e.2.st == .drt) || (h == 2 && s.hostLines.any fun e => e.2.st == .modified)

/-- Whether a write that the core issued before a drain has still to reach the named memory (R144): stores, what its releases
write back or register, and what engine commands, denoises and drains of the core write. -/
def drainBusy (s : State) (core : Nat) (m : DrainMem) (id mark : Nat) : Bool :=
  (s.groups.any fun g => g.core == core && g.ops.any fun o => decide (o.id < id) && o.kind.writes &&
    match drainHome m with
    | none => o.sp
    | some h => !o.sp && o.lanes.any fun r => homeOf r.loc == h && r.mt != .nrm) ||
  (match drainHome m with
    | none => false
    | some h => (s.msgs.any fun x => (x.kind == .wb || x.kind == .mrg || x.kind == .reg) && homeOf x.addr == h &&
        (x.src == .core core || x.src == .rdc) && decide (x.serial < mark)) ||
      (relWrites s core h && s.syncOps.any fun o => o.core == core && decide (o.id < id) && o.rel && o.stage != .inval)) ||
  (s.engines.any fun e => e.2.any fun c => c.core == core && decide (c.id < id) && cmdWrites s m c) ||
  (s.quads.any fun q => q.2.jobs.any fun j => j.core == core && decide (j.id < id) && jobWrites s m j)

/-- STORE_COMPLETE (R121): a store is performed or accepted; the other operations without data to return complete. -/
def execStoreComplete (core slot id : Nat) (s : State) : Res :=
  match opNamed s core slot id with
  | none => .next s
  | some (g, o) =>
    match o.kind with
    | .store _ =>
      if opTurn s g o then
        match homeWaits s o, storeReady s g o with
        | some s1, _ => .next s1
        | none, some s1 => .next (finishOp ((byLane o).foldl (fun s r => storeLane s g o r) s1) core slot id)
        | none, none => .next s
      else .next s
    | .red => .next (finishOp s core slot id)
    | .bar form off arg phase => match teamOfGroup s g with
      | some t => .next (barStep s g o t form off arg phase)
      | none => .next (finishOp s core slot id)
    | .drain m before mark => if drainBusy s core m before mark && (s.isW || m != .twin) then .next s else .next (finishOp s core slot id)
    | _ => .next s

end Sys2Proof.Machine
end

