-- ==== Sys2Proof/Machine/MemInstr.lean ====
section
/-!
DEFINITION. The issue of memory instructions: loads and stores (R127 to R129), prefetches (R130), atomics (R131), the
reductions (R134), the barrier forms (R142), drains (R144) and log marks (R145).
-/

namespace Sys2Proof.Machine

/-! ## Forms -/

/-- Guard and counter as numbers. -/
def ctrOf (c : BitVec 3) : Nat := c.toNat

/-- A per-lane load of `size` bytes into D (R127). -/
def loadForm (f : M) (ox : Option Ox) (size : Nat) (signed sp : Bool) : MemForm :=
  { ox, ctr := ctrOf f.ctr, srcs := [f.a], dsts := runFields f.d (ceilDiv size 4), dst := f.d.toNat, base := f.sb.toNat,
    scals := [], offset := fun g l => (readV g f.a l).toNat, size, acc := .read, sp, group := false,
    kind := .load size signed, data := fun _ _ => [] }

/-- The words of a run in a lane. -/
def runWords (g : Group) (d : BitVec 7) (n l : Nat) : List Word := (runFields d n).map fun f => readV g f l

/-- A per-lane store of `size` bytes from D (R127). -/
def storeForm (f : M) (ox : Option Ox) (size : Nat) (sp : Bool) : MemForm :=
  { ox, ctr := ctrOf f.ctr, srcs := f.a :: runFields f.d (ceilDiv size 4), dsts := [], dst := f.d.toNat, base := f.sb.toNat,
    scals := [], offset := fun g l => (readV g f.a l).toNat, size, acc := .write, sp, group := false, kind := .store size,
    data := fun g l => runWords g f.d (ceilDiv size 4) l }

/-- ldu: a load of the group into scalars (R128). -/
def lduForm (f : MS) (ox : Option Ox) (size : Nat) : MemForm :=
  { ox, ctr := ctrOf f.ctr, srcs := [], dsts := [], dst := f.d.toNat, base := f.sb.toNat, scals := [f.a.toNat],
    offset := fun g _ => (loWord (sReg g f.a.toNat)).toNat, size, acc := .read, sp := false, group := true,
    kind := .loadU size, data := fun _ _ => [] }

/-- stu: a store of the group from a scalar (R128). -/
def stuForm (f : MS) (ox : Option Ox) (size : Nat) : MemForm :=
  { ox, ctr := ctrOf f.ctr, srcs := [], dsts := [], dst := 0xFF, base := f.sb.toNat, scals := [f.a.toNat, f.d.toNat],
    offset := fun g _ => (loWord (sReg g f.a.toNat)).toNat, size, acc := .write, sp := false, group := true,
    kind := .store size, data := fun g _ => [loWord (sReg g f.d.toNat), hiWord (sReg g f.d.toNat)] }

/-- An atomic with operand D and, for cas, compare run C (R131). The data holds both. -/
def atomForm (f : M) (ox : Option Ox) (fn : AtomFn) (size : Nat) (c : List (BitVec 7)) : MemForm :=
  let n := size / 4
  { ox, ctr := ctrOf f.ctr, srcs := f.a :: (runFields f.d n ++ c), dsts := runFields f.d n, dst := f.d.toNat,
    base := f.sb.toNat, scals := [], offset := fun g l => (readV g f.a l).toNat, size, acc := .atom, sp := false,
    group := false, kind := .atom fn size, data := fun g l => runWords g f.d n l ++ c.map fun r => readV g r l }

/-- A reduction with operand D (R134). -/
def redForm (f : M) (ox : Option Ox) (form : RedForm) : MemForm :=
  { ox, ctr := ctrOf f.ctr, srcs := f.a :: runFields f.d (form.size / 4), dsts := [], dst := 0xFF, base := f.sb.toNat,
    scals := [], offset := fun g l => (readV g f.a l).toNat, size := form.size, acc := .atom, sp := false, group := false,
    kind := .red, data := fun g l => runWords g f.d (form.size / 4) l }

/-! ## ldg.t (R129, R278) -/

/-- The active lanes of an ldg.t whose pages no TLB level holds. -/
def tlbMisses (s : State) (g : Group) (m : MemForm) (act : Mask) : List (Nat × Nat) :=
  ((lanesIn act).map fun l => (l, effAddr g m.base (m.offset g l))).filter fun x =>
    x.2 % m.size == 0 && decide (x.2 < 2 ^ 48) && (tlbFind s g.ctx g.core x.2).isNone &&
    !(m.srcs.any fun f => (fieldPoison g f).getLsbD x.1)

/-- The guard predicate after an ldg.t: the same guard selects exactly the lanes that missed. -/
def missGuard (g : Group) (ox : Ox) (act miss : Mask) : Group :=
  let done := act &&& ~~~miss
  let old := pReg g ox.gp.toNat
  setP g ox.gp.toNat (if ox.gn then old ||| done else old &&& ~~~done)

/-- ldg.t with a guard to write: lanes that miss start walks and complete at once, the others load. -/
def ldgT (f : M) (ox : Option Ox) (size : Nat) (s : State) : Res :=
  let m := loadForm f ox size false false
  match ox with
  | none => memIssue m s
  | some x =>
    if x.gp = 0 then memIssue m s
    else memStart m (fun g c act =>
      let miss := tlbMisses s g m act
      let missMask : Mask := maskOf fun l => miss.any fun y => y.1 == l
      let cs := (checkLanes s g m (act &&& ~~~missMask)).filter fun c => match c.2 with
        | .miss _ => false
        | _ => true
      if (okLanes cs).any (fun r => r.mt == .sor) && !g.ops.isEmpty then waits s
      else
        let s := miss.foldl (fun s y => askWalk s g.ctx g.core y.2 true) s
        memFinish m s (missGuard g x act missMask) c (okLanes cs) (faultLanes m act cs)) s

/-! ## Prefetches (R130) -/

/-- The lines that a prefetch asks for: those of the lanes whose addresses translate for a read of an NRM or WCB page. -/
def pfLines (cs : List (Nat × LaneChk)) : List Nat :=
  ((okLanes cs).filterMap fun r => if r.zero || r.mt == .dev || r.mt == .sor then none else some (lineBase r.loc)).dedup

/-- Brings a line into the RDC: the RDC asks its home (R130, R333). -/
def askRdc (s : State) (line : Nat) : State :=
  if asked s .rdc line then s
  else if homeOf line = 3 then s
  else send s { kind := .rdq, src := .rdc, dst := homeAgent line, addr := line, who := .rdc }

/-- A prefetch: it waits for the walks of its lanes, never faults, and its counter goes up and down again as every lane's
request is taken or dropped (R121, R130). DESIGN CHOICE (log entry 146): a poisoned base scalar traps as in every M instruction
(R126), and a lane whose offset is poisoned is dropped. -/
def prefetch (f : MP) (ox : Option Ox) (ask : State → Nat → Nat → State) (s : State) : Res :=
  let m : MemForm :=
    { ox, ctr := ctrOf f.ctr, srcs := [f.a], dsts := [], dst := 0xFF, base := f.sb.toNat, scals := [],
      offset := fun g l => (readV g f.a l).toNat, size := 1, acc := .read, sp := false, group := false, kind := .red,
      data := fun _ _ => [] }
  memStart m (fun g c act =>
    let cs := checkLanes s g m act
    if (missed cs).isEmpty then retire ((pfLines cs).foldl (fun s w => ask s g.core w) (tellFails s g m cs)) { g with batch := none } c
    else .next ((missed cs).foldl (fun s va => askWalk s g.ctx g.core va false) s)) s

/-- The home slice or the RDC takes a line. -/
def askL2 (s : State) (line : Nat) : State :=
  if homeOf line = 0 then (cacheLine s line).getD s else askRdc s line

/-! ## Reductions -/

/-- A red instruction: it waits at issue while the slice of a word has no entry for it (R332); its contribution joins the
group's partial (R135). -/
def redIssue (f : M) (ox : Option Ox) (form : RedForm) (s : State) : Res :=
  let m := redForm f ox form
  memStart m (fun g c act =>
    let cs := checkLanes s g m act
    if (missed cs).isEmpty then
      if !redRoom s g form (okLanes cs) then waits s
      else if (okLanes cs).any (fun r => r.mt == .sor) && !g.ops.isEmpty then waits s
      else memFinish m (redAddAll s g form (okLanes cs)) g c (okLanes cs) (faultLanes m act cs)
    else .next ((missed cs).foldl (fun s va => askWalk s g.ctx g.core va false) s)) s

/-! ## Forms of the group: barriers, drains, marks -/

/-- Issues a form that acts once for the group, only if one of its lanes is active, and leaves an operation outstanding
(R42). -/
def groupIssueFor (ctr : BitVec 3) (lanes : Group → Clause → Mask) (scals : List Nat) (k : Group → Clause → Mask → Res)
    (s : State) : Res :=
  withIssuer s fun g c =>
    if 63 ≤ cnt g ctr.toNat || acqHeld s g || sorHeld g then waits s
    else if lanes g c = 0 then retire s g c
    else if scals.any fun n => tget g.sPoison n false then trapAt s g c 0x70 (execMask g c) 0xFF 0 []
    else k g c (lanes g c)

/-- The same for a form of which every active lane counts. -/
def groupIssue (ctr : BitVec 3) (ox : Option Ox) (scals : List Nat) (k : Group → Clause → Mask → Res) (s : State) : Res :=
  groupIssueFor ctr (fun g c => activeMask g c ox) scals k s

/-- Retires an instruction of the group with an operation outstanding. -/
def retireOp (s : State) (g : Group) (c : Clause) (ctr : BitVec 3) (kind : OpKind) (dst : Nat) : Res :=
  retire { s with nextId := s.nextId + 1 }
    { incCnt g ctr.toNat with
      ops := g.ops ++ [⟨s.nextId, kind, ctr.toNat, dst, false, [], wordAddr c, c.pcs, c.idx + 1, c.hdr⟩] } c

/-- A barrier form (R142): the checks of its word, then the operation. -/
def barIssue (ctr : BitVec 3) (ox : Option Ox) (base : BitVec 5) (scals : List Nat) (dst : Nat) (form : BarForm)
    (arg : Group → Nat) (s : State) : Res :=
  groupIssue ctr ox (base.toNat :: scals) (fun g c act =>
    let off := bitsOf (sReg g base.toNat) 0 48
    let fault (k : Nat) : Res := trapAt s g c k act 0xFF off ((lanesIn act).map fun l => (l, off))
    if off % 8 ≠ 0 then fault 0x05
    else match teamOfGroup s g with
      | none => fault 0x21
      | some t => if off + 8 ≤ t.size then retireOp s g c ctr (.bar form off (arg g) none) dst else fault 0x21) s

/-- A drain (R144). -/
def drainIssue (ctr : BitVec 3) (ox : Option Ox) (m : DrainMem) (s : State) : Res :=
  groupIssue ctr ox [] (fun g c _ => retireOp s g c ctr (.drain m s.nextId s.msgSeq) 0xFF) s

/-- logmark (R145): off it does nothing, in recording it appends a MARK, in replay it matches the next one. -/
def execLogmark (f : MB) (ox : Option Ox) (s : State) : Res :=
  groupIssue f.ctr ox [f.sb.toNat] (fun g c act =>
    let val := (loWord (sReg g f.sb.toNat)).toNat
    match logMode s g.ctx with
    | 1 =>
      match retireOp s g c f.ctr .mark 0xFF with
      | .next s' => .next (recordOp s' g.ctx 0x08 (actorWord g) [BitVec.ofNat 64 val, BitVec.ofNat 64 (wordAddr c % 2 ^ 48)]
          g.core g.slot s.nextId)
      | r => r
    | 2 =>
      match nextRec s g.ctx 0x08 (byGroup s g) with
      | some r =>
        if bitsOf (r.word 2) 0 32 = val ∧ bitsOf (r.word 3) 0 48 = wordAddr c % 2 ^ 48 then retire (matchRec s g.ctx r) g c
        else trapAt (meetBad s g.ctx) g c 0x50 act 0xFF (bitsOf (r.word 2) 0 32) []
      | none => trapAt (meetBad s g.ctx) g c 0x50 act 0xFF 0xFFFFFFFF []
    | _ => retire s g c) s

/-! ## Instructions -/

/-- ldg.n8 (R127). -/
def execLdgN8 (f : M) (ox : Option Ox) (s : State) : Res := memIssue (loadForm f ox 1 false false) s

/-- ldg.i8 (R127). -/
def execLdgI8 (f : M) (ox : Option Ox) (s : State) : Res := memIssue (loadForm f ox 1 true false) s

/-- ldg.n16 (R127). -/
def execLdgN16 (f : M) (ox : Option Ox) (s : State) : Res := memIssue (loadForm f ox 2 false false) s

/-- ldg.i16 (R127). -/
def execLdgI16 (f : M) (ox : Option Ox) (s : State) : Res := memIssue (loadForm f ox 2 true false) s

/-- ldg.b32 (R127). -/
def execLdgB32 (f : M) (ox : Option Ox) (s : State) : Res := memIssue (loadForm f ox 4 false false) s

/-- ldg.b64 (R127). -/
def execLdgB64 (f : M) (ox : Option Ox) (s : State) : Res := memIssue (loadForm f ox 8 false false) s

/-- ldg.b128 (R127). -/
def execLdgB128 (f : M) (ox : Option Ox) (s : State) : Res := memIssue (loadForm f ox 16 false false) s

/-- stg.b8 (R127). -/
def execStgB8 (f : M) (ox : Option Ox) (s : State) : Res := memIssue (storeForm f ox 1 false) s

/-- stg.b16 (R127). -/
def execStgB16 (f : M) (ox : Option Ox) (s : State) : Res := memIssue (storeForm f ox 2 false) s

/-- stg.b32 (R127). -/
def execStgB32 (f : M) (ox : Option Ox) (s : State) : Res := memIssue (storeForm f ox 4 false) s

/-- stg.b64 (R127). -/
def execStgB64 (f : M) (ox : Option Ox) (s : State) : Res := memIssue (storeForm f ox 8 false) s

/-- stg.b128 (R127). -/
def execStgB128 (f : M) (ox : Option Ox) (s : State) : Res := memIssue (storeForm f ox 16 false) s

/-- ldg.t.b32 (R129). -/
def execLdgTB32 (f : M) (ox : Option Ox) (s : State) : Res := ldgT f ox 4 s

/-- ldg.t.b64 (R129). -/
def execLdgTB64 (f : M) (ox : Option Ox) (s : State) : Res := ldgT f ox 8 s

/-- ldg.t.b128 (R129). -/
def execLdgTB128 (f : M) (ox : Option Ox) (s : State) : Res := ldgT f ox 16 s

/-- lds.b32 (R127). -/
def execLdsB32 (f : M) (ox : Option Ox) (s : State) : Res := memIssue (loadForm f ox 4 false true) s

/-- lds.b64 (R127). -/
def execLdsB64 (f : M) (ox : Option Ox) (s : State) : Res := memIssue (loadForm f ox 8 false true) s

/-- lds.b128 (R127). -/
def execLdsB128 (f : M) (ox : Option Ox) (s : State) : Res := memIssue (loadForm f ox 16 false true) s

/-- sts.b32 (R127). -/
def execStsB32 (f : M) (ox : Option Ox) (s : State) : Res := memIssue (storeForm f ox 4 true) s

/-- sts.b64 (R127). -/
def execStsB64 (f : M) (ox : Option Ox) (s : State) : Res := memIssue (storeForm f ox 8 true) s

/-- sts.b128 (R127). -/
def execStsB128 (f : M) (ox : Option Ox) (s : State) : Res := memIssue (storeForm f ox 16 true) s

/-- ldu.b32 (R128). -/
def execLduB32 (f : MS) (ox : Option Ox) (s : State) : Res := memIssue (lduForm f ox 4) s

/-- ldu.b64 (R128). -/
def execLduB64 (f : MS) (ox : Option Ox) (s : State) : Res := memIssue (lduForm f ox 8) s

/-- ldu.b128 (R128). -/
def execLduB128 (f : MS) (ox : Option Ox) (s : State) : Res := memIssue (lduForm f ox 16) s

/-- ldu.b256 (R128). -/
def execLduB256 (f : MS) (ox : Option Ox) (s : State) : Res := memIssue (lduForm f ox 32) s

/-- ldu.b512 (R128). -/
def execLduB512 (f : MS) (ox : Option Ox) (s : State) : Res := memIssue (lduForm f ox 64) s

/-- stu.b32 (R128). -/
def execStuB32 (f : MS) (ox : Option Ox) (s : State) : Res := memIssue (stuForm f ox 4) s

/-- stu.b64 (R128). -/
def execStuB64 (f : MS) (ox : Option Ox) (s : State) : Res := memIssue (stuForm f ox 8) s

/-- atom.add.i32 (R131). -/
def execAtomAddI32 (f : M) (ox : Option Ox) (s : State) : Res := memIssue (atomForm f ox .add 4 []) s

/-- atom.min.i32 (R131). -/
def execAtomMinI32 (f : M) (ox : Option Ox) (s : State) : Res := memIssue (atomForm f ox .minS 4 []) s

/-- atom.max.i32 (R131). -/
def execAtomMaxI32 (f : M) (ox : Option Ox) (s : State) : Res := memIssue (atomForm f ox .maxS 4 []) s

/-- atom.min.n32 (R131). -/
def execAtomMinN32 (f : M) (ox : Option Ox) (s : State) : Res := memIssue (atomForm f ox .minU 4 []) s

/-- atom.max.n32 (R131). -/
def execAtomMaxN32 (f : M) (ox : Option Ox) (s : State) : Res := memIssue (atomForm f ox .maxU 4 []) s

/-- atom.and.b32 (R131). -/
def execAtomAndB32 (f : M) (ox : Option Ox) (s : State) : Res := memIssue (atomForm f ox .and 4 []) s

/-- atom.or.b32 (R131). -/
def execAtomOrB32 (f : M) (ox : Option Ox) (s : State) : Res := memIssue (atomForm f ox .or 4 []) s

/-- atom.xor.b32 (R131). -/
def execAtomXorB32 (f : M) (ox : Option Ox) (s : State) : Res := memIssue (atomForm f ox .xor 4 []) s

/-- atom.xchg.b32 (R131). -/
def execAtomXchgB32 (f : M) (ox : Option Ox) (s : State) : Res := memIssue (atomForm f ox .xchg 4 []) s

/-- atom.cas.b32 (R131). -/
def execAtomCasB32 (f : M) (ox : Ox) (s : State) : Res := memIssue (atomForm f (some ox) .cas 4 [ox.c]) s

/-- atom.add.i64 (R131). -/
def execAtomAddI64 (f : M) (ox : Option Ox) (s : State) : Res := memIssue (atomForm f ox .add 8 []) s

/-- atom.xchg.b64 (R131). -/
def execAtomXchgB64 (f : M) (ox : Option Ox) (s : State) : Res := memIssue (atomForm f ox .xchg 8 []) s

/-- atom.cas.b64 (R131). -/
def execAtomCasB64 (f : M) (ox : Ox) (s : State) : Res := memIssue (atomForm f (some ox) .cas 8 (runFields ox.c 2)) s

/-- red.add.f32 (R134). -/
def execRedAddF32 (f : M) (ox : Option Ox) (s : State) : Res := redIssue f ox .addF32 s

/-- red.add.bf16x2 (R134). -/
def execRedAddBf16x2 (f : M) (ox : Option Ox) (s : State) : Res := redIssue f ox .addBf16x2 s

/-- red.add.i32 (R134). -/
def execRedAddI32 (f : M) (ox : Option Ox) (s : State) : Res := redIssue f ox .addI32 s

/-- red.add.i64 (R134). -/
def execRedAddI64 (f : M) (ox : Option Ox) (s : State) : Res := redIssue f ox .addI64 s

/-- red.min.f32 (R134). -/
def execRedMinF32 (f : M) (ox : Option Ox) (s : State) : Res := redIssue f ox .minF32 s

/-- red.max.f32 (R134). -/
def execRedMaxF32 (f : M) (ox : Option Ox) (s : State) : Res := redIssue f ox .maxF32 s

/-- pf.l1 (R130). -/
def execPfL1 (f : MP) (ox : Option Ox) (s : State) : Res := prefetch f ox (fun s core w => askLine s core w) s

/-- pf.l2 (R130). -/
def execPfL2 (f : MP) (ox : Option Ox) (s : State) : Res := prefetch f ox (fun s _ w => askL2 s w) s

/-- pf.rdc (R130). -/
def execPfRdc (f : MP) (ox : Option Ox) (s : State) : Res := prefetch f ox (fun s _ w => askL2 s w) s

/-- bar.init (R142). -/
def execBarInit (f : MA) (ox : Option Ox) (s : State) : Res := barIssue f.ctr ox f.sb [f.r.toNat] 0xFF .init (fun g => bitsOf (sReg g f.r.toNat) 0 16) s

/-- bar.arr (R142). -/
def execBarArr (f : MA) (ox : Option Ox) (s : State) : Res := barIssue f.ctr ox f.sb [] f.r.toNat .arr (fun _ => 0) s

/-- bar.wait (R142). -/
def execBarWait (f : MA) (ox : Option Ox) (s : State) : Res := barIssue f.ctr ox f.sb [f.r.toNat] 0xFF .wait (fun g => bitsOf (sReg g f.r.toNat) 0 1) s

/-- bar.sync (R142). -/
def execBarSync (f : MB) (ox : Option Ox) (s : State) : Res := barIssue f.ctr ox f.sb [] 0xFF .sync (fun _ => 0) s

/-- drain.sp (R144). -/
def execDrainSp (ctr : BitVec 3) (ox : Option Ox) (s : State) : Res := drainIssue ctr ox .sp s

/-- drain.loc (R144). -/
def execDrainLoc (ctr : BitVec 3) (ox : Option Ox) (s : State) : Res := drainIssue ctr ox .loc s

/-- drain.twin (R144). -/
def execDrainTwin (ctr : BitVec 3) (ox : Option Ox) (s : State) : Res := drainIssue ctr ox .twin s

/-- drain.host (R144). -/
def execDrainHost (ctr : BitVec 3) (ox : Option Ox) (s : State) : Res := drainIssue ctr ox .host s

end Sys2Proof.Machine
end

