-- ==== Sys2Proof/Machine/Sync.lean ====
section
/-!
DEFINITION. Acquire and release (R136 to R141), the sync-variable table (R313 to R315), and their part in the order log
(R140, R342, R343, R346, R347).
-/

namespace Sys2Proof.Machine

/-! ## Issue -/

/-- The variable that a scalar names (R136). -/
def varOf (g : Group) (sb : BitVec 5) : Nat := bitsOf (sReg g sb.toNat) 3 45 * 8

/-- An operation of a group on a variable. -/
def newSync (s : State) (g : Group) (c : Clause) (ctr : BitVec 3) (rel acq : Bool) (scope var eff : Nat) (stage : SyncStage)
    (obs : Option Nat) (inv : Bool) : SyncOp :=
  ⟨g.core, g.slot, s.nextId, ctr.toNat, rel, acq, scope, var, eff, stage, 0, [], 0, obs, inv, wordAddr c, c.pcs, c.idx + 1, c.hdr⟩

/-- Retires an instruction with an acquire or release outstanding. -/
def retireSync (s : State) (g : Group) (c : Clause) (ctr : BitVec 3) (o : SyncOp) : Res :=
  retire { s with nextId := s.nextId + 1, syncOps := s.syncOps ++ [o] } (incCnt g ctr.toNat) c

/-- The release that an ACQ record names. -/
def recRseq (r : LRec) : Option Nat := if (r.word 3).getLsbD 31 then none else some (bitsOf (r.word 3) 0 31)

/-- The variable of a REL or ACQ record. -/
def recVar (r : LRec) : Nat := bitsOf (r.word 2) 3 45 * 8

/-- The scope of a REL or ACQ record. -/
def recScope (r : LRec) : Nat := bitsOf (r.word 2) 0 3

/-- Divergence at an instruction (R347). -/
def divergeAt (s : State) (g : Group) (c : Clause) (act : Mask) (r : Option LRec) : Res :=
  trapAt (meetBad s g.ctx) g c 0x50 act 0xFF (divergeAddr r) []

/-- acq (R137, R138): the table is asked, and its self-invalidation is made once the table has answered; in replay its
record must be the group's next and gives the scope (R346, R347). -/
def execAcq (f : MQ) (ox : Option Ox) (s : State) : Res :=
  groupIssue f.ctr ox [f.sb.toNat] (fun g c act =>
    let var := varOf g f.sb
    let start (s : State) (scope : Nat) (obs : Option Nat) (seq : Nat) : Res :=
      retireSync s g c f.ctr { newSync s g c f.ctr false true scope var scope .table obs false with seq }
    if logMode s g.ctx = 2 then
      match nextRec s g.ctx 0x03 (byGroup s g) with
      | some r => if recVar r = var then start (matchRec s g.ctx r) (recScope r) (recRseq r) r.seq else divergeAt s g c act (some r)
      | none => divergeAt s g c act none
    else start s f.scope.toNat none 0) s

/-- The issue of rel and acqrel: the release begins once everything earlier has completed (R138); in replay the records
of its halves must be the group's next (R347). -/
def relIssue (f : MQ) (ox : Option Ox) (acq : Bool) (s : State) : Res :=
  groupIssue f.ctr ox [f.sb.toNat] (fun g c act =>
    let var := varOf g f.sb
    let start : Res := retireSync s g c f.ctr (newSync s g c f.ctr true acq f.scope.toNat var f.scope.toNat .waiting none false)
    if logMode s g.ctx = 2 then
      match nextRec s g.ctx 0x02 (byGroup s g) with
      | some r =>
        if recVar r ≠ var then divergeAt s g c act (some r)
        else if acq then
          match nextRec s g.ctx 0x03 (byGroup s g) with
          | some q => if recVar q = var ∧ recScope q = recScope r ∧ recRseq q = some r.seq then start
              else divergeAt s g c act (some q)
          | none => divergeAt s g c act none
        else start
      | none => divergeAt s g c act none
    else start) s

/-- rel (R137, R138). -/
def execRel (f : MQ) (ox : Option Ox) (s : State) : Res := relIssue f ox false s

/-- acqrel (R138). -/
def execAcqrel (f : MQ) (ox : Option Ox) (s : State) : Res := relIssue f ox true s

/-! ## inv.rgn (R141) -/

/-- The leaves that the tables of a context hold for addresses from `lo` to `hi`, down the levels that are left; `va` is
the first address that the table at hand maps. -/
def leavesFrom (s : State) (lo hi : Nat) : List (Nat × Nat) → Nat → Nat → List Leaf
  | [], _, _ => []
  | (level, sh) :: more, va, table =>
    (List.range 512).flatMap fun i =>
      let base := va + i * 2 ^ sh
      if base > hi ∨ base + 2 ^ sh ≤ lo then []
      else
        let e := (pteAt s (table + 8 * i)).1
        if !pteBit e 0 then []
        else if pteBit e 1 then
          (if level = 1 || !pteTableOk e then [] else leavesFrom s lo hi more base (locAt (bitsOf e 59 2) (ptePa e)))
        else (pteLeaf e level base).toList

/-- Whether a location is a word of a line that overlaps the addresses from `lo` to `hi`, through one of some leaves. -/
def inRange (leaves : List Leaf) (lo hi w : Nat) : Bool :=
  leaves.any fun l =>
    homeCode l.home == homeOf w && decide (l.pbase ≤ paOf w) && decide (paOf w < l.pbase + l.size) &&
    (let va := l.vbase + (paOf w - l.pbase)
     decide (lineBase lo ≤ va) && decide (va < lineBase hi + 128))

/-- inv.rgn (R141). -/
def execInvRgn (f : MR) (ox : Option Ox) (s : State) : Res :=
  groupIssue f.ctr ox [f.sb.toNat, f.a.toNat] (fun g c _ =>
    let lo := bitsOf (sReg g f.sb.toNat) 0 48
    let len := (sReg g f.a.toNat).toNat
    let hi := min (lo + len - 1) (2 ^ 48 - 1)
    let leaves := leavesFrom s (lineBase lo) (lineBase hi + 127) [(4, 39), (3, 30), (2, 21), (1, 12)] 0 (tableRoot s g.ctx)
    let range := if len = 0 then fun _ => false else inRange leaves lo hi
    let s1 := acquireAt s g.core g.ctx f.scope.toNat range
    if acquired s1 g.core f.scope.toNat range then
      retireSync s1 g c f.ctr (newSync s1 g c f.ctr false true f.scope.toNat 0 f.scope.toNat .inval none true)
    else .next s1) s

/-! ## The table (R313 to R315, R343) -/

/-- The span of two groups, each given by its device, core and slot (R299). -/
def spanGroups (a b : Bool × Nat × Nat) : Nat :=
  if a.1 ≠ b.1 then 4
  else if a.2.1 = b.2.1 then (if a.2.2 = b.2.2 then 0 else 1) else if hamletOf a.2.1 = hamletOf b.2.1 then 2 else 3

/-- The widest AUTO scope (R314). -/
def widestAuto (s : State) : Nat := if s.isW then 4 else 3

/-- The entry of a variable. -/
def syncEntry (s : State) (ctx var : Nat) : Option SyncEntry := s.syncTab.find? fun e => e.ctx == ctx && e.var == var

/-- The entry of a variable that an eviction has saved in the context's variable area (R343). -/
def savedEntry (s : State) (ctx var : Nat) : Option (Nat × SyncEntry) := (ctxOf s ctx).var.find? fun x => x.2.var == var

/-- The release state of a variable: of its entry, or as its eviction has saved it. -/
def relState (s : State) (ctx var : Nat) : Option SyncEntry := match syncEntry s ctx var with
  | some e => some e
  | none => (savedEntry s ctx var).map Prod.snd

/-- The slots of the variable area of a context (R338). -/
def varSlots (s : State) (ctx : Nat) : Nat := 2 ^ (bitsOf (ctxDWord s ctx 0x060) 48 4 + 8)

/-- The first free slot of the variable area for a variable, probing upwards (R343). -/
def freeVarSlot (s : State) (ctx var : Nat) : Option Nat :=
  let n := varSlots s ctx
  ((List.range n).map fun i => (var / 8 + i) % n).find? fun i => (tfind (ctxOf s ctx).var i).isNone

/-- Whether an operation of the twin on a variable waits for its catch-up (R313, R314). -/
def twinBusy (s : State) (ctx var : Nat) : Bool :=
  s.twinOps.any fun o => o.ctx == ctx && o.var == var && o.source.any fun x => releaseOut s x.1 x.2 o.mark

/-- Whether an operation on a variable is in progress. -/
def opInProgress (s : State) (ctx var : Nat) : Bool :=
  twinBusy s ctx var || s.syncOps.any fun o => !o.inv && o.var == var && o.stage != .waiting && (match groupAt s o.core o.slot with
    | some g => g.ctx == ctx
    | none => false)

/-- The device whose table holds a variable's entry (R313): on a pair bit 12 XOR bit 21 of its address. -/
def tableOf (s : State) (var : Nat) : Nat := if s.isW then (var / 2 ^ 12 + var / 2 ^ 21) % 2 else s.devId

/-- The entries of a device's table. -/
def tableEntries (s : State) (dev : Nat) : List SyncEntry := s.syncTab.filter fun e => tableOf s e.var == dev

/-- The entry to evict: one whose eviction has begun, else the least recently used with no operation in progress (R315); of
entries used in one clock the one that stands first, since a use moves an entry to the end. -/
def victim (s : State) (dev : Nat) : Option SyncEntry :=
  match (tableEntries s dev).find? fun e => e.leaving.isSome with
  | some e => some e
  | none => ((tableEntries s dev).filter fun e => !opInProgress s e.ctx e.var).foldl
    (fun best e => match best with
      | none => some e
      | some b => if e.use < b.use then some e else some b) none

/-- Saves the release state of an evicted entry in a slot of the variable area: 16 bytes whose contents are not architected
beyond it (R343), written as free values. -/
def saveEntry (s : State) (e : SyncEntry) (i : Nat) : State :=
  let s1 := writeDevs { s with draws := s.draws + 4 } e.ctx (bitsOf (ctxDWord s e.ctx 0x060) 0 48 + 16 * i)
    [joinWords (Config.freeWord s.draws) (Config.freeWord (s.draws + 1)), joinWords (Config.freeWord (s.draws + 2)) (Config.freeWord (s.draws + 3))]
  updCtx s1 e.ctx fun c => { c with var := tput c.var i { e with leaving := none } }

/-- An eviction (R315, R343): its last releaser's catch-up at the widest AUTO scope is made and awaited; then the entry
goes, its release state into the variable area of a logging context, which stalls while that area is full. The answer
says whether the entry has gone. -/
def evictEntry (s : State) (e : SyncEntry) : State × Bool :=
  let out (s : State) : State := { s with syncTab := s.syncTab.filter fun x => !(x.ctx == e.ctx && x.var == e.var) }
  match e.leaving with
  | none =>
    let s1 := match e.last with
      | some (far, core, _) => catchUp s far core e.ctx (widestAuto s)
      | none => s
    (updSync s1 e.ctx e.var fun x => { x with leaving := some s1.msgSeq }, false)
  | some mark =>
    if (match e.last with
      | some (far, core, _) => releaseOut s (releaserKey far core) (widestAuto s) mark
      | none => false) then (s, false)
    else if logMode s e.ctx = 0 then (out s, true)
    else match freeVarSlot s e.ctx e.var with
      | some i => (unstall (saveEntry (out s) e i) e.ctx stallVar, true)
      | none => (stallAt s e.ctx stallVar, false)

/-- A new entry for a variable, read back from the variable area when it was saved there, which frees its slot (R343). -/
def createEntry (s : State) (ctx var : Nat) : State :=
  match savedEntry s ctx var with
  | some x => unstall (updCtx { s with syncTab := s.syncTab ++ [x.2] } ctx fun c => { c with var := tdel c.var x.1 }) ctx stallVar
  | none => s

/-- Room for an entry: the table holds 16,384 (R313). Otherwise an eviction goes on, and the answer says whether it has made
room. -/
def roomForEntry (s : State) (ctx var : Nat) : State × Bool :=
  if (syncEntry s ctx var).isSome || (tableEntries s (tableOf s var)).length < 16384 then (s, true)
  else match victim s (tableOf s var) with
    | some e => evictEntry s e
    | none => (s, false)

/-- The outcome of an operation on an entry: the scopes of its halves, and the entry after it (R314). -/
structure TableOut where
  relScope : Nat
  acqScope : Nat
  entry : SyncEntry

/-- An operation by a group, given by its device, core and slot, on an entry or on none (R314). A scope taken from a
recording stands in `fixed`. -/
def tableOp (s : State) (ctx : Nat) (who : Bool × Nat × Nat) (o : SyncOp) (e : Option SyncEntry) (fixed : Option Nat) : TableOut :=
  let pick (auto : Nat) : Nat := match fixed with
    | some f => f
    | none => if o.scope = 7 then auto else o.scope
  let base : SyncEntry := e.getD ⟨ctx, o.var, 0, none, 0, none, 0, 0, none⟩
  let n := match base.last with
    | some l => spanGroups who l
    | none => 0
  let rs := pick (if e.isNone then 0 else max base.widest n)
  let e1 : SyncEntry := if o.rel then
      { base with widest := max base.widest rs, last := some who, relSeq := base.relSeq + 1 } else base
  let known := if o.rel then some who else base.last
  let as := pick (match known with
    | some l => max e1.widest (spanGroups who l)
    | none => widestAuto s)
  let e2 : SyncEntry := if o.acq ∧ (e.isSome ∨ o.rel) then { e1 with widest := max e1.widest as } else e1
  ⟨rs, as, { e2 with use := s.clock, leaving := none }⟩

/-- The operation's stage and what the table settles. -/
def setSync (s : State) (id : Nat) (f : SyncOp → SyncOp) : State :=
  { s with syncOps := s.syncOps.map fun o => if o.id == id then f o else o }

/-- The release half has all its acknowledgements, or there is none: a release is recorded, or completes at once. -/
def syncAcked (s : State) (o : SyncOp) (g : Group) : State :=
  if !o.rel then setSync s o.id fun o => { o with stage := .inval }
  else if logMode s g.ctx = 1 then recordOp s g.ctx 0x02 (actorWord g) (relWords s g.ctx o.id) o.core o.slot o.id
  else relDone s g.ctx o.var o.seq o.id

/-- Whether what a release or a catch-up has sent has still to be acknowledged (R321). -/
def syncOut (s : State) (o : SyncOp) : Bool := o.source.any fun x => releaseOut s x.1 x.2 o.mark

/-- The operations whose registrations have all been acknowledged go on (R138, R321), but for those of a halted group in a
logging context (R349); so do the ends of host commands (R289). -/
def settleSyncs (s : State) : State :=
  (s.syncOps.filter fun o => o.stage == .acks).foldl (fun s o =>
    if syncOut s o || logStalled s o.id then s else match groupAt s o.core o.slot with
      | some g => if logHeld s g then s else syncAcked s o g
      | none => s) (settleEnds s)

/-- Whether an acquire of a replay may be performed: the release it names is the variable's last, or none is (R346). -/
def acqMayGo (s : State) (g : Group) (o : SyncOp) : Bool :=
  logMode s g.ctx != 2 || o.rel || !o.acq || ((relState s g.ctx o.var).bind fun e => e.lastRel) == o.obs

/-- Whether the variable's last completed release lies past the one that a replayed acquire names (R347). -/
def acqDiverged (s : State) (g : Group) (o : SyncOp) : Bool :=
  logMode s g.ctx == 2 && !o.rel && o.acq &&
    match (relState s g.ctx o.var).bind fun e => e.lastRel, o.obs with
    | some last, some want => decide (want < last)
    | some _, none => true
    | none, _ => false

/-- The step of a group's operation on its variable's entry, once the table has room: the entry after it, at the end of the
table, and a catch-up by the last releaser, on either device, when the entry widens (R314). An entry used again is no longer
on its way out. The answer says what the table settles, the release that it observes, and the releaser whose catch-up has
begun. -/
def tableStep (s : State) (ctx : Nat) (who : Bool × Nat × Nat) (o : SyncOp) (fixed : Option Nat) :
    State × TableOut × Option Nat × Option Nat :=
  let s0 := if (syncEntry s ctx o.var).isNone then createEntry s ctx o.var else s
  let e := syncEntry s0 ctx o.var
  let out := tableOp s0 ctx who o e fixed
  let s1 := { s0 with syncTab := (s0.syncTab.filter fun x => !(x.ctx == ctx && x.var == o.var)) ++ [out.entry] }
  let s1 := if (e.bind fun x => x.leaving).isSome then unstall s1 ctx stallVar else s1
  let behind : Option (Bool × Nat × Nat) := e.bind fun x => if x.widest < out.entry.widest then x.last else none
  let s2 := match behind with
    | some l => catchUp s1 l.1 l.2.1 ctx out.entry.widest
    | none => s1
  let s3 := if o.acq ∧ ¬ o.rel then updSync s2 ctx o.var fun x => { x with obs := x.obs + 1 } else s2
  (s3, out, e.bind fun x => x.lastRel, behind.map fun l => releaserKey l.1 l.2.1)

/-- Performs an operation on its variable's entry: scopes, a catch-up by the last releaser when the entry widens, and the
operation's own registrations when its scope was AUTO (R314, R139). -/
def performOp (s : State) (g : Group) (o : SyncOp) : State :=
  match roomForEntry s g.ctx o.var with
  | (s0, false) => s0
  | (s0, true) =>
    let t := tableStep s0 g.ctx (false, o.core, o.slot) o (if logMode s g.ctx = 2 then some o.eff else none)
    let s1 := if o.rel ∧ o.scope = 7 then releaseAt t.1 o.core g.ctx t.2.1.relScope else t.1
    let eff := if o.rel then t.2.1.relScope else t.2.1.acqScope
    let obs := if logMode s g.ctx = 2 then o.obs else if o.acq ∧ ¬ o.rel then t.2.2.1 else o.obs
    let source := (match t.2.2.2 with
      | some core => [(core, t.2.1.entry.widest)]
      | none => []) ++ (if o.rel then [(o.core, t.2.1.relScope)] else [])
    settleSyncs (setSync s1 o.id fun o => { o with eff, obs, stage := .acks, mark := s1.msgSeq, source })

/-- Whether another operation on the variable of an operation is being performed on its entry (R313). -/
def entryBusy (s : State) (ctx id var : Nat) : Bool :=
  twinBusy s ctx var || s.syncOps.any fun x => x.id != id && !x.inv && x.var == var && x.stage == .acks && (match groupAt s x.core x.slot with
    | some h => h.ctx == ctx
    | none => false)

/-- SYNC_TABLE_OP (R313, R314): the oldest operation at the table that may go is performed on its entry, on which no other
is in progress. A replayed acquire that has been passed by traps with the SEQ of its record (R347). -/
def execSyncTableOp (s : State) : Res :=
  match s.syncOps.find? fun o => o.stage == .table && match groupAt s o.core o.slot with
    | some g => !entryBusy s g.ctx o.id o.var && (acqMayGo s g o || (acqDiverged s g o && !logHeld s g))
    | none => false with
  | none => .next s
  | some o => match groupAt s o.core o.slot with
    | none => .next s
    | some g =>
      if acqMayGo s g o then .next (performOp s g o)
      else .next (takeTrap { meetBad s g.ctx with syncOps := s.syncOps.filter fun x => x.id ≠ o.id } (decCnt g o.ctr) o.pcs
        ⟨0x50, (pcSlot g o.pcs).mask, o.seq, 0xFF, [], o.pc, o.idx, o.hdr, false⟩)

/-! ## Beginning and completing -/

/-- Whether everything that a release waits for has completed: the group's memory accesses, atomics and reductions, and
what its engine instructions have outstanding (R138). -/
def relClear (g : Group) : Bool := g.ops.all fun o => match o.kind with
  | .bar _ _ _ _ => true
  | .drain _ _ _ => true
  | .rsv _ _ _ => true
  | .accum => true
  | .mark => true
  | _ => false

/-- The replay record of a release whose OBS is met: that many acquires naming its PSEQ have issued (R346). -/
def relRecord (s : State) (g : Group) (o : SyncOp) : Option LRec :=
  match nextRec s g.ctx 0x02 (byGroup s g) with
  | none => none
  | some r =>
    let pseq := if bitsOf (r.word 3) 32 32 = 0xFFFFFFFF then none else some (bitsOf (r.word 3) 32 32)
    let e := relState s g.ctx o.var
    let issued := (e.map fun x => x.obs).getD 0 +
      (s.syncOps.filter fun x => x.acq && !x.rel && !x.inv && x.var == o.var && x.obs == pseq && x.stage == .table).length
    if (e.bind fun x => x.lastRel) = pseq ∧ bitsOf (r.word 3) 0 32 ≤ issued then some r else none

/-- A release begins: an explicit scope's registrations are sent, and the table is asked, after the operations that have
reached it before (R138, R313, R321). -/
def beginRel (s : State) (g : Group) (o : SyncOp) (eff seq : Nat) : State :=
  let explicit := o.scope ≠ 7 ∨ logMode s g.ctx = 2
  let s1 := if explicit then releaseAt s o.core g.ctx eff else s
  { s1 with syncOps := (s1.syncOps.filter fun x => x.id ≠ o.id) ++
      [{ o with stage := .table, eff, seq, scope := if explicit then eff else 7 }] }

/-- REL_BEGIN (R138). -/
def execRelBegin (core slot : Nat) (s : State) : Res :=
  match groupAt s core slot, s.syncOps.find? fun o => o.core == core && o.slot == slot && o.stage == .waiting with
  | some g, some o =>
    if relClear g && !logHeld s g then
      (if logMode s g.ctx = 2 then
        match relRecord s g o with
        | some r => .next (beginRel (matchRec s g.ctx r) g o (recScope r) r.seq)
        | none => .next s
      else .next (beginRel s g o o.scope 0))
    else .next s
  | _, _ => .next s

/-- The words after word 1 of an ACQ record (R341). -/
def acqWords (o : SyncOp) : List DWord :=
  [BitVec.ofNat 64 (o.var + o.eff), match o.obs with
    | some q => BitVec.ofNat 64 q
    | none => BitVec.ofNat 64 (2 ^ 31)]

/-- The acquire half of a replayed acqrel matches its record. -/
def matchAcq (s : State) (g : Group) (o : SyncOp) : State :=
  if logMode s g.ctx = 2 ∧ o.rel then
    match nextRec s g.ctx 0x03 (byGroup s g) with
    | some r => matchRec s g.ctx r
    | none => s
  else s

/-- The words that an acquire's self-invalidation is made over, and whether it is all done (R137, R323). -/
def acquireStep (s : State) (o : SyncOp) (g : Group) : State × Bool :=
  let s1 := acquireAt s o.core g.ctx o.eff fun _ => true
  (s1, acquired s1 o.core o.eff fun _ => true)

/-- ACQ_COMPLETE (R138): the self-invalidation is made, as far as holding entries are free; once it is done the core's
frontier rises to the release observed at HAMLET scope or wider (R345), and the record is written (R342). -/
def execAcqComplete (core slot : Nat) (s : State) : Res :=
  match groupAt s core slot, s.syncOps.find? fun o => o.core == core && o.slot == slot && o.acq && o.stage == .inval with
  | some g, some o =>
    if logStalled s o.id then .next s
    else if o.inv then .next (endSync s o.id)
    else if logHeld s g then .next s
    else
      let s1 := (acquireStep s o g).1
      if !(acquireStep s o g).2 then .next s1
      else
        let s2 := match o.obs with
          | some q => if 2 ≤ o.eff ∧ logMode s g.ctx ≠ 0 then raiseFrontier s1 core q else s1
          | none => s1
        if logMode s g.ctx = 1 then .next (recordOp s2 g.ctx 0x03 (actorWord g) (acqWords o) core slot o.id)
        else .next (endSync (matchAcq s2 g o) o.id)
  | _, _ => .next s

end Sys2Proof.Machine
end

