-- ==== Sys2Proof/Machine/Flush.lean ====
section
/-!
DEFINITION. The end of a forced reset (R375): the stores that the context's groups had performed in an L1 are written back
as though evicted, and closed partials of reductions reach their words; then the reset is reported.
-/

namespace Sys2Proof.Machine

/-- Whether a word of a core is still to be written back: dirty or registered in its L1. -/
def stillDirty (s : State) (p : Nat × Nat) : Bool := match l1Copy s p.1 p.2 with
  | some c => c.st != .cln
  | none => false

/-- The roots of a context, as far as their words can be had, in the order of R331. -/
def resetRoots (ctx : Nat) : List RedNode → State → State
  | [], s => s
  | n :: ns, s =>
    if rootReady s n then resetRoots ctx ns { rootCombine s n with reds := s.reds.filter fun x => x ≠ n }
    else rootAsks s n

/-- The roots that a forced reset has left of a context's reductions. -/
def rootsLeft (s : State) (ctx : Nat) : List RedNode :=
  (s.reds.filter fun n => n.ctx == ctx).mergeSort
    fun a b => decide (a.form.code < b.form.code) || (a.form.code == b.form.code && decide (a.loc ≤ b.loc))

/-- A forced reset goes on: words are evicted as far as holding entries are free (R324), and once every write-back has been
acknowledged and every root combined, the reset is complete and is reported. -/
def flushStep (s : State) (ctx : Nat) : State :=
  match (ctxOf s ctx).flush with
  | none => s
  | some ws =>
    let s1 := ws.foldl (fun s p => if stillDirty s p then evictL1 s p.1 ctx p.2 else s) s
    let left := ws.filter fun p => stillDirty s1 p || (entriesOf s1 (.core p.1)).any fun h => h.word == p.2
    let s2 := resetRoots ctx (rootsLeft s1 ctx) s1
    if left.isEmpty && (rootsLeft s2 ctx).isEmpty then reportCtx (updCtx s2 ctx fun c => { c with flush := none }) ctx 0x13 0 0 0
    else updCtx s2 ctx fun c => { c with flush := some left }

/-- Every forced reset under way goes on. -/
def settleFlush (s : State) : State := s.ctxs.foldl (fun s c => flushStep s c.1) s

end Sys2Proof.Machine
end

