-- ==== Sys2Proof/Machine/Messages.lean ====
section
/-!
DEFINITION. The messages of coherence and what each does at its receiver (R318 to R329), evictions (R324, R325, R333),
the host's accesses to device memory (R308, R334), and the host's part in bias (R286).
-/

namespace Sys2Proof.Machine

/-! ## Bias (R286) -/

/-- BIAS_MERGE (R286): the region at a base merges with its sibling when both have one bias and no conflict for 65,536
clocks. -/
def execBiasMerge (base : Nat) (s : State) : Res :=
  match s.bias.find? fun r => r.base == base with
  | none => .next s
  | some r =>
    match s.bias.find? fun x => x.base == r.base + r.size && x.size == r.size with
    | none => .next s
    | some x =>
      if r.base % (2 * r.size) = 0 ∧ 2 * r.size ≤ 65536 ∧ r.host = x.host ∧ r.since + 65536 ≤ s.clock ∧ x.since + 65536 ≤ s.clock then
        let rest := s.bias.filter fun y => y.base ≠ r.base ∧ y.base ≠ x.base
        .next { s with bias := if 2 * r.size = 65536 ∧ r.host = false then rest
                               else rest ++ [⟨r.base, 2 * r.size, r.host, max r.since x.since⟩] }
      else .next s

/-! ## Arrival at a home (R319) -/

/-- Whether a request that waits at a slice for a snoop is another than this one (R286, R319). -/
def heldBefore (s : State) (dst : Agent) (m : Msg) : Bool :=
  s.msgs.any fun x => x.dst == dst && s.biasHeld.contains x.serial && x.serial != m.serial

/-- The arrival of a request. At a slice it stays on its way while an earlier request waits there, so that requests are
answered in the order of their arrival (R319), and while the host has still to give its line up (R286); `.error` holds
the state then. The write-back of a line that the slice is evicting waits behind no read, which may wait for the eviction. -/
def arrive (s : State) (kind : MsgKind) (src dst : Agent) : Except State (Msg × State) :=
  match receive s kind src dst with
  | none => .error s
  | some (m, s') =>
    match dst with
    | .slice _ =>
      if (s.l2Wait.any fun x => x.dst == dst) && !(kind == .wb && s.l2Evict.contains m.addr) then .error s
      else if heldBefore s dst m then .error s
      else if hostBiased s m.addr then .error { s with biasWait := (m.addr :: s.biasWait).dedup
                                                       biasHeld := (m.serial :: s.biasHeld).dedup }
      else .ok (m, { s' with biasHeld := s'.biasHeld.filter fun i => i ≠ m.serial })
    | _ => .ok (m, s')

/-! ## Reads (R320) -/

/-- A word as a home sends it, with its line's stamp. -/
def homeVal (s : State) (w : Nat) : WordVal := ⟨w, (homeWord s w).1, 0xF, (homeWord s w).2, tfind s.stamps (lineBase w)⟩

/-- A home answers a read of a line: the VAL words' values in DATA with a mark for each word forwarded, FWD to the owners of
those (R320). -/
def answerRead (s : State) (home requester : Agent) (line : Nat) (void : Bool) : State :=
  let owned := (ownersOf s (lineWords line)).filter fun o => o.1 != requester
  let words := owned.flatMap Prod.snd
  let vals := ((lineWords line).filter fun w => (homeSt s w).isNone).map (homeVal s)
  let data : Msg := { kind := .data, src := home, dst := requester, addr := line, who := requester, void, words, vals }
  owned.foldl (fun s o => send s { kind := .fwd, src := home, dst := o.1, addr := line, who := requester, void, words := o.2 })
    (send s data)

/-- The words of a line that the RDC can answer with: a host-homed line as it holds it, a twin-homed one when it knows
every byte, and the bytes that it holds once the twin has failed (R333, R336). -/
def rdcLine (s : State) (line : Nat) : Option (List WordVal) :=
  if homeOf line = 2 then
    (tfind s.hostLines line).map fun l => (lineWords line).zip l.vals |>.map fun x => ⟨x.1, x.2.1, 0xF, x.2.2, tfind s.stamps line⟩
  else
    let known := (lineWords line).filterMap fun w =>
      let h := heldBytes s .rdc w
      if h.2.1 = 0xF ∨ (twinGone s ∧ h.2.1 ≠ 0) then some (⟨w, h.1, h.2.1, h.2.2, (rdcCopy s w).bind fun c => c.stamp⟩ : WordVal) else none
    if known.length = 32 ∨ twinGone s then some known else none

/-- The RDC answers the reads of a line that wait for it once it holds the line, and asks the home until then (R333). -/
def rdcServe (s : State) (line : Nat) : State :=
  let mine := s.l2Wait.filter fun m => m.dst == .rdc && m.addr == line
  if mine.isEmpty then s
  else match rdcLine s line with
    | some vals =>
      mine.foldl (fun s m => send s { kind := .data, src := .rdc, dst := m.src, addr := line, who := m.src, void := m.void, vals })
        { s with l2Wait := s.l2Wait.filter fun m => !(m.dst == .rdc && m.addr == line) }
    | none =>
      if asked s .rdc line then s
      else send s { kind := .rdq, src := .rdc, dst := homeAgent line, addr := line, who := .rdc }

/-- RDQ (R320, R333): a home slice answers a line that it caches; one that it does not waits for its fill. The RDC answers
what it holds, and asks the home for the rest. -/
def execRdq (src dst : Agent) (s : State) : Res :=
  match arrive s .rdq src dst with
  | .error s' => .next s'
  | .ok (m, s') =>
    match dst with
    | .rdc => .next (rdcServe { s' with l2Wait := s'.l2Wait ++ [m] } m.addr)
    | .slice _ =>
      if cached s' m.addr then .next (answerRead s' dst src m.addr m.void)
      else .next { s' with l2Wait := s'.l2Wait ++ [m] }
    | _ => .next (answerRead s' dst src m.addr m.void)

/-- L2_FILL_COMPLETE (R320, R335): the line comes from device memory into a slot of its slice, if one has room, and the
slice answers the read that waits. -/
def execL2FillComplete (line : Nat) (s : State) : Res :=
  let mine := s.l2Wait.filter fun m => m.dst != .rdc && m.addr == line
  if mine.isEmpty then .next s
  else match cacheLine s line with
    | none => .next s
    | some s' => .next (mine.foldl (fun s m => answerRead s m.dst m.src line m.void)
        { s' with l2Wait := s'.l2Wait.filter fun m => m.dst == .rdc || m.addr != line })

/-- BACK_INVALIDATION_ANSWER (R286): the host has given the line up, and the device's access proceeds. -/
def execBackInvalidationAnswer (line : Nat) (s : State) : Res :=
  if s.biasWait.contains line then
    .next (biasAccess { s with biasWait := s.biasWait.filter fun l => l ≠ line } line false)
  else .next s

/-- A word that arrives fills an L1 or the RDC as CLN, under the bytes that its holding entries keep; one held registered
stands, and beside dirty bytes it gives the others (R320). A full L1 makes room by dropping clean words, or keeps nothing. -/
def fillWord (s0 : State) (who : Agent) (v : WordVal) : State :=
  let s := match who with
    | .core n => l1MakeRoom s0 n (lineBase v.word)
    | _ => s0
  let fits := match who with
    | .core n => l1Fits s n (lineBase v.word)
    | _ => true
  let older := (entriesOf s who).filter fun h => h.word == v.word
  let val := older.foldl (fun x h => mergeBytes h.mask h.val x) v.val
  let bad := v.poison || older.any fun h => h.poison
  if !fits then s
  else match copyAt s who v.word with
    | some ⟨.reg, _, _, _, _, _⟩ => s
    | some ⟨.drt, x, m, h, p, _⟩ =>
      putCopy s who v.word ⟨.drt, mergeBytes (h &&& (m ||| ~~~v.mask)) x val, m, h ||| v.mask, p || (bad && m ≠ 0xF), v.stamp⟩
    | _ => putCopy s who v.word ⟨.cln, val, 0, v.mask, bad, v.stamp⟩

/-- Words that arrive are kept, unless what has happened since they were asked for forbids it. -/
def fillWords (s : State) (who : Agent) (m : Msg) : State := if m.void then s else m.vals.foldl (fun s v => fillWord s who v) s

/-- A word and its ownership arrive at a unit: it is registered there, with the bytes that the unit has stored since (R327,
R328). A word whose home has failed meanwhile goes to the RDC, which holds it orphaned (R336). -/
def ownWord (s : State) (who : Agent) (v : WordVal) : State :=
  if orphanHome s v.word then moveToRdc s v.word ⟨.drt, v.val, 0xF, 0xF, v.poison, none⟩
  else match copyAt s who v.word with
  | some ⟨.drt, x, m, _, p, _⟩ => putCopy s who v.word ⟨.reg, mergeBytes m x v.val, 0xF, 0xF, v.poison || p, none⟩
  | _ => putCopy s who v.word ⟨.reg, v.val, 0xF, 0xF, v.poison, none⟩

/-- The atomics of a unit of the twin on words that have reached it registered are performed (R328). -/
def farAtoms (s : State) (u : Nat) (ws : List Nat) : State :=
  let mine := s.twinAtoms.filter fun a => a.unit == u && ws.contains a.word
  mine.foldl (fun s a => match copyAt s (.far u) a.word with
    | some ⟨.reg, v, _, _, p, _⟩ =>
      putCopy s (.far u) a.word ⟨.reg, loWord (atomNew a.fn 4 (v.zeroExtend 64) (a.data.zeroExtend 64) (a.cmp.zeroExtend 64)), 0xF, 0xF, p, none⟩
    | _ => s) { s with twinAtoms := s.twinAtoms.filter fun a => !mine.contains a }

/-- Words arrive at a unit with their ownership, and the atomic that asked for them is performed (R328). -/
def ownWords (s : State) (who : Agent) (vals : List WordVal) : State :=
  let s1 := vals.foldl (fun s v => ownWord s who v) s
  match who with
  | .core n => runAtoms s1 n (vals.map fun v => v.word)
  | .far u => farAtoms s1 u (vals.map fun v => v.word)
  | _ => s1

/-- Words that come with their ownership go on waiting while a core's L1 has no place for their line and can make none
(R7), or while the log has no room for what the atomic that asked for them would write (R327, R344); the answer is the
state after which they arrive, or `.error` that in which they wait. -/
def ownPlace (s : State) (who : Agent) (line : Nat) (ws : List Nat) : Except State State := match who with
  | .core n => match atomsWait s n ws with
    | some x => .error (stallAt s x.1 (stallOp x.2))
    | none => match l1Reserve s n [line] with
      | some s' => .ok s'
      | none => .error s
  | _ => .ok s

/-- Words arrive with their ownership once their receiver can take them; `s` is the state with the message, `s'` without. -/
def ownArrive (s s' : State) (who : Agent) (m : Msg) : State :=
  match ownPlace s who m.addr (m.vals.map fun v => v.word) with
  | .error t => t
  | .ok t => ownWords { t with msgs := s'.msgs } who m.vals

/-- DATA (R320, R328): a fill, or values with the ownership that an ATQ asked for. A full RDC takes a line once an eviction
has made room. -/
def execData (src dst : Agent) (s : State) : Res :=
  match receive s .data src dst with
  | none => .next s
  | some (m, s') =>
    if m.form = 1 then .next (ownArrive s s' dst m)
    else match dst with
      | .rdc =>
        if !m.void && !rdcFits s m.addr then .next s
        else if homeOf m.addr = 2 then
          let line : HostLine := ⟨.shared, m.vals.map fun v => (v.val, v.poison)⟩
          .next (rdcServe (if m.void || (tfind s'.hostLines m.addr).isSome then s'
            else putHostLine s' m.addr line) m.addr)
        else .next (rdcServe (fillWords s' dst m) m.addr)
      | .core _ => .next (fillWords s' dst m)
      | _ => .next s'

/-- FWD (R320): the owner answers from its copy or its holding entry; an owner whose value is still to come waits (R327). -/
def execFwd (src dst : Agent) (s : State) : Res :=
  match receive s .fwd src dst with
  | none => .next s
  | some (m, s') =>
    if ownsLater s dst m.words then .next s
    else
      let vals := m.words.filterMap fun w => (ownerValue s dst w).map fun x =>
        (⟨w, x.1, 0xF, x.2, tfind s.stamps (lineBase w)⟩ : WordVal)
      .next (send s' { kind := .frep, src := dst, dst := m.who, addr := m.addr, who := m.who, void := m.void, vals })

/-- FREP (R320): the words arrive at the requester. -/
def execFrep (src dst : Agent) (s : State) : Res :=
  match receive s .frep src dst with
  | none => .next s
  | some (m, s') =>
    match dst with
    | .rdc => .next (rdcServe (fillWords s' dst m) m.addr)
    | .core _ => .next (fillWords s' dst m)
    | _ => .next s'

/-! ## Registration (R321, R322) -/

/-- REG (R322): the home caches the line of words that have an owner (R316). -/
def execReg (src dst : Agent) (s : State) : Res :=
  match arrive s .reg src dst with
  | .error s' => .next s'
  | .ok (m, s') => match cacheLine s' m.addr with
    | none => .next s
    | some s1 => .next (send (registerAt s1 src m.words m.ctx)
        { kind := .rack, src := dst, dst := src, addr := m.addr, who := src, tag := m.serial, words := m.words })

/-- MRG (R322). -/
def execMrg (src dst : Agent) (s : State) : Res :=
  match arrive s .mrg src dst with
  | .error s' => .next s'
  | .ok (m, s') => .next (send (m.vals.foldl (fun s v => mergeAt s src v m.ctx) s')
      { kind := .mack, src := dst, dst := src, addr := m.addr, who := src, tag := m.serial })

/-- Merges bytes into an owner's holding entry for a word, which it then sends again as a second WB (R322). -/
def mergeHeld (s : State) (who : Agent) (h : Held) (v : WordVal) : State :=
  let h' : Held := { h with val := mergeBytes v.mask v.val h.val, poison := h.poison || v.poison, serial := s.msgSeq }
  send { s with holding := tupd s.holding (unitKey who) [] fun hs => hs.map fun x => if x == h then h' else x }
    { kind := .wb, src := who, dst := homeAgent v.word, addr := lineBase v.word, who, form := 2,
      vals := [⟨v.word, h'.val, 0xF, h'.poison, none⟩] }

/-- MFWD (R322): the owner merges the bytes into its holding entry or its registered copy. -/
def execMfwd (src dst : Agent) (s : State) : Res :=
  match receive s .mfwd src dst with
  | none => .next s
  | some (m, s') =>
    if ownsLater s dst (m.vals.map fun v => v.word) then .next s
    else .next (m.vals.foldl (fun s v => match ownedEntry s dst v.word with
      | some h => mergeHeld s dst h v
      | none => match copyAt s dst v.word with
        | some ⟨.reg, x, _, _, p, _⟩ => putCopy s dst v.word ⟨.reg, mergeBytes v.mask v.val x, 0xF, 0xF, p || v.poison, none⟩
        | _ => s) s')

/-- RACK (R321): an operation whose last acknowledgement this is goes on. -/
def execRack (src dst : Agent) (s : State) : Res :=
  match receive s .rack src dst with
  | none => .next s
  | some (_, s') => .next (settleSyncs s')

/-- MACK (R321). -/
def execMack (src dst : Agent) (s : State) : Res :=
  match receive s .mack src dst with
  | none => .next s
  | some (_, s') => .next (settleSyncs s')

/-! ## Write-backs (R324) -/

/-- WB (R324): the home installs, merges or discards the words; one sent again after a merge brings nothing that the home
does not have. A write-back to the host is accepted by the host. -/
def execWb (src dst : Agent) (s : State) : Res :=
  if dst = .host then .next s
  else match arrive s .wb src dst with
    | .error s' => .next s'
    | .ok (m, s') =>
      let s1 := m.vals.foldl (fun s v => match m.form with
        | 0 => writeBackOwned s src v
        | 1 => writeBackDirty s src v m.ctx
        | _ => s) s'
      .next (settleFlush <| settleSyncs (send s1 { kind := .wack, src := dst, dst := src, addr := m.addr, who := src, tag := m.serial }))

/-- HOST_WRITE_BACK_ACCEPT (R321): the host takes the RDC's write-back of a line, and the release that waits on it goes
on. -/
def execHostWriteBackAccept (line : Nat) (s : State) : Res :=
  match receive s .wb .rdc .host with
  | none => .next s
  | some (m, s') =>
    if m.addr ≠ line then .next s
    else .next (settleSyncs (m.vals.foldl (fun s v => stampFor (putHomeWord s v.word v.mask v.val v.poison) .rdc v.word m.ctx) s'))

/-- WACK (R324): the holding entries of that write-back are freed, and a forced reset that waits for them goes on (R375). -/
def execWack (src dst : Agent) (s : State) : Res :=
  match receive s .wack src dst with
  | none => .next s
  | some (m, s') => .next (settleFlush
      { s' with holding := tupd s'.holding (unitKey dst) [] fun hs => hs.filter fun h => h.serial ≠ m.tag })

/-! ## Atomics and transfers (R327, R328) -/

/-- A home gives words to the sender of an ATQ: the bytes carried enter the order first; VAL words go in DATA, words of
other owners by a transfer with value; the sender is the owner from then on (R327, R328). -/
def giveWords (s : State) (src dst : Agent) (m : Msg) : State :=
  let s1 := m.vals.foldl (fun s v => mergeAt s src v m.ctx) s
  let here := m.words.filter fun w => ownerOf s1 w == none || ownerOf s1 w == some src
  let s2 := if here.isEmpty then s1 else
    send s1 { kind := .data, src := dst, dst := src, addr := m.addr, who := src, form := 1,
              vals := here.map fun w => ⟨w, (newest s1 w).1, 0xF, (newest s1 w).2, none⟩ }
  let s3 := ((ownersOf s1 m.words).filter fun o => o.1 != src).foldl (fun s o =>
    send s { kind := .xferv, src := dst, dst := o.1, addr := m.addr, who := src, words := o.2 }) s2
  m.words.foldl (fun s w => setOwner s w src) s3

/-- ATQ (R328): the words go to the core. In a replay the home waits for the present run of a word to reach its recorded
length (R329); an atomic of the twin ends the recorded runs on its words (R342). -/
def execAtq (src dst : Agent) (s : State) : Res :=
  match arrive s .atq src dst with
  | .error s' => .next s'
  | .ok (m, s') =>
    if m.words.any (isLost s) then .next s'
    else if (match src, m.ctx with
        | .core n, some c => runElsewhere s c m.tag n
        | .far _, some c => runHere s c m.tag
        | _, _ => false) then .next s
    else match cacheLine s' m.addr with
      | none => .next s
      | some s1 => match src with
        | .far _ => (match endRuns s1 (m.words.headD 0) (4 * m.words.length) (stallOp m.serial) fun _ => false with
          | .ok s2 => .next (giveWords s2 src dst m)
          | .error _ => .next s)
        | _ => .next (settleSyncs (giveWords s1 src dst m))

/-- XFER (R327): the old owner's copy becomes INV. -/
def execXfer (src dst : Agent) (s : State) : Res :=
  match receive s .xfer src dst with
  | none => .next s
  | some (m, s') =>
    if m.words.any (fun w => (ownedEntry s dst w).isNone) && ownsLater s dst m.words then .next s
    else .next (m.words.foldl (fun s w => if concernsCopy s' dst w then dropCopy s dst w else s) s')

/-- XFERV (R327): the old owner sends the values to the new one, and its copies become INV. -/
def execXferv (src dst : Agent) (s : State) : Res :=
  match receive s .xferv src dst with
  | none => .next s
  | some (m, s') =>
    if m.words.any (fun w => (ownedEntry s dst w).isNone) && ownsLater s dst m.words then .next s
    else
      let vals := m.words.filterMap fun w => (ownerValue s dst w).map fun x => (⟨w, x.1, 0xF, x.2, none⟩ : WordVal)
      .next (send (m.words.foldl (fun s w => if concernsCopy s' dst w then dropCopy s dst w else s) s')
        { kind := .aval, src := dst, dst := m.who, addr := m.addr, who := m.who, vals })

/-- AVAL (R327): the values arrive at the new owner. -/
def execAval (src dst : Agent) (s : State) : Res :=
  match receive s .aval src dst with
  | none => .next s
  | some (m, s') => .next (ownArrive s s' dst m)

/-! ## Evictions and recalls (R324, R325, R333) -/

/-- RCL (R325): the owner sends WB and keeps its copies as CLN. -/
def execRcl (src dst : Agent) (s : State) : Res :=
  match receive s .rcl src dst with
  | none => .next s
  | some (m, s') =>
    if ownsLater s dst m.words then .next s
    else
      let es := m.words.filterMap fun w => if concernsCopy s' dst w then (copyAt s' dst w).map fun c => (w, c) else none
      if !holdingRoom s dst es.length then .next s
      else
        let s1 := holdAndSend s' dst none true es
        .next (es.foldl (fun s e => putCopy s dst e.1 { e.2 with st := .cln, mask := 0 }) s1)

/-- L1_EVICT (R324): an L1 gives a word up, for the context that has stored to it last; with too few of the 64 holding
entries free the eviction waits. -/
def execL1Evict (core word : Nat) (s : State) : Res := .next (evictL1 s core (tget (tget s.storers core []) word 0) word)

/-- L2_EVICT (R325): a line with owned words is recalled first; a line with LOST words is never evicted. -/
def execL2Evict (line : Nat) (s : State) : Res :=
  let ws := lineWords line
  if !cached s line || ws.any (isLost s) then .next s
  else if allVal s ws then
    .next { s with l2 := (s.l2.map fun slot => slot.filter fun l => l ≠ line).filter fun slot => !slot.isEmpty,
                   l2Evict := s.l2Evict.filter fun l => l ≠ line }
  else .next (recallWords { s with l2Evict := (line :: s.l2Evict).dedup } ws)

/-- RDC_EVICT (R333). -/
def execRdcEvict (line : Nat) (s : State) : Res := .next (rdcGiveUp s line)

/-! ## The host (R308, R333, R334) -/

/-- HOST_READ (R308): the newest value, from the owner when the word is registered; a LOST word answers poisoned (R336).
Memory without power or without a link answers nothing (R382, R383). -/
def execHostRead (addr : Nat) (s : State) : Res :=
  let w := wordBase addr
  if s.mode = .safe ∨ s.mode = .linkWait then .next s
  else if physExists 0 w then
    let s := biasAccess s (lineBase w) true
    .next { s with hostRead := some (w, if isLost s w then 0 else (newest s w).1, isLost s w || (newest s w).2) }
  else .fault .noMemory

/-- HOST_WRITE (R327, R334): the home takes the host's value, and the owner's copy is transferred away; an owner whose value
is still to come gets it first. -/
def execHostWrite (addr : Nat) (v : BitVec 32) (s : State) : Res :=
  let w := wordBase addr
  if s.mode = .safe ∨ s.mode = .linkWait then .next s
  else if physExists 0 w then
    .next (if ownerWaits s w then s else writeAtHome (overtake (biasAccess s (lineBase w) true) w 0xF) w 0xF v false none none)
  else .fault .noMemory

/-- HOST_SNOOP (R333): the RDC answers for a host-homed line: its dirty words reach the host, and it gives the line up. A
write-back of the line that is under way reaches the host first (R319). -/
def execHostSnoop (line : Nat) (s : State) : Res :=
  match (if homeOf line = 2 ∧ hostBusy s line = false then tfind s.hostLines line else none) with
  | none => .next s
  | some l =>
    let out := { s with hostLines := tdel s.hostLines line }
    .next (if l.st = .modified then
      ((lineWords line).zip l.vals).foldl (fun s x => stampFor (putHomeWord s x.1 0xF x.2.1 x.2.2) .rdc x.1 none) out
      else out)

end Sys2Proof.Machine
end

