-- ==== Sys2Proof/Machine/Geometry.lean ====
section
/-!
DEFINITION. The arithmetic of the ray machine on exact values (R217, R227 to R229) and the sort key (R212).
-/

namespace Sys2Proof.Machine

/-! ## Exact values -/

/-- The value of an FP32 word. -/
def f32 (w : Word) : Fp := fpRead fp32 w.toNat

/-- Whether a value is finite. -/
def Fp.finite : Fp → Bool
  | .fin _ _ _ => true
  | _ => false

/-- A finite number m × 2^e; infinities and NaN stand as 0. -/
structure Dyad where
  m : Int
  e : Int
  deriving DecidableEq, Repr

/-- The number of a finite value. -/
def Fp.dyad : Fp → Dyad
  | .fin neg m e => ⟨if neg then -(m : Int) else m, e⟩
  | _ => ⟨0, 0⟩

/-- The mantissa over an exponent not above its own. -/
def Dyad.at (a : Dyad) (q : Int) : Int := a.m * 2 ^ (a.e - q).toNat

/-- Sum, difference and product. -/
def Dyad.add (a b : Dyad) : Dyad := let q := min a.e b.e
  ⟨a.at q + b.at q, q⟩
def Dyad.sub (a b : Dyad) : Dyad := let q := min a.e b.e
  ⟨a.at q - b.at q, q⟩
def Dyad.mul (a b : Dyad) : Dyad := ⟨a.m * b.m, a.e + b.e⟩

/-- A number as a value. -/
def Dyad.fp (a : Dyad) : Fp := .fin (decide (a.m < 0)) a.m.natAbs a.e

/-- The order of values that are not NaN: `a ≤ b`. -/
def fpLe : Fp → Fp → Bool
  | .inf true, _ => true
  | _, .inf false => true
  | .inf false, _ => false
  | _, .inf true => false
  | a, b => decide ((a.dyad.sub b.dyad).m ≤ 0)

/-- Strictly less. -/
def fpLt (a b : Fp) : Bool := !fpLe b a

/-- A number rounded to FP32. -/
def roundDyad (rm : Rm) (a : Dyad) : Word :=
  BitVec.ofNat 32 (if a.m = 0 then 0 else (fpRound fp32 rm false (decide (a.m < 0)) a.m.natAbs a.e false).bits)

/-- A quotient of numbers, the divisor not zero, rounded once to FP32. DESIGN CHOICE (log entry 140): a zero is +0 whatever
the divisor's sign. -/
def roundQuot (rm : Rm) (a b : Dyad) : Word :=
  if a.m = 0 then 0
  else
    let neg := decide (a.m < 0) != decide (b.m < 0)
    let q := quotient a.m.natAbs a.e b.m.natAbs b.e 40
    BitVec.ofNat 32 (fpRound fp32 rm false neg q.1 q.2.1 q.2.2).bits

/-- Whether a rounded word is finite. -/
def finiteW (w : Word) : Bool := (f32 w).finite

/-! ## Boxes (R217, R227) -/

/-- An edge of a child's box: P + Q × 2^E, rounded once. -/
def boxEdge (rm : Rm) (p : Word) (q : Nat) (e : Int) : Word := roundDyad rm ((f32 p).dyad.add ⟨q, e⟩)

/-- (edge − o) / d rounded once; an infinite edge gives an infinity. -/
def slabAt (rm : Rm) (edge o d : Word) : Fp := match f32 edge with
  | .inf neg => .inf (neg != decide ((f32 d).dyad.m < 0))
  | x => f32 (roundQuot rm (x.dyad.sub (f32 o).dyad) (f32 d).dyad)

/-- The interval of one axis; `none` where the box is not entered. -/
def slab (lo hi o d : Word) : Option (Fp × Fp) :=
  if (f32 d).dyad.m = 0 then (if fpLe (f32 lo) (f32 o) && fpLe (f32 o) (f32 hi) then some (.inf true, .inf false) else none)
  else if (f32 d).dyad.m < 0 then some (slabAt .dn hi o d, slabAt .up lo o d)
  else some (slabAt .dn lo o d, slabAt .up hi o d)

/-- The greater and the lesser of two values. -/
def fpMax (a b : Fp) : Fp := if fpLe a b then b else a
def fpMin (a b : Fp) : Fp := if fpLe a b then a else b

/-- A value of FP32 as its word. -/
def fpWord (x : Fp) : Word := BitVec.ofNat 32 (fpDeliver fp32 .ne false x).bits

/-- The entry distance max(tnear, tmin) of a box, if it is entered (R226, R227). -/
def boxEntry (axes : List (Option (Fp × Fp))) (tmin L : Fp) : Option Fp :=
  match axes with
  | [some x, some y, some z] =>
    let near := fpMax x.1 (fpMax y.1 z.1)
    let far := fpMin x.2 (fpMin y.2 z.2)
    if fpLe near far && fpLe near L && fpLe tmin far then some (fpMax near tmin) else none
  | _ => none

/-! ## Instances (R228) -/

/-- One row of the transform applied to a point or a direction. -/
def xformRow (m v : Nat → Word) (withShift : Bool) : Word :=
  let t (i : Nat) : Dyad := (f32 (m i)).dyad.mul (f32 (v i)).dyad
  let x := (t 0).add ((t 1).add (t 2))
  roundDyad .ne (if withShift then x.add (f32 (m 3)).dyad else x)

/-- Whether a vector of three words is zero, and whether it is finite. -/
def zero3 (v : List Word) : Bool := v.all fun w => magOf fp32 w.toNat == 0
def finite3 (v : List Word) : Bool := v.all finiteW

/-- The ray in object space, unless a component is not finite or the direction is zero. -/
def xformRay (m : Nat → Word) (o d : List Word) : Option (List Word × List Word) :=
  let row (i : Nat) (j : Nat) : Word := m (4 * i + j)
  let o' := (List.range 3).map fun i => xformRow (row i) (fun j => o.getD j 0) true
  let d' := (List.range 3).map fun i => xformRow (row i) (fun j => d.getD j 0) false
  if ((List.range 12).all fun i => finiteW (m i)) && finite3 o' && finite3 d' && !zero3 d' then some (o', d') else none

/-! ## Triangles (R229) -/

/-- The axis of the largest magnitude, ties to the lowest (R212, R229); NaN counts as 0. -/
def majorAxis (d : List Word) : Nat :=
  let mag (i : Nat) : Nat := if (f32 (d.getD i 0)).isNan then 0 else magOf fp32 (d.getD i 0).toNat
  if mag 1 ≤ mag 0 ∧ mag 2 ≤ mag 0 then 0 else if mag 2 ≤ mag 1 then 1 else 2

/-- What the test of a triangle finds. -/
structure TriHit where
  t : Word
  u : Word
  v : Word
  back : Bool
  deriving DecidableEq, Repr

/-- The sheared and permuted vertices: x′, y′ and z of each, unless a value is not finite. -/
def shearVertex (o p : List Word) (kx ky kz : Nat) (sx sy : Word) : Option (Word × Word × Word) :=
  let q (k : Nat) : Word := roundDyad .ne ((f32 (p.getD k 0)).dyad.sub (f32 (o.getD k 0)).dyad)
  let sheared (k : Nat) (sk : Word) : Word := roundDyad .ne ((f32 (q k)).dyad.sub ((f32 sk).dyad.mul (f32 (q kz)).dyad))
  let x := sheared kx sx
  let y := sheared ky sy
  if finiteW (q 0) && finiteW (q 1) && finiteW (q 2) && finiteW x && finiteW y then some (x, y, q kz) else none

/-- The edge function of two vertices: P.x′ × Q.y′ − P.y′ × Q.x′. -/
def edgeFn (p q : Word × Word × Word) : Dyad :=
  ((f32 p.1).dyad.mul (f32 q.2.1).dyad).sub ((f32 p.2.1).dyad.mul (f32 q.1).dyad)

/-- The distance and barycentrics of three sheared vertices; the face is `det < 0` (R229). -/
def triSolve (a b c : Word × Word × Word) (sz : Word) : Option TriHit :=
  let u := edgeFn c b
  let v := edgeFn a c
  let w := edgeFn b a
  let det := u.add (v.add w)
  if (u.m < 0 ∨ v.m < 0 ∨ w.m < 0) ∧ (0 < u.m ∨ 0 < v.m ∨ 0 < w.m) then none
  else if det.m = 0 then none
  else
    let num := (u.mul (f32 a.2.2).dyad).add ((v.mul (f32 b.2.2).dyad).add (w.mul (f32 c.2.2).dyad))
    let t := roundQuot .ne ((f32 sz).dyad.mul num) det
    let bu := roundQuot .ne v det
    let bv := roundQuot .ne w det
    if finiteW t && finiteW bu && finiteW bv then some ⟨t, bu, bv, decide (det.m < 0)⟩ else none

/-- The test of a triangle of nine vertex words against a ray (R229), before tmin, tmax and the face. -/
def triTest (verts o d : List Word) : Option TriHit :=
  let kz := majorAxis d
  let k1 := (kz + 1) % 3
  let k2 := (k1 + 1) % 3
  let dz := (f32 (d.getD kz 0)).dyad
  let kx := if dz.m < 0 then k2 else k1
  let ky := if dz.m < 0 then k1 else k2
  let sx := roundQuot .ne (f32 (d.getD kx 0)).dyad dz
  let sy := roundQuot .ne (f32 (d.getD ky 0)).dyad dz
  let sz := roundQuot .ne ⟨1, 0⟩ dz
  let vertex (i : Nat) : Option (Word × Word × Word) := shearVertex o ((verts.drop (3 * i)).take 3) kx ky kz sx sy
  if !(verts.all finiteW) || !finiteW sx || !finiteW sy || !finiteW sz then none
  else match vertex 0, vertex 1, vertex 2 with
    | some a, some b, some c => triSolve a b c sz
    | _, _, _ => none

/-! ## The sort key (R212) -/

/-- ⌊(o − c) / 2^e⌋ clamped to 0 and 15. -/
def cellAxis (o c : Word) (e : Int) : Nat :=
  match f32 o, f32 c with
  | .nan, _ => 0
  | _, .nan => 0
  | .inf n, .inf k => if n = k then 0 else if n then 0 else 15
  | .inf n, _ => if n then 0 else 15
  | _, .inf k => if k then 15 else 0
  | x, y =>
    let d := x.dyad.sub y.dyad
    let q : Int := if e ≤ d.e then d.m * 2 ^ (d.e - e).toNat else d.m / 2 ^ (e - d.e).toNat
    (max 0 (min q 15)).toNat

/-- The origin cell. -/
def originCell (o corner : List Word) (e : Int) : Nat :=
  let c (i : Nat) : Nat := cellAxis (o.getD i 0) (corner.getD i 0) e
  c 0 + 16 * c 1 + 256 * c 2

/-- The direction class. -/
def dirClass (d : List Word) : Nat :=
  let sgn (i : Nat) : Nat := if (d.getD i 0).getLsbD 31 then 1 else 0
  3 * (4 * sgn 2 + 2 * sgn 1 + sgn 0) + majorAxis d

end Sys2Proof.Machine
end

