-- ==== Sys2Proof/Machine/Uses.lean ====
section
/-!
DEFINITION. Which registers a word of class ALU or SFU names, read from its fields (R35 to R37, R47): what a clause needs
of the queue registers before it issues (R165), and what run-ahead knows of its results (R280).
-/

namespace Sys2Proof.Machine

/-- The registers that a word names: source fields read as they stand, runs read, registers written, whether the
destination is a single register, scalars read and written, predicates read, and the predicate written. -/
structure WordUse where
  srcs : List (BitVec 7)
  runs : List (BitVec 7)
  dsts : List (BitVec 7)
  single : Bool
  scal : List Nat
  sdst : List Nat
  preds : List Nat
  pdst : Option Nat
  deriving DecidableEq, Repr

/-- A word that names nothing. -/
def noUse : WordUse := ⟨[], [], [], false, [], [], [], none⟩

/-- The scalar that a VS word reads as B, if SI is 0 (R35). -/
def vsScal (w : Word) : List Nat := if bitAt w 6 then [] else [(fld w 0 6).toNat]

/-- The run length of the packed forms: 8 registers for the 4-bit formats, 4 for the others (R101 to R103). -/
def packRun (op fn : Nat) : Nat := if (op = 0x13 ∨ op = 0x15) ∧ (fn = 4 ∨ fn = 6) ∨ (op = 0x14 ∨ op = 0x17) ∧ fn = 1 then 8 else 4

/-- A word that writes one vector register, or none under NW (R44). -/
def vecUse (w : Word) (srcs : List (BitVec 7)) : WordUse :=
  { noUse with srcs, dsts := if bitAt w 21 then [] else [fld w 14 7], single := !bitAt w 21 }

/-- The registers that a word of class ALU or SFU names; `x` is its extension word. -/
def wordUse (w : Word) (x : Option Word) : WordUse :=
  let op := (opField w).toNat
  let fn := (fnField w).toNat
  let a : BitVec 7 := fld w 7 7
  let b : BitVec 7 := fld w 0 7
  let c : BitVec 7 := (x.map fun x => fld x 0 7).getD 0
  match op with
  | 0x00 | 0x01 | 0x03 | 0x04 | 0x0E | 0x12 | 0x1A | 0x21 => vecUse w [a, b]
  | 0x0D => { vecUse w [a, b] with preds := [fn] }
  | 0x18 => vecUse w (if fn = 5 ∨ fn = 6 then [a] else [a, b])
  | 0x02 | 0x06 | 0x19 | 0x1B => vecUse w [a, b, c]
  | 0x05 | 0x11 | 0x1C | 0x20 => vecUse w [a]
  | 0x07 => { vecUse w [a] with scal := vsScal w }
  | 0x1D => { vecUse w [a] with scal := [(fld w 0 6).toNat] }
  | 0x08 => vecUse w (if fn = 5 then [] else [a])
  | 0x09 | 0x0A | 0x0B => { noUse with srcs := [a, b], pdst := some (fld w 18 3).toNat }
  | 0x0C =>
    { noUse with
      preds := if fn < 4 then [(fld w 15 3).toNat, (fld w 12 3).toNat] else [(fld w 15 3).toNat]
      pdst := some (fld w 18 3).toNat }
  | 0x0F =>
    if fn = 0 then { vecUse w [] with scal := vsScal w }
    else if fn = 1 then { vecUse w [a] with scal := vsScal w }
    else { noUse with srcs := [a], scal := vsScal w, sdst := [(fld w 14 6).toNat] }
  | 0x10 => if fn = 0 then vecUse w [b] else { vecUse w [a, b] with single := false }
  | 0x13 => { vecUse w [b] with runs := runFields a (packRun op fn) }
  | 0x14 => { vecUse w [b, c] with runs := runFields a (packRun op fn) }
  | 0x15 | 0x17 =>
    { noUse with srcs := [a, b], dsts := if bitAt w 21 then [] else runFields (fld w 14 7) (packRun op fn) }
  | 0x16 => { noUse with scal := if fn = 4 then [] else [(fld w 9 6).toNat], sdst := [(fld w 15 6).toNat] }
  | 0x1E | 0x1F =>
    { noUse with
      scal := (fld w 9 6).toNat :: if bitAt w 8 then [] else [(fld w 0 6).toNat]
      sdst := [(fld w 15 6).toNat] }
  | _ => noUse

/-- The instruction words of a clause from a position on, each with its extension word. -/
def instrWords : Nat → List Word → List (Word × Option Word)
  | 0, _ => []
  | _, [] => []
  | fuel + 1, w :: rest => match rest with
    | x :: more => if isExt x then (w, some x) :: instrWords fuel more else (w, none) :: instrWords fuel rest
    | [] => [(w, none)]

/-- Whether a word of class ALU or SFU reads the window of a queue. -/
def popsFrom (g : Group) (q : Nat) (u : WordUse) : Bool :=
  u.srcs.any fun f => (windowOf g f).map Prod.fst == some q

/-- Whether a word of class ALU or SFU pushes to the window of a queue. -/
def pushesTo (g : Group) (q : Nat) (u : WordUse) : Bool :=
  u.single && u.dsts.any fun f => (windowOf g f).map Prod.fst == some q

/-- Whether a clause's words find elements and room enough in the group's queue registers (R165). -/
def queueNeeds (g : Group) (words : List Word) : Bool :=
  let uses := (instrWords 16 words).filterMap fun w =>
    if (opField w.1).toNat < 0x28 then some (wordUse w.1 w.2) else none
  g.queues.all fun e =>
    if e.2.out then decide ((uses.filter (pushesTo g e.1)).length + e.2.elems.length ≤ queueDepth)
    else decide ((uses.filter (popsFrom g e.1)).length ≤ e.2.elems.length)

end Sys2Proof.Machine
end

