-- ==== Sys2Proof/Machine/Clause.lean ====
section
/-!
DEFINITION. Which clause an issue slot starts (R266, R109, R111), its fetch (R386, R387) and check (R31), the reissue
after a fault batch (R279), the end of run-ahead (R280), and grants of register granules (R117, R249).
-/

namespace Sys2Proof.Machine

/-! ## Parking (R109) -/

/-- A running slot that stands at its RPC parks. -/
def parkSlot (p : PcSlot) : PcSlot := if p.st = .running ∧ p.rpc = some p.pc then { p with st := .parked } else p

/-- Parks the slots of a group that stand at their RPC and applies R111, until neither changes anything; every
application of R111 that does pops an entry. -/
def parkAll : Nat → State → Nat → Nat → State
  | 0, s, _, _ => s
  | fuel + 1, s, core, slot => match groupAt s core slot with
    | none => s
    | some g =>
      let g' := { g with a := parkSlot g.a, b := parkSlot g.b }
      if g'.a = g.a ∧ g'.b = g.b then s else parkAll fuel (settle s g') core slot

/-! ## Issue slots (R266) -/

/-- Whether a group may not start or go on with a clause: not yet eligible (R260), stopped, halted or about to be once its
word has retired, with a fault that waits for system software, an event that waits for room in the coalescer (R372), or a REGGROW, a REGSHRINK or a rel
that has not begun. -/
def issueHeld (s : State) (g : Group) : Bool :=
  g.stopped.isSome || g.halted || (g.haltAsked && g.batch.isNone) || (g.batch.map fun b => !b.released).getD false || g.grow.isSome || g.shrink.isSome ||
  g.waitingSince.isSome || decide (s.clock < g.issuedAt) || eventWaits s g ||
  s.syncOps.any fun o => o.core == g.core && o.slot == g.slot && o.stage == .waiting

/-- Whether a group holds its issue slot with a clause (R33). -/
def holdsSlot (g : Group) : Bool :=
  g.clause.isSome && g.stopped.isNone && !g.halted && !(g.batch.map fun b => !b.released).getD false

/-- The groups of an issue slot. -/
def issueGroups (s : State) (core iss : Nat) : List Group :=
  s.groups.filter fun g => g.core == core && g.slot % 8 == iss

/-- Whether an issue slot is taken by a clause of a group other than the one in `slot`. -/
def slotTaken (s : State) (core iss slot : Nat) : Bool := (issueGroups s core iss).any fun g => g.slot ≠ slot && holdsSlot g

/-- Whether a group has been a candidate for 4,096 clocks without starting a clause (R266). -/
def overdue (s : State) (g : Group) : Bool := (g.candSince.map fun t => decide (t + 4096 ≤ s.clock)).getD false

/-- The effective class of a group (R266). -/
def effClass (s : State) (g : Group) : Nat := if g.promoted || overdue s g then 0 else g.cls

/-- The rank of a program-counter slot among the candidates, least first (R266). -/
def rankKey (s : State) (g : Group) (i : SlotId) : List Nat :=
  [if g.yielded then 1 else 0, effClass s g, g.issuedAt, g.slot, (pcSlot g i).since, if i = .a then 0 else 1]

/-- Lexicographic order of ranks. -/
def rankLe : List Nat → List Nat → Bool
  | [], _ => true
  | _, [] => false
  | a :: as, b :: bs => decide (a < b) || (a == b && rankLe as bs)

/-- The running slots of the groups of an issue slot that are not held, by rank. While a clause waits to be resumed in
the middle, its slot is the group's only one. -/
def slotOrder (s : State) (core iss : Nat) : List (Nat × SlotId) :=
  (((issueGroups s core iss).flatMap fun g =>
    if issueHeld s g then []
    else ([SlotId.a, SlotId.b].filter fun i => (pcSlot g i).st == .running &&
      (g.resume.map fun r => r.pcs == i).getD true).map fun i => (rankKey s g i, g.slot, i)).mergeSort fun a b => rankLe a.1 b.1).map Prod.snd

/-! ## Fetching a clause (R386, R387) -/

/-- What a slot finds when it would start its next clause. -/
inductive StartTry where
  | start (c : Clause) (fresh : Bool)
  | over (pc : Nat)                                    -- nothing of a resumed clause is left
  | trap (cause word idx : Nat) (hdr : Word) (pc : Nat)
  | batch (word idx : Nat) (hdr : Word) (pc : Nat)
  | not
  | wait (s : State)

/-- Fetches `n` words of a clause from a position on: the words, or the fault with its address, or a wait. -/
def fetchWords (s : State) (g : Group) (base : Nat) : Nat → Nat → List Word → Except (Nat × Nat ⊕ State) (List Word)
  | 0, _, acc => .ok acc
  | n + 1, i, acc => match fetchWord s g.ctx g.core (base + 4 * (i + 1)) with
    | .word w => fetchWords s g base n (i + 1) (acc ++ [w])
    | .fault k => .error (.inl (k, base + 4 * (i + 1)))
    | .wait s' => .error (.inr s')

/-- A fetch fault: cause 0x20 goes to system software first (R387). -/
def fetchFault (cause word idx : Nat) (hdr : Word) (pc : Nat) : StartTry :=
  if cause = 0x20 then .batch word idx hdr pc else .trap cause word idx hdr pc

/-- Whether the counters that a header's WAIT bits name read zero (R29). -/
def waitMet (g : Group) (h : Word) : Bool := (List.range 6).all fun n => !hdrWait h n || cnt g n == 0

/-- Whether an acq holds a clause back: one of class MEM, ENG or RAY, whose words it would hold (R138, R266). -/
def classHeld (s : State) (g : Group) (h : Word) : Bool :=
  acqHeld s g && (hdrClass h == 2 || hdrClass h == 4 || hdrClass h == 5)

/-- A slot's start at its next header: the header, then every word that it counts, then the check of R31 (R31, R32, R387).
DESIGN CHOICE, log entry 115: R386 lets the words of one clause come from different moments; here one turn fetches them all,
and a fetch that has to wait begins again with the header. -/
def tryFresh (s : State) (g : Group) (i : SlotId) : StartTry :=
  let pc := (pcSlot g i).pc
  match fetchWord s g.ctx g.core pc with
  | .wait s' => .wait s'
  | .fault k => fetchFault k pc 1 0 pc
  | .word h =>
    if isHeader h = false then .trap 0x02 pc 1 h pc
    else if waitMet g h = false || classHeld s g h then .not
    else match fetchWords s g pc (hdrN h) 0 [] with
      | .error (.inr s') => .wait s'
      | .error (.inl (k, a)) => fetchFault k a 1 h pc
      | .ok ws => if hdrOk h = false then .trap 0x02 pc 1 h pc else match clauseFlaw (hdrClass h) ws 0 with
        | some k => .trap 0x02 (pc + 4 * (k + 1)) 1 h pc
        | none => if queueNeeds g ws then .start ⟨i, pc, h, ws, 0⟩ true else .not

/-- A slot's return to a clause in the middle (R115, R386, R390): its WAIT bits are not looked at again. DESIGN CHOICE, log
entry 116: every remaining word is fetched before the resumed word issues, so a fault of a later word's fetch comes first. -/
def tryResume (s : State) (g : Group) (r : Resume) : StartTry :=
  let n := hdrN r.hdr
  if classHeld s g r.hdr then .not
  else if r.words ≠ [] then .start ⟨r.pcs, r.addr, r.hdr, r.words, r.idx⟩ false
  else match fetchWords s g r.addr (n - r.idx) r.idx (List.replicate r.idx 0) with
    | .error (.inr s') => .wait s'
    | .error (.inl (k, a)) => fetchFault k a ((a - r.addr) / 4) r.hdr a
    | .ok ws =>
      let idx := if r.skip ∧ (ws[r.idx]?.map isExt).getD false then r.idx + 1 else r.idx
      if idx < n then .start ⟨r.pcs, r.addr, r.hdr, ws, idx⟩ false else .over (r.addr + 4 * (1 + n))

/-- What a slot of a group finds. -/
def tryStart (s : State) (g : Group) (i : SlotId) : StartTry := match g.resume with
  | some r => tryResume s g r
  | none => tryFresh s g i

/-! ## CLAUSE_START -/

/-- The group that has started a clause. -/
def started (s : State) (g : Group) (c : Clause) (fresh : Bool) : Group :=
  let g := if fresh then dropLatches g else g
  { g with clause := some c, resume := none, issuedAt := s.clock, candSince := none, promoted := false,
           yielded := hdrYield c.hdr }

/-- What an issue slot does with a slot that can act. A wave that differs from its record traps at its first lane as its
first clause would start (R216). -/
def actStart (s : State) (g : Group) (i : SlotId) : StartTry → State
  | .start c fresh => match g.diverged with
    | some addr => takeTrap s { g with diverged := none } i ⟨0x50, 1, addr, 0xFF, [], c.addr, 1, c.hdr, true⟩
    | none => { setGroup s (started s g c fresh) with cur := some (g.core, g.slot) }
  | .over pc =>
    let p := pcSlot g i
    setGroup s (setSlot { dropLatches g with resume := none } i { p with pc := pc })
  | .trap cause word idx hdr pc =>
    takeTrap s g i ⟨cause, (pcSlot g i).mask, word, 0xFF, [], pc, idx, hdr, g.resume.isNone⟩
  | .batch word idx hdr pc => startBatch s g (.fetch i pc word idx hdr) [(word, 0x20)] false
  | .not => s
  | .wait s' => s'

/-- The issue slot's choice: the first slot in rank that can act does. -/
def startFirst (core : Nat) : List (Nat × SlotId) → State → State
  | [], s => s
  | (slot, i) :: rest, s => match groupAt s core slot with
    | none => startFirst core rest s
    | some g => match tryStart s g i with
      | .not => startFirst core rest s
      | .wait s' => startFirst core rest s'
      | act => actStart s g i act

/-- CLAUSE_START (R266, R387): an issue slot that is free starts at most one clause. -/
def execClauseStart (core iss : Nat) (s : State) : Res :=
  if (issueGroups s core iss).any holdsSlot then .next s
  else
    let s := (issueGroups s core iss).foldl (fun s g => if issueHeld s g then s else parkAll (g.depth + 3) s core g.slot) s
    .next (startFirst core (slotOrder s core iss) s)

/-- Whether a program-counter slot is a candidate (R266): it could start a clause, and its group has none in issue there. -/
def candidateSlot (s : State) (g : Group) (i : SlotId) : Bool :=
  let p := pcSlot g i
  p.st == .running && p.rpc != some p.pc && (g.clause.map fun c => c.pcs != i).getD true &&
  (g.resume.map fun r => r.pcs == i).getD true && match tryStart s g i with
    | .not => false
    | .wait _ => false
    | _ => true

/-- Whether a group has a candidate slot. -/
def isCandidate (s : State) (g : Group) : Bool := !issueHeld s g && [SlotId.a, SlotId.b].any (candidateSlot s g)

/-- The clocks for which a group has had a candidate slot, counted as a clock ends; a group that has reached 4,096 keeps
class 0 for its next clause (R266). -/
def countCandidate (s : State) (g : Group) : Group :=
  if isCandidate s g then { g with candSince := some (g.candSince.getD s.clock) }
  else { g with candSince := none, promoted := g.promoted || overdue s g }

/-- ISSUE_PROMOTE (R266): a candidate that has started no clause for 4,096 clocks has effective class 0. -/
def execIssuePromote (core slot : Nat) (s : State) : Res :=
  match groupAt s core slot with
  | some g => if overdue s g then .next (setGroup s { g with promoted := true }) else .next s
  | none => .next s

/-! ## Fault batches and run-ahead (R279, R280) -/

/-- RUN_AHEAD_TIMEOUT (R280): run-ahead ends 2,048 clocks after the fault. -/
def execRunAheadTimeout (core slot : Nat) (s : State) : Res :=
  match groupAt s core slot with
  | some g => if (g.batch.map fun b => decide (b.since + 2048 ≤ s.clock)).getD false then .next (endAhead s g) else .next s
  | none => .next s

/-- The trap of a fetch whose page has been given up (R387). -/
def givenUpFetch (s : State) (g : Group) (pcs : SlotId) (pc word idx : Nat) (hdr : Word) : State :=
  takeTrap s { g with batch := none } pcs
    ⟨0x20, (pcSlot g pcs).mask, word, 0xFF, [], pc, idx, hdr, g.resume.isNone⟩

/-- FAULT_REISSUE (R279, steps 5 and 6): with a verdict for every page, a fetch is made again or traps, and any other
instruction issues again once its issue slot is free. -/
def execFaultReissue (core slot : Nat) (s : State) : Res :=
  match groupAt s core slot with
  | none => .next s
  | some g => match g.batch with
    | none => .next s
    | some b =>
      if b.ahead || b.released || g.halted || g.stopped.isSome || b.pages.any fun p => p.verdict.isNone then .next s
      else
      let s := dropCoreFails s g.ctx g.core
      match b.what with
        | .fetch pcs pc word idx hdr =>
          if b.pages.any fun p => p.verdict == some false then .next (givenUpFetch s g pcs pc word idx hdr)
          else .next (setGroup s { g with batch := none })
        | _ => if slotTaken s core (slot % 8) slot then .next s
          else .next { setGroup s { g with batch := some { b with released := true } } with cur := some (core, slot) }

/-! ## Register granules (R117, R249) -/

/-- Granules that the groups of a core hold. -/
def granulesUsed (s : State) (core : Nat) : Nat :=
  ((s.groups.filter fun g => g.core == core).map fun g => g.regAlloc / 4).sum

/-- Granules free on a core. -/
def granulesFree (s : State) (core : Nat) : Nat := Config.granulesPerCore - granulesUsed s core

/-- Granules that the waiting REGGROW requests of a core ask for. -/
def granulesAsked (s : State) (core : Nat) : Nat :=
  ((s.groups.filter fun g => g.core == core).map fun g => match g.grow with
    | some (n, _) => (n - g.regAlloc) / 4
    | none => 0).sum

/-- The waiting REGGROW requests of a core: since when, the slot, and the allocation. -/
def growRequests (s : State) (core : Nat) : List (Nat × Nat × Nat) :=
  (s.groups.filter fun g => g.core == core).filterMap fun g => g.grow.map fun r => (r.2, g.slot, r.1)

/-- The oldest of some requests; of equals the lower slot (DESIGN CHOICE, log entry 117). -/
def oldestOf : List (Nat × Nat × Nat) → Option (Nat × Nat × Nat)
  | [] => none
  | r :: rs => match oldestOf rs with
    | none => some r
    | some q => if r.1 < q.1 ∨ (r.1 = q.1 ∧ r.2.1 ≤ q.2.1) then some r else some q

/-- REGGROW_GRANT (R117): the oldest waiting request is granted once its granules are free; the new registers read 0. -/
def execReggrowGrant (core : Nat) (s : State) : Res :=
  match oldestOf (growRequests s core) with
  | none => .next s
  | some (_, slot, n) => match groupAt s core slot with
    | none => .next s
    | some g =>
      if (n - g.regAlloc) / 4 ≤ granulesFree s core then .next (setGroup s { setAlloc g n with grow := none }) else .next s

/-- REGSHRINK_DONE (R117): the shrink takes effect once no outstanding load has a destination above it. -/
def execRegshrinkDone (core slot : Nat) (s : State) : Res :=
  match groupAt s core slot with
  | none => .next s
  | some g => match g.shrink with
    | none => .next s
    | some n => if loadAbove g n then .next s else .next (setGroup s { setAlloc g n with shrink := none })

end Sys2Proof.Machine
end

