-- ==== Sys2Proof/Machine/Launch.lean ====
section
/-!
DEFINITION. The launch unit: queues and launch records (R250 to R257), placement (R258 to R263), the end of groups, teams,
clusters and grids (R264), and completion records (R251, R265).
-/

namespace Sys2Proof.Machine

/-! ## Queues (R250, R252) -/

/-- The offset of a queue's descriptor. -/
def queueBase (q : Nat) : Nat := 0x1000 + 64 * q

/-- A word of a queue's descriptor. -/
def qWord (s : State) (q off : Nat) : Nat := (barWord s (queueBase q + off)).toNat

/-- The context that a queue is bound to, while EN = 1. -/
def qCtx (s : State) (q : Nat) : Option Nat :=
  let w := barWord s (queueBase q + 0x20)
  if w.getLsbD 7 then some (w.toNat % 64) else none

/-- QCLASS, DLM, REJ, STP, HMASK. -/
def qClass (s : State) (q : Nat) : Nat := qWord s q 0x20 / 2 ^ 8 % 4
def qDlm (s : State) (q : Nat) : Bool := (barWord s (queueBase q + 0x20)).getLsbD 10
def qRej (s : State) (q : Nat) : Bool := (barWord s (queueBase q + 0x20)).getLsbD 11
def qStp (s : State) (q : Nat) : Bool := (barWord s (queueBase q + 0x20)).getLsbD 12
def qHmask (s : State) (q : Nat) : Nat := qWord s q 0x20 / 2 ^ 16 % 256

/-- RING, RSZ, RD, WR. -/
def qRing (s : State) (q : Nat) : Nat := bitsOf (barDWord s (queueBase q)) 0 48
def qSize (s : State) (q : Nat) : Nat := 2 ^ bitsOf (barDWord s (queueBase q)) 48 4
def qRd (s : State) (q : Nat) : Nat := qWord s q 0x08
def qWr (s : State) (q : Nat) : Nat := qWord s q 0x0C

/-- Whether a queue has room for a record. -/
def qRoom (s : State) (q : Nat) : Bool := decide ((qWr s q + 2 ^ 32 - qRd s q) % 2 ^ 32 < qSize s q)

/-- Whether a queue is promoted: DLM = 1 and its slack DLINE − CLOCK below BOOST. -/
def qPromoted (s : State) (q : Nat) : Bool :=
  qDlm s q && decide ((barDWord s (queueBase q + 0x28) - BitVec.ofNat 64 s.clock).toInt < (qWord s q 0x30 : Int))

/-- The effective class of a queue (R252). -/
def qEffClass (s : State) (q : Nat) : Nat := if qPromoted s q then 0 else qClass s q

/-- The rank of a queue in service order: class; deadline queues first, by DLINE; the others in rotation (R252). -/
def qRank (s : State) (q : Nat) : List Nat :=
  if qDlm s q then [qEffClass s q, 0, (barDWord s (queueBase q + 0x28)).toNat, q]
  else
    let last := tget s.served (qEffClass s q) 31
    [qEffClass s q, 1, (q + 31 - last) % 32, q]

/-- The queues in service order. -/
def serviceOrder (s : State) : List Nat :=
  (((List.range 32).map fun q => (qRank s q, q)).mergeSort fun a b => rankLe a.1 b.1).map Prod.snd

/-! ## Completion records (R251, R265) -/

/-- COVF goes up. -/
def overflowRec (s : State) (q : Nat) : State :=
  putBar s (queueBase q + 0x1C) (barWord s (queueBase q + 0x1C) + 1)

/-- The location of the slot of a queue's next completion record, if one can be written. -/
def complSlot (s : State) (q ctx : Nat) : Option Nat :=
  let cring := barDWord s (queueBase q + 0x10)
  let csz := 2 ^ bitsOf cring 48 4
  if bitsOf cring 0 48 = 0 ∨ csz ≤ (qWord s q 0x18 + 2 ^ 32 - qWord s q 0x38) % 2 ^ 32 then none
  else devLoc s ctx (bitsOf cring 0 48 + 32 * (qWord s q 0x18 % csz)) .write

/-- Writes a completion record, or counts it as dropped. -/
def writeCompl (s : State) (q ctx : Nat) (tag : Nat) (gid level status rsrc cl tm rerr : Nat) : State :=
  match complSlot s q ctx with
  | none => overflowRec s q
  | some loc =>
    let ws : List Word := [BitVec.ofNat 32 tag, BitVec.ofNat 32 gid,
      BitVec.ofNat 32 (level + status * 2 ^ 8 + rsrc * 2 ^ 16 + q * 2 ^ 24), BitVec.ofNat 32 cl, BitVec.ofNat 32 tm,
      BitVec.ofNat 32 rerr, BitVec.ofNat 32 s.clock, BitVec.ofNat 32 (s.clock / 2 ^ 32)]
    putBar (homeWrites s loc ws (some ctx)) (queueBase q + 0x18) (barWord s (queueBase q + 0x18) + 1)

/-- Raises a queue's interrupt. -/
def queueIrq (s : State) (q : Nat) : State := { s with irqs := qWord s q 0x34 % 2048 :: s.irqs }

/-! ## Launch records (R253) -/

/-- Word `i` of a grid's record. -/
def Grid.w (g : Grid) (i : Nat) : DWord := g.recw.getD i 0

/-- Fields of a launch record. -/
def recKind (r : List DWord) : Nat := bitsOf (r.getD 0 0) 48 4
def recEntry (r : List DWord) : Nat := bitsOf (r.getD 0 0) 0 48
def recFlag (r : List DWord) (i : Nat) : Bool := (r.getD 0 0).getLsbD i
def recTag (r : List DWord) : Nat := bitsOf (r.getD 6 0) 0 32
def recSplit (r : List DWord) : Nat := bitsOf (r.getD 6 0) 32 16
def recSpb (r : List DWord) : Nat := bitsOf (r.getD 7 0) 0 48
def recNcl (r : List DWord) : Nat := bitsOf (r.getD 2 0) 0 32
def recCw (r : List DWord) : Nat := bitsOf (r.getD 2 0) 32 4
def recCh (r : List DWord) : Nat := bitsOf (r.getD 2 0) 36 4
def recNg (r : List DWord) : Nat := bitsOf (r.getD 2 0) 40 5
def recRegs (r : List DWord) : Nat := bitsOf (r.getD 3 0) 0 7
def recScr (r : List DWord) : Nat := bitsOf (r.getD 3 0) 8 20
def recNent (r : List DWord) : Nat := if recKind r = 1 then bitsOf (r.getD 2 0) 32 16 else 0
def recGen (r : List DWord) : Nat := bitsOf (r.getD 2 0) 48 16
def recPix0 (r : List DWord) : Nat := bitsOf (r.getD 3 0) 0 32
def recNpix (r : List DWord) : Nat := bitsOf (r.getD 3 0) 32 32
def recSmp0 (r : List DWord) : Nat := bitsOf (r.getD 4 0) 0 24
def recSpp (r : List DWord) : Nat := bitsOf (r.getD 4 0) 32 16
def recTla (r : List DWord) : Nat := bitsOf (r.getD 5 0) 0 48

/-- Whether a grid is a ray grid. -/
def Grid.isRay (g : Grid) : Bool := recKind g.recw == 1

/-- FW and FH as they stand after word 2 of a ray record: a non-zero field replaces the context's (R253). -/
def frameAfter (s : State) (ctx : Nat) (r : List DWord) : Nat × Nat :=
  let w := (ctxWord s ctx 0x0B0).toNat
  let fw := bitsOf (r.getD 2 0) 0 16
  let fh := bitsOf (r.getD 2 0) 16 16
  (if fw = 0 then w % 2 ^ 16 else fw, if fh = 0 then w / 2 ^ 16 else fh)

/-- A context's capacity of ray records: its share and its spill region's (R192, R209, R290). -/
def rayCapacity (s : State) (ctx : Nat) : Nat :=
  (ctxWord s ctx 0x080).toNat + (ctxDWord s ctx 0x090).toNat / 128

/-- The cause with which a read of the launch unit fails. -/
def readFault (s : State) (ctx va : Nat) : Option Nat := match xlatNow s ctx noTlb va .read with
  | .error k => some k
  | .ok leaf => if !leaf.dsc && anyPoison s (leaf.at va) 2 then some 0x70 else none

/-- The words at a virtual address, if every one can be read and holds no uncorrectable data (R256, code 0x0D). -/
def readable (s : State) (ctx va n : Nat) : Option (List DWord) :=
  if (List.range n).all fun i => (readFault s ctx (va + 8 * i)).isNone then
    some ((List.range n).map fun i => readDev s ctx (va + 8 * i))
  else none

/-- The words that the launch unit reads at a virtual address. -/
def unitWords (s : State) (ctx va n : Nat) : List Nat := (List.range n).flatMap fun i =>
  match xlatNow s ctx noTlb (va + 8 * i) .read with
  | .ok leaf => if leaf.dsc then [] else [leaf.at (va + 8 * i), leaf.at (va + 8 * i) + 4]
  | .error _ => []

/-- The walks with which the launch unit has read the words at a virtual address fill the device's TLB (R276). -/
def fillRead (s : State) (ctx va n : Nat) : State :=
  (((List.range n).map fun i => (va + 8 * i) / 4096 * 4096).dedup).foldl (fun s p => fillNow s ctx noTlb p) s

/-- The report of the first word of some that cannot be read (R126, R273); an absent page is not reported (R256). -/
def tellUnread (s : State) (ctx va n : Nat) : State :=
  match (List.range n).findSome? fun i => (readFault s ctx (va + 8 * i)).map fun k => (k, va + 8 * i) with
  | some f => tellFault s ctx noCore none 0 f.1 f.2
  | none => s

/-- The shader-table entries of a ray record, if they can be read (R255). -/
def readEntries (s : State) (ctx : Nat) (r : List DWord) : Option (List (DWord × DWord)) :=
  (List.range (recNent r)).mapM fun e =>
    (readable s ctx (recEntry r + 16 * e) 2).map fun ws => (ws.getD 0 0, ws.getD 1 0)

/-- Fields of a shader-table entry. DEDUCED, log entry 136: a slot's address is a multiple of 4 (R28), so CODE reads with its
bits [1:0] zero. -/
def entCode (e : DWord × DWord) : Nat := bitsOf e.1 0 48 / 4 * 4
def entKind (e : DWord × DWord) : Nat := bitsOf e.1 48 2
def entRegs (e : DWord × DWord) : Nat := bitsOf e.2 0 7
def entFp (e : DWord × DWord) : Nat := bitsOf e.2 16 9
def entAhe (e : DWord × DWord) : Nat := bitsOf e.2 32 16
def entSplit (e : DWord × DWord) : Nat := bitsOf e.2 48 16

/-- Whether an allocation is a multiple of 4 within its bounds. -/
def allocIn (lo n : Nat) : Bool := n % 4 == 0 && decide (lo ≤ n) && decide (n ≤ 124)

/-- Whether an entry of the shader table breaks a rule of its own (R256, code 0x09). -/
def entBad (r : List DWord) (e : DWord × DWord) : Bool :=
  bitsOf e.1 50 14 != 0 || bitsOf e.2 7 9 != 0 || bitsOf e.2 25 7 != 0 || !allocIn 16 (entRegs e) ||
  (entKind e != 1 && entAhe e != 0xFFFF) || decide (recSplit r < entSplit e)

/-- Whether a field that must be zero is not, or KIND is reserved (R253). -/
def recReserved (r : List DWord) : Bool :=
  decide (1 < recKind r) || bitsOf (r.getD 0 0) 58 6 != 0 || bitsOf (r.getD 1 0) 48 16 != 0 || bitsOf (r.getD 6 0) 48 16 != 0 ||
  bitsOf (r.getD 7 0) 48 16 != 0 ||
  (if recKind r = 0 then bitsOf (r.getD 2 0) 45 19 != 0 || bitsOf (r.getD 3 0) 7 1 != 0 || bitsOf (r.getD 3 0) 28 36 != 0 ||
      r.getD 4 0 != 0 || r.getD 5 0 != 0
   else bitsOf (r.getD 4 0) 24 8 != 0 || bitsOf (r.getD 4 0) 48 16 != 0 || bitsOf (r.getD 5 0) 48 16 != 0)

/-- Whether an address is zero or misaligned. -/
def badAddr (a n : Nat) : Bool := a == 0 || a % n != 0

/-- The checks of a compute record after codes 0x01 and 0x02, in their order. -/
def checkCompute (r : List DWord) (hmask : Nat) : Nat :=
  if recNcl r = 0 ∨ 2 ^ 31 < recNcl r then 3
  else if recCw r = 0 ∨ 3 < recCw r ∨ recCh r = 0 ∨ 4 < recCh r then 4
  else if recNg r = 0 ∨ 16 < recNg r then 5
  else if !allocIn 8 (recRegs r) then 6
  else if 655360 < recScr r ∨ recScr r % 8 ≠ 0 then 7
  else if (if recSplit r = 0 then recSpb r != 0 else badAddr (recSpb r) 16) then 8
  else if hmask = 0 then 0x0E
  else 0

/-- The checks of a ray record after codes 0x01 and 0x02, in their order. -/
def checkRay (s : State) (ctx : Nat) (r : List DWord) (ents : Option (List (DWord × DWord))) : Nat :=
  if (if recSplit r = 0 then recSpb r != 0 else badAddr (recSpb r) 16) then 8
  else if recNent r = 0 ∨ recNent r ≤ recGen r then 9
  else if (ents.map fun es => es.any (entBad r) || entKind (es.getD (recGen r) (0, 0)) != 0).getD false then 9
  else if recNpix r = 0 ∨ recSpp r = 0 ∨ 2 ^ 24 < recSmp0 r + recSpp r ∨
      (frameAfter s ctx r).1 * (frameAfter s ctx r).2 < recPix0 r + recNpix r then 0x0A
  else if rayCapacity s ctx = 0 then 0x0B
  else if recFlag r 56 || recFlag r 57 then 0x0C
  else if ents.isNone then 0x0D
  else 0

/-- The first failing check of a launch record, 0 for none (R256). -/
def checkRecord (s : State) (ctx q : Nat) (r : List DWord) : Nat :=
  if recReserved r then 1
  else if recKind r = 0 then (if badAddr (recEntry r) 256 then 2 else checkCompute r (qHmask s q))
  else if badAddr (recEntry r) 64 || badAddr (recTla r) 16384 then 2
  else checkRay s ctx r (readEntries s ctx r)

/-! ## Taking a record (R250, R257) -/

/-- RD advances. -/
def advanceRd (s : State) (q : Nat) : State := putBar s (queueBase q + 0x08) (barWord s (queueBase q + 0x08) + 1)

/-- The LAUNCH command that wrote the record at an index of a queue: its place among the commands of the launch unit. -/
def launchCmd (s : State) (q i : Nat) : Option EngCmd :=
  (tget s.engines 64 []).find? fun c => c.started && c.ended.isNone && c.wait == some (i * 32 + q)

/-- A LAUNCH command ends with an error class (R158). -/
def endLaunch (s : State) (id : Option Nat) (cls : Nat) : State := match id with
  | none => s
  | some id =>
    { s with engines := tupd s.engines 64 [] fun cs => cs.map fun c => if c.id == id then { c with ended := some cls } else c }

/-- A record is rejected (R256, R257): a grid record is written, and then its GIR raises the interrupt (R265). -/
def rejectRecord (s : State) (q ctx : Nat) (tag rsrc : Nat) (gir : Bool) (cmd : Option EngCmd) : State :=
  let s := writeCompl s q ctx tag 0xFFFFFFFF 0 1 rsrc 0 0 0
  let s := if gir then queueIrq s q else s
  let s := endLaunch s (cmd.map fun c => c.id) 0x20
  if qRej s q then advanceRd s q else putBar s (queueBase q + 0x20) (barWord s (queueBase q + 0x20) ||| 0x1000)

/-- Whether a context's launches go on: live, not being pre-empted, and not stopped by a divergence (R347, R374). -/
def launches (s : State) (ctx : Nat) : Bool :=
  (ctxOf s ctx).live && !(ctxOf s ctx).preempt && logGoes s ctx

/-- Whether a grid is fully placed: a ray grid once accepted (R256, R261). -/
def Grid.placed (g : Grid) : Bool := if g.isRay then g.id.isSome else decide (recNcl g.recw ≤ g.nextCluster)

/-- The head of a queue. -/
def headOf (s : State) (q : Nat) : Option Grid := s.grids.find? fun g => g.queue == q && !g.placed

/-- Rewrites a grid. -/
def updGrid (s : State) (key : Nat) (f : Grid → Grid) : State :=
  { s with grids := s.grids.map fun g => if g.key == key then f g else g }

/-- The words that the launch unit reads of a queue's next record: the record, and the entries of its shader table. -/
def headWords (s : State) (ctx q : Nat) : List Nat :=
  let va := qRing s q + 64 * (qRd s q % qSize s q)
  let entries := match readable s ctx va 8 with
    | some r => unitWords s ctx (recEntry r) (2 * recNent r)
    | none => []
  unitWords s ctx va 8 ++ entries

/-- The launch unit takes a queue's next record, if it may (R250, R261): the record is read once, with an acquire at
SYSTEM scope, and checked. It snoops the host for host-biased lines first and waits (R286). -/
def takeRecord (s0 : State) (q : Nat) : State :=
  match qCtx s0 q with
  | none => s0
  | some ctx =>
    if qStp s0 q || qWr s0 q == qRd s0 q || (headOf s0 q).isSome || !launches s0 ctx then s0
    else (snoopFirst s0 (headWords s0 ctx q)).getD <|
      let s := engineAcquire s0 5
      let i := qRd s q
      let cmd := launchCmd s q i
      match readable s ctx (qRing s q + 64 * (i % qSize s q)) 8 with
      | none => rejectRecord (tellUnread s ctx (qRing s q + 64 * (i % qSize s q)) 8) q ctx 0 0x0D false cmd
      | some r =>
        let bad := checkRecord s ctx q r
        if bad ≠ 0 then
          rejectRecord (if bad = 0x0D then tellUnread s ctx (recEntry r) (2 * recNent r) else s) q ctx (recTag r) bad (recFlag r 55) cmd
        else
          let s := fillRead (fillRead s ctx (qRing s q + 64 * (i % qSize s q)) 8) ctx (recEntry r) (2 * recNent r)
          { advanceRd s q with
            nextId := s.nextId + 1,
            grids := s.grids ++
              [⟨ctx, s.nextId, none, q, r, (readEntries s ctx r).getD [], bitsOf (r.getD 0 0) 52 2, 0, s.clock, none, [], 0, 0, 0,
                [], [], cmd.map fun c => c.id, none⟩] }

/-! ## Groups -/

/-- Mix (R69). -/
def mix32 (a b : Word) : Word :=
  let x := a ^^^ (b * 0x9E3779B9)
  let x := x ^^^ (x >>> 16)
  let x := x * 0x85EBCA6B
  let x := x ^^^ (x >>> 13)
  if x = 0 then 1 else x

/-- The lane seed of a compute group (R69). -/
def laneSeed (grid cluster team index l : Nat) : Word :=
  mix32 (BitVec.ofNat 32 grid) (BitVec.ofNat 32 (((cluster * 12 + team) * 16 + index) * 128 + l))

/-- A group at its start (R8, R11, R109): slot A at the entry, everything else clear. -/
def freshGroup (core slot ctx grid cls regs : Nat) (kind : GroupKind) (entry : Nat) (mask : Mask) (split spillBase : Nat)
    (eligible : Nat) : Group :=
  { core, slot, ctx, grid, cluster := 0xFFFFFFFF, team := 0, index := 0, kind, cls, regAlloc := regs, splitMax := split,
    spillBase := spillBase + (core * 96 + slot) * 16 * split, v := [], vPoison := [], s := [], sPoison := [], p := [],
    fpctl := 0, fflags := [], srseed := [], queues := [], cnt := [], a := ⟨.running, entry, mask, none, eligible⟩,
    b := emptySlot, top := none, depth := 0, clause := none, resume := none, latches := [], latchValid := 0,
    trapPc := 0, trapCause := 0, trapMask := 0, trapAddr := 0, trapDst := 0, inHandler := false, aside := none, diverged := none,
    stopped := none, halted := false, haltAsked := false, stepping := false, grow := none, shrink := none, batch := none,
    unknown := ⟨[], [], [], []⟩, ops := [], rays := [], disp := [], decision := [], res := [], spawns := [], waveSeq := 0,
    entry := 0, byEpend := false, waitingSince := none, issuedAt := eligible, candSince := none, promoted := false,
    yielded := false }

/-- A compute group of a grid. -/
def computeGroup (gr : Grid) (id core slot cluster team index cls eligible : Nat) : Group :=
  let r := gr.recw
  { freshGroup core slot gr.ctx id cls (recRegs r) .compute (recEntry r) (BitVec.allOnes 128) (recSplit r) (recSpb r) eligible with
    cluster, team, index
    s := [(0, BitVec.ofNat 64 (bitsOf (r.getD 1 0) 0 48))]
    srseed := perLane fun l => laneSeed id cluster team index l }

/-! ## Placement (R258 to R263) -/

/-- Whether a core's hamlet has passed its self-test (R381). -/
def coreReady (s : State) (core : Nat) : Bool := s.ready.getLsbD (26 + hamletOf core)

/-- Groups of a core. -/
def coreGroups (s : State) (core : Nat) : List Group := s.groups.filter fun g => g.core == core

/-- Scratchpad bytes of a core's resident teams, rounded up to 64 KiB with `more` added. -/
def scratchUsed (s : State) (core more : Nat) : Nat :=
  ceilDiv (((s.teams.filter fun t => t.core == core).map fun t => t.size).sum + more) 65536 * 65536

/-- Whether a core has the slots, granules and scratchpad for a team (R249, R258). -/
def coreFits (s : State) (core : Nat) (r : List DWord) : Bool :=
  coreReady s core && decide (recNg r + (coreGroups s core).length ≤ 96) &&
  decide (recNg r * recRegs r / 4 + granulesAsked s core ≤ granulesFree s core) && decide (scratchUsed s core (recScr r) ≤ 655360)

/-- The aged heads, earliest first (R262). -/
def agedHeads (s : State) : List Grid :=
  ((s.grids.filter fun g => !g.placed && g.aged.isSome).mergeSort fun a b =>
    rankLe [a.aged.getD 0, a.queue] [b.aged.getD 0, b.queue])

/-- The head that has reserved a hamlet (R262). -/
def reservedBy (s : State) (h : Nat) : Option Nat := ((agedHeads s).find? fun g => (qHmask s g.queue).testBit h).map fun g => g.key

/-- Whether a grid's cluster may be placed in a hamlet (R258, R262). -/
def hamletOpen (s : State) (g : Grid) (h : Nat) : Bool :=
  (qHmask s g.queue).testBit h && (match reservedBy s h with
    | none => true
    | some k => k == g.key)

/-- The cores of the rectangle with an upper-left core, in core-number order. -/
def rectangle (core w h : Nat) : List Nat := (List.range h).flatMap fun y => (List.range w).map fun x => core + 12 * y + x

/-- The rectangles of a hamlet by upper-left core (R259). -/
def rectangles (h w ht : Nat) : List (List Nat) :=
  let base := h / 4 * 48 + h % 4 * 3
  (List.range (5 - ht)).flatMap fun y => (List.range (4 - w)).map fun x => rectangle (base + 12 * y + x) w ht

/-- The first place that fits a grid's cluster (R259). -/
def findPlace (s : State) (g : Grid) : Option (List Nat) :=
  ((List.range 8).filter (hamletOpen s g)).flatMap (fun h => rectangles h (recCw g.recw) (recCh g.recw))
    |>.find? fun cores => cores.all fun c => coreFits s c g.recw

/-- The free slot of a core that a team's next group takes (R260); `taken` are those its team has taken. -/
def nextSlot (s : State) (core : Nat) (taken : List Nat) : Nat :=
  let used := (coreGroups s core).map (fun g => g.slot) ++ taken
  let rank (n : Nat) : List Nat := [(used.filter fun u => u % 8 == n % 8).length, n]
  (((List.range 96).filter fun n => !used.contains n).foldl (fun best n => match best with
    | none => some n
    | some b => if rankLe (rank b) (rank n) then some b else some n) none).getD 0

/-- The slots of a team's groups in GROUPID order. -/
def teamSlots (s : State) (core : Nat) : Nat → List Nat
  | 0 => []
  | n + 1 => let rest := teamSlots s core n
    rest ++ [nextSlot s core rest]

/-- The words of a PLACE record after word 1 (R341). -/
def placeWords (cluster team : Nat) (slots : List Nat) : List DWord :=
  let byteAt (i : Nat) : Nat := (slots.getD i 0xFF) * 2 ^ (8 * (i % 8))
  [BitVec.ofNat 64 (cluster + team * 2 ^ 32), 0, BitVec.ofNat 64 (((List.range 8).map byteAt).sum),
    BitVec.ofNat 64 (((List.range 8).map fun i => byteAt (i + 8)).sum), 0, 0]

/-- Word 1 of a PLACE record. -/
def placeActor (grid core slot : Nat) : DWord := BitVec.ofNat 64 (grid * 2 ^ 32 + core * 256 + slot)

/-- One team of a cluster: its core and its slots. -/
abbrev TeamPlace := Nat × List Nat

/-- The acquires that come before a grid's work on some cores (R304), as far as holding entries are free; the answer says
whether they have ended. -/
def acquireCores (s : State) (ctx : Nat) (cores : List Nat) : State × Bool :=
  let s1 := cores.foldl (fun s c => acquireAt s c ctx 5 fun _ => true) s
  (s1, cores.all fun c => acquired s1 c 5 fun _ => true)

/-- A team takes its place (R258, R260): its scratchpad reads zero, and its groups take their slots. -/
def placeTeam (s : State) (g : Grid) (id cls cluster team : Nat) (p : TeamPlace) : State :=
  { s with
    nextTeam := s.nextTeam + 1
    teams := s.teams ++ [⟨p.1, g.ctx, id, cluster, team, s.nextTeam, recScr g.recw, [], [], p.2, p.2.length⟩]
    groups := s.groups ++ p.2.zipIdx.map fun x => computeGroup g id p.1 x.1 cluster team x.2 cls (s.clock / 16 * 16 + 16) }

/-- A cluster takes its place: every team of it (R260). The cluster after it is the head from the next window on. -/
def placeCluster (s : State) (g : Grid) (id : Nat) (places : List TeamPlace) : State :=
  let cls := if g.nextCluster = 0 ∧ qPromoted s g.queue then 0 else g.cls
  let s := places.zipIdx.foldl (fun s p => placeTeam s g id cls g.nextCluster p.2 p.1) s
  updGrid { s with served := tput s.served (qEffClass s g.queue) g.queue } g.key fun g =>
    { g with id := some id, cls := cls, nextCluster := g.nextCluster + 1, headSince := s.clock / 16 * 16 + 16, aged := none,
             teamsLeft := tput g.teamsLeft g.nextCluster places.length, cores := (g.cores ++ places.map Prod.fst).dedup }

/-- The GRIDID that a context gives next, and the context after it has been taken. -/
def takeGridId (s : State) (g : Grid) : Nat × State := match g.id with
  | some id => (id, s)
  | none => ((ctxOf s g.ctx).nextGrid % 2 ^ 32, updCtx s g.ctx fun c => { c with nextGrid := c.nextGrid + 1 })

/-- Writes the PLACE records of a cluster if all fit, else nothing (R344); each raises its core's frontier (R345). -/
def logPlaces (s : State) (g : Grid) (id : Nat) (places : List TeamPlace) : Option State :=
  (places.zipIdx.foldl (fun acc p => acc.bind fun s =>
    if logReady s g.ctx 6 then
      some (raiseFrontier (logWrite s g.ctx 0x01 (placeActor id p.1.1 (p.1.2.headD 0)) (placeWords g.nextCluster p.2 p.1.2))
        p.1.1 (logSeqOf s g.ctx))
    else none) (some s)).map fun s => unstall s g.ctx (stallLaunch g.key)

/-- Whether a PLACE record's GRIDID is one that a grid has, or, where it has none yet, one that it may take (R346). -/
def placeIdOk (s : State) (g : Grid) (id : Nat) : Bool := match g.id with
  | some own => own == id
  | none => !(s.grids.any fun x => x.ctx == g.ctx && x.id == some id)

/-- The GRIDID of a PLACE record, and the core and slots that it gives a team of a grid (R341). -/
def placeId (r : LRec) : Nat := bitsOf (r.word 1) 32 32
def placeOfRec (g : Grid) (r : LRec) : TeamPlace := (bitsOf (r.word 1) 8 7, (List.range (recNg g.recw)).map fun i =>
  bitsOf (r.word (4 + i / 8)) (8 * (i % 8)) 8)

/-- Whether a PLACE record can be that of a team of a grid's next cluster: its GRIDID, its cluster, and as many slots as the
grid's teams have groups (R341). -/
def placeFits (s : State) (g : Grid) (team : Nat) (r : LRec) : Bool :=
  placeIdOk s g (placeId r) && bitsOf (r.word 2) 0 32 == g.nextCluster && bitsOf (r.word 2) 32 4 == team &&
  decide ((placeOfRec g r).1 < 96) && (placeOfRec g r).2.all (fun n => decide (n < 96)) &&
  (List.range 16).all fun i => decide (i < recNg g.recw) || bitsOf (r.word (4 + i / 8)) (8 * (i % 8)) 8 == 0xFF

/-- What a replay's PLACE records say of a head. -/
inductive Replayed where
  | places (id : Nat) (ps : List (LRec × TeamPlace))
  | later
  | never
  deriving DecidableEq, Repr

/-- What a replay's PLACE records give a grid's next cluster (R346, R347): the next ones its GRIDID and places, where they fit
it; nothing yet, where they can be another head's and a later one fits it; nothing at all otherwise. -/
def replayPlaces (s : State) (g : Grid) : Replayed :=
  let all := (replayRecs s g.ctx).filter fun r => r.type == 1 && recSane r && unmatched s g.ctx r && r.dev == (s.devId == 1)
  let rs := all.take (recCw g.recw * recCh g.recw)
  let id := (rs.head?.map placeId).getD 0
  if rs.length = recCw g.recw * recCh g.recw ∧ (rs.zipIdx.all fun p => placeId p.1 == id && placeFits s g p.2 p.1) then
    .places id (rs.map fun r => (r, placeOfRec g r))
  else if g.id ≠ some id ∧ (all.any fun r => placeFits s g 0 r) then .later
  else .never

/-- Whether the recorded slots and the resources of a recorded place are free. -/
def placeFree (s : State) (g : Grid) (p : TeamPlace) : Bool :=
  coreFits s p.1 g.recw && p.2.all fun n => (groupAt s p.1 n).isNone

/-- What the launch unit does with a head in a window. -/
inductive HeadAct where
  | done (s : State)
  | pass (s : State)

/-- A compute head of a replay: its next cluster is placed as recorded, once the places are free (R263, R346). -/
def replayHead (s : State) (g : Grid) : HeadAct :=
  match replayPlaces s g with
  | .later => .pass s
  | .never => .done (divergeUnit (meetBad s g.ctx) g.ctx)
  | .places id ps =>
    if ps.all fun p => placeFree s g p.2 then
      match acquireCores s g.ctx (ps.map fun p => p.2.1) with
      | (s1, false) => .pass s1
      | (s1, true) =>
        let s2 := if g.id.isSome then s1 else updCtx s1 g.ctx fun c => { c with nextGrid := id + 1 }
        .done (placeCluster (ps.foldl (fun s p => matchRec s g.ctx p.1) s2) g id (ps.map Prod.snd))
    else .pass s

/-- A compute head: its next cluster is placed if it fits, by the rules or by the recording (R259 to R263). -/
def placeHead (s : State) (g : Grid) : HeadAct :=
  if logMode s g.ctx = 2 then replayHead s g
  else match findPlace s g with
    | none => .pass s
    | some cores =>
      match acquireCores s g.ctx cores with
      | (s1, false) => .pass s1
      | (s1, true) =>
        let places := cores.map fun c => (c, teamSlots s c (recNg g.recw))
        let (id, s2) := takeGridId s1 g
        if logMode s g.ctx = 1 then
          match logPlaces s2 g id places with
          | some s3 => .done (placeCluster s3 g id places)
          | none => .pass (stallAt s1 g.ctx (stallLaunch g.key))
        else .done (placeCluster s2 g id places)

/-- The launch unit drops a scene's treelets that no ray of a running grid of the context is traversing (R225). -/
def dropTreelets (s : State) (ctx base : Nat) : State :=
  let inUse (t : Treelet) : Bool := s.rays.any fun r => r.ctx == ctx && r.place == .traversal t.index &&
    s.grids.any fun g => g.ctx == ctx && g.id == some r.grid && recTla g.recw == base
  { s with treelets := s.treelets.filter fun t => !(t.ctx == ctx && t.base == base && t.ready) || inUse t }

/-- The state after a ray grid has been accepted as `id` with the shader table as it stands (R253, R255, R256). DESIGN CHOICE,
log entry 137: a ray grid accepted from a promoted queue runs its episodes at class 0, as R252 has it of a grid whose first
cluster is placed while its queue is promoted. -/
def acceptRay (s : State) (g : Grid) (id : Nat) : State :=
  let ents := (readEntries s g.ctx g.recw).getD g.ents
  let fr := frameAfter s g.ctx g.recw
  let s := dropTreelets s g.ctx (recTla g.recw)
  let s := putCtx s g.ctx 0x0B0 (BitVec.ofNat 32 (fr.1 + fr.2 * 2 ^ 16))
  updGrid { s with served := tput s.served (qEffClass s g.queue) g.queue } g.key fun x =>
    { x with id := some id, ents, cls := if qPromoted s g.queue then 0 else x.cls }

/-- A ray record whose check fails at acceptance, as its entries stand then, is rejected: its place in the ring is again the
read index (R255, R257). -/
def rejectTaken (s : State) (g : Grid) (code : Nat) : State :=
  let s1 := putBar { s with grids := s.grids.filter fun x => x.key ≠ g.key } (queueBase g.queue + 0x08)
    (barWord s (queueBase g.queue + 0x08) - 1)
  rejectRecord (if code = 0x0D then tellUnread s1 g.ctx (recEntry g.recw) (2 * recNent g.recw) else s1) g.queue g.ctx
    (recTag g.recw) code (recFlag g.recw 55) ((tget s.engines 64 []).find? fun c => some c.id == g.fromCmd)

/-- The frontier of every core rises to the record with which a ray grid is accepted (R345). -/
def raiseAll (s : State) (seq : Nat) : State := (List.range 96).foldl (fun s c => raiseFrontier s c seq) s

/-- A ray head whose acquires have been made is accepted, in ring order under replay (R304, R342, R346). -/
def rayHead (s0 : State) (g : Grid) : HeadAct :=
  let code := checkRecord s0 g.ctx g.queue g.recw
  if code ≠ 0 then .done (rejectTaken s0 g code)
  else match acquireCores s0 g.ctx (List.range 96) with
  | (s, false) => .pass s
  | (s, true) =>
    let (id, s') := takeGridId s g
    match logMode s g.ctx with
    | 1 =>
      if logReady s g.ctx 2 then
        let s1 := logWrite s' g.ctx 0x09 (agentWord id) [BitVec.ofNat 64 (g.queue + recTag g.recw * 2 ^ 32), 0]
        .done (acceptRay (unstall (raiseAll s1 (logSeqOf s g.ctx)) g.ctx (stallLaunch g.key)) g id)
      else .pass (stallAt s g.ctx (stallLaunch g.key))
    | 2 => match nextRec s g.ctx 0x09 fun r => r.dev == (s.devId == 1) with
      | none => .done (divergeUnit (meetBad s g.ctx) g.ctx)
      | some r =>
        if bitsOf (r.word 2) 0 5 = g.queue ∧ bitsOf (r.word 2) 32 32 = recTag g.recw then
          .done (acceptRay (updCtx (matchRec s g.ctx r) g.ctx fun c => { c with nextGrid := bitsOf (r.word 1) 32 32 + 1 }) g
            (bitsOf (r.word 1) 32 32))
        else if (nextRec s g.ctx 0x09 fun r => r.dev == (s.devId == 1) && bitsOf (r.word 2) 0 5 == g.queue &&
            bitsOf (r.word 2) 32 32 == recTag g.recw).isSome then .pass s
        else .done (divergeUnit (meetBad s g.ctx) g.ctx)
    | _ => .done (acceptRay s' g id)

/-- The heads in service order, until one is placed (R252, R261). Behind a head whose records have no room in the log the launch
unit places nothing of the context (R344). -/
def placeFirst : List Nat → State → State
  | [], s => s
  | q :: qs, s => match headOf s q with
    | none => placeFirst qs s
    | some g =>
      if launches s g.ctx && !behindStall s g.ctx (stallLaunch g.key) then
        match (if g.isRay then rayHead s g else placeHead s g) with
        | .done s' => s'
        | .pass s' => placeFirst qs s'
      else placeFirst qs s

/-- A head that has waited AGE clocks is aged from then on (R262). -/
def ageHead (s : State) (queue : Nat) : State :=
  match headOf s queue with
  | none => s
  | some g =>
    let age := qWord s queue 0x24
    if age ≠ 0 ∧ g.aged.isNone ∧ g.headSince + age ≤ s.clock then
      updGrid s g.key fun g => { g with aged := some (g.headSince + age) }
    else s

/-- LAUNCH_WINDOW (R250, R260): at clocks that are multiples of 16, records are taken and at most one head is placed. -/
def execLaunchWindow (s : State) : Res :=
  if s.clock % 16 ≠ 0 ∨ s.clock / 16 < s.window then .next s
  else
    let s0 := keepStalls { s with window := s.clock / 16 + 1 } 2 fun ctx code => s.grids.any fun g => g.ctx == ctx && code == stallLaunch g.key
    let s1 := (List.range 32).foldl ageHead ((List.range 32).foldl takeRecord s0)
    .next (placeFirst (serviceOrder s1) s1)

/-- HEAD_AGED (R262): a head that has waited AGE clocks reserves the hamlets of its queue. -/
def execHeadAged (queue : Nat) (s : State) : Res := .next (ageHead s queue)

/-- QUEUE_DOORBELL (R250): a write of WR. -/
def execQueueDoorbell (queue : Nat) (wr : BitVec 32) (s : State) : Res :=
  if queue < 32 then .next (putBar s (queueBase queue + 0x0C) wr) else .next s

/-- QUEUE_STP_CLEAR (R257): a write that clears STP. -/
def execQueueStpClear (queue : Nat) (s : State) : Res :=
  if queue < 32 then .next (putBar s (queueBase queue + 0x20) (barWord s (queueBase queue + 0x20) &&& 0xFFFFEFFF))
  else .next s

/-! ## Ends (R108, R264) -/

/-- Whether a group has nothing left to run and nothing outstanding (R108). -/
def groupDone (s : State) (g : Group) : Bool :=
  g.a.st == .empty && g.b.st == .empty && g.top.isNone && g.clause.isNone && g.stopped.isNone && g.batch.isNone &&
  (List.range 6).all (fun n => cnt g n == 0) && g.ops.isEmpty && !(s.syncOps.any fun o => o.core == g.core && o.slot == g.slot)

/-- A cluster's team count goes down, and at zero the cluster is complete. -/
def teamEnded (s : State) (gr : Grid) (cluster team : Nat) : State :=
  let left := tget gr.teamsLeft cluster 1 - 1
  let gid := gr.id.getD 0
  let s := if recFlag gr.recw 57 then writeCompl s gr.queue gr.ctx (recTag gr.recw) gid 2 0 0 cluster team 0 else s
  let s := if left = 0 ∧ recFlag gr.recw 56 then writeCompl s gr.queue gr.ctx (recTag gr.recw) gid 1 0 0 cluster 0 0 else s
  updGrid s gr.key fun g =>
    { g with teamsLeft := if left = 0 then tdel g.teamsLeft cluster else tput g.teamsLeft cluster left }

/-- The grid of a context with a number. -/
def gridOf (s : State) (ctx id : Nat) : Option Grid := s.grids.find? fun g => g.ctx == ctx && g.id == some id

/-- The queue register that a command or a drain moves data through (R153, R173). -/
def EngCmd.queue (c : EngCmd) : Option Nat :=
  let code := bitsOf (c.words.getD 0 0) 56 8
  if (code = 3 ∨ code = 4) ∧ (c.words.getD 5 0).getLsbD 62 then some (bitsOf (c.words.getD 5 0) 0 4) else none
def QuadJob.queue (j : QuadJob) : Option Nat := if j.kind = .drainQ then some (bitsOf (j.desc.getD 0 0) 0 4) else none

/-- Queue registers of a group are freed: what an engine still does through one of them will find it gone (R166). -/
def freeQueues (s : State) (core slot : Nat) (which : Nat → Bool) : State :=
  let hit (c k : Nat) (q : Option Nat) : Bool := c == core && k == slot && (q.map which).getD false
  { s with
    engines := s.engines.map fun e => (e.1, e.2.map fun c => if hit c.core c.slot c.queue then { c with freed := true } else c)
    quads := s.quads.map fun q => (q.1, { q.2 with
      jobs := q.2.jobs.map fun j => if hit j.core j.slot j.queue then { j with freed := true } else j }) }

/-- The work of quadrants that the group in a slot has issued has lost its group, for good (R362). -/
def leaveJobs (s : State) (core slot : Nat) : State :=
  { s with quads := s.quads.map fun q => (q.1, { q.2 with
      jobs := q.2.jobs.map fun j => if j.core == core && j.slot == slot then { j with gone := true } else j }) }

/-- Removes a group from its slot; its queue registers are freed (R27). -/
def dropGroup (s0 : State) (g : Group) : State :=
  let s := leaveJobs s0 g.core g.slot
  dropAhead (freeQueues { s with groups := s.groups.filter fun h => !(h.core == g.core && h.slot == g.slot) } g.core g.slot
    fun _ => true) g.core g.slot

/-- A group's place in its team is given up; with the last one the team completes and its scratchpad is freed (R264). -/
def leaveTeam (s : State) (g : Group) : State :=
  match teamOfGroup s g with
  | none => s
  | some t =>
    let left := t.running.filter fun n => n ≠ g.slot
    if left.isEmpty then
      let s := { s with teams := s.teams.filter fun x => x.key ≠ t.key }
      match gridOf s g.ctx g.grid with
      | some gr => teamEnded s gr t.cluster t.team
      | none => s
    else updTeam s t.key fun t => { t with running := left }

/-- GROUP_END (R108, R135, R264): a compute group with empty slots, an empty stack and nothing outstanding ends. -/
def execGroupEnd (core slot : Nat) (s : State) : Res :=
  match groupAt s core slot with
  | none => .next s
  | some g =>
    if groupDone s g && !isEpisode g then .next (leaveTeam (dropGroup (closeReds s g) g) g) else .next s

/-- The roots of a grid are combined with memory in their order: one whose word is registered to a unit waits until it has
been given back (R328), and one whose log record cannot be written yet stays (R331, R342, R346). -/
def combineRoots : List RedNode → State → State
  | [], s => s
  | n :: ns, s =>
    if !rootReady s n then rootAsks s n
    else match rootLog s n with
      | .go s' => combineRoots ns { rootCombine s' n with reds := s.reds.filter fun x => x ≠ n }
      | .stall c => if logMode s c = 1 then stallAt s c stallRoot else s
      | .diverge => divergeUnit (meetBad s n.ctx) n.ctx

/-- Whether a grid's work has ended: every cluster or every ray, and every episode (R264). -/
def gridEnded (s : State) (g : Grid) : Bool :=
  match g.id with
  | none => false
  | some id =>
    if g.isRay then
      decide (recNpix g.recw * recSpp g.recw ≤ g.created) && !(s.rays.any fun r => r.ctx == g.ctx && r.grid == id) &&
      !(s.groups.any fun x => x.ctx == g.ctx && x.grid == id && isEpisode x && x.waitingSince.isNone)
    else g.placed && g.teamsLeft.isEmpty && !(s.groups.any fun x => x.ctx == g.ctx && x.grid == id)

/-- The release at SYSTEM scope of every core that ran a grid begins (R264). -/
def releaseGrid (s : State) (g : Grid) : State :=
  let s1 := g.cores.foldl (fun s c => releaseAt s c g.ctx 5) s
  updGrid s1 g.key fun x => { x with relMark := some s1.msgSeq }

/-- The completion of a grid is signalled (R158, R264, R265). -/
def signalGrid (s : State) (g : Grid) : State :=
  let s := if recFlag g.recw 54 then
      writeCompl s g.queue g.ctx (recTag g.recw) (g.id.getD 0) 0 0 0 0 0 g.rerr else s
  let s := if recFlag g.recw 55 then queueIrq s g.queue else s
  endLaunch { s with grids := s.grids.filter fun x => x.key ≠ g.key } g.fromCmd 0

/-- GRID_COMPLETE (R264): a grid whose work has ended and whose reductions have been written completes, once the release
of its cores' dirty words has been acknowledged. -/
def execGridComplete (ctx grid : Nat) (s : State) : Res :=
  match gridOf s ctx grid with
  | none => .next s
  | some g =>
    if gridEnded s g && rootsOnly s ctx grid then
      let s1 := combineRoots (rootsOf s ctx grid) s
      if s1.reds.any fun n => n.ctx == ctx && n.grid == grid then .next s1
      else match g.relMark with
        | none => .next (releaseGrid s1 g)
        | some mark => .next (if g.cores.any fun c => releaseOut s1 c 5 mark then s1 else signalGrid s1 g)
    else .next s

end Sys2Proof.Machine
end

