-- ==== Sys2Proof/Machine/Rays.lean ====
section
/-!
DEFINITION. Ray records and the counts of a context (R178 to R180, R192), the bins of the sorter (R207, R212, R213), ray
errors (R221), and how rays begin, end traversal and retire (R189, R190, R226, R233, R234, R242).
-/

namespace Sys2Proof.Machine

/-! ## Records -/

/-- The ray with a name. -/
def rayAt (s : State) (id : Nat) : Option Ray := s.rays.find? fun r => r.id == id

/-- Rewrites a ray. -/
def updRay (s : State) (id : Nat) (f : Ray → Ray) : State := { s with rays := s.rays.map fun r => if r.id == id then f r else r }

/-- Word `i` of a record. -/
def Ray.word (r : Ray) (i : Nat) : Word := r.words.getD i 0

/-- Origin, direction, tmin and tmax. -/
def Ray.org (r : Ray) : List Word := [r.word 0, r.word 1, r.word 2]
def Ray.dir (r : Ray) : List Word := [r.word 4, r.word 5, r.word 6]

/-- Bit `i` of the flags (R179): OPQ 0, NOPQ 1, FIRST 2, CULLB 3, CULLF 4, SKIPCH 5, SKIPMS 6. -/
def Ray.flag (r : Ray) (i : Nat) : Bool := (r.word 8).getLsbD i

/-- DEPTH and SAMPLE of word 11. -/
def depthOf (w : Word) : Nat := w.toNat / 2 ^ 24
def withDepth (w : Word) (d : Nat) : Word := BitVec.ofNat 32 (d * 2 ^ 24 + w.toNat % 2 ^ 24)

/-- Word 11 with DEPTH one more, at most 255. -/
def deeper (w : Word) : Word := withDepth w (min (depthOf w + 1) 255)

/-- Whether a word 8 value is invalid (R179). -/
def badFlags (w : Word) : Bool := (w.extractLsb' 7 17 : BitVec 17) != 0 || (w.getLsbD 0 && w.getLsbD 1)

/-- Whether a word 9 value is invalid for a shader table of `nent` entries (R180). -/
def badIndex (w : Word) (nent : Nat) : Bool := decide (nent ≤ w.toNat % 2 ^ 16)

/-- The grid of a ray. -/
def Ray.gridIn (s : State) (r : Ray) : Option Grid := gridOf s r.ctx r.grid

/-- The shader-table entries of a grid. -/
def nentOf (s : State) (ctx grid : Nat) : Nat := ((gridOf s ctx grid).map fun g => g.ents.length).getD 0

/-! ## Counts (R192) -/

/-- Used: the context's records. -/
def raysUsed (s : State) (ctx : Nat) : Nat := (s.rays.filter fun r => r.ctx == ctx).length

/-- Reserved: the sum of RES(l) over the context's episodes. -/
def raysReserved (s : State) (ctx : Nat) : Nat :=
  ((s.groups.filter fun g => g.ctx == ctx).map fun g => (g.res.map Prod.snd).sum).sum

/-- Whether Free − Reserved ≥ n. -/
def raysFree (s : State) (ctx n : Nat) : Bool := decide (raysUsed s ctx + raysReserved s ctx + n ≤ rayCapacity s ctx)

/-- Records of a context held on die. -/
def raysOnDie (s : State) (ctx : Nat) : Nat := (s.rays.filter fun r => r.ctx == ctx && r.spilled.isNone).length

/-! ## Bins (R212, R213) -/

/-- The key of the bin that a ray's place names. -/
def Ray.key (r : Ray) : Option (Bool × Nat × Nat × Nat) := match r.place with
  | .travBin t => some (false, t, 0, 0)
  | .shadeBin e c d => some (true, e, c, d)
  | _ => none

/-- The key of a bin. -/
def Bin.key (b : Bin) : Bool × Nat × Nat × Nat := (b.shading, b.entry, b.cell, b.dir)

/-- Whether a ray's place is this bin. -/
def Bin.holds (b : Bin) (r : Ray) : Bool := r.ctx == b.ctx && r.grid == b.grid && r.key == some b.key

/-- Whether a ray's key has a bin. -/
def hasBin (s : State) (r : Ray) : Bool := s.bins.any fun b => b.holds r

/-- The rays of a bin in the order they entered it. -/
def binRays (s : State) (b : Bin) : List Ray :=
  ((s.rays.filter b.holds).zipIdx.mergeSort fun x y => rankLe [x.1.since, x.2] [y.1.since, y.2]).map Prod.fst

/-- The clock at which the oldest ray of a bin entered it. -/
def binAge (s : State) (b : Bin) : Nat := ((s.rays.filter b.holds).map fun r => r.since).foldl min s.clock

/-- A bin is made ready. -/
def makeReady (s : State) (b : Bin) : State :=
  { s with bins := s.bins.map fun x => if x == b then { x with ready := true } else x }

/-- The bin with the oldest waiting ray is made ready (R213). -/
def forceOldest (s : State) : State :=
  match s.bins with
  | [] => s
  | b :: bs => makeReady s (bs.foldl (fun o x => if binAge s x < binAge s o then x else o) b)

/-- A ray joins the bin of its key, takes a free one, or waits while another is made ready (R213). -/
def joinBin (s : State) (r : Ray) : State :=
  match r.key with
  | none => s
  | some k =>
    if hasBin s r then s
    else if s.bins.length < Config.sorterBins then
      { s with bins := s.bins ++ [⟨r.ctx, r.grid, k.1, k.2.1, k.2.2.1, k.2.2.2, false⟩] }
    else forceOldest s

/-- A waiting ray takes a free bin: with it every ray of its key enters that bin (R213). -/
def takeBin (s : State) (r : Ray) : State :=
  if hasBin s r || decide (Config.sorterBins ≤ s.bins.length) then s
  else
    let s := joinBin s r
    { s with rays := s.rays.map fun x => if x.ctx == r.ctx && x.grid == r.grid && x.key == r.key then { x with since := s.clock } else x }

/-- The rays that wait for a bin, oldest first (R213). -/
def binless (s : State) : List Ray :=
  ((s.rays.filter fun r => r.key.isSome && !hasBin s r).zipIdx.mergeSort fun x y =>
    rankLe [x.1.since, x.2] [y.1.since, y.2]).map Prod.fst

/-- Bins without rays are freed, and the rays that wait take them, the oldest first (R213). -/
def tidyBins (s : State) : State :=
  let s1 := { s with bins := s.bins.filter fun b => s.rays.any b.holds }
  if s1.bins.length = s.bins.length then s else (binless s1).foldl takeBin s1

/-- A ray takes a place; its bin is found or waited for. -/
def moveRay (s : State) (id : Nat) (place : RayPlace) : State :=
  let s := updRay s id fun r => { r with place := place, since := s.clock }
  match rayAt s id with
  | some r => tidyBins (joinBin s r)
  | none => s

/-- A ray retires: its record is freed (R207). -/
def retireRay (s : State) (id : Nat) : State := tidyBins { s with rays := s.rays.filter fun r => r.id ≠ id }

/-- A ray error (R221): counted in the context and the grid, reported when the first of its cause in its grid. -/
def rayError (s : State) (r : Ray) (cause : Nat) : State :=
  let n := ctxDWord s r.ctx 0x0D0 + 1
  let s := retireRay (putCtx (putCtx s r.ctx 0x0D0 (loWord n)) r.ctx 0x0D4 (hiWord n)) r.id
  match r.gridIn s with
  | none => s
  | some g =>
    let s := if g.errSeen.contains cause then s else reportCtx s r.ctx 0x0C cause 0 (BitVec.ofNat 32 r.grid)
    updGrid s g.key fun g => { g with rerr := g.rerr + 1, errSeen := (cause :: g.errSeen).dedup }

/-! ## Shading and traversal -/

/-- A ray enters the shading bin of an entry, under the key of its words as they stand (R212). -/
def enterShade (s : State) (r : Ray) (entry : Nat) : State :=
  let corner := [ctxWord s r.ctx 0x098, ctxWord s r.ctx 0x09C, ctxWord s r.ctx 0x0A0]
  let exp : BitVec 8 := (ctxWord s r.ctx 0x0A4).extractLsb' 0 8
  moveRay s r.id (.shadeBin entry (originCell r.org corner exp.toInt) (dirClass r.dir))

/-- The entry of a grid's shader table. -/
def entryOf (s : State) (r : Ray) (n : Nat) : Option (DWord × DWord) := (r.gridIn s).bind fun g => g.ents[n]?

/-- HBASE + HOFS of a hit (R212, R233). -/
def hitEntry (r : Ray) (h : Hit) : Nat := h.hbase + (r.word 9).toNat / 2 ^ 16

/-- The end of a ray's traversal (R233). -/
def finishRay (s : State) (r : Ray) : State :=
  match r.trav.hit with
  | some h =>
    if r.flag 5 then retireRay s r.id
    else match entryOf s r (hitEntry r h) with
      | some e => if entKind e = 1 then enterShade s r (hitEntry r h) else rayError s r 4
      | none => rayError s r 4
  | none => if r.flag 6 then retireRay s r.id else enterShade s r ((r.word 9).toNat % 2 ^ 16)

/-- The treelet that an entry of a traversal lies in. -/
def TravWhat.treelet : TravWhat → Nat
  | .node t _ => t
  | .tris t _ _ => t
  | .insts t _ _ => t

/-- The entry at which a traversal begins: the root of the scene, in world space (R226). -/
def rootItem : TravItem := ⟨.node 0 0, none, none⟩

/-- Whether a ray is degenerate, or has an infinite origin or direction (R189, R234). -/
def degenerate (r : Ray) : Bool :=
  ((List.range 8).any fun i => (f32 (r.word i)).isNan) || zero3 r.dir || !fpLe (f32 (r.word 3)) (f32 (r.word 7)) ||
  !finite3 r.org || !finite3 r.dir

/-- L: tmax, or the committed hit's distance (R226). -/
def rayL (r : Ray) : Fp := match r.trav.hit with
  | some h => f32 h.t
  | none => f32 (r.word 7)

/-- Whether an entry of a traversal is a child beyond L, which is discarded when it is popped (R226). -/
def beyondL (r : Ray) (e : TravItem) : Bool := (e.dist.map fun x => fpLt (rayL r) (f32 x)).getD false

/-- A ray goes on with its traversal: entries beyond L are discarded; it goes to the bin of its next entry's treelet, or to
its end. -/
def resumeRay (s : State) (r : Ray) : State := match r.trav.stack.dropWhile (beyondL r) with
  | [] => finishRay s r
  | e :: es => moveRay (updRay s r.id fun x => { x with trav := { x.trav with stack := e :: es } }) r.id (.travBin e.what.treelet)

/-- A ray enters traversal with disposition TRACE or as a new ray (R226, R234). -/
def enterTrav (s : State) (id : Nat) : State :=
  let s := updRay s id fun r => { r with trav := ⟨if degenerate r then [] else [rootItem], none, none⟩ }
  match rayAt s id with
  | some r => resumeRay s r
  | none => s

/-! ## Creation -/

/-- A free place in a context's spill region. -/
def spillSlot (s : State) (ctx : Nat) : Nat :=
  let used := (s.rays.filter fun r => r.ctx == ctx).filterMap fun r => r.spilled.map Prod.fst
  ((List.range (used.length + 1)).find? fun i => !used.contains i).getD 0

/-- The location of a place of a context's spill region (R209). -/
def spillLoc (s : State) (ctx i : Nat) : Nat := bitsOf (ctxDWord s ctx 0x088) 0 48 + 128 * i

/-- The 32 words of a record; the layout of bytes 48 to 63 is not architected, so their words are free values. -/
def recordWords (s : State) (r : Ray) : List (Word × Bool) :=
  ((List.range 12).map fun i => (r.word i, false)) ++ ((List.range 4).map fun i => (Config.freeWord (s.draws + i), false)) ++
  (List.range 16).map fun i => (r.payload.getD i 0, r.payPoison.getLsbD i)

/-- Moves a record to a place of the spill region (R210). -/
def spillTo (s : State) (r : Ray) (i : Nat) : State :=
  let s1 := (recordWords s r).zipIdx.foldl
    (fun s p => homeWrite s (spillLoc s r.ctx i + 4 * p.2) 0xF p.1.1 p.1.2 none none) s
  updRay { s1 with draws := s.draws + 4 } r.id fun r => { r with spilled := some (i, s.draws) }

/-- A hit of free values. -/
def freeHit (n : Nat) : Hit :=
  let w (i : Nat) : Word := Config.freeWord (n + i)
  ⟨w 0, w 1, w 2, w 3, w 4, w 5, (w 6).getLsbD 0, w 7, (w 8).toNat % 2 ^ 16⟩

/-- The space of an entry of a traversal, of free values. -/
def freeSpace (n : Nat) : InstSpace :=
  let w (i : Nat) : Word := Config.freeWord (n + i)
  ⟨[w 0, w 1, w 2], [w 3, w 4, w 5], w 6, w 7, (w 8).toNat % 2 ^ 16, (w 9).toNat % 16⟩

/-- An entry of a traversal, of free values. -/
def freeItem (n : Nat) : TravItem :=
  let w (i : Nat) : Word := Config.freeWord (n + i)
  let what : TravWhat := match (w 0).toNat % 3 with
    | 0 => .node (w 1).toNat ((w 2).toNat % 128)
    | 1 => .tris (w 1).toNat ((w 2).toNat % 1024) ((w 3).toNat % 16 + 1)
    | _ => .insts (w 1).toNat ((w 2).toNat % 1024) ((w 3).toNat % 16 + 1)
  ⟨what, if (w 4).getLsbD 0 then some (w 5) else none, if (w 6).getLsbD 0 then some (freeSpace (n + 7)) else none⟩

/-- The traversal state that a record has whose bytes 48 to 63 were changed while it was spilled. Their layout is not
architected (R178): the state is made of the free values from `n` on, and what traversal reads at a place outside a scene's
records is a ray error (R221). -/
def freeTrav (n : Nat) : Trav :=
  let w (i : Nat) : Word := Config.freeWord (n + i)
  ⟨(List.range ((w 0).toNat % 64)).map fun i => freeItem (n + 32 + 32 * i),
    if (w 1).getLsbD 0 then some (freeHit (n + 4)) else none, if (w 2).getLsbD 0 then some (freeHit (n + 16)) else none⟩

/-- The free values that one unarchitected traversal state may draw. -/
def freeTravWords : Nat := 4096

/-- Brings a record back on die, as memory holds it (R211); `none` where it fails the check of words 8 and 9. -/
def unspill (s : State) (r : Ray) : Option State := match r.spilled with
  | none => some s
  | some (i, drawn) =>
    let w (k : Nat) : Word × Bool := readAsEngine s (spillLoc s r.ctx i + 4 * k)
    let words := (List.range 12).map fun k => (w k).1
    let same := (List.range 4).all fun k => (w (12 + k)).1 == Config.freeWord (drawn + k)
    if badFlags (words.getD 8 0) || badIndex (words.getD 9 0) (nentOf s r.ctx r.grid) then none
    else some (updRay { s with draws := if same then s.draws else s.draws + freeTravWords } r.id fun r =>
      { r with words := words, payload := (List.range 16).map fun k => (w (16 + k)).1,
               payPoison := BitVec.ofNat 16 (bitsBelow (fun k => (w (16 + k)).2) 16)
               trav := if same then r.trav else freeTrav s.draws
               spilled := none })

/-- A context's share of the on-die pool (R209). -/
def rayShare (s : State) (ctx : Nat) : Nat := (ctxWord s ctx 0x080).toNat

/-- Whether the rule on the pool lets a ray's record be spilled: it waits in a bin (R210). -/
def maySpill (r : Ray) : Bool := r.key.isSome && r.spilled.isNone

/-- Brings a record on die, or retires its ray with cause 5 (R211). With the context's share full, a record that waits in a
bin, and is none of those to keep, moves to the spill region in its stead; `none` where there is none (R210). -/
def onDie (keep : List Nat) (s : State) (id : Nat) : Option State := match rayAt s id with
  | none => some s
  | some r =>
    if r.spilled.isNone then some s
    else match unspill s r with
      | none => some (rayError s r 5)
      | some s1 =>
        if raysOnDie s1 r.ctx ≤ rayShare s1 r.ctx then some s1
        else (s1.rays.find? fun x => x.ctx == r.ctx && maySpill x && x.id != id && !keep.contains x.id).map fun v =>
          spillTo s1 v (spillSlot s1 r.ctx)

/-- A new ray: in the on-die pool while the context's share has room, else in the spill region (R190, R209). -/
def newRay (s : State) (r : Ray) : State :=
  let full := decide (rayShare s r.ctx ≤ raysOnDie s r.ctx)
  let s := { s with rays := s.rays ++ [r], nextId := s.nextId + 1 }
  if full then spillTo s r (spillSlot s r.ctx) else s

/-- A generation ray of work item `w` (R178, R254, R340). -/
def genRay (s : State) (g : Grid) (w : Nat) : Ray :=
  let r := g.recw
  { id := s.nextId, ctx := g.ctx, grid := g.id.getD 0, rid := BitVec.ofNat 64 (2 ^ 63 + w)
    words := [0, 0, 0, 0, 0, 0, 0, 0, 0xFF000000, 0, BitVec.ofNat 32 (recPix0 r + w / recSpp r), BitVec.ofNat 32 (recSmp0 r + w % recSpp r)]
    payload := [], payPoison := 0, trav := ⟨[], none, none⟩, place := .shadeBin (recGen r) 0 0, since := s.clock, spilled := none }

/-- GEN_RAY_CREATE (R242): the next generation ray of a grid, when capacity allows and no rsv waits. -/
def execGenRayCreate (ctx grid : Nat) (s : State) : Res :=
  match gridOf s ctx grid with
  | none => .next s
  | some g =>
    if g.isRay && decide (g.created < recNpix g.recw * recSpp g.recw) && raysFree s ctx 1 && (ctxOf s ctx).rsvQueue.isEmpty &&
        launches s ctx then
      let r := genRay s g g.created
      .next (enterShade (newRay (updGrid s g.key fun g => { g with created := g.created + 1 }) r) r (recGen g.recw))
    else .next s

/-- RAY_SPILL (R210): a ray that waits in a bin may move to its context's spill region. -/
def execRaySpill (ray : Nat) (s : State) : Res :=
  match rayAt s ray with
  | none => .next s
  | some r =>
    if maySpill r && decide (128 * (spillSlot s r.ctx + 1) ≤ (ctxDWord s r.ctx 0x090).toNat) then
      .next (spillTo s r (spillSlot s r.ctx))
    else .next s

/-- A ray in a traversal bin that a change of its spilled record has made degenerate leaves the bin for its end
(R189, R211, R234). -/
def checkDegenerate (s : State) (id : Nat) : State := match rayAt s id with
  | none => s
  | some r => match r.place with
    | .travBin _ => if degenerate r then enterTrav s id else s
    | _ => s

/-- RAY_UNSPILL (R211): a spilled record returns on die, in place of another where its share is full, and is checked. -/
def execRayUnspill (ray : Nat) (s : State) : Res := .next (((onDie [] s ray).map fun s => checkDegenerate s ray).getD s)

end Sys2Proof.Machine
end

