-- ==== Sys2Proof/Machine/Ring.lean ====
section
/-!
DEFINITION. The host function's rings: the command ring (R288), the event ring (R371, R372), and the accesses of the
device's own units.
-/

namespace Sys2Proof.Machine

/-- The cause with which an access of a unit to `n` bytes fails for its words' owners and homes (R336). -/
def leafLost (s : State) (leaf : Leaf) (va n : Nat) (acc : Acc) : Option Nat :=
  if leaf.dsc then none else (rangeWords (wordBase (leaf.at va)) n).findSome? fun w => lostCause s none w acc 0xF

/-- The cause with which an access of a unit to `n` bytes fails, or its leaf, by a walk made at once (R160, R274, R336). Only
the first byte's page is looked up: the units' accesses do not cross a page. -/
def unitAccess (s : State) (ctx tlb va n : Nat) (acc : Acc) : Except Nat Leaf :=
  match xlatNow s ctx tlb va acc with
  | .error k => .error k
  | .ok leaf => match leafLost s leaf va n acc with
    | some k => .error k
    | none => .ok leaf

/-- The translation of a unit's access to `n` bytes of one page through the TLBs that it uses, or the cause with which the
access fails; a page that they do not hold has to be walked first (R276, R336). -/
def unitXlat (s : State) (ctx tlb va n : Nat) (acc : Acc) : Xl :=
  match xlat s ctx tlb va acc with
  | .ok leaf => match leafLost s leaf va n acc with
    | some k => .fail k
    | none => .ok leaf
  | x => x

/-- The same with a leaf that has been taken before. -/
def leafXlat (s : State) (leaf : Leaf) (va n : Nat) (acc : Acc) : Xl :=
  match leafCause s leaf acc with
  | some k => .fail k
  | none => match leafLost s leaf va n acc with
    | some k => .fail k
    | none => .ok leaf

/-- The walk of a page for a unit ends as told: what failed is walked again by the next access. -/
def unitTold (s : State) (ctx tlb va : Nat) : State := dropFails s ctx tlb [va / 4096]

/-! ## The command ring (R288) -/

/-- KBASE, KSZ and the ring's home. -/
def cmdBase (s : State) : Nat := bitsOf (barDWord s 0x100) 0 48
def cmdSlots (s : State) : Nat := 2 ^ (bitsOf (barDWord s 0x100) 48 4 + 4)
def cmdHome (s : State) : Nat := bitsOf (barDWord s 0x100) 52 2
def cmdKwr (s : State) : Nat := (barWord s 0x108).toNat
def cmdKrd (s : State) : Nat := (barWord s 0x10C).toNat

/-- The location of a word of the command at a ring index. -/
def cmdLoc (s : State) (i w : Nat) : Nat := locAt (cmdHome s) (cmdBase s + 64 * (i % cmdSlots s) + 8 * w)

/-! ## The event ring (R371, R372) -/

/-- EBASE, ESZ, EHOME, and the room of the ring. -/
def evBase (s : State) : Nat := bitsOf (barDWord s 0x200) 0 48
def evSlots (s : State) : Nat := 2 ^ (bitsOf (barDWord s 0x200) 48 4 + 6)
def evRoom (s : State) : Bool :=
  evBase s != 0 && decide (((barWord s 0x208).toNat + 2 ^ 32 - (barWord s 0x20C).toNat) % 2 ^ 32 < evSlots s)

/-- The 32 bytes of an event record. -/
def eventWords (e : EventRec) : List DWord :=
  [BitVec.ofNat 64 (e.kind * 2 ^ 56 + e.cause * 2 ^ 48 + e.ctx * 2 ^ 42 + e.core * 2 ^ 35 + e.eng * 2 ^ 27 + e.count),
   BitVec.ofNat 64 (e.addr % 2 ^ 48 + e.span * 2 ^ 48),
   BitVec.ofNat 64 (e.slots.toNat % 2 ^ 64),
   BitVec.ofNat 64 (e.slots.toNat / 2 ^ 64 + e.aux.toNat * 2 ^ 32)]

/-- COALESCER_WRITE (R371, R372): a coalescer writes its oldest pending record to the event ring while the ring has room, once
a release at SYSTEM scope has ended, and raises EIV when the ring was empty. A ring outside the device's memory faults. -/
def execCoalescerWrite (core : Nat) (s : State) : Res :=
  match tget s.events core [] with
  | [] => .next s
  | e :: es =>
    if evRoom s then
      let ewr := barWord s 0x208
      let wasEmpty := ewr == barWord s 0x20C
      let loc := locAt (bitsOf (barDWord s 0x200) 52 2) (evBase s + 32 * (ewr.toNat % evSlots s))
      if !physExists (homeOf loc) (paOf loc) then .fault .noMemory
      else if !unitReleased (unitRelease s 0 5) 5 then .next (unitRelease s 0 5)
      else
        let s := { unitRelease s 0 5 with events := tput s.events core es }
        let s := putBar (homeWrites s loc (wordsOf64 (eventWords e)) none) 0x208 (ewr + 1)
        .next (if wasEmpty then { s with irqs := (barWord s 0x210).toNat % 2048 :: s.irqs } else s)
    else .next s

end Sys2Proof.Machine
end

