-- ==== Sys2Proof/Machine/HostRegs.lean ====
section
/-!
DEFINITION. The host function's register map (R287, R288, R290, R371): which bits a write reaches, and reads. And the
command ring's head (R288, R289).
-/

namespace Sys2Proof.Machine

/-! ## What answers -/

/-- Whether the host reaches the device's registers and rings: not in the safe state, where only DEVINFO, READY and
FAILREC answer (R287, R383), and not while the link waits (R382). -/
def hostUp (s : State) : Bool := match s.mode with
  | .boot => true
  | .run => true
  | _ => false

/-- DEVINFO (R287). -/
def devInfo (s : State) : DWord :=
  BitVec.ofNat 64 (0x0960 + Config.revision.toNat * 2 ^ 16 + (if s.isW then 2 ^ 24 else 0) + s.devId % 2 * 2 ^ 25)

/-- The 64-bit registers below 0x20: DEVINFO, READY, FAILREC, REFCLK (R287). -/
def headReg (s : State) : Nat → DWord
  | 0 => devInfo s
  | 1 => s.ready
  | 2 => s.failRec
  | _ => if hostUp s then BitVec.ofNat 64 (s.refUnits / Config.refUnit) else 0

/-- The register word that a host read of a BAR offset returns (R287). -/
def readBarWord (s : State) (off : Nat) : Word :=
  if off < 0x20 then (if off % 8 = 0 then loWord (headReg s (off / 8)) else hiWord (headReg s (off / 8)))
  else if hostUp s then barWord s off else 0

/-- A host read of the BAR: an access that is not an aligned one of 4 or 8 bytes reads as zero (R287). -/
def readBar (s : State) (off size : Nat) : DWord :=
  if 2 ^ 20 ≤ off ∨ off % size ≠ 0 then 0
  else if size = 8 then joinWords (readBarWord s off) (readBarWord s (off + 4))
  else if size = 4 then joinWords (readBarWord s off) 0
  else 0

/-! ## Writes -/

/-- The bits that a write reaches in a word of a queue's descriptor (R250); CTX, EN, QCLASS, DLM, REJ and HMASK share a
word, in which STP is treated apart. -/
def queueBits (o : Nat) : Word := match o with
  | 0x00 => 0xFFFFFFFF
  | 0x04 => 0x000FFFFF
  | 0x0C => 0xFFFFFFFF
  | 0x10 => 0xFFFFFFFF
  | 0x14 => 0x000FFFFF
  | 0x20 => 0x00FF0FBF
  | 0x24 => 0xFFFFFFFF
  | 0x28 => 0xFFFFFFFF
  | 0x2C => 0xFFFFFFFF
  | 0x30 => 0xFFFFFFFF
  | 0x34 => 0x000007FF
  | 0x38 => 0xFFFFFFFF
  | _ => 0

/-- The bits that a write reaches in a word of a context's block: what the device alone writes, and what lies past
ERRCNT, is not reached (R290, R338). -/
def blockBits (mode o : Nat) : Word :=
  if o = 0x50 ∨ o = 0x5C ∨ 0xD0 ≤ o ∨ (o = 0x48 ∧ mode = 1) then 0 else 0xFFFFFFFF

/-- The bits that a write reaches in the register word at a BAR offset, bases of the rings apart (R288, R371). -/
def writeBits (s : State) (off : Nat) : Word :=
  if off = 0x108 ∨ off = 0x20C then 0xFFFFFFFF
  else if off = 0x110 ∨ off = 0x210 then 0x000007FF
  else if 0x1000 ≤ off ∧ off < 0x1800 then queueBits (off % 64)
  else if 0x10000 ≤ off ∧ off < 0x20000 then blockBits (logMode s ((off - 0x10000) / 1024)) (off % 1024)
  else 0

/-- Whether a ring's base may be written: a home of 0 or 2, aligned to 4 KiB (R288, R371). -/
def ringBaseOk (v : DWord) : Bool := (bitsOf v 52 2 == 0 || bitsOf v 52 2 == 2) && bitsOf v 0 12 == 0

/-- A write of a ring's base register, ignored as a whole where it breaks a rule. -/
def putRingBase (s : State) (off : Nat) (v : DWord) : State :=
  let v := v &&& 0x003FFFFFFFFFFFFF
  if ringBaseOk v && !(off == 0x100 && cmdKwr s != cmdKrd s) then putBarD s off v else s

/-- A word of a queue's descriptor with STP: a write can clear STP and never sets it. -/
def queueWord (old v : Word) : Word := (v &&& 0x00FF0FBF) ||| (old &&& v &&& 0x1000)

/-- A write of one word of the register map. RD of a queue is reached while the queue is stopped (R257). TAIL takes effect
at once and lets stalled records be written, but for a replay, which stages it; so does WMARK (R290, R338, R344). -/
def writeWord (s : State) (off : Nat) (v : Word) : State :=
  let o := off % 1024
  let ctx := (off - 0x10000) / 1024
  if off = 0x100 ∨ off = 0x200 then putRingBase s off (joinWords v (barWord s (off + 4)))
  else if off = 0x104 ∨ off = 0x204 then putRingBase s (off - 4) (joinWords (barWord s (off - 4)) v)
  else if 0x1000 ≤ off ∧ off < 0x1800 ∧ off % 64 = 0x20 then putBar s off (queueWord (barWord s off) v)
  else if 0x1000 ≤ off ∧ off < 0x1800 ∧ off % 64 = 0x08 then (if qStp s ((off - 0x1000) / 64) then putBar s off v else s)
  else if 0x10000 ≤ off ∧ off < 0x20000 ∧ o = 0x4C ∧ logMode s ctx ≠ 2 then tailWritten s ctx v
  else if 0x10000 ≤ off ∧ off < 0x20000 ∧ o = 0x54 then
    (if logMode s ctx = 1 then wmarkIrq (putCtx s ctx 0x054 v) ctx else putCtx s ctx 0x054 v)
  else if writeBits s off = 0 then s
  else putBar s off (v &&& writeBits s off)

/-- A host write of 4 or 8 aligned bytes of the BAR; any other is ignored (R287). -/
def writeBar (s : State) (off size : Nat) (v : DWord) : State :=
  if !hostUp s || decide (2 ^ 20 ≤ off) then s
  else if size = 4 ∧ off % 4 = 0 then writeWord s off (loWord v)
  else if size = 8 ∧ off % 8 = 0 then
    (if off = 0x100 ∨ off = 0x200 then putRingBase s off v else writeWord (writeWord s off (loWord v)) (off + 4) (hiWord v))
  else s

/-! ## Commands (R289) -/

/-- Arguments of a command. -/
def HostCmd.arg (c : HostCmd) (i : Nat) : DWord := c.words.getD i 0

/-- The bits that may be set in word `i` of a command, beside CODE, CTX and IRQ (R289). -/
def cmdBits (code i : Nat) : DWord := match code, i with
  | 0x03, 0 => 0x7F0000
  | 0x04, 1 => 0xFFFFFFFFFFFFFFFF
  | 0x04, 2 => 0xFFFFFFFFFFFFFFFF
  | 0x05, 1 => 0x0000FFFFFFFFF000
  | 0x05, 2 => 1
  | 0x06, 1 => 0x1FFFFF
  | 0x07, 1 => 1
  | 0x07, 2 => 0xFF7F
  | 0x09, 1 => 0xFF7F
  | 0x0A, 1 => 0x7F7F
  | 0x0B, 1 => 0x7F7F
  | 0x0B, 2 => 0xFFFFFFFFFFFFFFFF
  | 0x0B, 3 => 0xFFFFFFFFFFFFFFFF
  | 0x0C, 1 => 0x7F7F
  | 0x0C, 2 => 0xFFFFFFFFFFFFFFFF
  | 0x0C, 3 => 0xFFFFFFFFFFFFFFFF
  | 0x0E, 1 => 0x7F
  | 0x0E, 2 => 0xFFFFFFFFFFFFFFFF
  | 0x0F, 1 => 0x7F
  | 0x0F, 2 => 0xFFFFFFFFFFFFFFFF
  | 0x12, 1 => 0xFFFFFFFFFFFFFFFF
  | 0x12, 2 => 0xFFFFFFFFFFFFFFFF
  | 0x12, 3 => 0xFFFFFFFFFFFFFFFF
  | _, _ => 0

/-- Whether a code is reserved (R289). -/
def reservedCode (code : Nat) : Bool := code == 0 || decide (0x12 < code)

/-- Whether a command is bad: a reserved code, or a non-zero field that must be zero (R289). -/
def badCmd (c : HostCmd) : Bool :=
  reservedCode c.code || c.arg 0 &&& ~~~(cmdBits c.code 0 ||| 0x7FFF) != 0 ||
  ((List.range 6).any fun i => c.arg (i + 1) &&& ~~~cmdBits c.code (i + 1) != 0) || bitsOf (c.arg 7) 8 8 != 0

/-- Whether the ring holds a command and fewer than 64 run (R288). -/
def cmdPending (s : State) : Bool := hostUp s && cmdKrd s != cmdKwr s && decide (s.cmds.length < 64)

/-- The command at the ring's head as the device reads it. -/
def headCmd (s : State) : HostCmd :=
  let loc := cmdLoc s (cmdKrd s) 0
  let ws := (List.range 8).map fun i => joinWords (readAsEngine s (loc + 8 * i)).1 (readAsEngine s (loc + 8 * i + 4)).1
  let w0 := ws.getD 0 0
  ⟨loc, bitsOf w0 0 8, bitsOf w0 8 6, w0.getLsbD 14, ws, bitsOf w0 16 7, 0⟩

/-- Whether the head of the ring lies in memory that exists. -/
def headExists (s : State) : Bool := physExists (cmdHome s) (paOf (cmdLoc s (cmdKrd s) 0))

/-- A command starts: it is read with an acquire at SYSTEM scope, and KRD advances (R288). -/
def startCmdAt (s : State) (c : HostCmd) : State :=
  let s := putBar s 0x10C (BitVec.ofNat 32 (cmdKrd s + 1))
  { s with cmds := s.cmds ++ [c] }

/-- Commands that no other event carries out: those with a reserved code, and SETCTX without a part (R289). -/
def idleCmd (c : HostCmd) : Bool := reservedCode c.code || (c.code == 3 && c.todo == 0)

/-- The end of a command that names nothing to do. -/
def endIdle (s : State) (c : HostCmd) : State :=
  finishCmd s c (if badCmd c then 2 else if (ctxOf s c.ctx).live then 0 else 3) 0

/-- Ends the commands at the ring's head that name nothing to do, at most `fuel` of them. -/
def skipIdle : Nat → State → State
  | 0, s => s
  | fuel + 1, s =>
    if cmdPending s && headExists s && idleCmd (headCmd (engineAcquire s 5)) then
      let s := engineAcquire s 5
      skipIdle fuel (endIdle (startCmdAt s (headCmd s)) (headCmd s))
    else s

/-- Commands that the ring holds. -/
def cmdsWaiting (s : State) : Nat := (cmdKwr s + 2 ^ 32 - cmdKrd s) % 2 ^ 32

/-- Ends every command at the head that names nothing to do. -/
def skipIdles (s : State) : State := skipIdle (min (cmdsWaiting s) (cmdSlots s)) s

/-- The command at the head starts if it is wanted; a bad one ends with STATUS 2 and nothing done, one of a context that
is not live with STATUS 3 (R289). -/
def takeCmd (s0 : State) (want : State → HostCmd → Bool) (k : State → HostCmd → State) : Res :=
  if !cmdPending s0 then .next s0
  else if !headExists s0 then .fault .noMemory
  else
    let s := engineAcquire s0 5
    let c := headCmd s
    if want s c then
      let s := startCmdAt s c
      .next (skipIdles (
        if badCmd c then finishCmd s c 2 0
        else if c.code ≠ 1 ∧ (ctxOf s c.ctx).live = false then finishCmd s c 3 0
        else k s c))
    else .next s0

/-- As `takeCmd`, for the commands with a code. -/
def onCode (code : Nat) (s : State) (k : State → HostCmd → State) : Res := takeCmd s (fun _ c => c.code == code) k

/-- CMD_DOORBELL (R288): a write of KWR. Commands at the head that name nothing to do end. -/
def execCmdDoorbell (kwr : BitVec 32) (s : State) : Res :=
  if hostUp s then
    let s := putBar s 0x108 kwr
    if cmdPending s && !headExists s then .fault .noMemory else .next (skipIdles s)
  else .next s

/-- HOST_REG_WRITE (R287). -/
def execHostRegWrite (off size : Nat) (v : BitVec 64) (s : State) : Res := .next (skipIdles (writeBar s off size v))

end Sys2Proof.Machine
end

