-- ==== Sys2Proof/Machine/Engine.lean ====
section
/-!
DEFINITION. The issue of engine commands and queue bindings (R146 to R153, R158, R159, R164 to R166).
-/

namespace Sys2Proof.Machine

/-! ## Checks at issue (R147) -/

/-- A failed check: its cause and the address that goes with it. -/
abbrev Flaw := Nat × Nat

/-- The check that is raised among those that fail: the lowest cause; for 0x21 the lowest offset, else the first (R147). -/
def worstFlaw (fs : List Flaw) : Option Flaw :=
  match fs.map Prod.fst with
  | [] => none
  | c :: cs =>
    let cause := cs.foldl min c
    let addrs := (fs.filter fun f => f.1 == cause).map Prod.snd
    some (cause, if cause = 0x21 then addrs.foldl min (addrs.headD 0) else addrs.headD 0)

/-- A check that raises trap 0x01 when it fails. -/
def need (ok : Bool) : List Flaw := if ok then [] else [(1, 0)]

/-- A scratchpad range within `size` bytes. -/
def spFlaw (size ofs len : Nat) : List Flaw := if ofs + len ≤ size then [] else [(0x21, max ofs size)]

/-- The scratchpad of a group: .scratch, or nothing for an episode group. -/
def scratchOf (s : State) (g : Group) : Nat := match teamOfGroup s g with
  | some t => t.size
  | none => 0

/-- BAR and BOFS (R151). -/
def barFlaws (size : Nat) (bar : Bool) (bofs : Nat) : List Flaw :=
  if bar then (if bofs % 8 = 0 then [] else [(5, bofs)]) ++ spFlaw size bofs 16 else need (bofs == 0)

/-- An enable and its scope (R151). -/
def scopeFlaws (on : Bool) (scope : Nat) : List Flaw := need (if on then decide (scope < 6) else scope == 0)

/-- An address word (R153): its alignment, the bytes it reaches in scratchpad, and whether SP and Q may be set. -/
def addrFlaws (size : Nat) (w : DWord) (align len : Nat) (maySp mayQ : Bool) : List Flaw :=
  let sp := w.getLsbD 63
  let a := bitsOf w 0 48
  if w.getLsbD 62 then need (mayQ && !sp && bitsOf w 4 58 == 0)
  else need (bitsOf w 48 14 == 0 && (maySp || !sp)) ++ (if a % align = 0 then [] else [(5, a)]) ++
    if sp then spFlaw size a len else []

/-- A count within bounds and a multiple of a unit. -/
def lenFlaws (n lo hi unit : Nat) : List Flaw := need (decide (lo ≤ n) && decide (n ≤ hi) && n % unit == 0)

/-- Word 0 of a command (R151). -/
def word0Flaws (size : Nat) (w : DWord) : List Flaw :=
  scopeFlaws (w.getLsbD 55) (bitsOf w 52 3) ++ scopeFlaws (w.getLsbD 51) (bitsOf w 48 3) ++ need (bitsOf w 20 26 == 0) ++
  barFlaws size (w.getLsbD 46) (bitsOf w 0 20)

/-- Words that must be zero. -/
def zeroFlaws (ws : List DWord) : List Flaw := need (ws.all fun w => w == 0)

/-- GATHER and SCATTER (R153, R155). -/
def rowsFlaws (size : Nat) (w : Nat → DWord) : List Flaw :=
  let n := bitsOf (w 3) 0 32
  let row := bitsOf (w 3) 32 24
  addrFlaws size (w 1) 4 0 false false ++ addrFlaws size (w 2) 4 (4 * n) true false ++ lenFlaws n 1 (2 ^ 31) 1 ++
  lenFlaws row 4 (2 ^ 24 - 4) 4 ++ need (bitsOf (w 3) 56 8 == 0) ++ need (bitsOf (w 4) 48 16 == 0 && bitsOf (w 4) 0 48 % 4 == 0) ++
  addrFlaws size (w 5) 4 (n * row) true true ++ zeroFlaws [w 6, w 7]

/-- PRDX (R153, R159): op 3 is 64 bits wide. -/
def prdxFlaws (w : Nat → DWord) : List Flaw :=
  let align := if bitsOf (w 3) 32 4 = 3 then 8 else 4
  addrFlaws 0 (w 1) align 0 false false ++ addrFlaws 0 (w 2) align 0 false false ++ lenFlaws (bitsOf (w 3) 0 32) 1 (2 ^ 28) 1 ++
  need (decide (bitsOf (w 3) 32 4 < 6) && (bitsOf (w 3) 36 2 == 1 || bitsOf (w 3) 36 2 == 2) && bitsOf (w 3) 38 10 == 0) ++
  zeroFlaws [w 4, w 5, w 6, w 7]

/-- Words 1 to 7 of a command by its code (R152, R153); `lu` marks the launch unit's port. -/
def codeFlaws (s : State) (ctx size : Nat) (lu : Bool) (code : Nat) (w : Nat → DWord) : List Flaw :=
  match lu, code with
  | false, 1 =>
    let len := bitsOf (w 3) 0 40
    addrFlaws size (w 1) 4 len true false ++ addrFlaws size (w 2) 4 len true false ++ lenFlaws len 4 (2 ^ 40 - 4) 4 ++
    need (bitsOf (w 3) 40 24 == 0) ++ zeroFlaws [w 4, w 5, w 6, w 7]
  | false, 2 =>
    addrFlaws size (w 1) 64 64 true false ++ addrFlaws size (w 2) 64 64 true false ++ zeroFlaws [w 3, w 4, w 5, w 6, w 7]
  | false, 3 => rowsFlaws size w
  | false, 4 => rowsFlaws size w
  | false, 5 =>
    let len := bitsOf (w 3) 0 40
    addrFlaws size (w 1) 8 len true false ++ lenFlaws len 8 (2 ^ 40 - 8) 8 ++ need (bitsOf (w 3) 40 24 == 0) ++
    zeroFlaws [w 4, w 5, w 6, w 7]
  | true, 6 =>
    addrFlaws size (w 1) 64 0 false false ++ need (bitsOf (w 2) 5 59 == 0 && qCtx s (bitsOf (w 2) 0 5) == some ctx) ++
    zeroFlaws [w 3, w 4, w 5, w 6, w 7]
  | false, 7 => prdxFlaws w
  | _, _ => [(1, 0)]

/-- The checks of a command at issue (R149). -/
def cmdFlaws (s : State) (g : Group) (lu : Bool) (ws : List DWord) : List Flaw :=
  let w (i : Nat) : DWord := ws.getD i 0
  word0Flaws (scratchOf s g) (w 0) ++ codeFlaws s g.ctx (scratchOf s g) lu (bitsOf (w 0) 56 8) w

/-! ## The frame of issue (R147, R148) -/

/-- Writes the status predicate in the active lanes; PD = 0 names none (R148). -/
def setStatus (g : Group) (pd : BitVec 3) (act : Mask) (full : Bool) : Group :=
  if pd = 0 then g else setP g pd.toNat (mergeMask act (if full then act else 0) (pReg g pd.toNat))

/-- A trap that an entry raises at issue: the active lanes, no destination (R147). -/
def entryTrap (s : State) (g : Group) (c : Clause) (act : Mask) (f : Flaw) : Res := trapAt s g c f.1 act 0xFF f.2 []

/-- The outcome of a room test that failed: the lanes of PD are set, or the instruction waits at issue. -/
def noRoom (s : State) (g : Group) (c : Clause) (pd : BitVec 3) (act : Mask) : Res :=
  if pd = 0 then waits s else retire s (setStatus g pd act true) c

/-- The scalars of a run. -/
def scalRun (g : Group) (b : BitVec 6) (n : Nat) : List DWord := (List.range n).map fun i => sReg g (b.toNat + i)

/-- The numbers of the scalars of a run. -/
def scalNums (b : BitVec 6) (n : Nat) : List Nat := (List.range n).map fun i => b.toNat + i

/-- Whether an operation writes the scratchpad: a store or an atomic there, or what a barrier form does to its word before
it waits (R142, R150). -/
def MemOp.spWrites (o : MemOp) : Bool := match o.kind with
  | .bar .init _ _ _ => true
  | .bar .arr _ _ _ => true
  | .bar .sync _ _ phase => phase.isNone
  | _ => o.sp && o.kind.writes

/-- Whether a scratchpad write of the group has still to complete (R150). -/
def spWritePending (g : Group) : Bool := g.ops.any MemOp.spWrites

/-! ## pushc (R149) -/

/-- The place of an engine among those of the device: copy engine 4 × hamlet + port, or 64 for the launch unit. -/
def engineOf (core : Nat) (eq : BitVec 6) : Nat := if eq = 8 then 64 else 4 * hamletOf core + eq.toNat

/-- LAUNCH commands accepted for a queue and not yet placed in it. -/
def launchesFor (s : State) (q : Nat) : Nat :=
  ((tget s.engines 64 []).filter fun c => !c.started && c.ended.isNone && bitsOf (c.words.getD 2 0) 0 5 == q).length

/-- Whether an engine has room: 16 commands accepted and not started, or room in the launch queue named (R149). -/
def engineRoom (s : State) (eng : Nat) (ws : List DWord) : Bool :=
  if eng = 64 then
    let q := bitsOf (ws.getD 2 0) 0 5
    decide ((qWr s q + 2 ^ 32 - qRd s q) % 2 ^ 32 + launchesFor s q < qSize s q)
  else decide (((tget s.engines eng []).filter fun c => !c.started && c.ended.isNone).length < 16)

/-- The key of a group's team, 0 for none. -/
def teamKey (s : State) (g : Group) : Nat := ((teamOfGroup s g).map fun t => t.key).getD 0

/-- Whether a command that has not started goes behind another of the same clock: the other's core is lower, or its slot
(R149). -/
def EngCmd.behind (c d : EngCmd) : Bool := !c.started && c.ended.isNone && c.since == d.since &&
  (decide (d.core < c.core) || (d.core == c.core && decide (d.slot < c.slot)))

/-- A command joins its engine's queue, before those of the same clock that go behind it. -/
def queueCmd (c : EngCmd) (cs : List EngCmd) : List EngCmd :=
  let i := (cs.findIdx? fun x => x.behind c).getD cs.length
  cs.take i ++ c :: cs.drop i

/-- A command is accepted. -/
def acceptCmd (s : State) (g : Group) (eng : Nat) (ws : List DWord) : State :=
  let c : EngCmd := ⟨s.nextId, eng, g.ctx, g.core, g.slot, teamKey s g, ws, false, 0, none, false, 0, none, s.clock, [], false, []⟩
  { s with nextId := s.nextId + 1, engines := tupd s.engines eng [] (queueCmd c) }

/-- Whether commands of this clock that go behind a group's own have taken the room: the group's push then counts for the
next clock (R149). -/
def pushedPast (s : State) (g : Group) (eng : Nat) : Bool :=
  (tget s.engines eng []).any fun c => c.since == s.clock &&
    (decide (g.core < c.core) || (c.core == g.core && decide (g.slot < c.slot)))

/-- pushc (R149): checks, the room test, and the copy of the eight scalars. Its counter goes up and down at once. -/
def execPushc (f : E) (ox : Option Ox) (s : State) : Res :=
  groupIssue f.ctr ox (scalNums f.s 8) (fun g c act =>
    let ws := scalRun g f.s 8
    let eng := engineOf g.core f.eq
    match worstFlaw (cmdFlaws s g (f.eq == 8) ws) with
    | some x => entryTrap s g c act x
    | none =>
      if spWritePending g || (!engineRoom s eng ws && pushedPast s g eng) then waits s
      else if engineRoom s eng ws then retire (acceptCmd s g eng ws) (setStatus g f.pd act false) c
      else noRoom s g c f.pd act) s

/-! ## Queue bindings (R164 to R166) -/

/-- The window that a qbind names. -/
def bindWindow (ox : Option Ox) : BitVec 7 := match ox with
  | some o => o.c
  | none => 0

/-- qbind: a free queue register takes a port and a window that serves no other queue. -/
def bindQueue (f : EQ) (ox : Option Ox) (out : Bool) (s : State) : Res :=
  withIssuer s fun g c =>
    let win := bindWindow ox
    if beyond g win then wordTrap s g c 4
    else groupIssue f.ctr ox [] (fun g c act =>
      if (tfind g.queues f.n.toNat).isSome || (windowOf g win).isSome then entryTrap s g c act (1, 0)
      else retire s { g with queues := tput g.queues f.n.toNat ⟨f.eq.toNat, out, win.toNat, []⟩ } c) s

/-- qbind.in (R164). -/
def execQbindIn (f : EQ) (ox : Option Ox) (s : State) : Res := bindQueue f ox false s

/-- qbind.out (R164). -/
def execQbindOut (f : EQ) (ox : Option Ox) (s : State) : Res := bindQueue f ox true s

/-- qfree (R166): the binding and its elements go. -/
def execQfree (f : EF) (ox : Option Ox) (s : State) : Res :=
  groupIssue f.ctr ox [] (fun g c _ =>
    retire (freeQueues s g.core g.slot fun n => n == f.n.toNat) { g with queues := tdel g.queues f.n.toNat } c) s

end Sys2Proof.Machine
end

