-- ==== Sys2Proof/Machine/EngineRun.lean ====
section
/-!
DEFINITION. Copy engines and the launch unit's commands as they run (R150, R154 to R162): the accesses of an engine and
their faults, the copy commands, LAUNCH, pair reductions and completion.
-/

namespace Sys2Proof.Machine

/-! ## Accesses of an engine (R160, R161) -/

/-- A place that an engine reads or writes: the scratchpad of its command's team, or a virtual address of its context;
`held` are the only translations of a stream that takes them first (R353). -/
structure EngMem where
  ctx : Nat
  team : Nat
  unit : Nat
  sp : Bool
  held : Option (List Leaf)

/-- The place that an address word names. -/
def engMem (ctx team unit : Nat) (w : DWord) : EngMem := ⟨ctx, team, unit, w.getLsbD 63, none⟩

/-- The TLB that translates for a unit: a copy engine's walk-ahead TLB, or the device's (R276). -/
def unitTlb (unit : Nat) : Nat := if unit < 32 then engTlb + unit else noTlb

/-- Whether a leaf maps an address. -/
def Leaf.covers (l : Leaf) (va : Nat) : Bool := decide (l.vbase ≤ va) && decide (va < l.vbase + l.size)

/-- The translation of an engine's access to a word. A copy engine uses its walk-ahead TLB, a stream what it has taken; any
other unit walks at once. -/
def engXlat (s : State) (m : EngMem) (a n : Nat) (acc : Acc) : Xl := match m.held with
  | some ls => match ls.find? fun l => l.covers a with
    | some l => leafXlat s l a n acc
    | none => .miss
  | none =>
    if m.unit < 32 then unitXlat s m.ctx (engTlb + m.unit) a n acc
    else match unitAccess s m.ctx noTlb a n acc with
      | .ok l => .ok l
      | .error k => .fail k

/-- In place of a cause: the access waits for a walk, for a word that is registered to a unit (R328), or for the host to give
up a line (R286). -/
def waitWalk : Nat := 0
def waitWord : Nat := 1
def waitSnoop : Nat := 2

/-- The word at a location through a leaf, as an engine reads it: a discarded page reads zeros, and the RDC caches no word of
a DEV or SOR page (R307, R309). -/
def leafRead (s : State) (leaf : Leaf) (w : Nat) : Word × Bool :=
  if leaf.dsc then (0, false)
  else if leaf.mt = .dev ∨ leaf.mt = .sor then newest s w
  else readAsEngine s w

/-- The word at an address of an engine, with its poison mark, or the cause of its fault. The scratchpad of a team that
has ended gives a free value. -/
def engRead (s : State) (m : EngMem) (a : Nat) : Except Nat (Word × Bool) :=
  if m.sp then .ok (match teamOf s m.team with
    | some t => spWord t (a / 4 * 4)
    | none => (Config.freeWord (s.draws + a / 4), false))
  else match engXlat s m (a / 4 * 4) 4 .read with
    | .fail k => .error k
    | .miss => .error waitWalk
    | .ok leaf =>
      if !leaf.dsc && hostBiased s (lineBase (leaf.at a)) then .error waitSnoop
      else .ok (leafRead s leaf (leaf.at (a / 4 * 4)))

/-- Writes bytes of the word at an address of an engine. What is meant for the scratchpad of a team that has ended is
dropped. A write of a DEV or SOR page counts for every later load (item 2 of R302): a word of which it writes a part is given
back by its owner first. -/
def engWrite (s : State) (m : EngMem) (a : Nat) (mask : BitVec 4) (v : Word) (poison : Bool) : Except Nat State :=
  if m.sp then .ok (updTeam s m.team fun t => spPut t (a / 4 * 4) mask v poison)
  else match engXlat s m (a / 4 * 4) 4 .write with
    | .fail k => .error k
    | .miss => .error waitWalk
    | .ok leaf =>
      let w := leaf.at (a / 4 * 4)
      let io := leaf.mt == .dev || leaf.mt == .sor
      if hostBiased s (lineBase w) then .error waitSnoop
      else if io && mask != 0xF && (ownerOf s w).isSome then .error waitWord
      else .ok (homeWrite (if io then overtake s w mask else s) w mask v poison (some m.ctx) none)

/-- Reads `n` words from an address up. -/
def engReads (s : State) (m : EngMem) (a n : Nat) : Except (Nat × Nat) (List (Word × Bool)) :=
  (List.range n).mapM fun i => match engRead s m (a + 4 * i) with
    | .ok w => .ok w
    | .error k => .error (k, a + 4 * i)

/-- The class of R161 that a cause ends a command with; an absent page ends it only when given up, with class 0x08. -/
def classOf (cause : Nat) : Nat := match cause with
  | 0x22 => 0x0A
  | 0x23 => 0x0B
  | 0x30 => 0x0C
  | 0x31 => 0x0C
  | 0x70 => 0x12
  | _ => 0x09

/-- The event that a unit's fault reports (R126, R161, R273, R336). `ident` is the engine identity of R162. -/
def reportFault (s : State) (ctx core ident cause va : Nat) : State :=
  if cause = 0x20 then report s ⟨0x08, 0x08, ctx, core, va / 4096 * 4096, none, ident, 0, 0⟩
  else tellFault s ctx core none ident cause va

/-! ## Commands -/

/-- The code of a command and its words. -/
def EngCmd.w (c : EngCmd) (i : Nat) : DWord := c.words.getD i 0
def EngCmd.code (c : EngCmd) : Nat := bitsOf (c.w 0) 56 8

/-- The engine identity of a command of an engine (R162): 4 × hamlet + q of copy engine, 64 for the launch unit. -/
def engIdent (eng : Nat) (c : EngCmd) : Nat := if eng = 64 then hamletOf c.core * 32 + 8 else eng / 4 * 32 + eng % 4

/-- Rewrites a command of an engine. -/
def updCmd (s : State) (eng id : Nat) (f : EngCmd → EngCmd) : State :=
  { s with engines := tupd s.engines eng [] fun cs => cs.map fun c => if c.id == id then f c else c }

/-- A command ends with a class. -/
def endCmd (s : State) (eng : Nat) (c : EngCmd) (cls : Nat) : State := updCmd s eng c.id fun c => { c with ended := some cls }

/-- What an engine's access that has to wait asks for: the walk of its page by its hamlet, the return of the words that
are registered to a unit, or the host's answer for the line. -/
def engWait (s : State) (ctx eng cause va : Nat) : State :=
  if cause = waitWalk then askWalk s ctx (unitTlb eng) va false
  else
    let x := if eng < 32 then unitXlat s ctx (unitTlb eng) va 4 .read else match unitAccess s ctx noTlb va 4 .read with
      | .ok leaf => .ok leaf
      | .error k => .fail k
    match x with
    | .ok leaf =>
      if cause = waitSnoop then (snoopFirst s [leaf.at va]).getD s else recallWords s (pairOf (wordBase (leaf.at va)))
    | .miss => askWalk s ctx (unitTlb eng) va false
    | .fail _ => s

/-- What a command's access leads to: the command waits for a walk, a word, a line of the host, or system software's verdict
on an absent page; else it ends (R161). -/
def cmdFault (s : State) (eng : Nat) (c : EngCmd) (cause va : Nat) : State :=
  if cause ≤ waitSnoop then engWait s c.ctx eng cause va
  else
    let s := reportFault (unitTold s c.ctx (unitTlb eng) va) c.ctx c.core (engIdent eng c) cause va
    if cause = 0x20 then updCmd s eng c.id fun c => { c with wait := some (va / 4096) }
    else endCmd s eng c (classOf cause)

/-- Uncorrectable data that a command moves on is reported once for the command (R126, R161). -/
def cmdPoison (s : State) (eng : Nat) (c : EngCmd) : State :=
  if (tget s.engines eng []).any fun x => x.id == c.id && decide (0x10 ≤ x.worst) then s
  else updCmd (report s ⟨0x0E, 0x10, c.ctx, c.core, 0, none, engIdent eng c, 0, 0⟩) eng c.id fun c => { c with worst := max c.worst 0x10 }

/-- A command starts: it leaves the room test's count, and acquires (R149, R160). -/
def startCmd (s : State) (eng : Nat) (c : EngCmd) : State :=
  if c.started then s
  else updCmd (if (c.w 0).getLsbD 55 then engineAcquire s (bitsOf (c.w 0) 52 3) else s) eng c.id fun c => { c with started := true }

/-- The commands of an engine that may run now, in acceptance order: none waits, each earlier one has started, and one
with FEN finds no earlier one left (R160). -/
def mayRun (cs : List EngCmd) : List EngCmd :=
  (cs.zipIdx.filter fun p => p.1.ended.isNone && p.1.wait.isNone &&
    ((cs.take p.2).all fun c => c.started || c.ended.isSome) && (p.1.started || !(p.1.w 0).getLsbD 47 || p.2 == 0)).map Prod.fst

/-! ## Moves -/

/-- What the moves of a command lead to: how many were made, whether poison went with them, and a fault. -/
structure Moved where
  s : State
  pos : Nat
  poison : Bool
  fault : Option (Nat × Nat)

/-- A move: reads and writes one word or one byte. -/
abbrev Mover := State → Nat → Except (Nat × Nat) (State × Bool)

/-- Makes moves from `pos` on while fuel lasts, up to the first that faults. -/
def runMoves (mv : Mover) : Nat → Moved → Moved
  | 0, m => m
  | fuel + 1, m => match mv m.s m.pos with
    | .error f => { m with fault := some f }
    | .ok (s, p) => runMoves mv fuel { m with s := s, pos := m.pos + 1, poison := m.poison || p }

/-- Runs the rest of a command of `n` moves. -/
def runCmd (s : State) (eng : Nat) (c : EngCmd) (n : Nat) (mv : Mover) : State :=
  let r := runMoves mv (n - c.pos) ⟨startCmd s eng c, c.pos, false, none⟩
  let s1 := updCmd { r.s with draws := s.draws + 1 } eng c.id fun c => { c with pos := r.pos }
  let s2 := if r.poison then cmdPoison s1 eng c else s1
  match r.fault with
  | some (k, va) => cmdFault s2 eng c k va
  | none => endCmd s2 eng c 0

/-- Tags a result with its address. -/
def atAddr {α : Type} (a : Nat) : Except Nat α → Except (Nat × Nat) α
  | .ok x => .ok x
  | .error k => .error (k, a)

/-- A word moves from one place to another. -/
def moveWord (src dst : EngMem) (s : State) (a b : Nat) : Except (Nat × Nat) (State × Bool) :=
  match atAddr a (engRead s src a) with
  | .error f => .error f
  | .ok (v, p) => (atAddr b (engWrite s dst b 0xF v p)).map fun s => (s, p)

/-- The first command of an engine with a code that may run. -/
def runnable (s : State) (eng code : Nat) : Option EngCmd := (mayRun (tget s.engines eng [])).find? fun c => c.code == code

/-- COPY (R154). -/
def execCopy (eng : Nat) (s : State) : Res :=
  match runnable s eng 1 with
  | none => .next s
  | some c => .next (runCmd s eng c (bitsOf (c.w 3) 0 40 / 4) fun s i =>
      moveWord (engMem c.ctx c.team c.unit (c.w 1)) (engMem c.ctx c.team c.unit (c.w 2)) s (bitsOf (c.w 1) 0 48 + 4 * i) (bitsOf (c.w 2) 0 48 + 4 * i))

/-- FILL (R154). -/
def execFill (eng : Nat) (s : State) : Res :=
  match runnable s eng 5 with
  | none => .next s
  | some c => .next (runCmd s eng c (bitsOf (c.w 3) 0 40 / 4) fun s i =>
      let a := bitsOf (c.w 1) 0 48 + 4 * i
      (atAddr a (engWrite s (engMem c.ctx c.team c.unit (c.w 1)) a 0xF (if i % 2 = 0 then loWord (c.w 2) else hiWord (c.w 2)) false)).map
        fun s => (s, false))

/-! ## Accesses in ascending address order (R160) -/

/-- Whether the page of an address is a DEV or SOR page, as its translation stands. -/
def ioPage (s : State) (m : EngMem) (a : Nat) : Bool :=
  !m.sp && match (tlbFind s m.ctx (unitTlb m.unit) a).orElse fun _ => (walk s m.ctx a).toOption with
    | some l => l.mt == .dev || l.mt == .sor
    | none => false

/-- The numbers below `n` in ascending order of a key, equal ones as they stand. -/
def ascending (n : Nat) (key : Nat → Nat) : List Nat :=
  ((List.range n).map fun i => (key i, i)).mergeSort (fun a b => rankLe [a.1, a.2] [b.1, b.2]) |>.map Prod.snd

/-- The command as it stands now. -/
def cmdNow (s : State) (eng : Nat) (c : EngCmd) : EngCmd := ((tget s.engines eng []).find? fun x => x.id == c.id).getD c

/-- The moves of an orderly command: its `n` reads in the order `rd`, each into the buffer, then its writes in the order
`wr`. A read or a write that is left out has no address. -/
def orderly (eng : Nat) (c : EngCmd) (n : Nat) (rd wr : List Nat) (read : State → Nat → Except (Nat × Nat) (Word × Bool))
    (write : State → Nat → Word × Bool → Except (Nat × Nat) State) : Mover := fun s i =>
  if i < n then
    let k := rd.getD i 0
    (read s k).map fun v => (updCmd s eng c.id fun c => { c with buf := tput c.buf k v }, v.2)
  else
    let k := wr.getD (i - n) 0
    (write s k (tget (cmdNow s eng c).buf k (0, false))).map fun s => (s, false)

/-! ## GATHER and SCATTER (R155) -/

/-- Words of a row, rows, and words of the whole stream. -/
def rowWords (c : EngCmd) : Nat := bitsOf (c.w 3) 32 24 / 4
def rowCount (c : EngCmd) : Nat := bitsOf (c.w 3) 0 32
def streamWords (c : EngCmd) : Nat := rowWords c * rowCount c

/-- The table, the index array and the stream's place in memory. -/
def tableMem (c : EngCmd) : EngMem := engMem c.ctx c.team c.unit (c.w 1)
def indexMem (c : EngCmd) : EngMem := engMem c.ctx c.team c.unit (c.w 2)
def streamMem (c : EngCmd) : EngMem := engMem c.ctx c.team c.unit (c.w 5)
def streamAddr (c : EngCmd) (j : Nat) : Nat := bitsOf (c.w 5) 0 48 + 4 * j

/-- The index of the row of word `j` of the stream: as the command has read it at its start, or from memory. DESIGN CHOICE
(log entry 150): from memory it is read again for each word of its row. -/
def rowIndex (s : State) (c : EngCmd) (j : Nat) : Except (Nat × Nat) (Word × Bool) := match c.recs[j / rowWords c]? with
  | some x => .ok x
  | none =>
    let a := bitsOf (c.w 2) 0 48 + 4 * (j / rowWords c)
    atAddr a (engRead s (indexMem c) a)

/-- The place in the table of word `j` of the stream by the index of its row, `none` where the row is skipped. -/
def placeOf (c : EngCmd) (j : Nat) (x : Word) : Option Nat :=
  if x = 0xFFFFFFFF then none else some (bitsOf (c.w 1) 0 48 + x.toNat * bitsOf (c.w 4) 0 48 + 4 * (j % rowWords c))

/-- Word `j` of the stream that GATHER reads, and whether uncorrectable data met it, in the index or the row. -/
def gatherWord (s : State) (c : EngCmd) (j : Nat) : Except (Nat × Nat) ((Word × Bool) × Bool) :=
  match rowIndex s c j with
  | .error f => .error f
  | .ok (x, bad) => match placeOf c j x with
    | none => .ok ((0, false), bad)
    | some a => (atAddr a (engRead s (tableMem c) a)).map fun v => (v, v.2 || bad)

/-- Writes word `j` of the stream that SCATTER consumes. -/
def scatterWord (s : State) (c : EngCmd) (j : Nat) (v : Word × Bool) : Except (Nat × Nat) (State × Bool) :=
  match rowIndex s c j with
  | .error f => .error f
  | .ok (x, bad) => match placeOf c j x with
    | none => .ok (s, bad)
    | some a => (atAddr a (engWrite s (tableMem c) a 0xF v.1 v.2)).map fun s => (s, v.2 || bad)

/-- Whether the accesses of a GATHER or SCATTER have to go in ascending address order: a row of its table lies on a DEV or
SOR page. -/
def rowsIo (s : State) (c : EngCmd) (ixs : List (Word × Bool)) : Bool :=
  ixs.any fun x => x.1 != 0xFFFFFFFF && (List.range (rowWords c)).any fun k =>
    ioPage s (tableMem c) (bitsOf (c.w 1) 0 48 + x.1.toNat * bitsOf (c.w 4) 0 48 + 4 * k)

/-- The index array as memory holds it, where it can be read. -/
def indexNow (s : State) (c : EngCmd) : List (Word × Bool) := (List.range (rowCount c)).filterMap fun i =>
  match engRead s { indexMem c with unit := 64 } (bitsOf (c.w 2) 0 48 + 4 * i) with
  | .ok x => some x
  | .error _ => none

/-- The address in the table of a word of the stream, by the index array read. -/
def tableKey (c : EngCmd) (j : Nat) : Nat := ((c.recs[j / rowWords c]?).bind fun x => placeOf c j x.1).getD 0

/-- Starts a GATHER or SCATTER; whether it is orderly is settled then. -/
def startRows (s : State) (eng : Nat) (c : EngCmd) : State :=
  if c.started then s
  else
    let s := startCmd s eng c
    updCmd s eng c.id fun x => { x with io := rowsIo s c (indexNow s c) }

/-- The queue register that a command moves data through, while it is bound to the command's engine. -/
def cmdQueueReg (s : State) (eng : Nat) (c : EngCmd) (n : Nat) (out : Bool) : Option QueueReg :=
  if c.freed then none
  else (groupAt s c.core c.slot).bind fun g => (tfind g.queues n).bind fun q =>
    if q.out == out && q.port == (if out then 0x14 else 0x10) + eng % 4 && eng / 4 == hamletOf c.core then some q else none

/-- Changes the elements of a queue register. -/
def putElems (s : State) (core slot n : Nat) (es : List (Lanes × Mask)) : State :=
  updGroup s core slot fun g => { g with queues := (g.queues.map fun e => if e.1 == n then (e.1, { e.2 with elems := es }) else e) }

/-- Words as an element of a queue, the last padded with zeros. -/
def engElemOf (ws : List (Word × Bool)) : Lanes × Mask :=
  (perLane fun l => (ws.getD l (0, false)).1, maskOf fun l => (ws.getD l (0, false)).2)

/-- The elements of a command's stream. -/
def streamElems (c : EngCmd) : Nat := ceilDiv (streamWords c) 128

/-- Reads what is left of the index array of a command into its record, in ascending address order. -/
def takeIndexes (s : State) (eng : Nat) (c : EngCmd) : State :=
  let takeOne (s : State) (i : Nat) : Except (Nat × Nat) (State × Bool) :=
    let a := bitsOf (c.w 2) 0 48 + 4 * i
    (atAddr a (engRead s (indexMem c) a)).map fun v => (updCmd s eng c.id fun c => { c with recs := c.recs ++ [v] }, v.2)
  let r := runMoves takeOne (rowCount c - c.recs.length) ⟨s, c.recs.length, false, none⟩
  let s := if r.poison then cmdPoison r.s eng c else r.s
  match r.fault with
  | some (k, va) => cmdFault s eng c k va
  | none => s

/-- Makes the moves of a command below `n` and leaves it running. -/
def rowsPart (s : State) (eng : Nat) (c : EngCmd) (n : Nat) (mv : Mover) : State :=
  let r := runMoves mv (n - c.pos) ⟨s, c.pos, false, none⟩
  let s1 := updCmd r.s eng c.id fun c => { c with pos := r.pos }
  let s2 := if r.poison then cmdPoison s1 eng c else s1
  match r.fault with
  | some (k, va) => cmdFault s2 eng c k va
  | none => s2

/-- Reads of the words of a stream from its table in ascending address order (R160), into the command's buffer. -/
def tableReads (eng : Nat) (c : EngCmd) : Mover :=
  orderly eng c (streamWords c) (ascending (streamWords c) (tableKey c)) [] (fun s j => (gatherWord s c j).map Prod.fst) fun s _ _ => .ok s

/-- An orderly GATHER to a queue (R160): its table is read in ascending address order before its first element is pushed. -/
def gatherIoQ (s : State) (eng : Nat) (c : EngCmd) (n : Nat) (q : QueueReg) : State :=
  if c.recs.length < rowCount c then takeIndexes s eng c
  else if c.pos < streamWords c then rowsPart s eng c (streamWords c) (tableReads eng c)
  else if queueDepth ≤ q.elems.length then s
  else
    let e := c.pos - streamWords c
    let ws := (List.range (min 128 (streamWords c - 128 * e))).map fun i => tget c.buf (128 * e + i) (0, false)
    let s := updCmd (putElems s c.core c.slot n (q.elems ++ [engElemOf ws])) eng c.id fun c => { c with pos := c.pos + 1 }
    if e + 1 = streamElems c then endCmd s eng c 0 else s

/-- GATHER pushes its next element, if its queue has room. -/
def gatherQ (s : State) (eng : Nat) (c : EngCmd) : State :=
  let n := bitsOf (c.w 5) 0 4
  let s := startRows s eng c
  match cmdQueueReg s eng c n false with
  | none => endCmd s eng c 0x19
  | some q =>
    if (cmdNow s eng c).io then gatherIoQ s eng (cmdNow s eng c) n q
    else if queueDepth ≤ q.elems.length then s
    else
      let js := (List.range (min 128 (streamWords c - 128 * c.pos))).map fun i => 128 * c.pos + i
      match js.mapM (gatherWord s c) with
      | .error f => cmdFault s eng c f.1 f.2
      | .ok ws =>
        let s := updCmd (putElems s c.core c.slot n (q.elems ++ [engElemOf (ws.map Prod.fst)])) eng c.id fun c => { c with pos := c.pos + 1 }
        let s := if ws.any fun w => w.2 then cmdPoison s eng c else s
        if c.pos + 1 = streamElems c then endCmd s eng c 0 else s

/-- The words of an element that lie within the stream. -/
def elemWords (c : EngCmd) (e : Lanes × Mask) : List (Word × Bool) :=
  (List.range (min 128 (streamWords c - 128 * c.pos))).map fun i => (lane e.1 i, e.2.getLsbD i)

/-- An orderly SCATTER from a queue (R160): it consumes its whole stream, then writes the table in ascending address order. -/
def scatterIoQ (s : State) (eng : Nat) (c : EngCmd) (n : Nat) (q : QueueReg) : State :=
  if c.recs.length < rowCount c then takeIndexes s eng c
  else if c.pos < streamElems c then (match q.elems with
    | [] => s
    | e :: es =>
      let k := c.pos
      let buf := (List.range (min 128 (streamWords c - 128 * k))).foldl
        (fun b i => tput b (128 * k + i) (lane e.1 i, e.2.getLsbD i)) c.buf
      updCmd (putElems s c.core c.slot n es) eng c.id fun c => { c with pos := k + 1, buf })
  else
    let order := ascending (streamWords c) (tableKey c)
    runCmd s eng c (streamElems c + streamWords c) fun s i =>
      let j := order.getD (i - streamElems c) 0
      scatterWord s c j (tget c.buf j (0, false))

/-- SCATTER consumes the next element of its queue, if there is one. An element whose words fault is not consumed. -/
def scatterQ (s : State) (eng : Nat) (c : EngCmd) : State :=
  let n := bitsOf (c.w 5) 0 4
  let s := startRows s eng c
  match cmdQueueReg s eng c n true with
  | none => endCmd s eng c 0x19
  | some q => if (cmdNow s eng c).io then scatterIoQ s eng (cmdNow s eng c) n q else match q.elems with
    | [] => s
    | e :: es =>
      let ws := elemWords c e
      let r := runMoves (fun s i => scatterWord s c (128 * c.pos + i) (ws.getD i (0, false))) ws.length ⟨s, 0, false, none⟩
      let s1 := if r.poison then cmdPoison r.s eng c else r.s
      match r.fault with
      | some f => cmdFault s1 eng c f.1 f.2
      | none =>
        let s2 := updCmd (putElems s1 c.core c.slot n es) eng c.id fun c => { c with pos := c.pos + 1 }
        if c.pos + 1 = streamElems c then endCmd s2 eng c 0 else s2

/-- Whether the next act of an orderly command does not concern its queue: it reads its indexes or its table, or writes it. -/
def offQueue (c : EngCmd) : Bool := c.io && (decide (c.recs.length < rowCount c) ||
  (if c.code = 4 then decide (streamElems c ≤ c.pos) else decide (c.pos < streamWords c)))

/-- Whether a command on a queue has to wait for it. -/
def queueStuck (s : State) (eng : Nat) (c : EngCmd) : Bool :=
  c.started && !offQueue c && match c.queue with
    | none => false
    | some n => match cmdQueueReg s eng c n (c.code == 4) with
      | none => false
      | some q => if c.code = 4 then q.elems.isEmpty else decide (queueDepth ≤ q.elems.length)

/-- The first command with a code that may run and does not wait for its queue. -/
def runnableRows (s : State) (eng code : Nat) : Option EngCmd :=
  (mayRun (tget s.engines eng [])).find? fun c => c.code == code && !queueStuck s eng c

/-- An orderly GATHER or SCATTER (R160): it reads its index array, then what it moves, in ascending address order, and then
writes that, in ascending address order. -/
def orderlyRows (s : State) (eng : Nat) (c : EngCmd) (gather : Bool) : State :=
  let n := streamWords c
  let natural := List.range n
  let sorted := ascending n (tableKey c)
  let stream (s : State) (j : Nat) : Except (Nat × Nat) (Word × Bool) := atAddr (streamAddr c j) (engRead s (streamMem c) (streamAddr c j))
  let toStream (s : State) (j : Nat) (v : Word × Bool) : Except (Nat × Nat) State :=
    atAddr (streamAddr c j) (engWrite s (streamMem c) (streamAddr c j) 0xF v.1 v.2)
  let mv : Mover := if gather then orderly eng c n sorted natural (fun s j => (gatherWord s c j).map Prod.fst) toStream
    else orderly eng c n natural sorted stream fun s j v => (scatterWord s c j v).map Prod.fst
  if c.recs.length < rowCount c then takeIndexes s eng c
  else runCmd s eng c (2 * n) mv

/-- GATHER (R155). -/
def execGather (eng : Nat) (s : State) : Res :=
  match runnableRows s eng 3 with
  | none => .next s
  | some c =>
    if c.queue.isSome then .next (gatherQ s eng c)
    else
      let s := startRows s eng c
      let c := cmdNow s eng c
      if c.io then .next (orderlyRows s eng c true)
      else .next (runCmd s eng c (streamWords c) fun s j =>
        match gatherWord s c j with
        | .error f => .error f
        | .ok (v, p) => (atAddr (streamAddr c j) (engWrite s (streamMem c) (streamAddr c j) 0xF v.1 v.2)).map fun s => (s, p))

/-- SCATTER (R155). -/
def execScatter (eng : Nat) (s : State) : Res :=
  match runnableRows s eng 4 with
  | none => .next s
  | some c =>
    if c.queue.isSome then .next (scatterQ s eng c)
    else
      let s := startRows s eng c
      let c := cmdNow s eng c
      if c.io then .next (orderlyRows s eng c false)
      else .next (runCmd s eng c (streamWords c) fun s j =>
        match atAddr (streamAddr c j) (engRead s (streamMem c) (streamAddr c j)) with
        | .error f => .error f
        | .ok v => scatterWord s c j v)

/-! ## Tensor records and TCOPY (R156, R157) -/

/-- Whether a record keeps the rules of R157, for a command without use for metadata whose scratchpad has `size` bytes.
DEDUCED: metadata is unused unless the record feeds a loop as its sparse operand A. -/
def Tensor.ok (t : Tensor) (size : Nat) (episode : Bool) : Bool :=
  bitsOf (t.d 0) 48 15 == 0 && bitsOf (t.d 1) 5 3 == 0 && decide (t.fmt < 0x14) && decide (1 ≤ t.rank) && decide (t.rank ≤ 4) &&
  bitsOf (t.d 1) 16 16 == 0 && (List.range 4).all (fun i => decide (1 ≤ t.dim i) && decide (t.dim i ≤ 2 ^ 31) &&
    (decide (i < t.rank) || t.dim i == 1)) &&
  t.w.getD 7 0 == 0 && (List.range 3).all (fun i => bitsOf (t.d (4 + i)) 48 16 == 0) && t.meta_ == 0 &&
  (elemBits t.fmt != 6 || t.dim 0 % 4 == 0) && (!t.sp || (!episode && decide (t.extent ≤ size)))

/-- Reads a record. -/
def readTensor (s : State) (ctx team unit : Nat) (w : DWord) : Except (Nat × Nat) (Tensor × Bool) :=
  (engReads s (engMem ctx team unit w) (bitsOf w 0 48) 16).map fun ws => (⟨ws.map Prod.fst⟩, ws.any fun x => x.2)

/-- The scratchpad of a command's team. -/
def teamSize (s : State) (team : Nat) : Nat := ((teamOf s team).map fun t => t.size).getD 0

/-- Whether two records describe copies of one shape. -/
def sameShape (a b : Tensor) : Bool := a.fmt == b.fmt && a.rank == b.rank && (List.range 4).all fun i => a.dim i == b.dim i

/-- The address of byte `j` of a tensor's elements, row by row. -/
def Tensor.byteAt (t : Tensor) (j : Nat) : Nat :=
  let r := j / t.rowBytes
  t.base + r % t.dim 1 * t.stride 1 + r / t.dim 1 % t.dim 2 * t.stride 2 + r / (t.dim 1 * t.dim 2) * t.stride 3 + j % t.rowBytes

/-- The bits of byte `j` that hold elements: all, but in a last byte that a row does not fill. -/
def Tensor.byteMask (t : Tensor) (j : Nat) : Nat :=
  let used := t.dim 0 * elemBits t.fmt - 8 * (j % t.rowBytes)
  if 8 ≤ used then 0xFF else 2 ^ used - 1

/-- A tensor's elements in memory. -/
def Tensor.mem (t : Tensor) (c : EngCmd) : EngMem := ⟨c.ctx, c.team, c.unit, t.sp, none⟩

/-- Writes byte `j` of a tensor: the bits of elements in it. -/
def putTensorByte (c : EngCmd) (a b : Tensor) (s : State) (j : Nat) (v : Word × Bool) : Except (Nat × Nat) State :=
  let y := b.byteAt j
  match atAddr y (if a.byteMask j = 0xFF then .ok (0, false) else engRead s (b.mem c) y) with
  | .error f => .error f
  | .ok (old, _) =>
    let m := a.byteMask j
    let byte := ((byteOf v.1 (a.byteAt j % 4)).toNat &&& m) + ((byteOf old (y % 4)).toNat &&& (255 - m))
    atAddr y (engWrite s (b.mem c) y (BitVec.ofNat 4 (2 ^ (y % 4))) (BitVec.ofNat 32 (byte * 256 ^ (y % 4))) v.2)

/-- Moves byte `j` of a tensor. -/
def tensorByte (c : EngCmd) (a b : Tensor) (s : State) (j : Nat) : Except (Nat × Nat) (State × Bool) :=
  match atAddr (a.byteAt j) (engRead s (a.mem c) (a.byteAt j)) with
  | .error f => .error f
  | .ok v => (putTensorByte c a b s j v).map fun s => (s, v.2)

/-- The bytes that a TCOPY moves. -/
def Tensor.bytes (t : Tensor) : Nat := t.rowBytes * (t.dim 1 * t.dim 2 * t.dim 3)

/-- The records of a TCOPY that has read them. -/
def EngCmd.recA (c : EngCmd) : Tensor := ⟨(c.recs.take 16).map Prod.fst⟩
def EngCmd.recB (c : EngCmd) : Tensor := ⟨(c.recs.drop 16).map Prod.fst⟩

/-- The moves of a TCOPY; on DEV and SOR pages in ascending address order (R160). -/
def moveTensor (s : State) (eng : Nat) (c : EngCmd) : State :=
  let a := c.recA
  let b := c.recB
  let n := a.bytes
  if c.io then
    runCmd s eng c (2 * n) (orderly eng c n (ascending n a.byteAt) (ascending n b.byteAt)
      (fun s j => atAddr (a.byteAt j) (engRead s (a.mem c) (a.byteAt j))) (putTensorByte c a b))
  else runCmd s eng c n (tensorByte c a b)

/-- TCOPY (R156): both records are read when the command starts. -/
def execTcopy (eng : Nat) (s : State) : Res :=
  match runnable s eng 2 with
  | none => .next s
  | some c =>
    let s1 := startCmd s eng c
    if c.recs ≠ [] then .next (moveTensor s1 eng { c with started := true })
    else match readTensor s1 c.ctx c.team c.unit (c.w 1), readTensor s1 c.ctx c.team c.unit (c.w 2) with
      | .error f, _ => .next (cmdFault s1 eng c f.1 f.2)
      | _, .error f => .next (cmdFault s1 eng c f.1 f.2)
      | .ok (a, p), .ok (b, q) =>
        let size := teamSize s c.team
        let s2 := if p || q then cmdPoison s1 eng c else s1
        if a.ok size (c.team == 0) && b.ok size (c.team == 0) && sameShape a b then
          let io := (List.range a.bytes).any fun j => ioPage s (a.mem c) (a.byteAt j) || ioPage s (b.mem c) (b.byteAt j)
          let s3 := updCmd s2 eng c.id fun c => { c with recs := (a.w ++ b.w).map fun w => (w, false), io }
          .next (moveTensor s3 eng (cmdNow s3 eng c))
        else .next (endCmd s2 eng c 0x18)

/-! ## LAUNCH (R158) -/

/-- LAUNCH (R158): the oldest launch command places its record in its queue. -/
def execLaunch (s : State) : Res :=
  match (mayRun (tget s.engines 64 [])).find? fun c => !c.started with
  | none => .next s
  | some c =>
    let q := bitsOf (c.w 2) 0 5
    let i := qWr s q
    if !qRoom s q then .next s
    else
      let s1 := if (c.w 0).getLsbD 55 then engineAcquire s (bitsOf (c.w 0) 52 3) else s
      match engReads s1 ⟨c.ctx, c.team, c.unit, false, none⟩ (bitsOf (c.w 1) 0 48) 16 with
      | .error f => .next (cmdFault s1 64 c f.1 f.2)
      | .ok ws =>
        let dst : EngMem := ⟨c.ctx, c.team, c.unit, false, none⟩
        let a := qRing s q + 64 * (i % qSize s q)
        let r := runMoves (fun s k => (atAddr (a + 4 * k) (engWrite s dst (a + 4 * k) 0xF (ws.getD k (0, false)).1 (ws.getD k (0, false)).2)).map
          fun s => (s, false)) 16 ⟨s1, 0, false, none⟩
        match r.fault with
        | some f => .next (cmdFault r.s 64 c f.1 f.2)
        | none =>
          let s2 := putBar r.s (queueBase q + 0x0C) (BitVec.ofNat 32 (i + 1))
          .next (updCmd s2 64 c.id fun c => { c with started := true, wait := some (i * 32 + q) })

/-! ## Pair reductions (R75, R159) -/

/-- Bytes of an element of a PRDX operation, and the operations whose elements are single words. -/
def prdxBytes (op : Nat) : Nat := if op = 3 then 8 else 4

/-- A contribution in the pair sum format: a class or a value in units of 2^-32 (R75). -/
inductive PairVal where
  | fin (n : Int)
  | inf (neg : Bool)
  | nan

/-- A value that contributes to a pair sum. -/
def toPair (x : Fp) : PairVal := match x with
  | .nan => .nan
  | .inf neg => .inf neg
  | .fin neg m e =>
    if fpLe (.fin false 1 63) (.fin false m e) then .inf neg else .fin (toInteger .ne neg m (e + 32)).1

/-- The pair sum of an old value and contributions, rounded once into a format (R75). DESIGN CHOICE, log entry 120: a
contribution of 0 counts as +0, so that an exact zero sum of an old −0 and such contributions is +0. -/
def pairSum (f : FpFmt) (old : Fp) (xs : List PairVal) : Nat :=
  let anyInf (b : Bool) : Bool := (match old with
      | .inf n => n == b
      | _ => false) || xs.any fun x => match x with
      | .inf n => n == b
      | _ => false
  let anyNan : Bool := old.isNan || xs.any fun x => match x with
    | .nan => true
    | _ => false
  if anyNan || (anyInf true && anyInf false) then nanCode f
  else if anyInf true then infCode f true
  else if anyInf false then infCode f false
  else
    let fins : List Fp := xs.filterMap fun x => match x with
      | .fin n => some (if n = 0 then .fin false 0 0 else .fin (decide (n < 0)) n.natAbs (-32))
      | _ => none
    (fpDeliver f .ne false (fins.foldl (fpAdd .ne) old)).bits

/-- The combination of one element (R159): `xs` are the contributions. -/
def prdxElem (op : Nat) (old : DWord) (xs : List DWord) : DWord :=
  let lo (w : DWord) : Nat := (loWord w).toNat
  match op with
  | 0 => BitVec.ofNat 64 (pairSum fp32 (fpRead fp32 (lo old)) (xs.map fun x => toPair (fpRead fp32 (lo x))))
  | 1 =>
    let half (k : Nat) : Nat := pairSum bf16 (fpRead bf16 (lo old / 2 ^ (16 * k) % 2 ^ 16))
      (xs.map fun x => toPair (fpRead bf16 (lo x / 2 ^ (16 * k) % 2 ^ 16)))
    BitVec.ofNat 64 (half 0 + half 1 * 2 ^ 16)
  | 2 => (xs.foldl (fun a x => a + loWord x) (loWord old)).zeroExtend 64
  | 3 => xs.foldl (· + ·) old
  | 4 => xs.foldl (fun a x => redCombine .minF32 a x) old
  | _ => xs.foldl (fun a x => redCombine .maxF32 a x) old

/-- With one contribution the element is combined in a single rounding (R159). -/
def prdxOne (op : Nat) (old x : DWord) : DWord :=
  let lo (w : DWord) : Nat := (loWord w).toNat
  match op with
  | 0 => BitVec.ofNat 64 (fpDeliver fp32 .ne false (fpAdd .ne (fpRead fp32 (lo old)) (fpRead fp32 (lo x)))).bits
  | 1 =>
    let half (k : Nat) : Nat := (fpDeliver bf16 .ne false (fpAdd .ne (fpRead bf16 (lo old / 2 ^ (16 * k) % 2 ^ 16))
      (fpRead bf16 (lo x / 2 ^ (16 * k) % 2 ^ 16)))).bits
    BitVec.ofNat 64 (half 0 + half 1 * 2 ^ 16)
  | _ => prdxElem op old [x]

/-- The count, operation, devices and tag of a PRDX. -/
def prdxN (ws : List DWord) : Nat := bitsOf (ws.getD 3 0) 0 32
def prdxOp (ws : List DWord) : Nat := bitsOf (ws.getD 3 0) 32 4
def prdxDev (ws : List DWord) : Nat := bitsOf (ws.getD 3 0) 36 2
def prdxTag (ws : List DWord) : Nat := bitsOf (ws.getD 3 0) 48 16
def prdxDst (ws : List DWord) : Nat := bitsOf (ws.getD 2 0) 0 48

/-- Whether two commands name one reduction (R159). -/
def samePair (a b : PairRed) : Bool := a.ctx == b.ctx && prdxTag a.words == prdxTag b.words && prdxDst a.words == prdxDst b.words

/-- The elements of a contribution from its words, each with its poison mark. -/
def prdxElems (bytes n : Nat) (ws : List (Word × Bool)) : List (DWord × Bool) :=
  let xs := ws.map Prod.fst
  (List.range n).map fun i =>
    if bytes = 8 then (dwordAt xs (2 * i), (ws.getD (2 * i) (0, false)).2 || (ws.getD (2 * i + 1) (0, false)).2)
    else ((xs.getD i 0).zeroExtend 64, (ws.getD i (0, false)).2)

/-- PRDX (R159): the engine reads its contribution and sends it to the destination's home. DESIGN CHOICE (log entry 149): the
source is read wherever it is homed. -/
def execPrdx (eng : Nat) (s : State) : Res :=
  match (mayRun (tget s.engines eng [])).find? fun c => c.code == 7 && !(s.pairReds.any fun p => p.cmd == c.id && !p.far) with
  | none => .next s
  | some c =>
    let s1 := startCmd s eng c
    if prdxDev c.words = 2 ∧ s.isW = false then .next (endCmd s1 eng c 0x1A)
    else if prdxDev c.words = 2 ∧ twinGone s then .next (endCmd s1 eng c 0x0C)
    else
      let bytes := prdxBytes (prdxOp c.words)
      let n := prdxN c.words * (bytes / 4)
      let src : EngMem := ⟨c.ctx, c.team, c.unit, false, none⟩
      let r := runMoves (fun s i =>
        let a := bitsOf (c.w 1) 0 48 + 4 * i
        (atAddr a (engRead s src a)).map fun v => (updCmd s eng c.id fun c => { c with recs := c.recs ++ [v] }, v.2))
        (n - c.recs.length) ⟨s1, c.recs.length, false, none⟩
      let s2 := if r.poison then cmdPoison r.s eng c else r.s
      match r.fault with
      | some f => .next (cmdFault s2 eng c f.1 f.2)
      | none =>
        .next { s2 with
          nextId := s2.nextId + 1
          pairReds := s2.pairReds ++
            [⟨s2.nextId, false, eng, c.id, c.ctx, prdxElems bytes (prdxN c.words) (cmdNow s2 eng c).recs, c.words, 0⟩] }

/-- Ends the commands of some contributions; those of the twin end there. -/
def endPairs (s : State) (ps : List PairRed) (cls : Nat) : State :=
  let s := { s with pairReds := s.pairReds.filter fun p => !(ps.any fun q => q.id == p.id) }
  ps.foldl (fun s p => if p.far then s else
    { s with engines := tupd s.engines p.eng [] fun cs => cs.map fun c => if c.id == p.cmd then { c with ended := some cls } else c }) s

/-- Whether a leaf's atomic capability reaches every device of a reduction (R159, R275): a reduction of the pair needs PAIR or
SYS. -/
def pairReach (ws : List DWord) (leaf : Leaf) : Bool := prdxDev ws == 1 || leaf.ac == .pair || leaf.ac == .sys

/-- Combines one element of a reduction: a read-modify-write at its home, once its words are VAL there. -/
def combineElem (ctx eng : Nat) (ws : List DWord) (xs : List (List (DWord × Bool))) : Mover := fun s i =>
  let bytes := prdxBytes (prdxOp ws)
  let a := prdxDst ws + bytes * i
  match unitXlat s ctx (unitTlb eng) a bytes .atom with
  | .miss => .error (waitWalk, a)
  | .fail k => .error (k, a)
  | .ok leaf =>
    let loc := leaf.at a
    let n := bytes / 4
    let dst := rangeWords loc bytes
    if !pairReach ws leaf then .error (0x23, a)
    else if dst.any fun w => (ownerOf s w).isSome then .error (waitWord, a)
    else if !(snoopLines s dst).isEmpty then .error (waitSnoop, a)
    else
      let s := claimWords s dst
      let vals := xs.map fun x => x.getD i (0, false)
      let old := joinWords (rmwWord s loc).1 (if n = 2 then (rmwWord s (loc + 4)).1 else 0)
      let bad := (dst.any fun w => (rmwWord s w).2) || vals.any fun v => v.2
      let v := match vals with
        | [x] => prdxOne (prdxOp ws) old x.1
        | _ => prdxElem (prdxOp ws) old (vals.map Prod.fst)
      let s := homeWrite s loc 0xF (loWord v) bad (some ctx) none
      .ok (if n = 2 then homeWrite s (loc + 4) 0xF (hiWord v) bad (some ctx) none else s, bad)

/-- A reduction at its home, from the element at which it stands; a fault ends both commands, but for an absent page, which
is waited for (R159, R161). `p` is the contribution whose engine combines. -/
def combinePairs (s : State) (ps : List PairRed) (p : PairRed) : State :=
  let r := runMoves (combineElem p.ctx p.eng p.words (ps.map fun q => q.src)) (prdxN p.words - p.done) ⟨s, p.done, false, none⟩
  let s1 := { r.s with pairReds := r.s.pairReds.map fun q => if q.id == p.id then { q with done := r.pos } else q }
  let s2 := if r.poison then ps.foldl (fun s q =>
      if q.far then s else updCmd s q.eng q.cmd fun c => { c with worst := max c.worst 0x10 }) s1 else s1
  match r.fault with
  | none => endPairs s2 ps 0
  | some (k, a) => match (tget s.engines p.eng []).find? fun c => c.id == p.cmd with
    | none => s2
    | some c =>
      if k ≤ waitSnoop ∨ k = 0x20 then cmdFault s2 p.eng c k a
      else endPairs (cmdFault s2 p.eng c k a) ps (classOf k)

/-- PRDX_COMBINE (R159): the home combines a reduction whose contributions are all there; commands of one tag and
destination that differ in count or operation end with class 0x1A. -/
def execPrdxCombine (idx : Nat) (s : State) : Res :=
  match s.pairReds[idx]? with
  | none => .next s
  | some p =>
    let waiting := ((tget s.engines p.eng []).find? fun c => c.id == p.cmd).any fun c => c.wait.isSome
    if waiting then .next s
    else if prdxDev p.words = 1 then .next (combinePairs s [p] p)
    else match s.pairReds.find? fun q => q.far != p.far && samePair p q && prdxDev q.words == 2 with
      | none => .next s
      | some q =>
        let ps := if p.far then [q, p] else [p, q]
        if prdxN p.words = prdxN q.words ∧ prdxOp p.words = prdxOp q.words then
          .next (combinePairs s ps (if p.far then q else p))
        else .next (endPairs s ps 0x1A)

end Sys2Proof.Machine
end

