-- ==== Sys2Proof/Machine/Matrix.lean ====
section
/-!
DEFINITION. The issue of matrix instructions: loops, scales, zeroing, drains and status (R167 to R174, R352), denoise
tiles (R200, R201), and merge path (R175).
-/

namespace Sys2Proof.Machine

/-! ## Quadrants and banks (R167) -/

/-- An empty scale ring, a bank that nobody holds, and a quadrant with no work. -/
def noRing : ScaleRing := ⟨[], 0, 0⟩
def noBank : Bank := ⟨none, [], [], none, none, noRing, noRing, false⟩
def noQuad : Quad := ⟨[], [], none, none⟩

/-- A quadrant of the device, numbered 4 × hamlet + q. -/
def quadAt (s : State) (q : Nat) : Quad := tget s.quads q noQuad

/-- Rewrites a quadrant. -/
def updQuad (s : State) (q : Nat) (f : Quad → Quad) : State := { s with quads := tput s.quads q (f (quadAt s q)) }

/-- A bank of a quadrant. -/
def bankAt (s : State) (q b : Nat) : Bank := tget (quadAt s q).banks b noBank

/-- Rewrites a bank. -/
def updBank (s : State) (q b : Nat) (f : Bank → Bank) : State :=
  updQuad s q fun x => { x with banks := tput x.banks b (f (tget x.banks b noBank)) }

/-- Whether a context holds a bank. -/
def holdsBank (s : State) (ctx q b : Nat) : Bool := (bankAt s q b).owner == some ctx

/-- The quadrant that a port names for a core. -/
def quadOf (core : Nat) (eq : BitVec 6) : Nat := 4 * hamletOf core + (eq.toNat - 4)

/-- Loops and denoises accepted and not complete (R170). -/
def QuadJob.isLoop (j : QuadJob) : Bool := j.kind == .loop || j.kind == .denoise
def loopsOf (s : State) (q : Nat) : Nat := ((quadAt s q).jobs.filter fun j => j.isLoop && j.ended.isNone).length

/-- Work of a group for a quadrant, as accepted; it carries the group's class (R268). -/
def newJob (s : State) (g : Group) (q : Nat) (kind : QuadWork) (bank : Nat) (desc : List DWord) (fmt : Word) (op : Nat) : QuadJob :=
  ⟨s.nextId, q, kind, g.ctx, g.core, g.slot, teamKey s g, g.cls, bank, desc, fmt, false, 0, [], [], none, false, false, false, none, 0, op, []⟩

/-- Accepts work. -/
def acceptJob (s : State) (q : Nat) (j : QuadJob) : State :=
  updQuad { s with nextId := s.nextId + 1 } q fun x => { x with jobs := x.jobs ++ [j] }

/-! ## Format words (R59, R169, R352) -/

/-- Fields of a format word. -/
def fAfmt (w : Word) : Nat := w.toNat % 32
def fBfmt (w : Word) : Nat := w.toNat / 2 ^ 5 % 32
def fAcc (w : Word) : Nat := w.toNat / 2 ^ 10 % 4
def fGsz (w : Word) : Nat := w.toNat / 2 ^ 12 % 4
def fSparse (w : Word) : Bool := w.getLsbD 14
def fDrnd (w : Word) : Nat := w.toNat / 2 ^ 16 % 4

/-- The sets of formats: grouped, block-scaled and integer. -/
def grouped (f : Nat) : Bool := decide (0x0C ≤ f) && decide (f ≤ 0x0E)
def blockScaled (f : Nat) : Bool := decide (0x0F ≤ f) && decide (f ≤ 0x13)
def integerFmt (f : Nat) : Bool := decide (0x08 ≤ f) && decide (f ≤ 0x0B)

/-- The K block of a format word (R59). -/
def kBlock (w : Word) : Nat := if blockScaled (fAfmt w) || blockScaled (fBfmt w) then 24 else 32

/-- The group size along K; 0 for none. -/
def groupSize (w : Word) : Nat := match fGsz w with
  | 0 => 0
  | n => 16 * 2 ^ n

/-- Whether mloop accepts the formats, the accumulator and the group size of a word (R59, R170, R352). -/
def fmtOk (w : Word) : Bool :=
  let a := fAfmt w
  let b := fBfmt w
  let anyG := grouped a || grouped b
  decide (a < 0x14) && decide (b < 0x14) && decide (fAcc w < 2) && fDrnd w != 3 && !(fDrnd w != 0 && fAcc w == 1) && w >>> 18 == 0 &&
  (fGsz w != 0) == anyG && !(anyG && (blockScaled a || blockScaled b)) && !(a == 0 && fSparse w) &&
  if fAcc w = 1 then integerFmt a && integerFmt b else (a == 0) == (b == 0)

/-- The cause of a C register that may not stand there (R9, R165). -/
def vecCause (g : Group) (c : BitVec 7) : Option Nat :=
  if (windowOf g c).isSome then some 1 else if beyond g c then some 4 else none

/-- The frame of an E instruction that reads a vector register C. -/
def vecIssue (ctr : BitVec 3) (ox : Ox) (scals : List Nat) (k : Group → Clause → Mask → Res) (s : State) : Res :=
  withIssuer s fun g c => match vecCause g ox.c with
    | some cause => wordTrap s g c cause
    | none => groupIssue ctr (some ox) scals k s

/-! ## mloop (R168, R170) -/

/-- A tensor record's address in a descriptor: a breach of its form raises 0x01, a record outside .scratch 0x21. -/
def recFlaws (size : Nat) (w : DWord) : List Flaw :=
  need (bitsOf w 48 15 == 0 && bitsOf w 0 48 % 64 == 0) ++ if w.getLsbD 63 then spFlaw size (bitsOf w 0 48) 64 else []

/-- BAR and BOFS in a descriptor whose breaches all raise 0x01. -/
def barFlaws1 (size : Nat) (bar : Bool) (bofs : Nat) : List Flaw :=
  need (if bar then bofs % 8 == 0 else bofs == 0) ++ if bar then spFlaw size bofs 16 else []

/-- The bank that a loop's descriptor names. -/
def loopBank (d : List DWord) : Nat := bitsOf (d.getD 6 0) 20 2

/-- The descriptor checks of mloop. -/
def loopFlaws (s : State) (g : Group) (q : Nat) (d : List DWord) : List Flaw :=
  let w (i : Nat) : DWord := d.getD i 0
  let size := scratchOf s g
  recFlaws size (w 0) ++ recFlaws size (w 1) ++ need (bitsOf (w 3) 32 20 != 0 && bitsOf (w 3) 52 12 == 0) ++
  scopeFlaws ((w 6).getLsbD 55) (bitsOf (w 6) 52 3) ++
  need (bitsOf (w 6) 56 8 == 0 && bitsOf (w 6) 48 4 == 0 && bitsOf (w 6) 22 25 == 0 && w 7 == 0) ++
  barFlaws1 size ((w 6).getLsbD 47) (bitsOf (w 6) 0 20) ++ need (holdsBank s g.ctx q (loopBank d))

/-- Whether a bank's recorded word names another accumulator (R170). -/
def otherAcc (s : State) (ctx q b : Nat) (w : Word) : Bool := match (bankAt s q b).fmt with
  | some r => holdsBank s ctx q b && fAcc r != fAcc w
  | none => false

/-- mloop (R170): format word, descriptor, room, acceptance. -/
def execMloop (f : E) (ox : Ox) (s : State) : Res :=
  vecIssue f.ctr ox (scalNums f.s 8) (fun g c act =>
    let q := quadOf g.core f.eq
    let d := scalRun g f.s 8
    let bad := act &&& fieldPoison g ox.c
    let w := readV g ox.c ((lowestLane act).getD 0)
    let differ := act &&& maskOf fun l => readV g ox.c l != w
    if bad ≠ 0 then trapAt s g c 0x70 bad 0xFF 0 []
    else if differ ≠ 0 then trapAt s g c 0x40 differ 0xFF 0 []
    else if !fmtOk w || otherAcc s g.ctx q (loopBank d) w then trapAt s g c 0x40 act 0xFF 0 []
    else match worstFlaw (loopFlaws s g q d) with
      | some x => entryTrap s g c act x
      | none =>
        if loopsOf s q < 8 then
          retire (updBank (acceptJob s q (newJob s g q .loop (loopBank d) d w 0)) q (loopBank d) fun b => { b with fmt := some w })
            (setStatus g f.pd act false) c
        else noRoom s g c f.pd act) s

/-! ## mscale (R172) -/

/-- A slot of a scale ring. -/
def ringSlot (r : ScaleRing) (i : Nat) : ScaleSlot := tget r.slots (i % 8) ⟨[], false⟩

/-- Writes entries of the slot at the write pointer; with ADV it is full and the pointer moves on. -/
def writeScale (r : ScaleRing) (chunk : Nat) (adv : Bool) (v : Nat → Word) : ScaleRing :=
  let sl := ringSlot r r.wptr
  let entries := (List.range 128).foldl (fun t l => tput t (128 * chunk + l) (v l)) sl.entries
  ⟨tput r.slots (r.wptr % 8) ⟨entries, adv || sl.full⟩, if adv then r.wptr + 1 else r.wptr, r.rptr⟩

/-- The ring of an operand. -/
def ringOf (b : Bank) (opd : Bool) : ScaleRing := if opd then b.ringB else b.ringA

/-- Sets the ring of an operand. -/
def putRing (b : Bank) (opd : Bool) (r : ScaleRing) : Bank := if opd then { b with ringB := r } else { b with ringA := r }

/-- mscale (R172). Its counter goes up and down at once. -/
def execMscale (f : E) (ox : Ox) (s : State) : Res :=
  vecIssue f.ctr ox [] (fun g c act =>
    let q := quadOf g.core f.eq
    let b := f.s.toNat / 8 % 4
    let opd := f.s.getLsbD 5
    let bad := fieldPoison g ox.c
    if bad ≠ 0 then trapAt s g c 0x70 bad 0xFF 0 []
    else if !holdsBank s g.ctx q b then entryTrap s g c act (1, 0)
    else
      let r := ringOf (bankAt s q b) opd
      if (ringSlot r r.wptr).full then noRoom s g c f.pd act
      else retire (updBank s q b fun x => putRing x opd (writeScale r (f.s.toNat / 2 % 4) (f.s.getLsbD 0) (readV g ox.c)))
        (setStatus g f.pd act false) c) s

/-! ## mzero (R167) -/

/-- mzero (R167): the bank is claimed, its recorded word counts as cleared from now on, and its zeroing is outstanding. -/
def execMzero (f : EZ) (ox : Option Ox) (s : State) : Res :=
  groupIssue f.ctr ox [] (fun g c act =>
    let q := quadOf g.core f.eq
    let b := f.bank.toNat
    let own := (bankAt s q b).owner
    if own = none ∨ own = some g.ctx then
      let j := newJob s g q .zero b [] 0 s.nextId
      let s1 := updBank (acceptJob s q j) q b fun x => { x with owner := some g.ctx, fmt := none }
      let g1 := { incCnt (setStatus g f.pd act false) f.ctr.toNat with
        ops := g.ops ++ [⟨s.nextId, .mzero q b, f.ctr.toNat, 0xFF, false, [], wordAddr c, c.pcs, c.idx + 1, c.hdr⟩] }
      retire s1 g1 c
    else noRoom s g c f.pd act) s

/-! ## Drains (R173) -/

/-- The bytes of a drained element under a recorded word. -/
def drainBytes (fmt : Word) : Nat := if fDrnd fmt = 0 then 4 else 2

/-- Fields of a drain's descriptor. -/
def dRow0 (d : List DWord) : Nat := bitsOf (d.getD 1 0) 0 9
def dRows (d : List DWord) : Nat := bitsOf (d.getD 1 0) 16 9
def dCol0 (d : List DWord) : Nat := bitsOf (d.getD 1 0) 32 9
def dCols (d : List DWord) : Nat := bitsOf (d.getD 1 0) 48 9
def dBank (d : List DWord) : Nat := bitsOf (d.getD 1 0) 57 2
def dRls (d : List DWord) : Bool := (d.getD 1 0).getLsbD 59
def dOfs (d : List DWord) : Nat := bitsOf (d.getD 0 0) 0 20
def dPitch (d : List DWord) : Nat := bitsOf (d.getD 0 0) 20 20
def dBofs (d : List DWord) : Nat := bitsOf (d.getD 0 0) 40 20
def dBar (d : List DWord) : Bool := (d.getD 0 0).getLsbD 60

/-- The checks of both drains. -/
def drainFlaws (s : State) (g : Group) (q : Nat) (d : List DWord) : List Flaw :=
  let w1 := d.getD 1 0
  need (bitsOf (d.getD 0 0) 61 3 == 0 && decide (dRow0 d < 256) && decide (1 ≤ dRows d) && decide (dRow0 d + dRows d ≤ 256) &&
    decide (dCol0 d < 384) && decide (1 ≤ dCols d) && decide (dCol0 d + dCols d ≤ 384) && bitsOf w1 9 7 == 0 && bitsOf w1 25 7 == 0 &&
    bitsOf w1 41 7 == 0 && bitsOf w1 60 4 == 0) ++
  barFlaws1 (scratchOf s g) (dBar d) (dBofs d) ++ need (holdsBank s g.ctx q (dBank d))

/-- Accepts a drain: its word is the one recorded now, and it is outstanding. -/
def acceptDrain (s : State) (g : Group) (c : Clause) (f : EN) (q : Nat) (d : List DWord) (kind : QuadWork) : Res :=
  let fmt := ((bankAt s q (dBank d)).fmt).getD 0
  retire (acceptJob s q (newJob s g q kind (dBank d) d fmt s.nextId))
    { incCnt g f.ctr.toNat with
      ops := g.ops ++ [⟨s.nextId, .mdrain q, f.ctr.toNat, 0xFF, false, [], wordAddr c, c.pcs, c.idx + 1, c.hdr⟩] } c

/-- Whether a group's queue register is bound to a quadrant's drain port. -/
def boundToDrain (g : Group) (n : Nat) (eq : BitVec 6) : Bool := match tfind g.queues n with
  | some x => !x.out && x.port == 0x18 + (eq.toNat - 4)
  | none => false

/-- mdrain.q (R173). -/
def execMdrainQ (f : EN) (ox : Option Ox) (s : State) : Res :=
  groupIssue f.ctr ox (scalNums f.s 2) (fun g c act =>
    let q := quadOf g.core f.eq
    let d := scalRun g f.s 2
    match worstFlaw (drainFlaws s g q d ++ need (decide (dOfs d < 16) && dPitch d == 0 && boundToDrain g (dOfs d) f.eq)) with
    | some x => entryTrap s g c act x
    | none => acceptDrain s g c f q d .drainQ) s

/-- mdrain.sp (R173). -/
def execMdrainSp (f : EN) (ox : Option Ox) (s : State) : Res :=
  groupIssue f.ctr ox (scalNums f.s 2) (fun g c act =>
    let q := quadOf g.core f.eq
    let d := scalRun g f.s 2
    let n := drainBytes (((bankAt s q (dBank d)).fmt).getD 0)
    let rows := (List.range (dRows d)).flatMap fun r => spFlaw (scratchOf s g) (dOfs d + r * dPitch d) (dCols d * n)
    match worstFlaw (drainFlaws s g q d ++ need (dOfs d % n == 0 && dPitch d % 4 == 0 && decide (dCols d * n ≤ dPitch d)) ++ rows) with
    | some x => entryTrap s g c act x
    | none => acceptDrain s g c f q d .drainSp) s

/-! ## mstat (R174) -/

/-- A word of bits, one for each bank. -/
def bankBits (p : Nat → Bool) : Nat := bitsBelow p 4

/-- The state of a quadrant as a context sees it. -/
def quadStatus (s : State) (ctx q : Nat) : Nat :=
  let x := quadAt s q
  let run := x.running.bind fun id => x.jobs.find? fun j => j.id == id
  let held (b : Nat) : Bool := (bankAt s q b).owner.isSome
  bankBits (holdsBank s ctx q) + 2 ^ 4 * bankBits (fun b => held b && !holdsBank s ctx q b) +
  2 ^ 8 * bankBits (fun b => x.jobs.any fun j => j.bank == b && j.kind != .zero && j.ended.isNone) + 2 ^ 16 * loopsOf s q +
  match run with
  | some j => 2 ^ 24 * j.cls + 2 ^ 27
  | none => 0

/-- mstat (R174). -/
def execMstat (f : EN) (ox : Option Ox) (s : State) : Res :=
  groupIssue f.ctr ox [] (fun g c _ =>
    retire s (setS g f.s.toNat (BitVec.ofNat 64 (quadStatus s g.ctx (quadOf g.core f.eq)))) c) s

/-! ## dntile (R200, R201) -/

/-- The checks of dntile's descriptor. -/
def tileFlaws (s : State) (g : Group) (q : Nat) (d : List DWord) : List Flaw :=
  let w (i : Nat) : DWord := d.getD i 0
  let size := scratchOf s g
  need (bitsOf (w 0) 33 31 == 0) ++ recFlaws size (w 1) ++ need (bitsOf (w 2) 48 15 == 0 && bitsOf (w 2) 0 48 % 2 == 0) ++
  (if (w 2).getLsbD 63 then spFlaw size (bitsOf (w 2) 0 48) 2 else []) ++ scopeFlaws ((w 3).getLsbD 51) (bitsOf (w 3) 48 3) ++
  need (bitsOf (w 3) 52 12 == 0 && bitsOf (w 3) 22 25 == 0) ++ barFlaws1 size ((w 3).getLsbD 47) (bitsOf (w 3) 0 20) ++
  need (holdsBank s g.ctx q (bitsOf (w 3) 20 2))

/-- dntile (R177, R201): it waits for the group's earlier accumulations and for room. A trap of an episode group names no
address. -/
def execDntile (f : YN) (ox : Option Ox) (s : State) : Res :=
  groupIssueFor f.ctr (fun g c => activeMask g c ox &&& rayLanes g) (scalNums f.d 4) (fun g c act =>
    let q := 4 * hamletOf g.core + f.k.toNat
    let d := scalRun g f.d 4
    match worstFlaw (tileFlaws s g q d) with
    | some x => entryTrap s g c act (x.1, if isEpisode g then 0 else x.2)
    | none =>
      if (g.ops.any fun o => o.kind == .accum) || decide (8 ≤ loopsOf s q) then waits s
      else retire (acceptJob s q (newJob s g q .denoise (bitsOf (d.getD 3 0) 20 2) d 0 0)) g c) s

/-! ## mpath (R175) -/

/-- What a read of a sequence, or a search, gives: a value with its poison mark and the accesses to memory that gave it, a
fault, or a walk still to be made. -/
inductive Probe where
  | ok (v : Word) (bad : Bool) (refs : List LaneRef)
  | fault (cause va : Nat)
  | miss (va : Nat)
  deriving DecidableEq, Repr

/-- The word of a sequence at an address; the checks are those of a load, alignment first (R122, R175). -/
def probeAt (s : State) (g : Group) (sp : Bool) (a : Nat) : Probe :=
  if a % 4 ≠ 0 then .fault 5 a
  else if sp then match teamOfGroup s g with
    | some t => if a + 4 ≤ t.size then .ok (spWord t a).1 (spWord t a).2 [] else .fault 0x21 a
    | none => .fault 0x21 a
  else match gaveUpCause g a with
    | some k => .fault k a
    | none => match xlat s g.ctx g.core a .read with
      | .fail k => .fault k a
      | .miss => .miss a
      | .ok leaf =>
        let w := leaf.at a
        let refs : List LaneRef := [⟨0, a, w, locAt (homeCode leaf.home) leaf.pbase, leaf.mt, leaf.dsc, []⟩]
        if leaf.dsc then .ok 0 false refs
        else match lostCause s (some g.core) w .read 0xF with
          | some k => .fault k a
          | none =>
            let v := if leaf.mt == .dev || leaf.mt == .sor then newest s w else readNow s g.core w
            .ok v.1 v.2 refs

/-- The search of R175 from an interval on: its result with poison, or the first read that did not succeed. -/
def mergeSearch (a b : Nat → Probe) (sgn : Bool) (d : Nat) : Nat → Nat → Nat → Bool → List LaneRef → Probe
  | 0, lo, _, bad, refs => .ok (BitVec.ofNat 32 lo) bad refs
  | fuel + 1, lo, hi, bad, refs =>
    if lo < hi then
      let mid := (lo + hi) / 2
      match a mid, b (d - mid - 1) with
      | .ok x p us, .ok y r vs =>
        let le := if sgn then decide (x.toInt ≤ y.toInt) else decide (x.toNat ≤ y.toNat)
        if le then mergeSearch a b sgn d fuel (mid + 1) hi (bad || p || r) (refs ++ us ++ vs)
        else mergeSearch a b sgn d fuel lo mid (bad || p || r) (refs ++ us ++ vs)
      | .ok _ _ _, e => e
      | e, _ => e
    else .ok (BitVec.ofNat 32 lo) bad refs

/-- The search of one lane. -/
def mergeLane (s : State) (g : Group) (d : List DWord) (v : Word) : Probe :=
  let w (i : Nat) : DWord := d.getD i 0
  let na := bitsOf (w 1) 0 32
  let nb := bitsOf (w 1) 32 32
  let n := min v.toNat (na + nb)
  let a (i : Nat) : Probe := probeAt s g ((w 0).getLsbD 63) (bitsOf (w 0) 0 48 + 4 * i)
  let b (i : Nat) : Probe := if (w 3).getLsbD 0 then .ok (BitVec.ofNat 32 i) false []
    else probeAt s g ((w 2).getLsbD 63) (bitsOf (w 2) 0 48 + 4 * i)
  mergeSearch a b ((w 3).getLsbD 1) n 34 (n - nb) (min n na) false []

/-- The checks of mpath's descriptor; the alignment of a base is judged by the reads. -/
def pathFlaws (d : List DWord) : List Flaw :=
  need (bitsOf (d.getD 0 0) 48 15 == 0 && ((d.getD 3 0).getLsbD 0 || bitsOf (d.getD 2 0) 48 15 == 0) && bitsOf (d.getD 3 0) 2 62 == 0)

/-- The results of the lanes that succeeded, with poison (R125). DESIGN CHOICE (log entry 145): a search that has read
uncorrectable data goes on, and its result is poisoned. -/
def writePaths (g : Group) (c : BitVec 7) (ps : List (Nat × Probe)) : Group :=
  let val (l : Nat) : Option (Word × Bool) := (ps.find? fun p => p.1 == l).bind fun p => match p.2 with
    | .ok v bad _ => some (v, bad)
    | _ => none
  let act := maskOf fun l => (val l).isSome
  poisonV (setV g c.toNat act fun l => ((val l).map Prod.fst).getD 0) c.toNat (maskOf fun l => ((val l).map Prod.snd).getD false)

/-- The accesses to memory of the lanes whose searches succeeded. -/
def pathRefs (ps : List (Nat × Probe)) : List LaneRef := ps.flatMap fun p => match p.2 with
  | .ok _ _ refs => refs.map fun r => { r with lane := p.1 }
  | _ => []

/-- The stamp that comes with a word as a search reads it (R345). -/
def pathStamp (s : State) (core w : Nat) : Option Stamp :=
  if (heldBytes s (.core core) w).2.1 = 0xF then stampOf s core w 0xF else tfind s.stamps (lineBase w)

/-- The lanes of a search that race, with the address of the word that does (R345). -/
def pathRaces (s : State) (g : Group) (refs : List LaneRef) : List (Nat × Nat) :=
  if logMode s g.ctx ≠ 1 then []
  else (refs.filter fun r => !r.zero && r.mt != .dev && r.mt != .sor && racy s g.ctx g.core (pathStamp s g.core r.loc)).map
    fun r => (r.lane, r.va % 2 ^ 48)

/-- The operation of an mpath: its reads. -/
def pathOp (s : State) (c : Clause) (f : EP) (ox : Ox) (refs : List LaneRef) : MemOp :=
  ⟨s.nextId, .red, f.ctr.toNat, ox.c.toNat, false, refs, wordAddr c, c.pcs, c.idx + 1, c.hdr⟩

/-- The RACE record of a search that raced: its counter goes down once the record is written (R344, R345). -/
def pathRecord (s : State) (g : Group) (o : MemOp) (races : List (Nat × Nat)) : State × Group := match races with
  | [] => (s, g)
  | r :: _ =>
    let g1 := { incCnt g o.ctr with ops := g.ops ++ [{ o with lanes := [] }] }
    let s1 := recordOp (setGroup { s with nextId := s.nextId + 1 } g1) g.ctx 0x07 (actorWord g)
      [BitVec.ofNat 64 (r.2 + (races.map Prod.fst).dedup.length * 2 ^ 48), BitVec.ofNat 64 o.pc] g.core g.slot o.id
    (s1, (groupAt s1 g.core g.slot).getD g1)

/-- mpath (R175): its reads are performed at issue, after the group's own writes and, where the page's type says so, after
the other accesses that come first (R309); faults go as those of loads (R122). -/
def execMpath (f : EP) (ox : Ox) (s : State) : Res :=
  let n := f.s.toNat
  let m : MemForm :=
    { ox := some ox, ctr := f.ctr.toNat, srcs := [ox.c], dsts := [ox.c], dst := ox.c.toNat, base := n, scals := scalNums f.s 4,
      offset := fun _ _ => 0, size := 4, acc := .read, sp := false, group := false, kind := .red, data := fun _ _ => [] }
  memStart m (fun g c act =>
    let d := scalRun g f.s 4
    match worstFlaw (pathFlaws d) with
    | some x => entryTrap s g c act x
    | none =>
      if g.ops.any fun o => o.kind.writes then waits s
      else
        let ps := (lanesIn act).map fun l =>
          (l, if (fieldPoison g ox.c).getLsbD l then Probe.fault 0x70 0 else mergeLane s g d (readV g ox.c l))
        let misses := ps.filterMap fun p => match p.2 with
          | .miss va => some va
          | _ => none
        let o := pathOp s c f ox (pathRefs ps)
        let dev := (o.lanes.filter fun r => (r.mt == .dev || r.mt == .sor) && !r.zero).map fun r => r.loc
        if !misses.isEmpty then .next (misses.foldl (fun s va => askWalk s g.ctx g.core va false) s)
        else if (sorOp o && !g.ops.isEmpty) || earlierDev s g.core o then waits s
        else match snoopFirst s dev with
        | some s' => .next s'
        | none =>
          let fs := ps.filterMap fun p => match p.2 with
            | .fault k va => some (p.1, k, va)
            | _ => none
          let p := pathRecord (dev.foldl readHome s) { writePaths g ox.c ps with batch := none } o (pathRaces s g o.lanes)
          let s1 := p.1
          let g1 := p.2
          if fs.any (batched g) then
            .next (startBatch s1 g1 (.lanes (faultsMask fs)) ((fs.filter (batched g)).map fun x => (x.2.2, x.2.1)) true)
          else if fs.isEmpty then retire s1 g1 c
          else memTrap s1 g1 c ox.c.toNat fs) s

end Sys2Proof.Machine
end

