-- ==== Sys2Proof/Machine/Tiles.lean ====
section
/-!
DEFINITION. The accumulation buffer (R72 to R74, R235 to R241): pixels and tiles, the addition of samples, read-back, and
the retirement of tiles.
-/

namespace Sys2Proof.Machine

/-! ## The frame (R235, R236) -/

/-- FW and FH. -/
def frameW (s : State) (ctx : Nat) : Nat := (ctxWord s ctx 0x0B0).toNat % 2 ^ 16
def frameH (s : State) (ctx : Nat) : Nat := (ctxWord s ctx 0x0B0).toNat / 2 ^ 16

/-- IMG, MRK and RES. -/
def frameImg (s : State) (ctx : Nat) : Nat := (ctxDWord s ctx 0x0B8).toNat
def frameMrk (s : State) (ctx : Nat) : Nat := (ctxDWord s ctx 0x0C0).toNat
def frameRes (s : State) (ctx : Nat) : Nat := (ctxDWord s ctx 0x0C8).toNat

/-- The frame of a context as it stands. -/
def frameOf (s : State) (ctx : Nat) : TileFrame :=
  ⟨frameW s ctx, frameH s ctx, frameImg s ctx, frameMrk s ctx, frameRes s ctx⟩

/-- The tile of a pixel of a frame of width `fw`, and its slot there. -/
def pixTile (fw p : Nat) : Nat := p / fw / 8 * ceilDiv fw 8 + p % fw / 8
def pixSlot (fw p : Nat) : Nat := 8 * (p / fw % 8) + p % fw % 8

/-- The pixel at a slot of a tile, if it lies in the frame. -/
def tilePixel (fw fh tile k : Nat) : Option Nat :=
  let x := 8 * (tile % ceilDiv fw 8) + k % 8
  let y := 8 * (tile / ceilDiv fw 8) + k / 8
  if x < fw ∧ y < fh then some (y * fw + x) else none

/-! ## Samples (R73, R237) -/

/-- A sample in units of 2^-24, with its mark. -/
def sampleOf (w : Word) : Int × Nat := match f32 w with
  | .nan => (0, 3)
  | .inf neg => if neg then (-2 ^ 55, 2) else (2 ^ 55, 1)
  | .fin neg m e => (max (-2 ^ 55) (min (toInteger .ne neg m (e + 24)).1 (2 ^ 55)), 0)

/-- Addition to a channel, with saturation. -/
def satAdd (c : DWord) (x : Int) : DWord := BitVec.ofInt 64 (max (-2 ^ 63) (min (c.toInt + x) (2 ^ 63 - 1)))

/-- A mark word with the code of a channel merged in. -/
def orMark (m : BitVec 16) (ch code : Nat) : BitVec 16 := m ||| BitVec.ofNat 16 (code * 2 ^ (2 * ch))

/-- The read-back of a channel by its mark (R74, R238). -/
def readBack (c : DWord) (code : Nat) : Word := match code with
  | 0 => roundDyad .ne ⟨c.toInt, -24⟩
  | 1 => 0x7F800000
  | 2 => 0xFF800000
  | _ => 0x7FC00000

/-- The mark code of a channel. -/
def markCode (m : BitVec 16) (ch : Nat) : Nat := m.toNat / 2 ^ (2 * ch) % 4

/-! ## Places (R239) -/

/-- The place of a tile. -/
def placedTile (s : State) (ctx tile : Nat) : Option Tile := s.tiles.find? fun t => t.ctx == ctx && t.tile == tile

/-- Rewrites the place of a tile. -/
def updTile (s : State) (ctx tile : Nat) (f : Tile → Tile) : State :=
  { s with tiles := s.tiles.map fun t => if t.ctx == ctx && t.tile == tile then f t else t }

/-- The places that a slice holds. -/
def sliceTiles (s : State) (slice : Nat) : List Tile := s.tiles.filter fun t => t.tile % 8 == slice

/-- A place with every channel and mark at zero. -/
def newTile (ctx tile : Nat) : Tile := ⟨ctx, tile, [], [], 0, false, ⟨0, 0, 0, 0, 0⟩, none, 0, [], 0⟩

/-- The samples of an addition reach their place. -/
def landIn (t : Tile) (slot first clock : Nat) (samples : List Word) : Tile :=
  let t := samples.zipIdx.foldl (fun (t : Tile) p =>
    { t with
      chans := tupd t.chans (8 * slot + first + p.2) 0 fun c => satAdd c (sampleOf p.1).1
      marks := tupd t.marks slot 0 fun m => orMark m (first + p.2) (sampleOf p.1).2 }) t
  { t with last := clock }

/-- The tile and the slot of an addition. -/
def TileAdd.tile (a : TileAdd) : Nat := pixTile a.fw a.pixel

/-- An addition lands in its tile's place, or in a free one; `none` where it has to wait (R239, R241). -/
def landAdd (s : State) (a : TileAdd) : Option State :=
  let slot := pixSlot a.fw a.pixel
  match placedTile s a.ctx a.tile with
  | some t =>
    if t.retiring then none else some (updTile s a.ctx a.tile fun t => landIn t slot a.first s.clock a.samples)
  | none =>
    if (sliceTiles s (a.tile % 8)).length < 512 then
      some { s with tiles := s.tiles ++ [landIn (newTile a.ctx a.tile) slot a.first s.clock a.samples] }
    else none

/-- A tile begins to retire, with the frame as it stands (R240, R290). -/
def retireTile (s : State) (t : Tile) : Tile := if t.retiring then t else { t with retiring := true, frame := frameOf s t.ctx }

/-- The victim of a slice begins to retire: the tile whose last addition is oldest, then the lower context, then the
lower tile number. -/
def startVictim (s : State) (slice : Nat) : State :=
  let rank (t : Tile) : List Nat := [t.last, t.ctx, t.tile]
  match (sliceTiles s slice).filter fun t => !t.retiring with
  | [] => s
  | t :: ts =>
    let v := ts.foldl (fun v t => if rankLe (rank v) (rank t) then v else t) t
    updTile s v.ctx v.tile (retireTile s)

/-- Tiles without a place that additions wait for, by slice. -/
def tilesWanted (s : State) (slice : Nat) : Nat :=
  ((s.tileAdds.filter fun a => a.tile % 8 == slice && (placedTile s a.ctx a.tile).isNone).map
    fun a => (a.ctx, a.tile)).dedup.length

/-- A full slice retires one victim for each tile that waits for a place. -/
def wantPlace (s : State) (slice : Nat) : State :=
  if ((sliceTiles s slice).filter fun t => t.retiring).length < tilesWanted s slice ∧ 512 ≤ (sliceTiles s slice).length then
    startVictim s slice
  else s

/-- An addition lands, or waits with the others. Answers whether it landed. -/
def addSamples (s : State) (a : TileAdd) : State × Bool := match landAdd s a with
  | some s' => (s', true)
  | none => (wantPlace { s with tileAdds := s.tileAdds ++ [a] } (a.tile % 8), false)

/-- Takes the first addition that can land from those that wait. -/
def landFirst (s : State) (pre : List TileAdd) : List TileAdd → Option (State × TileAdd)
  | [] => none
  | a :: as => match landAdd s a with
    | some s' => some ({ s' with tileAdds := pre ++ as }, a)
    | none => landFirst s (pre ++ [a]) as

/-- TILE_ADD_RESUME (R241): a waiting addition lands in its tile's place; its instruction's counter goes down with its
last. -/
def execTileAddResume (s : State) : Res :=
  match landFirst s [] s.tileAdds with
  | some (s', a) =>
    .next (if s'.tileAdds.any fun x => x.op == a.op then s' else finishOp s' a.core a.slot a.op)
  | none => .next ((List.range 8).foldl wantPlace s)

/-! ## Retirement (R240) -/

/-- The TLBs of the hamlet whose slice holds a tile. -/
def tileTlb (t : Tile) : Nat := hamTlb + t.tile % 8

/-- An access of a retirement: to the image, the mark plane or the resolve, for a slot and its pixel. -/
inductive RetireStep where
  | img (k p : Nat)
  | mrk (k p : Nat)
  | res (k p : Nat)
  deriving DecidableEq, Repr

/-- The address, length and kind of an access of a retirement. -/
def RetireStep.access (f : TileFrame) : RetireStep → Nat × Nat × Acc
  | .img _ p => (f.img + 64 * p, 64, .atom)
  | .mrk _ p => (f.mrk + 2 * p, 2, .write)
  | .res _ p => (f.res + 32 * p, 32, .write)

/-- The accesses of a retirement to the record of a pixel, in order. -/
def pixelSteps (f : TileFrame) (k p : Nat) : List RetireStep :=
  (if f.img = 0 then [] else [.img k p]) ++ (if f.mrk = 0 then [] else [.mrk k p]) ++ if f.res = 0 then [] else [.res k p]

/-- A channel of a slot of a tile. -/
def Tile.chan (t : Tile) (k c : Nat) : DWord := tget t.chans (8 * k + c) 0

/-- Merges the channels of a slot into the image at a location. -/
def mergeImg (s : State) (t : Tile) (k loc : Nat) : State × Tile :=
  let s := claimWords s (rangeWords loc 64)
  let new := (List.range 8).map fun c =>
    satAdd (joinWords (rmwWord s (loc + 8 * c)).1 (rmwWord s (loc + 8 * c + 4)).1) (t.chan k c).toInt
  (homeWrites s loc (wordsOf64 new) (some t.ctx), { t with merged := new })

/-- Merges the mark word of a slot into the mark plane at a location. DESIGN CHOICE (log entry 138): uncorrectable data there
is merged over without a fault. -/
def mergeMrk (s : State) (t : Tile) (k loc : Nat) : State × Tile :=
  let s := claimWords s [wordBase loc]
  let half := loc % 4 / 2
  let new : BitVec 16 := (rmwWord s (wordBase loc)).1.extractLsb' (16 * half) 16 ||| tget t.marks k 0
  (homeWrite s (wordBase loc) (BitVec.ofNat 4 (3 * 4 ^ half)) (new.zeroExtend 32 <<< (16 * half)) false (some t.ctx) none,
    { t with mmark := new })

/-- What the resolve of a slot shows (R238, R240): the merged channels by the merged marks; without an image the tile's
own, and by its own marks without a mark plane. -/
def resolveOf (t : Tile) (k : Nat) : List Word :=
  let noImg := t.frame.img = 0
  let marks := if noImg ∨ t.frame.mrk = 0 then tget t.marks k 0 else t.mmark
  (List.range 8).map fun c => readBack (if noImg then t.chan k c else t.merged.getD c 0) (markCode marks c)

/-- An access of a retirement at its location. -/
def RetireStep.act (s : State) (t : Tile) (loc : Nat) : RetireStep → State × Tile
  | .img k _ => mergeImg s t k loc
  | .mrk k _ => mergeMrk s t k loc
  | .res k _ => (homeWrites ((rangeWords loc 32).foldl (fun s w => overtake s w 0xF) s) loc (resolveOf t k) (some t.ctx), t)

/-- The slots of a tile that lie in the frame, with their pixels. -/
def tileSlots (t : Tile) : List (Nat × Nat) :=
  (List.range 64).filterMap fun k => (tilePixel t.frame.fw t.frame.fh t.tile k).map fun p => (k, p)

/-- The accesses of a retirement, in order. -/
def retireSteps (t : Tile) : List RetireStep := (tileSlots t).flatMap fun x => pixelSteps t.frame x.1 x.2

/-- How far a retirement comes in one turn: to its end, to a word or a page that it waits for, or to a fault. -/
inductive RetireEnd where
  | done
  | wait
  | fault (cause va : Nat)
  deriving DecidableEq, Repr

/-- The accesses of a retirement up to the first that waits or faults. An access waits until the host has given its lines up
(R286), and an atomic at the home until a word that is registered to a unit has come back (R328). -/
def retireFrom : List RetireStep → State → Tile → State × Tile × RetireEnd
  | [], s, t => (s, t, .done)
  | x :: xs, s, t =>
    let (va, n, acc) := x.access t.frame
    match unitXlat s t.ctx (tileTlb t) va n acc with
    | .miss => (askWalk s t.ctx (tileTlb t) va false, t, .wait)
    | .fail k => (unitTold s t.ctx (tileTlb t) va, t, .fault k va)
    | .ok leaf =>
      let ws := rangeWords (wordBase (leaf.at va)) n
      if acc = .atom ∧ anyPoison s (leaf.at va) 16 then (s, t, .fault 0x70 va)
      else if n ≠ 32 ∧ ws.any fun w => (ownerOf s w).isSome then (recallWords s ws, t, .wait)
      else match snoopFirst s ws with
        | some s' => (s', t, .wait)
        | none =>
          let r := x.act s t (leaf.at va)
          retireFrom xs r.1 { r.2 with pos := t.pos + 1 }

/-- Gives up the place of a tile. -/
def freeTile (s : State) (t : Tile) : State := { s with tiles := s.tiles.filter fun x => !(x.ctx == t.ctx && x.tile == t.tile) }

/-- The rest of a tile is dropped (R240). -/
def dropTile (s : State) (t : Tile) (cause va : Nat) : State :=
  reportCtx (freeTile s t) t.ctx 0x0B cause (va / 4096 * 4096) (BitVec.ofNat 32 t.tile)

/-- Flushes and clears of a context end when none of its tiles is retiring any more; their end waits for the release of what
the tiles have written (R239, R241, R289). -/
def endFlushes (s : State) (ctx : Nat) : State :=
  if s.tiles.any fun t => t.ctx == ctx && t.retiring then s
  else
    (s.flushing.filter fun f => f.1 == ctx).foldl (fun s f => finishCmd s f.2 0 0)
      { s with flushing := s.flushing.filter fun f => f.1 ≠ ctx }

/-- TILE_RETIRE (R240): a tile that is retiring merges into the image, the mark plane and the resolve, releases and frees
its place. An absent page is reported and waited for; any other fault drops the rest of the tile. -/
def execTileRetire (ctx tile : Nat) (s : State) : Res :=
  match placedTile s ctx tile with
  | none => .next s
  | some t =>
    if !t.retiring || t.waitPage.isSome then .next s
    else
      let (s1, t1, e) := retireFrom ((retireSteps t).drop t.pos) s t
      match e with
      | .wait => .next (updTile s1 ctx tile fun _ => t1)
      | .done =>
        let s2 := unitRelease s1 ctx 5
        .next (if unitReleased s2 5 then endFlushes (freeTile s2 t) ctx else updTile s2 ctx tile fun _ => t1)
      | .fault k va =>
        if k = 0x20 then
          .next (reportCtx (updTile s1 ctx tile fun _ => { t1 with waitPage := some (va / 4096) }) ctx 0x0A 0x20
            (va / 4096 * 4096) (BitVec.ofNat 32 tile))
        else .next (endFlushes (dropTile (tellFault s1 ctx noCore none 0 k va) t k va) ctx)

end Sys2Proof.Machine
end

