-- ==== Sys2Proof/Machine/MatrixRun.lean ====
section
/-!
DEFINITION. Quadrants at work (R171 to R173, R202, R268, R352 to R364): zeroing, loops and their steps, drains, denoises,
soft errors; and the completion of engine work (R162).
-/

namespace Sys2Proof.Machine

/-! ## Work in acceptance order (R361) -/

/-- Rewrites a job. -/
def updJob (s : State) (q id : Nat) (f : QuadJob → QuadJob) : State :=
  updQuad s q fun x => { x with jobs := x.jobs.map fun j => if j.id == id then f j else j }

/-- Whether a job no longer holds back later work on its bank: it has ended, or is a drain that has read. -/
def QuadJob.past (j : QuadJob) : Bool := j.ended.isSome || (j.started && (j.kind == .drainQ || j.kind == .drainSp))

/-- Whether everything accepted before a job on its bank is past. -/
def firstOnBank (x : Quad) (j : QuadJob) : Bool := x.jobs.all fun p => decide (j.id ≤ p.id) || p.bank != j.bank || p.past

/-- A bank that a drain has released is given up once no work of its context remains on it (R173, R361). -/
def tryRelease (s : State) (q b : Nat) : State :=
  if (bankAt s q b).release && (quadAt s q).jobs.all fun j => j.bank != b || j.past then
    updBank s q b fun x => { x with owner := none, release := false }
  else s

/-- A job ends with a class. -/
def endJob (s : State) (q : Nat) (j : QuadJob) (cls : Nat) : State :=
  tryRelease (updJob s q j.id fun j => { j with ended := some cls }) q j.bank

/-- The engine identity of a quadrant (R162). -/
def quadIdent (q : Nat) : Nat := q / 4 * 32 + 4 + q % 4

/-- What an access of a job leads to: the job waits for a walk, a line of the host, or system software's verdict on an absent
page; else it ends (R161, R354). -/
def jobFault (s : State) (q : Nat) (j : QuadJob) (cause va : Nat) : State :=
  if cause ≤ waitSnoop then engWait s j.ctx j.unit cause va
  else
    let s := reportFault (unitTold s j.ctx (unitTlb j.unit) va) j.ctx j.core (quadIdent q) cause va
    if cause = 0x20 then updJob s q j.id fun j => { j with wait := some (va / 4096) }
    else endJob s q j (classOf cause)

/-- A class joins a job's, and the event is reported (R363). -/
def softEvent (s : State) (q : Nat) (j : QuadJob) (cls : Nat) : State :=
  updJob (report s ⟨0x0F, cls, j.ctx, j.core, 0, none, quadIdent q, 0, 0⟩) q j.id fun j => { j with worst := max j.worst cls }

/-- Uncorrectable data in a tensor record that a job reads is reported once for the job (R126, R161). -/
def jobPoison (s : State) (q : Nat) (j : QuadJob) (bad : Bool) : State :=
  if bad && decide (j.worst < 0x10) then
    updJob (report s ⟨0x0E, 0x10, j.ctx, j.core, 0, none, quadIdent q, 0, 0⟩) q j.id fun j => { j with worst := 0x10 }
  else s

/-- Whether the group that issued a job is halted by the debugger (R362). -/
def jobHalted (s : State) (j : QuadJob) : Bool := !j.gone && haltedAt s j.core j.slot

/-! ## BANK_ZERO (R167) -/

/-- BANK_ZERO (R167): once the work accepted earlier on the bank is past, every element is zero, the scale rings are empty,
the region covers the whole bank, and no format word is recorded but that of a loop accepted since. -/
def execBankZero (quad bank : Nat) (s : State) : Res :=
  match (quadAt s quad).jobs.find? fun j => j.kind == .zero && j.bank == bank with
  | none => .next s
  | some j =>
    if !firstOnBank (quadAt s quad) j then .next s
    else
      let later := (quadAt s quad).jobs.any fun p => p.kind == .loop && p.bank == bank && decide (j.id < p.id)
      let s1 := updBank s quad bank fun b =>
        { b with elems := [], poison := [], fmt := if later then b.fmt else none, region := none, ringA := noRing, ringB := noRing }
      let s2 := updQuad s1 quad fun x => { x with jobs := x.jobs.filter fun p => p.id ≠ j.id }
      .next (finishOp (tryRelease s2 quad bank) j.core j.slot j.op)

/-! ## Elements (R57 to R63, R356 to R359) -/

/-- The bits of an element at a bit offset from a byte address, with its poison mark. -/
def readBits (s : State) (m : EngMem) (a bit width : Nat) : Except (Nat × Nat) (Nat × Bool) :=
  let first := a + bit / 8
  let n := ceilDiv (bit % 8 + width) 8
  ((List.range n).mapM fun i => (atAddr (first + i) (engRead s m (first + i))).map fun w =>
    ((byteOf w.1 ((first + i) % 4)).toNat, w.2)).map fun bs =>
      ((bs.zipIdx.map fun b => b.1.1 * 256 ^ b.2).sum / 2 ^ (bit % 8) % 2 ^ width, bs.any fun b => b.2)

/-- A place that the operand stream of a job reads, through the translations that it has taken (R353). -/
def QuadJob.mem (j : QuadJob) (sp : Bool) : EngMem := ⟨j.ctx, j.team, j.unit, sp, some j.leaves⟩

/-- The stored element at a row and position of a record. -/
def storedElem (s : State) (j : QuadJob) (t : Tensor) (row k : Nat) : Except (Nat × Nat) (Nat × Bool) :=
  readBits s (j.mem t.sp) (t.base + row * t.stride 1) (k * elemBits t.fmt) (elemBits t.fmt)

/-- A two's complement number of `n` bits. -/
def signedOf (n v : Nat) : Int := if v < 2 ^ (n - 1) then v else (v : Int) - 2 ^ n

/-- The value of an element after zero-point subtraction, from its code and its scale entry (R58, R61, R356). -/
def elemValue (fmt code : Nat) (entry : Word) : Fp :=
  let zp := entry.toNat / 2 ^ 16
  match fmt with
  | 0x00 => fpRead fp32 code
  | 0x01 => fpRead bf16 code
  | 0x02 => fpRead fp16 code
  | 0x03 => fpRead e4m3 code
  | 0x04 => fpRead e5m2 code
  | 0x05 => fpRead e3m2 code
  | 0x06 => fpRead e2m3 code
  | 0x07 => fpRead e2m1 code
  | 0x08 => fpOfInt (signedOf 8 code)
  | 0x09 => fpOfInt code
  | 0x0A => fpOfInt (signedOf 4 code)
  | 0x0B => fpOfInt code
  | 0x0C => fpOfInt (signedOf 8 code - signedOf 8 (zp % 256))
  | 0x0D => fpOfInt (signedOf 4 code - ((zp % 16 : Nat) - 8 : Int))
  | 0x0E => fpOfInt (if code = 1 then 1 else if code = 3 then -1 else 0)
  | 0x0F => fpRead e4m3 code
  | 0x10 => fpRead e3m2 code
  | 0x11 => fpRead e2m3 code
  | 0x12 => fpRead e2m1 code
  | _ => fpOfInt (signedOf 8 code)

/-- An S10 block scale (R62). -/
def s10 (v : Nat) : Fp :=
  let e := v / 16 % 64
  let m := v % 16
  if v % 1024 = 0x3FF then .nan
  else if e = 0 then .fin false m (-34) else .fin false (16 + m) (e - 35)

/-- The scale of a row or column (R61, R356). -/
def scaleValue (fmt : Nat) (entry : Word) : Fp :=
  if grouped fmt then fpRead fp16 (entry.toNat % 2 ^ 16)
  else if blockScaled fmt then s10 entry.toNat
  else .fin false 1 0

/-- Whether a format takes scales from its ring. -/
def scaled (fmt : Nat) : Bool := grouped fmt || blockScaled fmt

/-- An element as it enters the array: its value and its poison mark. -/
abbrev Elem := Fp × Bool

/-- Reading an element can fault, find bad sparsity metadata, or give its value. -/
inductive ElemRead where
  | ok (e : Elem)
  | fault (cause va : Nat)
  | badMeta

/-- The result of a read of bits as an element. -/
def elemOfBits (fmt : Nat) (entry : Word) : Except (Nat × Nat) (Nat × Bool) → ElemRead
  | .ok (code, p) => .ok (elemValue fmt code entry, p)
  | .error (k, va) => .fault k va

/-- The element of an operand at a row and K index. -/
def denseElem (s : State) (j : QuadJob) (t : Tensor) (entry : Word) (row k : Nat) : ElemRead :=
  elemOfBits t.fmt entry (storedElem s j t row k)

/-- The metadata word of a group of four K indices (R358). -/
def metaPlace (t : Tensor) (row g : Nat) : Nat := bitsOf t.meta_ 0 48 + row * (4 * ceilDiv (t.dim 0) 32) + 4 * (g / 8)

/-- The element of a 2:4 sparse operand (R358, R359): a pruned one has the value zero. -/
def sparseElem (s : State) (j : QuadJob) (t : Tensor) (entry : Word) (row k : Nat) : ElemRead :=
  let g := k / 4
  match readBits s (j.mem (t.meta_.getLsbD 63)) (metaPlace t row g) 0 32 with
  | .error (c, va) => .fault c va
  | .ok (w, p) =>
    let nib := w / 16 ^ (g % 8) % 16
    let i0 := nib % 4
    let i1 := nib / 4
    if i1 ≤ i0 then .badMeta
    else
      let at_ (n : Nat) : ElemRead := match elemOfBits t.fmt entry (storedElem s j t row n) with
        | .ok (v, q) => .ok (v, p || q)
        | e => e
      if k % 4 = i0 then at_ (2 * g) else if k % 4 = i1 then at_ (2 * g + 1) else .ok (.fin false 0 0, p)

/-! ## A step (R70, R71, R171) -/

/-- The block sum of one array element from the pairs that form products, or nothing where none does. -/
def blockSum (sa sb : Fp) (ps : List (Fp × Fp)) : Option Fp := match ps.map fun p => fpMul (fpMul sa p.1) (fpMul sb p.2) with
  | [] => none
  | x :: xs => some (xs.foldl (fpAdd .ne) x)

/-- The integer that a finite value stands for. -/
def intOf : Fp → Int
  | .fin neg m e => (if neg then -1 else 1) * (m : Int) * 2 ^ e.toNat
  | _ => 0

/-- RoundAcc (R70): into FP32, INT32 modulo 2^32, or FP16 held as its FP32 value. -/
def roundAcc (acc : Nat) (c : Word) (v : Fp) : Word :=
  match acc with
  | 1 => c + BitVec.ofInt 32 (intOf v)
  | 2 =>
    let h := (fpDeliver fp16 .ne false (fpAdd .ne (f32 c) v)).bits
    BitVec.ofNat 32 (fpDeliver fp32 .ne false (fpRead fp16 h)).bits
  | _ => BitVec.ofNat 32 (fpDeliver fp32 .ne false (fpAdd .ne (f32 c) v)).bits

/-- The rows or columns of an operand that a step reads: index in the array, scale, and the elements by position in the K
block, absent where padded. -/
structure Strip where
  idx : Nat
  scale : Fp
  elems : List (Option Elem)

/-- One step's operands, or what stops them. -/
inductive StepIn where
  | ok (a b : List Strip)
  | fault (cause va : Nat)
  | badMeta

/-- Reads one strip: `k0` is the stream's first K index, `n` the K block. -/
def readStrip (read : Nat → Nat → ElemRead) (dim : Nat) (row : Nat) (k0 : Int) : Nat → List (Option Elem) → Except ElemRead (List (Option Elem))
  | 0, acc => .ok acc
  | n + 1, acc =>
    let k := k0 + n
    if 0 ≤ k ∧ k < dim then
      match read row k.toNat with
      | .ok e => readStrip read dim row k0 n (some e :: acc)
      | e => .error e
    else readStrip read dim row k0 n (none :: acc)

/-- The strips of an operand with `count` array rows from matrix row `r0` on, of which `rows` exist. -/
def readStrips (t : Tensor) (entry : Nat → Word) (read : Word → Nat → Nat → ElemRead) (count rows : Nat) (r0 k0 : Int) (kb : Nat) :
    Except ElemRead (List Strip) :=
  (List.range count).foldr (fun (i : Nat) acc => match acc with
    | .error e => .error e
    | .ok ss =>
      if 0 ≤ r0 + i ∧ r0 + i < rows then
        match readStrip (read (entry i)) (t.dim 0) (r0 + i).toNat k0 kb [] with
        | .ok es => .ok (⟨i, scaleValue t.fmt (entry i), es⟩ :: ss)
        | .error e => .error e
      else .ok ss) (.ok [])

/-- Both operands, or what stops the step. -/
def stepIn : Except ElemRead (List Strip) → Except ElemRead (List Strip) → StepIn
  | .ok a, .ok b => .ok a b
  | .error (.fault c v), _ => .fault c v
  | .error _, _ => .badMeta
  | _, .error (.fault c v) => .fault c v
  | _, .error _ => .badMeta

/-- The array's update of a bank by one step: each element with a product is rounded once, and poison spreads. -/
def applyStep (b : Bank) (acc : Nat) (as bs : List Strip) : Bank :=
  as.foldl (fun b a => bs.foldl (fun b c =>
    let ps := (a.elems.zip c.elems).filterMap fun p => match p with
      | (some x, some y) => some (x, y)
      | _ => none
    match blockSum a.scale c.scale (ps.map fun p => (p.1.1, p.2.1)) with
    | none => b
    | some v =>
      let key := 384 * a.idx + c.idx
      { b with
        elems := tput b.elems key (roundAcc acc (tget b.elems key 0) v)
        poison := if ps.any fun p => p.1.2 || p.2.2 then tput b.poison key true else b.poison }) b) b

/-- Whether a step's operands hold uncorrectable data. -/
def stepPoison (as bs : List Strip) : Bool :=
  (as ++ bs).any fun s => s.elems.any fun e => (e.map fun x => x.2).getD false

/-! ## Loops (R171) -/

/-- The two tensor records that a loop has read. -/
def QuadJob.recA (j : QuadJob) : Tensor := ⟨j.recs.take 16⟩
def QuadJob.recB (j : QuadJob) : Tensor := ⟨j.recs.drop 16⟩

/-- A signed 32-bit field of a descriptor. -/
def QuadJob.sfield (j : QuadJob) (w lo : Nat) : Int := signedOf 32 (bitsOf (j.desc.getD w 0) lo 32)

/-- The origins of a step: ma, ka, kb, nb (R171). -/
def stepOrigins (j : QuadJob) : Int × Int × Int × Int :=
  let n : Int := j.step
  let u (w lo : Nat) : Int := bitsOf (j.desc.getD w 0) lo 32
  (u 2 0 + n * j.sfield 4 0, u 3 0 + n * j.sfield 4 32, u 3 0 + n * j.sfield 5 0, u 2 32 + n * j.sfield 5 32)

/-- Steps of a job: KS, or the three of a denoise. -/
def QuadJob.steps (j : QuadJob) : Nat := if j.kind = .denoise then 3 else bitsOf (j.desc.getD 3 0) 32 20

/-- Whether a sparse record keeps R358: metadata, and a K that is a multiple of 4, of 8 for 6-bit formats. -/
def sparseOk (t : Tensor) (size : Nat) : Bool :=
  t.meta_ != 0 && bitsOf t.meta_ 48 15 == 0 && t.dim 0 % (if elemBits t.fmt = 6 then 8 else 4) == 0 &&
  (!t.meta_.getLsbD 63 || decide (bitsOf t.meta_ 0 48 + t.dim 1 * (4 * ceilDiv (t.dim 0) 32) ≤ size))

/-- A sparse record as one of its stored elements, its metadata taken out. -/
def compressed (t : Tensor) : Tensor := ⟨((t.w.set 3 (BitVec.ofNat 32 (t.dim 0 / 2))).set 14 0).set 15 0⟩

/-- Whether a loop's records agree with its format word and with each other (R157, R171, R359). -/
def recordsOk (s : State) (j : QuadJob) (a b : Tensor) : Bool :=
  let size := teamSize s j.team
  let ep := j.team == 0
  a.rank == 2 && b.rank == 2 && a.fmt == fAfmt j.fmt && b.fmt == fBfmt j.fmt && a.dim 0 == b.dim 0 && b.ok size ep &&
  if fSparse j.fmt then sparseOk a size && (compressed a).ok size ep else a.ok size ep

/-- MLOOP_START (R171): the oldest loop not begun whose bank is free of earlier work reads its records. -/
def execMloopStart (quad : Nat) (s : State) : Res :=
  let x := quadAt s quad
  match x.jobs.find? fun j => j.kind == .loop && !j.started && j.ended.isNone && j.wait.isNone && firstOnBank x j with
  | none => .next s
  | some j =>
    let w6 := j.desc.getD 6 0
    let s1 := if w6.getLsbD 55 then engineAcquire s (bitsOf w6 52 3) else s
    match readTensor s1 j.ctx j.team j.unit (j.desc.getD 0 0), readTensor s1 j.ctx j.team j.unit (j.desc.getD 1 0) with
    | .error f, _ => .next (jobFault s1 quad j f.1 f.2)
    | _, .error f => .next (jobFault s1 quad j f.1 f.2)
    | .ok (a, x), .ok (b, y) =>
      let s2 := jobPoison s1 quad j (x || y)
      if recordsOk s1 j a b then .next (updJob s2 quad j.id fun j => { j with started := true, recs := a.w ++ b.w })
      else .next (endJob s2 quad j 0x18)

/-- The entry of a scale ring for an array row or column. -/
def ringEntry (r : ScaleRing) (i : Nat) : Word := tget (ringSlot r r.rptr).entries i 0

/-- The operands of a loop's next step. -/
def loopIn (s : State) (q : Nat) (j : QuadJob) : StepIn :=
  let o := stepOrigins j
  let b := bankAt s q j.bank
  let ta := j.recA
  let tb := j.recB
  let kb := kBlock j.fmt
  let readA : Word → Nat → Nat → ElemRead := if fSparse j.fmt then sparseElem s j ta else denseElem s j ta
  stepIn (readStrips ta (ringEntry b.ringA) readA 256 (ta.dim 1) o.1 o.2.1 kb)
    (readStrips tb (ringEntry b.ringB) (denseElem s j tb) 384 (tb.dim 1) o.2.2.2 o.2.2.1 kb)

/-- Whether the scale slots that a loop's next step needs are full (R361). -/
def scalesReady (s : State) (q : Nat) (j : QuadJob) : Bool :=
  let b := bankAt s q j.bank
  j.kind != .loop || ((!scaled (fAfmt j.fmt) || (ringSlot b.ringA b.ringA.rptr).full) &&
    (!scaled (fBfmt j.fmt) || (ringSlot b.ringB b.ringB.rptr).full))

/-- Whether a step is the last of its scale unit for an operand (R172). -/
def unitEnds (j : QuadJob) (fmt : Nat) : Bool :=
  let g := if grouped fmt then groupSize j.fmt else kBlock j.fmt
  (j.step + 1) * kBlock j.fmt % g == 0 || j.step + 1 == j.steps

/-- Empties the slot at a ring's read pointer and moves on. -/
def nextSlotOf (r : ScaleRing) : ScaleRing := { r with slots := tput r.slots (r.rptr % 8) ⟨[], false⟩, rptr := r.rptr + 1 }

/-- The rings after a step. -/
def endUnits (j : QuadJob) (b : Bank) : Bank :=
  let b := if scaled (fAfmt j.fmt) && unitEnds j (fAfmt j.fmt) then { b with ringA := nextSlotOf b.ringA } else b
  if scaled (fBfmt j.fmt) && unitEnds j (fBfmt j.fmt) then { b with ringB := nextSlotOf b.ringB } else b

/-! ## Denoise (R202, R364) -/

/-- The pixel and RET of a denoise, its output address word and the columns of its filter. -/
def QuadJob.pix (j : QuadJob) : Nat := bitsOf (j.desc.getD 0 0) 0 32
def QuadJob.ret (j : QuadJob) : Bool := (j.desc.getD 0 0).getLsbD 32
def QuadJob.out (j : QuadJob) : DWord := j.desc.getD 2 0
def QuadJob.cols (j : QuadJob) : Nat := j.recA.dim 1

/-- The channels of a tile as FP16 values, pixel by pixel; a tile that holds no place reads zero. -/
def tileFp16 (s : State) (ctx tile : Nat) : List (Word × Bool) :=
  (List.range 512).map fun i => match placedTile s ctx tile with
    | none => (0, false)
    | some t =>
      (BitVec.ofNat 32 (fpDeliver fp16 .ne false (f32 (readBack (tget t.chans i 0) (markCode (tget t.marks (i / 8) 0) (i % 8))))).bits, false)

/-- Whether a denoise's weight record is sound (R202). -/
def weightOk (s : State) (j : QuadJob) (t : Tensor) : Bool :=
  let size := teamSize s j.team
  t.ok size (j.team == 0) && t.rank == 2 && t.fmt == 2 && t.dim 0 == 72 && decide (1 ≤ t.dim 1) && decide (t.dim 1 ≤ 384) &&
  (!j.out.getLsbD 63 || decide (bitsOf j.out 0 48 + 128 * t.dim 1 ≤ size))

/-- Whether an mzero has been accepted after a job on its bank: the record of the bank counts as cleared from its issue on
(R167). -/
def zeroedLater (x : Quad) (j : QuadJob) : Bool := x.jobs.any fun p => p.kind == .zero && p.bank == j.bank && decide (j.id < p.id)

/-- Whether the tile that a denoise reads is being retired (R241). -/
def denoiseBusy (s : State) (j : QuadJob) : Bool :=
  ((placedTile s j.ctx (pixTile (frameW s j.ctx) j.pix)).map fun t => t.retiring).getD false

/-- DENOISE_START (R361, R364): of the oldest denoise that can proceed, the bank is zeroed and recorded, and the tile is read,
and cleared if RET is set. -/
def execDenoiseStart (quad : Nat) (s0 : State) : Res :=
  let x := quadAt s0 quad
  match x.jobs.find? fun j => j.kind == .denoise && !j.started && j.ended.isNone && j.wait.isNone && firstOnBank x j &&
      !jobHalted s0 j && !denoiseBusy s0 j with
  | none => .next s0
  | some j =>
    let tile := pixTile (frameW s0 j.ctx) j.pix
    match readTensor s0 j.ctx j.team j.unit (j.desc.getD 1 0) with
      | .error f => .next (jobFault s0 quad j f.1 f.2)
      | .ok (t, p) =>
        let s := jobPoison s0 quad j p
        if !weightOk s j t then .next (endJob s quad j 0x18)
        else
          let s1 := updBank s quad j.bank fun b =>
            { b with elems := [], poison := [], region := some ⟨0, 0, 64, t.dim 1⟩,
                     fmt := if zeroedLater x j then b.fmt else some 0x00010842 }
          let s2 := updJob s1 quad j.id fun x => { x with started := true, recs := t.w, data := tileFp16 s j.ctx tile }
          .next (if j.ret then updTile s2 j.ctx tile fun t => { t with chans := [], marks := [] } else s2)

/-- A(p, k) of a denoise, absent where the neighbour lies outside the tile (R202). -/
def tileElem (data : List (Word × Bool)) (p k : Nat) : Option Elem :=
  let m := k / 8
  let x : Int := (p % 8 : Nat) + ((m % 3 : Nat) - 1 : Int)
  let y : Int := (p / 8 : Nat) + ((m / 3 : Nat) - 1 : Int)
  if 0 ≤ x ∧ x < 8 ∧ 0 ≤ y ∧ y < 8 then
    some (fpRead fp16 (data.getD (8 * (8 * y.toNat + x.toNat) + k % 8) (0, false)).1.toNat, false)
  else none

/-- The operands of a denoise's next step: K indices 32 × step on, up to 71. -/
def denoiseIn (s : State) (j : QuadJob) : StepIn :=
  let k0 := 32 * j.step
  let a : List Strip := (List.range 64).map fun p =>
    ⟨p, .fin false 1 0, (List.range 32).map fun i => if k0 + i < 72 then tileElem j.data p (k0 + i) else none⟩
  stepIn (.ok a) (readStrips j.recA (fun _ => 0) (denseElem s j j.recA) 384 j.cols 0 k0 32)

/-- Writes the results of a denoise as FP16, from the first that is not written on (R202, R203). -/
def writeTile (s : State) (q : Nat) (j : QuadJob) : State :=
  let b := bankAt s q j.bank
  let n := j.cols
  let m := engMem j.ctx j.team j.unit j.out
  let r := runMoves (fun s i =>
    let a := bitsOf j.out 0 48 + 2 * i
    let key := 384 * (i / n) + i % n
    let h := (fpDeliver fp16 .ne false (f32 (tget b.elems key 0))).bits
    let half := a % 4 / 2
    (atAddr a (engWrite s m a (BitVec.ofNat 4 (3 * 4 ^ half)) (BitVec.ofNat 32 (h * 2 ^ (16 * half))) (tget b.poison key false))).map
      fun s => (s, false)) (64 * n - (j.step - 3)) ⟨s, j.step - 3, false, none⟩
  let s1 := updJob r.s q j.id fun j => { j with step := 3 + r.pos }
  match r.fault with
  | some f => jobFault s1 q j f.1 f.2
  | none => endJob s1 q j 0

/-! ## Steps (R268, R361) -/

/-- Whether a loop or denoise can proceed, its stream aside. -/
def canProceed (s : State) (q : Nat) (j : QuadJob) : Bool :=
  j.isLoop && j.started && j.ended.isNone && j.wait.isNone && firstOnBank (quadAt s q) j && scalesReady s q j && !jobHalted s j

/-- The jobs that can proceed, highest class first, then in acceptance order. -/
def stepOrder (s : State) (q : Nat) : List QuadJob :=
  ((quadAt s q).jobs.filter (canProceed s q)).mergeSort fun a b => rankLe [a.cls, a.id] [b.cls, b.id]

/-- The operands of a job's next step. -/
def nextIn (s : State) (q : Nat) (j : QuadJob) : StepIn := if j.kind = .denoise then denoiseIn s j else loopIn s q j

/-- The operands of a job's next step once its stream has taken the translations that it needs; nothing while a page has
still to be walked (R353). -/
def takePages (q : Nat) : Nat → State → QuadJob → State × Option StepIn
  | 0, s, _ => (s, none)
  | fuel + 1, s, j => match nextIn s q j with
    | .fault cause va =>
      if cause = waitSnoop then (engWait s j.ctx j.unit cause va, none)
      else if cause ≠ waitWalk then (s, some (.fault cause va))
      else match unitXlat s j.ctx (unitTlb j.unit) va 4 .read with
        | .miss => (askWalk s j.ctx (unitTlb j.unit) va false, none)
        | .fail k => (s, some (.fault k va))
        | .ok leaf =>
          let add (x : QuadJob) : QuadJob := { x with leaves := leaf :: x.leaves }
          takePages q fuel (updJob s q j.id add) (add j)
    | x => (s, some x)

/-- More pages than the operands of one step can touch. -/
def stepPages : Nat := 4096

/-- The accumulator of a job's steps. -/
def QuadJob.acc (j : QuadJob) : Nat := if j.kind = .denoise then 2 else fAcc j.fmt

/-- A job's step starts with the operands that its stream has brought: what it will leave in its bank is settled (R353). -/
def beginStep (s : State) (q : Nat) (j : QuadJob) (as bs : List Strip) : State :=
  let b := applyStep (bankAt s q j.bank) j.acc as bs
  updQuad s q fun x => { x with running := some j.id, out := some ⟨b.elems, b.poison, stepPoison as bs⟩ }

/-- Starts the first job whose stream has arrived; what meets a fault waits or ends. -/
def startStep (q : Nat) : List QuadJob → State → State
  | [], s => s
  | j :: js, s =>
    if j.kind = .denoise ∧ 3 ≤ j.step then startStep q js (writeTile s q j)
    else match takePages q stepPages s j with
      | (s, none) => startStep q js s
      | (s, some (.ok as bs)) => beginStep s q j as bs
      | (s, some (.fault k va)) => startStep q js (jobFault s q j k va)
      | (s, some .badMeta) => startStep q js (endJob s q j 0x18)

/-- MATRIX_STEP_START (R268): with no step running, the sequencer starts the next step of the chosen job. -/
def execMatrixStepStart (quad : Nat) (s : State) : Res :=
  if (quadAt s quad).running.isSome then .next s else .next (startStep quad (stepOrder s quad) s)

/-- The region record after a loop's step (R171). -/
def stepRegion (j : QuadJob) (b : Bank) : Option Region :=
  if j.kind = .denoise then b.region
  else some ⟨(stepOrigins j).1, (stepOrigins j).2.2.2, j.recA.dim 1, j.recB.dim 1⟩

/-- A step's result reaches the bank. -/
def commitStep (s : State) (q : Nat) (j : QuadJob) (o : StepOut) : State :=
  let s1 := updBank s q j.bank fun b =>
    let b := { b with elems := o.elems, poison := o.poison, region := stepRegion j b }
    if j.kind = .loop then endUnits j b else b
  let s2 := updJob s1 q j.id fun j => { j with step := j.step + 1, leaves := [] }
  let s3 := if o.bad then softEvent s2 q j 0x10 else s2
  if j.kind = .denoise then (if j.step + 1 = 3 then writeTile s3 q { j with step := 3 } else s3)
  else if j.step + 1 = j.steps then endJob s3 q j 0 else s3

/-- MATRIX_STEP_END (R70): the running step's block sums are accumulated; a loop that has made its last step ends. -/
def execMatrixStepEnd (quad : Nat) (s : State) : Res :=
  let x := quadAt s quad
  let s1 := updQuad s quad fun x => { x with running := none, out := none }
  match x.running.bind fun id => x.jobs.find? fun j => j.id == id, x.out with
  | some j, some o => .next (if j.ended.isSome then s1 else commitStep s1 quad j o)
  | _, _ => .next s1

/-! ## Drains (R173) -/

/-- A bank element as a drain delivers it; `bad` marks a drain that has met an error that cannot be corrected (R363). -/
def drainElem (b : Bank) (bad : Bool) (fmt : Word) (r c : Nat) : Word × Bool :=
  let key := 384 * r + c
  let v := tget b.elems key 0
  let f := f32 v
  (match fDrnd fmt with
    | 0 => v
    | 1 => BitVec.ofNat 32 (fpDeliver fp16 .ne false f).bits
    | _ => BitVec.ofNat 32 (fpDeliver bf16 .ne false f).bits, bad || tget b.poison key false)

/-- Whether an element lies in the bank's region: without a record every one does (R171). -/
def inRegion (b : Bank) (r c : Nat) : Bool := match b.region with
  | none => true
  | some x => decide (0 ≤ x.ma + r) && decide (x.ma + r < x.m) && decide (0 ≤ x.nb + c) && decide (x.nb + c < x.n)

/-- Writes one element of a drain to scratchpad. -/
def drainWrite (t : Team) (a n : Nat) (v : Word × Bool) : Team :=
  if n = 4 then spPut t a 0xF v.1 v.2
  else spPut t (a / 4 * 4) (BitVec.ofNat 4 (3 * 4 ^ (a % 4 / 2))) (v.1 <<< (8 * (a % 4))) v.2

/-- The elements of a drain's region in row-major order, by row and column of the drain. -/
def drainCells (d : List DWord) : List (Nat × Nat) := (List.range (dRows d)).flatMap fun r => (List.range (dCols d)).map fun c => (r, c)

/-- A drain to scratchpad: elements outside the region are not written. -/
def drainToSp (s : State) (q : Nat) (j : QuadJob) : State :=
  let b := bankAt s q j.bank
  let n := drainBytes j.fmt
  updTeam s j.team fun t => (drainCells j.desc).foldl (fun t x =>
    if inRegion b (dRow0 j.desc + x.1) (dCol0 j.desc + x.2) then
      drainWrite t (dOfs j.desc + x.1 * dPitch j.desc + x.2 * n) n (drainElem b j.bad j.fmt (dRow0 j.desc + x.1) (dCol0 j.desc + x.2))
    else t) t

/-- The words that a drain to a queue delivers: elements outside the region are 0. -/
def drainWords (s : State) (q : Nat) (j : QuadJob) : List (Word × Bool) :=
  let b := bankAt s q j.bank
  (drainCells j.desc).map fun x =>
    if inRegion b (dRow0 j.desc + x.1) (dCol0 j.desc + x.2) then drainElem b j.bad j.fmt (dRow0 j.desc + x.1) (dCol0 j.desc + x.2) else (0, false)

/-- Whether a drain's region holds a poisoned element. -/
def drainPoison (s : State) (q : Nat) (j : QuadJob) : Bool :=
  (drainCells j.desc).any fun x => tget (bankAt s q j.bank).poison (384 * (dRow0 j.desc + x.1) + dCol0 j.desc + x.2) false

/-- A drain ends: its counter goes down. -/
def endDrain (s : State) (q : Nat) (j : QuadJob) (cls : Nat) : State := finishOp (endJob s q j cls) j.core j.slot j.op

/-- The bank's release that a drain with RLS asks for. -/
def askRelease (s : State) (q : Nat) (j : QuadJob) : State :=
  if dRls j.desc then tryRelease (updBank s q j.bank fun b => { b with release := true }) q j.bank else s

/-- A drain reads its bank. -/
def readDrain (s : State) (q : Nat) (j : QuadJob) : State :=
  let s1 := if drainPoison s q j then softEvent s q j 0x10 else s
  let s2 := updJob s1 q j.id fun x => { x with started := true, data := if j.kind = .drainQ then drainWords s q j else [] }
  if j.kind = .drainSp then endDrain (askRelease (drainToSp s2 q j) q j) q j 0 else askRelease s2 q j

/-- A drain pushes its next element, if its queue has room; a queue that has been freed ends it. -/
def pushDrain (s : State) (q : Nat) (j : QuadJob) : State :=
  let n := dOfs j.desc
  match if j.freed then none else (groupAt s j.core j.slot).bind fun g => tfind g.queues n with
  | none => endDrain s q j 0x19
  | some x =>
    if queueDepth ≤ x.elems.length then s
    else
      let s1 := updJob (putElems s j.core j.slot n (x.elems ++ [engElemOf (j.data.take 128)])) q j.id fun j => { j with data := j.data.drop 128 }
      if j.data.length ≤ 128 then endDrain s1 q j 0 else s1

/-- Whether a drain to a queue finds it full. -/
def drainStuck (s : State) (j : QuadJob) : Bool := j.started && !j.freed &&
  (((groupAt s j.core j.slot).bind fun g => tfind g.queues (dOfs j.desc)).map fun x => decide (queueDepth ≤ x.elems.length)).getD false

/-- MDRAIN_READ (R173): the oldest drain that may act reads its bank once the loops accepted earlier on it have completed,
and delivers what it has read. -/
def execMdrainRead (quad : Nat) (s : State) : Res :=
  let x := quadAt s quad
  match x.jobs.find? fun j => (j.kind == .drainQ || j.kind == .drainSp) && j.ended.isNone &&
      (if j.started then !drainStuck s j else firstOnBank x j) with
  | none => .next s
  | some j => if j.started then .next (pushDrain s quad j) else .next (readDrain s quad j)

/-! ## Soft errors (R363) -/

/-- The job that an error in a quadrant concerns: the one whose step runs, else the oldest drain. -/
def softJob (s : State) (q : Nat) : Option QuadJob :=
  let x := quadAt s q
  match x.running.bind fun id => x.jobs.find? fun j => j.id == id with
  | some j => some j
  | none => x.jobs.find? fun j => (j.kind == .drainQ || j.kind == .drainSp) && j.ended.isNone && !j.started

/-- A running loop ends with class 0x11 and the bank of the steps before. -/
def softEnd (s : State) (q : Nat) (j : QuadJob) : State :=
  endJob (softEvent (updQuad s q fun x => { x with running := none, out := none }) q j 0x11) q j 0x11

/-- An element of the bank that cannot be corrected: a step marks it and ends its loop; a drain whose region holds it passes
the whole region on with poison. -/
def softElement (s : State) (q : Nat) (j : QuadJob) (key : Nat) : State :=
  let mark (s : State) : State := updBank s q j.bank fun b => { b with poison := tput b.poison (key % 98304) true }
  if j.isLoop then softEnd (mark s) q j
  else if (drainCells j.desc).any fun x => 384 * (dRow0 j.desc + x.1) + dCol0 j.desc + x.2 == key % 98304 then
    updJob (mark s) q j.id fun j => { j with bad := true }
  else s

/-- An error in a quadrant (R363). -/
def softError (s : State) (q : Nat) (e : SoftErr) : State := match softJob s q with
  | none => s
  | some j => match e with
    | .corrected => softEvent s q j 0x01
    | .fatal => if j.isLoop then softEnd s q j else s
    | .scales opd =>
      if j.kind = .loop then
        softEnd (updBank s q j.bank fun b =>
          let r := ringOf b opd
          putRing b opd { r with slots := tput r.slots (r.rptr % 8) ⟨[], false⟩ }) q j
      else s
    | .element key => softElement s q j key

/-! ## Completion (R162) -/

/-- The status word after a completion (R162). -/
def statusWord (old : DWord) (cls ident : Nat) : DWord :=
  let valid := old.getLsbD 63
  let worst := max cls (if valid then bitsOf old 24 8 else 0)
  let cnt := ((if valid then bitsOf old 0 16 else 0) + 1) % 2 ^ 16
  BitVec.ofNat 64 (2 ^ 63 + worst * 2 ^ 24 + ident / 32 * 2 ^ 21 + ident % 32 * 2 ^ 16 + cnt)

/-- The status word and one arrival, as one action; dropped when the team has ended. -/
def signalTeam (s : State) (team bofs cls ident : Nat) : State :=
  updTeam s team fun t =>
    let t := spPutD t (bofs + 8) (statusWord (spDWord t (bofs + 8)) cls ident)
    spPutD t bofs (barArrive (spDWord t bofs))

/-- The class that work completes with: the worst that it has met (R162). -/
def finalClass (ended worst : Nat) : Nat := max ended worst

/-- The scope of a command's release, if it has one (R160). -/
def EngCmd.rsc (c : EngCmd) : Option Nat := if (c.w 0).getLsbD 51 then some (bitsOf (c.w 0) 48 3) else none

/-- The scope of a denoise's release, if it has one (R203). -/
def QuadJob.rsc (j : QuadJob) : Option Nat :=
  let w := j.desc.getD 3 0
  if j.kind = .denoise ∧ w.getLsbD 51 then some (bitsOf w 48 3) else none

/-- The release of work that ends begins or goes on, and whether it has ended: the signal comes after it (R160, R307). -/
def releaseEnd (s : State) (ctx : Nat) (scope : Option Nat) : State × Bool := match scope with
  | none => (s, true)
  | some n => (unitRelease s ctx n, unitReleased (unitRelease s ctx n) n)

/-- The end of a command, once released: its signal. -/
def completeCmd (s : State) (eng : Nat) (c : EngCmd) (cls : Nat) : State :=
  let w := c.words.getD 0 0
  let s := if w.getLsbD 46 then signalTeam s c.team (bitsOf w 0 20) (finalClass cls c.worst) (engIdent eng c) else s
  { s with engines := tupd s.engines eng [] fun cs => cs.filter fun x => x.id ≠ c.id }

/-- BAR and BOFS of a job. -/
def QuadJob.bar (j : QuadJob) : Bool × Nat := match j.kind with
  | .loop => ((j.desc.getD 6 0).getLsbD 47, bitsOf (j.desc.getD 6 0) 0 20)
  | .denoise => ((j.desc.getD 3 0).getLsbD 47, bitsOf (j.desc.getD 3 0) 0 20)
  | _ => (dBar j.desc, dBofs j.desc)

/-- The end of a job, once released: its signal. -/
def completeJob (s : State) (q : Nat) (j : QuadJob) (cls : Nat) : State :=
  let s := if j.bar.1 then signalTeam s j.team j.bar.2 (finalClass cls j.worst) (quadIdent q) else s
  tryRelease (updQuad s q fun x => { x with jobs := x.jobs.filter fun p => p.id ≠ j.id }) q j.bank

/-- ENGINE_CMD_COMPLETE (R160, R162): work that has ended, and whose release has, completes. Units 0 to 31 are the copy engines, 32 to 63 the quadrants,
64 the launch unit. -/
def execEngineCmdComplete (unit id : Nat) (s : State) : Res :=
  if 32 ≤ unit ∧ unit < 64 then
    match (quadAt s (unit - 32)).jobs.find? fun j => j.id == id with
    | none => .next s
    | some j => match j.ended with
      | some cls => match releaseEnd s j.ctx j.rsc with
        | (s1, true) => .next (completeJob s1 (unit - 32) j cls)
        | (s1, false) => .next s1
      | none => .next s
  else
    match (tget s.engines unit []).find? fun c => c.id == id with
    | none => .next s
    | some c => match c.ended with
      | some cls => match releaseEnd s c.ctx c.rsc with
        | (s1, true) => .next (completeCmd s1 unit c cls)
        | (s1, false) => .next s1
      | none => .next s

end Sys2Proof.Machine
end

