-- ==== Sys2Proof/Machine/RayInstr.lean ====
section
/-!
DEFINITION. The ray instructions (R176 to R199): the frame of their issue, the ray record, spawning and reservations,
any-hit decisions, accumulation, treelet prefetch and pool counts.
-/

namespace Sys2Proof.Machine

/-! ## The frame of issue (R176, R177) -/

/-- The kinds of group that may issue a form (R177). -/
def inAny : GroupKind → Bool := fun _ => true
def inEpisode : GroupKind → Bool := fun k => k != .compute
def inShading : GroupKind → Bool := fun k => k == .gen || k == .hit || k == .miss
def inHits : GroupKind → Bool := fun k => k == .hit || k == .anyhit
def inAnyHit : GroupKind → Bool := fun k => k == .anyhit

/-- A ray instruction: its OX word and counter, the kinds that may issue it, the registers it reads and writes, its
scalar source, what TRAPDST reports, and the number past its longest run of registers. -/
structure RayForm where
  ox : Option Ox
  ctr : Nat
  kinds : GroupKind → Bool
  srcs : List (BitVec 7)
  dsts : List (BitVec 7)
  scal : Option Nat
  dst : Nat
  past : Nat

/-- The cause that a form raises before its lanes are looked at (R9, R165, R177). -/
def rayCause (g : Group) (m : RayForm) : Option Nat :=
  let fs := m.srcs ++ m.dsts
  if !m.kinds g.kind then some 1
  else if fs.any fun f => (windowOf g f).isSome then some 1
  else if fs.any (beyond g) || decide (g.regAlloc < m.past) then some 4
  else none

/-- The issue of a ray instruction up to its lanes. -/
def rayStart (m : RayForm) (k : Group → Clause → Mask → Res) (s : State) : Res :=
  withIssuer s fun g c =>
    match rayCause g m with
    | some cause => wordTrap s g c cause
    | none =>
      let act := activeMask g c m.ox &&& rayLanes g
      if 63 ≤ cnt g m.ctr || acqHeld s g then waits s
      else if act = 0 then retire s g c
      else if (m.scal.map fun n => tget g.sPoison n false).getD false then trapAt s g c 0x70 (execMask g c) m.dst 0 []
      else k g c act

/-- The lanes that fault with a cause, and the traps of an instruction that has acted in its other lanes (R122, R125). -/
def rayEnd (s : State) (g : Group) (c : Clause) (dst : Nat) (fs : List (Nat × Nat)) : Res :=
  if fs.isEmpty then retire s g c else memTrap s g c dst (fs.map fun f => (f.1, f.2, 0))

/-- The poisoned lanes of an instruction's sources (R125). -/
def rayPoison (g : Group) (m : RayForm) (act : Mask) : Mask :=
  act &&& m.srcs.foldl (fun a f => a ||| fieldPoison g f) 0

/-- Faults of one cause in some lanes. -/
def laneFaults (cause : Nat) (m : Mask) : List (Nat × Nat) := (lanesIn m).map fun l => (l, cause)

/-- The ray of a lane. -/
def laneRay (s : State) (g : Group) (l : Nat) : Option Ray := (tfind g.rays l).bind (rayAt s)

/-- Word `i` of a lane's record. -/
def laneWord (s : State) (g : Group) (l i : Nat) : Word := match laneRay s g l with
  | some r => r.word i
  | none => 0

/-- Writes words of a lane's record from word `i` up. -/
def putRayWords (s : State) (g : Group) (l i : Nat) (ws : List Word) : State := match laneRay s g l with
  | some r => updRay s r.id fun r => { r with words := ws.zipIdx.foldl (fun t p => lput t (i + p.2) 0 p.1) r.words }
  | none => s

/-! ## Reading and writing the record (R186, R187) -/

/-- rayget (R186). -/
def execRayget (f : YK) (ox : Option Ox) (s : State) : Res :=
  rayStart ⟨ox, f.ctr.toNat, inEpisode, [], [f.d], none, f.d.toNat, 0⟩ (fun g c act =>
    retire s (setV g f.d.toNat act fun l => laneWord s g l f.k.toNat) c) s

/-- Whether a value is invalid for word `i` of a record (R186). -/
def badWord (s : State) (g : Group) (i : Nat) (w : Word) : Bool :=
  if i = 8 then badFlags w else if i = 9 then badIndex w (nentOf s g.ctx g.grid) else false

/-- rayset (R186): a lane whose value is invalid traps alone. -/
def execRayset (f : YK) (ox : Option Ox) (s : State) : Res :=
  let m : RayForm := ⟨ox, f.ctr.toNat, inShading, [f.d], [], none, 0xFF, 0⟩
  rayStart m (fun g c act =>
    let bad := rayPoison g m act
    let inval := (act &&& ~~~bad) &&& maskOf fun l => badWord s g f.k.toNat (readV g f.d l)
    let s1 := (lanesIn (act &&& ~~~bad &&& ~~~inval)).foldl (fun s l => putRayWords s g l f.k.toNat [readV g f.d l]) s
    rayEnd s1 g c 0xFF (laneFaults 0x70 bad ++ laneFaults 1 inval)) s

/-- An attribute of a hit (R187). -/
def Hit.attr (h : Hit) : Nat → Word
  | 0 => h.t
  | 1 => h.u
  | 2 => h.v
  | 3 => h.prim
  | 4 => h.geom
  | 5 => h.inst
  | 6 => if h.back then 1 else 0
  | _ => h.iusr

/-- The hit of a lane's episode: the closest hit, or the candidate (R187). -/
def laneHit (s : State) (g : Group) (l : Nat) : Option Hit :=
  (laneRay s g l).bind fun r => if g.kind = .anyhit then r.trav.cand else r.trav.hit

/-- hitattr (R187). -/
def execHitattr (f : YK) (ox : Option Ox) (s : State) : Res :=
  rayStart ⟨ox, f.ctr.toNat, inHits, [], [f.d], none, f.d.toNat, 0⟩ (fun g c act =>
    retire s (setV g f.d.toNat act fun l => ((laneHit s g l).map fun h => h.attr f.k.toNat).getD 0) c) s

/-! ## Re-aiming and spawning (R188 to R191) -/

/-- Whether a template scalar is invalid; K = 0 names none (R188). -/
def badTemplate (s : State) (g : Group) (k : Nat) : Bool :=
  k != 0 && (badFlags (loWord (sReg g k)) || badIndex (hiWord (sReg g k)) (nentOf s g.ctx g.grid))

/-- The template scalar of a form. -/
def templateOf (k : BitVec 5) : Option Nat := if k = 0 then none else some k.toNat

/-- trace in one lane. -/
def traceLane (s : State) (g : Group) (a : BitVec 7) (k l : Nat) : State :=
  let s := putRayWords s g l 0 (runWords g a 8 l)
  let s := if k = 0 then s else putRayWords s g l 8 [loWord (sReg g k), hiWord (sReg g k)]
  putRayWords s g l 11 [deeper (laneWord s g l 11)]

/-- The disposition of some lanes. -/
def setDisp (g : Group) (lanes : List Nat) (d : Disposition) : Group :=
  { g with disp := lanes.foldl (fun t l => tput t l d) g.disp }

/-- trace (R188). -/
def execTrace (f : YT) (ox : Option Ox) (s : State) : Res :=
  let m : RayForm := ⟨ox, f.ctr.toNat, inShading, runFields f.a 8, [], templateOf f.k, 0xFF, 0⟩
  rayStart m (fun g c act =>
    if badTemplate s g f.k.toNat then rayEnd s g c 0xFF (laneFaults 1 act)
    else
      let bad := rayPoison g m act
      let lanes := lanesIn (act &&& ~~~bad)
      rayEnd (lanes.foldl (fun s l => traceLane s g f.a f.k.toNat l) s) (setDisp g lanes .trace) c 0xFF (laneFaults 0x70 bad)) s

/-- The ray that a lane spawns (R190, R340). -/
def spawnRay (s : State) (g : Group) (f : Y) (l : Nat) : Ray :=
  let w (i : Nat) : Word := laneWord s g l i
  let t := if f.k = 0 then [w 8, w 9] else [loWord (sReg g f.k.toNat), hiWord (sReg g f.k.toNat)]
  { id := s.nextId, ctx := g.ctx, grid := g.grid
    rid := BitVec.ofNat 64 (g.waveSeq % 2 ^ 31 * 2 ^ 32 + l * 256 + tget g.spawns l 0 % 256)
    words := runWords g f.a 8 l ++ t ++ [w 10, deeper (w 11)]
    payload := runWords g f.d 16 l, payPoison := 0
    trav := ⟨[], none, none⟩, place := .travBin 0, since := s.clock, spilled := none }

/-- What spwn does so far: the state, the group, the lanes that fault and those refused. -/
structure Spawning where
  s : State
  g : Group
  faults : List (Nat × Nat)
  refused : List Nat

/-- A lane spawns: its ray is created and enters the sorter. -/
def spawnNow (p : Spawning) (f : Y) (l : Nat) : Spawning :=
  let g := { p.g with
    res := if 0 < tget p.g.res l 0 then tput p.g.res l (tget p.g.res l 0 - 1) else p.g.res
    spawns := tput p.g.spawns l (tget p.g.spawns l 0 + 1) }
  { p with s := enterTrav (newRay (setGroup p.s g) (spawnRay p.s p.g f l)) p.s.nextId, g }

/-- spwn in one lane (R191): the template comes first, then the lane's sources. -/
def spawnLane (f : Y) (status : Bool) (bad : Mask) (p : Spawning) (l : Nat) : Spawning :=
  if badTemplate p.s p.g f.k.toNat then { p with faults := p.faults ++ [(l, 1)] }
  else if bad.getLsbD l then { p with faults := p.faults ++ [(l, 0x70)] }
  else if logMode p.s p.g.ctx ≠ 0 ∧ 256 ≤ tget p.g.spawns l 0 then { p with faults := p.faults ++ [(l, 1)] }
  else if 0 < tget p.g.res l 0 || raysFree p.s p.g.ctx 1 then spawnNow p f l
  else if status then { p with refused := p.refused ++ [l] }
  else { p with faults := p.faults ++ [(l, 1)] }

/-- spwn (R190, R191): lanes decide in ascending order; the status predicate then selects the refused lanes. -/
def execSpwn (f : Y) (ox : Option Ox) (s : State) : Res :=
  let m : RayForm := ⟨ox, f.ctr.toNat, inShading, runFields f.a 8 ++ runFields f.d 16, [], templateOf f.k, 0xFF, f.d.toNat + 16⟩
  rayStart m (fun g c act =>
    let status := (ox.map fun o => o.gp != 0).getD false
    let p := (lanesIn act).foldl (spawnLane f status (rayPoison g m act)) ⟨s, g, [], []⟩
    let g := match ox with
      | some o => if o.gp = 0 then p.g else missGuard p.g o act (maskOf fun l => p.refused.contains l)
      | none => p.g
    rayEnd p.s g c 0xFF p.faults) s

/-! ## Reservations (R192 to R195) -/

/-- Writes D of a reservation's lanes: what each asked for, or 0. DEDUCED (log entry 142): a register that the group has
given up meanwhile is not its own to write, and reads zero when it is granted again (R10, R117). -/
def writeGrant (g : Group) (d : Nat) (n : List (Nat × Nat)) (granted : Bool) : Group :=
  if g.regAlloc ≤ d then g
  else setV g d (maskOf fun l => n.any fun x => x.1 == l) fun l => if granted then BitVec.ofNat 32 (tget n l 0) else 0

/-- The words of an RSV record after word 1 (R341). -/
def rsvWords (total : Nat) (granted : Bool) : List DWord := [BitVec.ofNat 64 (total + if granted then 2 ^ 32 else 0), 0]

/-- A reservation ends: its record is written in recording, and its counter goes down (R193, R195). -/
def endRsv (s : State) (g : Group) (total op : Nat) (granted : Bool) : State :=
  if logMode s g.ctx = 1 then recordOp s g.ctx 0x06 (actorWord g) (rsvWords total granted) g.core g.slot op
  else finishOp s g.core g.slot op

/-- A request gives its result: the lanes' reservations go up, D is written. -/
def answerRsv (s : State) (g : Group) (o : MemOp) (n : List (Nat × Nat)) (total : Nat) (granted : Bool) : State :=
  let s := updGroup s g.core g.slot fun g =>
    let g := writeGrant g o.dst n granted
    if granted then { g with res := n.foldl (fun t x => tput t x.1 (tget t x.1 0 + x.2)) g.res } else g
  endRsv s g total o.id granted

/-- The lanes in which rsv faults. -/
def rsvFaults (g : Group) (f : YA) (act : Mask) : Mask :=
  act &&& maskOf fun l => decide (16 < (readV g f.a l).toNat) || decide (64 < tget g.res l 0 + (readV g f.a l).toNat)

/-- The operation of an rsv. -/
def rsvOp (g : Group) (c : Clause) (f : YA) (id : Nat) (n : List (Nat × Nat)) (want : Option Bool) : MemOp :=
  let _ := g
  ⟨id, .rsv n (n.map Prod.snd).sum want, f.ctr.toNat, f.d.toNat, false, [], wordAddr c, c.pcs, c.idx + 1, c.hdr⟩

/-- rsv once its lanes are sound: a request of 0 is granted at once, any other joins its context's queue (R193, R194). -/
def rsvIssue (s : State) (g : Group) (c : Clause) (f : YA) (n : List (Nat × Nat)) (want : Option Bool) : Res :=
  let o := rsvOp g c f s.nextId n want
  let g1 := { incCnt g f.ctr.toNat with ops := g.ops ++ [o] }
  let s1 := setGroup { s with nextId := s.nextId + 1 } (advance s g1 c)
  let total := (n.map Prod.snd).sum
  if total = 0 then .next (answerRsv s1 g o n 0 true)
  else .next (updCtx s1 g.ctx fun x => { x with rsvQueue := x.rsvQueue ++ [(g.core, g.slot, o.id)], rsvSince := s.clock })

/-- rsv (R193): any lane that faults stops the whole request; in replay the next record must hold the same total. -/
def execRsv (f : YA) (ox : Option Ox) (s : State) : Res :=
  let m : RayForm := ⟨ox, f.ctr.toNat, inShading, [f.a], [f.d], none, f.d.toNat, 0⟩
  rayStart m (fun g c act =>
    let bad := rayPoison g m act
    let many := rsvFaults g f (act &&& ~~~bad)
    if bad ≠ 0 ∨ many ≠ 0 then rayEnd s g c f.d.toNat (laneFaults 0x70 bad ++ laneFaults 1 many)
    else
      let n := (lanesIn act).map fun l => (l, (readV g f.a l).toNat)
      if logMode s g.ctx = 2 then
        match nextRec s g.ctx 0x06 (byGroup s g) with
        | some r =>
          if bitsOf (r.word 2) 0 32 = (n.map Prod.snd).sum then
            rsvIssue (matchRec s g.ctx r) g c f n (some ((r.word 2).getLsbD 32))
          else trapAt (meetBad s g.ctx) g c 0x50 act f.d.toNat r.seq []
        | none => trapAt (meetBad s g.ctx) g c 0x50 act f.d.toNat 0xFFFFFFFF []
      else rsvIssue s g c f n none) s

/-- Whether a group's request is the oldest of its context. -/
def oldestRsv (s : State) (ctx : Nat) : Option (Group × MemOp) := match (ctxOf s ctx).rsvQueue with
  | (core, slot, op) :: _ => opNamed s core slot op
  | [] => none

/-- The oldest request leaves the queue with its answer. -/
def answerOldest (s : State) (ctx : Nat) (g : Group) (o : MemOp) (granted : Bool) : State :=
  let s := updCtx s ctx fun x => { x with rsvQueue := x.rsvQueue.drop 1, rsvSince := s.clock }
  match o.kind with
  | .rsv n total _ => answerRsv s g o n total granted
  | _ => s

/-- RSV_GRANT (R194, R195): the oldest request is granted when Free − Reserved ≥ T; a request that the log records as zero
completes with a zero grant at once. -/
def execRsvGrant (ctx : Nat) (s : State) : Res :=
  match oldestRsv s ctx with
  | none => .next s
  | some (g, o) => match o.kind with
    | .rsv _ total want =>
      if want = some false then .next (answerOldest s ctx g o false)
      else if raysFree s ctx total then .next (answerOldest s ctx g o true)
      else .next s
    | _ => .next s

/-- Whether every episode group of a context is blocked in RSV (R194). -/
def allBlocked (s : State) (ctx : Nat) : Bool :=
  s.groups.all fun g => g.ctx != ctx || !isEpisode g || g.waitingSince.isSome ||
    (ctxOf s ctx).rsvQueue.any fun q => q.1 == g.core && q.2.1 == g.slot

/-- POOL_DRAIN_TIMEOUT (R194): with every episode group blocked and no request grantable for 4,096 clocks, the oldest
completes with a zero grant. A request that the log records as granted goes on waiting (R195). -/
def execPoolDrainTimeout (ctx : Nat) (s : State) : Res :=
  match oldestRsv s ctx with
  | none => .next s
  | some (g, o) => match o.kind with
    | .rsv _ total none =>
      if allBlocked s ctx && decide ((ctxOf s ctx).rsvSince + 4096 ≤ s.clock) && !raysFree s ctx total then
        .next (answerOldest s ctx g o false)
      else .next s
    | _ => .next s

/-! ## Any-hit decisions (R196) -/

/-- The decision of the active lanes; the last one stands. -/
def decideHit (ctr : BitVec 3) (ox : Option Ox) (d : AnyHit) (s : State) : Res :=
  rayStart ⟨ox, ctr.toNat, inAnyHit, [], [], none, 0xFF, 0⟩ (fun g c act =>
    retire s { g with decision := (lanesIn act).foldl (fun t l => tput t l d) g.decision } c) s

/-- ahit.accept (R196). -/
def execAhitAccept (ctr : BitVec 3) (ox : Option Ox) (s : State) : Res := decideHit ctr ox (.accept false) s

/-- ahit.accept.end (R196). -/
def execAhitAcceptEnd (ctr : BitVec 3) (ox : Option Ox) (s : State) : Res := decideHit ctr ox (.accept true) s

/-- ahit.ignore (R196). -/
def execAhitIgnore (ctr : BitVec 3) (ox : Option Ox) (s : State) : Res := decideHit ctr ox .ignore s

/-! ## The end of lanes (R184) -/

/-- epend (R184): as exit, and the episode's group may take another wave; in a handler it traps. -/
def execEpend (ctr : BitVec 3) (ox : Option Ox) (s : State) : Res :=
  rayStart ⟨ox, ctr.toNat, inEpisode, [], [], none, 0xFF, 0⟩ (fun g c _ =>
    if g.inHandler then wordTrap s g c 1
    else .next (settle s (setSlot { endClause s g c (nextHeader c) with byEpend := true } c.pcs emptySlot))) s

/-! ## Accumulation (R197) -/

/-- An accumulation of the run at D into the pixels given, from channel `first` up. -/
def accumulate (m : RayForm) (d : BitVec 7) (first : Nat) (pixel : Group → Nat → Nat) (s : State) : Res :=
  rayStart m (fun g c act =>
    let bad := rayPoison g m act
    let out := (act &&& ~~~bad) &&& maskOf fun l => decide (frameW s g.ctx * frameH s g.ctx ≤ pixel g l)
    let r := (lanesIn (act &&& ~~~bad &&& ~~~out)).foldl (fun (acc : State × Bool) l =>
      let x := addSamples acc.1 ⟨g.ctx, frameW s g.ctx, pixel g l, first, runWords g d 4 l, g.core, g.slot, s.nextId⟩
      (x.1, acc.2 && x.2)) (s, true)
    let fs := laneFaults 0x70 bad ++ laneFaults 1 out
    if r.2 then rayEnd r.1 g c 0xFF fs
    else rayEnd { r.1 with nextId := r.1.nextId + 1 }
      { incCnt g m.ctr with
        ops := g.ops ++ [⟨s.nextId, .accum, m.ctr, 0xFF, false, [], wordAddr c, c.pcs, c.idx + 1, c.hdr⟩] } c 0xFF fs) s

/-- The pixel of a lane's ray. -/
def rayPixel (s : State) (g : Group) (l : Nat) : Nat := (laneWord s g l 10).toNat

/-- accum (R197). -/
def execAccum (f : YD) (ox : Option Ox) (s : State) : Res :=
  accumulate ⟨ox, f.ctr.toNat, inEpisode, runFields f.d 4, [], none, 0xFF, 0⟩ f.d 0 (rayPixel s) s

/-- accum.px (R197). -/
def execAccumPx (f : YA) (ox : Option Ox) (s : State) : Res :=
  accumulate ⟨ox, f.ctr.toNat, inAny, f.a :: runFields f.d 4, [], none, 0xFF, 0⟩ f.d 0 (fun g l => (readV g f.a l).toNat) s

/-- accaux (R197). -/
def execAccaux (f : YD) (ox : Option Ox) (s : State) : Res :=
  accumulate ⟨ox, f.ctr.toNat, inEpisode, runFields f.d 4, [], none, 0xFF, 0⟩ f.d 4 (rayPixel s) s

/-- accaux.px (R197). -/
def execAccauxPx (f : YA) (ox : Option Ox) (s : State) : Res :=
  accumulate ⟨ox, f.ctr.toNat, inAny, f.a :: runFields f.d 4, [], none, 0xFF, 0⟩ f.d 4 (fun g l => (readV g f.a l).toNat) s

/-! ## Treelet prefetch and pool status (R198, R199) -/

/-- The slice that owns a treelet (R222). -/
def treeletSlice (t : Nat) : Nat := (List.range 11).foldl (fun a i => Nat.xor a (t / 8 ^ i % 8)) 0

/-- The treelets that have a place in a slice. -/
def sliceTreelets (s : State) (slice : Nat) : List Treelet := s.treelets.filter fun t => t.slice == slice && t.placed

/-- Whether a treelet's place is held: by a fetch that waits, or by a ray that traverses it (R224). -/
def treeletBusy (s : State) (t : Treelet) : Bool :=
  !t.ready || s.rays.any fun r => r.ctx == t.ctx && r.place == .traversal t.index &&
    ((r.gridIn s).map fun g => recTla g.recw == t.base).getD false

/-- Makes room for one treelet in a slice of 256: the least recently traversed goes (R224). -/
def roomForTreelet (s : State) (slice : Nat) : Option State :=
  if (sliceTreelets s slice).length < 256 then some s
  else match (sliceTreelets s slice).filter fun t => !treeletBusy s t with
    | [] => none
    | t :: ts =>
      let v := ts.foldl (fun v t => if t.used < v.used then t else v) t
      some { s with treelets := s.treelets.filter fun x => !(x.ctx == v.ctx && x.base == v.base && x.index == v.index) }

/-- A treelet of a scene as its slice knows it. -/
def treeletAt (s : State) (ctx base t : Nat) : Option Treelet :=
  s.treelets.find? fun x => x.ctx == ctx && x.base == base && x.index == t

/-- Rewrites a treelet. -/
def updTreelet (s : State) (ctx base t : Nat) (f : Treelet → Treelet) : State :=
  { s with treelets := s.treelets.map fun x => if x.ctx == ctx && x.base == base && x.index == t then f x else x }

/-- A fetch that waits takes a place, where its slice has one (R224). -/
def placeTreelet (s : State) (t : Treelet) : State :=
  if t.placed then s
  else match roomForTreelet s t.slice with
    | some s => updTreelet s t.ctx t.base t.index fun t => { t with placed := true }
    | none => s

/-- Begins the fetch of a treelet; it waits while its slice has no place (R223, R224). -/
def beginFetch (s : State) (ctx base t : Nat) : State :=
  if (treeletAt s ctx base t).isSome then s
  else
    let x : Treelet := ⟨ctx, base, t, treeletSlice t, [], false, false, none, s.clock⟩
    placeTreelet { s with treelets := s.treelets ++ [x] } x

/-- The pages of a treelet. -/
def treeletPages (base t : Nat) : List Nat := (List.range 4).map fun i => base + 16384 * t + 4096 * i

/-- tlpf in one lane: a treelet that cannot be reached is dropped. The hamlet that owns it translates its pages at once. -/
def tlpfLane (base : Nat) (g : Group) (s : State) (t : Nat) : State :=
  let tlb := hamTlb + treeletSlice t
  if (base + 16384 * t) % 16384 ≠ 0 ∨ 2 ^ 48 ≤ base + 16384 * t then s
  else
    let ok := (treeletPages base t).all fun va => match unitAccess s g.ctx tlb va 4096 .read with
      | .ok _ => true
      | .error _ => false
    let s := (treeletPages base t).foldl (fun s va => fillNow s g.ctx tlb va) s
    if ok then beginFetch s g.ctx base t else s

/-- tlpf (R198): it never faults; a poisoned source drops what it would request. -/
def execTlpf (f : YT) (ox : Option Ox) (s : State) : Res :=
  let m : RayForm := ⟨ox, f.ctr.toNat, inAny, [f.a], [], none, 0xFF, 0⟩
  rayStart m (fun g c act =>
    let base := bitsOf (sReg g f.k.toNat) 0 48
    let lanes := if tget g.sPoison f.k.toNat false then [] else lanesIn (act &&& ~~~rayPoison g m act)
    retire (lanes.foldl (fun s l => tlpfLane base g s (readV g f.a l).toNat) s) g c) s

/-- Whether a ray waits in a shading bin, and whether it waits for or is in traversal. -/
def Ray.shading (r : Ray) : Bool := match r.place with
  | .shadeBin _ _ _ => true
  | _ => false
def Ray.traversing (r : Ray) : Bool := match r.place with
  | .travBin _ => true
  | .traversal _ => true
  | _ => false

/-- The counts of a context (R199). -/
def poolCount (s : State) (g : Group) (k : Nat) : Nat :=
  let mine (p : Ray → Bool) : Nat := (s.rays.filter fun r => r.ctx == g.ctx && p r).length
  match k with
  | 0 => rayCapacity s g.ctx
  | 1 => raysUsed s g.ctx
  | 2 => raysReserved s g.ctx
  | 3 => rayCapacity s g.ctx - raysUsed s g.ctx - raysReserved s g.ctx
  | 4 => mine Ray.shading
  | 5 => mine Ray.traversing
  | 6 => (g.res.map Prod.snd).sum
  | _ => mine fun r => r.spilled.isSome

/-- poolst (R199). -/
def execPoolst (f : YS) (ox : Option Ox) (s : State) : Res :=
  rayStart ⟨ox, f.ctr.toNat, inAny, [], [], none, 0xFF, 0⟩ (fun g c _ =>
    retire s (setS g f.d.toNat (BitVec.ofNat 64 (poolCount s g f.k.toNat))) c) s

end Sys2Proof.Machine
end

