-- ==== Sys2Proof/Machine/Traverse.lean ====
section
/-!
DEFINITION. Treelet fetches (R222 to R225) and traversal (R217 to R221, R226 to R234).
-/

namespace Sys2Proof.Machine

/-! ## Treelet fetches (R223) -/

/-- The traversal bin of a treelet in a grid. -/
def travBinOf (s : State) (ctx grid t : Nat) : Option Bin :=
  s.bins.find? fun b => b.ctx == ctx && b.grid == grid && !b.shading && b.entry == t

/-- A ray goes to traversal of a treelet; a record that fails its check retires, one that has become degenerate goes to its
end, and one without a place on die waits (R210, R211, R223, R234). -/
def intoTraversal (t : Nat) (s : State) (r : Ray) : State := match onDie [] s r.id with
  | some s =>
    if (rayAt s r.id).any degenerate then enterTrav s r.id
    else updRay s r.id fun r => { r with place := .traversal t, since := s.clock }
  | none => s

/-- Rays of a bin go to traversal in the order they entered it. -/
def toTraversal (s : State) (b : Bin) : State := tidyBins ((binRays s b).foldl (intoTraversal b.entry) s)

/-- The bins of a context that wait for a treelet of a scene. -/
def binsFor (s : State) (ctx base t : Nat) : List Bin :=
  s.bins.filter fun b => b.ctx == ctx && !b.shading && b.entry == t &&
    ((gridOf s ctx b.grid).map fun g => recTla g.recw == base).getD false

/-- TREELET_FETCH_START (R223): the rays of a resident treelet go to traversal; the fetch of another starts once its bin
holds the threshold or has been made ready. While a context's pre-emption is complete its records stay where they are (R374,
R376). -/
def execTreeletFetchStart (ctx grid treelet : Nat) (s : State) : Res :=
  match travBinOf s ctx grid treelet, gridOf s ctx grid with
  | some b, some g =>
    let base := recTla g.recw
    if (ctxOf s ctx).drained then .next s
    else match treeletAt s ctx base treelet with
    | some t => if t.ready then .next (toTraversal s b) else .next s
    | none =>
      let thr := (ctxWord s ctx 0x084).toNat
      if b.ready || (thr != 0 && decide (thr ≤ (s.rays.filter b.holds).length)) then .next (beginFetch s ctx base treelet)
      else .next s
  | _, _ => .next s

/-- TREELET_AGE_EXPIRE (R223): the bin's oldest ray has waited 2,048 clocks. -/
def execTreeletAgeExpire (ctx grid treelet : Nat) (s : State) : Res :=
  match travBinOf s ctx grid treelet with
  | none => .next s
  | some b =>
    if (s.rays.filter b.holds).any fun r => decide (r.since + 2048 ≤ s.clock) then
      .next (makeReady s b)
    else .next s

/-- The TLBs through which a treelet's fetch reads: those of the hamlet that owns it (R223). -/
def treeletTlb (t : Treelet) : Nat := hamTlb + t.slice

/-- What a fetch finds of a page of a treelet. -/
def fetchPage (s : State) (t : Treelet) (va : Nat) : Xl := match unitXlat s t.ctx (treeletTlb t) va 4096 .read with
  | .ok leaf => if !leaf.dsc && anyPoison s (leaf.at va) 1024 then .fail 0x70 else .ok leaf
  | x => x

/-- The bytes of a page as a fetch reads them; a discarded page reads zeros. -/
def readPage (s : State) (t : Treelet) (cells : List Host.Cell) (i va : Nat) : List Host.Cell :=
  match fetchPage s t va with
  | .ok leaf =>
    if leaf.dsc then cells
    else (List.range 1024).foldl (fun m k => memPutWord m (4096 * i + 4 * k) 0xF (readAsEngine s (leaf.at va + 4 * k)).1) cells
  | _ => cells

/-- The rays that wait for a fetch retire with cause 3 (R221, R223). -/
def failFetch (s : State) (t : Treelet) : State :=
  let ids := ((binsFor s t.ctx t.base t.index).flatMap (binRays s)).map fun r => r.id
  let s := { s with treelets := s.treelets.filter fun x => !(x.ctx == t.ctx && x.base == t.base && x.index == t.index) }
  ids.foldl (fun s id => match rayAt s id with
    | some r => rayError s r 3
    | none => s) s

/-- A fetch that has read its four pages: the treelet is resident and its bins' rays go to traversal, unless the context's
pre-emption is complete. DESIGN CHOICE (log entry 141): the lines of all four pages are read in one turn. -/
def endFetch (s : State) (t : Treelet) : State :=
  let data := (treeletPages t.base t.index).zipIdx.foldl (fun m p => readPage s t m p.2 p.1) []
  let s := updTreelet s t.ctx t.base t.index fun x => { x with data := data, ready := true, used := s.clock }
  if (ctxOf s t.ctx).drained then s else (binsFor s t.ctx t.base t.index).foldl toTraversal s

/-- The fetch in progress that an event names: of the grid's scene, else of any scene of the context (R198). -/
def fetchNamed (s : State) (ctx grid treelet : Nat) : Option Treelet :=
  let own := (gridOf s ctx grid).bind fun g => treeletAt s ctx (recTla g.recw) treelet
  match own with
  | some t => if t.ready then none else some t
  | none => s.treelets.find? fun t => t.ctx == ctx && t.index == treelet && !t.ready

/-- The words that a fetch reads, where its pages are translated. -/
def treeletReads (s : State) (t : Treelet) : List Nat := (treeletPages t.base t.index).flatMap fun va =>
  match fetchPage s t va with
  | .ok leaf => if leaf.dsc then [] else (List.range 1024).map fun k => leaf.at va + 4 * k
  | _ => []

/-- A fetch with a place reads its pages: one that no TLB holds is walked first, an absent one is reported and waited for,
and any other fault retires the waiting rays. It snoops the host for host-biased lines first and waits (R286). -/
def runFetch (s : State) (t : Treelet) : State :=
  let ask (s : State) (va : Nat) : State := if fetchPage s t va = .miss then askWalk s t.ctx (treeletTlb t) va false else s
  let fault (va : Nat) : Option (Nat × Nat) := match fetchPage s t va with
    | .fail k => some (k, va)
    | _ => none
  let pages := treeletPages t.base t.index
  match pages.findSome? fault with
  | some (k, va) =>
    let s := unitTold s t.ctx (treeletTlb t) va
    if k = 0x20 then
      reportCtx (updTreelet s t.ctx t.base t.index fun x => { x with fault := some (va / 4096) }) t.ctx 0x09 0x20
        (va / 4096 * 4096) 0
    else failFetch (tellFault s t.ctx noCore none 0 k va) t
  | none =>
    if pages.any fun va => fetchPage s t va = .miss then pages.foldl ask s
    else (snoopFirst s (treeletReads s t)).getD (endFetch s t)

/-- TREELET_FETCH_COMPLETE (R223, R224): a fetch that has no place yet takes one if it can, and reads its pages. -/
def execTreeletFetchComplete (ctx grid treelet : Nat) (s : State) : Res :=
  match fetchNamed s ctx grid treelet with
  | none => .next s
  | some t =>
    if t.fault.isSome then .next s
    else
      let s := placeTreelet s t
      match treeletAt s ctx t.base t.index with
      | some t => .next (if t.placed then runFetch s t else s)
      | none => .next s

/-! ## Records of a treelet (R217 to R220) -/

/-- A word and a byte of a treelet. -/
def tlWord (d : List Host.Cell) (ofs : Nat) : Word := memWord d ofs
def tlByte (d : List Host.Cell) (ofs : Nat) : Nat := (memByte d ofs).toNat

/-- Whether words of a treelet are zero. -/
def tlZero (d : List Host.Cell) (ofs n : Nat) : Bool := (List.range n).all fun i => tlWord d (ofs + 4 * i) == 0

/-- Whether a child reference is sound (R218). -/
def refOk (w : Word) : Bool :=
  let x := w.toNat % 2 ^ 29
  let count := x / 2 ^ 25 + 1
  let ofs := x % 2 ^ 10
  match w.toNat / 2 ^ 29 with
  | 0 => x == 0
  | 1 => decide (x < 128)
  | 2 => x / 2 ^ 10 % 2 ^ 15 == 0 && decide (16 * ofs + 48 * count ≤ 16384)
  | 3 => x / 2 ^ 10 % 2 ^ 15 == 0 && ofs % 8 == 0 && decide (16 * ofs + 128 * count ≤ 16384)
  | 4 => true
  | _ => false

/-- Whether a node is sound (R217). -/
def nodeOk (d : List Host.Cell) (b : Nat) : Bool :=
  (List.range 3).all (fun a => tlByte d (b + 12 + a) != 128) && tlByte d (b + 15) == 0 && tlZero d (b + 96) 8 &&
  (List.range 8).all fun i => refOk (tlWord d (b + 64 + 4 * i))

/-- Whether an instance record is sound (R220). -/
def instOk (d : List Host.Cell) (b : Nat) : Bool :=
  let flg := (tlWord d (b + 0x40)).toNat
  tlWord d (b + 0x38) >>> 29 == 0 && decide (tlByte d (b + 0x3C) < 128) && decide (flg < 16) && flg % 4 != 3 && tlZero d (b + 0x44) 15

/-- What a child reference names. -/
def refItem (w : Word) (t : Nat) : Option TravWhat :=
  let x := w.toNat % 2 ^ 29
  match w.toNat / 2 ^ 29 with
  | 1 => some (.node t (x % 128))
  | 2 => some (.tris t (x % 2 ^ 10) (x / 2 ^ 25 + 1))
  | 3 => some (.insts t (x % 2 ^ 10) (x / 2 ^ 25 + 1))
  | 4 => some (.node x 0)
  | _ => none

/-! ## The ray in its space -/

/-- Origin and direction in the space of an entry. -/
def orgIn (r : Ray) (sp : Option InstSpace) : List Word := (sp.map fun i => i.o).getD r.org
def dirIn (r : Ray) (sp : Option InstSpace) : List Word := (sp.map fun i => i.d).getD r.dir

/-- The signed value of an exponent byte. -/
def expByte (d : List Host.Cell) (ofs : Nat) : Int := (memByte d ofs).toInt

/-- The interval of a child's box on an axis; an empty box is never entered (R217, R227). -/
def childSlab (d : List Host.Cell) (b i a : Nat) (o dir : List Word) : Option (Fp × Fp) :=
  let ql := tlByte d (b + 16 + 6 * i + a)
  let qh := tlByte d (b + 16 + 6 * i + 3 + a)
  let p := tlWord d (b + 4 * a)
  let e := expByte d (b + 12 + a)
  if ql ≤ qh then slab (boxEdge .dn p ql e) (boxEdge .up p qh e) (o.getD a 0) (dir.getD a 0) else none

/-- The children of a node that are entered, in the order in which they will be popped (R226, R227). -/
def nodeChildren (d : List Host.Cell) (t b : Nat) (r : Ray) (sp : Option InstSpace) : List TravItem :=
  if !((List.range 3).all fun a => finiteW (tlWord d (b + 4 * a))) then []
  else
    let entered := (List.range 8).filterMap fun i =>
      (refItem (tlWord d (b + 64 + 4 * i)) t).bind fun what =>
        (boxEntry ((List.range 3).map fun a => childSlab d b i a (orgIn r sp) (dirIn r sp)) (f32 (r.word 3)) (rayL r)).map
          fun dist => ((dist, i), (⟨what, some (fpWord dist), sp⟩ : TravItem))
    (entered.mergeSort fun x y => fpLt x.1.1 y.1.1 || (!fpLt y.1.1 x.1.1 && decide (x.1.2 ≤ y.1.2))).map Prod.snd

/-! ## Triangles (R229 to R231) -/

/-- The flags of the instance that a space belongs to: FOPQ 0, FNOPQ 1, NOCULL 2, FLIP 3. -/
def instFlag (sp : Option InstSpace) (i : Nat) : Bool := (sp.map fun x => x.flags.testBit i).getD false

/-- The hit of a triangle record, if the ray hits it (R229). -/
def triRecord (d : List Host.Cell) (b : Nat) (r : Ray) (sp : Option InstSpace) : Option Hit :=
  (triTest ((List.range 9).map fun i => tlWord d (b + 4 * i)) (orgIn r sp) (dirIn r sp)).bind fun h =>
    let back := h.back != instFlag sp 3
    let culled := !instFlag sp 2 && (if back then r.flag 3 else r.flag 4)
    if fpLe (f32 (r.word 3)) (f32 h.t) && fpLe (f32 h.t) (f32 (r.word 7)) && !culled then
      some ⟨h.t, h.u, h.v, tlWord d (b + 0x24), tlWord d (b + 0x28), (sp.map fun x => x.inst).getD 0xFFFFFFFF, back,
        (sp.map fun x => x.iusr).getD 0, (sp.map fun x => x.hbase).getD 0⟩
    else none

/-- The key of a hit (R230). -/
def Hit.key (h : Hit) : List Nat := [h.inst.toNat, h.geom.toNat, h.prim.toNat]

/-- Whether a hit beats the committed one (R230). -/
def beats (r : Ray) (h : Hit) : Bool := match r.trav.hit with
  | none => true
  | some c => fpLt (f32 h.t) (f32 c.t) || (!fpLt (f32 c.t) (f32 h.t) && !rankLe c.key h.key)

/-- Whether a candidate is opaque, but for its hit-group entry (R231). -/
def opaqueCand (d : List Host.Cell) (b : Nat) (r : Ray) (sp : Option InstSpace) : Bool :=
  if r.flag 0 then true
  else if r.flag 1 then false
  else if instFlag sp 0 then true
  else if instFlag sp 1 then false
  else (tlWord d (b + 0x2C)).getLsbD 0

/-- Commits a hit; with FIRST set the traversal ends (R231). -/
def commitHit (r : Ray) (h : Hit) (fin : Bool) : Ray :=
  { r with trav := ⟨if fin || r.flag 2 then [] else r.trav.stack, some h, none⟩ }

/-! ## Steps (R226) -/

/-- What a step of traversal leads to: it goes on; the ray leaves the treelet or ends; a ray error; an any-hit episode. -/
inductive TravOut where
  | go (r : Ray)
  | out (r : Ray)
  | err (cause : Nat)
  | shade (r : Ray) (entry : Nat)

/-- Replaces the entries still to be popped. -/
def withStack (r : Ray) (st : List TravItem) : Ray := { r with trav := { r.trav with stack := st } }

/-- What is left of a run, before other entries. -/
def restOf (what : TravWhat) (n : Nat) (sp : Option InstSpace) (rest : List TravItem) : List TravItem :=
  if n = 0 then rest else ⟨what, none, sp⟩ :: rest

/-- A candidate that is not opaque: its hit-group entry names the any-hit entry, if any (R221, R231). -/
def anyHitStep (s : State) (r : Ray) (h : Hit) : TravOut := match entryOf s r (hitEntry r h) with
  | none => .err 4
  | some e =>
    if entKind e ≠ 1 then .err 4
    else if entAhe e = 0xFFFF then .go (commitHit r h false)
    else match entryOf s r (entAhe e) with
      | some a => if entKind a = 3 then .shade { r with trav := { r.trav with cand := some h } } (entAhe e) else .err 4
      | none => .err 4

/-- One triangle of a run. -/
def triStep (s : State) (d : List Host.Cell) (r : Ray) (t ofs count : Nat) (sp : Option InstSpace) (rest : List TravItem) : TravOut :=
  let b := 16 * ofs
  if tlWord d (b + 0x2C) >>> 1 ≠ 0 then .err 1
  else
    let r := withStack r (restOf (.tris t (ofs + 3) (count - 1)) (count - 1) sp rest)
    match triRecord d b r sp with
    | none => .go r
    | some h =>
      if !beats r h then .go r
      else if opaqueCand d b r sp then .go (commitHit r h false)
      else anyHitStep s r h

/-- One instance of a run; every record of the run is checked (R220, R221, R228). -/
def instStep (d : List Host.Cell) (r : Ray) (t ofs count : Nat) (sp : Option InstSpace) (rest : List TravItem) : TravOut :=
  if sp.isSome || !((List.range count).all fun i => instOk d (16 * ofs + 128 * i)) then .err 2
  else
    let b := 16 * ofs
    let rest := restOf (.insts t (ofs + 8) (count - 1)) (count - 1) none rest
    if tlByte d (b + 0x3D) &&& (r.word 8).toNat / 2 ^ 24 = 0 then .go (withStack r rest)
    else match xformRay (fun i => tlWord d (b + 4 * i)) r.org r.dir with
      | none => .go (withStack r rest)
      | some (o, dir) =>
        let x : InstSpace := ⟨o, dir, tlWord d (b + 0x30), tlWord d (b + 0x34), tlByte d (b + 0x3E) + 256 * tlByte d (b + 0x3F),
          (tlWord d (b + 0x40)).toNat⟩
        .go (withStack r (⟨.node (tlWord d (b + 0x38)).toNat (tlByte d (b + 0x3C)), none, some x⟩ :: rest))

/-- One entry of a traversal within treelet `t`. -/
def travStep (s : State) (d : List Host.Cell) (t : Nat) (r : Ray) : TravOut := match r.trav.stack with
  | [] => .out r
  | e :: rest =>
    if beyondL r e then .go (withStack r rest)
    else if e.what.treelet ≠ t then .out r
    else match e.what with
      | .node _ line =>
        if nodeOk d (128 * line) then .go (withStack r (nodeChildren d t (128 * line) r e.space ++ rest)) else .err 1
      | .tris _ ofs count => triStep s d r t ofs count e.space rest
      | .insts _ ofs count => instStep d r t ofs count e.space rest

/-- Steps of traversal, as many as fuel allows. -/
def travRun (s : State) (d : List Host.Cell) (t : Nat) : Nat → Ray → TravOut
  | 0, r => .go r
  | fuel + 1, r => match travStep s d t r with
    | .go r => travRun s d t fuel r
    | o => o

/-- Puts a ray's traversal state back. -/
def saveTrav (s : State) (r : Ray) : State := updRay s r.id fun x => { x with trav := r.trav }

/-- TRAVERSE (R226): a ray in traversal works through the entries of its treelet. A traversal longer than one turn's
steps goes on in the next. -/
def execTraverse (ray : Nat) (s : State) : Res :=
  match rayAt s ray with
  | none => .next s
  | some r => match r.place with
    | .traversal t =>
      let base := ((r.gridIn s).map fun g => recTla g.recw).getD 0
      match treeletAt s r.ctx base t with
      | none => .next (moveRay s ray (.travBin t))
      | some tl =>
        let s1 := updTreelet s r.ctx base t fun x => { x with used := s.clock }
        match travRun s1 tl.data t 4096 r with
        | .go r => .next (saveTrav s1 r)
        | .out r => .next (resumeRay (saveTrav s1 r) r)
        | .err cause => .next (rayError s1 r cause)
        | .shade r entry => .next (enterShade (saveTrav s1 r) r entry)
    | _ => .next s

/-- The end of a ray's any-hit episode (R196, R231): its decision, then its traversal goes on. -/
def continueRay (s : State) (r : Ray) (d : AnyHit) : State :=
  let r := match d, r.trav.cand with
    | .accept fin, some h => commitHit r h fin
    | _, _ => { r with trav := { r.trav with cand := none } }
  resumeRay (saveTrav s r) r

end Sys2Proof.Machine
end

