-- ==== Sys2Proof/Machine/Sorter.lean ====
section
/-!
DEFINITION. Episodes and waves (R182, R185, R212 to R216): the end of an episode, waiting groups, ready bins, and the
dispatch of waves.
-/

namespace Sys2Proof.Machine

/-! ## The end of an episode (R185) -/

/-- The payload of a lane as its registers stand, with poison (R185). -/
def payloadOf (g : Group) (l : Nat) : List Word := (List.range 16).map fun i => lane (vReg g i) l
def payloadPoison (g : Group) (l : Nat) : BitVec 16 := BitVec.ofNat 16 (bitsBelow (fun i => (tget g.vPoison i 0).getLsbD l) 16)

/-- What a lane's ray does at the end of its episode; a lane that chose nothing retires, or continues in an anyhit one. -/
def dispOf (g : Group) (l : Nat) : Disposition := tget g.disp l (if g.kind = .anyhit then .continue else .retire)

/-- One ray at the end of its episode: its payload, then its disposition. -/
def disposeRay (g : Group) (s : State) (e : Nat × Nat) : State :=
  let s := updRay s e.2 fun r => { r with payload := payloadOf g e.1, payPoison := payloadPoison g e.1 }
  match rayAt s e.2 with
  | none => s
  | some r => match dispOf g e.1 with
    | .trace => enterTrav s e.2
    | .continue => continueRay s r (tget g.decision e.1 (.accept false))
    | .retire => retireRay s e.2

/-- A group that waits for its next wave (R185, R27). -/
def waitWave (s : State) (g : Group) : Group :=
  { g with
    rays := []
    disp := []
    decision := []
    res := []
    spawns := []
    queues := []
    waitingSince := some s.clock }

/-- Whether a context is being pre-empted (R374). -/
def preempted (s : State) (ctx : Nat) : Bool := (ctxOf s ctx).preempt

/-- Payloads that take poisoned data with them are reported (R126). -/
def tellPayload (s : State) (g : Group) : State :=
  if g.rays.any fun e => payloadPoison g e.1 ≠ 0 then reportGroup s g 0x0E 0x70 0 else s

/-- EPISODE_END (R185): payloads, dispositions, reservations, queue registers; then the group waits or ends. -/
def execEpisodeEnd (core slot : Nat) (s : State) : Res :=
  match groupAt s core slot with
  | none => .next s
  | some g =>
    if groupDone s g && isEpisode g && g.waitingSince.isNone then
      let s1 := g.rays.foldl (disposeRay g) (closeReds (tellPayload s g) g)
      let s2 := freeQueues (updCtx s1 g.ctx fun c => { c with rsvSince := s.clock }) core slot fun _ => true
      if g.byEpend && !preempted s g.ctx then .next (setGroup s2 (waitWave s g)) else .next (dropGroup s2 g)
    else .next s

/-- WAIT_GROUP_TIMEOUT (R185): a waiting group ends after 2,048 clocks, or when its context begins pre-emption. -/
def execWaitGroupTimeout (core slot : Nat) (s : State) : Res :=
  match groupAt s core slot with
  | none => .next s
  | some g => match g.waitingSince with
    | none => .next s
    | some t => if t + 2048 ≤ s.clock ∨ preempted s g.ctx then .next (dropGroup s g) else .next s

/-! ## Ready bins (R214, R215) -/

/-- BIN_AGE_READY (R214): a shading bin whose oldest ray has waited 2,048 clocks; replay has its own order. -/
def execBinAgeReady (idx : Nat) (s : State) : Res :=
  match s.bins[idx]? with
  | none => .next s
  | some b =>
    if b.shading && logMode s b.ctx != 2 && (s.rays.filter b.holds).any fun r => decide (r.since + 2048 ≤ s.clock) then
      .next (makeReady s b)
    else .next s

/-- Whether a shading bin is ready. -/
def binReady (s : State) (b : Bin) : Bool :=
  b.shading && logMode s b.ctx != 2 && (b.ready || decide (128 ≤ (s.rays.filter b.holds).length))

/-- A wave that may be dispatched: its grid, its shader-table entry, its rays, and for a replay its record and whether the
rays stood in one bin of the entry. -/
structure Wave where
  ctx : Nat
  grid : Nat
  entry : Nat
  rays : List Nat
  record : Option LRec
  same : Bool

/-- The rank of a wave: the class of its grid, then the age of its oldest ray (R215). -/
def waveRank (s : State) (w : Wave) : List Nat :=
  [((gridOf s w.ctx w.grid).map fun g => g.cls).getD 4,
   ((s.rays.filter fun r => w.rays.contains r.id).map fun r => r.since).foldl min s.clock]

/-- The waves of the ready bins: the 128 oldest rays of each. -/
def readyWaves (s : State) : List Wave :=
  (s.bins.filter (binReady s)).map fun b => ⟨b.ctx, b.grid, b.entry, ((binRays s b).take 128).map fun r => r.id, none, true⟩

/-- The rays that a WAVE record names by their identities, if each has entered a shading bin: of rays with one identity
those created first (R214, R340). `taken` are the rays of the lanes before. -/
def recordedFrom (s : State) (ctx grid : Nat) : List DWord → List Ray → Option (List Ray)
  | [], taken => some taken
  | rid :: rids, taken =>
    match s.rays.find? fun x => x.ctx == ctx && x.grid == grid && x.rid == rid && !(taken.any fun y => y.id == x.id) with
    | some x => if x.shading && hasBin s x then recordedFrom s ctx grid rids (taken ++ [x]) else none
    | none => none

/-- The rays of a WAVE record. -/
def recordedRays (s : State) (ctx : Nat) (r : LRec) : Option (List Ray) :=
  recordedFrom s ctx (bitsOf (r.word 1) 32 32) ((List.range (bitsOf (r.word 2) 16 8)).map fun l => r.word (4 + l)) []

/-- The next recorded wave of each entry, where all its rays wait (R214, R216). -/
def replayWaves (s : State) (ctx : Nat) : List Wave :=
  let recs := (replayRecs s ctx).filter fun r => r.type == 5 && recSane r && unmatched s ctx r && r.dev == (s.devId == 1)
  let entry (r : LRec) : Nat := bitsOf (r.word 2) 0 16
  let first := recs.filter fun r => (recs.find? fun x => entry x == entry r && x.word 1 == r.word 1) == some r
  first.filterMap fun r => (recordedRays s ctx r).map fun xs =>
    ⟨ctx, bitsOf (r.word 1) 32 32, entry r, xs.map fun x => x.id, some r,
      match xs with
      | [] => true
      | x :: _ => s.bins.any fun b => b.holds x && b.entry == entry r && xs.all fun y => b.holds y⟩

/-- The waves that may be dispatched, in their order. -/
def allWaves (s : State) : List Wave :=
  let replaying := (s.ctxs.map Prod.fst).filter fun c => logMode s c == 2
  ((readyWaves s ++ replaying.flatMap (replayWaves s)).filter fun w => launches s w.ctx).mergeSort fun a b =>
    rankLe (waveRank s a) (waveRank s b)

/-! ## Dispatch (R182, R215) -/

/-- A place for a wave of an entry at `addr` with `regs` registers: a waiting group, else a free slot of the core with the
most free slots (R185, R215). -/
def wavePlace (s : State) (ctx addr regs : Nat) : Option (Nat × Nat) :=
  let spare (core have_ : Nat) : Bool := decide ((regs - have_) / 4 + granulesAsked s core ≤ granulesFree s core || regs ≤ have_)
  let waiting := s.groups.filter fun g => g.ctx == ctx && g.waitingSince.isSome && g.entry == addr && spare g.core g.regAlloc
  match waiting with
  | g :: gs =>
    let b := gs.foldl (fun b g => if rankLe [b.core, b.slot] [g.core, g.slot] then b else g) g
    some (b.core, b.slot)
  | [] =>
    let cores := (List.range 96).filter fun c => coreReady s c && decide ((coreGroups s c).length < 96) &&
      decide (regs / 4 + granulesAsked s c ≤ granulesFree s c)
    match cores with
    | [] => none
    | c :: cs =>
      let b := cs.foldl (fun b c => if (coreGroups s c).length < (coreGroups s b).length then c else b) c
      some (b, nextSlot s b [])

/-- The kind of group of a shader-table entry. -/
def kindOfEntry (e : DWord × DWord) : GroupKind := match entKind e with
  | 0 => .gen
  | 1 => .hit
  | 2 => .miss
  | _ => .anyhit

/-- The group of an episode as it starts (R11, R21, R69, R182). DESIGN CHOICE, log entry 118: in a lane that received no
ray, v0 to v15 read zero and SRSEED is 1, for which the spec gives no value. -/
def episodeGroup (s : State) (gr : Grid) (core slot entry seq : Nat) (e : DWord × DWord) (rays : List Ray) : Group :=
  let r := gr.recw
  let id := gr.id.getD 0
  let mask : Mask := maskOf fun l => decide (l < rays.length)
  let addr := recEntry r + 16 * entry
  let payload (i l : Nat) : Word := ((rays[l]?).map fun x => x.payload.getD i 0).getD 0
  { freshGroup core slot gr.ctx id gr.cls (entRegs e) (kindOfEntry e) (entCode e) mask (recSplit r) (recSpb r) s.clock with
    splitMax := entSplit e
    v := (List.range 16).map fun i => (i, perLane (payload i))
    vPoison := (List.range 16).map fun i => (i, maskOf fun l => ((rays[l]?).map fun x => x.payPoison.getLsbD i).getD false)
    s := [(0, BitVec.ofNat 64 (bitsOf (r.getD 1 0) 0 48)), (1, BitVec.ofNat 64 addr)]
    fpctl := BitVec.ofNat 32 (entFp e)
    srseed := perLane fun l => match rays[l]? with
      | some x => mix32 (mix32 (BitVec.ofNat 32 id) (x.word 10)) (x.word 11)
      | none => 1
    rays := rays.zipIdx.map fun x => (x.2, x.1.id)
    waveSeq := seq
    entry := addr }

/-- A waiting group takes a wave: its trap registers stay as the last trap left them (R17), and so does a halt (R377). -/
def takeOver (g old : Group) : Group :=
  { g with
    trapPc := old.trapPc
    trapCause := old.trapCause
    trapMask := old.trapMask
    trapAddr := old.trapAddr
    trapDst := old.trapDst
    halted := old.halted }

/-- The SEQ that names a wave: of its record, or its number in its grid while nothing is logged (R339). -/
def waveSeqOf (s : State) (gr : Grid) (w : Wave) : Nat := match w.record with
  | some r => r.seq
  | none => if logMode s w.ctx = 1 then logSeqOf s w.ctx else gr.waves

/-- The words of a WAVE record after word 1 (R341). -/
def waveWords (entry : Nat) (rays : List Ray) : List DWord :=
  [BitVec.ofNat 64 (entry + rays.length * 2 ^ 16), 0] ++ rays.map fun r => r.rid

/-- The records of a wave's rays on die, if they have their places there; those that fail their check retire (R210,
R211). -/
def waveOnDie (s : State) (w : Wave) : Option (State × List Ray) :=
  (w.rays.foldlM (onDie w.rays) s).map fun s => (s, w.rays.filterMap (rayAt s))

/-- A wave takes its place: its group starts and its rays are in the episode. -/
def startWave (s : State) (gr : Grid) (w : Wave) (e : DWord × DWord) (rays : List Ray) (core slot : Nat) : State :=
  let fresh := { episodeGroup s gr core slot w.entry (waveSeqOf s gr w) e rays with
    diverged := if w.same then none else some (divergeAddr w.record) }
  let g := match groupAt s core slot with
    | some old => takeOver fresh old
    | none => fresh
  let s := leaveJobs s core slot
  let s1 := if logMode s w.ctx = 1 then
      unstall (logWrite s w.ctx 0x05 (agentWord w.grid) (waveWords w.entry rays)) w.ctx (stallSorter w.grid w.entry)
    else match w.record with
      | some r => matchRec s w.ctx r
      | none => s
  let bin := rays.head?.bind fun r => s1.bins.find? fun b => b.holds r
  let s2 := { s1 with
    groups := (s1.groups.filter fun h => !(h.core == core && h.slot == slot)) ++ [g]
    bins := s1.bins.map fun b => if some b == bin then { b with ready := false } else b }
  let s3 := rays.zipIdx.foldl (fun s r => updRay s r.1.id fun x => { x with place := .episode core slot r.2 }) s2
  let s4 := updGrid s3 gr.key fun g => { g with waves := g.waves + 1, cores := (core :: g.cores).dedup }
  tidyBins s4

/-- Dispatches the first wave that has a place; behind a wave whose record has no room in the log none of its context is
dispatched (R344). -/
def dispatchFirst : List Wave → State → State
  | [], s => s
  | w :: ws, s =>
    match gridOf s w.ctx w.grid, waveOnDie s w with
    | some gr, some (s1, rays) => match gr.ents[w.entry]? with
      | none => divergeUnit (meetBad s w.ctx) w.ctx
      | some e =>
        if rays.isEmpty then s1
        else if behindStall s w.ctx (stallSorter w.grid w.entry) then dispatchFirst ws s
        else if logMode s w.ctx = 1 && !logReady s w.ctx (2 + rays.length) then
          dispatchFirst ws (stallAt s w.ctx (stallSorter w.grid w.entry))
        else match wavePlace s w.ctx (recEntry gr.recw + 16 * w.entry) (entRegs e) with
          | some (core, slot) => startWave s1 gr w e rays core slot
          | none => dispatchFirst ws s
    | _, _ => dispatchFirst ws s

/-- WAVE_DISPATCH (R214, R215): the first ready wave that finds a place is formed and dispatched. -/
def execWaveDispatch (s : State) : Res :=
  .next (dispatchFirst (allWaves s) (keepStalls s 3 fun ctx code =>
    (allWaves s).any fun w => w.ctx == ctx && code == stallSorter w.grid w.entry))

end Sys2Proof.Machine
end

