-- ==== Sys2Proof/Machine/Commands.lean ====
section
/-!
DEFINITION. Commands that set up a context: CTXCREATE, the parts of SETCTX (R209, R235, R289, R290, R337, R338), INVAL
(R283, R284) and VERDICT (R373).
-/

namespace Sys2Proof.Machine

/-! ## Creation (R22, R289) -/

/-- A context's block reads its reset values again. -/
def clearBlock (s : State) (ctx : Nat) : State :=
  { s with bar := s.bar.filter fun e => !(decide (ctxBlock ctx ≤ 4 * e.1) && decide (4 * e.1 < ctxBlock ctx + 1024)) }

/-- CTXCREATE (R22, R289): a context that is not live becomes live, with every setting at its reset value. -/
def execCtxcreate (s : State) : Res :=
  onCode 0x01 s fun s c =>
    if (ctxOf s c.ctx).live then finishCmd s c 5 0
    else finishCmd (updCtx (clearBlock s c.ctx) c.ctx fun _ => { noCtx with live := true }) c 0 0

/-! ## SETCTX (R290) -/

/-- The words of a part, by its bit in the PART mask. -/
def partWords (bit : Nat) : List Nat :=
  let run (lo n : Nat) : List Nat := (List.range n).map fun i => lo + 4 * i
  match bit with
  | 0 => run 0x000 2
  | 1 => run 0x008 4
  | 2 => run 0x020 8 ++ run 0x040 16
  | 3 => run 0x080 10
  | 4 => run 0x0A8 2
  | 5 => run 0x0B0 8
  | _ => run 0x018 2

/-- A word, and a 64-bit setting, as staged in a context's block. -/
def staged (s : State) (ctx off : Nat) : Word := barWord s (ctxBlock ctx + off)
def stagedD (s : State) (ctx off : Nat) : DWord := joinWords (staged s ctx off) (staged s ctx (off + 4))

/-- TRANS: a home of 0 or 2, and zero outside the fields. -/
def transOk (s : State) (ctx : Nat) : Bool :=
  let r := stagedD s ctx 0x000
  bitsOf r 0 12 == 0 && bitsOf r 52 8 == 0 && (bitsOf r 60 2 == 0 || bitsOf r 60 2 == 2) && bitsOf r 62 2 == 0

/-- Whether a context has a resident team or episode group. -/
def hasWork (s : State) (ctx : Nat) : Bool := (s.groups.any fun g => g.ctx == ctx) || s.teams.any fun t => t.ctx == ctx

/-- TRAP: no resident work; the alignments of R28 and R23. -/
def trapOk (s : State) (ctx : Nat) : Bool :=
  !hasWork s ctx && bitsOf (stagedD s ctx 0x008) 0 2 == 0 && bitsOf (stagedD s ctx 0x010) 0 12 == 0

/-- Whether a context has work that a change of its log would disturb (R337): a resident group, a ray, an engine command, or
a launch record not yet taken. -/
def logBusy (s : State) (ctx : Nat) : Bool :=
  hasWork s ctx || (s.rays.any fun r => r.ctx == ctx) || (s.engines.any fun e => e.2.any fun c => c.ctx == ctx) ||
  (List.range 32).any fun q => qCtx s q == some ctx && qWr s q != qRd s q

/-- Whether the staged log settings differ from the active ones. -/
def logChanges (s : State) (ctx : Nat) : Bool := (partWords 2).any fun o => staged s ctx o != ctxWord s ctx o

/-- Whether the "—" fields of the log part are zero (R290, R338). -/
def logZero (s : State) (ctx : Nat) : Bool :=
  (List.range 7).all (fun i => staged s ctx (0x24 + 4 * i) == 0) && bitsOf (stagedD s ctx 0x040) 54 10 == 0 &&
  (staged s ctx 0x058).toNat / 2 ^ 11 == 0 && bitsOf (stagedD s ctx 0x060) 52 12 == 0 &&
  (List.range 6).all fun i => staged s ctx (0x68 + 4 * i) == 0

/-- LOG (R337, R338, R382): mode 0 uses no ring; modes 1 and 2 need the log, a ring of 2^16 to 2^36 bytes and a variable
area. -/
def logOk (s : State) (ctx : Nat) : Bool :=
  let mode := (staged s ctx 0x020).toNat
  let lb := stagedD s ctx 0x040
  let vb := stagedD s ctx 0x060
  decide (mode < 3) && logZero s ctx && !(logChanges s ctx && logBusy s ctx) &&
  (mode == 0 || (s.ready.getLsbD 36 && decide (16 ≤ bitsOf lb 48 6) && decide (bitsOf lb 48 6 ≤ 36) && bitsOf lb 0 12 == 0 &&
    bitsOf vb 0 12 == 0 && bitsOf vb 0 48 != 0))

/-- The shares of the other contexts. -/
def otherShares (s : State) (ctx : Nat) : Nat :=
  ((List.range 64).map fun c => if c = ctx then 0 else (ctxWord s c 0x080).toNat).sum

/-- Whether a context's records have all been moved to its spill region, so that its share may be 0 (R376). -/
def allSaved (s : State) (ctx : Nat) : Bool := (ctxOf s ctx).drained && raysOnDie s ctx == 0

/-- RAY (R209, R212, R223). -/
def rayOk (s : State) (ctx : Nat) : Bool :=
  let share := (staged s ctx 0x080).toNat
  let base := stagedD s ctx 0x088
  let size := (stagedD s ctx 0x090).toNat
  let cexp := (staged s ctx 0x0A4).toNat
  share % 16 == 0 && decide (share + otherShares s ctx ≤ Config.poolRecords) && decide ((staged s ctx 0x084).toNat ≤ 65535) &&
  bitsOf base 0 21 == 0 && bitsOf base 52 12 == 0 && size % 2 ^ 21 == 0 && decide (size ≤ 2 ^ 36) &&
  decide (base.toNat + size ≤ Config.localEnd) && (size == 0 || decide (128 ≤ share) || (share == 0 && allSaved s ctx)) &&
  decide (cexp < 256) && cexp != 128 && cexp != 129

/-- PFX: with PTHR = 0 the prefetcher is off. -/
def pfxOk (s : State) (ctx : Nat) : Bool :=
  let blk := (staged s ctx 0x0A8).toNat
  let thr := (staged s ctx 0x0AC).toNat
  decide (thr ≤ 16) && (thr == 0 || (decide (16 ≤ blk) && decide (blk ≤ 29)))

/-- FRAME (R235). -/
def frameOk (s : State) (ctx : Nat) : Bool :=
  let w := (staged s ctx 0x0B0).toNat
  let img := stagedD s ctx 0x0B8
  let mrk := stagedD s ctx 0x0C0
  let res := stagedD s ctx 0x0C8
  w % 2 ^ 16 != 0 && w / 2 ^ 16 != 0 && staged s ctx 0x0B4 == 0 && bitsOf img 0 6 == 0 && bitsOf mrk 0 1 == 0 &&
  bitsOf res 0 5 == 0 && bitsOf img 48 16 == 0 && bitsOf mrk 48 16 == 0 && bitsOf res 48 16 == 0

/-- DBG: only bit 0 of DBGEN may be set. -/
def dbgOk (s : State) (ctx : Nat) : Bool := bitsOf (stagedD s ctx 0x018) 1 63 == 0

/-- The check of a part. -/
def partOk (s : State) (ctx : Nat) : Nat → Bool
  | 0 => transOk s ctx
  | 1 => trapOk s ctx
  | 2 => logOk s ctx
  | 3 => rayOk s ctx
  | 4 => pfxOk s ctx
  | 5 => frameOk s ctx
  | _ => dbgOk s ctx

/-- What the device itself sets as a changed log part takes effect: STAT is clear, a replay stands at its start, and a
recording that starts with an empty ring counts its records from 0, with every frontier 0; neither knows of a release
before it, nor of a run that another recording has left open (R338, R339, R342, R345, R346). -/
def startLog (s : State) (ctx : Nat) : State :=
  let s := { putCtx (putCtx s ctx 0x05C 0) ctx 0x050 (ctxWord s ctx 0x04C) with runs := s.runs.filter fun r => r.ctx != ctx }
  let fresh := logMode s ctx = 2 ∨ (logMode s ctx = 1 ∧ logHead s ctx = logTail s ctx)
  let s := updCtx s ctx fun c =>
    { c with stopped := false, matched := [], stalls := [], irqArmed := true, logSeq := if fresh then 0 else c.logSeq,
             var := if fresh then [] else c.var }
  let s := if fresh then
      { s with frontier := [], syncTab := s.syncTab.map fun e => if e.ctx = ctx then { e with lastRel := none, obs := 0 } else e }
    else s
  if logMode s ctx = 2 ∧ logHead s ctx = logTail s ctx then setStat s ctx 2 true else s

/-- A part that passes becomes active. -/
def applyPart (s : State) (ctx bit : Nat) : State :=
  let changed := bit == 2 && logChanges s ctx
  let s := (partWords bit).foldl (fun s o => putCtx s ctx o (staged s ctx o)) s
  if changed then startLog s ctx else s

/-- A part that is rejected reads its active settings again. -/
def rejectPart (s : State) (ctx bit : Nat) : State :=
  (partWords bit).foldl (fun s o => putBar s (ctxBlock ctx + o) (ctxWord s ctx o)) s

/-- Rewrites a running command. -/
def putCmd (s : State) (old new : HostCmd) : State := { s with cmds := s.cmds.map fun c => if c == old then new else c }

/-- Carries out a part of a SETCTX that runs; with its last part the command ends. -/
def runPart (bit : Nat) (s : State) (c : HostCmd) : State :=
  let ok := partOk s c.ctx bit
  let s1 := if ok then applyPart s c.ctx bit else rejectPart s c.ctx bit
  let c1 := { c with todo := c.todo - 2 ^ bit, bad := if ok then c.bad else c.bad + 2 ^ bit }
  if c1.todo = 0 then finishCmd (putCmd s1 c c1) c1 (if c1.bad = 0 then 0 else 1) c1.bad else putCmd s1 c c1

/-- Whether a command is a SETCTX with a part still to be done. -/
def hasPart (bit : Nat) (c : HostCmd) : Bool := c.code == 3 && c.todo.testBit bit

/-- One part of a SETCTX: of one that runs, else of the one at the ring's head. -/
def setctx (bit : Nat) (s : State) : Res :=
  match s.cmds.find? (hasPart bit) with
  | some c => .next (runPart bit s c)
  | none => takeCmd s (fun _ c => hasPart bit c) (runPart bit)

/-- SETCTX_TRANS (R290). -/
def execSetctxTrans (s : State) : Res := setctx 0 s

/-- SETCTX_TRAP (R290). -/
def execSetctxTrap (s : State) : Res := setctx 1 s

/-- SETCTX_LOG (R337, R338). -/
def execSetctxLog (s : State) : Res := setctx 2 s

/-- SETCTX_RAY (R209). -/
def execSetctxRay (s : State) : Res := setctx 3 s

/-- SETCTX_PFX (R290). -/
def execSetctxPfx (s : State) : Res := setctx 4 s

/-- SETCTX_FRAME (R235). -/
def execSetctxFrame (s : State) : Res := setctx 5 s

/-- SETCTX_DBG (R290). -/
def execSetctxDbg (s : State) : Res := setctx 6 s

/-! ## INVAL (R283) -/

/-- Base and length of an invalidation. -/
def invalBase (c : HostCmd) : Nat := (c.arg 1).toNat
def invalLen (c : HostCmd) : Nat := (c.arg 2).toNat

/-- Whether an invalidation's range keeps the rule. -/
def invalOk (c : HostCmd) : Bool :=
  invalBase c % 4096 == 0 && invalLen c % 4096 == 0 && decide (4096 ≤ invalLen c) && decide (invalLen c ≤ 2 ^ 48)

/-- Whether an entry of a context overlaps a range. -/
def TlbEntry.overlaps (e : TlbEntry) (ctx base len : Nat) : Bool :=
  e.ctx == ctx && decide (e.leaf.vbase < base + len) && decide (base < e.leaf.vbase + e.leaf.size)

/-- Whether a walk is of a page in a range. -/
def WalkReq.within (r : WalkReq) (ctx base len : Nat) : Bool :=
  r.ctx == ctx && decide (base ≤ r.page * 4096) && decide (r.page * 4096 < base + len)

/-- The base and size of every entry of a context that overlaps a range, in any TLB. -/
def overlapping (s : State) (ctx base len : Nat) : List (Nat × Nat) :=
  let each (t : Tbl (List TlbEntry)) : List TlbEntry := t.flatMap Prod.snd
  ((each s.coreTlb ++ each s.hamletTlb ++ each s.aheadTlb ++ s.devTlb).filter fun e => e.overlaps ctx base len).map fun e =>
    (e.leaf.vbase, e.leaf.size)

/-- Removes the entries of a context that overlap a range from every TLB, and what the streams of quadrants have taken of
them; walks of the range in progress begin afresh. -/
def dropTranslations (s : State) (ctx base len : Nat) : State :=
  let keep (t : List TlbEntry) : List TlbEntry := t.filter fun e => !e.overlaps ctx base len
  let each (t : Tbl (List TlbEntry)) : Tbl (List TlbEntry) := t.map fun e => (e.1, keep e.2)
  let again (h : Nat) : List WalkReq := (tget s.walking h []).filter fun r => r.within ctx base len
  let stream (j : QuadJob) : QuadJob :=
    { j with leaves := j.leaves.filter fun l => !(TlbEntry.overlaps ⟨j.ctx, l⟩ ctx base len) }
  { s with
    quads := s.quads.map fun q => (q.1, { q.2 with jobs := q.2.jobs.map stream })
    coreTlb := each s.coreTlb
    hamletTlb := each s.hamletTlb
    aheadTlb := each s.aheadTlb
    devTlb := keep s.devTlb
    walkQ := (List.range 8).foldl (fun t h => if (again h).isEmpty then t else tupd t h [] fun q => q ++ again h) s.walkQ
    walking := s.walking.map fun e => (e.1, e.2.filter fun r => !r.within ctx base len)
    walkFails := s.walkFails.filter fun f =>
      !(f.ctx == ctx && decide (base ≤ f.page * 4096) && decide (f.page * 4096 < base + len)) }

/-- INVAL (R283): at most 16 are outstanding; one that finds no room waits at the ring's head. -/
def execInval (s : State) : Res :=
  takeCmd s (fun s c => c.code == 4 && (decide (s.invals.length < 16) || badCmd c || !invalOk c)) fun s c =>
    if invalOk c then
      { dropTranslations s c.ctx (invalBase c) (invalLen c) with
        invals := s.invals ++ [⟨c.ctx, invalBase c, invalLen c, s.nextId,
          (invalBase c, invalLen c) :: overlapping s c.ctx (invalBase c) (invalLen c), c⟩] }
    else finishCmd s c 2 0

/-- Whether an address lies in what an invalidation has removed. -/
def Inval.removes (v : Inval) (va : Nat) : Bool := v.ranges.any fun x => decide (x.1 ≤ va) && decide (va < x.1 + x.2)

/-- Whether an access of a group was translated, before an invalidation, through what it removed and has still to be
performed, be it as a reduction that waits for its combination with memory. The accesses of engines, treelet fetches and retirements are translated as they are performed. -/
def oldAccess (s : State) (v : Inval) : Bool :=
  (s.groups.any fun g => g.ctx == v.ctx && g.ops.any fun o => !o.sp && decide (o.id < v.before) &&
    o.lanes.any fun r => v.removes r.va) ||
  s.reds.any fun n => n.ctx == v.ctx && decide (n.born < v.before) && v.removes n.va

/-- INVAL_COMPLETE (R283): every access translated through a removed entry has been performed. -/
def execInvalComplete (idx : Nat) (s : State) : Res :=
  match s.invals[idx]? with
  | none => .next s
  | some v =>
    if oldAccess s v then .next s
    else .next (finishCmd { s with invals := s.invals.filter fun x => x.cmd ≠ v.cmd } v.cmd 0 0)

/-! ## VERDICT (R373) -/

/-- A verdict reaches the fault batches of groups that wait for the page (R279, R373). -/
def verdictBatches (s : State) (ctx page : Nat) (ok : Bool) : State :=
  { s with groups := s.groups.map fun g => match g.batch with
    | none => g
    | some b =>
      if g.ctx = ctx ∧ b.ahead = false ∧ b.released = false then
        { g with batch := some { b with pages := b.pages.map fun p =>
            if p.page = page * 4096 ∧ p.verdict = none then { p with verdict := some ok } else p } }
      else g }

/-- The contributions that end with a command (R159): its own that is being combined, and the twin's to one reduction. -/
def pairsOf (s : State) (c : EngCmd) : List PairRed := match s.pairReds.find? fun p => p.cmd == c.id && !p.far with
  | none => []
  | some p => p :: s.pairReds.filter fun q => q.far && samePair p q

/-- A verdict reaches the commands of engines (R161): those that wait for the page go on, or end with class 0x08. A LAUNCH
that has started waits for no page. -/
def verdictCmds (s : State) (ctx page : Nat) (ok : Bool) : State :=
  let mine := s.engines.flatMap fun e => (e.2.filter fun c =>
    c.ctx == ctx && c.wait == some page && !(e.1 == 64 && c.started)).map fun c => (e.1, c)
  mine.foldl (fun s x =>
    let s1 := updCmd s x.1 x.2.id fun c => { c with wait := none }
    if ok then s1 else endPairs (endCmd s1 x.1 x.2 0x08) (pairsOf s x.2) 0x08) s

/-- A verdict reaches the work of quadrants (R161, R354). -/
def verdictJobs (s : State) (ctx page : Nat) (ok : Bool) : State :=
  let mine := s.quads.flatMap fun q => (q.2.jobs.filter fun j => j.ctx == ctx && j.wait == some page).map fun j => (q.1, j)
  mine.foldl (fun s x =>
    let s1 := updJob s x.1 x.2.id fun j => { j with wait := none }
    if ok then s1 else endJob s1 x.1 x.2 0x08) s

/-- A verdict reaches the commands of engines and the work of quadrants. -/
def verdictEngines (s : State) (ctx page : Nat) (ok : Bool) : State := verdictJobs (verdictCmds s ctx page ok) ctx page ok

/-- A verdict reaches the retirements of tiles (R240). -/
def verdictTiles (s : State) (ctx page : Nat) (ok : Bool) : State :=
  let mine := s.tiles.filter fun t => t.ctx == ctx && t.waitPage == some page
  let s := mine.foldl (fun s t => if ok then updTile s t.ctx t.tile fun t => { t with waitPage := none }
    else dropTile s t 0x20 (page * 4096)) s
  if mine.isEmpty then s else endFlushes s ctx

/-- A verdict reaches the fetches of treelets (R223). -/
def verdictTreelets (s : State) (ctx page : Nat) (ok : Bool) : State :=
  (s.treelets.filter fun t => t.ctx == ctx && t.fault == some page).foldl (fun s t =>
    if ok then updTreelet s t.ctx t.base t.index fun t => { t with fault := none } else failFetch s t) s

/-- A verdict on a page: everything that waits for it proceeds. -/
def giveVerdict (s : State) (ctx page : Nat) (ok : Bool) : State :=
  verdictTreelets (verdictTiles (verdictEngines (verdictBatches s ctx page ok) ctx page ok) ctx page ok) ctx page ok

/-- A VERDICT with the action given. -/
def verdict (ok : Bool) (s : State) : Res :=
  takeCmd s (fun _ c => c.code == 5 && (c.arg 2).getLsbD 0 == !ok) fun s c =>
    finishCmd (giveVerdict s c.ctx (bitsOf (c.arg 1) 12 36) ok) c 0 0

/-- VERDICT_RESOLVED (R373). -/
def execVerdictResolved (s : State) : Res := verdict true s

/-- VERDICT_GIVEN_UP (R373). -/
def execVerdictGivenUp (s : State) : Res := verdict false s

end Sys2Proof.Machine
end

