-- ==== Sys2Proof/Machine/Preempt.lean ====
section
/-!
DEFINITION. Pre-emption (R374), the forced reset (R375), and the end of a context (R289).
-/

namespace Sys2Proof.Machine

/-! ## The forced reset (R375) -/

/-- The groups of a context. -/
def ctxGroups (s : State) (ctx : Nat) : List Group := s.groups.filter fun g => g.ctx == ctx

/-- Atomics whose words their core holds registered are performed. -/
def resetAtoms (s : State) (g : Group) : State :=
  g.ops.foldl (fun s o => match o.kind with
    | .atom fn bytes => (byLane o).foldl (fun s r =>
        if atomInL1 s r && atomHeld s g.core [] r bytes then atomLane s g.core g.slot o.id fn bytes r else s) s
    | _ => s) s

/-- The words of some cores that a forced reset has to write back: what their L1s hold dirty or registered (R375). -/
def dirtyOf (s : State) (cores : List Nat) : List (Nat × Nat) :=
  cores.flatMap fun c => ((l1Words s c).filter fun e => e.2.st != .cln).map fun e => (c, e.1)

/-- The node of a context that folds first: the lowest level, then the first place. -/
def nextFold (s : State) (ctx : Nat) : Option RedNode :=
  let rank (n : RedNode) : List Nat := [n.level, n.cluster, n.team, n.index]
  match s.reds.filter fun n => n.ctx == ctx && decide (n.level < 3) with
  | [] => none
  | n :: ns => some (ns.foldl (fun b n => if rankLe (rank b) (rank n) then b else n) n)

/-- Folds the nodes of a context up to their roots. -/
def foldAll : Nat → State → Nat → State
  | 0, s, _ => s
  | fuel + 1, s, ctx => match nextFold s ctx with
    | none => s
    | some n => foldAll fuel (foldNode s n) ctx

/-- Partials of groups that have not closed are discarded; what had closed folds into its roots, which are combined with
memory as the reset goes on. -/
def resetReds (s : State) (ctx : Nat) : State :=
  let s := { s with reds := s.reds.filter fun n => n.ctx ≠ ctx ∨ n.level ≠ 0 ∨ n.closed }
  foldAll (4 * s.reds.length) s ctx

/-- Engine commands of a context end with class 0x30 and complete (R161, R162). -/
def resetEngines (s : State) (ctx : Nat) : State :=
  let s := { s with pairReds := s.pairReds.filter fun p => p.far || p.ctx != ctx }
  s.engines.foldl (fun s e => (e.2.filter fun c => c.ctx == ctx).foldl (fun s c =>
    completeCmd (releaseEnd s c.ctx c.rsc).1 e.1 c (c.ended.getD 0x30)) s) s

/-- Loops, drains and denoises of a context stop, a running step among them; banks stay held as they are, and zeroings that
wait are dropped. -/
def stopQuad (ctx : Nat) (q : Quad) : Quad :=
  let mine := q.jobs.any fun j => j.ctx == ctx && some j.id == q.running
  { banks := q.banks.map fun b => (b.1, if b.2.owner = some ctx then { b.2 with release := false } else b.2)
    running := if mine then none else q.running
    out := if mine then none else q.out
    jobs := q.jobs.filter fun j => j.ctx ≠ ctx ∨ j.kind ≠ .zero }

/-- Loops, drains and denoises of a context end with class 0x30. -/
def resetQuads (s : State) (ctx : Nat) : State :=
  let s : State := { s with quads := s.quads.map fun q => (q.1, stopQuad ctx q.2) }
  s.quads.foldl (fun s q => (q.2.jobs.filter fun j => j.ctx == ctx).foldl (fun s j =>
    completeJob (releaseEnd s j.ctx j.rsc).1 q.1 j (j.ended.getD 0x30)) s) s

/-- The cancellation of a grid (R265, R375): records at the lower levels whose flags are set, the grid's record, which every
cancellation has, and the interrupt. -/
def cancelGrid (s : State) (g : Grid) : State :=
  let gid := g.id.getD 0xFFFFFFFF
  let tag := recTag g.recw
  let teams := s.teams.filter fun t => t.ctx == g.ctx && some t.grid == g.id
  let s := if recFlag g.recw 57 then
      teams.foldl (fun s t => writeCompl s g.queue g.ctx tag gid 2 2 0 t.cluster t.team 0) s else s
  let s := if recFlag g.recw 56 then
      g.teamsLeft.foldl (fun s c => writeCompl s g.queue g.ctx tag gid 1 2 0 c.1 0 0) s else s
  let s := writeCompl s g.queue g.ctx tag gid 0 2 0 0 0 g.rerr
  if recFlag g.recw 55 then queueIrq s g.queue else s

/-- The launch queues bound to a context stop. -/
def stopQueues (s : State) (ctx : Nat) : State :=
  (List.range 32).foldl (fun s q => if qCtx s q = some ctx then
    putBar s (queueBase q + 0x20) (barWord s (queueBase q + 0x20) ||| 0x1000) else s) s

/-- Recording ends with the ring valid up to HEAD, and a replay ends (R349): the mode is off. -/
def endLog (s : State) (ctx : Nat) : State :=
  let s := updCtx (setStat (putCtx s ctx 0x020 0) ctx 0 false) ctx fun c =>
    { c with stopped := false, matched := [], stalls := [] }
  { s with runs := s.runs.filter fun r => r.ctx ≠ ctx, logWait := s.logWait.filter fun w => w.ctx ≠ ctx }

/-- The rays of a context retire without episodes. -/
def resetRays (s : State) (ctx : Nat) : State :=
  updCtx { s with
    rays := s.rays.filter fun r => r.ctx ≠ ctx
    bins := s.bins.filter fun b => b.ctx ≠ ctx
    treelets := s.treelets.filter fun t => t.ctx ≠ ctx ∨ t.ready } ctx fun c => { c with rsvQueue := [], rsvSince := s.clock }

/-- Every group and team of a context goes, with what it has outstanding. -/
def resetGroups (s : State) (ctx : Nat) : State :=
  let gone := ctxGroups s ctx
  let s := gone.foldl dropGroup s
  { s with
    teams := s.teams.filter fun t => t.ctx ≠ ctx
    syncOps := s.syncOps.filter fun o => !(gone.any fun g => g.core == o.core && g.slot == o.slot)
    tileAdds := s.tileAdds.filter fun a => a.ctx ≠ ctx }

/-- A forced reset (R375): pre-emption and halts of the context are over with its work. Its write-backs go on from here. -/
def forcedReset (s : State) (ctx : Nat) : State :=
  let gs := ctxGroups s ctx
  let s := endLog (gs.foldl endAhead s) ctx
  let s := (ctxGroups s ctx).foldl resetAtoms s
  let words := dirtyOf s (gs.map fun g => g.core).dedup
  let s := resetReds s ctx
  let s := (s.grids.filter fun g => g.ctx == ctx).foldl cancelGrid s
  let s := resetGroups s ctx
  let s := resetQuads (resetEngines { s with grids := s.grids.filter fun g => g.ctx ≠ ctx } ctx) ctx
  let s := stopQueues (resetRays s ctx) ctx
  flushStep (updCtx s ctx fun c =>
    { c with preempt := false, drained := false, deadline := none, haltWait := false, flush := some words }) ctx

/-- RESET (R375). -/
def execReset (s : State) : Res := onCode 0x08 s fun s c => forcedReset (finishCmd s c 0 0) c.ctx

/-! ## Pre-emption (R374) -/

/-- The reference time of a deadline in microseconds (R5). -/
def deadlineAt (s : State) (us : Nat) : Option Nat := if us = 0 then none else some (s.refUnits + us * (100 * Config.refUnit))

/-- PREEMPT (R374): launches and dispatch stop, groups that wait for a wave end, and run-ahead is rolled back. -/
def execPreempt (s : State) : Res :=
  onCode 0x06 s fun s c =>
    let us := if (c.arg 1).getLsbD 20 then 2000 else bitsOf (c.arg 1) 0 20
    if 1000000 < us then finishCmd s c 2 0
    else
      let s := finishCmd s c 0 0
      let s := updCtx s c.ctx fun x => { x with preempt := true, drained := false, deadline := deadlineAt s us }
      let s := (ctxGroups s c.ctx).foldl endAhead s
      (s.groups.filter fun g => g.ctx == c.ctx && g.waitingSince.isSome).foldl dropGroup s

/-- Whether work of a context remains on the device. -/
def workLeft (s : State) (ctx : Nat) : Bool :=
  hasWork s ctx || (s.engines.any fun e => e.2.any fun c => c.ctx == ctx) || s.quads.any fun q => q.2.jobs.any fun j => j.ctx == ctx

/-- PREEMPT_COMPLETE (R374). -/
def execPreemptComplete (ctx : Nat) (s : State) : Res :=
  if (ctxOf s ctx).preempt && !(ctxOf s ctx).drained && !workLeft s ctx then
    .next (reportCtx (updCtx s ctx fun c => { c with drained := true, deadline := none }) ctx 0x12 0 0 0)
  else .next s

/-- PREEMPT_DEADLINE (R375): the deadline passes while work is left. -/
def execPreemptDeadline (ctx : Nat) (s : State) : Res :=
  match (ctxOf s ctx).deadline with
  | none => .next s
  | some d => if d ≤ s.refUnits && workLeft s ctx then .next (forcedReset s ctx) else .next s

/-- RESUME_PREEMPT (R289, R374). -/
def execResumePreempt (s : State) : Res :=
  takeCmd s (fun _ c => c.code == 7 && (c.arg 1).getLsbD 0 == false) fun s c =>
    finishCmd (updCtx s c.ctx fun x => { x with preempt := false, drained := false, deadline := none }) c 0 0

/-! ## CTXDESTROY (R289) -/

/-- The orphaned words of a context's twin-homed pages go with it (R336). -/
def dropOrphans (s : State) (ctx : Nat) : State :=
  if twinGone s then
    let leaves := (leavesFrom s 0 (2 ^ 48) [(4, 39), (3, 30), (2, 21), (1, 12)] 0 (tableRoot s ctx)).filter fun l => l.home == .twin
    { s with rdc := s.rdc.filter fun e => !inRange leaves 0 (2 ^ 48) e.1 }
  else s

/-- What a context holds beside its work is freed: banks, share and spill region, sync-variable entries, queue bindings,
and its tiles without retirement. -/
def freeContext (s : State) (ctx : Nat) : State :=
  let s := dropOrphans s ctx
  let s := { s with
    quads := s.quads.map fun q => (q.1, { q.2 with banks := q.2.banks.filter fun b => b.2.owner ≠ some ctx })
    syncTab := s.syncTab.filter fun e => e.ctx ≠ ctx
    tiles := s.tiles.filter fun t => t.ctx ≠ ctx
    treelets := s.treelets.filter fun t => t.ctx ≠ ctx }
  let s := (List.range 32).foldl (fun s q => if qCtx s q = some ctx then
    putBar s (queueBase q + 0x20) (barWord s (queueBase q + 0x20) &&& 0xFFFFFF00) else s) (endFlushes s ctx)
  updCtx (clearBlock s ctx) ctx fun _ => noCtx

/-- CTXDESTROY (R289, R375): one whose forced reset is complete ends; else the one at the ring's head begins its reset. -/
def execCtxdestroy (s : State) : Res :=
  let finish (s : State) (c : HostCmd) : State :=
    if (ctxOf s c.ctx).flush.isSome then s else finishCmd (freeContext s c.ctx) c 0 0
  match s.cmds.find? fun c => c.code == 0x02 && (ctxOf s c.ctx).flush.isNone with
  | some c => .next (finish s c)
  | none => onCode 0x02 s fun s c => finish (forcedReset s c.ctx) c

end Sys2Proof.Machine
end

