-- ==== Sys2Proof/Machine/Debug.lean ====
section
/-!
DEFINITION. The debugger's commands: HALT, RESUME, STEP (R377), DBGREAD and DBGWRITE (R291, R378).
-/

namespace Sys2Proof.Machine

/-! ## Halts (R377) -/

/-- Core and slot that an argument names, and whether it names every group of the context. -/
def argCore (w : DWord) : Nat := bitsOf w 0 7
def argSlot (w : DWord) : Nat := bitsOf w 8 7
def argAll (w : DWord) : Bool := w.getLsbD 15

/-- The groups of a context that an argument names. -/
def namedGroups (s : State) (ctx : Nat) (w : DWord) : List Group :=
  (ctxGroups s ctx).filter fun g => argAll w || (g.core == argCore w && g.slot == argSlot w)

/-- Whether a word of a group's batch has still to retire: a fetch is no word yet. -/
def Group.wordWaits (g : Group) : Bool := match g.batch with
  | some b => match b.what with
    | .fetch .. => false
    | _ => true
  | none => false

/-- A group halts between words: its run-ahead is rolled back, and a clause in the middle is kept in the halt state. One whose
word waits for system software halts once that word has retired. -/
def haltNow (s : State) (g : Group) : State :=
  updGroup (endAhead s g) g.core g.slot fun g =>
    if g.wordWaits then { g with haltAsked := true }
    else suspend { g with halted := true, haltAsked := false, stepping := false }

/-- The groups of a context that a HALT has named, and whose words have retired since, halt. -/
def haltAsked (s : State) (ctx : Nat) : State :=
  ((ctxGroups s ctx).filter fun g => g.haltAsked).foldl haltNow s

/-- A group that goes on writes and performs what has waited for the end of its halt (R349). -/
def unhold (s : State) (ctx : Nat) : State :=
  settleSyncs (if logMode s ctx = 1 then drainLogWait s ctx s.logWait.length else s)

/-- HALT (R377). -/
def execHalt (s : State) : Res :=
  onCode 0x09 s fun s c =>
    let s := (namedGroups s c.ctx (c.arg 1)).foldl haltNow (finishCmd s c 0 0)
    updCtx s c.ctx fun x => { x with haltWait := true }

/-- A STEP whose group has halted again, or has ended, completes. -/
def endStep (s : State) (c : HostCmd) : State :=
  match groupAt s (argCore (c.arg 1)) (argSlot (c.arg 1)) with
  | some g => if g.stepping && g.stopped.isNone && g.ctx == c.ctx then s else finishCmd s c 0 0
  | none => finishCmd s c 0 0

/-- HALT_COMPLETE (R377): with every named group halted the event is reported; a step that is over completes. -/
def execHaltComplete (ctx : Nat) (s : State) : Res :=
  let s1 := (s.cmds.filter fun c => c.code == 0x0A && c.ctx == ctx).foldl endStep (haltAsked s ctx)
  if (ctxOf s1 ctx).haltWait && !((ctxGroups s1 ctx).any fun g => g.haltAsked) then
    .next (reportCtx (updCtx s1 ctx fun c => { c with haltWait := false }) ctx 0x11 0 0 0)
  else .next s1

/-- RESUME_HALT (R377). -/
def execResumeHalt (s : State) : Res :=
  takeCmd s (fun _ c => c.code == 7 && (c.arg 1).getLsbD 0) fun s c =>
    finishCmd (unhold ((namedGroups s c.ctx (c.arg 2)).foldl (fun s g =>
      setGroup s { g with halted := false, haltAsked := false, stepping := false }) s) c.ctx) c 0 0

/-- STEP (R289, R377): a halted group issues one clause; the command runs until it has halted again. A group that is not
halted cannot step. -/
def execStep (s : State) : Res :=
  onCode 0x0A s fun s c =>
    match (namedGroups s c.ctx (c.arg 1)).head? with
    | some g => if g.halted then unhold (setGroup s { g with halted := false, stepping := true }) c.ctx else finishCmd s c 5 0
    | none => finishCmd s c 5 0

/-! ## The state of a halted group (R291, R378) -/

/-- A byte with its poison mark. -/
abbrev DbgByte := BitVec 8 × Bool

/-- The bytes of words. -/
def bytesOf (ws : List (Word × Bool)) : List DbgByte := ws.flatMap fun w => (List.range 4).map fun i => (byteOf w.1 i, w.2)

/-- Words without marks, of 64-bit values. -/
def plain64 (ws : List DWord) : List (Word × Bool) := (wordsOf64 ws).map fun w => (w, false)

/-- A vector register, lane 0 first. -/
def dbgVec (g : Group) (n : Nat) : List (Word × Bool) :=
  perLane fun l => (lane (vReg g n) l, (tget g.vPoison n 0).getLsbD l)

/-- The 40 bytes of a slot; an RPC is marked by bit 63, as in a split entry. -/
def dbgSlot (p : PcSlot) : List (Word × Bool) :=
  plain64 [BitVec.ofNat 64 p.pc] ++ (wordsOfMask p.mask).map (fun w => (w, false)) ++
  plain64 [match p.rpc with
      | some r => BitVec.ofNat 64 (2 ^ 63 + r % 2 ^ 48)
      | none => 0,
    match p.st with
      | .empty => 0
      | .running => 1
      | .parked => 2]

/-- A split-stack entry, counted from the bottom. -/
def dbgEntry (s : State) (g : Group) (i : Nat) : Option (List (Word × Bool)) :=
  if i + 1 = g.depth then g.top.map fun e => plain64 [e.lo, e.hi]
  else match spillAt s g i .read with
    | .error _ => none
    | .ok leaf => some ((List.range 4).map fun k => readLeaf s g.core leaf (g.spillBase + 16 * i + 4 * k))

/-- The binding word of a queue register. -/
def bindWord (q : QueueReg) : DWord :=
  BitVec.ofNat 64 (q.port + 2 ^ 6 + (if q.out then 2 ^ 7 else 0) + q.window * 2 ^ 8 + q.elems.length % 16 * 2 ^ 16)

/-- A queue register with its elements, oldest first; places without an element read zero. -/
def dbgQueue (g : Group) (n : Nat) : List (Word × Bool) :=
  let es : List (Lanes × Mask) := match tfind g.queues n with
    | some q => q.elems
    | none => []
  plain64 [match tfind g.queues n with
    | some q => bindWord q
    | none => 0] ++
  (List.range 16).flatMap fun i => perLane fun l => match es[i]? with
    | some e => (lane e.1 l, e.2.getLsbD l)
    | none => (0, false)

/-- A bank: its elements row by row, a bitmap of their marks, its format word. -/
def dbgBank (b : Bank) : List (Word × Bool) :=
  (List.range 98304).map (fun k => (tget b.elems k 0, false)) ++
  (List.range 3072).map (fun i => (BitVec.ofNat 32 (bitsBelow (fun k => tget b.poison (32 * i + k) false) 32), false)) ++
  [(b.fmt.getD 0, false)]

/-- Whether a selector's index is in range (R291). -/
def selOk (s : State) (g : Group) (sel index len : Nat) : Bool := match sel with
  | 0 => decide (index < g.regAlloc)
  | 4 => decide (index < g.depth)
  | 8 => decide (index < 16)
  | 9 => decide (index < 16)
  | 11 => decide (index < 81920) && len % 8 == 0 && decide (8 * index + len ≤ scratchOf s g)
  | n => decide (n < 11) && index == 0

/-- The bytes of a selector; `none` where they cannot be read. -/
def dbgBytes (s : State) (g : Group) (sel index len : Nat) : Option (List DbgByte) := match sel with
  | 0 => some (bytesOf (dbgVec g index))
  | 1 => some (bytesOf ((List.range 64).flatMap fun n =>
      [(loWord (sReg g n), tget g.sPoison n false), (hiWord (sReg g n), tget g.sPoison n false)]))
  | 2 => some (bytesOf ((List.range 8).flatMap fun n => (wordsOfMask (pReg g n)).map fun w => (w, false)))
  | 3 => some (bytesOf (dbgSlot g.a ++ dbgSlot g.b))
  | 4 => (dbgEntry s g index).map bytesOf
  | 5 => some (bytesOf ((List.range 4).flatMap fun n => perLane fun l => (lane (latch g n) l, false)) ++
      [(g.latchValid.zeroExtend 8, false)])
  | 6 => some (bytesOf ([(g.fpctl, false)] ++ (perLane fun l => (lane g.fflags l, false)) ++
      perLane fun l => (lane g.srseed l, false)))
  | 7 => some (bytesOf (plain64 [cntWord g]))
  | 8 => some (bytesOf (dbgQueue g index))
  | 9 => some (bytesOf (dbgBank (bankAt s (4 * hamletOf g.core + index / 4) (index % 4))))
  | 10 => some (bytesOf (plain64 ((List.range 8).map fun k => BitVec.ofNat 64 (poolCount s g k))))
  | _ => (teamOfGroup s g).map fun t => bytesOf ((List.range (len / 4)).map fun i => spWord t (8 * index + 4 * i))

/-- The size of a selector's data. -/
def selBytes (sel len : Nat) : Nat := match sel with
  | 0 => 512
  | 1 => 512
  | 2 => 128
  | 3 => 80
  | 4 => 16
  | 5 => 2049
  | 6 => 1028
  | 7 => 8
  | 8 => 8200
  | 9 => 405508
  | 10 => 64
  | _ => len

/-! ## Buffers -/

/-- Whether a range of a context's addresses may be accessed, page by page. -/
def rangeOk (s : State) (ctx a n : Nat) (acc : Acc) : Bool :=
  (List.range ((a % 4096 + n + 4095) / 4096)).all fun i =>
    let lo := if i = 0 then a else a / 4096 * 4096 + 4096 * i
    let hi := min (a + n) (a / 4096 * 4096 + 4096 * (i + 1))
    match unitAccess s ctx noTlb lo (hi - lo) acc with
    | .ok _ => true
    | .error _ => false

/-- What the walks of a range leave: the device's TLB filled, or a malformed table reported (R273, R276). -/
def walkRange (s : State) (ctx a n : Nat) : State :=
  (List.range ((a % 4096 + n + 4095) / 4096)).foldl (fun s i => fillNow s ctx noTlb (a / 4096 * 4096 + 4096 * i)) s

/-- A byte at its place in its word. -/
def byteAtLane (b : BitVec 8) (i : Nat) : Word := BitVec.ofNat 32 (b.toNat * 2 ^ (8 * i))

/-- Writes bytes from an address up. -/
def writeBuf (s : State) (ctx a : Nat) (bs : List DbgByte) : State :=
  bs.zipIdx.foldl (fun s b =>
    let x := a + b.2
    match engWrite s ⟨ctx, 0, 64, false, none⟩ x (BitVec.ofNat 4 (2 ^ (x % 4))) (byteAtLane b.1.1 (x % 4)) b.1.2 with
    | .ok s => s
    | .error _ => s) s

/-- Reads `n` bytes from an address up. -/
def readBuf (s : State) (ctx a n : Nat) : List DbgByte :=
  (List.range n).map fun i => match engRead s ⟨ctx, 0, 64, false, none⟩ (a + i) with
    | .ok w => (byteOf w.1 ((a + i) % 4), w.2)
    | .error _ => (0, false)

/-! ## DBGREAD and DBGWRITE -/

/-- SEL, INDEX, LENGTH and the group that a command names. -/
def dbgSel (c : HostCmd) : Nat := bitsOf (c.arg 2) 0 8
def dbgIndex (c : HostCmd) : Nat := bitsOf (c.arg 2) 8 24
def dbgLen (c : HostCmd) : Nat := bitsOf (c.arg 2) 32 32
def dbgGroup (s : State) (c : HostCmd) : Option Group :=
  (groupAt s (argCore (c.arg 1)) (argSlot (c.arg 1))).bind fun g => if g.ctx = c.ctx ∧ g.halted then some g else none

/-- Whether a command reads a bank on which a step is running: it shows the bank after that step (R291). -/
def bankBusy (s : State) (c : HostCmd) : Bool := c.code == 0x0B && dbgSel c == 9 && match dbgGroup s c with
  | some g =>
    let x := quadAt s (4 * hamletOf g.core + dbgIndex c / 4)
    match x.running.bind fun id => x.jobs.find? fun j => j.id == id with
    | some j => j.bank == dbgIndex c % 4
    | none => false
  | none => false

/-- What the walk to the page of a split-stack entry leaves (R273, R276). -/
def walkEntry (s : State) (g : Group) (sel index : Nat) : State :=
  if sel = 4 ∧ index + 1 ≠ g.depth then fillNow s g.ctx g.core (g.spillBase + 16 * index) else s

/-- DBGREAD (R291): a group that is not halted, and data or a buffer that cannot be reached, give STATUS 5. A read of a bank
waits for the step that runs on it. -/
def execDbgread (s : State) : Res :=
  takeCmd s (fun s c => c.code == 0x0B && (badCmd c || !bankBusy s c)) fun s c => match dbgGroup s c with
    | none => finishCmd s c 5 0
    | some g =>
      if !selOk s g (dbgSel c) (dbgIndex c) (dbgLen c) then finishCmd s c 2 0
      else
        let s1 := walkEntry s g (dbgSel c) (dbgIndex c)
        match dbgBytes s g (dbgSel c) (dbgIndex c) (dbgLen c) with
        | none => finishCmd s1 c 5 0
        | some bs =>
          let s2 := walkRange s1 c.ctx (c.arg 3).toNat bs.length
          if rangeOk s c.ctx (c.arg 3).toNat bs.length .write then finishCmd (writeBuf s2 c.ctx (c.arg 3).toNat bs) c 0 0
          else finishCmd s2 c 5 0

/-- Word `i` of some bytes, with its mark. -/
def dbgWord (bs : List DbgByte) (i : Nat) : Word × Bool :=
  let b (k : Nat) : DbgByte := bs.getD (4 * i + k) (0, false)
  (wordOf fun k => (b k).1, (b 0).2 || (b 1).2 || (b 2).2 || (b 3).2)

/-- The 64-bit value and the mask at word `i`. -/
def dbgDWord (bs : List DbgByte) (i : Nat) : DWord := joinWords (dbgWord bs i).1 (dbgWord bs (i + 1)).1
def dbgMask (bs : List DbgByte) (i : Nat) : Mask := maskOfWords fun k => (dbgWord bs (i + k)).1

/-- A slot as written: a state that is none of the three empties it. -/
def putDbgSlot (p : PcSlot) (bs : List DbgByte) (i : Nat) : PcSlot :=
  let rpc := dbgDWord bs (i + 6)
  { p with
    pc := (dbgDWord bs i).toNat % 2 ^ 48 / 4 * 4
    mask := dbgMask bs (i + 2)
    rpc := if rpc.getLsbD 63 then some (bitsOf rpc 0 48) else none
    st := match (dbgDWord bs (i + 8)).toNat with
      | 1 => .running
      | 2 => .parked
      | _ => .empty }

/-- The slots as written. A clause kept in the halt state goes on, and a fetch of code is waited for, only where its slot
still stands at it. DESIGN CHOICE (log entries 65, 143): the latches and their validity stay as they are even where that clause
is dropped, until the next clause starts. -/
def putDbgSlots (g : Group) (bs : List DbgByte) : Group :=
  let g' := { g with a := putDbgSlot g.a bs 0, b := putDbgSlot g.b bs 10 }
  { g' with
    batch := g.batch.bind fun b => match b.what with
      | .fetch pcs pc _ _ _ => if (pcSlot g' pcs).pc = pc then some b else none
      | _ => some b
    resume := g.resume.bind fun r => if (pcSlot g' r.pcs).pc = (pcSlot g r.pcs).pc ∧ (pcSlot g' r.pcs).st = .running
      then some r else none }

/-- A split-stack entry as written. -/
def putDbgEntry (s : State) (g : Group) (i : Nat) (bs : List DbgByte) : State :=
  if i + 1 = g.depth then setGroup s { g with top := some ⟨dbgDWord bs 0, dbgDWord bs 2⟩ }
  else match spillAt s g i .write with
    | .error _ => s
    | .ok leaf => (List.range 4).foldl (fun s k => l1Store s g.core g.ctx (leaf.at (g.spillBase + 16 * i) + 4 * k) 0xF (dbgWord bs k).1 (dbgWord bs k).2) s

/-- Whether the state that a selector names can be written: the page of a spilled split-stack entry can be missing. -/
def canPut (s : State) (g : Group) (sel index : Nat) : Bool :=
  sel != 4 || index + 1 == g.depth || (match spillAt s g index .write with
    | .ok _ => true
    | .error _ => false)

/-- A selector's state as written. DESIGN CHOICE, log entry 119: 0 written to an SRSEED leaves 1, as WRSYS does (R68). -/
def putDbg (s : State) (g : Group) (sel index : Nat) (bs : List DbgByte) : State := match sel with
  | 0 => setGroup s (poisonV (setV g index (BitVec.allOnes 128) fun l => (dbgWord bs l).1) index
      (maskOf fun l => (dbgWord bs l).2))
  | 1 => setGroup s ((List.range 64).foldl (fun g n =>
      let g := setS g n (dbgDWord bs (2 * n))
      if (dbgWord bs (2 * n)).2 || (dbgWord bs (2 * n + 1)).2 then { g with sPoison := tput g.sPoison n true } else g) g)
  | 2 => setGroup s ((List.range 8).foldl (fun g n => setP g n (dbgMask bs (4 * n))) g)
  | 3 => setGroup s (putDbgSlots g bs)
  | 4 => putDbgEntry s g index bs
  | 5 => setGroup s { g with
      latches := (List.range 4).map fun n => perLane fun l => (dbgWord bs (128 * n + l)).1
      latchValid := ((bs.getD 2048 (0, false)).1).extractLsb' 0 4 }
  | 6 => setGroup s { g with
      fpctl := (dbgWord bs 0).1 &&& 0x1FF
      fflags := perLane fun l => (dbgWord bs (1 + l)).1 &&& 0x1F
      srseed := perLane fun l => if (dbgWord bs (129 + l)).1 = 0 then 1 else (dbgWord bs (129 + l)).1 }
  | _ => match teamOfGroup s g with
    | some t => updTeam s t.key fun t => (List.range (bs.length / 4)).foldl
        (fun t i => spPut t (8 * index + 4 * i) 0xF (dbgWord bs i).1 (dbgWord bs i).2) t
    | none => s

/-- Whether DBGWRITE may write a selector (R291). -/
def selWrites (sel : Nat) : Bool := decide (sel < 7) || sel == 11

/-- DBGWRITE (R291). -/
def execDbgwrite (s : State) : Res :=
  onCode 0x0C s fun s c =>
    if !selWrites (dbgSel c) then finishCmd s c 2 0
    else match dbgGroup s c with
      | none => finishCmd s c 5 0
      | some g =>
        let n := selBytes (dbgSel c) (dbgLen c)
        if !selOk s g (dbgSel c) (dbgIndex c) (dbgLen c) then finishCmd s c 2 0
        else
          let s1 := walkEntry s g (dbgSel c) (dbgIndex c)
          let s2 := walkRange s1 c.ctx (c.arg 3).toNat n
          if !canPut s g (dbgSel c) (dbgIndex c) then finishCmd s1 c 5 0
          else if rangeOk s c.ctx (c.arg 3).toNat n .read then
            finishCmd (putDbg s2 g (dbgSel c) (dbgIndex c) (readBuf s c.ctx (c.arg 3).toNat n)) c 0 0
          else finishCmd s2 c 5 0

end Sys2Proof.Machine
end

