-- ==== Sys2Proof/Machine/Saves.lean ====
section
/-!
DEFINITION. The saves of a context switch (R376), the clearing and flushing of tiles (R239), and SALVAGE (R336).
-/

namespace Sys2Proof.Machine

/-- The commands that ask for a complete pre-emption: STATUS 4 without one (R289, R376). -/
def whenDrained (s : State) (c : HostCmd) (k : State → State) : State :=
  if (ctxOf s c.ctx).drained then k s else finishCmd s c 4 0

/-! ## RAYSAVE -/

/-- An on-die record moves to the spill region; a ray in traversal waits for its treelet again (R210, R376). -/
def saveRay (s : State) (id : Nat) : State := match rayAt s id with
  | none => s
  | some r =>
    let s := match r.place with
      | .traversal t => moveRay s id (.travBin t)
      | _ => s
    if r.spilled.isNone then spillTo s r (spillSlot s r.ctx) else s

/-- RAYSAVE (R376): STATUS 5 where the spill region is smaller than the records in use. -/
def execRaysave (s : State) : Res :=
  onCode 0x0D s fun s c => whenDrained s c fun s =>
    if (ctxDWord s c.ctx 0x090).toNat / 128 < raysUsed s c.ctx then finishCmd s c 5 0
    else finishCmd (((s.rays.filter fun r => r.ctx == c.ctx).map fun r => r.id).foldl saveRay s) c 0 0

/-! ## Banks -/

/-- The quadrant and the bank that a command names, and the address of its image. -/
def argQuad (c : HostCmd) : Nat := 4 * bitsOf (c.arg 1) 0 3 + bitsOf (c.arg 1) 3 2
def argBank (c : HostCmd) : Nat := bitsOf (c.arg 1) 5 2
def argImage (c : HostCmd) : Nat := (c.arg 2).toNat

/-- Words of an image: 512 KiB. -/
abbrev imageWords : Nat := 131072

/-- Writes an image's words: the free values from `start` on. -/
def writeImage (s : State) (ctx a start : Nat) : State :=
  (List.range imageWords).foldl (fun s i => match engWrite s ⟨ctx, 0, 64, false, none⟩ (a + 4 * i) 0xF (Config.freeWord (start + i)) false with
    | .ok s => s
    | .error _ => s) s

/-- BANKSAVE (R376): STATUS 5 where the context does not hold the bank, or the image cannot be written. -/
def execBanksave (s : State) : Res :=
  onCode 0x0E s fun s c => whenDrained s c fun s =>
    if argImage c % 4096 ≠ 0 then finishCmd s c 2 0
    else if !holdsBank s c.ctx (argQuad c) (argBank c) then finishCmd s c 5 0
    else if !rangeOk s c.ctx (argImage c) (4 * imageWords) .write then
      finishCmd (walkRange s c.ctx (argImage c) (4 * imageWords)) c 5 0
    else
      let s := walkRange s c.ctx (argImage c) (4 * imageWords)
      let start := s.draws
      let b := bankAt s (argQuad c) (argBank c)
      let s1 := writeImage { s with draws := s.draws + imageWords } c.ctx (argImage c) start
      let s2 := updBank s1 (argQuad c) (argBank c) fun _ => noBank
      finishCmd { s2 with images := s2.images ++ [⟨b, 4 * argQuad c + argBank c, start⟩] } c 0 0

/-- Whether memory holds an image unchanged. -/
def imageHolds (s : State) (ctx a : Nat) (im : BankImage) : Bool :=
  (List.range imageWords).all fun i => match engRead s ⟨ctx, 0, 64, false, none⟩ (a + 4 * i) with
    | .ok w => w.1 == Config.freeWord (im.start + i) && !w.2
    | .error _ => false

/-- A scale ring of undefined content. -/
def freeRing (d k : Nat) : ScaleRing :=
  ⟨(List.range 8).map fun n => (n, ⟨(List.range 384).map fun i => (i, Config.bankGarbage d (k + 385 * n + i)),
      (Config.bankGarbage d (k + 385 * n + 384)).getLsbD 0⟩),
    (Config.bankGarbage d (k + 3080)).toNat % 8, (Config.bankGarbage d (k + 3081)).toNat % 8⟩

/-- A bank of undefined content (R376). -/
def freeBank (ctx d : Nat) : Bank :=
  { owner := some ctx
    elems := (List.range 98304).map fun k => (k, Config.bankGarbage d k)
    poison := (List.range 98304).map fun k => (k, (Config.bankGarbage d (100000 + k)).getLsbD 0)
    fmt := some (Config.bankGarbage d 200000)
    region := some ⟨(Config.bankGarbage d 200001).toInt, (Config.bankGarbage d 200002).toInt,
      (Config.bankGarbage d 200003).toNat, (Config.bankGarbage d 200004).toNat⟩
    ringA := freeRing d 300000
    ringB := freeRing d 400000
    release := false }

/-- The bank comes back as it was saved, or undefined where its image has changed. -/
def loadBank (s : State) (c : HostCmd) : State :=
  if !rangeOk s c.ctx (argImage c) (4 * imageWords) .read then finishCmd (walkRange s c.ctx (argImage c) (4 * imageWords)) c 5 0
  else
    let s := walkRange s c.ctx (argImage c) (4 * imageWords)
    let b := match s.images.find? fun im => im.place == 4 * argQuad c + argBank c && imageHolds s c.ctx (argImage c) im with
      | some im => { im.bank with owner := some c.ctx, release := false }
      | none => freeBank c.ctx s.draws
    finishCmd (updBank { s with draws := s.draws + 1 } (argQuad c) (argBank c) fun _ => b) c 0 0

/-- Whether a bank is free for a context. -/
def bankFree (s : State) (c : HostCmd) : Bool := match (bankAt s (argQuad c) (argBank c)).owner with
  | some o => o == c.ctx
  | none => true

/-- A BANKLOAD that runs: it waits while another context holds the bank. -/
def tryLoad (s : State) (c : HostCmd) : State :=
  if (ctxOf s c.ctx).live = false then finishCmd s c 3 0
  else if bankFree s c then loadBank s c else s

/-- BANKLOAD (R376): one that waits for its bank, once the bank is free, else the one at the ring's head. -/
def execBankload (s : State) : Res :=
  match s.cmds.find? fun c => c.code == 0x0F && bankFree s c with
  | some c => .next (tryLoad s c)
  | none => onCode 0x0F s fun s c => whenDrained s c fun s =>
      if argImage c % 4096 ≠ 0 then finishCmd s c 2 0 else tryLoad s c

/-! ## Tiles (R239) -/

/-- TILEFLUSH (R239, R376): every tile of a pre-empted context begins to retire. DEDUCED (log entry 139): it fails with
STATUS 4, as the other saves. -/
def execTileflush (s : State) : Res :=
  onCode 0x10 s fun s c => whenDrained s c fun s =>
    endFlushes { s with
      tiles := s.tiles.map fun t => if t.ctx = c.ctx then retireTile s t else t
      flushing := s.flushing ++ [(c.ctx, c)] } c.ctx

/-- TILECLEAR (R239, R241): the context's places are empty without retirement, but for those whose retirement has merged a
part already, whose ends the clear awaits. -/
def execTileclear (s : State) : Res :=
  onCode 0x11 s fun s c =>
    endFlushes { s with
      tiles := s.tiles.filter fun t => t.ctx ≠ c.ctx || (t.retiring && decide (0 < t.pos))
      flushing := s.flushing ++ [(c.ctx, c)] } c.ctx

/-! ## SALVAGE (R336) -/

/-- Whether a word is orphaned: homed on a failed twin, and dirty or registered in the RDC. -/
def orphaned (s : State) (w : Nat) : Bool := twinGone s && homeOf w == 1 && match rdcCopy s w with
  | some c => c.st != .cln
  | none => false

/-- One word of a salvage: an orphaned word is copied to survivor memory and freed. -/
def salvageWord (ctx va dst : Nat) (s : State) (i : Nat) : State :=
  match xlatNow s ctx noTlb (va + 4 * i) .read with
  | .error _ => fillNow s ctx noTlb (va + 4 * i)
  | .ok leaf =>
    let s := fillNow s ctx noTlb (va + 4 * i)
    let w := leaf.at (va + 4 * i)
    match rdcCopy s w with
    | some c => if orphaned s w then
        dropCopy (homeWrite (overtake s (dst + 4 * i) c.held) (dst + 4 * i) c.held c.val c.poison (some ctx) none) .rdc w else s
    | none => s

/-- SALVAGE (R336): a range that is not of whole pages, or a destination outside the device's memory, is a bad command. -/
def execSalvage (s : State) : Res :=
  onCode 0x12 s fun s c =>
    let va := (c.arg 1).toNat
    let dst := (c.arg 2).toNat
    let len := (c.arg 3).toNat
    if va % 4096 ≠ 0 ∨ len % 4096 ≠ 0 ∨ dst % 4 ≠ 0 ∨ Config.localEnd < dst + len then finishCmd s c 2 0
    else finishCmd ((List.range (len / 4)).foldl (salvageWord c.ctx va dst) s) c 0 0

end Sys2Proof.Machine
end

