-- ==== Sys2Proof/Machine/Bringup.lean ====
section
/-!
DEFINITION. Bring-up, self-tests, the safe state and the link-wait state (R381 to R383), attestation (R384), power (R385),
and the failure of the twin (R292, R293, R336).
-/

namespace Sys2Proof.Machine

/-! ## Power and state -/

/-- The device without power on its cores, engines and memory: what lies at other homes stays, and so do the model's own
counts and schedule. -/
def unpowered (s : State) : State :=
  { State.reset with
    isW := s.isW
    devId := s.devId
    mem := s.mem.filter fun e => decide (2 ^ 52 ≤ e.1)
    memPoison := s.memPoison.filter fun e => decide (2 ^ 52 ≤ e.1)
    irqs := s.irqs
    nextId := s.nextId
    draws := s.draws
    sched := s.sched }

/-- DEVICE_RESET (R381): bring-up starts over; self-tests follow. -/
def execDeviceReset (s : State) : Res := .next (unpowered s)

/-- The failure record (R383). -/
def failRecord (code index : Nat) (detail : Word) : DWord :=
  BitVec.ofNat 64 (code * 2 ^ 40 + index * 2 ^ 32 + detail.toNat)

/-- Cores, engines and memory lose power: READY, the failure record and the clocks of the reference stay (R382, R383). -/
def powerDown (s : State) (mode : DevMode) (code index : Nat) (detail : Word) : State :=
  { unpowered s with
    mode, ready := s.ready, failRec := failRecord code index detail, refUnits := s.refUnits, report := s.report
    verified := s.verified, sideband := s.sideband }

/-- The safe state (R383). A device that is in it keeps its record. -/
def enterSafe (s : State) (code index : Nat) (detail : Word) : State :=
  if s.mode = .safe then s else powerDown s .safe code index detail

/-- Sets and clears bits of READY. -/
def setReady (s : State) (bit : Nat) (on : Bool) : State :=
  { s with ready := if on then s.ready ||| BitVec.ofNat 64 (2 ^ bit) else s.ready &&& ~~~BitVec.ofNat 64 (2 ^ bit) }

/-- READY with the link, the management controller, every channel and hamlet and the sorter passed. -/
def allReady (s : State) : Bool := s.ready &&& 0x7FFFFFFFF == 0x7FFFFFFFF

/-- Bring-up is over once the boot ROM has verified the firmware and every function that the device cannot do without is
ready (R381, R382). -/
def finishBoot (s : State) : State := if s.mode = .boot ∧ s.verified ∧ allReady s then { s with mode := .run } else s

/-- The failure record as the management sideband shows it, while it is up (R383). -/
def sidebandRecord (s : State) : Option DWord := if s.sideband then some s.failRec else none

/-! ## The failure of the twin (R293, R336) -/

/-- Whether an agent is the twin's. -/
def farAgent : Agent → Bool
  | .twin => true
  | .far _ => true
  | _ => false

/-- Words that an L1 holds registered and whose home is the twin move to the RDC. -/
def regsToRdc (s : State) : State :=
  (s.l1.filter fun e => decide (e.1 < 96)).foldl (fun s e =>
    (e.2.filter fun x => x.2.st == .reg && homeOf x.1 == 1).foldl
      (fun s x => moveToRdc (dropCopy s (.core e.1) x.1) x.1 { x.2 with mask := 0xF }) s) s

/-- The bytes of a word on its way to the twin stay in the RDC, dirty, under those that it has taken since. -/
def keepBytes (s : State) (v : WordVal) : State :=
  let newer : BitVec 4 := match rdcCopy s v.word with
    | some c => if c.st = .reg then 0xF else c.mask
    | none => 0
  let mask := v.mask &&& ~~~newer
  if mask = 0 then s else moveToRdc s v.word ⟨.drt, v.val, mask, mask, v.poison, none⟩

/-- Bytes that the twin has forwarded to an owner of this device reach its word. -/
def takeBytes (s : State) (v : WordVal) : State := moveToRdc s v.word ⟨.drt, v.val, v.mask, v.mask, v.poison, none⟩

/-- What a message that the twin link loses leaves behind: bytes on their way to the twin, or forwarded by it to an owner
of this device, stay in the RDC. -/
def loseMsg (s : State) (m : Msg) : State := match m.kind with
  | .mrg => m.vals.foldl keepBytes s
  | .wb => if m.form = 2 then s else m.vals.foldl keepBytes s
  | .atq => if farAgent m.src then s else m.vals.foldl keepBytes s
  | .mfwd => if farAgent m.dst then s else m.vals.foldl takeBytes s
  | _ => s

/-- The holding entries for words homed on the twin are freed: what their write-backs carried stands in the RDC. -/
def freeTwinHeld (s : State) : State :=
  let s1 := s.holding.foldl (fun s e => if 128 ≤ e.1 then s else
    (e.2.filter fun h => homeOf h.word == 1 && s.msgs.any fun m => m.kind == .wb && m.dst == .twin && m.names h.word).foldl
      (fun s h => keepBytes s ⟨h.word, h.val, h.mask, h.poison, none⟩) s) s
  { s1 with holding := s1.holding.map fun e => (e.1, if 128 ≤ e.1 then [] else e.2.filter fun h => homeOf h.word != 1) }

/-- The orphaned and LOST words of the survivor (R336). -/
def lostWordsOf (s : State) : List Nat :=
  (s.rdc.filter fun e => e.2.st != .cln).map (fun e => e.1) ++ (s.homes.filter fun e => e.2 == .lost).map fun e => e.1

/-- The failure report lists the pages of each context that hold an orphaned or LOST word (R336): a record for each page
and cause. -/
def reportLost (s : State) (ctx : Nat) : State :=
  let leaves := leavesFrom s 0 (2 ^ 48) [(4, 39), (3, 30), (2, 21), (1, 12)] 0 (tableRoot s ctx)
  let pages := (lostWordsOf s).flatMap fun w => (leaves.filter fun l =>
      homeCode l.home == homeOf w && decide (l.pbase ≤ paOf w) && decide (paOf w < l.pbase + l.size)).map fun l =>
    (if homeOf w = 0 then 0x30 else 0x31, (l.vbase + (paOf w - l.pbase)) / 4096 * 4096)
  pages.dedup.foldl (fun s p => reportCtx s ctx 0x14 p.1 p.2 0) s

/-- The twin is declared failed (R293, R336): the survivor keeps what it holds of the twin's words, words owned by the twin
are LOST, what the link carried is lost, and pair commands end with class 0x0C. -/
def twinLost (s0 : State) : State :=
  let s := freeTwinHeld (regsToRdc { setReady s0 35 false with twinUp := false, twinFailed := true })
  let far (m : Msg) : Bool := farAgent m.src || farAgent m.dst
  let s := { s with
    homes := s.homes.map fun e => (e.1, match e.2 with
      | .own true _ => if homeOf e.1 = 0 then .lost else e.2
      | x => x)
    l1 := s.l1.filter fun e => decide (e.1 < 128)
    msgs := s.msgs.filter fun m => !far m
    l2Wait := s.l2Wait.filter fun m => !farAgent m.src }
  let s := (s0.msgs.filter far).foldl loseMsg s
  let s := endPairs s (s.pairReds.filter fun p => p.far || prdxDev p.words == 2) 0x0C
  let s := report s ⟨0x14, 0, 0, noCore, 0, none, 0, 0, 0⟩
  settleSyncs (((List.range 64).filter fun c => (ctxOf s c).live).foldl reportLost s)

/-- TWIN_FAIL (R293). A PX960-M has no twin. -/
def execTwinFail (s : State) : Res := if s.isW && s.twinUp then .next (twinLost s) else .next s

/-- TWIN_FLIT_RETRY (R292): a flit is sent again at link level, with no effect that a program can observe. -/
def execTwinFlitRetry (s : State) : Res := .next s

/-! ## Self-tests (R381, R382) -/

/-- SELF_TEST_PASS (R381, R382): the function's bit is set. HOST is set by the link's training; TWIN stays 0 on a PX960-M,
and after a failure of the twin (R293). A function of no READY bit stands for the signature of the boot firmware, which the
boot ROM verifies. -/
def execSelfTestPass (bit : Nat) (s : State) : Res :=
  if s.mode = .safe ∨ bit = 0 then .next s
  else if 36 < bit then .next (if s.mode = .boot then finishBoot { s with verified := true } else s)
  else if bit = 35 then (if s.isW && !s.twinFailed then .next { setReady s 35 true with twinUp := true } else .next s)
  else .next (finishBoot (setReady s bit true))

/-- Every context's log mode is cleared (R382). -/
def clearLogs (s : State) : State := (List.range 64).foldl (fun s c => if logMode s c = 0 then s else endLog s c) s

/-- SELF_TEST_FAIL (R382): a function of no READY bit stands for the signature of the boot firmware, which is checked once,
before that firmware runs. -/
def execSelfTestFail (bit : Nat) (detail : BitVec 32) (s : State) : Res :=
  if s.mode = .safe then .next s
  else if bit = 0 then .next { powerDown s .linkWait 0x08 0 detail with twinUp := s.twinUp, twinFailed := s.twinFailed }
  else if bit = 1 then .next { enterSafe s 0x07 0 detail with sideband := false }
  else if bit < 26 then .next (enterSafe s 0x03 (bit - 2) detail)
  else if bit < 34 then .next (enterSafe s 0x02 (bit - 26) detail)
  else if bit = 34 then .next (enterSafe s 0x04 0 detail)
  else if bit = 35 then (if s.isW then .next (twinLost s) else .next s)
  else if bit = 36 then .next (setReady (clearLogs s) 36 false)
  else .next (if s.verified then s else enterSafe s 0x01 0 detail)

/-- LINK_TRAINED (R382): HOST is set; a device that waited for its link clears the record and goes on with bring-up. -/
def execLinkTrained (s : State) : Res :=
  match s.mode with
  | .safe => .next s
  | .linkWait => .next (finishBoot { setReady s 0 true with mode := .boot, failRec := 0 })
  | _ => .next (finishBoot (setReady s 0 true))

/-- LINK_RETRAIN_TIMER (R382): in the link-wait state the device trains the link again; whether it trains is another
event. -/
def execLinkRetrainTimer (s : State) : Res := .next s

/-! ## Attestation (R384) -/

/-- SPDM_REQUEST (R384): the report that is signed carries the requester's nonce. -/
def execSpdmRequest (nonce : Nat) (s : State) : Res := .next { s with report := some nonce }

/-! ## Power and heat (R385) -/

/-- CLOCK_CHANGE (R385): the arithmetic clock is a multiple of 25 MHz from 200 to 600. -/
def execClockChange (mhz : Nat) (s : State) : Res :=
  if mhz % 25 = 0 ∧ 200 ≤ mhz ∧ mhz ≤ 600 ∧ s.mode ≠ .safe then .next { s with mhz := mhz } else .next s

/-- THERMAL_THROTTLE (R385): at 100 °C the clock falls to 200 MHz, and the event is reported. -/
def execThermalThrottle (s : State) : Res :=
  if s.mode = .safe then .next s else .next (report { s with mhz := 200 } ⟨0x16, 0, 0, noCore, 0, none, 0, 0, 0⟩)

/-- The safe state for a fault that is no self-test's: DETAIL is a free value (R383). -/
def enterSafeFree (s : State) (code : Nat) : State :=
  if s.mode = .safe then s else enterSafe { s with draws := s.draws + 1 } code 0 (Config.freeWord s.draws)

/-- THERMAL_SHUTDOWN (R385): at 115 °C the device enters the safe state. -/
def execThermalShutdown (s : State) : Res := .next (enterSafeFree s 0x05)

/-- SUPPLY_FAULT (R385). -/
def execSupplyFault (s : State) : Res := .next (enterSafeFree s 0x06)

end Sys2Proof.Machine
end

