-- ==== Sys2Proof/Machine/Cvt.lean ====
section
/-!
DEFINITION. Conversions, packing and quantisation (R98 to R103), on the conversion rules of R66 to R68 and the element
layouts of R57 and R61.
-/

namespace Sys2Proof.Machine

/-- Operand values converted in order into codes of `w` bits packed from bit 0 up: the word, the flags, and the
generator after the last (R57, R67, R68). -/
def convertAll (fmt : FpFmt) (env : RndEnv) (w : Nat) : List (Fp × Flags) → Nat → Word → FRes × Word
  | [], _, seed => (⟨0, 0⟩, seed)
  | (x, fl) :: xs, i, seed =>
    let r := fpConvert fmt env x seed
    let rest := convertAll fmt env w xs (i + 1) r.2
    (⟨r.1.bits % 2 ^ w * 2 ^ (w * i) + rest.1.bits, fl ||| r.1.fl ||| rest.1.fl⟩, rest.2)

/-- What a narrowing conversion delivers in a lane; the generator advances only under SRN (R68). -/
def narrowOut (env : RndEnv) (r : FRes × Word) : LaneOut :=
  { LaneOut.fp r.1 with seed := if env.srn then some r.2 else none }

/-- The value of an integer code of `w` bits, two's complement. -/
def signedElem (w : Nat) (code : Nat) : Int := (BitVec.ofNat w code).toInt

/-- Integers packed as codes of `w` bits from bit 0 up. -/
def packInts (w : Nat) : List Int → Nat → Nat
  | [], _ => 0
  | n :: ns, i => (BitVec.ofInt w n).toNat * 2 ^ (w * i) + packInts w ns (i + 1)

/-- Element `i` of `w` bits of a word (R57). -/
def packedElem (a : Word) (w i : Nat) : Nat := (a.extractLsb' (w * i) w).toNat

/-- A product and the flag of an invalid one (R100). -/
def mulFlagged (a b : Fp) : Fp × Flags := (fpMul a b, if mulInvalid a b then flNV else 0)

/-- The flags of a list of results. -/
def allFlags (rs : List Flags) : Flags := rs.foldl (· ||| ·) 0

/-- The vector operands of a pack: a run A, a single B (R100). -/
def packOp (f : V3) (ox : Option Ox) (m : Nat) : VecOp := plainOp (.vec f.nw f.d 1) [f.b] [(f.a, m)] ox true

/-- The FP32 products of a run with a multiplier, each with its flag. -/
def runProducts (env : RndEnv) (g : Group) (a : BitVec 7) (m : Nat) (scale : Word) (l : Nat) : List (Fp × Flags) :=
  (runFields a m).map fun r => mulFlagged (fp32In env (readV g r l)) (fp32In env scale)

/-- pk to a floating-point element format (R100). -/
def packFp (fmt : FpFmt) (m : Nat) (f : V3) (ox : Option Ox) : State → Res :=
  runVec (packOp f ox m) fun g l =>
    let env := rndEnv g.fpctl
    narrowOut env (convertAll fmt env fmt.width (runProducts env g f.a m (readField g f.b l) l) 0 (lane g.srseed l))

/-- pk to an integer element format of `w` bits (R100). -/
def packInt (w m : Nat) (f : V3) (ox : Option Ox) : State → Res :=
  runVec (packOp f ox m) fun g l =>
    let env := rndEnv g.fpctl
    let rs := (runProducts env g f.a m (readField g f.b l) l).map fun p =>
      let r := fpToInt env.rm (-2 ^ (w - 1)) (2 ^ (w - 1) - 1) p.1
      (r.1, p.2 ||| r.2)
    .fp ⟨packInts w (rs.map Prod.fst) 0, allFlags (rs.map Prod.snd)⟩

/-- One asymmetric code with zero point `z` (R102). -/
def quantise (env : RndEnv) (w : Nat) (z : Int) (p : Fp × Flags) : Int × Flags :=
  let t := fpToInt env.rm (-2 ^ 31) (2 ^ 31 - 1) p.1
  let q := t.1 + z
  let lo : Int := -2 ^ (w - 1)
  let hi : Int := 2 ^ (w - 1) - 1
  (max lo (min hi q), p.2 ||| t.2 ||| if q < lo ∨ q > hi then flNV ||| flNX else 0)

/-- The zero point of AQ8 or AQ4 (R61): a byte in two's complement, or a 4-bit code less 8. -/
def zeroPoint (w : Nat) (code : Nat) : Int := if w = 8 then signedElem 8 (code % 256) else (code % 16 : Int) - 8

/-- pkq (R102). -/
def packQuant (w m : Nat) (f : V3) (ox : Ox) : State → Res :=
  runVec (plainOp (.vec f.nw f.d 1) [f.b, ox.c] [(f.a, m)] (some ox) true) fun g l =>
    let env := rndEnv g.fpctl
    let rs := (runProducts env g f.a m (readField g f.b l) l).map
      (quantise env w (zeroPoint w (readField g ox.c l).toNat))
    .fp ⟨packInts w (rs.map Prod.fst) 0, allFlags (rs.map Prod.snd)⟩

/-- An unpack into a run of `m` registers: element values times the multiplier, one rounding into FP32 each (R101). -/
def unpack (m : Nat) (f : V3) (ox : Option Ox) (elem : Word → Nat → Fp) (scale : RndEnv → Word → Fp) : State → Res :=
  runVec (plainOp (.vec f.nw f.d m) [f.a, f.b] [] ox true) fun g l =>
    let env := rndEnv g.fpctl
    let a := readField g f.a l
    let b := readField g f.b l
    let rs := (List.range m).map fun i => mulRes fp32 env (elem a i) (scale env b)
    ⟨rs.map fun r => BitVec.ofNat 32 r.bits, allFlags (rs.map FRes.fl), none, none, 0⟩

/-- upk from a floating-point element format (R101). -/
def unpackFp (fmt : FpFmt) (m : Nat) (f : V3) (ox : Option Ox) : State → Res :=
  unpack m f ox (fun a i => fpRead fmt (packedElem a fmt.width i)) fp32In

/-- upk from an integer element format (R101). DESIGN CHOICE (log entry 148): an element 0 counts as +0, so that a negative s
gives −0. -/
def unpackInt (w m : Nat) (f : V3) (ox : Option Ox) : State → Res :=
  unpack m f ox (fun a i => fpOfInt (signedElem w (packedElem a w i))) fp32In

/-- upk.n8 and upk.n4 (R103): the FP16 scale is read as it stands. DESIGN CHOICE (log entry 148): a difference q − z of 0
counts as +0, so that a negative scale gives −0. -/
def unpackQuant (w m : Nat) (f : V3) (ox : Option Ox) : State → Res :=
  runVec (plainOp (.vec f.nw f.d m) [f.a, f.b] [] ox true) fun g l =>
    let env := rndEnv g.fpctl
    let a := readField g f.a l
    let b := readField g f.b l
    let z := zeroPoint w (packedElem b 8 2)
    let rs := (List.range m).map fun i =>
      mulRes fp32 env (fpOfInt (signedElem w (packedElem a w i) - z)) (fpRead fp16 (halfOf b 0))
    ⟨rs.map fun r => BitVec.ofNat 32 r.bits, allFlags (rs.map FRes.fl), none, none, 0⟩

/-- A conversion to FP32 (R98). -/
def toF32 (f : V2) (ox : Option Ox) (read : RndEnv → Word → Fp) : State → Res :=
  runVec (v2Op f ox true) fun g l =>
    let env := rndEnv g.fpctl
    .fp (fpDeliver fp32 env.rm env.ftz (read env (readField g f.a l)))

/-- A conversion to an integer (R98). -/
def toInt32 (f : V2) (ox : Option Ox) (lo hi : Int) : State → Res :=
  runVec (v2Op f ox true) fun g l =>
    let env := rndEnv g.fpctl
    let r := fpToInt env.rm lo hi (fp32In env (readField g f.a l))
    ⟨[BitVec.ofInt 32 r.1], r.2, none, none, 0⟩

/-- A conversion of one FP32 value to a 16-bit format (R98). -/
def toHalf (fmt : FpFmt) (f : V2) (ox : Option Ox) : State → Res :=
  runVec (v2Op f ox true) fun g l =>
    let env := rndEnv g.fpctl
    narrowOut env (convertAll fmt env 16 [(fp32In env (readField g f.a l), 0)] 0 (lane g.srseed l))

/-- A conversion of two FP32 values to halves, A first (R99). -/
def toHalves (fmt : FpFmt) (f : V3) (ox : Option Ox) : State → Res :=
  runVec (v3Op f ox true) fun g l =>
    let env := rndEnv g.fpctl
    narrowOut env (convertAll fmt env 16
      [(fp32In env (readField g f.a l), 0), (fp32In env (readField g f.b l), 0)] 0 (lane g.srseed l))

/-! ## Instructions -/

/-- cvt.f32.i32 (R98). -/
def execCvtF32I32 (f : V2) (ox : Option Ox) (s : State) : Res := toF32 f ox (fun _ w => fpOfInt w.toInt) s

/-- cvt.f32.n32 (R98). -/
def execCvtF32N32 (f : V2) (ox : Option Ox) (s : State) : Res := toF32 f ox (fun _ w => fpOfInt w.toNat) s

/-- cvt.i32.f32 (R98). -/
def execCvtI32F32 (f : V2) (ox : Option Ox) (s : State) : Res := toInt32 f ox (-2 ^ 31) (2 ^ 31 - 1) s

/-- cvt.n32.f32 (R98). -/
def execCvtN32F32 (f : V2) (ox : Option Ox) (s : State) : Res := toInt32 f ox 0 (2 ^ 32 - 1) s

/-- cvt.f16.f32 (R98). -/
def execCvtF16F32 (f : V2) (ox : Option Ox) (s : State) : Res := toHalf fp16 f ox s

/-- cvt.bf16.f32 (R98). -/
def execCvtBf16F32 (f : V2) (ox : Option Ox) (s : State) : Res := toHalf bf16 f ox s

/-- cvt.f32.f16 (R98). -/
def execCvtF32F16 (f : V2) (ox : Option Ox) (s : State) : Res := toF32 f ox (fun env w => fpOperand fp16 env.ftz (halfOf w 0)) s

/-- cvt.f32.bf16 (R98). -/
def execCvtF32Bf16 (f : V2) (ox : Option Ox) (s : State) : Res := toF32 f ox (fun env w => fpOperand bf16 env.ftz (halfOf w 0)) s

/-- cvt.f16x2.f32 (R99). -/
def execCvtF16x2F32 (f : V3) (ox : Option Ox) (s : State) : Res := toHalves fp16 f ox s

/-- cvt.bf16x2.f32 (R99). -/
def execCvtBf16x2F32 (f : V3) (ox : Option Ox) (s : State) : Res := toHalves bf16 f ox s

/-- pk.e4m3 (R100). -/
def execPkE4m3 (f : V3) (ox : Option Ox) (s : State) : Res := packFp e4m3 4 f ox s

/-- pk.e5m2 (R100). -/
def execPkE5m2 (f : V3) (ox : Option Ox) (s : State) : Res := packFp e5m2 4 f ox s

/-- pk.e3m2 (R100). -/
def execPkE3m2 (f : V3) (ox : Option Ox) (s : State) : Res := packFp e3m2 4 f ox s

/-- pk.e2m3 (R100). -/
def execPkE2m3 (f : V3) (ox : Option Ox) (s : State) : Res := packFp e2m3 4 f ox s

/-- pk.e2m1 (R100). -/
def execPkE2m1 (f : V3) (ox : Option Ox) (s : State) : Res := packFp e2m1 8 f ox s

/-- pk.i8 (R100). -/
def execPkI8 (f : V3) (ox : Option Ox) (s : State) : Res := packInt 8 4 f ox s

/-- pk.i4 (R100). -/
def execPkI4 (f : V3) (ox : Option Ox) (s : State) : Res := packInt 4 8 f ox s

/-- pkq.n8 (R102). -/
def execPkqN8 (f : V3) (ox : Ox) (s : State) : Res := packQuant 8 4 f ox s

/-- pkq.n4 (R102). -/
def execPkqN4 (f : V3) (ox : Ox) (s : State) : Res := packQuant 4 8 f ox s

/-- upk.e4m3 (R101). -/
def execUpkE4m3 (f : V3) (ox : Option Ox) (s : State) : Res := unpackFp e4m3 4 f ox s

/-- upk.e5m2 (R101). -/
def execUpkE5m2 (f : V3) (ox : Option Ox) (s : State) : Res := unpackFp e5m2 4 f ox s

/-- upk.e3m2 (R101). -/
def execUpkE3m2 (f : V3) (ox : Option Ox) (s : State) : Res := unpackFp e3m2 4 f ox s

/-- upk.e2m3 (R101). -/
def execUpkE2m3 (f : V3) (ox : Option Ox) (s : State) : Res := unpackFp e2m3 4 f ox s

/-- upk.e2m1 (R101). -/
def execUpkE2m1 (f : V3) (ox : Option Ox) (s : State) : Res := unpackFp e2m1 8 f ox s

/-- upk.i8 (R101). -/
def execUpkI8 (f : V3) (ox : Option Ox) (s : State) : Res := unpackInt 8 4 f ox s

/-- upk.i4 (R101). -/
def execUpkI4 (f : V3) (ox : Option Ox) (s : State) : Res := unpackInt 4 8 f ox s

/-- upk.n8 (R103). -/
def execUpkN8 (f : V3) (ox : Option Ox) (s : State) : Res := unpackQuant 8 4 f ox s

/-- upk.n4 (R103). -/
def execUpkN4 (f : V3) (ox : Option Ox) (s : State) : Res := unpackQuant 4 8 f ox s

end Sys2Proof.Machine
end

