-- ==== Sys2Proof/Machine/LaneMove.lean ====
section
/-!
DEFINITION. Moves between lanes and between registers chosen at run time (R89 to R91).
-/

namespace Sys2Proof.Machine

/-- The lane number in a word's bits [6:0]. -/
def laneNo (w : Word) : Nat := w.toNat % 128

/-- A shuffle (R89): each lane reads A in the lane that `src` picks from its own number and n; every lane reads before
any lane writes. -/
def shuffle (f : V3) (ox : Option Ox) (src : Nat → Nat → Nat) : State → Res := fun s =>
  withIssuer s fun g _ =>
    runVec { v3Op f ox false with
        reads := fun l => [(f.b, l), (f.a, src l (laneNo (readField g f.b l)))] }
      (fun g l => .one (readField g f.a (src l (laneNo (readField g f.b l))))) s

/-- vshfl.idx.b32 (R89). -/
def execVshflIdxB32 (f : V3) (ox : Option Ox) (s : State) : Res := shuffle f ox (fun _ n => n) s

/-- vshfl.up.b32 (R89). -/
def execVshflUpB32 (f : V3) (ox : Option Ox) (s : State) : Res := shuffle f ox (fun l n => if n ≤ l then l - n else l) s

/-- vshfl.dn.b32 (R89). -/
def execVshflDnB32 (f : V3) (ox : Option Ox) (s : State) : Res :=
  shuffle f ox (fun l n => if l + n ≤ 127 then l + n else l) s

/-- vshfl.xor.b32 (R89). -/
def execVshflXorB32 (f : V3) (ox : Option Ox) (s : State) : Res := shuffle f ox (fun l n => Nat.xor l n) s

/-- vbcst.b32 (R90). -/
def execVbcstB32 (f : VB) (ox : Option Ox) (s : State) : Res :=
  runVec { plainOp (.vec f.nw f.d 1) [] [] ox false with scal := if f.si then none else some f.sb }
    (fun g _ => .one (vsB g f.si f.sb false)) s

/-- The lane that vbcst.lane.b32 and vget.b32 name (R90). -/
def laneArg (g : Group) (si : Bool) (sb : BitVec 6) : Nat :=
  if si then sb.toNat else (sReg g sb.toNat).toNat % 128

/-- vbcst.lane.b32 (R90). -/
def execVbcstLaneB32 (f : VS) (ox : Option Ox) (s : State) : Res :=
  withIssuer s fun g _ =>
    runVec { vsOp f ox with reads := fun _ => [(f.a, laneArg g f.si f.sb)] }
      (fun g _ => .one (readField g f.a (laneArg g f.si f.sb))) s

/-- vget.b32 (R90): a lane's value into a scalar, once for the group, if a lane is active. It pops an input window that it
reads (R165), and a poisoned lane traps for every active lane (R125). -/
def execVgetB32 (f : VGet) (ox : Option Ox) (s : State) : Res :=
  withIssuer s fun g c =>
    let o : VecOp := { plainOp (.pred 0) [f.a] [] ox false with scal := if f.si then none else some f.sb }
    match operandCause g o with
    | some k => wordTrap s g c k
    | none =>
      let act := activeMask g c ox
      if act = 0 then retire s g c
      else if queuesReady g o = false then waits s
      else if (o.scal.map fun n => tget g.sPoison n.toNat false).getD false then
        trapAt s (popQueues g o) c 0x70 (execMask g c) 0xFF 0 []
      else if poisonField g f.a (laneArg g f.si f.sb) then trapAt s (popQueues g o) c 0x70 act 0xFF 0 []
      else retire s (setS (popQueues g o) f.d.toNat ((readField g f.a (laneArg g f.si f.sb)).zeroExtend 64)) c

/-- The field of the register `n` above a base, if it is one of v0 to v123. -/
def indexed (base : BitVec 7) (n : Nat) : Nat := base.toNat + n

/-- The trap of a lane's indexed register: 0x04 at or above REGALLOC, 0x01 for a window (R91, R165). -/
def indexCause (g : Group) (r : Nat) : Option Nat :=
  if g.regAlloc ≤ r then some 4
  else if (windowOf g (BitVec.ofNat 7 r)).isSome then some 1
  else none

/-- vrdx.b32 (R91). -/
def execVrdxB32 (f : V3) (ox : Option Ox) (s : State) : Res :=
  withIssuer s fun g _ =>
    let reg (l : Nat) : Nat := indexed f.a (laneNo (readField g f.b l))
    let o : VecOp := { plainOp (.vec f.nw f.d 1) [f.b] [] ox false with
      named := [f.a]
      reads := fun l => (f.b, l) :: if (indexCause g (reg l)).isNone then [(BitVec.ofNat 7 (reg l), l)] else [] }
    runVec o (fun g l => match indexCause g (reg l) with
      | some k => .trap k
      | none => .one (lane (vReg g (reg l)) l)) s

/-- vwrx.b32 (R91). -/
def execVwrxB32 (f : V3) (ox : Option Ox) (s : State) : Res :=
  runVec { plainOp (.each f.nw f.d) [f.a, f.b] [] ox false with named := [f.d] }
    (fun g l =>
      let r := indexed f.d (laneNo (readField g f.b l))
      match indexCause g r with
      | some k => .trap k
      | none => { LaneOut.one (readField g f.a l) with reg := r }) s

end Sys2Proof.Machine
end

