-- ==== Sys2Proof/Machine/Logic.lean ====
section
/-!
DEFINITION. Logic, shifts and bit fields in lanes (R81 to R83), with scalars and immediates (R84, R85).
-/

namespace Sys2Proof.Machine

/-! ## Operations on words -/

def andW (a b : Word) : Word := a &&& b
def orW (a b : Word) : Word := a ||| b
def xorW (a b : Word) : Word := a ^^^ b
def andnW (a b : Word) : Word := a &&& ~~~b
def ornW (a b : Word) : Word := a ||| ~~~b
def xnorW (a b : Word) : Word := ~~~(a ^^^ b)
def notW (a : Word) : Word := ~~~a
def negW (a : Word) : Word := 0 - a
def absW (a : Word) : Word := if a.msb then 0 - a else a

/-- The count in B[7:0] (R81). -/
def countOf (b : Word) : Nat := b.toNat % 256

def shlByte (a b : Word) : Word := a <<< countOf b
def shrByte (a b : Word) : Word := a >>> countOf b
def sarByte (a b : Word) : Word := a.sshiftRight (countOf b)
def rotlW (a b : Word) : Word := a.rotateLeft (countOf b % 32)
def rotrW (a b : Word) : Word := a.rotateRight (countOf b % 32)

/-- The bits of a word, bit 0 first. -/
def bitsList (a : Word) : List Bool := (List.range 32).map fun i => a.getLsbD i

def popcW (a : Word) : Word := BitVec.ofNat 32 ((bitsList a).filter id).length
def ctzW (a : Word) : Word := BitVec.ofNat 32 ((bitsList a).takeWhile (!·)).length
def clzW (a : Word) : Word := BitVec.ofNat 32 ((bitsList a).reverse.takeWhile (!·)).length
def brevW (a : Word) : Word := BitVec.ofNat 32 (bitsBelow (fun i => a.getLsbD (31 - i)) 32)

/-- The width w′ := min(w, 32 − o) of a bit field (R83). -/
def fieldWidth (o w : Nat) : Nat := min (min w 32) (32 - o)

/-- The low `n` bits. -/
def lowBits (n : Nat) (a : Word) : Word := a &&& BitVec.ofNat 32 (2 ^ n - 1)

def bfxN (a b c : Word) : Word :=
  let o := b.toNat % 32
  lowBits (fieldWidth o (c.toNat % 64)) (a >>> o)
def bfxI (a b c : Word) : Word :=
  let o := b.toNat % 32
  let w := fieldWidth o (c.toNat % 64)
  if w = 0 then 0 else ((lowBits w (a >>> o)) <<< (32 - w)).sshiftRight (32 - w)
def bfiW (a b c : Word) : Word :=
  let o := c.toNat % 32
  let w := fieldWidth o (c.toNat / 256 % 64)
  let m : Word := lowBits w (BitVec.allOnes 32) <<< o
  (a &&& ~~~m) ||| ((lowBits w b) <<< o)
def fshW (a b c : Word) : Word := (a ++ b : BitVec 64).extractLsb' (c.toNat % 32) 32
def prmW (a b c : Word) : Word :=
  wordOf fun i =>
    let sel := c.toNat / 2 ^ (4 * i) % 16
    if 8 ≤ sel then 0 else if sel < 4 then byteOf b sel else byteOf a (sel - 4)

/-! ## Instructions -/

/-- vand.b32 (R81). -/
def execVandB32 (f : V3) (ox : Option Ox) (s : State) : Res := intV3 f ox andW s

/-- vor.b32 (R81). -/
def execVorB32 (f : V3) (ox : Option Ox) (s : State) : Res := intV3 f ox orW s

/-- vxor.b32 (R81). -/
def execVxorB32 (f : V3) (ox : Option Ox) (s : State) : Res := intV3 f ox xorW s

/-- vandn.b32 (R81). -/
def execVandnB32 (f : V3) (ox : Option Ox) (s : State) : Res := intV3 f ox andnW s

/-- vorn.b32 (R81). -/
def execVornB32 (f : V3) (ox : Option Ox) (s : State) : Res := intV3 f ox ornW s

/-- vxnor.b32 (R81). -/
def execVxnorB32 (f : V3) (ox : Option Ox) (s : State) : Res := intV3 f ox xnorW s

/-- vshl.b32 (R81). -/
def execVshlB32 (f : V3) (ox : Option Ox) (s : State) : Res := intV3 f ox shlByte s

/-- vshr.n32 (R81). -/
def execVshrN32 (f : V3) (ox : Option Ox) (s : State) : Res := intV3 f ox shrByte s

/-- vshr.i32 (R81). -/
def execVshrI32 (f : V3) (ox : Option Ox) (s : State) : Res := intV3 f ox sarByte s

/-- vrotl.b32 (R81). -/
def execVrotlB32 (f : V3) (ox : Option Ox) (s : State) : Res := intV3 f ox rotlW s

/-- vrotr.b32 (R81). -/
def execVrotrB32 (f : V3) (ox : Option Ox) (s : State) : Res := intV3 f ox rotrW s

/-- vpopc.b32 (R82). -/
def execVpopcB32 (f : V2) (ox : Option Ox) (s : State) : Res := intV2 f ox popcW s

/-- vclz.b32 (R82). -/
def execVclzB32 (f : V2) (ox : Option Ox) (s : State) : Res := intV2 f ox clzW s

/-- vctz.b32 (R82). -/
def execVctzB32 (f : V2) (ox : Option Ox) (s : State) : Res := intV2 f ox ctzW s

/-- vbrev.b32 (R82). -/
def execVbrevB32 (f : V2) (ox : Option Ox) (s : State) : Res := intV2 f ox brevW s

/-- vneg.i32 (R82). -/
def execVnegI32 (f : V2) (ox : Option Ox) (s : State) : Res := intV2 f ox negW s

/-- vabs.i32 (R82). -/
def execVabsI32 (f : V2) (ox : Option Ox) (s : State) : Res := intV2 f ox absW s

/-- vmov.b32 (R82). -/
def execVmovB32 (f : V2) (ox : Option Ox) (s : State) : Res := intV2 f ox id s

/-- vnot.b32 (R82). -/
def execVnotB32 (f : V2) (ox : Option Ox) (s : State) : Res := intV2 f ox notW s

/-- vbfx.n32 (R83). -/
def execVbfxN32 (f : V3) (ox : Ox) (s : State) : Res := intV4 f ox bfxN s

/-- vbfx.i32 (R83). -/
def execVbfxI32 (f : V3) (ox : Ox) (s : State) : Res := intV4 f ox bfxI s

/-- vbfi.b32 (R83). -/
def execVbfiB32 (f : V3) (ox : Ox) (s : State) : Res := intV4 f ox bfiW s

/-- vfsh.b32 (R83). -/
def execVfshB32 (f : V3) (ox : Ox) (s : State) : Res := intV4 f ox fshW s

/-- vprm.b8 (R83). -/
def execVprmB8 (f : V3) (ox : Ox) (s : State) : Res := intV4 f ox prmW s

/-- vand.b32 with a scalar or immediate (R84). -/
def execVandB32Vs (f : VS) (ox : Option Ox) (s : State) : Res := intVS f ox false andW s

/-- vor.b32 with a scalar or immediate (R84). -/
def execVorB32Vs (f : VS) (ox : Option Ox) (s : State) : Res := intVS f ox false orW s

/-- vxor.b32 with a scalar or immediate (R84). -/
def execVxorB32Vs (f : VS) (ox : Option Ox) (s : State) : Res := intVS f ox false xorW s

/-- vshl.b32 with a scalar or immediate (R84). -/
def execVshlB32Vs (f : VS) (ox : Option Ox) (s : State) : Res := intVS f ox true shlByte s

/-- vshr.n32 with a scalar or immediate (R84). -/
def execVshrN32Vs (f : VS) (ox : Option Ox) (s : State) : Res := intVS f ox true shrByte s

/-- vand.b32 with a 32-bit immediate (R85). -/
def execVandB32Vi (f : VI) (s : State) : Res := intVI f andW s

/-- vor.b32 with a 32-bit immediate (R85). -/
def execVorB32Vi (f : VI) (s : State) : Res := intVI f orW s

/-- vxor.b32 with a 32-bit immediate (R85). -/
def execVxorB32Vi (f : VI) (s : State) : Res := intVI f xorW s

/-- vmov.b32 with a 32-bit immediate (R85). -/
def execVmovB32Vi (f : VM) (s : State) : Res :=
  runVec (plainOp (.vec f.nw f.d 1) [] [] none false) (fun _ _ => .one f.imm) s

end Sys2Proof.Machine
end

