-- ==== Sys2Proof/Machine/ScalarAlu.lean ====
section
/-!
DEFINITION. Scalar arithmetic (R104, R105): it acts once for the group whatever the execution mask holds.
-/

namespace Sys2Proof.Machine

/-- Shifts whose counts reach or pass the width (R104). -/
def shlS {w : Nat} (a : BitVec w) (n : Nat) : BitVec w := a <<< n
def shrS {w : Nat} (a : BitVec w) (n : Nat) : BitVec w := a >>> n
def sarS {w : Nat} (a : BitVec w) (n : Nat) : BitVec w := a.sshiftRight n

def minSigned {w : Nat} (a b : BitVec w) : BitVec w := if a.slt b then a else b
def maxSigned {w : Nat} (a b : BitVec w) : BitVec w := if a.slt b then b else a
def minUnsigned {w : Nat} (a b : BitVec w) : BitVec w := if a.ult b then a else b
def maxUnsigned {w : Nat} (a b : BitVec w) : BitVec w := if a.ult b then b else a

/-! ## Instructions -/

/-- sadd.iW (R104). -/
def execSaddIw (f : S3) (s : State) : Res := scalarS3 f (· + ·) (· + ·) s

/-- ssub.iW (R104). -/
def execSsubIw (f : S3) (s : State) : Res := scalarS3 f (· - ·) (· - ·) s

/-- smul.iW (R104). -/
def execSmulIw (f : S3) (s : State) : Res := scalarS3 f (· * ·) (· * ·) s

/-- sand.bW (R104). -/
def execSandBw (f : S3) (s : State) : Res := scalarS3 f (· &&& ·) (· &&& ·) s

/-- sor.bW (R104). -/
def execSorBw (f : S3) (s : State) : Res := scalarS3 f (· ||| ·) (· ||| ·) s

/-- sxor.bW (R104). -/
def execSxorBw (f : S3) (s : State) : Res := scalarS3 f (· ^^^ ·) (· ^^^ ·) s

/-- smin.iW (R104). -/
def execSminIw (f : S3) (s : State) : Res := scalarS3 f minSigned minSigned s

/-- smax.iW (R104). -/
def execSmaxIw (f : S3) (s : State) : Res := scalarS3 f maxSigned maxSigned s

/-- smin.nW (R104). -/
def execSminNw (f : S3) (s : State) : Res := scalarS3 f minUnsigned minUnsigned s

/-- smax.nW (R104). -/
def execSmaxNw (f : S3) (s : State) : Res := scalarS3 f maxUnsigned maxUnsigned s

/-- sshl.bW (R104). -/
def execSshlBw (f : S3) (s : State) : Res := scalarShift f shlS shlS s

/-- sshr.nW (R104). -/
def execSshrNw (f : S3) (s : State) : Res := scalarShift f shrS shrS s

/-- sshr.iW (R104). -/
def execSshrIw (f : S3) (s : State) : Res := scalarShift f sarS sarS s

/-- sseq.bW (R104). -/
def execSseqBw (f : S3) (s : State) : Res := scalarCmp f (· == ·) (· == ·) s

/-- sslt.iW (R104). -/
def execSsltIw (f : S3) (s : State) : Res := scalarCmp f BitVec.slt BitVec.slt s

/-- sslt.nW (R104). -/
def execSsltNw (f : S3) (s : State) : Res := scalarCmp f BitVec.ult BitVec.ult s

/-- sadd.iW with an immediate (R104). -/
def execSaddIwSi (f : SI) (s : State) : Res := scalarSI f (· + ·) (· + ·) s

/-- sand.bW with an immediate (R104). -/
def execSandBwSi (f : SI) (s : State) : Res := scalarSI f (· &&& ·) (· &&& ·) s

/-- sor.bW with an immediate (R104). -/
def execSorBwSi (f : SI) (s : State) : Res := scalarSI f (· ||| ·) (· ||| ·) s

/-- sxor.bW with an immediate (R104). -/
def execSxorBwSi (f : SI) (s : State) : Res := scalarSI f (· ^^^ ·) (· ^^^ ·) s

/-- smul.iW with an immediate (R104). -/
def execSmulIwSi (f : SI) (s : State) : Res := scalarSI f (· * ·) (· * ·) s

/-- smov.bW (R104). -/
def execSmovBw (f : SM) (s : State) : Res := runScalar [] f.d.toNat (fun _ => if f.w then f.imm.signExtend 64 else f.imm.zeroExtend 64) s

end Sys2Proof.Machine
end

