-- ==== Sys2Proof/Machine/Approx.lean ====
section
/-!
DEFINITION. The real functions that R97 bounds, in fixed point: exponential, logarithm, sine, cosine, hyperbolic tangent
and arctangent, each to well below the last place of any FP32 result. They say which results the bounds of R97 admit; which
admissible one the device gives stays open.
-/

namespace Sys2Proof.Machine

/-! ## Fixed point -/

/-- The unit of the fixed-point numbers: 2^256 stands for 1. -/
def fxOne : Nat := 2 ^ 256

/-- π in units of 2^-512. -/
def piWide : Nat := 0x3243F6A8885A308D313198A2E03707344A4093822299F31D0082EFA98EC4E6C89452821E638D01377BE5466CF34E90C6CC0AC29B7C97C50DD3F84D5B5B5470917

/-- π. -/
def fxPi : Nat := piWide / 2 ^ 256

/-- The natural logarithm of 2. -/
def fxLn2 : Nat := 0xB17217F7D1CF79ABC9E3B39803F2F6AF40F343267298B62D8A0D175B8BAAFA2B

/-- A magnitude m × 2^e with e no less than −256. -/
def fxOf (m : Nat) (e : Int) : Nat := m * 2 ^ (e + 256).toNat

/-! ## Series, by their innermost term first -/

/-- 1 + r/k (1 + r/(k+1) (1 + ...)). -/
def expSeries (r : Nat) : Nat → Nat → Nat
  | 0, _ => fxOne
  | n + 1, k => fxOne + r * expSeries r n (k + 1) / (k * fxOne)

/-- 1 − q/(k (k+1)) (1 − q/((k+2) (k+3)) (1 − ...)), which from k = 2 is sin x / x and from k = 1 cos x, for q = x². -/
def sinSeries (q : Nat) : Nat → Nat → Int
  | 0, _ => fxOne
  | n + 1, k => fxOne - q * sinSeries q n (k + 2) / (k * (k + 1) * fxOne : Nat)

/-- 1/k − q (1/(k+2) − q (...)), which from k = 1 is atan x / x for q = x². -/
def atanSeries (q : Nat) : Nat → Nat → Int
  | 0, _ => 0
  | n + 1, k => fxOne / k - q * atanSeries q n (k + 2) / fxOne

/-! ## The functions -/

/-- 2^z for a fixed-point exponent. -/
def fxExp2 (z : Int) : Nat :=
  let t := expSeries ((z % fxOne).toNat * fxLn2 / fxOne) 64 1
  let n := z / fxOne
  if n < 0 then t / 2 ^ n.natAbs else t * 2 ^ n.toNat

/-- The binary digits of log₂ y after the point, for y from 1 to 2 in units of 2^-512. -/
def logDigits : Nat → Nat → Nat → Nat
  | 0, _, acc => acc
  | n + 1, y, acc =>
    let q := y * y / 2 ^ 512
    if 2 ^ 513 ≤ q then logDigits n (q / 2) (2 * acc + 1) else logDigits n q (2 * acc)

/-- log₂ of a non-zero magnitude m × 2^e. -/
def fxLog2 (m : Nat) (e : Int) : Int :=
  let k := Nat.log2 m
  (k + e) * fxOne + logDigits 256 (m * 2 ^ 512 / 2 ^ k) 0

/-- A magnitude reduced by whole turns. -/
def reduced (m : Nat) (e : Int) : Nat := m * 2 ^ (e + 512).toNat % (2 * piWide) / 2 ^ 256

/-- The sine of a magnitude m × 2^e. -/
def fxSin (m : Nat) (e : Int) : Int :=
  let r := reduced m e
  r * sinSeries (r * r / fxOne) 64 2 / fxOne

/-- The cosine of a magnitude m × 2^e. -/
def fxCos (m : Nat) (e : Int) : Int :=
  let r := reduced m e
  sinSeries (r * r / fxOne) 64 1

/-- The hyperbolic tangent of a fixed-point magnitude below 16: (E − 1)/(E + 1) for E = exp 2x. -/
def fxTanh (x : Nat) : Nat :=
  let t := fxExp2 (2 * x * fxOne / fxLn2 : Nat)
  (t - fxOne) * fxOne / (t + fxOne)

/-- tan(y/2) from tan y. -/
def halfTan (t : Nat) : Nat := t * fxOne / (fxOne + isqrt (fxOne * fxOne + t * t))

/-- The arctangent of a fixed-point number from 0 to 1, by three halvings of the angle. -/
def fxAtan (t : Nat) : Nat :=
  let h := halfTan (halfTan (halfTan t))
  (8 * (h * atanSeries (h * h / fxOne) 48 1) / fxOne).toNat

/-- The angle, from 0 to π, of a point with abscissa (−1)^neg × o × 2^h and ordinate m × 2^e, neither of them zero. -/
def fxAngle (m : Nat) (e : Int) (neg : Bool) (o : Nat) (h : Int) : Nat :=
  let q := min e h
  let y := m * 2 ^ (e - q).toNat
  let x := o * 2 ^ (h - q).toNat
  let acute := if y ≤ x then fxAtan (y * fxOne / x) else fxPi / 2 - fxAtan (x * fxOne / y)
  if neg then fxPi - acute else acute

/-! ## Bounds -/

/-- `n` units in the last place of an FP32 result near a fixed-point value. -/
def ulps (n : Nat) (v : Int) : Nat := n * 2 ^ ((max ((Nat.log2 v.natAbs : Int) - 256 - 23) (-149)) + 256).toNat

/-! A value that lies strictly between two fixed-point numbers stands as the odd number of half units between them, so that
its distance from a number of FP32 compares with a bound as the value's own does. -/

/-- A value whose evaluation, rounded down, is `v`. -/
def fxMid (v : Int) : Int := 2 * v + 1

/-- A value just below the exact `v`. -/
def fxBelow (v : Int) : Int := 2 * v - 1

/-- 2^-60: of a magnitude below it, sine, tangent and their like are less by so little that no number of FP32, and no bound,
lies between. -/
def fxTiny : Nat := 2 ^ 196

/-- The sine of a magnitude, in half units: of a tiny one just below it. -/
def sinMid (m : Nat) (e : Int) : Int := if fxOf m e < fxTiny then fxBelow (fxOf m e) else fxMid (fxSin m e)

/-- The cosine, in half units: of a tiny magnitude just below 1. -/
def cosMid (m : Nat) (e : Int) : Int := if fxOf m e < fxTiny then fxBelow fxOne else fxMid (fxCos m e)

/-- The hyperbolic tangent, in half units. -/
def tanhMid (x : Nat) : Int := if x < fxTiny then fxBelow x else fxMid (fxTanh x)

/-- The angle of a point, in half units: with a tiny ordinate beside a positive abscissa it lies just below their quotient. -/
def angleMid (m : Nat) (e : Int) (neg : Bool) (o : Nat) (h : Int) : Int :=
  let q := min e h
  let y := m * 2 ^ (e - q).toNat
  let x := o * 2 ^ (h - q).toNat
  let t := y * fxOne / x
  if !neg && decide (t < fxTiny) then (if y * fxOne % x = 0 then fxBelow t else fxMid t) else fxMid (fxAngle m e neg o h)

/-- Whether an FP32 code is a finite value of magnitude at most `limit` within `tol` of a value in half units. -/
def admitted (v : Int) (tol limit bits : Nat) : Bool :=
  decide (magOf fp32 bits ≤ limit) && match fpRead fp32 bits with
    | .fin neg m e => decide ((v - 2 * if neg then -(fxOf m e : Int) else fxOf m e).natAbs ≤ 2 * tol)
    | _ => false

/-- The FP32 code nearest a value in half units, of magnitude at most `limit`. -/
def nearestCode (v : Int) (limit : Nat) : Nat :=
  let r := if v = 0 then 0 else (fpRound fp32 .ne false (decide (v < 0)) v.natAbs (-257) true).bits
  withSign fp32 (negOf fp32 r) (min (magOf fp32 r) limit)

/-- A result that the bound of R97 admits: the device's own where it is one, which nothing says of the constant that stands
for it. -/
def boundedCode (v : Int) (tol limit : Nat) (own : Word) : Nat :=
  if admitted v tol limit own.toNat then own.toNat else nearestCode v limit

end Sys2Proof.Machine
end

