-- ==== Sys2Proof/Machine/Sfu.lean ====
section
/-!
DEFINITION. Transcendentals, division and square root (R97). Division and square root are exact under RM. The others
deliver one fixed result for each input, which the spec bounds and does not give: outside the exact cases that R97
lists it is a free value of Sys2Proof/Config.lean, held to the bounds and limits that R97 states.
-/

namespace Sys2Proof.Machine

/-- Canonical FP32 codes of R97. -/
def f32Zero (neg : Bool) : FRes := ⟨withSign fp32 neg 0, 0⟩
def f32Inf (neg : Bool) (fl : Flags) : FRes := ⟨infCode fp32 neg, fl⟩
def f32One (neg : Bool) (fl : Flags) : FRes := ⟨withSign fp32 neg 0x3F800000, fl⟩
def f32Nan (fl : Flags) : FRes := ⟨nanCode fp32, fl⟩

/-- The mode that rounds a magnitude away from zero or towards it. -/
def sideways (up neg : Bool) : Rm := if up then (if neg then .dn else .up) else .rz

/-- A result that differs from the exact value: NX, OF for infinity, UF when it is subnormal, flushed or zero (R97). -/
def approxRes (ftz : Bool) (bits : Nat) : FRes :=
  let mag := magOf fp32 bits
  if mag = 0x7F800000 then ⟨bits, flOF ||| flNX⟩
  else if mag < 0x800000 then ⟨if ftz then withSign fp32 (negOf fp32 bits) 0 else bits, flUF ||| flNX⟩
  else ⟨bits, flNX⟩

/-- One of the two FP32 values beside a magnitude that is not one, or infinity beyond the largest (R97, bound 1 ulp). -/
def besideRes (ftz up neg : Bool) (q : Nat × Int × Bool) : FRes :=
  let near := fpRound fp32 .ne ftz neg q.1 q.2.1 q.2.2
  if near.fl.getLsbD 2 then near
  else approxRes ftz (fpRound fp32 (sideways up neg) false neg q.1 q.2.1 q.2.2).bits

/-- A value with the sign of the operand. -/
def signed (neg : Bool) (v : Int) : Int := if neg then -v else v

/-- Whether m is a power of two. -/
def isPow2 (m : Nat) : Bool := m == 2 ^ Nat.log2 m

/-- frcp.f32. -/
def rcpRes (env : RndEnv) (w : Word) : FRes :=
  match fp32In env w with
  | .nan => f32Nan 0
  | .inf neg => f32Zero neg
  | .fin neg m e =>
    if m = 0 then f32Inf neg flDZ
    else if isPow2 m then fpRound fp32 .ne env.ftz neg 1 (-(Nat.log2 m : Int) - e) false
    else besideRes env.ftz (Config.frcpUp w) neg (quotient 1 0 m e 40)

/-- frsq.f32. -/
def rsqRes (env : RndEnv) (w : Word) : FRes :=
  match fp32In env w with
  | .nan => f32Nan 0
  | .inf neg => if neg then f32Nan flNV else f32Zero false
  | .fin neg m e =>
    if m = 0 then f32Inf neg flDZ
    else if neg then f32Nan flNV
    else if isPow2 m && (Nat.log2 m + e) % 2 == 0 then
      fpRound fp32 .ne env.ftz false 1 (-((Nat.log2 m + e) / 2)) false
    else
      let i := quotient 1 0 m e 200
      let r := rootOf i.1 i.2.1
      besideRes env.ftz (Config.frsqUp w) false (r.1, r.2.1, true)

/-- fsqrt.f32. -/
def sqrtRes (env : RndEnv) (w : Word) : FRes :=
  match fp32In env w with
  | .nan => f32Nan 0
  | .inf neg => if neg then f32Nan flNV else f32Inf false 0
  | .fin neg m e =>
    if m = 0 then f32Zero neg
    else if neg then f32Nan flNV
    else
      let r := rootOf m e
      fpRound fp32 env.rm env.ftz false r.1 r.2.1 r.2.2

/-- fexp2.f32. -/
def exp2Res (env : RndEnv) (w : Word) : FRes :=
  match fp32In env w with
  | .nan => f32Nan 0
  | .inf neg => if neg then f32Zero false else f32Inf false 0
  | .fin neg m e =>
    if m = 0 then f32One false 0
    else
      let n := toInteger .dn neg m e
      if n.1 ≥ 128 then f32Inf false (flOF ||| flNX)
      else if n.2 = false ∧ n.1 ≥ -149 then fpRound fp32 .ne env.ftz false 1 n.1 false
      else
        let v : Int := fxExp2 (signed neg (fxOf m e))
        approxRes env.ftz (magOf fp32 (boundedCode (fxMid v) (ulps 2 v) fp32.maxMag (Config.sfuRaw 3 w)))

/-- flog2.f32. -/
def log2Res (env : RndEnv) (w : Word) : FRes :=
  match fp32In env w with
  | .nan => f32Nan 0
  | .inf neg => if neg then f32Nan flNV else f32Inf false 0
  | .fin neg m e =>
    if m = 0 then f32Inf true flDZ
    else if neg then f32Nan flNV
    else if isPow2 m then fpDeliver fp32 .ne false (fpOfInt (Nat.log2 m + e))
    else approxRes env.ftz (boundedCode (fxMid (fxLog2 m e)) (ulps 2 (fxLog2 m e)) fp32.maxMag (Config.sfuRaw 4 w))

/-- The bound of fsin.f32 and fcos.f32, 2^-22. -/
def sinBound : Nat := 2 ^ 234

/-- fsin.f32. -/
def sinRes (env : RndEnv) (w : Word) : FRes :=
  match fp32In env w with
  | .nan => f32Nan 0
  | .inf _ => f32Nan flNV
  | .fin neg m e =>
    if m = 0 then f32Zero neg
    else approxRes env.ftz (boundedCode (signed neg (sinMid m e)) sinBound 0x3F800000 (Config.sfuRaw 5 w))

/-- fcos.f32. -/
def cosRes (env : RndEnv) (w : Word) : FRes :=
  match fp32In env w with
  | .nan => f32Nan 0
  | .inf _ => f32Nan flNV
  | .fin _ m e =>
    if m = 0 then f32One false 0 else approxRes env.ftz (boundedCode (cosMid m e) sinBound 0x3F800000 (Config.sfuRaw 6 w))

/-- ftanh.f32: beyond 9 in magnitude it is 1 with the sign of A. -/
def tanhRes (env : RndEnv) (w : Word) : FRes :=
  match fp32In env w with
  | .nan => f32Nan 0
  | .inf neg => f32One neg 0
  | .fin neg m e =>
    if m = 0 then f32Zero neg
    else if magOf fp32 w.toNat ≥ 0x41100000 then f32One neg flNX
    else
      approxRes env.ftz (boundedCode (signed neg (tanhMid (fxOf m e))) (ulps 2 (fxTanh (fxOf m e))) 0x3F800000 (Config.sfuRaw 7 w))

/-- fdiv.f32. -/
def divRes (env : RndEnv) (a b : Fp) : FRes :=
  match a, b with
  | .nan, _ => f32Nan 0
  | _, .nan => f32Nan 0
  | .inf _, .inf _ => f32Nan flNV
  | .inf n, .fin k _ _ => f32Inf (n != k) 0
  | .fin n _ _, .inf k => f32Zero (n != k)
  | .fin n m e, .fin k o h =>
    if o = 0 then (if m = 0 then f32Nan flNV else f32Inf (n != k) flDZ)
    else if m = 0 then f32Zero (n != k)
    else
      let q := quotient m e o h 40
      fpRound fp32 env.rm env.ftz (n != k) q.1 q.2.1 q.2.2

/-- A rounded multiple of π with the sign of the ordinate: NX and no other flag. -/
def piRes (neg : Bool) (mag : Nat) : FRes := ⟨withSign fp32 neg mag, flNX⟩

/-- fatan2.f32: the angle of the point (B, A). -/
def atan2Res (env : RndEnv) (wa wb : Word) : FRes :=
  match fp32In env wa, fp32In env wb with
  | .nan, _ => f32Nan 0
  | _, .nan => f32Nan 0
  | .inf n, .inf k => piRes n (if k then 0x4016CBE4 else 0x3F490FDB)
  | .inf n, .fin _ _ _ => piRes n 0x3FC90FDB
  | .fin n _ _, .inf k => if k then piRes n 0x40490FDB else f32Zero n
  | .fin n m e, .fin k o h =>
    if m = 0 then (if k then piRes n 0x40490FDB else f32Zero n)
    else if o = 0 then piRes n 0x3FC90FDB
    else
      approxRes env.ftz (boundedCode (signed n (angleMid m e k o h)) (ulps 2 (fxAngle m e k o h)) 0x40490FDB (Config.atan2Raw wa wb))

/-- A one-source SFU operation. -/
def sfuV2 (f : V2) (ox : Option Ox) (op : RndEnv → Word → FRes) : State → Res :=
  runVec (v2Op f ox true) fun g l => .fp (op (rndEnv g.fpctl) (readField g f.a l))

/-! ## Instructions -/

/-- frcp.f32 (R97). -/
def execFrcpF32 (f : V2) (ox : Option Ox) (s : State) : Res := sfuV2 f ox rcpRes s

/-- frsq.f32 (R97). -/
def execFrsqF32 (f : V2) (ox : Option Ox) (s : State) : Res := sfuV2 f ox rsqRes s

/-- fsqrt.f32 (R97). -/
def execFsqrtF32 (f : V2) (ox : Option Ox) (s : State) : Res := sfuV2 f ox sqrtRes s

/-- fexp2.f32 (R97). -/
def execFexp2F32 (f : V2) (ox : Option Ox) (s : State) : Res := sfuV2 f ox exp2Res s

/-- flog2.f32 (R97). -/
def execFlog2F32 (f : V2) (ox : Option Ox) (s : State) : Res := sfuV2 f ox log2Res s

/-- fsin.f32 (R97). -/
def execFsinF32 (f : V2) (ox : Option Ox) (s : State) : Res := sfuV2 f ox sinRes s

/-- fcos.f32 (R97). -/
def execFcosF32 (f : V2) (ox : Option Ox) (s : State) : Res := sfuV2 f ox cosRes s

/-- ftanh.f32 (R97). -/
def execFtanhF32 (f : V2) (ox : Option Ox) (s : State) : Res := sfuV2 f ox tanhRes s

/-- fdiv.f32 (R97). -/
def execFdivF32 (f : V3) (ox : Option Ox) (s : State) : Res := fpV3 f ox divRes s

/-- fatan2.f32 (R97). -/
def execFatan2F32 (f : V3) (ox : Option Ox) (s : State) : Res :=
  runVec (v3Op f ox true) (fun g l => .fp (atan2Res (rndEnv g.fpctl) (readField g f.a l) (readField g f.b l))) s

end Sys2Proof.Machine
end

