-- ==== Sys2Proof/Machine/SysRegs.lean ====
section
/-!
DEFINITION. The named system registers (R17 to R21) and the instructions that read and write them (R118).
-/

namespace Sys2Proof.Machine

/-- GROUPID to CTXID and the other 32- and 64-bit registers, by number (R17, R20, R21). -/
def sysScalar (s : State) (g : Group) (n : Nat) : DWord :=
  match n with
  | 0x01 => BitVec.ofNat 64 g.index
  | 0x02 => BitVec.ofNat 64 g.team
  | 0x03 => if isEpisode g then 0xFFFFFFFF else BitVec.ofNat 64 g.cluster
  | 0x04 => BitVec.ofNat 64 g.grid
  | 0x05 => BitVec.ofNat 64 g.core
  | 0x06 => BitVec.ofNat 64 (hamletOf g.core)
  | 0x07 => BitVec.ofNat 64 s.devId
  | 0x08 => BitVec.ofNat 64 g.slot
  | 0x09 => BitVec.ofNat 64 g.ctx
  | 0x0A => BitVec.ofNat 64 g.cls
  | 0x0B => BitVec.ofNat 64 g.regAlloc
  | 0x0D => cntWord g
  | 0x10 => BitVec.ofNat 64 s.clock
  | 0x20 => g.fpctl.zeroExtend 64
  | 0x30 => trapVec s g.ctx
  | 0x31 => BitVec.ofNat 64 g.trapPc
  | 0x32 => BitVec.ofNat 64 g.trapCause
  | 0x34 => BitVec.ofNat 64 g.trapAddr
  | 0x35 => BitVec.ofNat 64 g.trapDst
  | 0x36 => BitVec.ofNat 64 (frameAddr s g)
  | 0x40 => BitVec.ofNat 64 (logMode s g.ctx)
  | _ => 0

/-- The per-lane registers: LANEID, FFLAGS, SRSEED (R17). -/
def sysLane (g : Group) (n l : Nat) : Word :=
  if n = 0x00 then BitVec.ofNat 32 l else if n = 0x21 then lane g.fflags l else lane g.srseed l

/-- The 128-bit registers: EXEC and TRAPMASK (R17). -/
def sysMask (g : Group) (c : Clause) (n : Nat) : Mask := if n = 0x0C then execMask g c else g.trapMask

/-- The check of a vector field of rdsys and wrsys: a window is 0x01 (R165), a register beyond REGALLOC 0x04. -/
def sysFieldCause (g : Group) (f : BitVec 7) : Option Nat :=
  if (windowOf g f).isSome then some 1 else if beyond g f then some 4 else none

/-- rdsys (R118): a per-lane register is read in the lanes of EXEC, a mask whole. -/
def execRdsys (f : X) (s : State) : Res :=
  withIssuer s fun g c =>
    if f.kd = 0 then
      match sysFieldCause g f.d with
      | some k => wordTrap s g c k
      | none => retire s (setV g f.d.toNat (execMask g c) fun l => sysLane g f.sys.toNat l) c
    else if f.kd = 1 then retire s (setS g f.d.toNat (sysScalar s g f.sys.toNat)) c
    else retire s (setP g f.d.toNat (sysMask g c f.sys.toNat)) c

/-- A write of a per-lane register: a stopping value in any sound lane is trap 0x01 and writes none (R19); otherwise the
lanes that hold poisoned data trap and the others are written (R125). -/
def wrLanes (f : X) (s : State) (g : Group) (c : Clause) : Res :=
  let act := execMask g c
  let bad := act &&& fieldPoison g f.d
  let good := act &&& ~~~bad
  let done (g' : Group) : Res := if bad = 0 then retire s g' c else trapAt s g' c 0x70 bad 0xFF 0 []
  if f.sys = 0x21 then
    if (lanesIn good).any fun l => readV g f.d l >>> 5 ≠ 0 then wordTrap s g c 0x01
    else done { g with fflags := mergeLanes good (readV g f.d) g.fflags }
  else
    let seed (l : Nat) : Word := if readV g f.d l = 0 then 1 else readV g f.d l
    done { g with srseed := mergeLanes good seed g.srseed }

/-- wrsys (R118): FPCTL, FFLAGS or SRSEED (R18, R19, R68). DEDUCED, log entry 114: FPCTL is 32 bits wide, and bits [63:32] of
the scalar written to it are ignored. -/
def execWrsys (f : X) (s : State) : Res :=
  withIssuer s fun g c =>
    if f.sys = 0x20 then
      if tget g.sPoison f.d.toNat false then trapAt s g c 0x70 (execMask g c) 0xFF 0 []
      else if loWord (sReg g f.d.toNat) >>> 9 ≠ 0 then wordTrap s g c 0x01
      else retire s { g with fpctl := loWord (sReg g f.d.toNat) } c
    else match sysFieldCause g f.d with
      | some k => wordTrap s g c k
      | none => wrLanes f s g c

end Sys2Proof.Machine
end

