-- ==== Sys2Proof/Machine/Walk.lean ====
section
/-!
DEFINITION. The page walkers of the hamlets (R273, R276 to R278).
-/

namespace Sys2Proof.Machine

/-- Whether a request is for a page of a context. -/
def WalkReq.asks (r : WalkReq) (ctx page : Nat) : Bool := r.ctx == ctx && r.page == page

/-- PAGE_WALK_START (R277): a free walker of the hamlet's 32 takes the oldest request, with every request for its page. -/
def execPageWalkStart (hamlet : Nat) (s : State) : Res :=
  let running := ((tget s.walking hamlet []).map fun r => (r.ctx, r.page)).dedup
  match tget s.walkQ hamlet [] with
  | [] => .next s
  | r :: rest =>
    if running.length < 32 ∨ running.contains (r.ctx, r.page) then
      .next { s with
        walkQ := tput s.walkQ hamlet (rest.filter fun q => !q.asks r.ctx r.page)
        walking := tupd s.walking hamlet [] fun w => w ++ r :: rest.filter fun q => q.asks r.ctx r.page }
    else .next s

/-- What a walk that fails leaves for one requester: the failure that its access finds when it issues again, or, for
ldg.t, a report that stops no group (R126, R129, R273, R278). -/
def walkFailed (s : State) (r : WalkReq) (why : WalkEnd) : State :=
  if r.soft && decide (engTlb ≤ r.core) then s
  else if r.soft then
    (match why with
      | .absent => report s ⟨0x02, 0x20, r.ctx, r.core, r.page * 4096, none, 0, 0, 0⟩
      | .malformed => s
      | .poison => report s ⟨0x0E, 0x70, r.ctx, r.core, r.page * 4096, none, 0, 0, 0⟩)
  else { s with walkFails := ⟨r.ctx, r.page, r.core, why⟩ :: s.walkFails }

/-- PAGE_WALK_COMPLETE (R273, R276): the walk fills the three levels for each core that asked, or fails. A walk that reads
a host-biased line snoops the host first and waits (R286). -/
def execPageWalkComplete (hamlet ctx page : Nat) (s : State) : Res :=
  let rs := (tget s.walking hamlet []).filter fun r => r.asks ctx page
  match rs with
  | [] => .next s
  | r :: _ => match snoopFirst s (walkReads s ctx (page * 4096)) with
    | some s => .next s
    | none =>
      let s1 := { s with walking := tupd s.walking hamlet [] fun w => w.filter fun r => !r.asks ctx page }
      match walk s ctx (page * 4096) with
      | .ok leaf => .next (rs.foldl (fun s r => tlbFill s ctx r.core leaf) s1)
      | .error why =>
        let s2 := if why = .malformed then report s1 ⟨0x07, 0x21, ctx, min r.core noCore, page * 4096, none, 0, 0, 0⟩ else s1
        .next (rs.foldl (fun s r => walkFailed s r why) s2)

end Sys2Proof.Machine
end

