-- ==== Sys2Proof/Machine/Dispatch.lean ====
section
/-!
DEFINITION. The dispatch of an operation or event to its meaning, one arm per constructor.
-/

namespace Sys2Proof.Machine

/-- The meaning of an instruction or event in a state. -/
def exec (i : Instr) (s : State) : Host.Outcome State Fault Refusal :=
  match i with
  | .vaddI32 f ox => Sys2Proof.Machine.execVaddI32 f ox s
  | .vsubI32 f ox => Sys2Proof.Machine.execVsubI32 f ox s
  | .vaddsI32 f ox => Sys2Proof.Machine.execVaddsI32 f ox s
  | .vsubsI32 f ox => Sys2Proof.Machine.execVsubsI32 f ox s
  | .vaddsN32 f ox => Sys2Proof.Machine.execVaddsN32 f ox s
  | .vsubsN32 f ox => Sys2Proof.Machine.execVsubsN32 f ox s
  | .vminI32 f ox => Sys2Proof.Machine.execVminI32 f ox s
  | .vmaxI32 f ox => Sys2Proof.Machine.execVmaxI32 f ox s
  | .vminN32 f ox => Sys2Proof.Machine.execVminN32 f ox s
  | .vmaxN32 f ox => Sys2Proof.Machine.execVmaxN32 f ox s
  | .vabsdI32 f ox => Sys2Proof.Machine.execVabsdI32 f ox s
  | .vabsdN32 f ox => Sys2Proof.Machine.execVabsdN32 f ox s
  | .vmulI32 f ox => Sys2Proof.Machine.execVmulI32 f ox s
  | .vmulhiI32 f ox => Sys2Proof.Machine.execVmulhiI32 f ox s
  | .vmulhiN32 f ox => Sys2Proof.Machine.execVmulhiN32 f ox s
  | .vmadI32 f ox => Sys2Proof.Machine.execVmadI32 f ox s
  | .vdp4I8 f ox => Sys2Proof.Machine.execVdp4I8 f ox s
  | .vdp4N8 f ox => Sys2Proof.Machine.execVdp4N8 f ox s
  | .vdp2I16 f ox => Sys2Proof.Machine.execVdp2I16 f ox s
  | .vandB32 f ox => Sys2Proof.Machine.execVandB32 f ox s
  | .vorB32 f ox => Sys2Proof.Machine.execVorB32 f ox s
  | .vxorB32 f ox => Sys2Proof.Machine.execVxorB32 f ox s
  | .vandnB32 f ox => Sys2Proof.Machine.execVandnB32 f ox s
  | .vornB32 f ox => Sys2Proof.Machine.execVornB32 f ox s
  | .vxnorB32 f ox => Sys2Proof.Machine.execVxnorB32 f ox s
  | .vshlB32 f ox => Sys2Proof.Machine.execVshlB32 f ox s
  | .vshrN32 f ox => Sys2Proof.Machine.execVshrN32 f ox s
  | .vshrI32 f ox => Sys2Proof.Machine.execVshrI32 f ox s
  | .vrotlB32 f ox => Sys2Proof.Machine.execVrotlB32 f ox s
  | .vrotrB32 f ox => Sys2Proof.Machine.execVrotrB32 f ox s
  | .vpopcB32 f ox => Sys2Proof.Machine.execVpopcB32 f ox s
  | .vclzB32 f ox => Sys2Proof.Machine.execVclzB32 f ox s
  | .vctzB32 f ox => Sys2Proof.Machine.execVctzB32 f ox s
  | .vbrevB32 f ox => Sys2Proof.Machine.execVbrevB32 f ox s
  | .vnegI32 f ox => Sys2Proof.Machine.execVnegI32 f ox s
  | .vabsI32 f ox => Sys2Proof.Machine.execVabsI32 f ox s
  | .vmovB32 f ox => Sys2Proof.Machine.execVmovB32 f ox s
  | .vnotB32 f ox => Sys2Proof.Machine.execVnotB32 f ox s
  | .vbfxN32 f ox => Sys2Proof.Machine.execVbfxN32 f ox s
  | .vbfxI32 f ox => Sys2Proof.Machine.execVbfxI32 f ox s
  | .vbfiB32 f ox => Sys2Proof.Machine.execVbfiB32 f ox s
  | .vfshB32 f ox => Sys2Proof.Machine.execVfshB32 f ox s
  | .vprmB8 f ox => Sys2Proof.Machine.execVprmB8 f ox s
  | .vaddI32Vs f ox => Sys2Proof.Machine.execVaddI32Vs f ox s
  | .vsubI32Vs f ox => Sys2Proof.Machine.execVsubI32Vs f ox s
  | .vmulI32Vs f ox => Sys2Proof.Machine.execVmulI32Vs f ox s
  | .vandB32Vs f ox => Sys2Proof.Machine.execVandB32Vs f ox s
  | .vorB32Vs f ox => Sys2Proof.Machine.execVorB32Vs f ox s
  | .vxorB32Vs f ox => Sys2Proof.Machine.execVxorB32Vs f ox s
  | .vshlB32Vs f ox => Sys2Proof.Machine.execVshlB32Vs f ox s
  | .vshrN32Vs f ox => Sys2Proof.Machine.execVshrN32Vs f ox s
  | .vaddI32Vi f => Sys2Proof.Machine.execVaddI32Vi f s
  | .vmulI32Vi f => Sys2Proof.Machine.execVmulI32Vi f s
  | .vandB32Vi f => Sys2Proof.Machine.execVandB32Vi f s
  | .vorB32Vi f => Sys2Proof.Machine.execVorB32Vi f s
  | .vxorB32Vi f => Sys2Proof.Machine.execVxorB32Vi f s
  | .vmovB32Vi f => Sys2Proof.Machine.execVmovB32Vi f s
  | .faddF32Vi f => Sys2Proof.Machine.execFaddF32Vi f s
  | .fmulF32Vi f => Sys2Proof.Machine.execFmulF32Vi f s
  | .cmpI32 f ox => Sys2Proof.Machine.execCmpI32 f ox s
  | .cmpN32 f ox => Sys2Proof.Machine.execCmpN32 f ox s
  | .cmpF32 f ox => Sys2Proof.Machine.execCmpF32 f ox s
  | .pand f ox => Sys2Proof.Machine.execPand f ox s
  | .por f ox => Sys2Proof.Machine.execPor f ox s
  | .pxor f ox => Sys2Proof.Machine.execPxor f ox s
  | .pandn f ox => Sys2Proof.Machine.execPandn f ox s
  | .pmov f ox => Sys2Proof.Machine.execPmov f ox s
  | .voteAny f ox => Sys2Proof.Machine.execVoteAny f ox s
  | .voteAll f ox => Sys2Proof.Machine.execVoteAll f ox s
  | .voteUni f ox => Sys2Proof.Machine.execVoteUni f ox s
  | .vselB32 sel f ox => Sys2Proof.Machine.execVselB32 sel f ox s
  | .vshflIdxB32 f ox => Sys2Proof.Machine.execVshflIdxB32 f ox s
  | .vshflUpB32 f ox => Sys2Proof.Machine.execVshflUpB32 f ox s
  | .vshflDnB32 f ox => Sys2Proof.Machine.execVshflDnB32 f ox s
  | .vshflXorB32 f ox => Sys2Proof.Machine.execVshflXorB32 f ox s
  | .vbcstB32 f ox => Sys2Proof.Machine.execVbcstB32 f ox s
  | .vbcstLaneB32 f ox => Sys2Proof.Machine.execVbcstLaneB32 f ox s
  | .vgetB32 f ox => Sys2Proof.Machine.execVgetB32 f ox s
  | .vrdxB32 f ox => Sys2Proof.Machine.execVrdxB32 f ox s
  | .vwrxB32 f ox => Sys2Proof.Machine.execVwrxB32 f ox s
  | .cvtF32I32 f ox => Sys2Proof.Machine.execCvtF32I32 f ox s
  | .cvtF32N32 f ox => Sys2Proof.Machine.execCvtF32N32 f ox s
  | .cvtI32F32 f ox => Sys2Proof.Machine.execCvtI32F32 f ox s
  | .cvtN32F32 f ox => Sys2Proof.Machine.execCvtN32F32 f ox s
  | .cvtF16F32 f ox => Sys2Proof.Machine.execCvtF16F32 f ox s
  | .cvtBf16F32 f ox => Sys2Proof.Machine.execCvtBf16F32 f ox s
  | .cvtF32F16 f ox => Sys2Proof.Machine.execCvtF32F16 f ox s
  | .cvtF32Bf16 f ox => Sys2Proof.Machine.execCvtF32Bf16 f ox s
  | .cvtF16x2F32 f ox => Sys2Proof.Machine.execCvtF16x2F32 f ox s
  | .cvtBf16x2F32 f ox => Sys2Proof.Machine.execCvtBf16x2F32 f ox s
  | .pkE4m3 f ox => Sys2Proof.Machine.execPkE4m3 f ox s
  | .pkE5m2 f ox => Sys2Proof.Machine.execPkE5m2 f ox s
  | .pkE3m2 f ox => Sys2Proof.Machine.execPkE3m2 f ox s
  | .pkE2m3 f ox => Sys2Proof.Machine.execPkE2m3 f ox s
  | .pkE2m1 f ox => Sys2Proof.Machine.execPkE2m1 f ox s
  | .pkI8 f ox => Sys2Proof.Machine.execPkI8 f ox s
  | .pkI4 f ox => Sys2Proof.Machine.execPkI4 f ox s
  | .pkqN8 f ox => Sys2Proof.Machine.execPkqN8 f ox s
  | .pkqN4 f ox => Sys2Proof.Machine.execPkqN4 f ox s
  | .upkE4m3 f ox => Sys2Proof.Machine.execUpkE4m3 f ox s
  | .upkE5m2 f ox => Sys2Proof.Machine.execUpkE5m2 f ox s
  | .upkE3m2 f ox => Sys2Proof.Machine.execUpkE3m2 f ox s
  | .upkE2m3 f ox => Sys2Proof.Machine.execUpkE2m3 f ox s
  | .upkE2m1 f ox => Sys2Proof.Machine.execUpkE2m1 f ox s
  | .upkI8 f ox => Sys2Proof.Machine.execUpkI8 f ox s
  | .upkI4 f ox => Sys2Proof.Machine.execUpkI4 f ox s
  | .upkN8 f ox => Sys2Proof.Machine.execUpkN8 f ox s
  | .upkN4 f ox => Sys2Proof.Machine.execUpkN4 f ox s
  | .saddIwSi f => Sys2Proof.Machine.execSaddIwSi f s
  | .sandBwSi f => Sys2Proof.Machine.execSandBwSi f s
  | .sorBwSi f => Sys2Proof.Machine.execSorBwSi f s
  | .sxorBwSi f => Sys2Proof.Machine.execSxorBwSi f s
  | .smovBw f => Sys2Proof.Machine.execSmovBw f s
  | .smulIwSi f => Sys2Proof.Machine.execSmulIwSi f s
  | .faddF32 f ox => Sys2Proof.Machine.execFaddF32 f ox s
  | .fsubF32 f ox => Sys2Proof.Machine.execFsubF32 f ox s
  | .fmulF32 f ox => Sys2Proof.Machine.execFmulF32 f ox s
  | .fminF32 f ox => Sys2Proof.Machine.execFminF32 f ox s
  | .fmaxF32 f ox => Sys2Proof.Machine.execFmaxF32 f ox s
  | .fabsF32 f ox => Sys2Proof.Machine.execFabsF32 f ox s
  | .fnegF32 f ox => Sys2Proof.Machine.execFnegF32 f ox s
  | .fsgnF32 f ox => Sys2Proof.Machine.execFsgnF32 f ox s
  | .ffmaF32 f ox => Sys2Proof.Machine.execFfmaF32 f ox s
  | .ffmsF32 f ox => Sys2Proof.Machine.execFfmsF32 f ox s
  | .fnfmaF32 f ox => Sys2Proof.Machine.execFnfmaF32 f ox s
  | .fnfmsF32 f ox => Sys2Proof.Machine.execFnfmsF32 f ox s
  | .haddF16x2 f ox => Sys2Proof.Machine.execHaddF16x2 f ox s
  | .hmulF16x2 f ox => Sys2Proof.Machine.execHmulF16x2 f ox s
  | .hminF16x2 f ox => Sys2Proof.Machine.execHminF16x2 f ox s
  | .hmaxF16x2 f ox => Sys2Proof.Machine.execHmaxF16x2 f ox s
  | .haddBf16x2 f ox => Sys2Proof.Machine.execHaddBf16x2 f ox s
  | .hmulBf16x2 f ox => Sys2Proof.Machine.execHmulBf16x2 f ox s
  | .hminBf16x2 f ox => Sys2Proof.Machine.execHminBf16x2 f ox s
  | .hmaxBf16x2 f ox => Sys2Proof.Machine.execHmaxBf16x2 f ox s
  | .hfmaF16x2 f ox => Sys2Proof.Machine.execHfmaF16x2 f ox s
  | .hfmaBf16x2 f ox => Sys2Proof.Machine.execHfmaBf16x2 f ox s
  | .hdot2F32F16x2 f ox => Sys2Proof.Machine.execHdot2F32F16x2 f ox s
  | .hdot2F32Bf16x2 f ox => Sys2Proof.Machine.execHdot2F32Bf16x2 f ox s
  | .frndF32 f ox => Sys2Proof.Machine.execFrndF32 f ox s
  | .ffloorF32 f ox => Sys2Proof.Machine.execFfloorF32 f ox s
  | .fceilF32 f ox => Sys2Proof.Machine.execFceilF32 f ox s
  | .ftruncF32 f ox => Sys2Proof.Machine.execFtruncF32 f ox s
  | .ffractF32 f ox => Sys2Proof.Machine.execFfractF32 f ox s
  | .fclassF32 f ox => Sys2Proof.Machine.execFclassF32 f ox s
  | .faddF32Vs f ox => Sys2Proof.Machine.execFaddF32Vs f ox s
  | .fmulF32Vs f ox => Sys2Proof.Machine.execFmulF32Vs f ox s
  | .fminF32Vs f ox => Sys2Proof.Machine.execFminF32Vs f ox s
  | .fmaxF32Vs f ox => Sys2Proof.Machine.execFmaxF32Vs f ox s
  | .saddIw f => Sys2Proof.Machine.execSaddIw f s
  | .ssubIw f => Sys2Proof.Machine.execSsubIw f s
  | .smulIw f => Sys2Proof.Machine.execSmulIw f s
  | .sandBw f => Sys2Proof.Machine.execSandBw f s
  | .sorBw f => Sys2Proof.Machine.execSorBw f s
  | .sxorBw f => Sys2Proof.Machine.execSxorBw f s
  | .sshlBw f => Sys2Proof.Machine.execSshlBw f s
  | .sshrNw f => Sys2Proof.Machine.execSshrNw f s
  | .sshrIw f => Sys2Proof.Machine.execSshrIw f s
  | .sminIw f => Sys2Proof.Machine.execSminIw f s
  | .smaxIw f => Sys2Proof.Machine.execSmaxIw f s
  | .sminNw f => Sys2Proof.Machine.execSminNw f s
  | .smaxNw f => Sys2Proof.Machine.execSmaxNw f s
  | .sseqBw f => Sys2Proof.Machine.execSseqBw f s
  | .ssltIw f => Sys2Proof.Machine.execSsltIw f s
  | .ssltNw f => Sys2Proof.Machine.execSsltNw f s
  | .frcpF32 f ox => Sys2Proof.Machine.execFrcpF32 f ox s
  | .frsqF32 f ox => Sys2Proof.Machine.execFrsqF32 f ox s
  | .fsqrtF32 f ox => Sys2Proof.Machine.execFsqrtF32 f ox s
  | .fexp2F32 f ox => Sys2Proof.Machine.execFexp2F32 f ox s
  | .flog2F32 f ox => Sys2Proof.Machine.execFlog2F32 f ox s
  | .fsinF32 f ox => Sys2Proof.Machine.execFsinF32 f ox s
  | .fcosF32 f ox => Sys2Proof.Machine.execFcosF32 f ox s
  | .ftanhF32 f ox => Sys2Proof.Machine.execFtanhF32 f ox s
  | .fdivF32 f ox => Sys2Proof.Machine.execFdivF32 f ox s
  | .fatan2F32 f ox => Sys2Proof.Machine.execFatan2F32 f ox s
  | .ldgN8 f ox => Sys2Proof.Machine.execLdgN8 f ox s
  | .ldgI8 f ox => Sys2Proof.Machine.execLdgI8 f ox s
  | .ldgN16 f ox => Sys2Proof.Machine.execLdgN16 f ox s
  | .ldgI16 f ox => Sys2Proof.Machine.execLdgI16 f ox s
  | .ldgB32 f ox => Sys2Proof.Machine.execLdgB32 f ox s
  | .ldgB64 f ox => Sys2Proof.Machine.execLdgB64 f ox s
  | .ldgB128 f ox => Sys2Proof.Machine.execLdgB128 f ox s
  | .stgB8 f ox => Sys2Proof.Machine.execStgB8 f ox s
  | .stgB16 f ox => Sys2Proof.Machine.execStgB16 f ox s
  | .stgB32 f ox => Sys2Proof.Machine.execStgB32 f ox s
  | .stgB64 f ox => Sys2Proof.Machine.execStgB64 f ox s
  | .stgB128 f ox => Sys2Proof.Machine.execStgB128 f ox s
  | .ldgTB32 f ox => Sys2Proof.Machine.execLdgTB32 f ox s
  | .ldgTB64 f ox => Sys2Proof.Machine.execLdgTB64 f ox s
  | .ldgTB128 f ox => Sys2Proof.Machine.execLdgTB128 f ox s
  | .ldsB32 f ox => Sys2Proof.Machine.execLdsB32 f ox s
  | .ldsB64 f ox => Sys2Proof.Machine.execLdsB64 f ox s
  | .ldsB128 f ox => Sys2Proof.Machine.execLdsB128 f ox s
  | .stsB32 f ox => Sys2Proof.Machine.execStsB32 f ox s
  | .stsB64 f ox => Sys2Proof.Machine.execStsB64 f ox s
  | .stsB128 f ox => Sys2Proof.Machine.execStsB128 f ox s
  | .lduB32 f ox => Sys2Proof.Machine.execLduB32 f ox s
  | .lduB64 f ox => Sys2Proof.Machine.execLduB64 f ox s
  | .lduB128 f ox => Sys2Proof.Machine.execLduB128 f ox s
  | .lduB256 f ox => Sys2Proof.Machine.execLduB256 f ox s
  | .lduB512 f ox => Sys2Proof.Machine.execLduB512 f ox s
  | .stuB32 f ox => Sys2Proof.Machine.execStuB32 f ox s
  | .stuB64 f ox => Sys2Proof.Machine.execStuB64 f ox s
  | .atomAddI32 f ox => Sys2Proof.Machine.execAtomAddI32 f ox s
  | .atomMinI32 f ox => Sys2Proof.Machine.execAtomMinI32 f ox s
  | .atomMaxI32 f ox => Sys2Proof.Machine.execAtomMaxI32 f ox s
  | .atomMinN32 f ox => Sys2Proof.Machine.execAtomMinN32 f ox s
  | .atomMaxN32 f ox => Sys2Proof.Machine.execAtomMaxN32 f ox s
  | .atomAndB32 f ox => Sys2Proof.Machine.execAtomAndB32 f ox s
  | .atomOrB32 f ox => Sys2Proof.Machine.execAtomOrB32 f ox s
  | .atomXorB32 f ox => Sys2Proof.Machine.execAtomXorB32 f ox s
  | .atomXchgB32 f ox => Sys2Proof.Machine.execAtomXchgB32 f ox s
  | .atomCasB32 f ox => Sys2Proof.Machine.execAtomCasB32 f ox s
  | .atomAddI64 f ox => Sys2Proof.Machine.execAtomAddI64 f ox s
  | .atomXchgB64 f ox => Sys2Proof.Machine.execAtomXchgB64 f ox s
  | .atomCasB64 f ox => Sys2Proof.Machine.execAtomCasB64 f ox s
  | .redAddF32 f ox => Sys2Proof.Machine.execRedAddF32 f ox s
  | .redAddBf16x2 f ox => Sys2Proof.Machine.execRedAddBf16x2 f ox s
  | .redAddI32 f ox => Sys2Proof.Machine.execRedAddI32 f ox s
  | .redAddI64 f ox => Sys2Proof.Machine.execRedAddI64 f ox s
  | .redMinF32 f ox => Sys2Proof.Machine.execRedMinF32 f ox s
  | .redMaxF32 f ox => Sys2Proof.Machine.execRedMaxF32 f ox s
  | .pfL1 f ox => Sys2Proof.Machine.execPfL1 f ox s
  | .pfL2 f ox => Sys2Proof.Machine.execPfL2 f ox s
  | .pfRdc f ox => Sys2Proof.Machine.execPfRdc f ox s
  | .acq f ox => Sys2Proof.Machine.execAcq f ox s
  | .rel f ox => Sys2Proof.Machine.execRel f ox s
  | .acqrel f ox => Sys2Proof.Machine.execAcqrel f ox s
  | .invRgn f ox => Sys2Proof.Machine.execInvRgn f ox s
  | .barInit f ox => Sys2Proof.Machine.execBarInit f ox s
  | .barArr f ox => Sys2Proof.Machine.execBarArr f ox s
  | .barWait f ox => Sys2Proof.Machine.execBarWait f ox s
  | .barSync f ox => Sys2Proof.Machine.execBarSync f ox s
  | .drainSp ctr ox => Sys2Proof.Machine.execDrainSp ctr ox s
  | .drainLoc ctr ox => Sys2Proof.Machine.execDrainLoc ctr ox s
  | .drainTwin ctr ox => Sys2Proof.Machine.execDrainTwin ctr ox s
  | .drainHost ctr ox => Sys2Proof.Machine.execDrainHost ctr ox s
  | .logmark f ox => Sys2Proof.Machine.execLogmark f ox s
  | .bra f => Sys2Proof.Machine.execBra f s
  | .braAny f => Sys2Proof.Machine.execBraAny f s
  | .split f join => Sys2Proof.Machine.execSplit f join s
  | .call f => Sys2Proof.Machine.execCall f s
  | .ret => Sys2Proof.Machine.execRet s
  | .exit => Sys2Proof.Machine.execExit s
  | .yield => Sys2Proof.Machine.execYield s
  | .nop => Sys2Proof.Machine.execNop s
  | .brx d => Sys2Proof.Machine.execBrx d s
  | .trap code => Sys2Proof.Machine.execTrap code s
  | .brk code => Sys2Proof.Machine.execBrk code s
  | .tretSkip => Sys2Proof.Machine.execTretSkip s
  | .tretRetry => Sys2Proof.Machine.execTretRetry s
  | .reggrow code => Sys2Proof.Machine.execReggrow code s
  | .regshrink code => Sys2Proof.Machine.execRegshrink code s
  | .pushc f ox => Sys2Proof.Machine.execPushc f ox s
  | .qbindIn f ox => Sys2Proof.Machine.execQbindIn f ox s
  | .qbindOut f ox => Sys2Proof.Machine.execQbindOut f ox s
  | .qfree f ox => Sys2Proof.Machine.execQfree f ox s
  | .mloop f ox => Sys2Proof.Machine.execMloop f ox s
  | .mscale f ox => Sys2Proof.Machine.execMscale f ox s
  | .mzero f ox => Sys2Proof.Machine.execMzero f ox s
  | .mdrainQ f ox => Sys2Proof.Machine.execMdrainQ f ox s
  | .mdrainSp f ox => Sys2Proof.Machine.execMdrainSp f ox s
  | .mstat f ox => Sys2Proof.Machine.execMstat f ox s
  | .mpath f ox => Sys2Proof.Machine.execMpath f ox s
  | .rsv f ox => Sys2Proof.Machine.execRsv f ox s
  | .spwn f ox => Sys2Proof.Machine.execSpwn f ox s
  | .trace f ox => Sys2Proof.Machine.execTrace f ox s
  | .epend ctr ox => Sys2Proof.Machine.execEpend ctr ox s
  | .hitattr f ox => Sys2Proof.Machine.execHitattr f ox s
  | .rayget f ox => Sys2Proof.Machine.execRayget f ox s
  | .rayset f ox => Sys2Proof.Machine.execRayset f ox s
  | .accum f ox => Sys2Proof.Machine.execAccum f ox s
  | .accumPx f ox => Sys2Proof.Machine.execAccumPx f ox s
  | .accaux f ox => Sys2Proof.Machine.execAccaux f ox s
  | .accauxPx f ox => Sys2Proof.Machine.execAccauxPx f ox s
  | .ahitAccept ctr ox => Sys2Proof.Machine.execAhitAccept ctr ox s
  | .ahitAcceptEnd ctr ox => Sys2Proof.Machine.execAhitAcceptEnd ctr ox s
  | .ahitIgnore ctr ox => Sys2Proof.Machine.execAhitIgnore ctr ox s
  | .tlpf f ox => Sys2Proof.Machine.execTlpf f ox s
  | .poolst f ox => Sys2Proof.Machine.execPoolst f ox s
  | .dntile f ox => Sys2Proof.Machine.execDntile f ox s
  | .rdsys f => Sys2Proof.Machine.execRdsys f s
  | .wrsys f => Sys2Proof.Machine.execWrsys f s
  | .clauseStart core iss => Sys2Proof.Machine.execClauseStart core iss s
  | .runAheadTimeout core slot => Sys2Proof.Machine.execRunAheadTimeout core slot s
  | .faultReissue core slot => Sys2Proof.Machine.execFaultReissue core slot s
  | .loadComplete core slot id => Sys2Proof.Machine.execLoadComplete core slot id s
  | .storeComplete core slot id => Sys2Proof.Machine.execStoreComplete core slot id s
  | .relBegin core slot => Sys2Proof.Machine.execRelBegin core slot s
  | .acqComplete core slot => Sys2Proof.Machine.execAcqComplete core slot s
  | .rdq src dst => Sys2Proof.Machine.execRdq src dst s
  | .data src dst => Sys2Proof.Machine.execData src dst s
  | .fwd src dst => Sys2Proof.Machine.execFwd src dst s
  | .frep src dst => Sys2Proof.Machine.execFrep src dst s
  | .reg src dst => Sys2Proof.Machine.execReg src dst s
  | .mrg src dst => Sys2Proof.Machine.execMrg src dst s
  | .mfwd src dst => Sys2Proof.Machine.execMfwd src dst s
  | .rack src dst => Sys2Proof.Machine.execRack src dst s
  | .mack src dst => Sys2Proof.Machine.execMack src dst s
  | .wb src dst => Sys2Proof.Machine.execWb src dst s
  | .wack src dst => Sys2Proof.Machine.execWack src dst s
  | .atq src dst => Sys2Proof.Machine.execAtq src dst s
  | .xfer src dst => Sys2Proof.Machine.execXfer src dst s
  | .xferv src dst => Sys2Proof.Machine.execXferv src dst s
  | .aval src dst => Sys2Proof.Machine.execAval src dst s
  | .rcl src dst => Sys2Proof.Machine.execRcl src dst s
  | .l1Evict core word => Sys2Proof.Machine.execL1Evict core word s
  | .l2Evict line => Sys2Proof.Machine.execL2Evict line s
  | .rdcEvict line => Sys2Proof.Machine.execRdcEvict line s
  | .hostRead addr => Sys2Proof.Machine.execHostRead addr s
  | .hostWrite addr v => Sys2Proof.Machine.execHostWrite addr v s
  | .hostSnoop line => Sys2Proof.Machine.execHostSnoop line s
  | .biasMerge base => Sys2Proof.Machine.execBiasMerge base s
  | .syncTableOp => Sys2Proof.Machine.execSyncTableOp s
  | .redNodeFold idx => Sys2Proof.Machine.execRedNodeFold idx s
  | .pageWalkStart hamlet => Sys2Proof.Machine.execPageWalkStart hamlet s
  | .pageWalkComplete hamlet ctx page => Sys2Proof.Machine.execPageWalkComplete hamlet ctx page s
  | .groupEnd core slot => Sys2Proof.Machine.execGroupEnd core slot s
  | .episodeEnd core slot => Sys2Proof.Machine.execEpisodeEnd core slot s
  | .waitGroupTimeout core slot => Sys2Proof.Machine.execWaitGroupTimeout core slot s
  | .waveDispatch => Sys2Proof.Machine.execWaveDispatch s
  | .binAgeReady idx => Sys2Proof.Machine.execBinAgeReady idx s
  | .reggrowGrant core => Sys2Proof.Machine.execReggrowGrant core s
  | .regshrinkDone core slot => Sys2Proof.Machine.execRegshrinkDone core slot s
  | .rsvGrant ctx => Sys2Proof.Machine.execRsvGrant ctx s
  | .poolDrainTimeout ctx => Sys2Proof.Machine.execPoolDrainTimeout ctx s
  | .genRayCreate ctx grid => Sys2Proof.Machine.execGenRayCreate ctx grid s
  | .treeletFetchStart ctx grid treelet => Sys2Proof.Machine.execTreeletFetchStart ctx grid treelet s
  | .treeletAgeExpire ctx grid treelet => Sys2Proof.Machine.execTreeletAgeExpire ctx grid treelet s
  | .treeletFetchComplete ctx grid treelet => Sys2Proof.Machine.execTreeletFetchComplete ctx grid treelet s
  | .traverse ray => Sys2Proof.Machine.execTraverse ray s
  | .raySpill ray => Sys2Proof.Machine.execRaySpill ray s
  | .rayUnspill ray => Sys2Proof.Machine.execRayUnspill ray s
  | .tileRetire ctx tile => Sys2Proof.Machine.execTileRetire ctx tile s
  | .tileAddResume => Sys2Proof.Machine.execTileAddResume s
  | .copy eng => Sys2Proof.Machine.execCopy eng s
  | .tcopy eng => Sys2Proof.Machine.execTcopy eng s
  | .gather eng => Sys2Proof.Machine.execGather eng s
  | .scatter eng => Sys2Proof.Machine.execScatter eng s
  | .fill eng => Sys2Proof.Machine.execFill eng s
  | .launch => Sys2Proof.Machine.execLaunch s
  | .prdx eng => Sys2Proof.Machine.execPrdx eng s
  | .prdxCombine idx => Sys2Proof.Machine.execPrdxCombine idx s
  | .engineCmdComplete unit id => Sys2Proof.Machine.execEngineCmdComplete unit id s
  | .bankZero quad bank => Sys2Proof.Machine.execBankZero quad bank s
  | .mloopStart quad => Sys2Proof.Machine.execMloopStart quad s
  | .matrixStepStart quad => Sys2Proof.Machine.execMatrixStepStart quad s
  | .matrixStepEnd quad => Sys2Proof.Machine.execMatrixStepEnd quad s
  | .mdrainRead quad => Sys2Proof.Machine.execMdrainRead quad s
  | .denoiseStart quad => Sys2Proof.Machine.execDenoiseStart quad s
  | .launchWindow => Sys2Proof.Machine.execLaunchWindow s
  | .headAged queue => Sys2Proof.Machine.execHeadAged queue s
  | .issuePromote core slot => Sys2Proof.Machine.execIssuePromote core slot s
  | .gridComplete ctx grid => Sys2Proof.Machine.execGridComplete ctx grid s
  | .queueDoorbell queue wr => Sys2Proof.Machine.execQueueDoorbell queue wr s
  | .queueStpClear queue => Sys2Proof.Machine.execQueueStpClear queue s
  | .cmdDoorbell kwr => Sys2Proof.Machine.execCmdDoorbell kwr s
  | .logTailWrite ctx tail => Sys2Proof.Machine.execLogTailWrite ctx tail s
  | .hostRegWrite off size v => Sys2Proof.Machine.execHostRegWrite off size v s
  | .ctxcreate => Sys2Proof.Machine.execCtxcreate s
  | .ctxdestroy => Sys2Proof.Machine.execCtxdestroy s
  | .setctxTrans => Sys2Proof.Machine.execSetctxTrans s
  | .setctxTrap => Sys2Proof.Machine.execSetctxTrap s
  | .setctxLog => Sys2Proof.Machine.execSetctxLog s
  | .setctxRay => Sys2Proof.Machine.execSetctxRay s
  | .setctxPfx => Sys2Proof.Machine.execSetctxPfx s
  | .setctxFrame => Sys2Proof.Machine.execSetctxFrame s
  | .setctxDbg => Sys2Proof.Machine.execSetctxDbg s
  | .inval => Sys2Proof.Machine.execInval s
  | .invalComplete idx => Sys2Proof.Machine.execInvalComplete idx s
  | .verdictResolved => Sys2Proof.Machine.execVerdictResolved s
  | .verdictGivenUp => Sys2Proof.Machine.execVerdictGivenUp s
  | .preempt => Sys2Proof.Machine.execPreempt s
  | .preemptComplete ctx => Sys2Proof.Machine.execPreemptComplete ctx s
  | .preemptDeadline ctx => Sys2Proof.Machine.execPreemptDeadline ctx s
  | .reset => Sys2Proof.Machine.execReset s
  | .resumePreempt => Sys2Proof.Machine.execResumePreempt s
  | .resumeHalt => Sys2Proof.Machine.execResumeHalt s
  | .halt => Sys2Proof.Machine.execHalt s
  | .haltComplete ctx => Sys2Proof.Machine.execHaltComplete ctx s
  | .step => Sys2Proof.Machine.execStep s
  | .dbgread => Sys2Proof.Machine.execDbgread s
  | .dbgwrite => Sys2Proof.Machine.execDbgwrite s
  | .raysave => Sys2Proof.Machine.execRaysave s
  | .banksave => Sys2Proof.Machine.execBanksave s
  | .bankload => Sys2Proof.Machine.execBankload s
  | .tileflush => Sys2Proof.Machine.execTileflush s
  | .tileclear => Sys2Proof.Machine.execTileclear s
  | .salvage => Sys2Proof.Machine.execSalvage s
  | .coalescerWrite core => Sys2Proof.Machine.execCoalescerWrite core s
  | .deviceReset => Sys2Proof.Machine.execDeviceReset s
  | .selfTestPass bit => Sys2Proof.Machine.execSelfTestPass bit s
  | .selfTestFail bit detail => Sys2Proof.Machine.execSelfTestFail bit detail s
  | .linkTrained => Sys2Proof.Machine.execLinkTrained s
  | .linkRetrainTimer => Sys2Proof.Machine.execLinkRetrainTimer s
  | .spdmRequest nonce => Sys2Proof.Machine.execSpdmRequest nonce s
  | .clockChange mhz => Sys2Proof.Machine.execClockChange mhz s
  | .thermalThrottle => Sys2Proof.Machine.execThermalThrottle s
  | .thermalShutdown => Sys2Proof.Machine.execThermalShutdown s
  | .supplyFault => Sys2Proof.Machine.execSupplyFault s
  | .twinFlitRetry => Sys2Proof.Machine.execTwinFlitRetry s
  | .twinFail => Sys2Proof.Machine.execTwinFail s
  | .l2FillComplete line => Sys2Proof.Machine.execL2FillComplete line s
  | .backInvalidationAnswer line => Sys2Proof.Machine.execBackInvalidationAnswer line s
  | .hostWriteBackAccept line => Sys2Proof.Machine.execHostWriteBackAccept line s

end Sys2Proof.Machine
end

