-- ==== Sys2Proof/Machine/Ahead.lean ====
section
/-!
DEFINITION. Run-ahead (R280): what a group computes beyond a page fault, in `State.ahead`, beside the checkpoint that
`State.groups` keeps. Nothing of it reaches the group, memory, an engine or the log; it only collects pages, asks for
walks and asks for lines.
-/

namespace Sys2Proof.Machine

/-! ## The run-ahead copy -/

/-- What a group's run-ahead has computed so far. -/
def aheadOf (s : State) (g : Group) : Option Group := s.ahead.find? fun a => a.core == g.core && a.slot == g.slot

/-- Puts back what a run-ahead has computed. -/
def putAhead (s : State) (a : Group) : State :=
  { s with ahead := a :: s.ahead.filter fun x => !(x.core == a.core && x.slot == a.slot) }

/-- Sets unknown bits of a table in the lanes of `act`. -/
def setUnk (t : Tbl Mask) (n : Nat) (act unk : Mask) : Tbl Mask := tput t n (mergeMask act unk (tget t n 0))

/-- Vector registers whose lanes in `act` become unknown where `unk` says so, known elsewhere. -/
def unkV (a : Group) (regs : List Nat) (act unk : Mask) : Group :=
  { a with unknown := { a.unknown with v := regs.foldl (fun t n => setUnk t n act unk) a.unknown.v } }

/-- Scalars that become unknown or known. -/
def unkS (a : Group) (regs : List Nat) (u : Bool) : Group :=
  { a with unknown := { a.unknown with s := regs.foldl (fun t n => tput t n u) a.unknown.s } }

/-- A predicate's unknown lanes. -/
def unkP (a : Group) (p : Nat) (act unk : Mask) : Group :=
  { a with unknown := { a.unknown with p := setUnk a.unknown.p p act unk } }

/-- Whether a vector field is unknown in a lane; latch n stands at key 124 + n. -/
def fieldUnk (a : Group) (f : BitVec 7) (l : Nat) : Bool := (tget a.unknown.v f.toNat 0).getLsbD l

/-- Whether a scalar is unknown. -/
def scalUnk (a : Group) (n : Nat) : Bool := tget a.unknown.s n false

/-- The unknown latches after a shift (R46). -/
def shiftUnk (a : Group) (act unk : Mask) : Group :=
  let u (n : Nat) : Mask := tget a.unknown.v (124 + n) 0
  unkV (unkV (unkV (unkV a [127] act (u 2)) [126] act (u 1)) [125] act (u 0)) [124] act unk

/-- The guard that an extension word gives: predicate and GN. -/
def wordGuard (x : Option Word) : Option Ox := x.map fun x => ⟨bitAt x 13, fld x 10 3, fld x 0 7⟩

/-! ## Memory words -/

/-- Whether a word of opcode 0x28 to 0x2C stores. -/
def wordStores (op fn : Nat) : Bool := op == 0x29 || (op == 0x2B && decide (3 ≤ fn)) || (op == 0x2C && decide (5 ≤ fn))

/-- The bytes that a load or store accesses in a lane (R127, R128). -/
def wordBytes (op fn : Nat) : Nat := match op with
  | 0x28 => if fn < 2 then 1 else if fn < 4 then 2 else 2 ^ (fn - 2)
  | 0x29 => 2 ^ fn
  | 0x2A => 2 ^ (fn + 2)
  | 0x2B => 2 ^ (fn % 3 + 2)
  | 0x2C => if fn < 5 then 2 ^ (fn + 2) else 2 ^ (fn - 3)
  | _ => 4

/-- The memory form of a load or store word. -/
def aheadForm (w : Word) (x : Option Word) : MemForm :=
  let op := (opField w).toNat
  let fn := (fnField w).toNat
  let n := wordBytes op fn
  let f : M := ⟨fld w 19 3, fld w 12 7, fld w 5 7, fld w 0 5⟩
  if op = 0x2C then
    (if wordStores op fn then stuForm ⟨fld w 19 3, fld w 12 6, fld w 5 6, fld w 0 5⟩ (wordGuard x) n
     else lduForm ⟨fld w 19 3, fld w 12 6, fld w 5 6, fld w 0 5⟩ (wordGuard x) n)
  else if wordStores op fn then storeForm f (wordGuard x) n (op == 0x2B)
  else loadForm f (wordGuard x) n (op == 0x28 && (fn == 1 || fn == 3)) (op == 0x2B)

/-- The destinations of a memory word that faulted become unknown in its faulting lanes. -/
def faultUnk (a : Group) (w : Word) (mask : Mask) : Group :=
  let op := (opField w).toNat
  let fn := (fnField w).toNat
  let d := (fld w 12 7).toNat
  if op = 0x2C then (if wordStores op fn then a else unkS a ((List.range (ceilDiv (wordBytes op fn) 8)).map fun i => d % 64 + i) true)
  else if op = 0x28 ∨ op = 0x2A ∨ op = 0x2B then
    (if wordStores op fn then a else unkV a ((List.range (ceilDiv (wordBytes op fn) 4)).map fun i => d + i) mask mask)
  else if op = 0x2D ∨ (op = 0x2E ∧ fn < 2) then unkV a [d] mask mask
  else if op = 0x2E then unkV a [d, d + 1] mask mask
  else a

/-- The first state of a run-ahead: the word after the faulting one, with the faulting lanes' destinations unknown. -/
def aheadFirst (s : State) (g : Group) (b : Batch) : Group :=
  let mask : Mask := match b.what with
    | .lanes m => m
    | _ => 0
  match g.clause with
  | none => { g with batch := none }
  | some c => faultUnk (advance s { g with batch := none, unknown := ⟨[], [], [], []⟩ } c) (c.words.getD c.idx 0) mask

/-- Bytes of a lane, as `Unknowns.mem` names them. -/
def laneBytes (l va n : Nat) : List Nat := (List.range n).map fun i => l * 2 ^ 48 + (va + i) % 2 ^ 48

/-- The lanes of a memory word whose addresses are unknown: their guard, their offset or their base is. -/
def addrUnk (a : Group) (m : MemForm) (act : Mask) : Mask :=
  if (m.base :: m.scals.take 1).any (scalUnk a) then act
  else maskOf fun l => act.getLsbD l && (m.srcs.take 1).any fun f => fieldUnk a f l

/-- The lanes that the guard of a word leaves unknown. -/
def guardUnk (a : Group) (c : Clause) (ox : Option Ox) : Mask :=
  execMask a c &&& ((ox.map fun o => tget a.unknown.p o.gp.toNat 0).getD 0)

/-- What a lane loads in run-ahead. -/
def aheadLoad (s : State) (a : Group) (m : MemForm) (r : LaneRef) : List (Word × Bool) :=
  (accWords r.loc m.size).map fun w =>
    if m.sp then ((teamOfGroup s a).map fun t => spWord t w).getD (0, false)
    else if r.zero then (0, false) else readNow s a.core w

/-- Adds pages to a run-ahead's batch, at most 32 (R279). -/
def addPages (s : State) (g : Group) (pages : List (Nat × Nat)) : State := match g.batch with
  | none => s
  | some b =>
    let new := (distinctPages pages).filter fun p => !(b.pages.any fun q => q.page == p.1)
    setGroup (dropFails s g.ctx g.core (new.map fun p => p.1 / 4096)) { g with batch := some { b with pages := (b.pages ++ new.map (batchPage s g)).take 32 } }

/-- Ends a run-ahead whose batch is full. -/
def fullBatch (s : State) (core slot : Nat) : State := match groupAt s core slot with
  | some g => if (g.batch.map fun b => decide (32 ≤ b.pages.length)).getD false then endAhead s g else s
  | none => s

/-- The results of a load in run-ahead: known lanes get data, the others become unknown. -/
def aheadData (a : Group) (m : MemForm) (xs : List Loaded) (unk : Mask) : Group :=
  match m.kind with
  | .load bytes signed =>
    unkV (deliverVec a m.dst bytes signed xs) ((List.range (ceilDiv bytes 4)).map fun i => m.dst + i) (loadMask xs ||| unk) unk
  | .loadU bytes =>
    let a := if unk = 0 then deliverScalars a m.dst bytes ((xs.head?.map Prod.snd).getD []) else a
    unkS a ((List.range (ceilDiv bytes 8)).map fun i => m.dst + i) (unk ≠ 0)
  | _ => a

/-- A load or store in run-ahead (R280): known lanes translate; absent and discarded pages join the batch, any other fault
ends the run; stores are suppressed. -/
def aheadMem (s : State) (g a : Group) (c : Clause) (m : MemForm) (soft : Bool) : State :=
  let gu := guardUnk a c m.ox
  let act := (activeMask a c m.ox ||| gu) &&& execMask a c
  if act = 0 then putAhead s (advance s a c)
  else
    let unk := gu ||| addrUnk a m act
    let known := act &&& ~~~unk
    let missT := if soft then (tlbMisses s a m known).map fun y => y.1 else []
    let cs := if m.group ∧ known = 0 then [] else (checkLanes s a m known).filter fun x => !missT.contains x.1
    let miss := missed cs
    if miss ≠ [] then miss.foldl (fun s va => askWalk s g.ctx g.core va false) s
    else
      let faults := faultLanes m known cs
      if faults.any fun f => f.2.1 ≠ 0x20 ∧ f.2.1 ≠ 0x22 then endAhead s g
      else
        let s1 := addPages s g (faults.map fun f => (f.2.2, f.2.1))
        let stored (r : LaneRef) : Bool := (laneBytes r.lane r.va m.size).any a.unknown.mem.contains
        let good := (okLanes cs).filter fun r => !stored r
        let xs := good.map fun r => (r, aheadLoad s a m r)
        let lost := act &&& ~~~(loadMask xs) &&& ~~~(maskOf fun l => missT.contains l)
        let a1 := if m.acc = .write then
            { a with unknown := { a.unknown with mem := a.unknown.mem ++ (okLanes cs).flatMap fun r => laneBytes r.lane r.va m.size } }
          else aheadData a m xs (if m.group then (if good.isEmpty then act else 0) else lost)
        let a2 := match soft, m.ox with
          | true, some o => unkP (missGuard a1 o known (maskOf fun l => missT.contains l)) o.gp.toNat act unk
          | _, _ => a1
        fullBatch (putAhead s1 (advance s a2 c)) g.core g.slot

/-! ## Words of class ALU and SFU -/

/-- The register lanes that a word reads in lane `l`, beside its own lanes of its sources. -/
def crossReads (a : Group) (w : Word) (l : Nat) : List (BitVec 7 × Nat) :=
  let fa : BitVec 7 := fld w 7 7
  let n := laneNo (readField a (fld w 0 7) l)
  match (opField w).toNat, (fnField w).toNat with
  | 0x0E, 0 => [(fa, n)]
  | 0x0E, 1 => [(fa, l - n)]
  | 0x0E, 2 => [(fa, min (l + n) 127)]
  | 0x0E, _ => [(fa, Nat.xor l n)]
  | 0x0F, 0 => []
  | 0x0F, _ => [(fa, laneArg a (bitAt w 6) (fld w 0 6))]
  | 0x10, 0 => [(BitVec.ofNat 7 (indexed fa n), l)]
  | _, _ => []

/-- Whether a word's result is unknown in a lane (R280). -/
def resultUnk (a : Group) (w : Word) (u : WordUse) (l : Nat) : Bool :=
  let own := if (opField w).toNat = 0x0E ∨ (opField w).toNat = 0x0F then
      (if (opField w).toNat = 0x0E then [(fld w 0 7 : BitVec 7)] else []) else u.srcs ++ u.runs
  u.scal.any (scalUnk a) || own.any (fun f => fieldUnk a f l) || (crossReads a w l).any (fun r => fieldUnk a r.1 r.2) ||
  u.preds.any fun p => (tget a.unknown.p p 0).getLsbD l

/-- Runs one word on a copy of the state in which the run-ahead stands in its group's place. -/
noncomputable def aheadExec (s : State) (a : Group) (w : Word) (x : Option Word) : State :=
  let s' := { setGroup s a with cur := some (a.core, a.slot) }
  match decode w x with
  | .error _ => haltGroup s' a 0 0 0
  | .ok i => if i.wf then (match exec i s' with
      | .next s'' => s''
      | _ => s') else haltGroup s' a 0 0 0

/-- What a word run in that way leaves: the run-ahead with what it asked of walkers and homes; a trap, a halt or a fault
of its own ends it. -/
def aheadKeep (s : State) (g a : Group) (s' : State) (k : Group → Group) : State := match groupAt s' a.core a.slot with
  | none => endAhead s g
  | some a' =>
    if a'.inHandler ≠ a.inHandler ∨ a'.stopped.isSome ∨ a'.batch.isSome then endAhead s g
    else putAhead { s with msgs := s'.msgs, walkQ := s'.walkQ } (if a' = a then a else k a')

/-- A word of class ALU or SFU in run-ahead: it computes its known lanes, and marks the others. -/
noncomputable def aheadAlu (s : State) (g a : Group) (c : Clause) (w : Word) (x : Option Word) : State :=
  let u := wordUse w x
  if (u.srcs ++ u.runs ++ u.dsts).any fun f => (windowOf a f).isSome then endAhead s g
  else
    let ox := if (opField w).toNat = 0x08 ∨ (opField w).toNat = 0x16 then none else wordGuard x
    let gu := guardUnk a c ox
    let act := (activeMask a c ox ||| gu) &&& execMask a c
    let vote := (opField w).toNat == 0x0C && decide (5 ≤ (fnField w).toNat)
    let lanes : Mask := gu ||| (act &&& maskOf fun l => resultUnk a w u l)
    let unk := if vote ∧ lanes ≠ 0 then act else lanes
    let p := pcSlot a c.pcs
    let s' := aheadExec s (setSlot a c.pcs { p with mask := p.mask &&& ~~~unk }) w x
    aheadKeep s g a s' fun a' =>
      let a' := setSlot a' c.pcs { pcSlot a' c.pcs with mask := p.mask }
      let regs := if (opField w).toNat = 0x10 ∧ (fnField w).toNat = 1 ∧ unk ≠ 0 then
          (List.range a.regAlloc).drop (fld w 14 7 : BitVec 7).toNat else u.dsts.map fun d => d.toNat
      let a' := unkV a' regs (if u.single then act else if unk = 0 then act else unk) unk
      let a' := match u.pdst with
        | some p => unkP a' p act unk
        | none => a'
      let a' := unkS a' u.sdst (u.scal.any (scalUnk a) || ((opField w).toNat == 0x0F && unk ≠ 0))
      if u.pdst.isSome ∨ u.sdst ≠ [] then a' else shiftUnk a' act unk

/-! ## Other words -/

/-- Whether a word of run-ahead ends it whatever its operands (R280). -/
def endsAhead (w : Word) : Bool := match (opField w).toNat, (fnField w).toNat with
  | 0x40, _ | 0x42, _ => false
  | 0x43, fn => fn == 1
  | 0x70, _ => false
  | op, _ => !(op < 0x22 || (0x28 ≤ op && op < 0x2D) || op == 0x30)

/-- Whether the guard or target of a branch, call, ret or brx is unknown in a lane of EXEC. -/
def branchUnk (a : Group) (c : Clause) (w : Word) : Bool := match (opField w).toNat, (fnField w).toNat with
  | 0x43, 0 => scalUnk a 63
  | 0x43, 4 => scalUnk a (fld w 12 6 : BitVec 6).toNat
  | 0x43, _ => false
  | _, fn => tget a.unknown.p fn 0 &&& execMask a c ≠ 0

/-- rdsys makes its destination known (R118). -/
def sysKnown (a : Group) (c : Clause) (w : Word) : Group := match (fld w 19 2 : BitVec 2).toNat with
  | 0 => unkV a [(fld w 12 7 : BitVec 7).toNat] (execMask a c) 0
  | 1 => unkS a [(fld w 12 6 : BitVec 6).toNat] false
  | _ => unkP a (fld w 12 3 : BitVec 3).toNat (BitVec.allOnes 128) 0

/-- One word of a run-ahead. -/
noncomputable def aheadWord (s : State) (g a : Group) (c : Clause) : State :=
  let w := c.words.getD c.idx 0
  let x := if hasExt c then c.words[c.idx + 1]? else none
  let op := (opField w).toNat
  if endsAhead w then endAhead s g
  else if op < 0x28 then aheadAlu s g a c w x
  else if op = 0x30 then putAhead s (advance s a c)
  else if op < 0x30 then
    let m := aheadForm w x
    if (m.srcs ++ m.dsts).any fun f => (windowOf a f).isSome then endAhead s g
    else aheadMem s g a c m (op == 0x2A && ((wordGuard x).map fun o => o.gp != 0).getD false)
  else if op = 0x70 then aheadKeep s g a (aheadExec s a w x) fun a' => sysKnown a' c w
  else if branchUnk a c w then endAhead s g
  else aheadKeep s g a (aheadExec s a w x) fun a' => if op = 0x42 then unkS a' [63] false else a'

/-- The next clause of a run-ahead: a running slot whose clause may issue; a fault of its fetch ends the run. -/
def aheadClause (s : State) (g a0 : Group) : State :=
  let a := { a0 with cnt := g.cnt }
  match groupAt (parkAll (a.depth + 3) (setGroup s a) a.core a.slot) a.core a.slot with
  | none => endAhead s g
  | some a =>
    let order := if a.b.since < a.a.since then [SlotId.b, .a] else [.a, .b]
    let tries := (order.filter fun i => (pcSlot a i).st == .running).map fun i => tryFresh s a i
    match tries.find? fun t => match t with
      | .not => false
      | _ => true with
    | some (.start c _) => putAhead s { dropLatches a with clause := some c }
    | some (.wait s') => putAhead s' a
    | some _ => endAhead s g
    | none => if tries.isEmpty then endAhead s g else putAhead s a

/-- One turn of a group's run-ahead, which ends with its 2,048 clocks or its 32 pages. -/
noncomputable def aheadStep (s : State) (g : Group) (b : Batch) : State :=
  if b.since + 2048 ≤ s.clock ∨ 32 ≤ b.pages.length then endAhead s g
  else
    let a := (aheadOf s g).getD (aheadFirst s g b)
    match a.clause with
    | some c => aheadWord s g a c
    | none => aheadClause s g a

end Sys2Proof.Machine
end

