-- ==== Sys2Proof/Machine/Twin.lean ====
section
/-!
DEFINITION. What the agents of the twin do to the memory of the pair and to this device (R2, R298, R313): the schedule says
when, and the rules of coherence say what follows. A unit of the twin stands in `State.l1` and `State.holding` as `.far`.
-/

namespace Sys2Proof.Machine

/-- Whether a word lies in the memory of the pair (R316). -/
def pairWord (w : Nat) : Bool := decide (w % 4 = 0) && decide (homeOf w < 2) && physExists (homeOf w) (paOf w)

/-- A store of a unit of the twin to bytes of one word. -/
def twinStore (s : State) (u w : Nat) (mask : BitVec 4) (v : Word) : State := storeCopy s (.far u) none w mask v false

/-- An atomic of a unit of the twin on a word, of a context at an address: performed at once where the word is registered to
the unit, else once the word has come, for which ATQ is sent with the unit's dirty bytes (R328). -/
def twinAtom (s0 : State) (ctx va : Nat) (a : TwinAtom) : State :=
  let s := { s0 with twinAtoms := s0.twinAtoms ++ [a] }
  if regHeld (copyAt s (.far a.unit) a.word) && !handedOn s (.far a.unit) fun x => x == a.word then farAtoms s a.unit [a.word]
  else if regHeld (copyAt s (.far a.unit) a.word) then s0
  else if valueComing s (.far a.unit) a.word || s.msgs.any fun m => m.kind == .atq && m.src == .far a.unit && m.names a.word then s
  else
    let own : List WordVal := match copyAt s (.far a.unit) a.word with
      | some ⟨.drt, v, m, _, p, _⟩ => [⟨a.word, v, m, p, none⟩]
      | _ => []
    send (dropCopy s (.far a.unit) a.word)
      { kind := .atq, src := .far a.unit, dst := homeAgent a.word, addr := lineBase a.word, who := .far a.unit, ctx := some ctx,
        tag := va, words := [a.word], vals := own }

/-- A unit of the twin gives a word up, with the word that moves with it (R324). -/
def twinEvict (s : State) (u w : Nat) : State :=
  match copyAt s (.far u) w with
  | some c => match c.st with
    | .cln => dropCopy s (.far u) w
    | .reg => holdAndSend s (.far u) none true (evictSet s (.far u) w)
    | .drt => holdAndSend s (.far u) none false (evictSet s (.far u) w)
  | none => s

/-- An operation of a group of the twin on a variable's entry (R313, R314): with the catch-up that it asks of the last
releaser, and its own registrations where it releases. It is in progress until those have been acknowledged. -/
def twinSync (s : State) (ctx core slot var scope : Nat) (rel acq : Bool) : State :=
  if entryBusy s ctx s.nextId var then s
  else match roomForEntry s ctx var with
    | (s0, false) => s0
    | (s0, true) =>
      let t := tableStep s0 ctx (true, core, slot)
        ⟨core, slot, s0.nextId, 0, rel, acq, scope, var, scope, .table, 0, [], 0, none, false, 0, .a, 0, 0⟩ none
      let s1 := if rel then catchUp t.1 true core ctx t.2.1.relScope else t.1
      let source := (t.2.2.2.map fun k => (k, t.2.1.entry.widest)).toList ++
        if rel then [(releaserKey true core, t.2.1.relScope)] else []
      { s1 with twinOps := (s1.twinOps.filter fun o => twinBusy s1 o.ctx o.var) ++ [⟨ctx, var, s1.msgSeq, source⟩] }

/-- A record of the twin arrives at a context's ring and takes the next SEQ, once it has room (R344, R349). One of a release takes OBS and PSEQ from its variable's entry, and becomes the last there (R341). -/
def twinRecord (s : State) (ctx type : Nat) (actor : DWord) (rest : List DWord) : State :=
  let var := bitsOf (rest.getD 0 0) 3 45 * 8
  let words := if type = 0x02 then rest.take 1 ++ [releaseTail s ctx var] else rest
  let r : LRec := ⟨0, type, recUnits words.length, true, 0, actor :: words⟩
  if logMode s ctx = 1 ∧ type ≠ 0x0F ∧ recSane r = true ∧ logReady s ctx words.length = true then
    let s1 := logWriteOf s (1 - s.devId) ctx type actor words
    if type = 0x02 then updSync s1 ctx var fun e => { e with lastRel := some (logSeqOf s ctx), obs := 0 } else s1
  else s

/-- The twin matches a record of its own in a replay (R346, R349). -/
def twinReplayed (s : State) (ctx unit : Nat) : State :=
  if logMode s ctx ≠ 2 then s
  else match (replayRecs s ctx).find? fun r => r.unit == unit && recSane r && unmatched s ctx r && r.dev != (s.devId == 1) with
    | some r => matchRec s ctx r
    | none => s

/-- The unit of the twin that an act names, if it names one: a core, or its RDC, 96 (R316). -/
def TwinAct.unit : TwinAct → Option Nat
  | .read u _ => some u
  | .store u _ _ _ => some u
  | .release u => some u
  | .atom _ _ u _ _ _ _ => some u
  | .evict u _ => some u
  | .acquire u => some u
  | .sync _ core _ _ _ _ _ => some core
  | _ => none

/-- An act of the twin, while it answers (R2, R293). -/
def twinAct (s : State) (a : TwinAct) : State :=
  if !s.isW || !s.twinUp || (a.unit.any fun u => 96 < u) then s
  else match a with
    | .read u line =>
      if pairWord line && line % 128 == 0 then
        send s { kind := .rdq, src := .far u, dst := homeAgent line, addr := line, who := .far u }
      else s
    | .store u w mask v => if pairWord w then twinStore s u w mask v else s
    | .release u => registerWords s (.far u) none ((copiesOf s (.far u)).filter fun e => e.2.st == .drt)
    | .atom ctx va u w fn d x => if pairWord w then twinAtom s ctx va ⟨u, w, fn, d, x⟩ else s
    | .evict u w => twinEvict s u w
    | .acquire u => mapCopies s (.far u) fun t => t.filter fun e => e.2.st != .cln
    | .write w mask v => if pairWord w then homeWrite (overtake s w mask) w mask v false none none else s
    | .recall w => if homeOf w = 1 then recallWords s [w] else s
    | .push ctx src words =>
      { s with
        nextId := s.nextId + 1
        pairReds := s.pairReds ++ [⟨s.nextId, true, 0, 0, ctx, src.map fun x => (x, false), words, 0⟩] }
    | .record ctx type actor rest => twinRecord s ctx type actor rest
    | .replayed ctx unit => twinReplayed s ctx unit
    | .sync ctx core slot var scope rel acq => twinSync s ctx core slot (var / 8 * 8 % 2 ^ 48) scope rel acq

end Sys2Proof.Machine
end

