-- ==== Sys2Proof/Machine/Issue.lean ====
section
/-!
DEFINITION. The issue of a clause's next word (R33, R48), and the passing of time.
-/

namespace Sys2Proof.Machine

/-- The cause of a word that does not decode (R48): an extension word that is missing or stands where none may is 0x02,
anything else 0x01. -/
def rejectCause : Reject → Nat
  | .missingExtension => 0x02
  | .strayExtension => 0x02
  | _ => 0x01

/-- The trap of a word that a clause resumed in the middle holds against R30 (R31). -/
def legalTrap (s : State) (g : Group) (c : Clause) (cause : Nat) : Res :=
  trapAt s g c cause (execMask g c) 0xFF (if cause = 0x02 then wordAddr c else 0) []

/-- The word being issued with its extension word. -/
def issuePair (c : Clause) : Word × Option Word :=
  (c.words.getD c.idx 0, match c.words[c.idx + 1]? with
    | some x => if isExt x then some x else none
    | none => none)

/-- The issue of the word at which a group's clause stands. -/
noncomputable def issueAt (s : State) (g : Group) (c : Clause) : Res :=
  match decode (issuePair c).1 (issuePair c).2 with
  | .error r => legalTrap s g c (rejectCause r)
  | .ok i => if i.wf then exec i s else legalTrap s g c 0x01

/-- The turn of a group: its next word issues unless the group is held; in run-ahead the run goes on. -/
noncomputable def issueWord (s : State) (core slot : Nat) : Res :=
  match groupAt s core slot with
  | none => .next s
  | some g => match g.batch with
    | some b =>
      if b.ahead then .next (aheadStep s g b)
      else if issueHeld s g then .next s
      else (match g.clause with
        | some c => issueAt { s with cur := some (core, slot) } g c
        | none => .next s)
    | none =>
      if issueHeld s g then .next s
      else match g.clause with
        | some c => issueAt { s with cur := some (core, slot) } g c
        | none => .next s

/-- `n` clocks pass (R5, R287): a clock of `mhz` MHz lasts 100 / mhz of a 100 MHz period, a whole number of units at every
rate of R385. -/
def passTime (s : State) (n : Nat) : State :=
  { s with
    clock := s.clock + n
    refUnits := s.refUnits + n * (100 * Config.refUnit / s.mhz)
    groups := if n = 0 then s.groups else s.groups.map (countCandidate s) }

/-- The environment marks a word of memory as holding uncorrectable data (R125): a line with poison does not compress
(R335). -/
def spoilWord (s : State) (word : Nat) : State :=
  settleLine { s with memPoison := tput s.memPoison (word / 4 * 4) true } (lineBase (word / 4 * 4))

/-- Whether an event record that waits for room in its coalescer is one of those that `p` selects (R372). -/
def recordWaits (s : State) (p : EventRec → Bool) : Bool := s.events.any fun e => (e.2.drop 32).any p

/-- Whether a copy engine, a quadrant or the launch unit waits with a record that it raised, by its engine identity
(R162, R372). -/
def engineHeld (s : State) (unit : Nat) : Bool :=
  recordWaits s fun e => e.slots == 0 && e.core != noCore && [0x07, 0x08, 0x0D, 0x0E, 0x0F].contains e.kind &&
    (if unit < 32 then e.eng == unit / 4 * 32 + unit % 4 else if unit < 64 then e.eng == quadIdent (unit - 32) else e.eng % 32 == 8)

/-- Whether the walkers of a hamlet wait with a record: one of a core of the hamlet, or a malformed table of no core's. -/
def walkersHeld (s : State) (hamlet : Nat) : Bool :=
  recordWaits s fun e => (e.kind == 0x02 || e.kind == 0x07) && (hamletOf e.core == hamlet || e.core == noCore)

/-- Whether the unit whose act an event is waits with a record that it raised (R372): an engine; the retirements of a
hamlet's slice; the treelet fetches; traversal; the walkers of a hamlet; the launch unit and the sorter. -/
def unitHeld (s : State) : Instr → Bool
  | .copy eng => engineHeld s eng
  | .fill eng => engineHeld s eng
  | .gather eng => engineHeld s eng
  | .scatter eng => engineHeld s eng
  | .tcopy eng => engineHeld s eng
  | .prdx eng => engineHeld s eng
  | .launch => engineHeld s 64
  | .bankZero quad _ => engineHeld s (32 + quad)
  | .mloopStart quad => engineHeld s (32 + quad)
  | .denoiseStart quad => engineHeld s (32 + quad)
  | .matrixStepStart quad => engineHeld s (32 + quad)
  | .matrixStepEnd quad => engineHeld s (32 + quad)
  | .mdrainRead quad => engineHeld s (32 + quad)
  | .engineCmdComplete unit _ => engineHeld s unit
  | .tileRetire _ tile => recordWaits s fun e => (e.kind == 0x0A || e.kind == 0x0B) && e.aux.toNat % 8 == tile % 8
  | .treeletFetchStart _ _ _ => recordWaits s fun e => e.kind == 0x09
  | .treeletFetchComplete _ _ _ => recordWaits s fun e => e.kind == 0x09
  | .traverse _ => recordWaits s fun e => e.kind == 0x0C
  | .pageWalkStart hamlet => walkersHeld s hamlet
  | .pageWalkComplete hamlet _ _ => walkersHeld s hamlet
  | .launchWindow => recordWaits s fun e => e.kind == 0x15
  | .waveDispatch => recordWaits s fun e => e.kind == 0x15
  | _ => false

/-- One turn of the schedule. -/
noncomputable def takeTurn (s : State) : Turn → Res
  | .event e => if e.isEvent && !unitHeld s e then exec e s else .next s
  | .issue core slot => issueWord s core slot
  | .tick n => .next (passTime s n)
  | .memError w => .next (spoilWord s w)
  | .soft quad e => .next (softError s quad e)
  | .walkAhead eng ctx page => .next (walkAhead s eng ctx page)
  | .twin a => .next (twinAct s a)

/-! ## Placing an instruction -/

/-- A clause header for words of the class that an opcode has (R29, R30). -/
def headerFor (op : Nat) : Word := BitVec.ofNat 32 (0x7F * 2 ^ 25 + opClass op * 2 ^ 15 + 2)

/-- A device in which a compute group stands at a clause of two words: live context 0, core 0, slot 0, every register
allocated, no other work, and the next turn its own. -/
def withClause (s : State) (w0 w1 : Word) : State :=
  let g := freshGroup 0 0 0 0 0 124 .compute 0x100 (BitVec.allOnes 128) 0 0 0
  let c : Clause := ⟨.a, 0x100, headerFor (opField w0).toNat, if isExt w1 then [w0, w1] else [w0], 0⟩
  { s with
    groups := [{ g with clause := some c }]
    ctxs := tput s.ctxs 0 { noCtx with live := true }
    cur := some (0, 0)
    sched := [.issue 0 0] }

end Sys2Proof.Machine
end

