-- ==== Sys2Proof/Machine/Idle.lean ====
section
/-!
DEFINITION. The turns of a round: what the device does when no order is set. A round offers a turn to everything that has work,
so that nothing which the device can do is put off for ever (R243, R269); the order within a round is the model's (log entry 7).
-/

namespace Sys2Proof.Machine

/-- The event in which a message arrives (R319). -/
noncomputable def msgEvent (m : Msg) : Instr := match m.kind with
  | .rdq => .rdq m.src m.dst
  | .data => .data m.src m.dst
  | .fwd => .fwd m.src m.dst
  | .frep => .frep m.src m.dst
  | .reg => .reg m.src m.dst
  | .mrg => .mrg m.src m.dst
  | .mfwd => .mfwd m.src m.dst
  | .rack => .rack m.src m.dst
  | .mack => .mack m.src m.dst
  | .wb => if m.dst = .host then .hostWriteBackAccept m.addr else .wb m.src m.dst
  | .wack => .wack m.src m.dst
  | .atq => .atq m.src m.dst
  | .xfer => .xfer m.src m.dst
  | .xferv => .xferv m.src m.dst
  | .aval => .aval m.src m.dst
  | .rcl => .rcl m.src m.dst

/-- The memory side: messages and fills, the lines that they wait for, snoops, bias, sync variables, reductions, walks. -/
noncomputable def memoryEvents (s : State) : List Instr :=
  s.msgs.map msgEvent ++
  (s.msgs.filter fun m => m.kind == .data && m.dst == .rdc && !rdcFits s m.addr).flatMap (fun _ => (rdcLines s).take 1 |>.map .rdcEvict) ++
  s.l2Wait.map (fun m => .l2FillComplete m.addr) ++
  ((s.l2Wait.filter fun m => m.dst != .rdc).flatMap fun m =>
    (((s.l2.flatten.filter fun l => sliceOf l == sliceOf m.addr && !(lineWords l).any (isLost s)).getLast?).map .l2Evict).toList) ++
  s.l2Evict.map .l2Evict ++
  s.biasWait.map .backInvalidationAnswer ++
  s.bias.map (fun r => .biasMerge r.base) ++
  s.syncOps.map (fun _ => .syncTableOp) ++
  (List.range s.reds.length).map .redNodeFold ++
  s.walkQ.map (fun q => .pageWalkStart q.1) ++
  s.walking.flatMap (fun w => w.2.map fun r => .pageWalkComplete w.1 r.ctx r.page) ++
  (List.range s.invals.length).map .invalComplete

/-- A group: the starts of clauses, its accesses, its synchronisation, its waits and its end (R266 to R269). -/
noncomputable def groupEvents (g : Group) : List Instr :=
  g.ops.flatMap (fun o => [.loadComplete g.core g.slot o.id, .storeComplete g.core g.slot o.id]) ++
  [.issuePromote g.core g.slot, .faultReissue g.core g.slot, .runAheadTimeout g.core g.slot, .relBegin g.core g.slot,
   .acqComplete g.core g.slot, .waitGroupTimeout g.core g.slot, .reggrowGrant g.core, .regshrinkDone g.core g.slot,
   .groupEnd g.core g.slot, .episodeEnd g.core g.slot, .clauseStart g.core (g.slot % 8)]

/-- The launch unit, a grid's generation rays and its end (R250, R178, R264). -/
noncomputable def gridEvents (g : Grid) : List Instr :=
  .headAged g.queue :: g.id.toList.flatMap fun i => [.genRayCreate g.ctx i, .gridComplete g.ctx i]

/-- The ray machine: bins, treelets, traversal, records that wait for a place, tiles (R212 to R241). -/
noncomputable def rayEvents (s : State) : List Instr :=
  (List.range s.bins.length).map .binAgeReady ++
  (s.bins.filter fun b => !b.shading).flatMap (fun b =>
    [.treeletAgeExpire b.ctx b.grid b.entry, .treeletFetchStart b.ctx b.grid b.entry,
     .treeletFetchComplete b.ctx b.grid b.entry]) ++
  s.treelets.flatMap (fun t => (0 :: s.grids.filterMap fun g => g.id).map fun i => .treeletFetchComplete t.ctx i t.index) ++
  s.rays.flatMap (fun r => (if r.spilled.isSome then [.rayUnspill r.id] else []) ++ [.traverse r.id]) ++
  [.waveDispatch] ++
  s.tiles.map (fun t => .tileRetire t.ctx t.tile) ++
  s.tileAdds.map (fun _ => .tileAddResume)

/-- The copy engines, the launch unit's commands and the quadrants (R146). -/
noncomputable def engineEvents (s : State) : List Instr :=
  (s.engines.filter fun e => !e.2.isEmpty).flatMap (fun e =>
    (if e.1 = 64 then [.launch] else [.copy e.1, .tcopy e.1, .gather e.1, .scatter e.1, .fill e.1, .prdx e.1]) ++
    e.2.map fun c => .engineCmdComplete e.1 c.id) ++
  (List.range s.pairReds.length).map .prdxCombine ++
  (s.quads.filter fun q => !q.2.jobs.isEmpty).flatMap fun q =>
    [.matrixStepEnd q.1, .mloopStart q.1, .denoiseStart q.1, .matrixStepStart q.1, .mdrainRead q.1] ++
    q.2.jobs.flatMap fun j => [.bankZero q.1 j.bank, .engineCmdComplete (32 + q.1) j.id]

/-- The commands of the host's command ring (R288, R289). -/
noncomputable def commandEvents : List Instr :=
  [.ctxcreate, .ctxdestroy, .setctxTrans, .setctxTrap, .setctxLog, .setctxRay, .setctxPfx, .setctxFrame, .setctxDbg, .inval,
   .verdictResolved, .verdictGivenUp, .preempt, .reset, .resumePreempt, .resumeHalt, .halt, .step, .dbgread, .dbgwrite, .raysave,
   .banksave, .bankload, .tileflush, .tileclear, .salvage]

/-- Whether the command ring has work: a command at its head that can be read, or one that runs. -/
noncomputable def ringRuns (s : State) : Bool := if cmdPending s then headExists s else !s.cmds.isEmpty

/-- A live context: its waits, its pre-emption and its halt. -/
noncomputable def ctxEvents (c : Nat) : List Instr :=
  [.rsvGrant c, .poolDrainTimeout c, .preemptComplete c, .preemptDeadline c, .haltComplete c]

/-- The events of a round. What comes from outside the device is in none: the host's accesses and writes of registers, tests,
links, power, errors, and the acts of the twin. -/
noncomputable def roundEvents (s : State) : List Instr :=
  memoryEvents s ++ s.groups.flatMap groupEvents ++ s.grids.flatMap gridEvents ++ [.launchWindow] ++ rayEvents s ++
  engineEvents s ++ (if ringRuns s then commandEvents else []) ++
  (s.ctxs.filter fun c => c.2.live).flatMap (fun c => ctxEvents c.1) ++
  (s.events.filter fun e => !e.2.isEmpty).map fun e => .coalescerWrite e.1

/-- The turns of a round: its events, the next word of every group, and a clock. -/
noncomputable def round (s : State) : List Turn :=
  (roundEvents s).map Turn.event ++ s.groups.map (fun g => Turn.issue g.core g.slot) ++ [.tick 1]

/-- One step of the device: its next turn, or, with none set, a round of turns for all that has work (R243, R269). -/
noncomputable def stepOnce (s : State) : Res :=
  match s.sched with
  | [] => .next { s with sched := round s }
  | t :: rest => takeTurn { s with sched := rest } t

end Sys2Proof.Machine
end

