-- ==== Sys2Proof/Machine/Step.lean ====
section
/-!
DEFINITION. One step of the device: the next turn of its schedule.
-/

namespace Sys2Proof.Machine

/-- One step of the device. -/
noncomputable def step : State → Host.Outcome State Fault Refusal := stepOnce

/-- The state with an instruction of the opcode table where the next step issues it: a clause of the group that acts next
holds its word and its extension word. -/
def State.withFetchWord (s : State) (_nbits w : Nat) : State :=
  withClause s (BitVec.ofNat 32 w) (BitVec.ofNat 32 (w / 2 ^ 32))

end Sys2Proof.Machine
end

