-- ==== Sys2Proof/Safety.lean ====
section
/-!
DEFINITION. What a claim about the device can say: the words that the statements share (a group at a word, an instruction
that has completed, results in lanes), and what counts as safe between steps.
-/

namespace Sys2Proof.Safety

open Sys2Proof.Machine

/-! ## A group at a word -/

/-- Group `g` stands at a word of its clause `c`, and the word is the next to issue. -/
def At (s : State) (g : Group) (c : Clause) : Prop := issuer s = some (g, c)

/-- The device after an instruction of `g` that has left the group as given and retired: the clause stands at its next
word, or has ended, and nothing else has changed. -/
def after (s : State) (g : Group) (c : Clause) : State := setGroup s (advance s g c)

/-- The device after a trap of the word at which `g` stands (R24). -/
def trapped (s : State) (g : Group) (c : Clause) (cause : Nat) (mask : Mask) (dst addr : Nat) (laneAddrs : Tbl Nat) : State :=
  takeTrap s g c.pcs ⟨cause, mask, addr, dst, laneAddrs, wordAddr c, c.idx + 1, c.hdr, false⟩

/-! ## Operands -/

/-- A vector field that names a register below REGALLOC or a latch, and no queue window (R9, R43, R165). -/
def Plain (g : Group) (f : BitVec 7) : Prop := windowOf g f = none ∧ beyond g f = false

/-- Whether a lane is active under a mask. -/
abbrev On (m : Mask) (l : Nat) : Prop := l < 128 ∧ m.getLsbD l = true

/-- No active lane of a source holds poisoned data (R125). -/
def Sound (g : Group) (act : Mask) (f : BitVec 7) : Prop := ∀ l, On act l → (fieldPoison g f).getLsbD l = false

/-- The destination field of a vector instruction, none under NW (R44). -/
def dest (nw : Bool) (d : BitVec 7) : List (BitVec 7) := if nw then [] else [d]

/-- A vector instruction may compute: its group stands at it with a lane active, its fields are plain, and what it reads
is sound. -/
structure LaneOp (s : State) (g : Group) (c : Clause) (ox : Option Ox) (srcs : List (BitVec 7)) (nw : Bool) (d : BitVec 7) :
    Prop where
  standing : At s g c
  plain : ∀ f ∈ srcs ++ dest nw d, Plain g f
  active : activeMask g c ox ≠ 0
  sound : ∀ f ∈ srcs, Sound g (activeMask g c ox) f

/-- A scalar operand of a vector instruction holds no poison (R126); an immediate never does. -/
def ScalarSound (g : Group) (si : Bool) (sb : BitVec 6) : Prop := si = false → tget g.sPoison sb.toNat false = false

/-! ## Results -/

/-- The group after a vector result in the lanes of `act`: the destination unless NW, and the latches (R42, R44, R46). -/
def written (g : Group) (act : Mask) (nw : Bool) (d : BitVec 7) (val : Nat → Word) : Group :=
  shiftLatches (if nw then g else setV g d.toNat act val) act val

/-- The group after a floating-point result: FFLAGS of each active lane takes the conditions it raised (R77). -/
def fpWritten (g : Group) (act : Mask) (nw : Bool) (d : BitVec 7) (res : Nat → FRes) : Group :=
  written (setFlags g act fun l => (res l).fl) act nw d fun l => BitVec.ofNat 32 (res l).bits

/-- No active lane raises a condition whose trap FPCTL enables (R77). -/
def Quiet (g : Group) (act : Mask) (res : Nat → FRes) : Prop :=
  ∀ l, On act l → fpFaults (enabledTraps g.fpctl) (res l).fl = false

/-- The lanes of `act` where a condition holds. -/
def among (act : Mask) (p : Nat → Bool) : Mask := maskOf fun l => act.getLsbD l && p l

/-! ## Between steps -/

/-- A property that every step of the device keeps, from any state whatever. -/
def KeptByStep (P : State → Prop) : Prop := ∀ s t : State, P s → step s = .next t → P t

/-- The memory of every home and every scratchpad stand in their canonical form: equal contents are equal lists. -/
def MemoryOk (s : State) : Prop := Memory.wf s.mem = true ∧ ∀ t ∈ s.teams, Memory.wf t.mem = true

/-- The words that each L1 and the RDC hold stand in rising order, each once. -/
def CachesOk (s : State) : Prop :=
  (∀ core, ((tget s.l1 core []).map Prod.fst).Pairwise (· < ·)) ∧ (s.rdc.map Prod.fst).Pairwise (· < ·)

/-- A PX960-M has no twin: the twin neither answers nor has failed (R1, R293, R336). -/
def NoTwinOnM (s : State) : Prop := s.isW = false → s.twinUp = false ∧ s.twinFailed = false

end Sys2Proof.Safety
end

