-- ==== Sys2Proof/Certificates/Slice0/Obligations.lean ====
section
/-!
DEFINITION. The statements for the provers, family by family, in the order of the opcode table. Each is a statement about
every state: `after s g c` is the whole device after an instruction, so an equation with it says what the instruction
changes and that it changes nothing else.
-/

namespace Sys2Proof.Claims

open Sys2Proof.Machine
open Sys2Proof.Safety

/-! ## Integer arithmetic and logic: what R79 to R85 compute -/

/-- An exact integer held within two limits. -/
def saturate (lo hi n : Int) : Word := if n < lo then BitVec.ofInt 32 lo else if hi < n then BitVec.ofInt 32 hi else BitVec.ofInt 32 n

/-- R79 and R81: each mnemonic with its result. -/
noncomputable def intV3 : List ((V3 → Option Ox → Instr) × (Word → Word → Word)) := [
  (.vaddI32, fun a b => a + b),
  (.vsubI32, fun a b => a - b),
  (.vaddsI32, fun a b => saturate (-2 ^ 31) (2 ^ 31 - 1) (a.toInt + b.toInt)),
  (.vsubsI32, fun a b => saturate (-2 ^ 31) (2 ^ 31 - 1) (a.toInt - b.toInt)),
  (.vaddsN32, fun a b => saturate 0 (2 ^ 32 - 1) (a.toNat + b.toNat)),
  (.vsubsN32, fun a b => saturate 0 (2 ^ 32 - 1) (a.toNat - b.toNat)),
  (.vminI32, fun a b => if a.toInt ≤ b.toInt then a else b),
  (.vmaxI32, fun a b => if a.toInt ≤ b.toInt then b else a),
  (.vminN32, fun a b => if a.toNat ≤ b.toNat then a else b),
  (.vmaxN32, fun a b => if a.toNat ≤ b.toNat then b else a),
  (.vabsdI32, fun a b => BitVec.ofInt 32 |a.toInt - b.toInt|),
  (.vabsdN32, fun a b => if a.toNat ≤ b.toNat then b - a else a - b),
  (.vmulI32, fun a b => BitVec.ofInt 32 (a.toInt * b.toInt)),
  (.vmulhiI32, fun a b => (a.signExtend 64 * b.signExtend 64).extractLsb' 32 32),
  (.vmulhiN32, fun a b => (a.zeroExtend 64 * b.zeroExtend 64).extractLsb' 32 32)]

/-- R81: logic, shifts and rotations. -/
noncomputable def logicV3 : List ((V3 → Option Ox → Instr) × (Word → Word → Word)) := [
  (.vandB32, fun a b => a &&& b),
  (.vorB32, fun a b => a ||| b),
  (.vxorB32, fun a b => a ^^^ b),
  (.vandnB32, fun a b => a &&& ~~~b),
  (.vornB32, fun a b => a ||| ~~~b),
  (.vxnorB32, fun a b => ~~~(a ^^^ b)),
  (.vshlB32, fun a b => if b.toNat % 256 < 32 then a <<< (b.toNat % 256) else 0),
  (.vshrN32, fun a b => if b.toNat % 256 < 32 then a >>> (b.toNat % 256) else 0),
  (.vshrI32, fun a b => if b.toNat % 256 < 32 then a.sshiftRight (b.toNat % 256) else if a.msb then BitVec.allOnes 32 else 0),
  (.vrotlB32, fun a b => a.rotateLeft (b.toNat % 32)),
  (.vrotrB32, fun a b => a.rotateRight (b.toNat % 32))]

/-- The width w′ of a bit field at offset `o` (R83). -/
def width (o w : Nat) : Nat := min (min w 32) (32 - o)

/-- A word with OP and F in its ten upper bits (R35, R37). -/
def formed (n : Nat) (low : BitVec 22) : Word := BitVec.ofNat 10 n ++ low

/-- R80 and R83: each mnemonic with its result. -/
noncomputable def intV4 : List ((V3 → Ox → Instr) × (Word → Word → Word → Word)) := [
  (.vmadI32, fun a b c => a * b + c),
  (.vdp4I8, fun a b c => c + ((a.extractLsb' 0 8).signExtend 32 * (b.extractLsb' 0 8).signExtend 32 +
    (a.extractLsb' 8 8).signExtend 32 * (b.extractLsb' 8 8).signExtend 32 +
    (a.extractLsb' 16 8).signExtend 32 * (b.extractLsb' 16 8).signExtend 32 +
    (a.extractLsb' 24 8).signExtend 32 * (b.extractLsb' 24 8).signExtend 32)),
  (.vdp4N8, fun a b c => c + ((a.extractLsb' 0 8).zeroExtend 32 * (b.extractLsb' 0 8).zeroExtend 32 +
    (a.extractLsb' 8 8).zeroExtend 32 * (b.extractLsb' 8 8).zeroExtend 32 +
    (a.extractLsb' 16 8).zeroExtend 32 * (b.extractLsb' 16 8).zeroExtend 32 +
    (a.extractLsb' 24 8).zeroExtend 32 * (b.extractLsb' 24 8).zeroExtend 32)),
  (.vdp2I16, fun a b c => c + ((a.extractLsb' 0 16).signExtend 32 * (b.extractLsb' 0 16).signExtend 32 +
    (a.extractLsb' 16 16).signExtend 32 * (b.extractLsb' 16 16).signExtend 32)),
  (.vbfxN32, fun a b c => BitVec.ofNat 32 (a.toNat / 2 ^ (b.toNat % 32) % 2 ^ width (b.toNat % 32) (c.toNat % 64))),
  (.vbfxI32, fun a b c =>
    let w := width (b.toNat % 32) (c.toNat % 64)
    let v := a.toNat / 2 ^ (b.toNat % 32) % 2 ^ w
    if w = 0 then 0 else if v < 2 ^ (w - 1) then BitVec.ofNat 32 v else BitVec.ofInt 32 ((v : Int) - 2 ^ w)),
  (.vbfiB32, fun a b c =>
    let o := c.toNat % 32
    let w := width o (c.toNat / 256 % 64)
    BitVec.ofNat 32 (a.toNat % 2 ^ o + b.toNat % 2 ^ w * 2 ^ o + a.toNat / 2 ^ (o + w) * 2 ^ (o + w))),
  (.vfshB32, fun a b c => BitVec.ofNat 32 ((a.toNat * 2 ^ 32 + b.toNat) / 2 ^ (c.toNat % 32))),
  (.vprmB8, fun a b c =>
    let byte (i : Nat) : BitVec 8 := if c.getLsbD (4 * i + 3) then 0 else (a ++ b).extractLsb' (8 * (c.toNat / 2 ^ (4 * i) % 8)) 8
    byte 3 ++ byte 2 ++ byte 1 ++ byte 0)]

/-- R82: each mnemonic with its result. -/
noncomputable def intV2 : List ((V2 → Option Ox → Instr) × (Word → Word)) := [
  (.vpopcB32, fun a => BitVec.ofNat 32 ((List.range 32).countP fun i => a.getLsbD i)),
  (.vclzB32, fun a => BitVec.ofNat 32 (if a = 0 then 32 else 31 - Nat.log2 a.toNat)),
  (.vctzB32, fun a => BitVec.ofNat 32 ((List.range 32).findIdx fun i => a.getLsbD i)),
  (.vbrevB32, fun a => a.reverse),
  (.vnegI32, fun a => -a),
  (.vabsI32, fun a => if a.toInt < 0 then -a else a),
  (.vmovB32, fun a => a),
  (.vnotB32, fun a => ~~~a)]

/-- R84: each mnemonic with the extension of its immediate and its result. -/
noncomputable def intVS : List ((VS → Option Ox → Instr) × Bool × (Word → Word → Word)) := [
  (.vaddI32Vs, false, fun a b => a + b),
  (.vsubI32Vs, false, fun a b => a - b),
  (.vmulI32Vs, false, fun a b => a * b),
  (.vandB32Vs, false, fun a b => a &&& b),
  (.vorB32Vs, false, fun a b => a ||| b),
  (.vxorB32Vs, false, fun a b => a ^^^ b),
  (.vshlB32Vs, true, fun a b => if b.toNat % 256 < 32 then a <<< (b.toNat % 256) else 0),
  (.vshrN32Vs, true, fun a b => if b.toNat % 256 < 32 then a >>> (b.toNat % 256) else 0)]

/-- The B operand of a VS form: a scalar's low word, or the immediate extended (R35, R84). -/
def operandVS (g : Group) (f : VS) (zeroExt : Bool) : Word :=
  if f.si then (if zeroExt then f.sb.zeroExtend 32 else f.sb.signExtend 32) else (sReg g f.sb.toNat).truncate 32

/-- R85: the integer forms with a 32-bit immediate. -/
noncomputable def intVI : List ((VI → Instr) × (Word → Word → Word)) := [
  (.vaddI32Vi, fun a b => a + b),
  (.vmulI32Vi, fun a b => a * b),
  (.vandB32Vi, fun a b => a &&& b),
  (.vorB32Vi, fun a b => a ||| b),
  (.vxorB32Vi, fun a b => a ^^^ b)]

end Sys2Proof.Claims

open Sys2Proof Sys2Proof.Machine Sys2Proof.Safety

/-- R79: the integer arithmetic of two sources, in every active lane; nothing else of the device changes but the latches
and the clause's position. The forms stand in the table's order in opcodes 0x00 and 0x01, each with an optional OX word
whose C is 0x00; F = 7 of 0x01 is reserved. -/
def Obligations.IntegerArithmetic : Prop :=
  (∀ p ∈ Claims.intV3, ∀ (f : V3) (ox : Option Ox) (s : State) (g : Group) (c : Clause), LaneOp s g c ox [f.a, f.b] f.nw f.d →
    exec (p.1 f ox) s = .next (after s
      (written g (activeMask g c ox) f.nw f.d fun l => p.2 (readV g f.a l) (readV g f.b l)) c)) ∧
  (∀ (k : Nat) (p : (V3 → Option Ox → Instr) × (Word → Word → Word)) (f : V3) (ox : Option Ox), Claims.intV3[k]? = some p →
    plainOx ox = true → decode (BitVec.ofNat 7 (k / 8) ++ BitVec.ofNat 3 (k % 8) ++ BitVec.ofBool f.nw ++ f.d ++ f.a ++ f.b)
      (ox.map oxWord) = .ok (p.1 f ox)) ∧
  (∀ p ∈ Claims.intV3, ∀ (f : V3) (o : Ox), o.c ≠ 0 → (p.1 f (some o)).wf = false) ∧
  (∀ low : BitVec 22, decode ((1 : BitVec 7) ++ (7 : BitVec 3) ++ low) none = .error .reservedFunction) ∧
  (∀ a b : Word, BitVec.ofInt 32 (a.toInt * b.toInt) = BitVec.ofNat 32 (a.toNat * b.toNat))

/-- R81: logic, shifts and rotations of two sources. -/
def Claims.LogicAndShifts : Prop :=
  ∀ p ∈ Claims.logicV3, ∀ (f : V3) (ox : Option Ox) (s : State) (g : Group) (c : Clause), LaneOp s g c ox [f.a, f.b] f.nw f.d →
    exec (p.1 f ox) s = .next (after s
      (written g (activeMask g c ox) f.nw f.d fun l => p.2 (readV g f.a l) (readV g f.b l)) c)

/-- R80 and R83: multiply-add, dot products, bit fields, funnel shift and byte permutation. -/
def Claims.ThreeSourceInteger : Prop :=
  ∀ p ∈ Claims.intV4, ∀ (f : V3) (ox : Ox) (s : State) (g : Group) (c : Clause),
    LaneOp s g c (some ox) [f.a, f.b, ox.c] f.nw f.d →
    exec (p.1 f ox) s = .next (after s
      (written g (activeMask g c (some ox)) f.nw f.d fun l => p.2 (readV g f.a l) (readV g f.b l) (readV g ox.c l)) c)

/-- R82: counts, reversal, negation, absolute value, move and complement. -/
def Claims.OneSourceInteger : Prop :=
  ∀ p ∈ Claims.intV2, ∀ (f : V2) (ox : Option Ox) (s : State) (g : Group) (c : Clause), LaneOp s g c ox [f.a] f.nw f.d →
    exec (p.1 f ox) s = .next (after s (written g (activeMask g c ox) f.nw f.d fun l => p.2 (readV g f.a l)) c)

/-- R80 to R83: where the forms of opcodes 0x02 to 0x06 stand; which take an OX word; what is reserved. -/
def Claims.IntegerEncodings : Prop :=
  (∀ (k : Nat) (p : (V3 → Option Ox → Instr) × (Word → Word → Word)) (f : V3) (ox : Option Ox), Claims.logicV3[k]? = some p →
    plainOx ox = true → decode (Claims.formed (if k < 6 then 0x18 + k else 0x1A + k) (BitVec.ofBool f.nw ++ f.d ++ f.a ++ f.b))
      (ox.map oxWord) = .ok (p.1 f ox)) ∧
  (∀ (k : Nat) (p : (V3 → Ox → Instr) × (Word → Word → Word → Word)) (f : V3) (o : Ox), Claims.intV4[k]? = some p →
    let w := Claims.formed (if k < 4 then 0x10 + k else 0x2C + k) (BitVec.ofBool f.nw ++ f.d ++ f.a ++ f.b)
    decode w (some (oxWord o)) = .ok (p.1 f o) ∧ decode w none = .error .missingExtension) ∧
  (∀ (k : Nat) (p : (V2 → Option Ox → Instr) × (Word → Word)) (f : V2) (ox : Option Ox) (b : BitVec 7), Claims.intV2[k]? = some p →
    let w := Claims.formed (0x28 + k) (BitVec.ofBool f.nw ++ f.d ++ f.a ++ b)
    (b = 0 → plainOx ox = true → decode w (ox.map oxWord) = .ok (p.1 f ox)) ∧ (b ≠ 0 → decode w none = .error .mustBeZero)) ∧
  (∀ p ∈ Claims.logicV3, ∀ (f : V3) (o : Ox), o.c ≠ 0 → (p.1 f (some o)).wf = false) ∧
  (∀ p ∈ Claims.intV2, ∀ (f : V2) (o : Ox), o.c ≠ 0 → (p.1 f (some o)).wf = false) ∧
  (∀ n ∈ [0x14, 0x15, 0x16, 0x17, 0x1E, 0x1F, 0x25, 0x26, 0x27, 0x35, 0x36, 0x37], ∀ low : BitVec 22,
    decode (Claims.formed n low) none = .error .reservedFunction)

/-- R84 and R85: the forms whose second operand is a scalar or an immediate; the VI forms have no guard. -/
def Obligations.ScalarAndImmediateOperands : Prop :=
  (∀ p ∈ Claims.intVS, ∀ (f : VS) (ox : Option Ox) (s : State) (g : Group) (c : Clause),
    LaneOp s g c ox [f.a] f.nw f.d → ScalarSound g f.si f.sb →
    exec (p.1 f ox) s = .next (after s
      (written g (activeMask g c ox) f.nw f.d fun l => p.2.2 (readV g f.a l) (Claims.operandVS g f p.2.1)) c)) ∧
  (∀ p ∈ Claims.intVI, ∀ (f : VI) (s : State) (g : Group) (c : Clause), LaneOp s g c none [f.a] f.nw f.d →
    exec (p.1 f) s = .next (after s (written g (execMask g c) f.nw f.d fun l => p.2 (readV g f.a l) f.imm) c)) ∧
  (∀ (f : VM) (s : State) (g : Group) (c : Clause), LaneOp s g c none [] f.nw f.d →
    exec (.vmovB32Vi f) s = .next (after s (written g (execMask g c) f.nw f.d fun _ => f.imm) c))

namespace Sys2Proof.Claims

/-! ## Moves, selection, comparison and predicates: R86 to R91 -/

/-- The number that a lane's operand names a lane by: bits [6:0]. -/
def laneOf (w : Word) : Nat := w.toNat % 128

/-- R89: each shuffle with the source lane of lane `l` for the number `n`. -/
noncomputable def shuffles : List ((V3 → Option Ox → Instr) × (Nat → Nat → Nat)) := [
  (.vshflIdxB32, fun _ n => n),
  (.vshflUpB32, fun l n => if n ≤ l then l - n else l),
  (.vshflDnB32, fun l n => if l + n ≤ 127 then l + n else l),
  (.vshflXorB32, fun l n => l ^^^ n)]

/-- The lane number that a scalar or an immediate gives (R90). -/
def laneNumber (g : Group) (si : Bool) (sb : BitVec 6) : Nat := if si then sb.toNat else (sReg g sb.toNat).toNat % 128

/-- The truth of a condition, by its code, from the truths of "less" and "equal" (R37). -/
def holds (cond : Nat) (lt eq : Bool) : Bool :=
  if cond = 0 then eq else if cond = 1 then !eq else if cond = 2 then lt else if cond = 3 then lt || eq
  else if cond = 4 then !lt && !eq else !lt

/-- The group after a predicate result: the bits of the active lanes, the others kept, a write of p0 ignored (R8, R86). -/
def decided (g : Group) (act : Mask) (pd : BitVec 3) (bit : Nat → Bool) : Group :=
  setP g pd.toNat (maskOf fun l => if act.getLsbD l then bit l else (pReg g pd.toNat).getLsbD l)

/-- A predicate operand's bit: pN, or its complement (R87). -/
def predBit (g : Group) (p : BitVec 3) (neg : Bool) (l : Nat) : Bool := xor neg ((pReg g p.toNat).getLsbD l)

/-- R87: the functions of two predicates. -/
noncomputable def predicates : List ((PL → Option Ox → Instr) × (Bool → Bool → Bool)) := [
  (.pand, fun a b => a && b),
  (.por, fun a b => a || b),
  (.pxor, fun a b => xor a b),
  (.pandn, fun a b => a && !b)]

/-- The lanes of a mask. -/
def lanesOn (act : Mask) : List Nat := (List.range 128).filter fun l => act.getLsbD l

end Sys2Proof.Claims

/-- R88: the select takes A where the selecting predicate's bit is set, B elsewhere; with F = 0, A everywhere. F of opcode
0x0D names the selecting predicate, and the OX word is optional, its C 0x00. -/
def Obligations.Select : Prop :=
  (∀ (sel : BitVec 3) (f : V3) (ox : Option Ox) (s : State) (g : Group) (c : Clause), LaneOp s g c ox [f.a, f.b] f.nw f.d →
    exec (.vselB32 sel f ox) s = .next (after s
      (written g (activeMask g c ox) f.nw f.d fun l =>
        if (pReg g sel.toNat).getLsbD l then readV g f.a l else readV g f.b l) c)) ∧
  (∀ (f : V3) (ox : Option Ox) (s : State) (g : Group) (c : Clause), LaneOp s g c ox [f.a, f.b] f.nw f.d →
    exec (.vselB32 0 f ox) s = .next (after s (written g (activeMask g c ox) f.nw f.d fun l => readV g f.a l) c)) ∧
  (∀ (sel : BitVec 3) (f : V3) (ox : Option Ox), plainOx ox = true →
    decode ((0x0D : BitVec 7) ++ sel ++ BitVec.ofBool f.nw ++ f.d ++ f.a ++ f.b) (ox.map oxWord) = .ok (.vselB32 sel f ox)) ∧
  (∀ (sel : BitVec 3) (f : V3) (o : Ox), o.c ≠ 0 → (Instr.vselB32 sel f (some o)).wf = false)

/-- R89: every lane takes its value from the source lane, as that lane stood before the instruction. -/
def Claims.Shuffles : Prop :=
  ∀ p ∈ Claims.shuffles, ∀ (f : V3) (ox : Option Ox) (s : State) (g : Group) (c : Clause),
    LaneOp s g c ox [f.b] f.nw f.d → Plain g f.a →
    (∀ l, On (activeMask g c ox) l → (fieldPoison g f.a).getLsbD (p.2 l (Claims.laneOf (readV g f.b l))) = false) →
    exec (p.1 f ox) s = .next (after s
      (written g (activeMask g c ox) f.nw f.d fun l => readV g f.a (p.2 l (Claims.laneOf (readV g f.b l)))) c)

/-- R90: the broadcasts of a scalar and of one lane, and the read of one lane into a scalar. -/
def Claims.Broadcasts : Prop :=
  (∀ (f : VB) (ox : Option Ox) (s : State) (g : Group) (c : Clause),
    LaneOp s g c ox [] f.nw f.d → ScalarSound g f.si f.sb →
    exec (.vbcstB32 f ox) s = .next (after s (written g (activeMask g c ox) f.nw f.d fun _ =>
      if f.si then f.sb.signExtend 32 else (sReg g f.sb.toNat).truncate 32) c)) ∧
  (∀ (f : VS) (ox : Option Ox) (s : State) (g : Group) (c : Clause),
    LaneOp s g c ox [] f.nw f.d → ScalarSound g f.si f.sb → Plain g f.a →
    (fieldPoison g f.a).getLsbD (Claims.laneNumber g f.si f.sb) = false →
    exec (.vbcstLaneB32 f ox) s = .next (after s (written g (activeMask g c ox) f.nw f.d fun _ =>
      readV g f.a (Claims.laneNumber g f.si f.sb)) c)) ∧
  (∀ (f : VGet) (ox : Option Ox) (s : State) (g : Group) (c : Clause),
    At s g c → Plain g f.a → activeMask g c ox ≠ 0 → ScalarSound g f.si f.sb →
    (fieldPoison g f.a).getLsbD (Claims.laneNumber g f.si f.sb) = false →
    exec (.vgetB32 f ox) s = .next (after s
      (setS g f.d.toNat ((readV g f.a (Claims.laneNumber g f.si f.sb)).zeroExtend 64)) c))

/-- R91: the register that each lane names above A is read in that lane. -/
def Claims.IndexedRead : Prop :=
  ∀ (f : V3) (ox : Option Ox) (s : State) (g : Group) (c : Clause),
    LaneOp s g c ox [f.b] f.nw f.d → Plain g f.a →
    (∀ l, On (activeMask g c ox) l →
      let r := f.a.toNat + Claims.laneOf (readV g f.b l)
      r < g.regAlloc ∧ windowOf g (BitVec.ofNat 7 r) = none ∧ (fieldPoison g (BitVec.ofNat 7 r)).getLsbD l = false) →
    exec (.vrdxB32 f ox) s = .next (after s (written g (activeMask g c ox) f.nw f.d fun l =>
      lane (vReg g (f.a.toNat + Claims.laneOf (readV g f.b l))) l) c)

/-- R91: each active lane writes A to its lane of the register that it names above D and of no other; the latches take A;
nothing else changes. -/
def Claims.IndexedWrite : Prop :=
  ∀ (f : V3) (ox : Option Ox) (s : State) (g : Group) (c : Clause),
    LaneOp s g c ox [f.a, f.b] f.nw f.d → Plain g f.d →
    (∀ l, On (activeMask g c ox) l →
      let r := f.d.toNat + Claims.laneOf (readV g f.b l)
      r < g.regAlloc ∧ windowOf g (BitVec.ofNat 7 r) = none) →
    ∃ g', exec (.vwrxB32 f ox) s = .next (after s g' c) ∧
      (∀ r l, l < 128 → lane (vReg g' r) l =
        if f.nw = false ∧ On (activeMask g c ox) l ∧ r = f.d.toNat + Claims.laneOf (readV g f.b l) then readV g f.a l
        else lane (vReg g r) l) ∧
      (∀ l, l < 128 → lane (latch g' 0) l = if On (activeMask g c ox) l then readV g f.a l else lane (latch g 0) l) ∧
      { g' with v := g.v, vPoison := g.vPoison, latches := g.latches, latchValid := g.latchValid } = g

/-- R86: the integer comparisons set the predicate's bits of the active lanes and keep the others, in the six conditions
that they have. -/
def Claims.IntegerComparisons : Prop :=
  (∀ (f : PC) (ox : Option Ox) (s : State) (g : Group) (c : Clause),
    LaneOp s g c ox [f.a, f.b] true 0 → f.cond.toNat < 6 →
    exec (.cmpI32 f ox) s = .next (after s (Claims.decided g (activeMask g c ox) f.pd fun l =>
      Claims.holds f.cond.toNat (decide ((readV g f.a l).toInt < (readV g f.b l).toInt)) (readV g f.a l == readV g f.b l)) c)) ∧
  (∀ (f : PC) (ox : Option Ox) (s : State) (g : Group) (c : Clause),
    LaneOp s g c ox [f.a, f.b] true 0 → f.cond.toNat < 6 →
    exec (.cmpN32 f ox) s = .next (after s (Claims.decided g (activeMask g c ox) f.pd fun l =>
      Claims.holds f.cond.toNat (decide ((readV g f.a l).toNat < (readV g f.b l).toNat)) (readV g f.a l == readV g f.b l)) c))

/-- R87: predicate logic and the votes write the bits of the active lanes, whatever the execution mask holds. The forms stand
in opcode 0x0C in the table's order; PB or NB set where a form has none is trap 0x01. -/
def Obligations.PredicateLogic : Prop :=
  (∀ p ∈ Claims.predicates, ∀ (f : PL) (ox : Option Ox) (s : State) (g : Group) (c : Clause), At s g c →
    exec (p.1 f ox) s = .next (after s (Claims.decided g (activeMask g c ox) f.pd fun l =>
      p.2 (Claims.predBit g f.pa f.na l) (Claims.predBit g f.pb f.nb l)) c)) ∧
  (∀ (f : P1) (ox : Option Ox) (s : State) (g : Group) (c : Clause), At s g c →
    exec (.pmov f ox) s = .next (after s (Claims.decided g (activeMask g c ox) f.pd fun l => Claims.predBit g f.pa f.na l) c)) ∧
  (∀ (f : P1) (ox : Option Ox) (s : State) (g : Group) (c : Clause), At s g c →
    exec (.voteAny f ox) s = .next (after s (Claims.decided g (activeMask g c ox) f.pd fun _ =>
      (Claims.lanesOn (activeMask g c ox)).any (Claims.predBit g f.pa f.na)) c)) ∧
  (∀ (f : P1) (ox : Option Ox) (s : State) (g : Group) (c : Clause), At s g c →
    exec (.voteAll f ox) s = .next (after s (Claims.decided g (activeMask g c ox) f.pd fun _ =>
      (Claims.lanesOn (activeMask g c ox)).all (Claims.predBit g f.pa f.na)) c)) ∧
  (∀ (f : P1) (ox : Option Ox) (s : State) (g : Group) (c : Clause), At s g c →
    exec (.voteUni f ox) s = .next (after s (Claims.decided g (activeMask g c ox) f.pd fun _ =>
      (Claims.lanesOn (activeMask g c ox)).all (Claims.predBit g f.pa f.na) ||
      (Claims.lanesOn (activeMask g c ox)).all fun l => !Claims.predBit g f.pa f.na l) c)) ∧
  (∀ (k : Nat) (p : (PL → Option Ox → Instr) × (Bool → Bool → Bool)) (f : PL) (ox : Option Ox), Claims.predicates[k]? = some p →
    plainOx ox = true → decode (Claims.formed (0x60 + k)
      ((0 : BitVec 1) ++ f.pd ++ f.pa ++ f.pb ++ BitVec.ofBool f.na ++ BitVec.ofBool f.nb ++ (0 : BitVec 10))) (ox.map oxWord) = .ok (p.1 f ox)) ∧
  (∀ (k : Nat) (p : P1 → Option Ox → Instr) (f : P1) (ox : Option Ox) (pb : BitVec 3) (nb : Bool),
    [Instr.pmov, .voteAny, .voteAll, .voteUni][k]? = some p →
    let w := Claims.formed (0x64 + k)
      ((0 : BitVec 1) ++ f.pd ++ f.pa ++ pb ++ BitVec.ofBool f.na ++ BitVec.ofBool nb ++ (0 : BitVec 10))
    (pb = 0 → nb = false → plainOx ox = true → decode w (ox.map oxWord) = .ok (p f ox)) ∧
    (pb ≠ 0 ∨ nb = true → decode w none = .error .mustBeZero ∧ rejectCause .mustBeZero = 1))

namespace Sys2Proof.Claims

/-! ## Floating point: R53, R64 to R67, R92 to R103 -/

/-- The exact value of a finite operand; 0 stands for the others. -/
noncomputable def value : Fp → ℚ
  | .fin neg m e => (if neg then -1 else 1) * m * (2 : ℚ) ^ e
  | _ => 0

/-- A finite operand. -/
def Finite (x : Fp) : Prop := ∃ neg m e, x = .fin neg m e

/-- A delivered code is the exact value rounded in a mode (R64): the nearest value of the format, or the nearest on the
mode's side, and of two equally near ones the even code; NX says whether it differs. A result that overflows is left out. -/
def Delivered (f : FpFmt) (rm : Rm) (x : ℝ) (r : FRes) : Prop :=
  r.fl.getLsbD 2 = false →
  let y : ℝ := value (fpRead f r.bits)
  Finite (fpRead f r.bits) ∧ (r.fl.getLsbD 4 = true ↔ y ≠ x) ∧
  match rm with
  | .ne => (∀ b, Finite (fpRead f b) → |y - x| ≤ |(value (fpRead f b) : ℝ) - x|) ∧
    ∀ b, Finite (fpRead f b) → (value (fpRead f b) : ℝ) ≠ y → |y - x| = |(value (fpRead f b) : ℝ) - x| → r.bits % 2 = 0
  | .rz => |y| ≤ |x| ∧ ∀ b, Finite (fpRead f b) → |(value (fpRead f b) : ℝ)| ≤ |x| → |(value (fpRead f b) : ℝ)| ≤ |y|
  | .up => x ≤ y ∧ ∀ b, Finite (fpRead f b) → x ≤ (value (fpRead f b) : ℝ) → y ≤ (value (fpRead f b) : ℝ)
  | .dn => y ≤ x ∧ ∀ b, Finite (fpRead f b) → (value (fpRead f b) : ℝ) ≤ x → (value (fpRead f b) : ℝ) ≤ y

/-- An FP32 operand of a word, a subnormal read as zero under FTZ (R65). -/
def single (env : RndEnv) (w : Word) : Fp := fpOperand fp32 env.ftz w.toNat

/-- Half `i` of a word as an operand of a 16-bit format. -/
def half (fmt : FpFmt) (env : RndEnv) (w : Word) (i : Nat) : Fp := fpOperand fmt env.ftz (w.extractLsb' (16 * i) 16).toNat

/-- The results of two halves in one word, with the flags of both (R94). -/
def both (r : Nat → FRes) : FRes := ⟨(r 0).bits + 2 ^ 16 * (r 1).bits, (r 0).fl ||| (r 1).fl⟩

/-- R92, R94 and R97: the two-source operations that can raise conditions. -/
noncomputable def fpV3 : List ((V3 → Option Ox → Instr) × (RndEnv → Word → Word → FRes)) := [
  (.faddF32, fun e a b => addRes fp32 e (single e a) (single e b)),
  (.fsubF32, fun e a b => addRes fp32 e (single e a) (fpNeg (single e b))),
  (.fmulF32, fun e a b => mulRes fp32 e (single e a) (single e b)),
  (.fdivF32, fun e a b => divRes e (single e a) (single e b)),
  (.fatan2F32, fun e a b => atan2Res e a b),
  (.haddF16x2, fun e a b => both fun i => addRes fp16 e (half fp16 e a i) (half fp16 e b i)),
  (.hmulF16x2, fun e a b => both fun i => mulRes fp16 e (half fp16 e a i) (half fp16 e b i)),
  (.haddBf16x2, fun e a b => both fun i => addRes bf16 e (half bf16 e a i) (half bf16 e b i)),
  (.hmulBf16x2, fun e a b => both fun i => mulRes bf16 e (half bf16 e a i) (half bf16 e b i))]

/-- R93 and R95: the three-source operations. -/
noncomputable def fpV4 : List ((V3 → Ox → Instr) × (RndEnv → Word → Word → Word → FRes)) := [
  (.ffmaF32, fun e a b c => fmaRes fp32 e false (single e a) (single e b) (single e c)),
  (.ffmsF32, fun e a b c => fmaRes fp32 e false (single e a) (single e b) (fpNeg (single e c))),
  (.fnfmaF32, fun e a b c => fmaRes fp32 e true (single e a) (single e b) (single e c)),
  (.fnfmsF32, fun e a b c => fmaRes fp32 e true (single e a) (single e b) (fpNeg (single e c))),
  (.hfmaF16x2, fun e a b c => both fun i => fmaRes fp16 e false (half fp16 e a i) (half fp16 e b i) (half fp16 e c i)),
  (.hfmaBf16x2, fun e a b c => both fun i => fmaRes bf16 e false (half bf16 e a i) (half bf16 e b i) (half bf16 e c i)),
  (.hdot2F32F16x2, fun e a b c => dot2Res e (half fp16 e a 0) (half fp16 e b 0) (half fp16 e a 1) (half fp16 e b 1) (single e c)),
  (.hdot2F32Bf16x2, fun e a b c => dot2Res e (half bf16 e a 0) (half bf16 e b 0) (half bf16 e a 1) (half bf16 e b 1) (single e c))]

/-- R96 to R98: the one-source operations that can raise conditions. -/
noncomputable def fpV2 : List ((V2 → Option Ox → Instr) × (RndEnv → Word → FRes)) := [
  (.ffractF32, fun e a => fractRes e (single e a)),
  (.frcpF32, rcpRes), (.frsqF32, rsqRes), (.fsqrtF32, sqrtRes), (.fexp2F32, exp2Res), (.flog2F32, log2Res), (.fsinF32, sinRes),
  (.fcosF32, cosRes), (.ftanhF32, tanhRes),
  (.cvtF32I32, fun e a => fpDeliver fp32 e.rm e.ftz (fpOfInt a.toInt)),
  (.cvtF32N32, fun e a => fpDeliver fp32 e.rm e.ftz (fpOfInt a.toNat)),
  (.cvtF32F16, fun e a => fpDeliver fp32 e.rm e.ftz (half fp16 e a 0)),
  (.cvtF32Bf16, fun e a => fpDeliver fp32 e.rm e.ftz (half bf16 e a 0)),
  (.cvtI32F32, fun e a =>
    ⟨(BitVec.ofInt 32 (fpToInt e.rm (-2 ^ 31) (2 ^ 31 - 1) (single e a)).1).toNat, (fpToInt e.rm (-2 ^ 31) (2 ^ 31 - 1) (single e a)).2⟩),
  (.cvtN32F32, fun e a =>
    ⟨(BitVec.ofInt 32 (fpToInt e.rm 0 (2 ^ 32 - 1) (single e a)).1).toNat, (fpToInt e.rm 0 (2 ^ 32 - 1) (single e a)).2⟩)]

/-- R92 and R94: the two-source operations on codes, which raise nothing. -/
noncomputable def codeV3 : List ((V3 → Option Ox → Instr) × (RndEnv → Word → Word → Word)) := [
  (.fminF32, fun e a b => BitVec.ofNat 32 (minMaxRes fp32 e false a.toNat b.toNat)),
  (.fmaxF32, fun e a b => BitVec.ofNat 32 (minMaxRes fp32 e true a.toNat b.toNat)),
  (.fsgnF32, fun _ a b => (b.extractLsb' 31 1 ++ a.extractLsb' 0 31 : BitVec 32)),
  (.hminF16x2, fun e a b => BitVec.ofNat 32 (minMaxRes fp16 e false (a.toNat % 2 ^ 16) (b.toNat % 2 ^ 16) +
    2 ^ 16 * minMaxRes fp16 e false (a.toNat / 2 ^ 16) (b.toNat / 2 ^ 16))),
  (.hmaxF16x2, fun e a b => BitVec.ofNat 32 (minMaxRes fp16 e true (a.toNat % 2 ^ 16) (b.toNat % 2 ^ 16) +
    2 ^ 16 * minMaxRes fp16 e true (a.toNat / 2 ^ 16) (b.toNat / 2 ^ 16))),
  (.hminBf16x2, fun e a b => BitVec.ofNat 32 (minMaxRes bf16 e false (a.toNat % 2 ^ 16) (b.toNat % 2 ^ 16) +
    2 ^ 16 * minMaxRes bf16 e false (a.toNat / 2 ^ 16) (b.toNat / 2 ^ 16))),
  (.hmaxBf16x2, fun e a b => BitVec.ofNat 32 (minMaxRes bf16 e true (a.toNat % 2 ^ 16) (b.toNat % 2 ^ 16) +
    2 ^ 16 * minMaxRes bf16 e true (a.toNat / 2 ^ 16) (b.toNat / 2 ^ 16)))]

/-- R92 and R96: the one-source operations on codes. -/
noncomputable def codeV2 : List ((V2 → Option Ox → Instr) × (RndEnv → Word → Word)) := [
  (.fabsF32, fun _ a => (0#1 ++ a.extractLsb' 0 31 : BitVec 32)),
  (.fnegF32, fun _ a => (~~~a.extractLsb' 31 1 ++ a.extractLsb' 0 31 : BitVec 32)),
  (.frndF32, fun e a => integralBits (fun x => x.rm) e a),
  (.ffloorF32, fun e a => integralBits (fun _ => .dn) e a),
  (.fceilF32, fun e a => integralBits (fun _ => .up) e a),
  (.ftruncF32, fun e a => integralBits (fun _ => .rz) e a),
  (.fclassF32, fun _ a => classMask a)]

/-- The lowest enabled condition that an active lane has raised is the one of bit `k` (R77). -/
def LowestRaised (g : Group) (act : Mask) (fl : Nat → Flags) (k : Nat) : Prop :=
  k < 5 ∧ (∃ l, On act l ∧ (enabledTraps g.fpctl &&& fl l).getLsbD k = true) ∧
  ∀ j, j < k → ∀ l, On act l → (enabledTraps g.fpctl &&& fl l).getLsbD j = false

/-- The lanes that fault with an enabled condition (R77). -/
def faulting (g : Group) (act : Mask) (fl : Nat → Flags) : Mask := among act fun l => fpFaults (enabledTraps g.fpctl) (fl l)

/-- The device after a result of one word of which lanes fault (R77): the others deliver, every lane's conditions reach FFLAGS,
and the word traps with the lowest enabled cause, the faulting lanes, and D whatever NW says. -/
def fpTrapped (s : State) (g : Group) (c : Clause) (act : Mask) (nw : Bool) (d : BitVec 7) (res : Nat → FRes) (k : Nat) : State :=
  let bad := faulting g act fun l => (res l).fl
  trapped s (written (setFlags g act fun l => (res l).fl) (act &&& ~~~bad) nw d fun l => BitVec.ofNat 32 (res l).bits)
    c (0x10 + k) bad d.toNat 0 []

/-- The truth of a comparison of two values (R86): −0 equals +0; with a NaN only ne and unord hold. -/
def Compares (cond : Nat) (x y : Fp) (truth : Bool) : Prop :=
  ((x.isNan || y.isNan) = true → truth = (cond == 1 || cond == 7)) ∧
  ((x.isNan || y.isNan) = false → cond = 6 → truth = true) ∧
  ((x.isNan || y.isNan) = false → cond = 7 → truth = false) ∧
  (Finite x → Finite y → cond < 6 → truth = holds cond (decide (value x < value y)) (decide (value x = value y))) ∧
  (∀ n, x = .inf n → Finite y → cond < 6 → truth = holds cond n false) ∧
  (∀ n, y = .inf n → Finite x → cond < 6 → truth = holds cond (!n) false) ∧
  (∀ n k, x = .inf n → y = .inf k → cond < 6 → truth = holds cond (n && !k) (n == k))

/-- The conditions of a comparison: NV for one of the four orderings with a NaN (R86). -/
def comparisonFlags (cond : Nat) (x y : Fp) : Flags := if (x.isNan || y.isNan) ∧ 2 ≤ cond ∧ cond ≤ 5 then flNV else 0

end Sys2Proof.Claims

/-- R92 to R98: floating-point results of one word, with the conditions of each active lane in FFLAGS, where no enabled
trap is raised. -/
def Claims.FloatingPointResults : Prop :=
  (∀ p ∈ Claims.fpV3, ∀ (f : V3) (ox : Option Ox) (s : State) (g : Group) (c : Clause),
    LaneOp s g c ox [f.a, f.b] f.nw f.d →
    let res := fun l => p.2 (rndEnv g.fpctl) (readV g f.a l) (readV g f.b l)
    Quiet g (activeMask g c ox) res →
    exec (p.1 f ox) s = .next (after s (fpWritten g (activeMask g c ox) f.nw f.d res) c)) ∧
  (∀ p ∈ Claims.fpV4, ∀ (f : V3) (ox : Ox) (s : State) (g : Group) (c : Clause),
    LaneOp s g c (some ox) [f.a, f.b, ox.c] f.nw f.d →
    let res := fun l => p.2 (rndEnv g.fpctl) (readV g f.a l) (readV g f.b l) (readV g ox.c l)
    Quiet g (activeMask g c (some ox)) res →
    exec (p.1 f ox) s = .next (after s (fpWritten g (activeMask g c (some ox)) f.nw f.d res) c)) ∧
  (∀ p ∈ Claims.fpV2, ∀ (f : V2) (ox : Option Ox) (s : State) (g : Group) (c : Clause),
    LaneOp s g c ox [f.a] f.nw f.d →
    let res := fun l => p.2 (rndEnv g.fpctl) (readV g f.a l)
    Quiet g (activeMask g c ox) res →
    exec (p.1 f ox) s = .next (after s (fpWritten g (activeMask g c ox) f.nw f.d res) c))

/-- R85: FP32 with a 32-bit immediate, or with a scalar's low word, as the B operand. -/
def Claims.FloatingPointScalarOperands : Prop :=
  (∀ p ∈ ([(.faddF32Vi, addRes fp32), (.fmulF32Vi, mulRes fp32)] : List ((VI → Instr) × (RndEnv → Fp → Fp → FRes))),
    ∀ (f : VI) (s : State) (g : Group) (c : Clause), LaneOp s g c none [f.a] f.nw f.d →
    let e := rndEnv g.fpctl
    let res := fun l => p.2 e (Claims.single e (readV g f.a l)) (Claims.single e f.imm)
    Quiet g (execMask g c) res →
    exec (p.1 f) s = .next (after s (fpWritten g (execMask g c) f.nw f.d res) c)) ∧
  (∀ p ∈ ([(.faddF32Vs, addRes fp32), (.fmulF32Vs, mulRes fp32)] : List ((VX → Option Ox → Instr) × (RndEnv → Fp → Fp → FRes))),
    ∀ (f : VX) (ox : Option Ox) (s : State) (g : Group) (c : Clause), LaneOp s g c ox [f.a] f.nw f.d → ScalarSound g false f.sb →
    let e := rndEnv g.fpctl
    let res := fun l => p.2 e (Claims.single e (readV g f.a l)) (Claims.single e ((sReg g f.sb.toNat).truncate 32))
    Quiet g (activeMask g c ox) res →
    exec (p.1 f ox) s = .next (after s (fpWritten g (activeMask g c ox) f.nw f.d res) c)) ∧
  (∀ p ∈ ([(.fminF32Vs, false), (.fmaxF32Vs, true)] : List ((VX → Option Ox → Instr) × Bool)),
    ∀ (f : VX) (ox : Option Ox) (s : State) (g : Group) (c : Clause), LaneOp s g c ox [f.a] f.nw f.d → ScalarSound g false f.sb →
    exec (p.1 f ox) s = .next (after s (written g (activeMask g c ox) f.nw f.d fun l =>
      BitVec.ofNat 32 (minMaxRes fp32 (rndEnv g.fpctl) p.2 (readV g f.a l).toNat ((sReg g f.sb.toNat).toNat % 2 ^ 32))) c))

/-- R92, R94 and R96: minimum and maximum, the sign operations, the roundings to integral values and the class write a
code and leave FFLAGS as it was. -/
def Claims.FloatingPointCodes : Prop :=
  (∀ p ∈ Claims.codeV3, ∀ (f : V3) (ox : Option Ox) (s : State) (g : Group) (c : Clause),
    LaneOp s g c ox [f.a, f.b] f.nw f.d →
    exec (p.1 f ox) s = .next (after s (written g (activeMask g c ox) f.nw f.d fun l =>
      p.2 (rndEnv g.fpctl) (readV g f.a l) (readV g f.b l)) c)) ∧
  (∀ p ∈ Claims.codeV2, ∀ (f : V2) (ox : Option Ox) (s : State) (g : Group) (c : Clause),
    LaneOp s g c ox [f.a] f.nw f.d →
    exec (p.1 f ox) s = .next (after s (written g (activeMask g c ox) f.nw f.d fun l =>
      p.2 (rndEnv g.fpctl) (readV g f.a l)) c))

/-- R86: cmp.f32 decides by the values, −0 equal to +0; with a NaN only ne and unord hold, and the four orderings raise
NV. -/
def Claims.FloatingPointComparison : Prop :=
  ∀ (f : PC) (ox : Option Ox) (s : State) (g : Group) (c : Clause), LaneOp s g c ox [f.a, f.b] true 0 →
    let e := rndEnv g.fpctl
    let act := activeMask g c ox
    let x := fun l => Claims.single e (readV g f.a l)
    let y := fun l => Claims.single e (readV g f.b l)
    let fl : Nat → Flags := fun l => Claims.comparisonFlags f.cond.toNat (x l) (y l)
    (∀ l, On act l → fpFaults (enabledTraps g.fpctl) (fl l) = false) →
    ∃ truth : Nat → Bool,
      exec (.cmpF32 f ox) s = .next (after s (Claims.decided (setFlags g act fl) act f.pd truth) c) ∧
      ∀ l, On act l → Claims.Compares f.cond.toNat (x l) (y l) (truth l)

/-- R77, R86: cmp.f32 whose NV trap is enabled and raised: the lanes that do not fault deliver their bits, and the word traps
with cause 0x10, the faulting lanes, and no register. -/
def Claims.ComparisonTraps : Prop :=
  ∀ (f : PC) (ox : Option Ox) (s : State) (g : Group) (c : Clause), LaneOp s g c ox [f.a, f.b] true 0 →
    let e := rndEnv g.fpctl
    let act := activeMask g c ox
    let x := fun l => Claims.single e (readV g f.a l)
    let y := fun l => Claims.single e (readV g f.b l)
    let fl : Nat → Flags := fun l => Claims.comparisonFlags f.cond.toNat (x l) (y l)
    let bad := Claims.faulting g act fl
    Claims.LowestRaised g act fl 0 →
    ∃ truth : Nat → Bool,
      exec (.cmpF32 f ox) s = .next (trapped s (Claims.decided (setFlags g act fl) (act &&& ~~~bad) f.pd truth) c 0x10 bad 0xFF 0 []) ∧
      ∀ l, On (act &&& ~~~bad) l → Claims.Compares f.cond.toNat (x l) (y l) (truth l)

/-- R77 for the results of one word, whatever their operands: two sources, three, one, or one beside an immediate or a
scalar. -/
def Claims.ResultTraps : Prop :=
  (∀ p ∈ Claims.fpV3, ∀ (f : V3) (ox : Option Ox) (s : State) (g : Group) (c : Clause), LaneOp s g c ox [f.a, f.b] f.nw f.d →
    let res := fun l => p.2 (rndEnv g.fpctl) (readV g f.a l) (readV g f.b l)
    ∀ k, Claims.LowestRaised g (activeMask g c ox) (fun l => (res l).fl) k →
    exec (p.1 f ox) s = .next (Claims.fpTrapped s g c (activeMask g c ox) f.nw f.d res k)) ∧
  (∀ p ∈ Claims.fpV4, ∀ (f : V3) (ox : Ox) (s : State) (g : Group) (c : Clause),
    LaneOp s g c (some ox) [f.a, f.b, ox.c] f.nw f.d →
    let res := fun l => p.2 (rndEnv g.fpctl) (readV g f.a l) (readV g f.b l) (readV g ox.c l)
    ∀ k, Claims.LowestRaised g (activeMask g c (some ox)) (fun l => (res l).fl) k →
    exec (p.1 f ox) s = .next (Claims.fpTrapped s g c (activeMask g c (some ox)) f.nw f.d res k)) ∧
  (∀ p ∈ Claims.fpV2, ∀ (f : V2) (ox : Option Ox) (s : State) (g : Group) (c : Clause), LaneOp s g c ox [f.a] f.nw f.d →
    let res := fun l => p.2 (rndEnv g.fpctl) (readV g f.a l)
    ∀ k, Claims.LowestRaised g (activeMask g c ox) (fun l => (res l).fl) k →
    exec (p.1 f ox) s = .next (Claims.fpTrapped s g c (activeMask g c ox) f.nw f.d res k)) ∧
  (∀ p ∈ ([(.faddF32Vi, addRes fp32), (.fmulF32Vi, mulRes fp32)] : List ((VI → Instr) × (RndEnv → Fp → Fp → FRes))),
    ∀ (f : VI) (s : State) (g : Group) (c : Clause), LaneOp s g c none [f.a] f.nw f.d →
    let e := rndEnv g.fpctl
    let res := fun l => p.2 e (Claims.single e (readV g f.a l)) (Claims.single e f.imm)
    ∀ k, Claims.LowestRaised g (execMask g c) (fun l => (res l).fl) k →
    exec (p.1 f) s = .next (Claims.fpTrapped s g c (execMask g c) f.nw f.d res k)) ∧
  (∀ p ∈ ([(.faddF32Vs, addRes fp32), (.fmulF32Vs, mulRes fp32)] : List ((VX → Option Ox → Instr) × (RndEnv → Fp → Fp → FRes))),
    ∀ (f : VX) (ox : Option Ox) (s : State) (g : Group) (c : Clause), LaneOp s g c ox [f.a] f.nw f.d → ScalarSound g false f.sb →
    let e := rndEnv g.fpctl
    let res := fun l => p.2 e (Claims.single e (readV g f.a l)) (Claims.single e ((sReg g f.sb.toNat).truncate 32))
    ∀ k, Claims.LowestRaised g (activeMask g c ox) (fun l => (res l).fl) k →
    exec (p.1 f ox) s = .next (Claims.fpTrapped s g c (activeMask g c ox) f.nw f.d res k))

/-- R92 and R93: sums and products are exact before they are rounded, whatever the operands. -/
def Claims.ExactSumsAndProducts : Prop :=
  (∀ (rm : Rm) (a b : Fp), Claims.Finite a → Claims.Finite b →
    Claims.Finite (fpAdd rm a b) ∧ Claims.value (fpAdd rm a b) = Claims.value a + Claims.value b) ∧
  (∀ a b : Fp, Claims.Finite a → Claims.Finite b →
    Claims.Finite (fpMul a b) ∧ Claims.value (fpMul a b) = Claims.value a * Claims.value b) ∧
  (∀ a : Fp, Claims.value (fpNeg a) = -Claims.value a)

namespace Sys2Proof.Claims

/-- The largest finite value of a format, and the distance to the finite value below it. -/
noncomputable def largest (f : FpFmt) : ℝ := value (fpRead f f.maxMag)
noncomputable def topGap (f : FpFmt) : ℝ := largest f - value (fpRead f (f.maxMag - 1))

/-- The rounded value exceeds the largest finite one, its exponent not bounded (R65). -/
def Exceeds (f : FpFmt) (rm : Rm) (x : ℝ) : Prop := match rm with
  | .ne => largest f + topGap f / 2 ≤ |x|
  | .rz => largest f + topGap f ≤ |x|
  | .up => largest f < x ∨ x ≤ -(largest f + topGap f)
  | .dn => x < -largest f ∨ largest f + topGap f ≤ x

/-- Whether a result beyond the largest finite value is an infinity, by its sign (R64). -/
def toInfinity (rm : Rm) (neg : Bool) : Bool := match rm with
  | .ne => true
  | .rz => false
  | .up => !neg
  | .dn => neg

/-- A code with a sign. -/
def signedCode (f : FpFmt) (neg : Bool) (mag : Nat) : Nat := mag + if neg then 2 ^ (f.width - 1) else 0

end Sys2Proof.Claims

/-- R64 and R65: a result overflows where the rounded value exceeds the largest finite one, and is then an infinity or the
largest finite value by the mode and the sign, with OF and NX. -/
def Claims.OverflowIsAsTabled : Prop :=
  ∀ p ∈ [(fp32, 0x7F800000), (fp16, 0x7C00), (bf16, 0x7F80), (e5m2, 0x7C)], ∀ (rm : Rm) (neg : Bool) (m : Nat) (e : Int), m ≠ 0 →
    let r := fpRound p.1 rm false neg m e false
    (r.fl.getLsbD 2 = true ↔ Claims.Exceeds p.1 rm (Claims.value (.fin neg m e))) ∧
    (r.fl.getLsbD 2 = true →
      r = ⟨Claims.signedCode p.1 neg (if Claims.toInfinity rm neg then p.2 else p.1.maxMag), flOF ||| flNX⟩)

/-- R64 and R65: a value that does not overflow is delivered as the nearest value of the format, or as the nearest one on
the side that the mode names, and NX says whether it differs. -/
def Claims.RoundingIsCorrect : Prop :=
  ∀ f ∈ [fp32, fp16, bf16, e4m3, e5m2, e3m2, e2m3, e2m1], ∀ (rm : Rm) (neg : Bool) (m : Nat) (e : Int), m ≠ 0 →
    Claims.Delivered f rm (Claims.value (.fin neg m e)) (fpRound f rm false neg m e false)

/-- R97: fdiv.f32 delivers the exact quotient rounded under RM, and fsqrt.f32 the exact root. -/
def Claims.DivisionAndRootAreCorrect : Prop :=
  (∀ (env : RndEnv) (n k : Bool) (m o : Nat) (e h : Int), env.ftz = false → m ≠ 0 → o ≠ 0 →
    Claims.Delivered fp32 env.rm (Claims.value (.fin n m e) / Claims.value (.fin k o h)) (divRes env (.fin n m e) (.fin k o h))) ∧
  (∀ (env : RndEnv) (w : Word) (m : Nat) (e : Int), env.ftz = false → m ≠ 0 → fpRead fp32 w.toNat = .fin false m e →
    Claims.Delivered fp32 env.rm (Real.sqrt (Claims.value (.fin false m e))) (sqrtRes env w))

namespace Sys2Proof.Claims

/-- A word is the FP32 number ±2^k. -/
def Power (w : Word) (neg : Bool) (k : Int) : Prop :=
  Finite (fpRead fp32 w.toNat) ∧ value (fpRead fp32 w.toNat) = (if neg then -1 else 1) * (2 : ℚ) ^ k

/-- A result is exact: a word that a property describes, with no condition. -/
def Exactly (r : FRes) (p : Word → Prop) : Prop := ∃ w : Word, p w ∧ r = ⟨w.toNat, 0⟩

/-- A word that FTZ leaves as it is: normal, or read without FTZ. -/
def Kept (e : RndEnv) (w : Word) : Prop := e.ftz = false ∨ 0x800000 ≤ w.toNat % 2 ^ 31

end Sys2Proof.Claims

/-- R97: the exact cases of the functions of powers of two, of fexp2 at integers and beyond its range, and of ftanh from 9 on;
negative operands of the roots and of the logarithm. -/
def Claims.ExactPowers : Prop :=
  ∀ (e : RndEnv) (w : Word), Claims.Kept e w →
    (∀ (neg : Bool) (k : Int), Claims.Power w neg k → -127 ≤ k → (e.ftz = false ∨ k ≤ 126) →
      Claims.Exactly (rcpRes e w) fun r => Claims.Power r neg (-k)) ∧
    (∀ k : Int, Claims.Power w false (2 * k) → Claims.Exactly (rsqRes e w) fun r => Claims.Power r false (-k)) ∧
    (∀ k : Int, Claims.Power w false k →
      Claims.Exactly (log2Res e w) fun r => Claims.Finite (fpRead fp32 r.toNat) ∧ Claims.value (fpRead fp32 r.toNat) = k) ∧
    (∀ n : Int, Claims.Finite (fpRead fp32 w.toNat) → Claims.value (fpRead fp32 w.toNat) = n → n ≠ 0 → -149 ≤ n → n ≤ 127 →
      (e.ftz = false ∨ -126 ≤ n) → Claims.Exactly (exp2Res e w) fun r => Claims.Power r false n) ∧
    (Claims.Finite (fpRead fp32 w.toNat) → 128 ≤ Claims.value (fpRead fp32 w.toNat) → exp2Res e w = ⟨0x7F800000, flOF ||| flNX⟩) ∧
    (Claims.Finite (fpRead fp32 w.toNat) → 9 ≤ |Claims.value (fpRead fp32 w.toNat)| →
      tanhRes e w = ⟨if w.msb then 0xBF800000 else 0x3F800000, flNX⟩) ∧
    (Claims.Finite (fpRead fp32 w.toNat) → Claims.value (fpRead fp32 w.toNat) < 0 →
      rsqRes e w = ⟨0x7FC00000, flNV⟩ ∧ sqrtRes e w = ⟨0x7FC00000, flNV⟩ ∧ log2Res e w = ⟨0x7FC00000, flNV⟩)

/-- R97: the cases of fatan2.f32 that the table lists, as zeros without a condition or as rounded multiples of π with NX alone
and the sign of the ordinate. -/
def Claims.AnglesOfSpecialPoints : Prop :=
  ∀ (e : RndEnv) (a b : Word),
    let y := Claims.single e a
    let x := Claims.single e b
    let code := fun (neg : Bool) (mag : Nat) => mag + if neg then 2 ^ 31 else 0
    (y = .nan ∨ x = .nan → atan2Res e a b = ⟨0x7FC00000, 0⟩) ∧
    (∀ n h, y = .fin n 0 h →
      ((∃ m k, x = .fin false m k) ∨ x = .inf false → atan2Res e a b = ⟨code n 0, 0⟩) ∧
      ((∃ m k, x = .fin true m k) ∨ x = .inf true → atan2Res e a b = ⟨code n 0x40490FDB, flNX⟩)) ∧
    (∀ n m h, y = .fin n m h → m ≠ 0 →
      (x = .inf false → atan2Res e a b = ⟨code n 0, 0⟩) ∧
      (x = .inf true → atan2Res e a b = ⟨code n 0x40490FDB, flNX⟩) ∧
      (∀ j k, x = .fin j 0 k → atan2Res e a b = ⟨code n 0x3FC90FDB, flNX⟩)) ∧
    (∀ n, y = .inf n →
      (Claims.Finite x → atan2Res e a b = ⟨code n 0x3FC90FDB, flNX⟩) ∧
      (x = .inf false → atan2Res e a b = ⟨code n 0x3F490FDB, flNX⟩) ∧
      (x = .inf true → atan2Res e a b = ⟨code n 0x4016CBE4, flNX⟩))

/-- R97: the cases at zero, infinity and NaN, and at small powers of two, with the conditions that they raise. -/
def Claims.ExactAtSpecialValues : Prop :=
  ∀ (e : RndEnv) (neg : Bool),
    let zero : Word := if neg then 0x80000000 else 0
    let infinity : Word := if neg then 0xFF800000 else 0x7F800000
    let zeroCode := if neg then 0x80000000 else 0
    let infCode := if neg then 0xFF800000 else 0x7F800000
    let oneCode := if neg then 0xBF800000 else 0x3F800000
    rcpRes e zero = ⟨infCode, flDZ⟩ ∧ rcpRes e infinity = ⟨zeroCode, 0⟩ ∧
    rsqRes e zero = ⟨infCode, flDZ⟩ ∧ rsqRes e 0xFF800000 = ⟨0x7FC00000, flNV⟩ ∧ rsqRes e 0x7F800000 = ⟨0, 0⟩ ∧
    sqrtRes e zero = ⟨zeroCode, 0⟩ ∧ sqrtRes e 0xFF800000 = ⟨0x7FC00000, flNV⟩ ∧ sqrtRes e 0x7F800000 = ⟨0x7F800000, 0⟩ ∧
    exp2Res e 0xFF800000 = ⟨0, 0⟩ ∧ exp2Res e 0x7F800000 = ⟨0x7F800000, 0⟩ ∧ exp2Res e zero = ⟨0x3F800000, 0⟩ ∧
    log2Res e zero = ⟨0xFF800000, flDZ⟩ ∧ log2Res e 0x7F800000 = ⟨0x7F800000, 0⟩ ∧ log2Res e 0x3F800000 = ⟨0, 0⟩ ∧
    sinRes e zero = ⟨zeroCode, 0⟩ ∧ sinRes e infinity = ⟨0x7FC00000, flNV⟩ ∧
    cosRes e zero = ⟨0x3F800000, 0⟩ ∧ cosRes e infinity = ⟨0x7FC00000, flNV⟩ ∧
    tanhRes e zero = ⟨zeroCode, 0⟩ ∧ tanhRes e infinity = ⟨oneCode, 0⟩ ∧
    (∀ w : Word, fpRead fp32 w.toNat = .nan → ∀ op ∈ [rcpRes, rsqRes, sqrtRes, exp2Res, log2Res, sinRes, cosRes, tanhRes],
      op e w = ⟨0x7FC00000, 0⟩) ∧
    (∀ k : Nat, k < 127 → rcpRes e (BitVec.ofNat 32 ((127 + k) * 2 ^ 23)) = ⟨(127 - k) * 2 ^ 23, 0⟩) ∧
    (∀ k : Nat, k ≤ 126 → exp2Res e (BitVec.ofNat 32 (fpDeliver fp32 .ne false (fpOfInt k)).bits) = ⟨(127 + k) * 2 ^ 23, 0⟩)

/-- R53, R55 and R65: every code of a format that is a number is delivered as itself, with no condition; NaN is delivered
as the canonical one. -/
def Claims.CodesRoundTrip : Prop :=
  ∀ f ∈ [fp32, fp16, bf16], ∀ (rm : Rm) (b : Nat), b < 2 ^ f.width →
    fpDeliver f rm false (fpRead f b) = if fpRead f b = .nan then ⟨f.nan.getD 0, 0⟩ else ⟨b, 0⟩

namespace Sys2Proof.Claims

/-- The group after a floating-point result of `m` registers: FFLAGS and, where a lane advanced it, SRSEED of each active
lane, the run of destinations, and the latches with the first value (R45, R46, R68, R77). -/
def runWritten (g : Group) (act : Mask) (nw : Bool) (d : BitVec 7) (m : Nat) (out : Nat → LaneOut) : Group :=
  let g1 := setFlags g act fun l => (out l).fl
  let g2 := setSeeds g1 (among act fun l => (out l).seed.isSome) fun l => (out l).seed.getD 0
  shiftLatches (if nw then g2 else (List.range m).foldl (fun g i => setV g (d.toNat + i) act fun l => (out l).val i) g2) act
    fun l => (out l).val 0

/-- The device after a result of `m` registers of which lanes fault (R68, R77): the others deliver and advance SRSEED. -/
def runTrapped (s : State) (g : Group) (c : Clause) (act : Mask) (nw : Bool) (d : BitVec 7) (m : Nat) (out : Nat → LaneOut)
    (k : Nat) : State :=
  let bad := faulting g act fun l => (out l).fl
  let good := act &&& ~~~bad
  let g1 := setFlags g act fun l => (out l).fl
  let g2 := setSeeds g1 (among good fun l => (out l).seed.isSome) fun l => (out l).seed.getD 0
  trapped s (shiftLatches (if nw then g2 else (List.range m).foldl (fun g i => setV g (d.toNat + i) good fun l => (out l).val i) g2)
    good fun l => (out l).val 0) c (0x10 + k) bad d.toNat 0 []

/-- One word with its conditions and, under SRN, the generator after it (R68). -/
def oneWord (e : RndEnv) (r : FRes × Word) : LaneOut := ⟨[BitVec.ofNat 32 r.1.bits], r.1.fl, if e.srn then some r.2 else none, none, 0⟩

/-- One value converted to a 16-bit format in D[15:0] (R98). -/
def convertOne (fmt : FpFmt) (e : RndEnv) (a seed : Word) : FRes × Word := fpConvert fmt e (single e a) seed

/-- Two values converted to halves, A first (R99). -/
def convertTwo (fmt : FpFmt) (e : RndEnv) (a b seed : Word) : FRes × Word :=
  let x := fpConvert fmt e (single e a) seed
  let y := fpConvert fmt e (single e b) x.2
  (⟨x.1.bits + 2 ^ 16 * y.1.bits, x.1.fl ||| y.1.fl⟩, y.2)

/-- The exact product of a source with the multiplier, with NV for 0 × Inf (R100). -/
def product (e : RndEnv) (x s : Word) : Fp × Flags :=
  (fpMul (single e x) (single e s), if mulInvalid (single e x) (single e s) then flNV else 0)

/-- Elements of a floating-point format packed from bit 0 up, drawn in element order (R57, R68, R100). -/
def packed (fmt : FpFmt) (e : RndEnv) (xs : List (Fp × Flags)) (seed : Word) : LaneOut :=
  oneWord e (convertAll fmt e fmt.width xs 0 seed)

/-- Integer elements of `w` bits held within their range, NV beyond it (R66, R100). -/
def packedInts (w : Nat) (e : RndEnv) (xs : List (Fp × Flags)) : LaneOut :=
  let rs := xs.map fun p => (fpToInt e.rm (-2 ^ (w - 1)) (2 ^ (w - 1) - 1) p.1, p.2)
  ⟨[BitVec.ofNat 32 (packInts w (rs.map fun r => r.1.1) 0)], allFlags (rs.map fun r => r.2 ||| r.1.2), none, none, 0⟩

/-- R102: t rounded to an integer, q = t + z held within the codes with NV and NX beyond them. -/
def quantised (w : Nat) (e : RndEnv) (z : Int) (xs : List (Fp × Flags)) : LaneOut :=
  let lo : Int := -2 ^ (w - 1)
  let hi : Int := 2 ^ (w - 1) - 1
  let rs := xs.map fun p =>
    let t := fpToInt e.rm (-2 ^ 31) (2 ^ 31 - 1) p.1
    let q := t.1 + z
    (if q < lo then lo else if hi < q then hi else q, p.2 ||| t.2 ||| if q < lo ∨ hi < q then flNV ||| flNX else 0)
  ⟨[BitVec.ofNat 32 (packInts w (rs.map Prod.fst) 0)], allFlags (rs.map Prod.snd), none, none, 0⟩

/-- The zero point in C (R102). -/
def zero8 (c : Word) : Int := (c.extractLsb' 0 8).toInt
def zero4 (c : Word) : Int := ((c.extractLsb' 0 4).toNat : Int) - 8

/-- R100: each form with its run and what it makes of the products. -/
noncomputable def packs : List ((V3 → Option Ox → Instr) × Nat × (RndEnv → List (Fp × Flags) → Word → LaneOut)) := [
  (.pkE4m3, 4, packed e4m3), (.pkE5m2, 4, packed e5m2), (.pkE3m2, 4, packed e3m2), (.pkE2m3, 4, packed e2m3),
  (.pkE2m1, 8, packed e2m1), (.pkI8, 4, fun e xs _ => packedInts 8 e xs), (.pkI4, 8, fun e xs _ => packedInts 4 e xs)]

/-- R102: each form with its run, its width and its zero point. -/
noncomputable def quantisers : List ((V3 → Ox → Instr) × Nat × Nat × (Word → Int)) := [
  (.pkqN8, 4, 8, zero8), (.pkqN4, 8, 4, zero4)]

/-- Some results as the values of a run. -/
def values (rs : List FRes) : LaneOut := ⟨rs.map fun r => BitVec.ofNat 32 r.bits, allFlags (rs.map FRes.fl), none, none, 0⟩

/-- Element `i` of `w` bits of a word. -/
def element (w : Nat) (a : Word) (i : Nat) : BitVec w := a.extractLsb' (w * i) w

/-- R101 and R103: each form with its run and its values from A and B. -/
noncomputable def unpacks : List ((V3 → Option Ox → Instr) × Nat × (RndEnv → Word → Word → Nat → FRes)) := [
  (.upkE4m3, 4, fun e a b i => mulRes fp32 e (fpRead e4m3 (element 8 a i).toNat) (single e b)),
  (.upkE5m2, 4, fun e a b i => mulRes fp32 e (fpRead e5m2 (element 8 a i).toNat) (single e b)),
  (.upkE3m2, 4, fun e a b i => mulRes fp32 e (fpRead e3m2 (element 6 a i).toNat) (single e b)),
  (.upkE2m3, 4, fun e a b i => mulRes fp32 e (fpRead e2m3 (element 6 a i).toNat) (single e b)),
  (.upkE2m1, 8, fun e a b i => mulRes fp32 e (fpRead e2m1 (element 4 a i).toNat) (single e b)),
  (.upkI8, 4, fun e a b i => mulRes fp32 e (fpOfInt (element 8 a i).toInt) (single e b)),
  (.upkI4, 8, fun e a b i => mulRes fp32 e (fpOfInt (element 4 a i).toInt) (single e b)),
  (.upkN8, 4, fun e a b i => mulRes fp32 e (fpOfInt ((element 8 a i).toInt - (element 8 b 2).toInt)) (fpRead fp16 (b.toNat % 2 ^ 16))),
  (.upkN4, 8, fun e a b i => mulRes fp32 e (fpOfInt ((element 4 a i).toInt - (((element 8 b 2).toNat % 16 : Int) - 8)))
    (fpRead fp16 (b.toNat % 2 ^ 16)))]

/-! ## Scalars: R36, R104, R105 -/

/-- The forms of S3 that compute a value, with their result at each width. -/
noncomputable def scalarS3 : List ((S3 → Instr) × (∀ w : Nat, BitVec w → BitVec w → BitVec w)) := [
  (.saddIw, fun _ a b => a + b),
  (.ssubIw, fun _ a b => a - b),
  (.smulIw, fun _ a b => a * b),
  (.sandBw, fun _ a b => a &&& b),
  (.sorBw, fun _ a b => a ||| b),
  (.sxorBw, fun _ a b => a ^^^ b),
  (.sminIw, fun _ a b => if a.toInt ≤ b.toInt then a else b),
  (.smaxIw, fun _ a b => if a.toInt ≤ b.toInt then b else a),
  (.sminNw, fun _ a b => if a.toNat ≤ b.toNat then a else b),
  (.smaxNw, fun _ a b => if a.toNat ≤ b.toNat then b else a)]

/-- The shifts, with their result for a count. -/
noncomputable def scalarShifts : List ((S3 → Instr) × (∀ w : Nat, BitVec w → Nat → BitVec w)) := [
  (.sshlBw, fun w a n => if n < w then a <<< n else 0),
  (.sshrNw, fun w a n => if n < w then a >>> n else 0),
  (.sshrIw, fun w a n => if n < w then a.sshiftRight n else if a.msb then BitVec.allOnes w else 0)]

/-- The compares. -/
noncomputable def scalarCompares : List ((S3 → Instr) × (∀ w : Nat, BitVec w → BitVec w → Bool)) := [
  (.sseqBw, fun _ a b => decide (a = b)),
  (.ssltIw, fun _ a b => decide (a.toInt < b.toInt)),
  (.ssltNw, fun _ a b => decide (a.toNat < b.toNat))]

/-- The forms of SI. -/
noncomputable def scalarSI : List ((SI → Instr) × (∀ w : Nat, BitVec w → BitVec w → BitVec w)) := [
  (.saddIwSi, fun _ a b => a + b),
  (.sandBwSi, fun _ a b => a &&& b),
  (.sorBwSi, fun _ a b => a ||| b),
  (.sxorBwSi, fun _ a b => a ^^^ b),
  (.smulIwSi, fun _ a b => a * b)]

/-- The B operand of S3 at a width: a scalar, or the immediate sign-extended (R104). -/
def operandS3 (w : Nat) (g : Group) (f : S3) : BitVec w := if f.si then f.k.signExtend w else (sReg g f.k.toNat).truncate w

/-- The count of a shift: B[7:0], or the immediate as unsigned (R104). -/
def countS3 (g : Group) (f : S3) : Nat := if f.si then f.k.toNat else (sReg g f.k.toNat).toNat % 256

/-- A 32-bit result is zero-extended (R104). -/
def atWidth (wide : Bool) (r32 : Word) (r64 : DWord) : DWord := if wide then r64 else r32.zeroExtend 64

/-- The scalars that S3 reads hold no poison (R126). -/
def SoundS3 (g : Group) (f : S3) : Prop :=
  tget g.sPoison f.a.toNat false = false ∧ (f.si = false → tget g.sPoison f.k.toNat false = false)

end Sys2Proof.Claims

/-- R98 and R99: conversions to FP16 and BF16, stochastic under SRN with the generator advanced once a value. -/
def Claims.NarrowingConversions : Prop :=
  (∀ p ∈ ([(.cvtF16F32, fp16), (.cvtBf16F32, bf16)] : List ((V2 → Option Ox → Instr) × FpFmt)),
    ∀ (f : V2) (ox : Option Ox) (s : State) (g : Group) (c : Clause), LaneOp s g c ox [f.a] f.nw f.d →
    let e := rndEnv g.fpctl
    let out := fun l => Claims.oneWord e (Claims.convertOne p.2 e (readV g f.a l) (lane g.srseed l))
    (∀ l, On (activeMask g c ox) l → fpFaults (enabledTraps g.fpctl) (out l).fl = false) →
    exec (p.1 f ox) s = .next (after s (Claims.runWritten g (activeMask g c ox) f.nw f.d 1 out) c)) ∧
  (∀ p ∈ ([(.cvtF16x2F32, fp16), (.cvtBf16x2F32, bf16)] : List ((V3 → Option Ox → Instr) × FpFmt)),
    ∀ (f : V3) (ox : Option Ox) (s : State) (g : Group) (c : Clause), LaneOp s g c ox [f.a, f.b] f.nw f.d →
    let e := rndEnv g.fpctl
    let out := fun l => Claims.oneWord e (Claims.convertTwo p.2 e (readV g f.a l) (readV g f.b l) (lane g.srseed l))
    (∀ l, On (activeMask g c ox) l → fpFaults (enabledTraps g.fpctl) (out l).fl = false) →
    exec (p.1 f ox) s = .next (after s (Claims.runWritten g (activeMask g c ox) f.nw f.d 1 out) c))

/-- R100 and R102: packing of a run with a multiplier, and asymmetric quantisation. -/
def Claims.Packing : Prop :=
  (∀ p ∈ Claims.packs, ∀ (f : V3) (ox : Option Ox) (s : State) (g : Group) (c : Clause),
    LaneOp s g c ox (f.b :: runFields f.a p.2.1) f.nw f.d →
    let e := rndEnv g.fpctl
    let out := fun l => p.2.2 e ((runFields f.a p.2.1).map fun r => Claims.product e (readV g r l) (readV g f.b l)) (lane g.srseed l)
    (∀ l, On (activeMask g c ox) l → fpFaults (enabledTraps g.fpctl) (out l).fl = false) →
    exec (p.1 f ox) s = .next (after s (Claims.runWritten g (activeMask g c ox) f.nw f.d 1 out) c)) ∧
  (∀ p ∈ Claims.quantisers, ∀ (f : V3) (ox : Ox) (s : State) (g : Group) (c : Clause),
    LaneOp s g c (some ox) (f.b :: ox.c :: runFields f.a p.2.1) f.nw f.d →
    let e := rndEnv g.fpctl
    let out := fun l => Claims.quantised p.2.2.1 e (p.2.2.2 (readV g ox.c l))
      ((runFields f.a p.2.1).map fun r => Claims.product e (readV g r l) (readV g f.b l))
    (∀ l, On (activeMask g c (some ox)) l → fpFaults (enabledTraps g.fpctl) (out l).fl = false) →
    exec (p.1 f ox) s = .next (after s (Claims.runWritten g (activeMask g c (some ox)) f.nw f.d 1 out) c))

/-- R101 and R103: unpacking into a run, one rounding into FP32 a value; the latches shift once, with the first. -/
def Claims.Unpacking : Prop :=
  ∀ p ∈ Claims.unpacks, ∀ (f : V3) (ox : Option Ox) (s : State) (g : Group) (c : Clause),
    LaneOp s g c ox [f.a, f.b] true f.d → (f.nw = false → ∀ x ∈ runFields f.d p.2.1, Plain g x) →
    let e := rndEnv g.fpctl
    let out := fun l => Claims.values ((List.range p.2.1).map (p.2.2 e (readV g f.a l) (readV g f.b l)))
    (∀ l, On (activeMask g c ox) l → fpFaults (enabledTraps g.fpctl) (out l).fl = false) →
    exec (p.1 f ox) s = .next (after s (Claims.runWritten g (activeMask g c ox) f.nw f.d p.2.1 out) c)

/-- R77 for the conversions that narrow, and for packing and unpacking. -/
def Claims.ConversionTraps : Prop :=
  (∀ p ∈ ([(.cvtF16F32, fp16), (.cvtBf16F32, bf16)] : List ((V2 → Option Ox → Instr) × FpFmt)),
    ∀ (f : V2) (ox : Option Ox) (s : State) (g : Group) (c : Clause), LaneOp s g c ox [f.a] f.nw f.d →
    let e := rndEnv g.fpctl
    let out := fun l => Claims.oneWord e (Claims.convertOne p.2 e (readV g f.a l) (lane g.srseed l))
    ∀ k, Claims.LowestRaised g (activeMask g c ox) (fun l => (out l).fl) k →
    exec (p.1 f ox) s = .next (Claims.runTrapped s g c (activeMask g c ox) f.nw f.d 1 out k)) ∧
  (∀ p ∈ ([(.cvtF16x2F32, fp16), (.cvtBf16x2F32, bf16)] : List ((V3 → Option Ox → Instr) × FpFmt)),
    ∀ (f : V3) (ox : Option Ox) (s : State) (g : Group) (c : Clause), LaneOp s g c ox [f.a, f.b] f.nw f.d →
    let e := rndEnv g.fpctl
    let out := fun l => Claims.oneWord e (Claims.convertTwo p.2 e (readV g f.a l) (readV g f.b l) (lane g.srseed l))
    ∀ k, Claims.LowestRaised g (activeMask g c ox) (fun l => (out l).fl) k →
    exec (p.1 f ox) s = .next (Claims.runTrapped s g c (activeMask g c ox) f.nw f.d 1 out k)) ∧
  (∀ p ∈ Claims.packs, ∀ (f : V3) (ox : Option Ox) (s : State) (g : Group) (c : Clause),
    LaneOp s g c ox (f.b :: runFields f.a p.2.1) f.nw f.d →
    let e := rndEnv g.fpctl
    let out := fun l => p.2.2 e ((runFields f.a p.2.1).map fun r => Claims.product e (readV g r l) (readV g f.b l)) (lane g.srseed l)
    ∀ k, Claims.LowestRaised g (activeMask g c ox) (fun l => (out l).fl) k →
    exec (p.1 f ox) s = .next (Claims.runTrapped s g c (activeMask g c ox) f.nw f.d 1 out k)) ∧
  (∀ p ∈ Claims.quantisers, ∀ (f : V3) (ox : Ox) (s : State) (g : Group) (c : Clause),
    LaneOp s g c (some ox) (f.b :: ox.c :: runFields f.a p.2.1) f.nw f.d →
    let e := rndEnv g.fpctl
    let out := fun l => Claims.quantised p.2.2.1 e (p.2.2.2 (readV g ox.c l))
      ((runFields f.a p.2.1).map fun r => Claims.product e (readV g r l) (readV g f.b l))
    ∀ k, Claims.LowestRaised g (activeMask g c (some ox)) (fun l => (out l).fl) k →
    exec (p.1 f ox) s = .next (Claims.runTrapped s g c (activeMask g c (some ox)) f.nw f.d 1 out k)) ∧
  (∀ p ∈ Claims.unpacks, ∀ (f : V3) (ox : Option Ox) (s : State) (g : Group) (c : Clause),
    LaneOp s g c ox [f.a, f.b] true f.d → (f.nw = false → ∀ x ∈ runFields f.d p.2.1, Plain g x) →
    let e := rndEnv g.fpctl
    let out := fun l => Claims.values ((List.range p.2.1).map (p.2.2 e (readV g f.a l) (readV g f.b l)))
    ∀ k, Claims.LowestRaised g (activeMask g c ox) (fun l => (out l).fl) k →
    exec (p.1 f ox) s = .next (Claims.runTrapped s g c (activeMask g c ox) f.nw f.d p.2.1 out k))

/-- R104 and R105: scalar arithmetic at both widths, once for the group whatever EXEC holds; nothing but the destination
and the clause's position changes. -/
def Obligations.ScalarArithmetic : Prop :=
  (∀ p ∈ Claims.scalarS3, ∀ (f : S3) (s : State) (g : Group) (c : Clause), At s g c → Claims.SoundS3 g f →
    exec (p.1 f) s = .next (after s (setS g f.d.toNat (Claims.atWidth f.w
      (p.2 32 ((sReg g f.a.toNat).truncate 32) (Claims.operandS3 32 g f)) (p.2 64 (sReg g f.a.toNat) (Claims.operandS3 64 g f)))) c)) ∧
  (∀ p ∈ Claims.scalarShifts, ∀ (f : S3) (s : State) (g : Group) (c : Clause), At s g c → Claims.SoundS3 g f →
    exec (p.1 f) s = .next (after s (setS g f.d.toNat (Claims.atWidth f.w
      (p.2 32 ((sReg g f.a.toNat).truncate 32) (Claims.countS3 g f)) (p.2 64 (sReg g f.a.toNat) (Claims.countS3 g f)))) c)) ∧
  (∀ p ∈ Claims.scalarCompares, ∀ (f : S3) (s : State) (g : Group) (c : Clause), At s g c → Claims.SoundS3 g f →
    exec (p.1 f) s = .next (after s (setS g f.d.toNat (if (if f.w then p.2 64 (sReg g f.a.toNat) (Claims.operandS3 64 g f)
      else p.2 32 ((sReg g f.a.toNat).truncate 32) (Claims.operandS3 32 g f)) then 1 else 0)) c)) ∧
  (∀ p ∈ Claims.scalarSI, ∀ (f : SI) (s : State) (g : Group) (c : Clause), At s g c → tget g.sPoison f.a.toNat false = false →
    exec (p.1 f) s = .next (after s (setS g f.d.toNat (Claims.atWidth f.w
      (p.2 32 ((sReg g f.a.toNat).truncate 32) f.imm) (p.2 64 (sReg g f.a.toNat) (f.imm.signExtend 64)))) c)) ∧
  (∀ (f : SM) (s : State) (g : Group) (c : Clause), At s g c →
    exec (.smovBw f) s = .next (after s (setS g f.d.toNat (Claims.atWidth f.w f.imm (f.imm.signExtend 64))) c))

namespace Sys2Proof.Claims

/-! ## Registers and the checks of operands: R8 to R12, R42 to R46, R125, R126, R165 -/

/-- The instructions of two integer sources, logic among them. -/
noncomputable def twoSource : List ((V3 → Option Ox → Instr) × (Word → Word → Word)) := intV3 ++ logicV3

/-- Lanes whose source A or B is poisoned. -/
def poisoned (g : Group) (act : Mask) (a b : BitVec 7) : Mask :=
  among act fun l => (fieldPoison g a).getLsbD l || (fieldPoison g b).getLsbD l

/-- A vector field that is the window of a bound input queue with an element to pop (R165). -/
def PopsFrom (g : Group) (f : BitVec 7) (n : Nat) (q : QueueReg) (e : Lanes × Mask) (es : List (Lanes × Mask)) : Prop :=
  windowOf g f = some (n, q) ∧ q.out = false ∧ q.elems = e :: es ∧ tfind g.queues n = some q

end Sys2Proof.Claims

/-- R8, R42 and R46: a write of a vector register reaches the lanes given and no other lane or register; a scalar and a
predicate take what is written, but p0 stays all ones; a result shifts the latches in its lanes, oldest last, and a latch
that nothing has written reads zero. -/
def Claims.RegisterWrites : Prop :=
  (∀ (g : Group) (n m : Nat) (act : Mask) (f : Nat → Word) (l : Nat), l < 128 →
    lane (vReg (setV g n act f) m) l = if m = n ∧ act.getLsbD l = true then f l else lane (vReg g m) l) ∧
  (∀ (g : Group) (n m : Nat) (v : DWord), sReg (setS g n v) m = if m = n then v else sReg g m) ∧
  (∀ (g : Group) (n m : Nat) (v : Mask), pReg (setP g n v) m = if m = 0 then BitVec.allOnes 128 else if m = n then v else pReg g m) ∧
  (∀ (g : Group) (act : Mask) (f : Nat → Word) (n l : Nat), act ≠ 0 → n < 4 → l < 128 →
    lane (latch (shiftLatches g act f) n) l =
      if n = 0 ∨ g.latchValid.getLsbD (n - 1) = true then
        (if act.getLsbD l then (if n = 0 then f l else lane (latch g (n - 1)) l) else lane (latch g n) l)
      else 0) ∧
  (∀ (g : Group) (f : Nat → Word), shiftLatches g 0 f = g) ∧
  (∀ (g : Group) (act : Mask) (f : Nat → Word) (n : Nat), act ≠ 0 → n < 4 →
    (shiftLatches g act f).latchValid.getLsbD n = (decide (n = 0) || g.latchValid.getLsbD (n - 1)))

/-- R9, R42, R125: an instruction with no active lane changes nothing but the clause's position; a field at or above
REGALLOC is trap 0x04 of the whole word; lanes that read poison trap with 0x70 and the others deliver. -/
def Claims.OperandChecks : Prop :=
  ∀ p ∈ Claims.twoSource, ∀ (f : V3) (ox : Option Ox) (s : State) (g : Group) (c : Clause), At s g c →
    (∀ x ∈ [f.a, f.b] ++ dest f.nw f.d, windowOf g x = none) →
    let act := activeMask g c ox
    let high := ∃ x ∈ [f.a, f.b] ++ dest f.nw f.d, beyond g x = true
    let bad := Claims.poisoned g act f.a f.b
    (high → exec (p.1 f ox) s = .next (trapped s g c 4 (execMask g c) 0xFF 0 [])) ∧
    (¬ high → act = 0 → exec (p.1 f ox) s = .next (after s g c)) ∧
    (¬ high → bad ≠ 0 → exec (p.1 f ox) s = .next (trapped s
      (written g (act &&& ~~~bad) f.nw f.d fun l => p.2 (readV g f.a l) (readV g f.b l)) c 0x70 bad (if f.nw then 0xFF else f.d.toNat) 0 []))

/-- R165: a source that is the window of an input queue takes the oldest element, which the instruction pops; while the
queue is empty the instruction waits; a destination that is the window of an output queue pushes the result with 0 in
the lanes not active, and waits while the queue holds 16 elements; an output window as a source is trap 0x01. -/
def Obligations.QueueWindows : Prop :=
  ∀ p ∈ Claims.intV2, ∀ (f : V2) (ox : Option Ox) (s : State) (g : Group) (c : Clause), At s g c → activeMask g c ox ≠ 0 →
    (∀ (n : Nat) (q : QueueReg) (e : Lanes × Mask) (es : List (Lanes × Mask)), Claims.PopsFrom g f.a n q e es →
      beyond g f.a = false → (∀ x ∈ dest f.nw f.d, Plain g x) → (∀ l, On (activeMask g c ox) l → e.2.getLsbD l = false) →
      exec (p.1 f ox) s = .next (after s (shiftLatches
        { (if f.nw then g else setV g f.d.toNat (activeMask g c ox) fun l => p.2 (lane e.1 l)) with
          queues := tput g.queues n { q with elems := es } } (activeMask g c ox) fun l => p.2 (lane e.1 l)) c)) ∧
    (∀ (n : Nat) (q : QueueReg), windowOf g f.a = some (n, q) → q.out = false → q.elems = [] → tfind g.queues n = some q →
      beyond g f.a = false → (∀ x ∈ dest f.nw f.d, Plain g x) → exec (p.1 f ox) s = .next s) ∧
    (∀ (n : Nat) (q : QueueReg), Plain g f.a → Sound g (activeMask g c ox) f.a → f.nw = false → windowOf g f.d = some (n, q) →
      q.out = true → tfind g.queues n = some q → beyond g f.d = false →
      (q.elems.length < 16 → exec (p.1 f ox) s = .next (after s (shiftLatches
        { g with queues := tput g.queues n { q with elems := q.elems ++
            [(mergeLanes (activeMask g c ox) (fun l => p.2 (readV g f.a l)) [], 0)] } }
        (activeMask g c ox) fun l => p.2 (readV g f.a l)) c)) ∧
      (16 ≤ q.elems.length → exec (p.1 f ox) s = .next s)) ∧
    (∀ (n : Nat) (q : QueueReg), windowOf g f.a = some (n, q) → q.out = true →
      exec (p.1 f ox) s = .next (trapped s g c 1 (execMask g c) 0xFF 0 []))

namespace Sys2Proof.Claims

/-! ## Control: R23 to R26, R32, R106 to R117 -/

/-- The target of a branch word: its own address plus four times the offset (R39). -/
def target (c : Clause) (ofs : BitVec 20) : Nat := (BitVec.ofInt 64 ((c.addr + 4 * (c.idx + 1) : Nat) + 4 * ofs.toInt)).toNat

/-- The header after a clause (R32). -/
def following (c : Clause) : Nat := c.addr + 4 * (1 + c.words.length)

/-- A header stands at an address and its fetch is complete (R32). -/
def HeaderAt (s : State) (g : Group) (t : Nat) : Prop :=
  t % 4 = 0 ∧ ∃ w, fetchWord s g.ctx g.core t = .word w ∧ isHeader w = true

/-- A group whose clause has ended with its slot at an address: the latches are invalid, a debugger's step is over, and a
fetch given a second time is done with (R16, R32, R279, R377). -/
def left (s : State) (g : Group) (c : Clause) (pc : Nat) : Group :=
  { setSlot g c.pcs { pcSlot g c.pcs with pc := pc, since := s.clock } with
    clause := none, resume := none, batch := none, latches := [], latchValid := 0, halted := g.halted || g.stepping,
    stepping := false }

/-- The guard of a branch word in a lane (R39, R106). -/
def guardOf (g : Group) (f : B) (l : Nat) : Bool := xor f.pn ((pReg g f.pg.toNat).getLsbD l)

/-- Every lane of EXEC satisfies the guard; some lane does. -/
def AllTake (g : Group) (c : Clause) (f : B) : Prop := ∀ l, On (execMask g c) l → guardOf g f l = true
def SomeTake (g : Group) (c : Clause) (f : B) : Prop := ∃ l, On (execMask g c) l ∧ guardOf g f l = true

/-- The instructions that transfer to an address, where they do (R32, R106, R107, R110). A split looks at its target first. -/
inductive TransfersTo (g : Group) (c : Clause) : Instr → Nat → Prop
  | bra (f : B) : AllTake g c f → TransfersTo g c (.bra f) (target c f.ofs)
  | braAny (f : B) : SomeTake g c f ∨ f.pg = 0 ∧ f.pn = false → TransfersTo g c (.braAny f) (target c f.ofs)
  | call (f : B) : AllTake g c f → TransfersTo g c (.call f) (target c f.ofs)
  | ret : tget g.sPoison 63 false = false → TransfersTo g c .ret ((sReg g 63).toNat % 2 ^ 48)
  | brx (d : BitVec 6) : tget g.sPoison d.toNat false = false → TransfersTo g c (.brx d) ((sReg g d.toNat).toNat % 2 ^ 48)
  | split (f : B) (join : BitVec 20) : g.inHandler = false → TransfersTo g c (.split f join) (target c f.ofs)

end Sys2Proof.Claims

/-- R39, R106 and R107: bra and call are taken when the guard holds in every lane of EXEC, bra.any when it holds in one
or the guard is p0; call leaves the address of the following header in s63; ret and brx go to bits [47:0] of a scalar. -/
def Claims.Branches : Prop :=
  ∀ (s : State) (g : Group) (c : Clause), At s g c →
    (∀ f : B,
      (Claims.AllTake g c f → Claims.HeaderAt s g (Claims.target c f.ofs) →
        exec (.bra f) s = .next (setGroup s (Claims.left s g c (Claims.target c f.ofs))) ∧
        exec (.call f) s = .next (setGroup s
          (Claims.left s (setS g 63 (BitVec.ofNat 64 (Claims.following c))) c (Claims.target c f.ofs)))) ∧
      (¬ Claims.AllTake g c f → exec (.bra f) s = .next (after s g c) ∧ exec (.call f) s = .next (after s g c)) ∧
      (Claims.SomeTake g c f ∨ f.pg = 0 ∧ f.pn = false → Claims.HeaderAt s g (Claims.target c f.ofs) →
        exec (.braAny f) s = .next (setGroup s (Claims.left s g c (Claims.target c f.ofs)))) ∧
      (¬ (Claims.SomeTake g c f ∨ f.pg = 0 ∧ f.pn = false) → exec (.braAny f) s = .next (after s g c))) ∧
    (tget g.sPoison 63 false = false → Claims.HeaderAt s g ((sReg g 63).toNat % 2 ^ 48) →
      exec .ret s = .next (setGroup s (Claims.left s g c ((sReg g 63).toNat % 2 ^ 48)))) ∧
    (∀ d : BitVec 6, tget g.sPoison d.toNat false = false → Claims.HeaderAt s g ((sReg g d.toNat).toNat % 2 ^ 48) →
      exec (.brx d) s = .next (setGroup s (Claims.left s g c ((sReg g d.toNat).toNat % 2 ^ 48))))

/-- R32: a target that is not a multiple of 4 or carries no MARK is trap 0x03, and a target whose fetch faults with
another cause than 0x20 traps with that cause: at the transferring word, over EXEC, with the target as the address. -/
def Claims.TransferTraps : Prop :=
  ∀ (s : State) (g : Group) (c : Clause), At s g c → ∀ (i : Instr) (t : Nat), Claims.TransfersTo g c i t →
    (t % 4 ≠ 0 → exec i s = .next (trapped s { g with batch := none } c 3 (execMask g c) 0xFF t [])) ∧
    (∀ w, t % 4 = 0 → fetchWord s g.ctx g.core t = .word w → isHeader w = false →
      exec i s = .next (trapped s { g with batch := none } c 3 (execMask g c) 0xFF t [])) ∧
    (∀ k, t % 4 = 0 → fetchWord s g.ctx g.core t = .fault k → k ≠ 0x20 →
      exec i s = .next (trapped s { g with batch := none } c k (execMask g c) 0xFF t []))

/-- R108 and R116: nop only retires, yield marks the group, exit empties its slot, after which the rules of R111 apply;
in a handler it ends the whole group. -/
def Obligations.FormsWithoutOperands : Prop :=
  ∀ (s : State) (g : Group) (c : Clause), At s g c →
    exec .nop s = .next (after s g c) ∧
    exec .yield s = .next (after s { g with yielded := true } c) ∧
    (g.inHandler = false → exec .exit s = .next (settle s
      (setSlot { Claims.left s { g with byEpend := false } c (Claims.following c) with batch := g.batch } c.pcs emptySlot))) ∧
    (g.inHandler = true → exec .exit s = .next (setGroup s
      { Claims.left s { g with byEpend := false } c (Claims.following c) with
        batch := g.batch, a := emptySlot, b := emptySlot, top := none, depth := 0, aside := none, inHandler := false }))

/-- R110: split. A split in a handler is trap 0x01. Where every lane or none is taken, the slot goes to the target or to
the following header. Else, with room on the split stack, the other slot's record and the Fuse entry are pushed, this
slot goes on with the lanes not taken and the other slot runs the taken ones, both with the join as their
reconvergence address; without room it is trap 0x48. -/
def Claims.Split : Prop :=
  ∀ (f : B) (join : BitVec 20) (s : State) (g : Group) (c : Clause), At s g c →
    let t := Claims.target c f.ofs
    let j := Claims.target c join
    let taken := among (execMask g c) (Claims.guardOf g f)
    let rest := execMask g c &&& ~~~taken
    let other := pcSlot g c.pcs.other
    let entries := (if other.st = .empty then [] else [pendMaskEntry other.mask, pendAddrEntry other]) ++ [fuseEntry j (pcSlot g c.pcs).rpc]
    let g0 := { g with batch := none }
    (g.inHandler = true → exec (.split f join) s = .next (trapped s g c 1 (execMask g c) 0xFF 0 [])) ∧
    (g.inHandler = false → Claims.HeaderAt s g t →
      (rest = 0 → exec (.split f join) s = .next (setGroup s (Claims.left s g c t))) ∧
      (rest ≠ 0 → taken = 0 → exec (.split f join) s = .next (setGroup s (Claims.left s g c (Claims.following c)))) ∧
      (rest ≠ 0 → taken ≠ 0 → g.splitMax + 1 < g.depth + entries.length →
        exec (.split f join) s = .next (trapped s g0 c 0x48 (execMask g c) 0xFF 0 [])) ∧
      (rest ≠ 0 → taken ≠ 0 → g.depth + entries.length ≤ g.splitMax + 1 → ∀ (s' : State) (g' : Group),
        pushAll s g0 entries = .ok (s', g') →
        exec (.split f join) s = .next (setGroup s'
          (setSlot (setSlot (Claims.left s' g' c (Claims.following c)) c.pcs ⟨.running, Claims.following c, rest, some j, s'.clock⟩)
            c.pcs.other ⟨.running, t, taken, some j, s'.clock⟩))))

namespace Sys2Proof.Claims

/-- Entries of the split stack, read by their kinds (R112). -/
def IsFuse (e : SplitEntry) (join : Nat) : Prop := bitsOf e.lo 60 4 = 1 ∧ bitsOf e.lo 0 48 = join
def IsPending (e : SplitEntry) : Prop := bitsOf e.lo 60 4 = 2 ∨ bitsOf e.lo 60 4 = 3

/-- The place of entry `i` in the split-spill area (R112). -/
def spillPlace (g : Group) (i : Nat) : Nat := g.spillBase + 16 * i

/-- An entry lies in the split-spill area, on a page that can be read, without poison (R112). -/
def Spilled (s : State) (g : Group) (i : Nat) (e : SplitEntry) : Prop :=
  ∃ leaf, spillAt s g i .read = .ok leaf ∧
    let w := fun o : Nat => readLeaf s g.core leaf (spillPlace g i + o)
    (∀ o ∈ [0, 4, 8, 12], (w o).2 = false) ∧ e = ⟨joinWords (w 0).1 (w 4).1, joinWords (w 8).1 (w 12).1⟩

/-- The state once the entry below the top has been read: its page's walk fills the TLBs (R276). -/
def refilled (s : State) (g : Group) : State := fillNow s g.ctx g.core (spillPlace g (g.depth - 2))

/-- A slot filled from a pending record (R111, R112): the address entry on top, the mask entry below it. -/
def recordSlot (s : State) (addr mask : SplitEntry) : PcSlot :=
  ⟨if bitsOf addr.lo 60 4 = 3 then .parked else .running, bitsOf addr.lo 0 48 / 4 * 4, mask.hi ++ mask.lo, some (bitsOf addr.hi 0 48), s.clock⟩

end Sys2Proof.Claims

/-- R111 and R112: two slots parked at the join of the Fuse entry on top run on from it in slot A with the lanes of both;
a slot parked alone there runs on with its own; with both slots empty a Fuse entry is dropped. With one slot parked, or both
empty, a pending record on top goes into the empty slot, slot A of two. With a running slot, or
an empty stack, nothing happens. The entry below the top comes back from the split-spill area, to which a push sends the top
before it. A Fuse entry carries its join and the outer reconvergence address. -/
def Claims.Reconvergence : Prop :=
  (∀ (s : State) (g : Group), g.top = none ∨ g.a.st = .running ∨ g.b.st = .running → settle s g = setGroup s g) ∧
  (∀ (s : State) (g : Group) (e : SplitEntry) (join : Nat), g.top = some e → g.depth = 1 → Claims.IsFuse e join →
    let outer := if e.hi.getLsbD 63 then some (bitsOf e.hi 0 48) else none
    let fused := fun m : Mask => setGroup s { g with a := ⟨.running, join / 4 * 4, m, outer, s.clock⟩, b := emptySlot, top := none, depth := 0 }
    (g.a.st = .parked → g.b.st = .parked → g.a.rpc = some join → g.b.rpc = some join → settle s g = fused (g.a.mask ||| g.b.mask)) ∧
    (g.a.st = .parked → g.b.st = .empty → g.a.rpc = some join → settle s g = fused g.a.mask) ∧
    (g.a.st = .empty → g.b.st = .parked → g.b.rpc = some join → settle s g = fused g.b.mask) ∧
    (g.a.st = .empty → g.b.st = .empty → settle s g = setGroup s { g with top := none, depth := 0 })) ∧
  (∀ (s : State) (g : Group) (e below : SplitEntry) (join : Nat), g.top = some e → 2 ≤ g.depth → Claims.Spilled s g (g.depth - 2) below →
    Claims.IsFuse e join →
    let outer := if e.hi.getLsbD 63 then some (bitsOf e.hi 0 48) else none
    let s1 := Claims.refilled s g
    let fused := fun m : Mask => setGroup s1 { g with
      a := ⟨.running, join / 4 * 4, m, outer, s1.clock⟩, b := emptySlot, top := some below, depth := g.depth - 1 }
    (g.a.st = .parked → g.b.st = .parked → g.a.rpc = some join → g.b.rpc = some join → settle s g = fused (g.a.mask ||| g.b.mask)) ∧
    (g.a.st = .parked → g.b.st = .empty → g.a.rpc = some join → settle s g = fused g.a.mask) ∧
    (g.a.st = .empty → g.b.st = .parked → g.b.rpc = some join → settle s g = fused g.b.mask) ∧
    (g.a.st = .empty → g.b.st = .empty → settle s g = settle s1 { g with top := some below, depth := g.depth - 1 })) ∧
  (∀ (s : State) (g : Group) (addr mask : SplitEntry), g.top = some addr → Claims.IsPending addr → g.depth = 2 →
    Claims.Spilled s g 0 mask →
    let s1 := Claims.refilled s g
    let slot := Claims.recordSlot s1 addr mask
    (g.a.st = .parked → g.b.st = .empty → settle s g = setGroup s1 { g with b := slot, top := none, depth := 0 }) ∧
    (g.a.st = .empty → g.b.st = .parked ∨ g.b.st = .empty → settle s g = setGroup s1 { g with a := slot, top := none, depth := 0 })) ∧
  (∀ (s : State) (g : Group) (addr mask below : SplitEntry), g.top = some addr → bitsOf addr.lo 60 4 = 2 → 3 ≤ g.depth →
    Claims.Spilled s g (g.depth - 2) mask →
    let s1 := Claims.refilled s g
    Claims.Spilled s1 { g with depth := g.depth - 1 } (g.depth - 3) below →
    let s2 := Claims.refilled s1 { g with depth := g.depth - 1 }
    let slot := Claims.recordSlot s2 addr mask
    (g.a.st = .parked → g.b.st = .empty → settle s g = setGroup s2 { g with b := slot, top := some below, depth := g.depth - 2 }) ∧
    (g.a.st = .empty → g.b.st = .parked ∨ g.b.st = .empty →
      settle s g = setGroup s2 { g with a := slot, top := some below, depth := g.depth - 2 })) ∧
  (∀ (s : State) (g : Group) (e top : SplitEntry) (leaf : Leaf), g.top = some top → 1 ≤ g.depth → spillAt s g (g.depth - 1) .write = .ok leaf →
    ∃ t, pushSplit s g e = .ok (t, { g with top := some e, depth := g.depth + 1 }) ∧ t.groups = s.groups) ∧
  (∀ (s : State) (g : Group) (e : SplitEntry), g.top = none → pushSplit s g e = .ok (s, { g with top := some e, depth := 1 })) ∧
  (∀ (join : Nat) (outer : Option Nat), join < 2 ^ 48 → (∀ r, outer = some r → r < 2 ^ 48) →
    Claims.IsFuse (fuseEntry join outer) join ∧ (fuseEntry join outer).outer = outer) ∧
  (∀ p : PcSlot, p.st ≠ .empty → Claims.IsPending (pendAddrEntry p))

namespace Sys2Proof.Claims

/-- What a trap reports: cause, lanes, address, destination field. -/
structure Report where
  cause : Nat
  mask : Mask
  addr : Nat
  dst : Nat

/-- The two words of a 64-bit value, low word first. -/
def pair (n i : Nat) : Word := BitVec.ofNat 32 (if i = 0 then n else n / 2 ^ 32)

/-- Word `i` of a mask, from bit 0 up. -/
def maskWord (m : Mask) (i : Nat) : Word := m.extractLsb' (32 * i) 32

/-- R24: word `i` of the trap frame of a group whose clause `c` traps at the word at which it stands. -/
def frame (g : Group) (c : Clause) (r : Report) (i : Nat) : Word :=
  let me := pcSlot g c.pcs
  let other := pcSlot g c.pcs.other
  if i < 2 then pair (c.addr + 4 * (c.idx + 1)) i
  else if i < 4 then pair (if other.st = .running then other.pc else 0) (i - 2)
  else if i < 8 then maskWord me.mask (i - 4)
  else if i < 12 then maskWord (if other.st = .empty then 0 else other.mask) (i - 8)
  else if i < 16 then maskWord r.mask (i - 12)
  else if i = 16 then BitVec.ofNat 32 (r.cause + 2 ^ 8 * r.dst + 2 ^ 16 * (c.idx + 1) + 2 ^ 24 * g.latchValid.toNat)
  else if i = 17 then c.hdr
  else if i = 18 then g.fpctl
  else if i = 19 then BitVec.ofNat 32 g.regAlloc
  else if i < 22 then pair (cntWord g).toNat (i - 20)
  else if i = 22 then BitVec.ofNat 32 g.depth
  else if i = 23 then 0
  else if i < 26 then pair r.addr (i - 24)
  else if i < 64 then 0
  else if i < 192 then (sReg g ((i - 64) / 2)).extractLsb' (32 * (i % 2)) 32
  else if i < 224 then maskWord (pReg g ((i - 192) / 4)) (i % 4)
  else if i < 512 then 0
  else lane (latch g ((i - 512) / 128)) (i % 128)

/-- A group may deliver a trap: it is in no handler, its context has one, and its frame is mapped writable (R23 to R26). -/
structure Deliverable (s : State) (g : Group) (leaf : Leaf) : Prop where
  outside : g.inHandler = false
  handler : trapVec s g.ctx ≠ 0
  frame : xlatNow s g.ctx g.core (frameAddr s g) .write = .ok leaf

/-- Two groups agree in every register that a program holds: R8's vectors, scalars, predicates, queues, counters, the
floating-point registers, and the outstanding work. -/
def SameRegisters (h g : Group) : Prop :=
  h.v = g.v ∧ h.vPoison = g.vPoison ∧ h.s = g.s ∧ h.sPoison = g.sPoison ∧ h.p = g.p ∧ h.queues = g.queues ∧ h.cnt = g.cnt ∧
  h.fpctl = g.fpctl ∧ h.fflags = g.fflags ∧ h.srseed = g.srseed ∧ h.regAlloc = g.regAlloc ∧ h.ops = g.ops ∧ h.rays = g.rays

/-- R24, R17: the group in its handler after a trap of clause `c`. -/
structure InHandler (s : State) (g : Group) (c : Clause) (r : Report) (h : Group) : Prop where
  entry : h.a = ⟨.running, (trapVec s g.ctx).toNat, execMask g c, none, s.clock⟩
  slotB : h.b = ⟨.empty, 0, 0, none, 0⟩
  stack : h.top = none ∧ h.depth = 0
  clause : h.clause = none ∧ h.resume = none ∧ h.latchValid = 0
  handler : h.inHandler = true
  trapRegs : h.trapPc = c.addr + 4 * (c.idx + 1) ∧ h.trapCause = r.cause ∧ h.trapMask = r.mask ∧ h.trapAddr = r.addr ∧ h.trapDst = r.dst
  kept : ∃ d, h.aside = some d ∧ d.a = g.a ∧ d.b = g.b ∧ d.who = c.pcs ∧ d.top = g.top ∧ d.depth = g.depth
  registers : SameRegisters h g

/-- What trap entry leaves alone: memory at its homes, what other cores hold, the other groups, the contexts. -/
def EntryFrame (s t : State) (g : Group) : Prop :=
  t.mem = s.mem ∧ t.homes = s.homes ∧ t.msgs = s.msgs ∧ t.ctxs = s.ctxs ∧ t.teams = s.teams ∧ t.rays = s.rays ∧ t.quads = s.quads ∧
  (∀ core w, core ≠ g.core → l1Copy t core w = l1Copy s core w) ∧
  (∀ core slot, ¬ (core = g.core ∧ slot = g.slot) → groupAt t core slot = groupAt s core slot)

/-- A group halted for good, and the event that reports it (R23, R26, R372). -/
def haltedFor (s : State) (g : Group) (kind cause addr : Nat) : State :=
  report (setGroup s { g with stopped := some kind, clause := none })
    ⟨kind, cause, g.ctx, g.core, addr / 4096 * 4096, some g.slot, 0, 0, 0⟩

end Sys2Proof.Claims

/-- R24, R113 and R114: trap takes cause 0x61 over EXEC with its code as the address, and brk cause 0x60 where the context
is not being debugged. The frame is written through the core's L1, slot A stands at TRAPVEC with the mask of the faulting
slot, slot B is empty, and every register of the program stays. -/
def Obligations.TrapEntry : Prop :=
  ∀ (s : State) (g : Group) (c : Clause) (leaf : Leaf) (code : BitVec 8), At s g c → Claims.Deliverable s g leaf →
    ∀ p ∈ ([(Instr.trap code, 0x61), (.brk code, 0x60)] : List (Instr × Nat)), (p.2 = 0x60 → dbgOn s g.ctx = false) →
    let r : Claims.Report := ⟨p.2, execMask g c, code.toNat, 0xFF⟩
    ∃ t h, exec p.1 s = .next t ∧ groupAt t g.core g.slot = some h ∧ Claims.InHandler s g c r h ∧ Claims.EntryFrame s t g ∧
      ∀ i, i < 1024 → (readNow t g.core (leaf.at (frameAddr s g) + 4 * i)).1 = Claims.frame g c r i

/-- R23, R26 and R369: a trap in a handler halts the group with the event 0x04, a trap without a handler with the event
0x05, and a frame that cannot be written with the event 0x03 and the cause that its write met, after the event that tells
why. The trap registers hold the trap in each case.
The cause in the frame-fault event and the event before it that tells why are the model's reading of R369 (log entry 103). -/
def Claims.TrapsNotDelivered : Prop :=
  ∀ (s0 : State) (g : Group) (c : Clause) (code : BitVec 8), At s0 g c →
    let s := dropFails s0 g.ctx g.core [code.toNat / 4096]
    let set := { g with trapPc := c.addr + 4 * (c.idx + 1), trapCause := 0x61, trapMask := execMask g c, trapAddr := code.toNat,
                        trapDst := 0xFF }
    (g.inHandler = true → exec (.trap code) s0 = .next (Claims.haltedFor s set 0x04 0x61 0)) ∧
    (g.inHandler = false → trapVec s g.ctx = 0 → exec (.trap code) s0 = .next (Claims.haltedFor s set 0x05 0x61 0)) ∧
    (∀ k, g.inHandler = false → trapVec s g.ctx ≠ 0 → xlatNow s g.ctx g.core (frameAddr s g) .write = .error k →
      exec (.trap code) s0 = .next (Claims.haltedFor (tellFault (fillNow s g.ctx g.core (frameAddr s g)) g.ctx g.core (some g.slot) 0 k (frameAddr s g)) set 0x03 k
        (frameAddr s g)))

/-- R114 and R379: with debugging enabled brk completes, its group halts at the next word and the halt is reported. -/
def Claims.BreakpointUnderDebug : Prop :=
  ∀ (s : State) (g : Group) (c : Clause) (code : BitVec 8), At s g c → dbgOn s g.ctx = true →
    ∃ t h, exec (.brk code) s = .next t ∧ groupAt t g.core g.slot = some h ∧ h.halted = true ∧ h.clause = none ∧
      Claims.SameRegisters h g ∧ (c.idx + 1 < c.words.length → hasExt c = false → h.resume =
        some ⟨c.pcs, c.addr, c.hdr, c.idx + 1, false, c.words⟩) ∧
      t = report (setGroup s h) ⟨0x10, 0x60, g.ctx, g.core, 0, some g.slot, 0, 0, BitVec.ofNat 32 code.toNat⟩

namespace Sys2Proof.Claims

/-- Word `i` of a frame and its fields (R24). -/
def frameWord (fr : List (Word × Bool)) (i : Nat) : Word := (fr.getD i (0, false)).1
def frame64 (fr : List (Word × Bool)) (i : Nat) : DWord := frameWord fr (i + 1) ++ frameWord fr i
def frame128 (fr : List (Word × Bool)) (i : Nat) : Mask :=
  frameWord fr (i + 3) ++ frameWord fr (i + 2) ++ frameWord fr (i + 1) ++ frameWord fr i

/-- A handler may return: its frame can be read and holds no poison but in scalars, its stores and atoms are performed,
and the frame still names the faulting word of a trap in the middle of a clause (R25, R115, R370). -/
structure Returns (s : State) (g : Group) (d : Aside) (fr : List (Word × Bool)) : Prop where
  aside : g.aside = some d
  done : handlerBusy g d = false
  frame : ∃ leaf, xlat s g.ctx g.core (frameAddr s g) .read = .ok leaf ∧ readFrame s g leaf = fr
  sound : ∀ i, i < 1024 → ¬ (64 ≤ i ∧ i < 192) → (fr.getD i (0, false)).2 = false
  middle : d.atHeader = false
  samePc : (frame64 fr 0).toNat = g.trapPc
  alone : (pcSlot { g with a := d.a, b := d.b } d.who.other).st ≠ .running
  top : d.top = none

end Sys2Proof.Claims

/-- R25, R115, R370 and R390, for a trap in the middle of a clause of a group whose other slot does not run and whose split
stack was empty: tret restores the scalars, predicates, latches, FPCTL and the slots from the frame; tret.retry resumes at the
faulting word and tret.skip at the word after it. Vector registers, counters, REGALLOC and FFLAGS stay as the handler left
them. Outside a handler it is trap 0x01; while a store or atom of the handler is outstanding it waits, as it does for the walk
of the frame's page. That FPCTL takes the frame's word AND 0x1FF is the model's reading (log entry 11). -/
def Obligations.TrapReturn : Prop :=
  (∀ (s : State) (g : Group) (c : Clause) (d : Aside) (fr : List (Word × Bool)) (skip : Bool), At s g c → Claims.Returns s g d fr →
    let idx := bitsOf (Claims.frame64 fr 16) 16 8
    1 ≤ idx → idx < hdrN (Claims.frameWord fr 17) →
    ∃ h, exec (if skip then .tretSkip else .tretRetry) s = .next (setGroup s h) ∧
      h.v = g.v ∧ h.vPoison = g.vPoison ∧ h.cnt = g.cnt ∧ h.regAlloc = g.regAlloc ∧ h.fflags = g.fflags ∧ h.srseed = g.srseed ∧
      h.queues = g.queues ∧ h.ops = g.ops ∧
      (∀ n, n < 64 → sReg h n = Claims.frame64 fr (64 + 2 * n)) ∧
      (∀ n, 1 ≤ n → n < 8 → pReg h n = Claims.frame128 fr (192 + 4 * n)) ∧
      (∀ n l, n < 4 → l < 128 → lane (latch h n) l =
        if (Claims.frameWord fr 16).getLsbD (24 + n) then Claims.frameWord fr (512 + 128 * n + l) else 0) ∧
      h.latchValid = (Claims.frameWord fr 16).extractLsb' 24 4 ∧ h.fpctl = Claims.frameWord fr 18 &&& 0x1FF ∧
      (pcSlot h d.who).mask = Claims.frame128 fr 4 ∧ h.depth = d.depth ∧ h.inHandler = false ∧ h.aside = none ∧ h.clause = none ∧
      h.resume = some ⟨d.who, g.trapPc - 4 * idx, Claims.frameWord fr 17, if skip then idx else idx - 1, skip, []⟩) ∧
  (∀ (s : State) (g : Group) (c : Clause) (skip : Bool), At s g c → g.aside = none →
    exec (if skip then .tretSkip else .tretRetry) s = .next (trapped s g c 1 (execMask g c) 0xFF 0 [])) ∧
  (∀ (s : State) (g : Group) (c : Clause) (d : Aside) (skip : Bool), At s g c → g.aside = some d → handlerBusy g d = true →
    exec (if skip then .tretSkip else .tretRetry) s = .next s) ∧
  (∀ (s : State) (g : Group) (c : Clause) (d : Aside) (skip : Bool), At s g c → g.aside = some d → handlerBusy g d = false →
    xlat s g.ctx g.core (frameAddr s g) .read = .miss →
    exec (if skip then .tretSkip else .tretRetry) s = .next (askWalk s g.ctx g.core (frameAddr s g) false))

namespace Sys2Proof.Claims

/-- The group with a new allocation: registers at and above it are gone, and read zero if they come back (R10, R117). -/
def allocated (g : Group) (n : Nat) : Group :=
  { g with regAlloc := n, v := g.v.filter fun e => decide (e.1 < n), vPoison := g.vPoison.filter fun e => decide (e.1 < n) }

/-- An outstanding load or atom writes a register at or above `n` (R117). -/
def LoadsAbove (g : Group) (n : Nat) : Prop :=
  ∃ o ∈ g.ops, ∃ bytes, ((∃ sg, o.kind = .load bytes sg) ∨ ∃ fn, o.kind = .atom fn bytes) ∧ n < o.dst + (bytes + 3) / 4

/-- A regshrink to `n` is legal: no bound window and no register of an episode's payload is given up (R117, R165, R183). -/
def MayShrink (g : Group) (n : Nat) : Prop := (∀ e ∈ g.queues, e.2.window < n) ∧ (g.kind = .compute ∨ 16 ≤ n)

/-- The request of a group that waits for registers (R117). -/
def Waiting (s : State) (core slot n since : Nat) (g : Group) : Prop :=
  groupAt s core slot = some g ∧ g.grow = some (n, since) ∧
  ∀ h ∈ s.groups, h.core = core → ∀ m t, h.grow = some (m, t) → since < t ∨ since = t ∧ slot ≤ h.slot

/-- R17: each scalar system register with its value. -/
def systemScalars (s : State) (g : Group) : List (BitVec 8 × DWord) := [
  (0x01, BitVec.ofNat 64 g.index), (0x02, BitVec.ofNat 64 g.team),
  (0x03, if g.kind = .compute then BitVec.ofNat 64 g.cluster else 0xFFFFFFFF), (0x04, BitVec.ofNat 64 g.grid),
  (0x05, BitVec.ofNat 64 g.core), (0x06, BitVec.ofNat 64 (g.core / 48 * 4 + g.core % 12 / 3)), (0x07, BitVec.ofNat 64 s.devId),
  (0x08, BitVec.ofNat 64 g.slot), (0x09, BitVec.ofNat 64 g.ctx), (0x0A, BitVec.ofNat 64 g.cls),
  (0x0B, BitVec.ofNat 64 g.regAlloc),
  (0x0D, BitVec.ofNat 64 (cnt g 0 % 64 + cnt g 1 % 64 * 2 ^ 6 + cnt g 2 % 64 * 2 ^ 12 + cnt g 3 % 64 * 2 ^ 18 +
    cnt g 4 % 64 * 2 ^ 24 + cnt g 5 % 64 * 2 ^ 30)),
  (0x10, BitVec.ofNat 64 s.clock), (0x20, g.fpctl.zeroExtend 64), (0x30, ctxDWord s g.ctx 0x008),
  (0x31, BitVec.ofNat 64 g.trapPc), (0x32, BitVec.ofNat 64 g.trapCause), (0x34, BitVec.ofNat 64 g.trapAddr),
  (0x35, BitVec.ofNat 64 g.trapDst),
  (0x36, BitVec.ofNat 64 (((ctxDWord s g.ctx 0x010).toNat + (g.core * 96 + g.slot) * 4096) % 2 ^ 64)),
  (0x40, (ctxWord s g.ctx 0x020).zeroExtend 64)]

/-- R17: the per-lane system registers. -/
def systemLanes (g : Group) : List (BitVec 8 × (Nat → Word)) :=
  [(0x00, fun l => BitVec.ofNat 32 l), (0x21, fun l => lane g.fflags l), (0x22, fun l => lane g.srseed l)]

end Sys2Proof.Claims

/-- R9, R10 and R117: reggrow and regshrink. A larger allocation waits until the grant of its granules, oldest request
first, and of equally old ones that of the lower slot, which is the model's choice (log entry 117); a smaller one takes
effect at once or when the last load above it is done. That a group which waits for a grant in mid-clause gives its issue slot
up is the model's reading of R269 (log entry 113). -/
def Claims.RegisterAllocation : Prop :=
  (∀ (s : State) (g : Group) (c : Clause) (n : BitVec 8), At s g c →
    (n.toNat ≤ g.regAlloc → exec (.reggrow n) s = .next (after s g c)) ∧
    (g.regAlloc < n.toNat →
      exec (.reggrow n) s = .next (setGroup s (suspend { advance s g c with grow := some (n.toNat, s.clock) }))) ∧
    (Claims.MayShrink g n.toNat →
      (g.regAlloc ≤ n.toNat → exec (.regshrink n) s = .next (after s g c)) ∧
      (n.toNat < g.regAlloc → Claims.LoadsAbove g n.toNat →
        exec (.regshrink n) s = .next (setGroup s { advance s g c with shrink := some n.toNat })) ∧
      (n.toNat < g.regAlloc → ¬ Claims.LoadsAbove g n.toNat →
        exec (.regshrink n) s = .next (after s (Claims.allocated g n.toNat) c)))) ∧
  (∀ (s : State) (core slot n since : Nat) (g : Group), Claims.Waiting s core slot n since g →
    ((n - g.regAlloc) / 4 ≤ granulesFree s core →
      exec (.reggrowGrant core) s = .next (setGroup s { Claims.allocated g n with grow := none })) ∧
    (granulesFree s core < (n - g.regAlloc) / 4 → exec (.reggrowGrant core) s = .next s)) ∧
  (∀ (s : State) (core slot n : Nat) (g : Group), groupAt s core slot = some g → g.shrink = some n →
    (¬ Claims.LoadsAbove g n → exec (.regshrinkDone core slot) s = .next (setGroup s { Claims.allocated g n with shrink := none })) ∧
    (Claims.LoadsAbove g n → exec (.regshrinkDone core slot) s = .next s)) ∧
  (∀ (g : Group) (n m l : Nat), m < n → readV (Claims.allocated g n) (BitVec.ofNat 7 m) l = readV g (BitVec.ofNat 7 m) l ∨ 124 ≤ m)

/-- R17, R118: rdsys reads every named register: a scalar one into a scalar, a mask into a predicate, a per-lane one into
the lanes of EXEC. -/
def Claims.SystemRegisterReads : Prop :=
  ∀ (f : X) (s : State) (g : Group) (c : Clause), At s g c →
    (∀ p ∈ Claims.systemScalars s g, f.sys = p.1 → f.kd = 1 →
      exec (.rdsys f) s = .next (after s (setS g f.d.toNat p.2) c)) ∧
    (∀ p ∈ Claims.systemLanes g, f.sys = p.1 → f.kd = 0 → Plain g f.d →
      exec (.rdsys f) s = .next (after s (setV g f.d.toNat (execMask g c) p.2) c)) ∧
    (∀ p ∈ ([(0x0C, execMask g c), (0x33, g.trapMask)] : List (BitVec 8 × Mask)), f.sys = p.1 → f.kd = 2 →
      exec (.rdsys f) s = .next (after s (setP g f.d.toNat p.2) c))

/-- R18, R19, R68 and R118: wrsys writes FPCTL unless a bit of [31:9] is set, FFLAGS in the lanes of EXEC unless a lane
sets a bit of [31:5], which writes no lane, and SRSEED with 1 in place of 0; lanes that hold poison trap and the others are
written (R125). A refused value is trap 0x01. That bits [63:32] of FPCTL's source are ignored is the model's reading (log entry
114). -/
def Claims.SystemRegisterWrites : Prop :=
  ∀ (f : X) (s : State) (g : Group) (c : Clause), At s g c →
    (f.sys = 0x20 → tget g.sPoison f.d.toNat false = false →
      let v : Word := (sReg g f.d.toNat).truncate 32
      (v.toNat < 2 ^ 9 → exec (.wrsys f) s = .next (after s { g with fpctl := v } c)) ∧
      (2 ^ 9 ≤ v.toNat → exec (.wrsys f) s = .next (trapped s g c 1 (execMask g c) 0xFF 0 []))) ∧
    (f.sys = 0x21 → Plain g f.d → Sound g (execMask g c) f.d →
      ((∀ l, On (execMask g c) l → (readV g f.d l).toNat < 2 ^ 5) →
        exec (.wrsys f) s = .next (after s { g with fflags := mergeLanes (execMask g c) (readV g f.d) g.fflags } c)) ∧
      ((∃ l, On (execMask g c) l ∧ 2 ^ 5 ≤ (readV g f.d l).toNat) →
        exec (.wrsys f) s = .next (trapped s g c 1 (execMask g c) 0xFF 0 []))) ∧
    (f.sys = 0x22 → Plain g f.d → Sound g (execMask g c) f.d →
      exec (.wrsys f) s = .next (after s { g with
        srseed := mergeLanes (execMask g c) (fun l => if readV g f.d l = 0 then 1 else readV g f.d l) g.srseed } c)) ∧
    (f.sys = 0x22 → Plain g f.d →
      let bad := among (execMask g c) fun l => (fieldPoison g f.d).getLsbD l
      bad ≠ 0 → exec (.wrsys f) s = .next (trapped s { g with
        srseed := mergeLanes (execMask g c &&& ~~~bad) (fun l => if readV g f.d l = 0 then 1 else readV g f.d l) g.srseed }
        c 0x70 bad 0xFF 0 []))

namespace Sys2Proof.Claims

/-! ## Memory: R119 to R145 -/

/-- The effective address: bits [47:0] of the base plus the offset scaled by bits [51:48] (R120). -/
def address (g : Group) (sb : BitVec 5) (ofs : Nat) : Nat :=
  (sReg g sb.toNat).toNat % 2 ^ 48 + ofs * 2 ^ ((sReg g sb.toNat).toNat / 2 ^ 48 % 16)

/-- A group may issue a memory instruction with a lane active: its counter has not reached 63, no acquire and no SOR
access holds it, and no fault of it is being served (R15, R138, R279, R309). -/
structure Issues (s : State) (g : Group) (c : Clause) (ctr : BitVec 3) (ox : Option Ox) : Prop where
  standing : At s g c
  active : activeMask g c ox ≠ 0
  counter : cnt g ctr.toNat < 63
  acquired : acqHeld s g = false
  ordered : sorHeld g = false
  served : g.batch = none

/-- The vector fields of a memory instruction are plain and sound, and its scalars hold no poison (R9, R125, R126). -/
structure Operands (g : Group) (act : Mask) (srcs dsts : List (BitVec 7)) (scals : List Nat) : Prop where
  plain : ∀ f ∈ srcs ++ dsts, Plain g f
  sound : ∀ f ∈ srcs, Sound g act f
  scalars : ∀ n ∈ scals, tget g.sPoison n false = false

/-- The page of an access is mapped with the access allowed, its words can be reached, and a replay holds a run for an
atomic (R122, R274, R336, R347). A read of a discarded page needs no word. -/
def Reaches (s : State) (g : Group) (acc : Acc) (size va : Nat) (leaf : Leaf) : Prop :=
  va % size = 0 ∧ xlat s g.ctx g.core va acc = .ok leaf ∧
  (leaf.dsc = true ∧ acc = .read ∨
    ∀ w ∈ accWords (leaf.at va) size, lostCause s (some g.core) w acc (needMask (leaf.at va) size) = none) ∧
  (acc = .atom → logMode s g.ctx = 2 → noRunLeft s g (va / size * size) (size == 8) = false)

/-- An SOR access waits for the group's earlier ones (R309). -/
def InOrder (g : Group) (act : Mask) (leaf : Nat → Leaf) : Prop := g.ops = [] ∨ ∀ l, On act l → (leaf l).mt ≠ .sor

/-- What a lane's access is to do. -/
def ref (l va : Nat) (leaf : Leaf) (read : Bool) (data : List Word) : LaneRef :=
  ⟨l, va, leaf.at va, locAt (homeCode leaf.home) leaf.pbase, leaf.mt, leaf.dsc && read, data⟩

/-- A group with an operation outstanding: its counter is one higher (R15, R121). -/
def outstanding (s : State) (g : Group) (c : Clause) (ctr : BitVec 3) (kind : OpKind) (dst : Nat) (sp : Bool) (refs : List LaneRef) :
    Group :=
  { g with
    cnt := tput g.cnt ctr.toNat (cnt g ctr.toNat + 1)
    ops := g.ops ++ [⟨s.nextId, kind, ctr.toNat, dst, sp, refs, c.addr + 4 * (c.idx + 1), c.pcs, c.idx + 1, c.hdr⟩] }

/-- The device after an instruction that leaves an operation outstanding, having sent some requests. -/
def issued (s : State) (g : Group) (c : Clause) (ctr : BitVec 3) (kind : OpKind) (dst : Nat) (sp : Bool) (refs : List LaneRef)
    (asks : List Msg) : State :=
  after { s with msgs := s.msgs ++ asks, msgSeq := s.msgSeq + asks.length, nextId := s.nextId + 1 }
    (outstanding s g c ctr kind dst sp refs) c

/-- Requests of one core for lines. -/
def LineRequests (core : Nat) (asks : List Msg) : Prop := ∀ m ∈ asks, m.kind = .rdq ∧ m.src = .core core ∧ m.vals = []

/-- R127 and R129: the loads of memory, with their bytes and whether they extend the sign. The last three are ldg.t. -/
noncomputable def loads : List ((M → Option Ox → Instr) × Nat × Bool) := [
  (.ldgN8, 1, false), (.ldgI8, 1, true), (.ldgN16, 2, false), (.ldgI16, 2, true), (.ldgB32, 4, false), (.ldgB64, 8, false),
  (.ldgB128, 16, false)]
noncomputable def tLoads : List ((M → Option Ox → Instr) × Nat) := [(.ldgTB32, 4), (.ldgTB64, 8), (.ldgTB128, 16)]

/-- R127: the stores to memory with their bytes. -/
noncomputable def stores : List ((M → Option Ox → Instr) × Nat) :=
  [(.stgB8, 1), (.stgB16, 2), (.stgB32, 4), (.stgB64, 8), (.stgB128, 16)]

/-- R127: the scratchpad forms. -/
noncomputable def padLoads : List ((M → Option Ox → Instr) × Nat) := [(.ldsB32, 4), (.ldsB64, 8), (.ldsB128, 16)]
noncomputable def padStores : List ((M → Option Ox → Instr) × Nat) := [(.stsB32, 4), (.stsB64, 8), (.stsB128, 16)]

/-- R128: the forms that act once for the group. -/
noncomputable def groupLoads : List ((MS → Option Ox → Instr) × Nat) :=
  [(.lduB32, 4), (.lduB64, 8), (.lduB128, 16), (.lduB256, 32), (.lduB512, 64)]
noncomputable def groupStores : List ((MS → Option Ox → Instr) × Nat) := [(.stuB32, 4), (.stuB64, 8)]

/-- R131: the atomics without a compare value, and the two with one. -/
noncomputable def atoms : List ((M → Option Ox → Instr) × AtomFn × Nat) := [
  (.atomAddI32, .add, 4), (.atomMinI32, .minS, 4), (.atomMaxI32, .maxS, 4), (.atomMinN32, .minU, 4), (.atomMaxN32, .maxU, 4),
  (.atomAndB32, .and, 4), (.atomOrB32, .or, 4), (.atomXorB32, .xor, 4), (.atomXchgB32, .xchg, 4), (.atomAddI64, .add, 8),
  (.atomXchgB64, .xchg, 8)]
noncomputable def casAtoms : List ((M → Ox → Instr) × Nat) := [(.atomCasB32, 4), (.atomCasB64, 8)]

/-- R134: the reductions. -/
noncomputable def reductions : List ((M → Option Ox → Instr) × RedForm × Nat) := [
  (.redAddF32, .addF32, 4), (.redAddBf16x2, .addBf16x2, 4), (.redAddI32, .addI32, 4), (.redAddI64, .addI64, 8),
  (.redMinF32, .minF32, 4), (.redMaxF32, .maxF32, 4)]

/-- The forms that access memory in each lane, with their bytes and their access; the last two read or write no register. -/
noncomputable def lanedForms : List ((M → Option Ox → Instr) × Nat × Acc × Bool) :=
  loads.map (fun t => (t.1, t.2.1, .read, true)) ++ atoms.map (fun t => (t.1, t.2.2, .atom, true)) ++
  stores.map (fun t => (t.1, t.2, .write, false)) ++ reductions.map fun t => (t.1, t.2.2, .atom, false)

/-- R122 and R336: a lane's access of `size` bytes meets a trap, in the order of the checks: its address is not a multiple of
the size; its translation grants nothing of the kind; its word's owner or home is lost. -/
def Fails (s : State) (g : Group) (acc : Acc) (size va k : Nat) : Prop :=
  va % size ≠ 0 ∧ k = 5 ∨
  va % size = 0 ∧ (k = 0x21 ∨ k = 0x23) ∧ xlat s g.ctx g.core va acc = .fail k ∨
  va % size = 0 ∧ (k = 0x30 ∨ k = 0x31) ∧ ∃ leaf, xlat s g.ctx g.core va acc = .ok leaf ∧ ¬ (leaf.dsc = true ∧ acc = .read) ∧
    (accWords (leaf.at va) size).findSome? (fun w => lostCause s (some g.core) w acc (needMask (leaf.at va) size)) = some k

/-- The lowest of the causes of some lanes. -/
def Lowest (m : Mask) (cause : Nat → Nat) (k : Nat) : Prop := (∃ l, On m l ∧ cause l = k) ∧ ∀ l, On m l → k ≤ cause l

/-- The device after a trap of some lanes of a memory instruction, with the reports of lost data (R122, R336). -/
def accessTrapped (s : State) (g : Group) (c : Clause) (bad : Mask) (cause va : Nat → Nat) (k dst : Nat) : State :=
  let lanes := lanesOn bad
  trapped (reportLanes s g (lanes.map fun l => (l, cause l, va l))) g c k bad dst ((lanes.head?.map va).getD 0)
    (lanes.map fun l => (l, va l))

/-- The registers of a run of `bytes` (R45, R127). -/
def run (d : BitVec 7) (bytes : Nat) : List (BitVec 7) := runFields d ((bytes + 3) / 4)

/-- The values of some fields in a lane. -/
def valuesOf (g : Group) (fs : List (BitVec 7)) (l : Nat) : List Word := fs.map fun f => readV g f l

end Sys2Proof.Claims

open Sys2Proof.Claims in
/-- R120, R121, R127 and R128: loads issue. Every active lane's access is checked, the instruction retires with its counter
one higher, and no register and no byte of memory has changed. -/
def Claims.LoadsIssue : Prop :=
  (∀ p ∈ loads ++ tLoads.map fun t => (t.1, t.2, false), ∀ (f : M) (ox : Option Ox) (s : State) (g : Group) (c : Clause)
    (leaf : Nat → Leaf), Issues s g c f.ctr ox → (p.1 ∈ tLoads.map Prod.fst → ∀ x, ox = some x → x.gp = 0) →
    let act := activeMask g c ox
    let va := fun l => address g f.sb (readV g f.a l).toNat
    Operands g act [f.a] (run f.d p.2.1) [f.sb.toNat] → (∀ l, On act l → Reaches s g .read p.2.1 (va l) (leaf l)) →
    InOrder g act leaf →
    ∃ asks, LineRequests g.core asks ∧ exec (p.1 f ox) s = .next (issued s g c f.ctr (.load p.2.1 p.2.2) f.d.toNat false
      ((lanesOn act).map fun l => ref l (va l) (leaf l) true []) asks)) ∧
  (∀ p ∈ padLoads, ∀ (f : M) (ox : Option Ox) (s : State) (g : Group) (c : Clause) (t : Team), Issues s g c f.ctr ox →
    let act := activeMask g c ox
    let va := fun l => address g f.sb (readV g f.a l).toNat
    Operands g act [f.a] (run f.d p.2) [f.sb.toNat] → teamOfGroup s g = some t →
    (∀ l, On act l → va l % p.2 = 0 ∧ va l + p.2 ≤ t.size) →
    exec (p.1 f ox) s = .next (issued s g c f.ctr (.load p.2 false) f.d.toNat true
      ((lanesOn act).map fun l => ⟨l, va l, va l, 0, .nrm, false, []⟩) [])) ∧
  (∀ p ∈ groupLoads, ∀ (f : MS) (ox : Option Ox) (s : State) (g : Group) (c : Clause) (leaf : Leaf), Issues s g c f.ctr ox →
    let va := address g f.sb ((sReg g f.a.toNat).toNat % 2 ^ 32)
    Operands g (activeMask g c ox) [] [] [f.sb.toNat, f.a.toNat] → Reaches s g .read p.2 va leaf → g.ops = [] ∨ leaf.mt ≠ .sor →
    ∃ asks, LineRequests g.core asks ∧ exec (p.1 f ox) s = .next (issued s g c f.ctr (.loadU p.2) f.d.toNat false
      [ref 128 va leaf true []] asks))

open Sys2Proof.Claims in
/-- R121, R127 and R128: stores issue with the data that they will store. They change no memory: STORE_COMPLETE does. -/
def Claims.StoresIssue : Prop :=
  (∀ p ∈ stores, ∀ (f : M) (ox : Option Ox) (s : State) (g : Group) (c : Clause) (leaf : Nat → Leaf), Issues s g c f.ctr ox →
    let act := activeMask g c ox
    let va := fun l => address g f.sb (readV g f.a l).toNat
    Operands g act (f.a :: run f.d p.2) [] [f.sb.toNat] → (∀ l, On act l → Reaches s g .write p.2 (va l) (leaf l)) →
    InOrder g act leaf →
    exec (p.1 f ox) s = .next (issued s g c f.ctr (.store p.2) f.d.toNat false
      ((lanesOn act).map fun l => ref l (va l) (leaf l) false (valuesOf g (run f.d p.2) l)) [])) ∧
  (∀ p ∈ padStores, ∀ (f : M) (ox : Option Ox) (s : State) (g : Group) (c : Clause) (t : Team), Issues s g c f.ctr ox →
    let act := activeMask g c ox
    let va := fun l => address g f.sb (readV g f.a l).toNat
    Operands g act (f.a :: run f.d p.2) [] [f.sb.toNat] → teamOfGroup s g = some t →
    (∀ l, On act l → va l % p.2 = 0 ∧ va l + p.2 ≤ t.size) →
    exec (p.1 f ox) s = .next (issued s g c f.ctr (.store p.2) f.d.toNat true
      ((lanesOn act).map fun l => ⟨l, va l, va l, 0, .nrm, false, valuesOf g (run f.d p.2) l⟩) [])) ∧
  (∀ p ∈ groupStores, ∀ (f : MS) (ox : Option Ox) (s : State) (g : Group) (c : Clause) (leaf : Leaf), Issues s g c f.ctr ox →
    let va := address g f.sb ((sReg g f.a.toNat).toNat % 2 ^ 32)
    Operands g (activeMask g c ox) [] [] [f.sb.toNat, f.a.toNat, f.d.toNat] → Reaches s g .write p.2 va leaf →
    g.ops = [] ∨ leaf.mt ≠ .sor →
    exec (p.1 f ox) s = .next (issued s g c f.ctr (.store p.2) 0xFF false
      [ref 128 va leaf false [(sReg g f.d.toNat).extractLsb' 0 32, (sReg g f.d.toNat).extractLsb' 32 32]] []))

open Sys2Proof.Claims in
/-- R131 and R134: atomics and reductions issue. A reduction's lanes join the partial of its group at once. -/
def Claims.AtomicsIssue : Prop :=
  (∀ p ∈ atoms, ∀ (f : M) (ox : Option Ox) (s : State) (g : Group) (c : Clause) (leaf : Nat → Leaf), Issues s g c f.ctr ox →
    let act := activeMask g c ox
    let va := fun l => address g f.sb (readV g f.a l).toNat
    Operands g act (f.a :: run f.d p.2.2) [] [f.sb.toNat] → (∀ l, On act l → Reaches s g .atom p.2.2 (va l) (leaf l)) →
    InOrder g act leaf →
    exec (p.1 f ox) s = .next (issued s g c f.ctr (.atom p.2.1 p.2.2) f.d.toNat false
      ((lanesOn act).map fun l => ref l (va l) (leaf l) false (valuesOf g (run f.d p.2.2) l)) [])) ∧
  (∀ p ∈ casAtoms, ∀ (f : M) (ox : Ox) (s : State) (g : Group) (c : Clause) (leaf : Nat → Leaf), Issues s g c f.ctr (some ox) →
    let act := activeMask g c (some ox)
    let va := fun l => address g f.sb (readV g f.a l).toNat
    Operands g act (f.a :: (run f.d p.2 ++ run ox.c p.2)) [] [f.sb.toNat] →
    (∀ l, On act l → Reaches s g .atom p.2 (va l) (leaf l)) → InOrder g act leaf →
    exec (p.1 f ox) s = .next (issued s g c f.ctr (.atom .cas p.2) f.d.toNat false
      ((lanesOn act).map fun l => ref l (va l) (leaf l) false (valuesOf g (run f.d p.2 ++ run ox.c p.2) l)) [])) ∧
  (∀ p ∈ reductions, ∀ (f : M) (ox : Option Ox) (s : State) (g : Group) (c : Clause) (leaf : Nat → Leaf), Issues s g c f.ctr ox →
    let act := activeMask g c ox
    let va := fun l => address g f.sb (readV g f.a l).toNat
    let refs := (lanesOn act).map fun l => ref l (va l) (leaf l) false (valuesOf g (run f.d p.2.2) l)
    Operands g act (f.a :: run f.d p.2.2) [] [f.sb.toNat] → (∀ l, On act l → Reaches s g .atom p.2.2 (va l) (leaf l)) →
    InOrder g act leaf → redRoom s g p.2.1 refs = true →
    exec (p.1 f ox) s = .next (issued { s with reds := (redAddAll s g p.2.1 refs).reds } g c f.ctr .red 0xFF false refs []))

open Sys2Proof.Claims in
/-- R121, R122, R274, R336: lanes whose access fails trap with the lowest cause, each with its address, while the others perform
their access: stores and loads with some lanes failing (the causes 0x05, 0x21, 0x30, 0x31), and every form of R127 to R134 with
one address in each lane where all its active lanes fail (0x23 among the causes). -/
def Claims.AccessTraps : Prop :=
  (∀ p ∈ stores, ∀ (f : M) (ox : Option Ox) (s : State) (g : Group) (c : Clause) (leaf : Nat → Leaf) (bad : Mask)
    (cause : Nat → Nat) (k : Nat), Issues s g c f.ctr ox →
    let act := activeMask g c ox
    let va := fun l => address g f.sb (readV g f.a l).toNat
    let rest := act &&& ~~~bad
    Operands g act (f.a :: run f.d p.2) [] [f.sb.toNat] → bad &&& ~~~act = 0 → rest ≠ 0 →
    (∀ l, On bad l → Fails s g .write p.2 (va l) (cause l)) → (∀ l, On rest l → Reaches s g .write p.2 (va l) (leaf l)) →
    InOrder g rest leaf → Lowest bad cause k →
    exec (p.1 f ox) s = .next (accessTrapped { s with nextId := s.nextId + 1 } (outstanding s g c f.ctr (.store p.2) f.d.toNat false
      ((lanesOn rest).map fun l => ref l (va l) (leaf l) false (valuesOf g (run f.d p.2) l))) c bad cause va k 0xFF)) ∧
  (∀ p ∈ loads, ∀ (f : M) (ox : Option Ox) (s : State) (g : Group) (c : Clause) (leaf : Nat → Leaf) (bad : Mask)
    (cause : Nat → Nat) (k : Nat), Issues s g c f.ctr ox →
    let act := activeMask g c ox
    let va := fun l => address g f.sb (readV g f.a l).toNat
    let rest := act &&& ~~~bad
    Operands g act [f.a] (run f.d p.2.1) [f.sb.toNat] → bad &&& ~~~act = 0 → rest ≠ 0 →
    (∀ l, On bad l → Fails s g .read p.2.1 (va l) (cause l)) → (∀ l, On rest l → Reaches s g .read p.2.1 (va l) (leaf l)) →
    InOrder g rest leaf → Lowest bad cause k →
    ∃ asks, LineRequests g.core asks ∧ exec (p.1 f ox) s = .next (accessTrapped
      { s with msgs := s.msgs ++ asks, msgSeq := s.msgSeq + asks.length, nextId := s.nextId + 1 }
      (outstanding s g c f.ctr (.load p.2.1 p.2.2) f.d.toNat false ((lanesOn rest).map fun l => ref l (va l) (leaf l) true []))
      c bad cause va k f.d.toNat)) ∧
  (∀ p ∈ lanedForms, ∀ (f : M) (ox : Option Ox) (s : State) (g : Group) (c : Clause) (cause : Nat → Nat) (k : Nat),
    Issues s g c f.ctr ox →
    let act := activeMask g c ox
    let va := fun l => address g f.sb (readV g f.a l).toNat
    let data := run f.d p.2.1
    Operands g act (f.a :: if p.2.2.1 = .read then [] else data) (if p.2.2.1 = .read then data else []) [f.sb.toNat] →
    (∀ l, On act l → Fails s g p.2.2.1 p.2.1 (va l) (cause l)) → Lowest act cause k →
    exec (p.1 f ox) s = .next (accessTrapped s g c act cause va k (if p.2.2.2 then f.d.toNat else 0xFF)))

open Sys2Proof.Claims in
/-- R279: a memory instruction all of whose lanes meet an absent page, or a discarded one that they would write, makes no trap but
a fault batch with the pages, and stands. -/
def Claims.AccessBatches : Prop :=
  ∀ p ∈ lanedForms, ∀ (f : M) (ox : Option Ox) (s : State) (g : Group) (c : Clause) (k : Nat), k = 0x20 ∨ k = 0x22 →
    Issues s g c f.ctr ox →
    let act := activeMask g c ox
    let va := fun l => address g f.sb (readV g f.a l).toNat
    let data := run f.d p.2.1
    Operands g act (f.a :: if p.2.2.1 = .read then [] else data) (if p.2.2.1 = .read then data else []) [f.sb.toNat] →
    (∀ l, On act l → va l % p.2.1 = 0) → (∀ l, On act l → xlat s g.ctx g.core (va l) p.2.2.1 = .fail k) →
    ∃ t h b, exec (p.1 f ox) s = .next t ∧ groupAt t g.core g.slot = some h ∧ h.batch = some b ∧ b.what = .lanes act ∧
      b.released = false ∧ h.clause = g.clause ∧ SameRegisters h g ∧ t.mem = s.mem ∧
      (∀ l, On act l → (∃ q ∈ b.pages, q.page = va l / 4096 * 4096 ∧ q.cause = k) ∨ b.pages.length = 32)

/-- R274, R275, R292 and R336: what a translation that a TLB level holds grants, with the cause where it does not; and when a
word is lost to an access. -/
def Claims.GrantsOfAccess : Prop :=
  (∀ (s : State) (ctx core va : Nat) (acc : Acc) (l : Leaf), va < 2 ^ 48 → tlbFind s ctx core va = some l →
    (l.home = .twin → s.isW = true) →
    xlat s ctx core va acc =
      match acc with
      | .fetch => if l.x = true ∧ l.r = true ∧ l.mt = .nrm ∧ l.dsc = false then .ok l else .fail 0x21
      | .read => if l.r = true then .ok l else .fail 0x21
      | .write => if l.w = false then .fail 0x21 else if l.dsc = true then .fail 0x22 else .ok l
      | .atom => if l.r = false ∨ l.w = false then .fail 0x21 else if l.dsc = true then .fail 0x22
          else if l.home = .loc ∧ l.ac ≠ .none ∨ l.home = .twin ∧ (l.ac = .pair ∨ l.ac = .sys) ∨ l.home = .host ∧ l.ac = .sys then .ok l
          else .fail 0x23) ∧
  (∀ (s : State) (ctx core va : Nat) (acc : Acc) (l : Leaf), va < 2 ^ 48 → tlbFind s ctx core va = some l → l.home = .twin →
    s.isW = false → xlat s ctx core va acc = .fail 0x21) ∧
  (∀ (s : State) (ctx core va : Nat) (acc : Acc), 2 ^ 48 ≤ va → xlat s ctx core va acc = .fail 0x21) ∧
  (∀ (s : State) (core w : Nat) (acc : Acc) (need : BitVec 4), ¬ (homeOf w = 1 ∧ s.isW = true ∧ s.twinUp = false) →
    lostCause s (some core) w acc need = if homeSt s w = some .lost ∧ acc ≠ .write then some 0x30 else none) ∧
  (∀ (s : State) (core w : Nat) (acc : Acc) (need : BitVec 4), homeOf w = 1 → s.isW = true → s.twinUp = false →
    (acc = .write → lostCause s (some core) w acc need = none) ∧
    (acc ≠ .write → l1Copy s core w = none → need &&& ~~~(heldBytes s .rdc w).2.1 ≠ 0 → lostCause s (some core) w acc need = some 0x31))

open Sys2Proof.Claims in
/-- R129 and R130: with a guard to write, the lanes of ldg.t whose pages no TLB level holds complete at once and are left
in the guard, and the others load and leave it; a prefetch whose lanes translate asks for lines and changes nothing that a
program reads, and one with a lane whose walk has still to be made asks for walks alone. -/
def Claims.TranslatedLoadsAndPrefetches : Prop :=
  (∀ p ∈ tLoads, ∀ (f : M) (x : Ox) (s : State) (g : Group) (c : Clause) (leaf : Nat → Leaf), Issues s g c f.ctr (some x) → x.gp ≠ 0 →
    let act := activeMask g c (some x)
    let va := fun l => address g f.sb (readV g f.a l).toNat
    let miss := among act fun l => (tlbFind s g.ctx g.core (va l)).isNone
    let hit := act &&& ~~~miss
    Operands g act [f.a] (run f.d p.2) [f.sb.toNat] → (∀ l, On act l → va l % p.2 = 0 ∧ va l < 2 ^ 48) →
    (∀ l, On hit l → Reaches s g .read p.2 (va l) (leaf l)) → InOrder g hit leaf → hit ≠ 0 →
    ∃ t h, exec (p.1 f (some x)) s = .next t ∧ groupAt t g.core g.slot = some h ∧
      pReg h x.gp.toNat = (if x.gn then pReg g x.gp.toNat ||| hit else pReg g x.gp.toNat &&& ~~~hit) ∧
      cnt h f.ctr.toNat = cnt g f.ctr.toNat + 1 ∧
      (∃ o, h.ops = g.ops ++ [o] ∧ o.kind = .load p.2 false ∧ o.dst = f.d.toNat ∧
        o.lanes = (lanesOn hit).map fun l => ref l (va l) (leaf l) true []) ∧
      h.v = g.v ∧ h.s = g.s ∧ (∀ n, n ≠ x.gp.toNat → pReg h n = pReg g n) ∧ t.mem = s.mem ∧ t.l1 = s.l1 ∧ t.teams = s.teams) ∧
  (∀ p ∈ ([.pfL1, .pfL2, .pfRdc] : List (MP → Option Ox → Instr)), ∀ (f : MP) (ox : Option Ox) (s : State) (g : Group) (c : Clause),
    Issues s g c f.ctr ox → Operands g 0 [f.a] [] [f.sb.toNat] →
    let walked (l : Nat) : Prop := (fieldPoison g f.a).getLsbD l = true ∨
      xlat s g.ctx g.core (address g f.sb (readV g f.a l).toNat) .read ≠ .miss
    ((∀ l, On (activeMask g c ox) l → walked l) →
      ∃ asks slots fails evs, (∀ m ∈ asks, m.kind = .rdq ∧ (m.src = .core g.core ∨ m.src = .rdc) ∧ m.vals = []) ∧
        (∀ line, cached s line = true → slots.any (fun x => x.contains line) = true) ∧ (∀ x ∈ fails, x ∈ s.walkFails) ∧
        ((∀ l, On (activeMask g c ox) l → xlat s g.ctx g.core (address g f.sb (readV g f.a l).toNat) .read ≠ .fail 0x70) → evs = s.events) ∧
        exec (p f ox) s = .next (after { s with msgs := s.msgs ++ asks, msgSeq := s.msgSeq + asks.length, l2 := slots,
                                                walkFails := fails, events := evs } g c)) ∧
    ((∃ l, On (activeMask g c ox) l ∧ ¬ walked l) → ∃ t, exec (p f ox) s = .next t ∧ t = { s with walkQ := t.walkQ }))

namespace Sys2Proof.Claims

/-- An operation of a group is outstanding under a name, and its turn has come (R15, R121, R123, R309). -/
structure Outstanding (s : State) (g : Group) (o : MemOp) : Prop where
  place : groupAt s g.core g.slot = some g
  found : g.ops.find? (fun p => p.id == o.id) = some o
  turn : opTurn s g o = true

/-- No word that an operation brings is lost with its owner or its home (R336). -/
def NoneLost (s : State) (g : Group) (o : MemOp) (acc : Acc) : Prop :=
  ∀ r ∈ o.lanes, o.sp = true ∨ r.zero = true ∨
    ∀ w ∈ accWords r.loc o.kind.bytes, lostCause s (some g.core) w acc (needMask r.loc o.kind.bytes) = none

/-- The L1 has places for all the lines together that a store reaches and that it does not hold, and the words of 8 bytes
are both registered, by one registration, or neither is. -/
def L1Takes (s : State) (g : Group) (o : MemOp) : Prop :=
  (let new := ((l1Stores o).map lineBase).dedup.filter fun l => !(l1Lines s g.core).contains l;
    new = [] ∨ (l1Lines s g.core).length + new.length ≤ l1Room s g.core) ∧
  (8 ≤ o.kind.bytes → ∀ w ∈ l1Stores o, w % 8 = 0 →
    regHeld (l1Copy s g.core w) = regHeld (l1Copy s g.core (w + 4)) ∧
    (regHeld (l1Copy s g.core w) = true → regSplit s g.core w = false))

/-- What a load has done to the L1s: the words that it read at their homes, on DEV and SOR pages, are clean in none, and all
else is as it was (item 3 of R302). -/
def ReadAtHome (s t : State) (o : MemOp) : Prop :=
  (devWords o = [] → t.l1 = s.l1 ∧ t.msgs = s.msgs) ∧
  (∀ core w, w ∉ devWords o → l1Copy t core w = l1Copy s core w) ∧
  (∀ core, ∀ w ∈ devWords o, ∀ k, l1Copy t core w = some k → k.st ≠ .cln)

/-- The operation has ended: it is gone and its counter is one lower. -/
def Ended (g h : Group) (o : MemOp) : Prop :=
  h.ops = g.ops.filter (fun p => p.id ≠ o.id) ∧ h.cnt = tput g.cnt o.ctr (cnt g o.ctr - 1)

/-- The value that a load of 1, 2 or more bytes puts into register `i` of its run (R127). -/
def loaded (bytes : Nat) (signed : Bool) (loc : Nat) (ws : List (Word × Bool)) (i : Nat) : Word :=
  let w := (ws.getD i (0, false)).1
  if bytes = 1 then (let b := w.extractLsb' (8 * (loc % 4)) 8; if signed then b.signExtend 32 else b.zeroExtend 32)
  else if bytes = 2 then (let b := w.extractLsb' (8 * (loc % 4)) 16; if signed then b.signExtend 32 else b.zeroExtend 32)
  else w

/-- A lane of an operation stores to a byte (R121): the byte lies in the `bytes` bytes at its location. -/
def StoresTo (bytes : Nat) (r : LaneRef) (a : Nat) : Prop := r.loc ≤ a ∧ a < r.loc + bytes

/-- The byte that a lane stores there. -/
def byteStored (r : LaneRef) (a : Nat) : BitVec 8 := ((r.data.getD ((a - r.loc) / 4) 0).extractLsb' (8 * ((a - r.loc) % 4)) 8)

/-- The lane whose store to a byte stands: the highest of those that store to it (R123). -/
def Stands (o : MemOp) (bytes : Nat) (r : LaneRef) (a : Nat) : Prop :=
  r ∈ o.lanes ∧ StoresTo bytes r a ∧ ∀ q ∈ o.lanes, StoresTo bytes q a → q.lane < r.lane ∨ q = r

/-- A store is well formed: sizes of R127, aligned lanes, one entry a lane, and the data of the size. -/
def GoodStore (o : MemOp) (bytes : Nat) : Prop :=
  bytes ∈ [1, 2, 4, 8, 16] ∧ (o.lanes.map LaneRef.lane).Nodup ∧
  ∀ r ∈ o.lanes, r.loc % bytes = 0 ∧ r.data.length = (bytes + 3) / 4

end Sys2Proof.Claims

open Sys2Proof.Claims in
/-- R121, R125, R127 and R128: LOAD_COMPLETE delivers the words of every lane to its registers, with their poison marks,
and nothing else: other lanes and registers, the scalars, memory and the caches stay, but for clean copies of words read at
their homes. A load of the group fills scalars. That all lanes are delivered in one event is the model's choice (log entry 20). -/
def Claims.LoadsComplete : Prop :=
  (∀ (s : State) (g : Group) (o : MemOp) (bytes : Nat) (signed : Bool) (data : Nat → List (Word × Bool)),
    Outstanding s g o → o.kind = .load bytes signed → bytes ∈ [1, 2, 4, 8, 16] → (o.lanes.map LaneRef.lane).Nodup →
    (∀ r ∈ o.lanes, r.lane < 128 ∧ r.loc % bytes = 0 ∧ laneWords s g o r = some (data r.lane)) →
    snoopLines s (devWords o) = [] → racingLanes ((devWords o).foldl readHome s) g o = [] → NoneLost s g o .read →
    ∃ t h, exec (.loadComplete g.core g.slot o.id) s = .next t ∧ groupAt t g.core g.slot = some h ∧ Ended g h o ∧
      (∀ r ∈ o.lanes, ∀ i, i < (bytes + 3) / 4 →
        lane (vReg h (o.dst + i)) r.lane = loaded bytes signed r.loc (data r.lane) i ∧
        (tget h.vPoison (o.dst + i) 0).getLsbD r.lane = ((data r.lane).getD i (0, false)).2) ∧
      (∀ n l, l < 128 → (¬ (o.dst ≤ n ∧ n < o.dst + (bytes + 3) / 4) ∨ ∀ r ∈ o.lanes, r.lane ≠ l) →
        lane (vReg h n) l = lane (vReg g n) l) ∧
      h.s = g.s ∧ h.p = g.p ∧ h.queues = g.queues ∧ h.fflags = g.fflags ∧ t.mem = s.mem ∧ t.teams = s.teams ∧
      ReadAtHome s t o) ∧
  (∀ (s : State) (g : Group) (o : MemOp) (bytes : Nat) (r : LaneRef) (ws : List (Word × Bool)),
    Outstanding s g o → o.kind = .loadU bytes → bytes ∈ [4, 8, 16, 32, 64] → o.lanes = [r] → laneWords s g o r = some ws →
    snoopLines s (devWords o) = [] → racingLanes ((devWords o).foldl readHome s) g o = [] → NoneLost s g o .read →
    ∃ t h, exec (.loadComplete g.core g.slot o.id) s = .next t ∧ groupAt t g.core g.slot = some h ∧ Ended g h o ∧
      (bytes = 4 → sReg h o.dst = (ws.getD 0 (0, false)).1.zeroExtend 64) ∧
      (∀ i, bytes ≠ 4 → i < bytes / 8 →
        sReg h (o.dst + i) = (ws.getD (2 * i + 1) (0, false)).1 ++ (ws.getD (2 * i) (0, false)).1) ∧
      (∀ n, ¬ (o.dst ≤ n ∧ n < o.dst + (bytes + 7) / 8) → sReg h n = sReg g n) ∧
      h.v = g.v ∧ h.p = g.p ∧ t.mem = s.mem ∧ ReadAtHome s t o) ∧
  (∀ (s : State) (core slot id : Nat), groupAt s core slot = none → exec (.loadComplete core slot id) s = .next s)

open Sys2Proof.Claims in
/-- R121, R123, R300 and R309: STORE_COMPLETE performs a store. On an NRM page it goes into the core's L1, of each byte the
highest lane's value, and the memory of every home, the other cores and the words not stored to stay, beside what makes
room for it: `u` is the device with clean lines dropped, and with a registered word given up whose other half is not
registered. In the scratchpad it changes only the bytes stored. That all lanes are performed in the event in which the counter
falls is the model's choice (log entries 20, 31). -/
def Claims.StoresComplete : Prop :=
  (∀ (s u : State) (g : Group) (o : MemOp) (bytes : Nat), Outstanding s g o → o.kind = .store bytes → GoodStore o bytes →
    o.sp = false → (∀ r ∈ o.lanes, r.mt = .nrm) → storeReady s g o = some u →
    ∃ t h, exec (.storeComplete g.core g.slot o.id) s = .next t ∧ groupAt t g.core g.slot = some h ∧ Ended g h o ∧
      h.v = g.v ∧ h.s = g.s ∧ h.p = g.p ∧ t.mem = s.mem ∧ t.homes = s.homes ∧ t.msgs = u.msgs ∧ t.teams = s.teams ∧
      (∀ r a, Stands o bytes r a → ∃ copy, l1Copy t g.core (a / 4 * 4) = some copy ∧ copy.mask.getLsbD (a % 4) = true ∧
        (copy.st = .drt ∨ copy.st = .reg) ∧ copy.val.extractLsb' (8 * (a % 4)) 8 = byteStored r a) ∧
      (∀ core w, (core ≠ g.core ∨ ∀ r ∈ o.lanes, ∀ a, StoresTo bytes r a → a / 4 * 4 ≠ w) → l1Copy t core w = l1Copy u core w)) ∧
  (∀ (s : State) (g : Group) (o : MemOp) (bytes : Nat), o.kind = .store bytes → o.sp = false → (∀ r ∈ o.lanes, r.mt = .nrm) →
    (L1Takes s g o → storeReady s g o = some s) ∧
    (∀ u, storeReady s g o = some u → u.mem = s.mem ∧ u.homes = s.homes ∧ u.groups = s.groups ∧ u.teams = s.teams ∧
      (∀ core w, core ≠ g.core → l1Copy u core w = l1Copy s core w) ∧
      ∀ w k, l1Copy s g.core w = some k → k.st = .drt → l1Copy u g.core w = some k) ∧
    (Outstanding s g o → storeReady s g o = none → exec (.storeComplete g.core g.slot o.id) s = .next s)) ∧
  (∀ (s : State) (g : Group) (o : MemOp) (bytes : Nat) (t0 : Team), Outstanding s g o → o.kind = .store bytes → GoodStore o bytes →
    o.sp = true → teamOfGroup s g = some t0 → (s.teams.map Team.key).Nodup → Memory.wf t0.mem = true →
    ∃ t h t1, exec (.storeComplete g.core g.slot o.id) s = .next t ∧ groupAt t g.core g.slot = some h ∧ Ended g h o ∧
      teamOf t t0.key = some t1 ∧ t.mem = s.mem ∧ t.l1 = s.l1 ∧
      (∀ r a, Stands o bytes r a → memByte t1.mem a = byteStored r a) ∧
      (∀ a, (∀ r ∈ o.lanes, ¬ StoresTo bytes r a) → memByte t1.mem a = memByte t0.mem a) ∧
      (∀ key, key ≠ t0.key → teamOf t key = teamOf s key))

open Sys2Proof.Claims in
/-- R121, R274, R300, R309 and R322: on a page of another memory type the store is performed at the home: every byte outside
those stored is unchanged, and a registered word stored whole is VAL again (in that step: log entry 71). A part of a registered word
goes to its owner in an MFWD where the page is WCB, and no memory changes; on DEV and SOR pages the word is recalled first, so
that every later load finds the store (item 2 of R302; the recall is the model's reading, log entry 71). That the store is performed
in the event in which the counter falls is the model's choice (log entry 31). -/
def Claims.StoresAtHome : Prop :=
  ∀ (s : State) (g : Group) (o : MemOp) (bytes : Nat) (r : LaneRef), Outstanding s g o → o.kind = .store bytes → GoodStore o bytes →
    o.sp = false → o.lanes = [r] → r.mt ≠ .nrm → MemoryOk s →
    (∀ w ∈ accWords r.loc bytes, isLost s w = false ∧ ¬ (homeOf w = 1 ∧ twinGone s = true) ∧
      (homeOf w = 2 → tfind s.hostLines (w / 128 * 128) = none ∧ hostBusy s (w / 128 * 128) = false) ∧
      (r.mt ≠ .wcb → ownerWaits s w = false)) → snoopLines s (homeStores o) = [] →
    ((4 ≤ bytes ∨ ∀ w ∈ accWords r.loc bytes, homeSt s w = none) →
      ∃ t h, exec (.storeComplete g.core g.slot o.id) s = .next t ∧ groupAt t g.core g.slot = some h ∧ Ended g h o ∧
        (∀ a, StoresTo bytes r a → memByte t.mem a = byteStored r a) ∧
        (∀ a, ¬ StoresTo bytes r a → memByte t.mem a = memByte s.mem a) ∧
        (∀ w ∈ accWords r.loc bytes, homeOf w ≠ 2 → homeSt t w = none) ∧ h.v = g.v ∧ h.s = g.s) ∧
    (bytes < 4 → r.mt ≠ .wcb → r.zero = false → (ownerOf s (r.loc / 4 * 4)).isSome = true →
      exec (.storeComplete g.core g.slot o.id) s = .next (recallWords s [r.loc / 4 * 4])) ∧
    (∀ u, bytes < 4 → r.mt = .wcb → homeOf r.loc < 2 → (homeOf r.loc = 1 → rdcCopy s (r.loc / 4 * 4) = none) →
      ownerOf s (r.loc / 4 * 4) = some u →
      ∃ t h m x, exec (.storeComplete g.core g.slot o.id) s = .next t ∧ groupAt t g.core g.slot = some h ∧ Ended g h o ∧
        t.mem = s.mem ∧ t.homes = s.homes ∧ m ∈ t.msgs ∧ m.kind = .mfwd ∧ m.dst = u ∧ m.vals = [x] ∧ x.word = r.loc / 4 * 4 ∧
        (∀ a, StoresTo bytes r a → x.mask.getLsbD (a % 4) = true ∧ x.val.extractLsb' (8 * (a % 4)) 8 = byteStored r a) ∧
        ∀ i, i < 4 → x.mask.getLsbD i = true → StoresTo bytes r (r.loc / 4 * 4 + i))

namespace Sys2Proof.Claims

/-- R131: the new word of an atomic of 32 bits. -/
def atomic32 (fn : AtomFn) (old d c : Word) : Word := match fn with
  | .add => old + d
  | .minS => if old.toInt ≤ d.toInt then old else d
  | .maxS => if old.toInt ≤ d.toInt then d else old
  | .minU => if old.toNat ≤ d.toNat then old else d
  | .maxU => if old.toNat ≤ d.toNat then d else old
  | .and => old &&& d
  | .or => old ||| d
  | .xor => old ^^^ d
  | .xchg => d
  | .cas => if old = c then d else old

/-- R131: the new word of an atomic of 64 bits. -/
def atomic64 (fn : AtomFn) (old d c : DWord) : Option DWord := match fn with
  | .add => some (old + d)
  | .xchg => some d
  | .cas => some (if old = c then d else old)
  | _ => none

end Sys2Proof.Claims

open Sys2Proof.Claims in
/-- R131, R302 and R328: an atomic of one lane on a word that its core holds registered, with no transfer of it on its way, leaves the new word there and the
old one in D, and no clean copy of the word stands anywhere; a lane on a word that the core does not hold asks the home
with ATQ and changes no value.
That the clean copies go in the step of the write is the model's choice (log entry 122). -/
def Claims.AtomicsPerform : Prop :=
  (∀ (fn : AtomFn) (old d c : Word), loWord (atomNew fn 4 (old.zeroExtend 64) (d.zeroExtend 64) (c.zeroExtend 64)) = atomic32 fn old d c) ∧
  (∀ (fn : AtomFn) (old d c new : DWord), atomic64 fn old d c = some new → atomNew fn 8 old d c = new) ∧
  (∀ (s : State) (g : Group) (o : MemOp) (fn : AtomFn) (r : LaneRef) (copy : Copy), Outstanding s g o → o.kind = .atom fn 4 →
    o.lanes = [r] → o.sp = false → r.lane < 128 → r.mt = .nrm → homeOf r.loc = 0 → r.loc % 4 = 0 → logMode s g.ctx = 0 →
    s.runs = [] → isLost s r.loc = false → handedOn s (.core g.core) (· == r.loc) = false →
    l1Copy s g.core r.loc = some copy → copy.st = .reg → copy.held = 0xF → copy.poison = false →
    ∃ t h, exec (.loadComplete g.core g.slot o.id) s = .next t ∧ groupAt t g.core g.slot = some h ∧ Ended g h o ∧
      lane (vReg h o.dst) r.lane = copy.val ∧
      (∀ n l, l < 128 → n ≠ o.dst ∨ l ≠ r.lane → lane (vReg h n) l = lane (vReg g n) l) ∧
      (∃ k, l1Copy t g.core r.loc = some k ∧ k.st = .reg ∧ k.val = atomic32 fn copy.val (r.data.getD 0 0) (r.data.getD 1 0)) ∧
      (∀ core w, w ≠ r.loc → l1Copy t core w = l1Copy s core w) ∧
      (∀ core k, l1Copy t core r.loc = some k → k.st ≠ .cln) ∧ t.mem = s.mem ∧
      t.msgs.length = s.msgs.length ∧
      ∀ (i : Nat) (m : Msg), s.msgs[i]? = some m → ∃ b, t.msgs[i]? = some { m with void := b }) ∧
  (∀ (s : State) (g : Group) (o : MemOp) (fn : AtomFn) (r : LaneRef), Outstanding s g o → o.kind = .atom fn 4 → o.lanes = [r] →
    o.sp = false → r.mt = .nrm → homeOf r.loc = 0 → r.loc % 4 = 0 → isLost s r.loc = false → l1Copy s g.core r.loc = none →
    rdcCopy s r.loc = none → atqPending s g.core r.loc = false → logHeld s g = false →
    exec (.loadComplete g.core g.slot o.id) s = .next (send (voidFills s (.core g.core) fun l => l == r.loc / 128 * 128)
      { kind := .atq, src := .core g.core, dst := .slice (sliceOf r.loc), addr := r.loc / 128 * 128, who := .core g.core,
        ctx := some g.ctx, tag := r.va / 4 * 4 % 2 ^ 48, words := [r.loc] }))

namespace Sys2Proof.Claims

/-- What a lane contributes to a word in one red instruction (R134). -/
def laneShare (form : RedForm) (refs : List LaneRef) (loc l : Nat) : Option DWord :=
  (refs.find? fun r => r.lane == l && r.loc == loc).map fun r =>
    (if form = .addI64 then r.data.getD 1 0 else 0) ++ r.data.getD 0 0

/-- The result of block `b` of 2^m lanes (R135): blocks pair with their neighbours, the lower one on the left, and a block
with no contributing lane passes its partner's value through. -/
def redBlock (form : RedForm) (share : Nat → Option DWord) : Nat → Nat → Option DWord
  | 0, b => share b
  | m + 1, b => match redBlock form share m (2 * b), redBlock form share m (2 * b + 1) with
    | some x, some y => some (redCombine form x y)
    | some x, none => some x
    | none, y => y

end Sys2Proof.Claims

open Sys2Proof.Claims in
/-- R134, R135 and R331: the contribution of one instruction to a word is the combination of its lanes over the binary tree
by lane number, for every form; integer addition cannot see the tree. Partials fold into the parent of their node. That a red
makes its contribution when its word issues is the model's choice (log entry 31). -/
def Claims.Reductions : Prop :=
  (∀ (form : RedForm) (refs : List LaneRef) (loc : Nat),
    redInstr form refs loc = redBlock form (laneShare form refs loc) 7 0) ∧
  (∀ (refs : List LaneRef) (loc : Nat), (refs.map LaneRef.lane).Nodup → (∀ r ∈ refs, r.lane < 128) →
    (∃ r ∈ refs, r.loc = loc) →
    (redInstr .addI32 refs loc).map (fun v => v.toNat % 2 ^ 32) =
      some (((refs.filter fun r => r.loc == loc).map fun r => (r.data.getD 0 0).toNat).sum % 2 ^ 32)) ∧
  (∀ (s : State) (idx : Nat) (n : RedNode), s.reds[idx]? = some n →
    (n.level < 3 ∧ redClosed s n = true ∧ foldTurn s n = true → ∃ t, exec (.redNodeFold idx) s = .next t ∧
      t = { s with reds := t.reds } ∧ n ∉ t.reds ∧
      ∃ m ∈ t.reds, m.same (parentOf n) = true ∧
        m.partialSum = redJoin n.form (((s.reds.filter fun x => x ≠ n).find? fun x => x.same (parentOf n)).bind fun x => x.partialSum) n.partialSum) ∧
    (¬ (n.level < 3 ∧ redClosed s n = true ∧ foldTurn s n = true) → exec (.redNodeFold idx) s = .next s))

namespace Sys2Proof.Claims

/-! ## Barriers, drains, log marks, acquires and releases: R136 to R145 -/

/-- The device after an instruction of the group that leaves an operation without lanes outstanding. -/
def issuedOnce (s : State) (g : Group) (c : Clause) (ctr : BitVec 3) (kind : OpKind) (dst : Nat) : State :=
  issued s g c ctr kind dst false [] []

/-- The address of a barrier word: bits [47:0] of its base (R142). -/
def barAddress (g : Group) (sb : BitVec 5) : Nat := (sReg g sb.toNat).toNat % 2 ^ 48

/-- A barrier word may be used: it is aligned and lies in the group's scratchpad (R142). -/
def BarOk (s : State) (g : Group) (sb : BitVec 5) : Prop :=
  barAddress g sb % 8 = 0 ∧ ∃ t, teamOfGroup s g = some t ∧ barAddress g sb + 8 ≤ t.size

/-- The fields of a barrier word (R142): phase, expected count, arrivals. -/
def phaseOf (w : DWord) : Bool := w.getLsbD 63
def expectedOf (w : DWord) : Nat := w.toNat / 2 ^ 40 % 2 ^ 16
def arrivalsOf (w : DWord) : Nat := w.toNat / 2 ^ 24 % 2 ^ 16

/-- A barrier operation of a group is outstanding in its team. -/
structure AtBarrier (s : State) (g : Group) (o : MemOp) (t : Team) (form : BarForm) (off arg : Nat) (phase : Option Bool) : Prop where
  place : groupAt s g.core g.slot = some g
  found : g.ops.find? (fun p => p.id == o.id) = some o
  kind : o.kind = .bar form off arg phase
  team : teamOfGroup s g = some t
  single : (s.teams.map Team.key).Nodup
  memory : Memory.wf t.mem = true

/-- Earlier stores, atomics and reductions of the group have completed (R143). -/
def WritesDone (g : Group) (id : Nat) : Prop :=
  ∀ p ∈ g.ops, p.id < id → ∀ fn bytes, p.kind ≠ .store bytes ∧ p.kind ≠ .atom fn bytes ∧ p.kind ≠ .red

/-- Every write that a core issued before a drain, named below `before` and in messages below the serial `mark`, has been
performed at the memory that the drain names (R144): its groups' stores, what its releases send, and what its engine commands,
denoises and matrix drains write. -/
structure WritesPerformed (s : State) (core : Nat) (m : DrainMem) (before mark : Nat) : Prop where
  stores : ∀ g ∈ s.groups, g.core = core → ∀ p ∈ g.ops, p.id < before → p.kind.writes = true → match drainHome m with
    | none => p.sp = false
    | some h => p.sp = true ∨ ∀ r ∈ p.lanes, homeOf r.loc = h → r.mt = .nrm
  sent : ∀ h, drainHome m = some h → ∀ x ∈ s.msgs, x.kind = .wb ∨ x.kind = .mrg ∨ x.kind = .reg → homeOf x.addr = h →
    x.src = .core core ∨ x.src = .rdc → mark ≤ x.serial
  releases : ∀ h, drainHome m = some h → ∀ o ∈ s.syncOps, o.core = core → o.id < before → o.rel = true → o.stage = .inval
  engines : ∀ e ∈ s.engines, ∀ c ∈ e.2, c.core = core → c.id < before → cmdWrites s m c = false
  quads : ∀ q ∈ s.quads, ∀ j ∈ q.2.jobs, j.core = core → j.id < before → jobWrites s m j = false

/-- The barrier word of the group's team after a step, the rest of the scratchpad as before. -/
def WordAt (t : State) (t0 : Team) (off : Nat) (w : DWord) : Prop :=
  ∃ t1, teamOf t t0.key = some t1 ∧ spDWord t1 off = w ∧ ∀ a, a < off ∨ off + 8 ≤ a → memByte t1.mem a = memByte t0.mem a

end Sys2Proof.Claims

open Sys2Proof.Claims in
/-- R142, R144 and R145: the barrier forms, the drains and logmark issue once for the group, and their counter goes up;
logmark does nothing while the context does not log. A barrier word that is not aligned is trap 0x05, one outside the
scratchpad trap 0x21. -/
def Claims.BarriersDrainsMarksIssue : Prop :=
  (∀ (f : MA) (ox : Option Ox) (s : State) (g : Group) (c : Clause), Issues s g c f.ctr ox →
    tget g.sPoison f.sb.toNat false = false →
    (BarOk s g f.sb → tget g.sPoison f.r.toNat false = false →
      exec (.barInit f ox) s = .next (issuedOnce s g c f.ctr (.bar .init (barAddress g f.sb) ((sReg g f.r.toNat).toNat % 2 ^ 16) none) 0xFF) ∧
      exec (.barWait f ox) s = .next (issuedOnce s g c f.ctr (.bar .wait (barAddress g f.sb) ((sReg g f.r.toNat).toNat % 2) none) 0xFF)) ∧
    (BarOk s g f.sb →
      exec (.barArr f ox) s = .next (issuedOnce s g c f.ctr (.bar .arr (barAddress g f.sb) 0 none) f.r.toNat)) ∧
    (barAddress g f.sb % 8 ≠ 0 → exec (.barArr f ox) s = .next (trapped s g c 5 (activeMask g c ox) 0xFF (barAddress g f.sb)
      ((lanesOn (activeMask g c ox)).map fun l => (l, barAddress g f.sb)))) ∧
    (∀ t, barAddress g f.sb % 8 = 0 → teamOfGroup s g = some t → t.size < barAddress g f.sb + 8 →
      exec (.barArr f ox) s = .next (trapped s g c 0x21 (activeMask g c ox) 0xFF (barAddress g f.sb)
        ((lanesOn (activeMask g c ox)).map fun l => (l, barAddress g f.sb))))) ∧
  (∀ (f : MB) (ox : Option Ox) (s : State) (g : Group) (c : Clause), Issues s g c f.ctr ox →
    tget g.sPoison f.sb.toNat false = false →
    (BarOk s g f.sb → exec (.barSync f ox) s = .next (issuedOnce s g c f.ctr (.bar .sync (barAddress g f.sb) 0 none) 0xFF)) ∧
    (logMode s g.ctx = 0 → exec (.logmark f ox) s = .next (after s g c)) ∧
    (logMode s g.ctx = 1 → exec (.logmark f ox) s = .next (recordOp (issuedOnce s g c f.ctr .mark 0xFF) g.ctx 0x08 (actorWord g)
      [BitVec.ofNat 64 ((sReg g f.sb.toNat).toNat % 2 ^ 32), BitVec.ofNat 64 ((c.addr + 4 * (c.idx + 1)) % 2 ^ 48)]
      g.core g.slot s.nextId)) ∧
    (logMode s g.ctx = 2 →
      (nextRec s g.ctx 0x08 (byGroup s g) = none →
        exec (.logmark f ox) s = .next (trapped (meetBad s g.ctx) g c 0x50 (activeMask g c ox) 0xFF 0xFFFFFFFF [])) ∧
      (∀ r, nextRec s g.ctx 0x08 (byGroup s g) = some r → (r.word 2).toNat % 2 ^ 32 = (sReg g f.sb.toNat).toNat % 2 ^ 32 →
        (r.word 3).toNat % 2 ^ 48 = (c.addr + 4 * (c.idx + 1)) % 2 ^ 48 →
        exec (.logmark f ox) s = .next (after (matchRec s g.ctx r) g c)))) ∧
  (∀ p ∈ ([(.drainSp, .sp), (.drainLoc, .loc), (.drainTwin, .twin), (.drainHost, .host)] :
      List ((BitVec 3 → Option Ox → Instr) × DrainMem)), ∀ (ctr : BitVec 3) (ox : Option Ox) (s : State) (g : Group) (c : Clause),
    Issues s g c ctr ox → exec (p.1 ctr ox) s = .next (issuedOnce s g c ctr (.drain p.2 s.nextId s.msgSeq) 0xFF))

open Sys2Proof.Claims in
/-- R142 and R143: a barrier word holds its phase, expected count and arrivals. bar.init sets the count and clears the
arrivals; an arrival waits for the group's earlier writes and counts up, and one that reaches the expected count, or finds it
met already, inverts the phase; bar.arr
leaves the old phase in its scalar; bar.wait ends once the phase differs from its argument, and bar.sync arrives and then
waits for the phase to differ from the one it found. -/
def Claims.BarrierSteps : Prop :=
  ∀ (s : State) (g : Group) (o : MemOp) (t0 : Team) (off arg : Nat) (phase : Option Bool),
    let w := spDWord t0 off
    let done := fun (t : State) => ∃ h, groupAt t g.core g.slot = some h ∧ Ended g h o
    (AtBarrier s g o t0 .init off arg phase → arg < 2 ^ 16 → ∃ t w', exec (.storeComplete g.core g.slot o.id) s = .next t ∧ done t ∧
      WordAt t t0 off w' ∧ phaseOf w' = phaseOf w ∧ expectedOf w' = arg ∧ arrivalsOf w' = 0) ∧
    (AtBarrier s g o t0 .arr off arg phase → WritesDone g o.id →
      ∃ t w' h, exec (.storeComplete g.core g.slot o.id) s = .next t ∧ done t ∧ WordAt t t0 off w' ∧ expectedOf w' = expectedOf w ∧
        (arrivalsOf w + 1 < expectedOf w → phaseOf w' = phaseOf w ∧ arrivalsOf w' = arrivalsOf w + 1) ∧
        (expectedOf w ≤ arrivalsOf w + 1 → phaseOf w' = !phaseOf w ∧ arrivalsOf w' = 0) ∧
        groupAt t g.core g.slot = some h ∧ sReg h o.dst = if phaseOf w then 1 else 0) ∧
    (AtBarrier s g o t0 .arr off arg phase → ¬ WritesDone g o.id → exec (.storeComplete g.core g.slot o.id) s = .next s) ∧
    (AtBarrier s g o t0 .wait off arg phase → (phaseOf w ≠ (arg % 2 == 1)) →
      ∃ t, exec (.storeComplete g.core g.slot o.id) s = .next t ∧ done t ∧ t.teams = s.teams) ∧
    (AtBarrier s g o t0 .wait off arg phase → (phaseOf w = (arg % 2 == 1)) → exec (.storeComplete g.core g.slot o.id) s = .next s) ∧
    (AtBarrier s g o t0 .sync off arg none → WritesDone g o.id → expectedOf w ≤ arrivalsOf w + 1 →
      ∃ t w', exec (.storeComplete g.core g.slot o.id) s = .next t ∧ done t ∧ WordAt t t0 off w' ∧ phaseOf w' = !phaseOf w ∧
        arrivalsOf w' = 0 ∧ expectedOf w' = expectedOf w) ∧
    (AtBarrier s g o t0 .sync off arg none → WritesDone g o.id → arrivalsOf w + 1 < expectedOf w →
      ∃ t w' h p, exec (.storeComplete g.core g.slot o.id) s = .next t ∧ WordAt t t0 off w' ∧ phaseOf w' = phaseOf w ∧
        arrivalsOf w' = arrivalsOf w + 1 ∧ groupAt t g.core g.slot = some h ∧ h.cnt = g.cnt ∧
        h.ops.find? (fun q => q.id == o.id) = some p ∧ p.kind = .bar .sync off arg (some (phaseOf w))) ∧
    (∀ p, AtBarrier s g o t0 .sync off arg (some p) → phaseOf w ≠ p →
      ∃ t, exec (.storeComplete g.core g.slot o.id) s = .next t ∧ done t ∧ t.teams = s.teams) ∧
    (∀ p, AtBarrier s g o t0 .sync off arg (some p) → phaseOf w = p → exec (.storeComplete g.core g.slot o.id) s = .next s)

open Sys2Proof.Claims in
/-- R144: a drain completes once every write that its core issued before it into the memory it names has been performed
there, and on a PX960-M a drain.twin completes at once; until then nothing changes. While a store of the core to a WCB, DEV or
SOR page of that memory, or in the scratchpad for drain.sp, is outstanding, the drain waits. That a drain tells the commands
that it waits for by what their destinations reach is the model's reading (log entry 30). -/
def Claims.DrainsComplete : Prop :=
  ∀ (s : State) (g : Group) (o : MemOp) (m : DrainMem) (before mark : Nat), groupAt s g.core g.slot = some g →
    g.ops.find? (fun p => p.id == o.id) = some o → o.kind = .drain m before mark →
    (WritesPerformed s g.core m before mark ∨ (m = .twin ∧ s.isW = false) →
      ∃ t h, exec (.storeComplete g.core g.slot o.id) s = .next t ∧ groupAt t g.core g.slot = some h ∧ Ended g h o ∧
        t.mem = s.mem ∧ t.msgs = s.msgs ∧ t.l1 = s.l1 ∧ t.teams = s.teams) ∧
    (∀ k ∈ s.groups, k.core = g.core → ∀ p ∈ k.ops, p.id < before → ∀ bytes, p.kind = .store bytes → (m = .twin → s.isW = true) →
      (match drainHome m with
        | none => p.sp = true
        | some h => p.sp = false ∧ ∃ r ∈ p.lanes, homeOf r.loc = h ∧ r.mt ≠ .nrm) →
      exec (.storeComplete g.core g.slot o.id) s = .next s)

namespace Sys2Proof.Claims

/-- The variable that a scalar names: bits [47:3], times 8 (R136). -/
def syncVar (g : Group) (sb : BitVec 5) : Nat := (sReg g sb.toNat).toNat / 8 % 2 ^ 45 * 8

/-- An acquire or release of a group as its instruction leaves it. -/
def syncIssued (s : State) (g : Group) (c : Clause) (id : Nat) (ctr : BitVec 3) (rel acq : Bool) (scope var : Nat)
    (stage : SyncStage) (obs : Option Nat) (inv : Bool) (seq : Nat := 0) : State :=
  after { s with nextId := s.nextId + 1, syncOps := s.syncOps ++
      [⟨g.core, g.slot, id, ctr.toNat, rel, acq, scope, var, scope, stage, 0, [], seq, obs, inv, c.addr + 4 * (c.idx + 1), c.pcs,
        c.idx + 1, c.hdr⟩] }
    { g with cnt := tput g.cnt ctr.toNat (cnt g ctr.toNat + 1) } c

/-- A core's dirty words that a range selects, and its holding entries (R324). -/
def dirtyWords (s : State) (core : Nat) (range : Nat → Bool) : List (Nat × Copy) :=
  (tget s.l1 core []).filter fun e => e.2.st == .drt && range e.1
def holdingUsed (s : State) (core : Nat) : Nat := (tget s.holding core []).length

/-- The words of a line-aligned address range of a context: each word that the context's tables map in it is selected, and
none where the length is 0 (R141). -/
def Covers (s : State) (ctx lo len : Nat) (range : Nat → Bool) : Prop :=
  let hi := min (lo + len - 1) (2 ^ 48 - 1)
  (len = 0 → ∀ w, range w = false) ∧
  (len ≠ 0 → ∀ va leaf, lo / 128 * 128 ≤ va → va < hi / 128 * 128 + 128 → va % 4 = 0 → walk s ctx va = .ok leaf →
    range (leaf.at va) = true)

/-- Nothing that a home has sent about words of an acquire's range is on its way to the core, or to the RDC where the scope
reaches it (R302, R323). -/
def NothingComing (s : State) (core scope : Nat) (range : Nat → Bool) : Prop :=
  handedOn s (.core core) range = false ∧ handedOn s .rdc (fun w => range w && reachesRdc scope w) = false

/-- Neither a word nor the other word of its aligned 8 bytes is selected. -/
def Unselected (range : Nat → Bool) (w : Nat) : Prop := ∀ x ∈ pairOf w, range x = false

/-- The SEQ of the release that an ACQ record observes, if any (R341). -/
def observedBy (r : LRec) : Option Nat :=
  if (r.word 3).getLsbD 31 then none else some ((r.word 3).toNat % 2 ^ 31)

end Sys2Proof.Claims

open Sys2Proof.Claims in
/-- R136 to R138 and R141: acq, rel, acqrel and inv.rgn issue and leave their operation outstanding: an acq goes to the
table, a rel and an acqrel wait until everything earlier has completed, and inv.rgn self-invalidates the range at once, at
the latest once the holding entries have room for the dirty words in it and nothing that a home has sent about its words is on
its way (the wait for transfers is the model's reading of R302, log entry 122). In replay an acq or rel takes its scope and its
observed release from the group's next record, and without one it is trap 0x50 (R347). -/
def Claims.AcquiresAndReleasesIssue : Prop :=
  (∀ (f : MQ) (ox : Option Ox) (s : State) (g : Group) (c : Clause), Issues s g c f.ctr ox → tget g.sPoison f.sb.toNat false = false →
    (logMode s g.ctx ≠ 2 →
      exec (.acq f ox) s = .next (syncIssued s g c s.nextId f.ctr false true f.scope.toNat (syncVar g f.sb) .table none false) ∧
      exec (.rel f ox) s = .next (syncIssued s g c s.nextId f.ctr true false f.scope.toNat (syncVar g f.sb) .waiting none false) ∧
      exec (.acqrel f ox) s = .next (syncIssued s g c s.nextId f.ctr true true f.scope.toNat (syncVar g f.sb) .waiting none false)) ∧
    (logMode s g.ctx = 2 →
      (∀ r, nextRec s g.ctx 0x03 (byGroup s g) = some r → (r.word 2).toNat / 8 % 2 ^ 45 * 8 = syncVar g f.sb →
        exec (.acq f ox) s = .next (syncIssued (matchRec s g.ctx r) g c (matchRec s g.ctx r).nextId f.ctr false true
          ((r.word 2).toNat % 8) (syncVar g f.sb) .table (observedBy r) false r.seq)) ∧
      (nextRec s g.ctx 0x03 (byGroup s g) = none →
        exec (.acq f ox) s = .next (trapped (meetBad s g.ctx) g c 0x50 (activeMask g c ox) 0xFF 0xFFFFFFFF [])) ∧
      (∀ r, nextRec s g.ctx 0x02 (byGroup s g) = some r → (r.word 2).toNat / 8 % 2 ^ 45 * 8 = syncVar g f.sb →
        exec (.rel f ox) s = .next (syncIssued s g c s.nextId f.ctr true false f.scope.toNat (syncVar g f.sb) .waiting none false)) ∧
      (nextRec s g.ctx 0x02 (byGroup s g) = none → ∀ i ∈ [Instr.rel f ox, .acqrel f ox],
        exec i s = .next (trapped (meetBad s g.ctx) g c 0x50 (activeMask g c ox) 0xFF 0xFFFFFFFF [])))) ∧
  (∀ (f : MR) (ox : Option Ox) (s : State) (g : Group) (c : Clause), Issues s g c f.ctr ox → tget g.sPoison f.sb.toNat false = false →
    tget g.sPoison f.a.toNat false = false → CachesOk s →
    ∃ range, Covers s g.ctx (barAddress g f.sb) (sReg g f.a.toNat).toNat range ∧
      let s1 := acquireAt s g.core g.ctx f.scope.toNat range
      (f.scope.toNat < 2 ∨ (holdingUsed s g.core + (dirtyWords s g.core range).length ≤ 64 ∧
          NothingComing s g.core f.scope.toNat range) →
        exec (.invRgn f ox) s = .next (syncIssued s1 g c s.nextId f.ctr false true f.scope.toNat 0 .inval none true)) ∧
      (acquired s1 g.core f.scope.toNat range = false → exec (.invRgn f ox) s = .next s1)) ∧
  (∀ (s : State) (core ctx scope : Nat) (range : Nat → Bool), CachesOk s → let t := acquireAt s core ctx scope range
    (scope < 2 → t = s) ∧ t.groups = s.groups ∧ t.syncOps = s.syncOps ∧ t.nextId = s.nextId ∧
    (acquired t core scope range = true → 2 ≤ scope → ∀ w k, l1Copy t core w = some k → range w = true → k.st = .reg) ∧
    (∀ w k, l1Copy s core w = some k → k.st = .reg ∨ Unselected range w → l1Copy t core w = some k) ∧
    (∀ d w, d ≠ core → l1Copy t d w = l1Copy s d w))

namespace Sys2Proof.Claims

/-- A release is the one that its group has waiting, and everything before it has completed (R138). -/
structure ReadyToRelease (s : State) (g : Group) (o : SyncOp) : Prop where
  place : groupAt s o.core o.slot = some g
  found : s.syncOps.find? (fun p => p.core == o.core && p.slot == o.slot && p.stage == .waiting) = some o
  clear : relClear g = true
  live : logMode s g.ctx ≠ 2
  runs : logHeld s g = false

/-- What a core's release leaves of a dirty word that is homed on this device (R321): a full word is REG, and a message REG
names it; a part of one is clean, and a message MRG carries it. -/
def Registers (t : State) (core w : Nat) (k : Copy) : Prop :=
  (k.mask = 0xF → l1Copy t core w = some { k with st := .reg } ∧
    ∃ m ∈ t.msgs, m.kind = .reg ∧ m.src = .core core ∧ m.dst = homeAgent (w / 128 * 128) ∧ w ∈ m.words) ∧
  (k.mask ≠ 0xF → l1Copy t core w = some { k with st := .cln, mask := 0 } ∧
    ∃ m ∈ t.msgs, m.kind = .mrg ∧ m.src = .core core ∧ m.dst = homeAgent (w / 128 * 128) ∧
      ⟨w, k.val, k.mask, k.poison, none⟩ ∈ m.vals)

/-- The messages of a state without their marks for fills that are not kept. -/
def unmarked (s : State) : List Msg := s.msgs.map fun m => { m with void := false }

/-- An acquire of a group is the one that its table operation has let through (R138). -/
structure ReadyToAcquire (s : State) (g : Group) (o : SyncOp) : Prop where
  place : groupAt s o.core o.slot = some g
  found : s.syncOps.find? (fun p => p.core == o.core && p.slot == o.slot && p.acq && p.stage == .inval) = some o
  named : s.syncOps.find? (fun p => p.id == o.id) = some o
  free : logStalled s o.id = false
  live : logMode s g.ctx = 0

/-- One operation is at the table, its group in a context without a log, with no record of it waiting, no operation of the twin
on its variable and no host command about to end. -/
structure AtTable (s : State) (g : Group) (o : SyncOp) : Prop where
  only : s.syncOps = [o]
  stage : o.stage = .table
  plain : o.inv = false
  place : groupAt s o.core o.slot = some g
  free : logStalled s o.id = false
  live : logMode s g.ctx = 0
  idle : twinBusy s g.ctx o.var = false
  ends : s.cmdEnds = []

/-- The operation has ended: its counter is one lower and no operation is left. -/
def SyncEnded (t : State) (g : Group) (o : SyncOp) : Prop :=
  t.syncOps = [] ∧ groupAt t o.core o.slot = some { g with cnt := tput g.cnt o.ctr (cnt g o.ctr - 1) }

end Sys2Proof.Claims

open Sys2Proof.Claims in
/-- R138, R139, R313, R314 and R321: REL_BEGIN sends what an explicit scope registers and hands the release to the table;
below HAMLET scope nothing is sent, and at AUTO scope nothing yet. ACQ_COMPLETE makes the self-invalidation of an acquire
whose table operation is done and, when all of it is made, ends it, and its counter goes down. SYNC_TABLE_OP performs an
operation on its entry: a release becomes the last one and ends when its registrations are acknowledged; an AUTO acquire
of a variable that nothing has released takes the widest scope. With nothing at the table, and for REL_BEGIN of a group
with earlier work outstanding, nothing changes.
That an acquire invalidates after its table operation (log entry 124) and that a catch-up is awaited (log entry 73) are the model's reading. -/
def Claims.AcquiresAndReleasesComplete : Prop :=
  (∀ (s : State) (g : Group) (o : SyncOp), ReadyToRelease s g o →
    let handed := s.syncOps.filter (fun p => p.id ≠ o.id) ++ [{ o with stage := .table, eff := o.scope, seq := 0 }]
    (o.scope = 7 ∨ o.scope < 2 → exec (.relBegin o.core o.slot) s = .next { s with syncOps := handed }) ∧
    (o.scope ≠ 7 → 2 ≤ o.scope → CachesOk s →
      ∃ t, exec (.relBegin o.core o.slot) s = .next t ∧ t.syncOps = handed ∧ t.groups = s.groups ∧ t.homes = s.homes ∧
        (∀ w k, l1Copy t o.core w = some k → k.st ≠ .drt) ∧
        (∀ w k, l1Copy s o.core w = some k → k.st = .drt → homeOf w = 0 → Registers t o.core w k) ∧
        (∀ w k, l1Copy s o.core w = some k → k.st ≠ .drt → l1Copy t o.core w = some k) ∧
        (∀ d w, d ≠ o.core → l1Copy t d w = l1Copy s d w) ∧
        (∃ sent, unmarked t = unmarked s ++ sent ∧ ∀ m ∈ sent, m.kind = .reg ∨ m.kind = .mrg ∨ m.kind = .wb) ∧
        ((∀ w k, l1Copy s o.core w = some k → k.st = .drt → homeOf w ≠ 3) → t.mem = s.mem))) ∧
  (∀ (s : State) (g : Group) (core slot : Nat), groupAt s core slot = some g → relClear g = false →
    exec (.relBegin core slot) s = .next s) ∧
  (∀ (s : State) (g : Group) (o : SyncOp), ReadyToAcquire s g o →
    (o.inv = true ∨ o.eff < 2 → exec (.acqComplete o.core o.slot) s = .next
      (setGroup { s with syncOps := s.syncOps.filter fun p => p.id ≠ o.id } { g with cnt := tput g.cnt o.ctr (cnt g o.ctr - 1) })) ∧
    (o.inv = false → let s1 := acquireAt s o.core g.ctx o.eff fun _ => true
      (CachesOk s → holdingUsed s o.core + (dirtyWords s o.core fun _ => true).length ≤ 64 →
          NothingComing s o.core o.eff (fun _ => true) → exec (.acqComplete o.core o.slot) s = .next
        (setGroup { s1 with syncOps := s.syncOps.filter fun p => p.id ≠ o.id } { g with cnt := tput g.cnt o.ctr (cnt g o.ctr - 1) })) ∧
      (acquired s1 o.core o.eff (fun _ => true) = false → exec (.acqComplete o.core o.slot) s = .next s1))) ∧
  (∀ s : State, (∀ o ∈ s.syncOps, o.stage ≠ .table) → exec .syncTableOp s = .next s) ∧
  (∀ (s : State) (g : Group) (o : SyncOp), AtTable s g o →
    (∀ e, o.rel = true → o.acq = false → o.scope < 7 → syncEntry s g.ctx o.var = some e → o.scope ≤ e.widest →
      ∃ t e1, exec .syncTableOp s = .next t ∧ syncEntry t g.ctx o.var = some e1 ∧ e1.widest = e.widest ∧
        e1.last = some (false, o.core, o.slot) ∧ e1.relSeq = e.relSeq + 1 ∧ t.msgs = s.msgs ∧ t.mem = s.mem ∧ t.l1 = s.l1 ∧
        (releaseOut s o.core o.scope s.msgSeq = false → SyncEnded t g o) ∧
        (releaseOut s o.core o.scope s.msgSeq = true → t.groups = s.groups ∧ ∃ p, t.syncOps = [p] ∧ p.stage = .acks ∧
          p.mark = s.msgSeq ∧ p.source = [(o.core, o.scope)])) ∧
    (o.rel = false → o.acq = true → o.scope = 7 → syncEntry s g.ctx o.var = none → savedEntry s g.ctx o.var = none →
      (tableEntries s (tableOf s o.var)).length < 16384 →
      ∃ t p, exec .syncTableOp s = .next t ∧ t.syncOps = [p] ∧ p.id = o.id ∧ p.stage = .inval ∧ p.obs = none ∧
        p.eff = (if s.isW then 4 else 3) ∧ t.msgs = s.msgs ∧ t.mem = s.mem ∧ t.l1 = s.l1 ∧ t.groups = s.groups))

namespace Sys2Proof.Claims

/-! ## Coherence: R316 to R336 -/

/-- The oldest message from one agent to another, with those that stay in flight. -/
def Arrives (s : State) (src dst : Agent) (m : Msg) (rest : List Msg) : Prop := takeMsg src dst s.msgs = some (m, rest)

/-- A request at a slice may be answered: no earlier read waits there, no other request waits there for the host, and the
host does not hold its line (R286, R319). -/
def Answerable (s : State) (dst : Agent) (m : Msg) : Prop :=
  (∃ n, dst = .slice n) ∧ (∀ x ∈ s.l2Wait, x.dst ≠ dst) ∧
  (∀ x ∈ s.msgs, x.dst = dst → s.biasHeld.contains x.serial = true → x.serial = m.serial) ∧ hostBiased s m.addr = false

/-- The device with a request taken from those in flight. -/
def taken (s : State) (m : Msg) (rest : List Msg) : State :=
  { s with msgs := rest, biasHeld := s.biasHeld.filter fun i => i ≠ m.serial }

/-- A word that is VAL at its home (R316). -/
def IsVal (s : State) (w : Nat) : Prop := homeSt s w = none

/-- A word that an agent of this device owns (R316). -/
def OwnedBy (s : State) (w : Nat) (who : Agent) : Prop := ownerOf s w = some who

/-- A message is in flight. -/
def Sent (t : State) (kind : MsgKind) (src dst : Agent) (p : Msg → Prop) : Prop :=
  ∃ x ∈ t.msgs, x.kind = kind ∧ x.src = src ∧ x.dst = dst ∧ p x

/-- Only the homes' states, stamps and memory of some words have changed, with the messages and the slots of the L2. -/
def HomeFrame (s t : State) (ws : List Nat) : Prop :=
  (∀ x, x ∉ ws → homeSt t x = homeSt s x) ∧ (∀ a, a / 4 * 4 ∉ ws → memByte t.mem a = memByte s.mem a) ∧ t.l1 = s.l1 ∧ t.rdc = s.rdc ∧
  t.holding = s.holding ∧ t.groups = s.groups ∧ t.teams = s.teams

/-- No operation on a sync variable waits for acknowledgements, no host command for its release, and no forced reset for
write-backs (R289, R321, R375). -/
def NoneAwaits (s : State) : Prop :=
  (∀ o ∈ s.syncOps, o.stage ≠ .acks) ∧ s.cmdEnds = [] ∧ ∀ ctx, (ctxOf s ctx).flush = none

/-- The kinds of message with the event that handles each. -/
noncomputable def handlers : List (MsgKind × (Agent → Agent → Instr)) := [
  (.rdq, .rdq), (.data, .data), (.fwd, .fwd), (.frep, .frep), (.reg, .reg), (.mrg, .mrg), (.mfwd, .mfwd), (.rack, .rack),
  (.mack, .mack), (.wb, .wb), (.wack, .wack), (.atq, .atq), (.xfer, .xfer), (.xferv, .xferv), (.aval, .aval), (.rcl, .rcl)]

/-- A word as its home sends it. -/
def homeValue (s : State) (w : Nat) : WordVal :=
  ⟨w, memWord s.mem w, 0xF, tget s.memPoison w false, tfind s.stamps (w / 128 * 128)⟩

end Sys2Proof.Claims

open Sys2Proof.Claims in
/-- R318 and R319: messages of one sender to one receiver arrive in the order in which they were sent; a handler acts only
when the oldest of them is of its kind; and a request at a slice waits behind the reads that wait there. -/
def Claims.MessageOrder : Prop :=
  (∀ p ∈ handlers, ∀ (s : State) (src dst : Agent), (∀ m rest, Arrives s src dst m rest → m.kind ≠ p.1) →
    exec (p.2 src dst) s = .next s) ∧
  (∀ (ms : List Msg) (m : Msg), (∀ x ∈ ms, ¬ (x.src = m.src ∧ x.dst = m.dst)) → takeMsg m.src m.dst (ms ++ [m]) = some (m, ms)) ∧
  (∀ (ms rest new : List Msg) (src dst : Agent) (m : Msg), takeMsg src dst ms = some (m, rest) →
    takeMsg src dst (ms ++ new) = some (m, rest ++ new)) ∧
  (∀ p ∈ ([.rdq, .reg, .mrg, .atq] : List (Agent → Agent → Instr)), ∀ (s : State) (src : Agent) (n : Nat) (x : Msg),
    x ∈ s.l2Wait → x.dst = .slice n → exec (p src (.slice n)) s = .next s)

open Sys2Proof.Claims in
/-- R316, R320, R322, R324 and R328: what a home does. A cached line answers a read with the words that are VAL, naming
those that it forwards to their owners; a line that is not cached waits for its fill. REG makes the sender the owner of its
words and turns the old owners' copies invalid; MRG merges bytes into a VAL word, or forwards them to the owner; WB of the
owner gives the word back, and that of a unit which another owner has followed brings nothing; ATQ gives the value and the ownership of a VAL word, and has
an owner send both. -/
def Claims.HomeSide : Prop :=
  (∀ (s : State) (src dst : Agent) (m : Msg) (rest : List Msg), Arrives s src dst m rest → m.kind = .rdq → Answerable s dst m →
    (cached s m.addr = true →
      ∃ t d fs, exec (.rdq src dst) s = .next t ∧ t = { taken s m rest with msgs := rest ++ d :: fs, msgSeq := t.msgSeq } ∧
        d.kind = .data ∧ d.src = dst ∧ d.dst = src ∧ d.addr = m.addr ∧ d.form = 0 ∧ d.void = m.void ∧
        d.vals = ((lineWords m.addr).filter fun w => (homeSt s w).isNone).map (homeValue s) ∧
        (∀ w ∈ lineWords m.addr, ∀ who, OwnedBy s w who → who ≠ src →
          w ∈ d.words ∧ ∃ x ∈ fs, x.kind = .fwd ∧ x.src = dst ∧ x.dst = who ∧ x.who = src ∧ w ∈ x.words) ∧
        ∀ x ∈ fs, x.kind = .fwd) ∧
    (cached s m.addr = false → exec (.rdq src dst) s = .next { taken s m rest with l2Wait := s.l2Wait ++ [m] })) ∧
  (∀ (s : State) (line : Nat) (m : Msg), s.l2Wait = [m] → m.addr = line → m.dst = .slice (sliceOf line) → homeOf line = 0 →
    slotsUsed s line < Config.l2Slots → (∀ w ∈ lineWords line, IsVal s w) →
    ∃ t d, exec (.l2FillComplete line) s = .next t ∧ cached t line = true ∧ t.l2Wait = [] ∧ t.mem = s.mem ∧ t.homes = s.homes ∧
      t.msgs = s.msgs ++ [d] ∧ d.kind = .data ∧ d.dst = m.src ∧ d.vals = (lineWords line).map (homeValue s)) ∧
  (∀ (s : State) (core : Nat) (dst : Agent) (m : Msg) (rest : List Msg), Arrives s (.core core) dst m rest →
    m.kind = .reg → Answerable s dst m → cached s m.addr = true → core ≠ 96 →
    ∃ t, exec (.reg (.core core) dst) s = .next t ∧ (∀ w ∈ m.words, OwnedBy t w (.core core)) ∧ HomeFrame s t m.words ∧
      t.mem = s.mem ∧ Sent t .rack dst (.core core) (fun x => x.tag = m.serial ∧ x.words = m.words) ∧
      (∀ w ∈ m.words, ∀ who, OwnedBy s w who → who ≠ .core core →
        ∃ x ∈ t.msgs, x.kind = .xfer ∧ x.dst = who ∧ x.who = .core core ∧ w ∈ x.words)) ∧
  (∀ (s : State) (src dst : Agent) (m : Msg) (rest : List Msg) (v : WordVal), Arrives s src dst m rest → m.kind = .mrg →
    Answerable s dst m → m.vals = [v] →
    (v.word % 4 = 0 → MemoryOk s → IsVal s v.word →
      ∃ t, exec (.mrg src dst) s = .next t ∧ HomeFrame s t [v.word] ∧ IsVal t v.word ∧
        memWord t.mem v.word = mergeBytes v.mask v.val (memWord s.mem v.word) ∧
        Sent t .mack dst src (fun x => x.tag = m.serial)) ∧
    (∀ who, OwnedBy s v.word who → ∃ t, exec (.mrg src dst) s = .next t ∧ HomeFrame s t [] ∧
      Sent t .mfwd (homeAgent v.word) who (fun x => x.vals = [v]) ∧ Sent t .mack dst src (fun x => x.tag = m.serial))) ∧
  (∀ (s : State) (src dst : Agent) (m : Msg) (rest : List Msg) (v : WordVal), Arrives s src dst m rest → m.kind = .wb →
    m.form = 0 → m.vals = [v] → dst ≠ .host → Answerable s dst m ∨ (∀ n, dst ≠ .slice n) → NoneAwaits s →
    (OwnedBy s v.word src → v.word % 4 = 0 → MemoryOk s → (∀ x ∈ rest, x.kind = .mfwd ∨ x.form = 2 → x.names v.word = false) →
      ∃ t, exec (.wb src dst) s = .next t ∧ HomeFrame s t [v.word] ∧ IsVal t v.word ∧ memWord t.mem v.word = v.val ∧
        Sent t .wack dst src (fun x => x.tag = m.serial)) ∧
    (∀ who, OwnedBy s v.word who → who ≠ src → ∃ t, exec (.wb src dst) s = .next t ∧
      t = { s with msgs := t.msgs, msgSeq := t.msgSeq, biasHeld := t.biasHeld } ∧
      Sent t .wack dst src (fun x => x.tag = m.serial))) ∧
  (∀ (s : State) (core : Nat) (dst : Agent) (m : Msg) (rest : List Msg) (w : Nat), Arrives s (.core core) dst m rest → m.kind = .atq →
    Answerable s dst m → m.vals = [] → m.words = [w] → m.ctx = none → homeOf w = 0 → cached s m.addr = true → NoneAwaits s →
    core ≠ 96 →
    (IsVal s w → ∃ t, exec (.atq (.core core) dst) s = .next t ∧ OwnedBy t w (.core core) ∧ HomeFrame s t [w] ∧ t.mem = s.mem ∧
      Sent t .data dst (.core core) (fun x => x.form = 1 ∧ x.vals = [⟨w, memWord s.mem w, 0xF, tget s.memPoison w false, none⟩])) ∧
    (∀ who, OwnedBy s w who → who ≠ .core core →
      ∃ t, exec (.atq (.core core) dst) s = .next t ∧ OwnedBy t w (.core core) ∧ HomeFrame s t [w] ∧ t.mem = s.mem ∧
        Sent t .xferv dst who (fun x => x.who = .core core ∧ x.words = [w])))

namespace Sys2Proof.Claims

/-- Only the copies of some words in one core have changed, messages and holding entries. -/
def CopyFrame (s t : State) (core : Nat) (ws : List Nat) : Prop :=
  (∀ d x, d ≠ core ∨ x ∉ ws → l1Copy t d x = l1Copy s d x) ∧ t.mem = s.mem ∧ t.homes = s.homes ∧ t.rdc = s.rdc ∧ t.groups = s.groups ∧
  t.teams = s.teams

/-- The holding entries of a core. -/
def entries (s : State) (core : Nat) : List Held := tget s.holding core []

/-- A core holds a word registered, no registration of it is under way, no value that it waits for, and no holding entry. -/
structure Registered (s : State) (core w : Nat) (c : Copy) : Prop where
  copy : l1Copy s core w = some c
  st : c.st = .reg
  settled : ∀ x ∈ pairOf w, valueComing s (.core core) x = false
  known : regPending s (.core core) w = false
  single : ∀ h ∈ entries s core, h.word ≠ w

/-- A core gave a word up registered, and its write-back is under way: the oldest such entry (R324). -/
structure GivenUp (s : State) (core w : Nat) (h : Held) : Prop where
  entry : (entries s core).find? (fun h => h.word == w && h.owned) = some h
  settled : ∀ x ∈ pairOf w, valueComing s (.core core) x = false

end Sys2Proof.Claims

open Sys2Proof.Claims in
/-- R317, R320 to R322, R324 to R328: what a core does with a message. A word that arrives fills one that the core does not
hold, and the bytes of a dirty one that it has not stored; an owner answers FWD with its value, from its copy or from the
holding entry, merges the bytes of MFWD there, gives the word up on XFER, sends it to the new owner on XFERV, and gives it
back clean on RCL; AVAL makes the core the owner, once its L1 has a place for the line; WACK frees the entries of its
write-back; RACK and MACK are taken. That a fill brings the missing bytes of a dirty word is the model's reading of R320
(log entry 74), and so are the holding entry of a word given back on RCL and its wait while all 64 are in use, of R325 (log entry 152). -/
def Obligations.OwnerSide : Prop :=
  ∀ (s : State) (src : Agent) (core : Nat) (m : Msg) (rest : List Msg), Arrives s src (.core core) m rest →
    (∀ p ∈ ([(.data, .data), (.frep, .frep)] : List (MsgKind × (Agent → Agent → Instr))), ∀ v, m.kind = p.1 → m.vals = [v] →
      m.form = 0 → m.void = false → l1Fits s core (v.word / 128 * 128) = true → (∀ h ∈ entries s core, h.word ≠ v.word) →
      ∃ t, exec (p.2 src (.core core)) s = .next t ∧ t.msgs = rest ∧ CopyFrame s t core [v.word] ∧
        (l1Copy s core v.word = none → l1Copy t core v.word = some ⟨.cln, v.val, 0, v.mask, v.poison, v.stamp⟩) ∧
        (∀ c, l1Copy s core v.word = some c → c.st = .reg → l1Copy t core v.word = some c) ∧
        (∀ c, l1Copy s core v.word = some c → c.st = .drt → c.held = c.mask → v.mask = 0xF →
          ∃ k, l1Copy t core v.word = some k ∧ k.st = .drt ∧ k.mask = c.mask ∧ k.val = mergeBytes c.mask c.val v.val)) ∧
    (∀ p ∈ ([(.data, .data), (.frep, .frep)] : List (MsgKind × (Agent → Agent → Instr))), m.kind = p.1 → m.form = 0 → m.void = true →
      exec (p.2 src (.core core)) s = .next { s with msgs := rest }) ∧
    (∀ w, m.kind = .fwd → m.words = [w] →
      (∀ c, Registered s core w c → ∃ t, exec (.fwd src (.core core)) s = .next t ∧ CopyFrame s t core [] ∧
        Sent t .frep (.core core) m.who (fun x => x.who = m.who ∧ x.vals = [⟨w, c.val, 0xF, c.poison, tfind s.stamps (w / 128 * 128)⟩])) ∧
      (∀ h, GivenUp s core w h → ∃ t, exec (.fwd src (.core core)) s = .next t ∧ CopyFrame s t core [] ∧
        Sent t .frep (.core core) m.who (fun x => x.who = m.who ∧ x.vals = [⟨w, h.val, 0xF, h.poison, tfind s.stamps (w / 128 * 128)⟩]))) ∧
    (∀ v, m.kind = .mfwd → m.vals = [v] →
      (∀ c, Registered s core v.word c → ∃ t, exec (.mfwd src (.core core)) s = .next t ∧ t.msgs = rest ∧ CopyFrame s t core [v.word] ∧
        l1Copy t core v.word = some ⟨.reg, mergeBytes v.mask v.val c.val, 0xF, 0xF, c.poison || v.poison, none⟩) ∧
      (∀ h, GivenUp s core v.word h → ∃ t, exec (.mfwd src (.core core)) s = .next t ∧ CopyFrame s t core [] ∧
        Sent t .wb (.core core) (homeAgent v.word) (fun x => x.form = 2 ∧
          x.vals = [⟨v.word, mergeBytes v.mask v.val h.val, 0xF, h.poison || v.poison, none⟩]))) ∧
    (∀ w c, m.kind = .xfer → m.words = [w] → Registered s core w c →
      ∃ t, exec (.xfer src (.core core)) s = .next t ∧ t.msgs = rest ∧ CopyFrame s t core [w] ∧ l1Copy t core w = none) ∧
    (∀ w c, m.kind = .xferv → m.words = [w] → Registered s core w c →
      ∃ t, exec (.xferv src (.core core)) s = .next t ∧ CopyFrame s t core [w] ∧ l1Copy t core w = none ∧
        Sent t .aval (.core core) m.who (fun x => x.vals = [⟨w, c.val, 0xF, c.poison, none⟩])) ∧
    (∀ p ∈ ([(.aval, .aval, 0), (.data, .data, 1)] : List (MsgKind × (Agent → Agent → Instr) × Nat)), ∀ v, m.kind = p.1 → m.form = p.2.2 →
      m.vals = [v] → (∀ g ∈ s.groups, g.core = core → g.ops = []) →
      (l1Copy s core v.word = none → l1Fits s core m.addr = true → (homeOf v.word = 1 → twinGone s = false) →
        ∃ t, exec (p.2.1 src (.core core)) s = .next t ∧ t.msgs = rest ∧ CopyFrame s t core [v.word] ∧
          l1Copy t core v.word = some ⟨.reg, v.val, 0xF, 0xF, v.poison, none⟩) ∧
      (l1Reserve s core [m.addr] = none → exec (p.2.1 src (.core core)) s = .next s)) ∧
    (∀ w c, m.kind = .rcl → m.words = [w] → Registered s core w c →
      ((entries s core).length < 64 → ∃ t, exec (.rcl src (.core core)) s = .next t ∧ CopyFrame s t core [w] ∧
        l1Copy t core w = some { c with st := .cln, mask := 0 } ∧
        entries t core = entries s core ++ [⟨w, c.val, 0xF, c.poison, true, s.msgSeq⟩] ∧
        Sent t .wb (.core core) (homeAgent w) (fun x => x.form = 0 ∧ x.serial = s.msgSeq ∧ x.vals = [⟨w, c.val, 0xF, c.poison, none⟩])) ∧
      (64 ≤ (entries s core).length → exec (.rcl src (.core core)) s = .next s)) ∧
    (m.kind = .wack → NoneAwaits s → ∃ t, exec (.wack src (.core core)) s = .next t ∧ t = { s with msgs := rest, holding := t.holding } ∧
      entries t core = (entries s core).filter fun h => h.serial ≠ m.tag) ∧
    (∀ p ∈ ([(.rack, .rack), (.mack, .mack)] : List (MsgKind × (Agent → Agent → Instr))), m.kind = p.1 → NoneAwaits s →
      exec (p.2 src (.core core)) s = .next { s with msgs := rest })

open Sys2Proof.Claims in
/-- R324, R325 and R333: evictions. An L1 drops a clean word, and keeps a registered one, or a dirty one of this device, in
a holding entry until its write-back is acknowledged; with 64 entries in use it waits. A line of the L2 whose words are
all VAL leaves, and one with owners recalls them first. The RDC writes a modified line of the host back.
Which line or word goes, and when, is the schedule's choice (log entry 68). -/
def Claims.Evictions : Prop :=
  (∀ (s : State) (core w : Nat) (c : Copy), l1Copy s core w = some c →
    (c.st = .cln → (entries s core).length ≤ 64 → ∃ t, exec (.l1Evict core w) s = .next t ∧ l1Copy t core w = none ∧ CopyFrame s t core [w] ∧ t.msgs = s.msgs) ∧
    (c.st = .reg ∨ c.st = .drt ∧ homeOf w = 0 → (entries s core).length + 2 ≤ 64 →
      ∃ t, exec (.l1Evict core w) s = .next t ∧ l1Copy t core w = none ∧ CopyFrame s t core (pairOf w) ∧
        let mask := if c.st = .reg then 0xF else c.mask
        ⟨w, c.val, mask, c.poison, c.st == .reg, s.msgSeq⟩ ∈ entries t core ∧
        ∃ x ∈ t.msgs, x.kind = .wb ∧ x.src = .core core ∧ x.form = (if c.st = .reg then 0 else 1) ∧ x.serial = s.msgSeq ∧
          ⟨w, c.val, mask, c.poison, none⟩ ∈ x.vals) ∧
    (c.st = .reg ∨ c.st = .drt ∧ homeOf w = 0 → 64 ≤ (entries s core).length → exec (.l1Evict core w) s = .next s)) ∧
  (∀ (s : State) (core w : Nat), l1Copy s core w = none → exec (.l1Evict core w) s = .next s) ∧
  (∀ (s : State) (line : Nat), cached s line = true → (∀ w ∈ lineWords line, isLost s w = false) →
    ((∀ w ∈ lineWords line, IsVal s w) → ∃ t, exec (.l2Evict line) s = .next t ∧ cached t line = false ∧
      (∀ l, l ≠ line → cached t l = cached s l) ∧ t = { s with l2 := t.l2, l2Evict := t.l2Evict }) ∧
    (∀ w ∈ lineWords line, ∀ who, OwnedBy s w who → (∀ x ∈ s.msgs, x.names w = false) →
      ∃ t, exec (.l2Evict line) s = .next t ∧ t = { s with msgs := t.msgs, msgSeq := t.msgSeq, l2Evict := t.l2Evict } ∧
        ∃ x ∈ t.msgs, x.kind = .rcl ∧ x.dst = who ∧ w ∈ x.words)) ∧
  (∀ (s : State) (line : Nat), cached s line = false → exec (.l2Evict line) s = .next s) ∧
  (∀ (s : State) (line : Nat) (l : HostLine), homeOf line = 2 → tfind s.hostLines line = some l →
    ∃ t, exec (.rdcEvict line) s = .next t ∧ t = { s with msgs := t.msgs, msgSeq := t.msgSeq, hostLines := tdel s.hostLines line } ∧
      (l.st ≠ .modified → t.msgs = s.msgs) ∧
      (l.st = .modified → Sent t .wb .rdc .host (fun x => x.addr = line ∧
        x.vals = ((lineWords line).zip l.vals).map fun p => ⟨p.1, p.2.1, 0xF, p.2.2, none⟩))) ∧
  (∀ (s : State) (line w : Nat) (c : Copy), homeOf line ≠ 2 → CachesOk s → w / 128 * 128 = line → rdcCopy s w = some c →
    ∃ t, exec (.rdcEvict line) s = .next t ∧ t.mem = s.mem ∧ t.l1 = s.l1 ∧ t.groups = s.groups ∧
      (∀ x, x / 128 * 128 ≠ line → rdcCopy t x = rdcCopy s x) ∧
      (c.st = .cln ∨ twinGone s = false → rdcCopy t w = none) ∧
      (c.st ≠ .cln → twinGone s = true → rdcCopy t w = some c) ∧
      (c.st ≠ .cln → twinGone s = false → ∃ x ∈ t.msgs, x.kind = .wb ∧ x.src = .rdc ∧ x.form = (if c.st = .reg then 0 else 1) ∧
        ⟨w, c.val, if c.st = .reg then 0xF else c.mask, c.poison, none⟩ ∈ x.vals))

open Sys2Proof.Claims in
/-- R286, R308, R321, R327, R333 and R334: the host. A host read gets the newest value of a word; a host write enters the
home, takes the word from its owner and leaves no clean copy of it, and waits for an owner whose value is still to come (R327;
the model's choice, log entries 122 and 154); a snoop takes a line out of the RDC; the host accepts
write-backs; once it has given a line up, the region splits down to that line, which is the device's. A host access to
memory that does not exist stops the model.
How a region splits (log entry 66), and that a snooped line goes once its dirty words are with the host (log entry 67), are the model's reading too. -/
def Claims.HostAccesses : Prop :=
  (∀ (s : State) (addr : Nat), s.mode ≠ .safe → s.mode ≠ .linkWait → addr / 4 * 4 < 2 ^ 30 * 288 →
    (∃ t, exec (.hostRead addr) s = .next t ∧ t = { s with bias := t.bias, hostRead := t.hostRead } ∧
      (isLost s (addr / 4 * 4) = false → t.hostRead = some (addr / 4 * 4, newest s (addr / 4 * 4))) ∧
      (isLost s (addr / 4 * 4) = true → t.hostRead = some (addr / 4 * 4, 0, true))) ∧
    (∀ v : BitVec 32, ownerWaits s (addr / 4 * 4) = true → exec (.hostWrite addr v) s = .next s) ∧
    (∀ v : BitVec 32, MemoryOk s → ownerWaits s (addr / 4 * 4) = false → ∃ t, exec (.hostWrite addr v) s = .next t ∧ IsVal t (addr / 4 * 4) ∧
      memWord t.mem (addr / 4 * 4) = v ∧ (∀ x, x ≠ addr / 4 * 4 → homeSt t x = homeSt s x) ∧
      (∀ a, a / 4 ≠ addr / 4 → memByte t.mem a = memByte s.mem a) ∧
      (∀ d c, l1Copy t d (addr / 4 * 4) = some c → c.st ≠ .cln) ∧ (∀ d x, x ≠ addr / 4 * 4 → l1Copy t d x = l1Copy s d x) ∧
      t.holding = s.holding ∧ t.groups = s.groups ∧ t.teams = s.teams ∧
      (∀ who, OwnedBy s (addr / 4 * 4) who → ∃ x ∈ t.msgs, x.kind = .xfer ∧ x.dst = who ∧ addr / 4 * 4 ∈ x.words))) ∧
  (∀ (s : State) (addr : Nat) (v : BitVec 32), s.mode ≠ .safe → s.mode ≠ .linkWait → 2 ^ 30 * 288 ≤ addr / 4 * 4 →
    exec (.hostRead addr) s = .fault .noMemory ∧ exec (.hostWrite addr v) s = .fault .noMemory) ∧
  (∀ (s : State) (line : Nat) (l : HostLine), homeOf line = 2 → tfind s.hostLines line = some l → hostBusy s line = false → ∃ t, exec (.hostSnoop line) s = .next t ∧
    t.hostLines = tdel s.hostLines line ∧ t.l1 = s.l1 ∧ t.rdc = s.rdc ∧ t.homes = s.homes ∧ t.groups = s.groups ∧
    (l.st ≠ .modified → t.mem = s.mem) ∧
    (l.st = .modified → MemoryOk s → line % 128 = 0 → ∀ i v, l.vals[i]? = some v → i < 32 → memWord t.mem (line + 4 * i) = v.1)) ∧
  (∀ (s : State) (line : Nat), tfind s.hostLines line = none ∨ hostBusy s line = true → exec (.hostSnoop line) s = .next s) ∧
  (∀ (s : State) (m : Msg) (rest : List Msg) (v : WordVal), Arrives s .rdc .host m rest → m.kind = .wb → m.vals = [v] →
    NoneAwaits s → v.word % 4 = 0 → homeOf v.word = 2 → MemoryOk s →
    ∃ t, exec (.hostWriteBackAccept m.addr) s = .next t ∧ t.msgs = rest ∧
      memWord t.mem v.word = mergeBytes v.mask v.val (memWord s.mem v.word) ∧ HomeFrame s t [v.word]) ∧
  (∀ (s : State) (line : Nat), s.biasWait.contains line = false → exec (.backInvalidationAnswer line) s = .next s) ∧
  (∀ (s : State) (line : Nat), s.biasWait.contains line = true → hostBiased s line = false →
    exec (.backInvalidationAnswer line) s = .next { s with biasWait := s.biasWait.filter fun l => l ≠ line }) ∧
  (∀ (s : State) (line : Nat) (r : BiasRegion), s.biasWait.contains line = true → s.bias = [r] → r.host = true → r.size = 65536 →
    r.base % 128 = 0 → line % 128 = 0 → r.base ≤ line → line < r.base + 65536 → homeOf line = 0 → homeOf (r.base + 65535) = 0 →
    ∃ t, exec (.backInvalidationAnswer line) s = .next t ∧ t = { s with bias := t.bias, biasWait := t.biasWait } ∧
      hostBiased t line = false ∧ (∀ l, r.base ≤ l → l < r.base + 65536 → l % 128 = 0 → l ≠ line → hostBiased t l = true) ∧
      t.biasWait = s.biasWait.filter fun l => l ≠ line) ∧
  (∀ (s : State) (a b : BiasRegion), s.bias = [a, b] → b.base = a.base + a.size → b.size = a.size → a.size ≠ 0 →
    a.base % (2 * a.size) = 0 → 2 * a.size ≤ 65536 → a.host = true → b.host = true → a.since + 65536 ≤ s.clock →
    b.since + 65536 ≤ s.clock →
    exec (.biasMerge a.base) s = .next { s with bias := [⟨a.base, 2 * a.size, true, max a.since b.since⟩] })

namespace Sys2Proof.Claims

/-! ## Engines and queues: R146 to R175, R200, R201 -/

/-- The scalars of a run. -/
def scalars (g : Group) (b : BitVec 6) (n : Nat) : List DWord := (List.range n).map fun i => sReg g (b.toNat + i)

/-- A run of scalars holds no poison. -/
def SoundRun (g : Group) (b : BitVec 6) (n : Nat) : Prop := ∀ i, i < n → tget g.sPoison (b.toNat + i) false = false

/-- The group after the room test has written its status predicate (R148). -/
def status (g : Group) (act : Mask) (pd : BitVec 3) (full : Bool) : Group := decided g act pd fun _ => full

/-- A command as an engine accepts it (R149). -/
def command (s : State) (g : Group) (eng : Nat) (ws : List DWord) : EngCmd :=
  ⟨s.nextId, eng, g.ctx, g.core, g.slot, teamKey s g, ws, false, 0, none, false, 0, none, s.clock, [], false, []⟩

/-- A command that waits to start and was accepted in this clock from a higher core, or from a higher slot of the same core
(R149). -/
def GoesBehind (s : State) (g : Group) (d : EngCmd) : Prop :=
  d.started = false ∧ d.ended = none ∧ d.since = s.clock ∧ (g.core < d.core ∨ g.core = d.core ∧ g.slot < d.slot)

/-- The copy engine that a port names: 4 to a hamlet (R146). -/
def copyEngine (core : Nat) (port : Nat) : Nat := 4 * (core / 48 * 4 + core % 12 / 3) + port

/-- Work as a quadrant accepts it (R167, R170). -/
def IsJob (s : State) (g : Group) (kind : QuadWork) (bank : Nat) (desc : List DWord) (fmt : Word) (j : QuadJob) : Prop :=
  j.id = s.nextId ∧ j.kind = kind ∧ j.ctx = g.ctx ∧ j.core = g.core ∧ j.slot = g.slot ∧ j.bank = bank ∧ j.desc = desc ∧ j.fmt = fmt ∧
  j.cls = g.cls ∧ j.started = false ∧ j.step = 0 ∧ j.ended = none

/-- A quadrant's work ends with a new job, and the rest of the device stays: other quadrants, memory, teams, engines. -/
def Accepted (s t : State) (q : Nat) (j : QuadJob) : Prop :=
  j.unit = q ∧ (quadAt t q).jobs = (quadAt s q).jobs ++ [j] ∧ (quadAt t q).running = (quadAt s q).running ∧
  (∀ p, p ≠ q → quadAt t p = quadAt s p) ∧ t.mem = s.mem ∧ t.teams = s.teams ∧ t.engines = s.engines ∧ t.l1 = s.l1

end Sys2Proof.Claims

open Sys2Proof.Claims in
/-- R147 to R149, R151 and R153: pushc copies its eight scalars to an engine that has room, before those commands of the same
clock that a higher core or slot has pushed, and clears its status predicate in the active lanes; without room it sets them, or waits when it names none; a check that fails is its trap. A push that finds the room taken by a
higher core or slot in the same clock counts for the next one, which is the model's reading of R149 (log entry 127).
The checks of COPY and FILL outside scratchpad, without a barrier or scopes, are those of their words. -/
def Claims.CommandsIssue : Prop :=
  (∀ (f : E) (ox : Option Ox) (s : State) (g : Group) (c : Clause), Issues s g c f.ctr ox → SoundRun g f.s 8 →
    let ws := scalars g f.s 8
    let act := activeMask g c ox
    let eng := if f.eq = 8 then 64 else copyEngine g.core f.eq.toNat
    (cmdFlaws s g (f.eq == 8) ws = [] → spWritePending g = false →
      (engineRoom s eng ws = true → ∃ xs ys, tget s.engines eng [] = xs ++ ys ∧ (∀ d ∈ xs, ¬ GoesBehind s g d) ∧
        (∀ d, ys.head? = some d → GoesBehind s g d) ∧
        exec (.pushc f ox) s = .next (after { s with
          nextId := s.nextId + 1
          engines := tput s.engines eng (xs ++ command s g eng ws :: ys) } (status g act f.pd false) c)) ∧
      (engineRoom s eng ws = false → f.pd = 0 → exec (.pushc f ox) s = .next s) ∧
      (engineRoom s eng ws = false → pushedPast s g eng = true → exec (.pushc f ox) s = .next s) ∧
      (engineRoom s eng ws = false → pushedPast s g eng = false → f.pd ≠ 0 → exec (.pushc f ox) s = .next (after s (status g act f.pd true) c))) ∧
    (∀ x, worstFlaw (cmdFlaws s g (f.eq == 8) ws) = some x → exec (.pushc f ox) s = .next (trapped s g c x.1 act 0xFF x.2 []))) ∧
  (∀ (s : State) (g : Group) (w0 w1 w2 w3 : DWord),
    bitsOf w0 20 36 = 0 → bitsOf w0 0 20 = 0 →
    w1.getLsbD 63 = false → w2.getLsbD 63 = false →
    (bitsOf w0 56 8 = 1 → (cmdFlaws s g false [w0, w1, w2, w3, 0, 0, 0, 0] = [] ↔
      bitsOf w1 48 16 = 0 ∧ bitsOf w2 48 16 = 0 ∧ w1.toNat % 4 = 0 ∧ w2.toNat % 4 = 0 ∧ 4 ≤ w3.toNat ∧ w3.toNat < 2 ^ 40 ∧
      w3.toNat % 4 = 0)) ∧
    (bitsOf w0 56 8 = 5 → (cmdFlaws s g false [w0, w1, w2, w3, 0, 0, 0, 0] = [] ↔
      bitsOf w1 48 16 = 0 ∧ w1.toNat % 8 = 0 ∧ 8 ≤ w3.toNat ∧ w3.toNat < 2 ^ 40 ∧ w3.toNat % 8 = 0)))

open Sys2Proof.Claims in
/-- R164 to R166: qbind gives a free queue register its port, direction and window, with no elements; a register or window
in use is trap 0x01 and a window at or above REGALLOC trap 0x04. qfree takes the binding and its elements away, and what
engines still do through it finds it gone. -/
def Claims.QueueBindings : Prop :=
  (∀ p ∈ ([(.qbindIn, false), (.qbindOut, true)] : List ((EQ → Option Ox → Instr) × Bool)), ∀ (f : EQ) (ox : Option Ox) (s : State)
    (g : Group) (c : Clause), Issues s g c f.ctr ox →
    let win := (ox.map fun o => o.c).getD 0
    (beyond g win = true → exec (p.1 f ox) s = .next (trapped s g c 4 (execMask g c) 0xFF 0 [])) ∧
    (beyond g win = false → tfind g.queues f.n.toNat = none → windowOf g win = none →
      exec (p.1 f ox) s = .next (after s { g with queues := tput g.queues f.n.toNat ⟨f.eq.toNat, p.2, win.toNat, []⟩ } c)) ∧
    (beyond g win = false → tfind g.queues f.n.toNat ≠ none ∨ windowOf g win ≠ none →
      exec (p.1 f ox) s = .next (trapped s g c 1 (activeMask g c ox) 0xFF 0 []))) ∧
  (∀ (f : EF) (ox : Option Ox) (s : State) (g : Group) (c : Clause), Issues s g c f.ctr ox →
    ∃ t h, exec (.qfree f ox) s = .next t ∧ groupAt t g.core g.slot = some h ∧ tfind h.queues f.n.toNat = none ∧
      (∀ n, n ≠ f.n.toNat → tfind h.queues n = tfind g.queues n) ∧ h.v = g.v ∧ h.s = g.s ∧ h.cnt = g.cnt ∧ t.mem = s.mem ∧
      (∀ e, ∀ d ∈ tget t.engines e [], d.core = g.core → d.slot = g.slot → d.queue = some f.n.toNat → d.freed = true) ∧
      (∀ q, ∀ j ∈ (quadAt t q).jobs, j.core = g.core → j.slot = g.slot → j.queue = some f.n.toNat → j.freed = true))

open Sys2Proof.Claims in
/-- R167, R168, R170, R172, R173, R200 and R201: matrix work is accepted in order by the quadrant of the port. mzero claims
its bank, mloop records its format word in the bank, mscale writes one chunk of a slot of a scale ring, the drains stay
outstanding until they have delivered, and dntile waits for the group's earlier accumulations and does nothing where no active
lane has a ray. mloop traps with 0x40 where the lanes' format words differ, with those lanes, or where the word breaks a rule.
Where the room test fails, the instruction sets its status predicate in the active lanes and does nothing, or waits.
That the counters of mscale, mstat and a refused mloop go up and down in one step (log entry 23), and the alignments checked beyond R168 (log entry 25), are the model's reading. -/
def Claims.MatrixWorkIssues : Prop :=
  (∀ (f : E) (ox : Ox) (s : State) (g : Group) (c : Clause), Issues s g c f.ctr (some ox) → SoundRun g f.s 8 → Plain g ox.c →
    let act := activeMask g c (some ox)
    let q := copyEngine g.core (f.eq.toNat - 4)
    let d := scalars g f.s 8
    let b := bitsOf (d.getD 6 0) 20 2
    ∀ w, (∀ l, On act l → readV g ox.c l = w) → Sound g act ox.c → fmtOk w = true → otherAcc s g.ctx q b w = false →
      loopFlaws s g q d = [] → loopsOf s q < 8 →
      ∃ t j, exec (.mloop f ox) s = .next t ∧ Accepted s t q j ∧ IsJob s g .loop b d w j ∧ (bankAt t q b).fmt = some w ∧
        (bankAt t q b).elems = (bankAt s q b).elems ∧ groupAt t g.core g.slot = some (advance s (status g act f.pd false) c)) ∧
  (∀ (f : E) (ox : Ox) (s : State) (g : Group) (c : Clause), Issues s g c f.ctr (some ox) → SoundRun g f.s 8 → Plain g ox.c →
    Sound g (activeMask g c (some ox)) ox.c →
    let act := activeMask g c (some ox)
    let q := copyEngine g.core (f.eq.toNat - 4)
    let d := scalars g f.s 8
    let b := bitsOf (d.getD 6 0) 20 2
    (∀ (l0 : Nat) (m : Mask), lowestLane act = some l0 → m ≠ 0 →
      (∀ l, m.getLsbD l = (act.getLsbD l && readV g ox.c l != readV g ox.c l0)) →
      exec (.mloop f ox) s = .next (trapped s g c 0x40 m 0xFF 0 [])) ∧
    ∀ w, (∀ l, On act l → readV g ox.c l = w) →
      (fmtOk w = false ∨ otherAcc s g.ctx q b w = true → exec (.mloop f ox) s = .next (trapped s g c 0x40 act 0xFF 0 [])) ∧
      (fmtOk w = true → otherAcc s g.ctx q b w = false → loopFlaws s g q d = [] → 8 ≤ loopsOf s q →
        (f.pd = 0 → exec (.mloop f ox) s = .next s) ∧
        (f.pd ≠ 0 → exec (.mloop f ox) s = .next (after s (status g act f.pd true) c)))) ∧
  (∀ w : Word, fmtOk w = true → w.toNat % 32 < 0x14 ∧ w.toNat / 2 ^ 5 % 32 < 0x14 ∧ w.toNat / 2 ^ 10 % 4 < 2 ∧
    w.toNat / 2 ^ 16 % 4 ≠ 3 ∧ (w.toNat / 2 ^ 10 % 4 = 1 → w.toNat / 2 ^ 16 % 4 = 0) ∧ w.toNat < 2 ^ 18) ∧
  (∀ (f : E) (ox : Ox) (s : State) (g : Group) (c : Clause), Issues s g c f.ctr (some ox) → Plain g ox.c → fieldPoison g ox.c = 0 →
    let act := activeMask g c (some ox)
    let q := copyEngine g.core (f.eq.toNat - 4)
    let b := f.s.toNat / 8 % 4
    let old := if f.s.getLsbD 5 then (bankAt s q b).ringB else (bankAt s q b).ringA
    ((bankAt s q b).owner ≠ some g.ctx → exec (.mscale f ox) s = .next (trapped s g c 1 act 0xFF 0 [])) ∧
    ((bankAt s q b).owner = some g.ctx → (ringSlot old old.wptr).full = true →
      (f.pd = 0 → exec (.mscale f ox) s = .next s) ∧
      (f.pd ≠ 0 → exec (.mscale f ox) s = .next (after s (status g act f.pd true) c)))) ∧
  (∀ (f : E) (ox : Ox) (s : State) (g : Group) (c : Clause), Issues s g c f.ctr (some ox) → Plain g ox.c → fieldPoison g ox.c = 0 →
    let act := activeMask g c (some ox)
    let q := copyEngine g.core (f.eq.toNat - 4)
    let b := f.s.toNat / 8 % 4
    let chunk := f.s.toNat / 2 % 4
    let ring := fun (x : Bank) => if f.s.getLsbD 5 then x.ringB else x.ringA
    let old := ring (bankAt s q b)
    (bankAt s q b).owner = some g.ctx → (ringSlot old old.wptr).full = false →
    ∃ t, exec (.mscale f ox) s = .next t ∧ groupAt t g.core g.slot = some (advance s (status g act f.pd false) c) ∧
      (∀ l, l < 128 → tget (ringSlot (ring (bankAt t q b)) old.wptr).entries (128 * chunk + l) 0 = readV g ox.c l) ∧
      (∀ k, k < 128 * chunk ∨ 128 * chunk + 128 ≤ k →
        tget (ringSlot (ring (bankAt t q b)) old.wptr).entries k 0 = tget (ringSlot old old.wptr).entries k 0) ∧
      (ringSlot (ring (bankAt t q b)) old.wptr).full = f.s.getLsbD 0 ∧
      (ring (bankAt t q b)).wptr = (if f.s.getLsbD 0 then old.wptr + 1 else old.wptr) ∧
      (bankAt t q b).elems = (bankAt s q b).elems ∧ (∀ p, p ≠ q → quadAt t p = quadAt s p) ∧ t.mem = s.mem) ∧
  (∀ (f : EZ) (ox : Option Ox) (s : State) (g : Group) (c : Clause), Issues s g c f.ctr ox →
    let q := copyEngine g.core (f.eq.toNat - 4)
    let b := f.bank.toNat
    (((bankAt s q b).owner = none ∨ (bankAt s q b).owner = some g.ctx) →
      ∃ t j h, exec (.mzero f ox) s = .next t ∧ Accepted s t q j ∧ IsJob s g .zero b [] 0 j ∧
        (bankAt t q b).owner = some g.ctx ∧ (bankAt t q b).fmt = none ∧ groupAt t g.core g.slot = some h ∧
        cnt h f.ctr.toNat = cnt g f.ctr.toNat + 1 ∧ (∃ o, h.ops = g.ops ++ [o] ∧ o.kind = .mzero q b ∧ o.id = j.op)) ∧
    (∀ other, (bankAt s q b).owner = some other → other ≠ g.ctx →
      (f.pd = 0 → exec (.mzero f ox) s = .next s) ∧
      (f.pd ≠ 0 → exec (.mzero f ox) s = .next (after s (status g (activeMask g c ox) f.pd true) c)))) ∧
  (∀ p ∈ ([(.mdrainQ, .drainQ), (.mdrainSp, .drainSp)] : List ((EN → Option Ox → Instr) × QuadWork)), ∀ (f : EN) (ox : Option Ox)
    (s : State) (g : Group) (c : Clause), Issues s g c f.ctr ox → SoundRun g f.s 2 →
    let q := copyEngine g.core (f.eq.toNat - 4)
    let d := scalars g f.s 2
    let n := drainBytes (((bankAt s q (dBank d)).fmt).getD 0)
    drainFlaws s g q d = [] →
    (p.2 = .drainQ → dOfs d < 16 ∧ dPitch d = 0 ∧ boundToDrain g (dOfs d) f.eq = true) →
    (p.2 = .drainSp → dOfs d % n = 0 ∧ dPitch d % 4 = 0 ∧ dCols d * n ≤ dPitch d ∧
      ∀ r, r < dRows d → dOfs d + r * dPitch d + dCols d * n ≤ scratchOf s g) →
    ∃ t j h, exec (p.1 f ox) s = .next t ∧ Accepted s t q j ∧ IsJob s g p.2 (dBank d) d (((bankAt s q (dBank d)).fmt).getD 0) j ∧
      groupAt t g.core g.slot = some h ∧ cnt h f.ctr.toNat = cnt g f.ctr.toNat + 1 ∧
      ∃ o, h.ops = g.ops ++ [o] ∧ o.kind = .mdrain q ∧ o.id = j.op) ∧
  (∀ (f : YN) (ox : Option Ox) (s : State) (g : Group) (c : Clause), Issues s g c f.ctr ox → SoundRun g f.d 4 →
    let q := copyEngine g.core f.k.toNat
    let d := scalars g f.d 4
    tileFlaws s g q d = [] →
    (activeMask g c ox &&& rayLanes g = 0 → exec (.dntile f ox) s = .next (after s g c)) ∧
    (activeMask g c ox &&& rayLanes g ≠ 0 → (∀ o ∈ g.ops, o.kind ≠ .accum) → loopsOf s q < 8 →
      ∃ t j, exec (.dntile f ox) s = .next t ∧ Accepted s t q j ∧ IsJob s g .denoise (bitsOf (d.getD 3 0) 20 2) d 0 j ∧
        groupAt t g.core g.slot = some (advance s g c)) ∧
    (activeMask g c ox &&& rayLanes g ≠ 0 → (∃ o ∈ g.ops, o.kind = .accum) ∨ 8 ≤ loopsOf s q →
      exec (.dntile f ox) s = .next s))

namespace Sys2Proof.Claims

/-- The order of merge path: signed or unsigned (R175). -/
def mergeLe (sgn : Bool) (x y : Word) : Bool := if sgn then decide (x.toInt ≤ y.toInt) else decide (x.toNat ≤ y.toNat)

/-- A sequence of `n` words in rising order. -/
def Rising (sgn : Bool) (a : Nat → Word) (n : Nat) : Prop := ∀ i j, i ≤ j → j < n → mergeLe sgn (a i) (a j) = true

end Sys2Proof.Claims

open Sys2Proof.Claims in
/-- R174 and R175: mstat tells which banks the context holds, which others do, where work is pending, how many loops are
accepted, and whether a loop runs and with what class. mpath gives, for a place of the merge of two rising sequences, how many elements come from the first; an
element of the first goes before an equal one of the second.
That RUN and CLS tell of a step in the array (log entry 85) and that mpath reads at its issue (log entry 29) are the model's choices. -/
def Claims.MatrixStatusAndMergePath : Prop :=
  (∀ (f : EN) (ox : Option Ox) (s : State) (g : Group) (c : Clause), Issues s g c f.ctr ox →
    let q := copyEngine g.core (f.eq.toNat - 4)
    ∃ v : DWord, exec (.mstat f ox) s = .next (after s (setS g f.s.toNat v) c) ∧
      (loopsOf s q ≤ 8 → v.toNat / 2 ^ 16 % 16 = loopsOf s q) ∧
      (loopsOf s q ≤ 8 → (quadAt s q).running = none → v.toNat / 2 ^ 20 = 0) ∧
      (∀ id j, loopsOf s q ≤ 8 → (quadAt s q).running = some id → (quadAt s q).jobs.find? (fun x => x.id == id) = some j → j.cls < 8 →
        v.toNat / 2 ^ 24 = 8 + j.cls ∧ v.toNat / 2 ^ 20 % 16 = 0) ∧ ∀ b, b < 4 →
      (v.getLsbD b = decide ((bankAt s q b).owner = some g.ctx)) ∧
      (v.getLsbD (4 + b) = ((bankAt s q b).owner.isSome && decide ((bankAt s q b).owner ≠ some g.ctx))) ∧
      (v.getLsbD (8 + b) = (quadAt s q).jobs.any fun j => j.bank == b && j.kind != .zero && j.ended.isNone)) ∧
  (∀ (f : EP) (ox : Ox) (s : State) (g : Group) (c : Clause) (r : Nat → Word) (us : Nat → List LaneRef), Issues s g c f.ctr (some ox) →
    Plain g ox.c → SoundRun g f.s 4 → Sound g (activeMask g c (some ox)) ox.c → pathFlaws (scalars g f.s 4) = [] →
    (∀ o ∈ g.ops, o.kind.writes = false) →
    (∀ l, On (activeMask g c (some ox)) l → mergeLane s g (scalars g f.s 4) (readV g ox.c l) = .ok (r l) false (us l) ∧
      ∀ u ∈ us l, u.mt ≠ .dev ∧ u.mt ≠ .sor ∧ (logMode s g.ctx = 1 → racy s g.ctx g.core (pathStamp s g.core u.loc) = false)) →
    exec (.mpath f ox) s = .next (after s (setV g ox.c.toNat (activeMask g c (some ox)) r) c)) ∧
  (∀ (a b : Nat → Word) (sgn : Bool) (n na nb : Nat), Rising sgn a na → Rising sgn b nb → na < 2 ^ 32 → nb < 2 ^ 32 → n ≤ na + nb →
    ∃ r, mergeSearch (fun i => .ok (a i) false []) (fun i => .ok (b i) false []) sgn n 34 (n - nb) (min n na) false [] =
        .ok (BitVec.ofNat 32 r) false [] ∧
      r ≤ na ∧ r ≤ n ∧ n - r ≤ nb ∧
      (∀ i j, i < r → n - r ≤ j → j < nb → mergeLe sgn (a i) (b j) = true) ∧
      (∀ i j, r ≤ i → i < na → j < n - r → mergeLe sgn (a i) (b j) = false))

namespace Sys2Proof.Claims

/-- One word moves from a place to another, its poison mark with it (R125, R154). -/
def WordMoves (s t : State) (src dst : EngMem) (a b : Nat) (poison : Bool) : Prop :=
  ∃ v, engRead s src a = .ok (v, poison) ∧ engWrite s dst b 0xF v poison = .ok t

/-- Some moves one after the other: `σ i` is the device before move `i`. -/
def Moves (n first : Nat) (σ : Nat → State) (p : Nat → Bool) (move : State → State → Nat → Bool → Prop) : Prop :=
  ∀ i, i < n → move (σ i) (σ (i + 1)) (first + i) (p i)

/-- A command has ended with class 0, or 0x10 when it moved poison, and the rest of the device is as its moves left it. -/
def CommandDone (u t : State) (eng : Nat) (c : EngCmd) (n : Nat) (p : Nat → Bool) : Prop :=
  t.mem = u.mem ∧ t.memPoison = u.memPoison ∧ t.homes = u.homes ∧ t.rdc = u.rdc ∧ t.l1 = u.l1 ∧ t.teams = u.teams ∧ t.groups = u.groups ∧
  ∃ d ∈ tget t.engines eng [], d.id = c.id ∧ d.ended = some 0 ∧ d.worst = if (List.range n).any p then max c.worst 0x10 else c.worst

/-- A TCOPY as it stands once it has read its records, on pages that are neither DEV nor SOR (R156, R160). -/
def withRecords (s : State) (eng : Nat) (c : EngCmd) (a b : Tensor) : State :=
  updCmd (startCmd s eng c) eng c.id fun d => { d with recs := (a.w ++ b.w).map fun w => (w, false), io := false }

/-- Neither tensor of a TCOPY has a byte on a DEV or SOR page. -/
def PlainPages (s : State) (c : EngCmd) (a b : Tensor) : Prop :=
  ∀ j, j < a.bytes → ioPage s (a.mem c) (a.byteAt j) = false ∧ ioPage s (b.mem c) (b.byteAt j) = false

/-- A GATHER or SCATTER as it has started: the device, and the command in it. -/
def rowsStarted (s : State) (eng : Nat) (c : EngCmd) : State := startRows s eng c
def rowsCommand (s : State) (eng : Nat) (c : EngCmd) : EngCmd := cmdNow (startRows s eng c) eng c

/-- The place of a PRDX in memory. -/
def pairMem (c : EngCmd) : EngMem := ⟨c.ctx, c.team, c.unit, false, none⟩

/-- A command of a code may run, under its own name, on an engine. -/
structure Runs (s : State) (eng code : Nat) (c : EngCmd) : Prop where
  first : runnable s eng code = some c
  named : ∀ d ∈ tget s.engines eng [], d.id = c.id → d = c

end Sys2Proof.Claims

open Sys2Proof.Claims in
/-- R150, R154, R155 and R160: COPY, FILL, GATHER and SCATTER move their words one after the other, in rising order, and
end with class 0, a GATHER or SCATTER whose table lies on no DEV or SOR page; a first word that meets an absent page makes
the command wait and is reported, and one whose page has still to be walked asks for the walk; an engine with nothing that
may run changes nothing. That a command makes all its moves in one turn, up to its first fault or wait, and in rising order, is
the model's choice (log entries 21, 28); GATHER and SCATTER on a queue go element by element (log entry 129). -/
def Claims.CopyEnginesMove : Prop :=
  (∀ (s : State) (eng : Nat) (c : EngCmd) (σ : Nat → State) (p : Nat → Bool), Runs s eng 1 c → σ 0 = startCmd s eng c →
    let n := bitsOf (c.w 3) 0 40 / 4 - c.pos
    Moves n c.pos σ p (fun s t i q => WordMoves s t (engMem c.ctx c.team c.unit (c.w 1)) (engMem c.ctx c.team c.unit (c.w 2))
      (bitsOf (c.w 1) 0 48 + 4 * i) (bitsOf (c.w 2) 0 48 + 4 * i) q) →
    ∃ t, exec (.copy eng) s = .next t ∧ CommandDone (σ n) t eng c n p) ∧
  (∀ (s : State) (eng : Nat) (c : EngCmd) (σ : Nat → State), Runs s eng 5 c → σ 0 = startCmd s eng c →
    let n := bitsOf (c.w 3) 0 40 / 4 - c.pos
    Moves n c.pos σ (fun _ => false) (fun s t i _ => engWrite s (engMem c.ctx c.team c.unit (c.w 1)) (bitsOf (c.w 1) 0 48 + 4 * i) 0xF
      ((c.w 2).extractLsb' (32 * (i % 2)) 32) false = .ok t) →
    ∃ t, exec (.fill eng) s = .next t ∧ CommandDone (σ n) t eng c n fun _ => false) ∧
  (∀ (s : State) (eng : Nat) (c : EngCmd) (σ : Nat → State) (p : Nat → Bool), Runs s eng 3 c → c.queue = none →
    (rowsCommand s eng c).io = false → σ 0 = rowsStarted s eng c →
    let n := streamWords c - c.pos
    Moves n c.pos σ p (fun s t i q => ∃ v, gatherWord s (rowsCommand (σ 0) eng c) i = .ok (v, q) ∧
      engWrite s (engMem c.ctx c.team c.unit (c.w 5)) (bitsOf (c.w 5) 0 48 + 4 * i) 0xF v.1 v.2 = .ok t) →
    ∃ t, exec (.gather eng) s = .next t ∧ CommandDone (σ n) t eng c n p) ∧
  (∀ (s : State) (eng : Nat) (c : EngCmd) (σ : Nat → State) (p : Nat → Bool), Runs s eng 4 c → c.queue = none →
    (rowsCommand s eng c).io = false → σ 0 = rowsStarted s eng c →
    let n := streamWords c - c.pos
    Moves n c.pos σ p (fun s t i q => ∃ v, engRead s (engMem c.ctx c.team c.unit (c.w 5)) (bitsOf (c.w 5) 0 48 + 4 * i) = .ok v ∧
      scatterWord s (rowsCommand (σ 0) eng c) i v = .ok (t, q)) →
    ∃ t, exec (.scatter eng) s = .next t ∧ CommandDone (σ n) t eng c n p) ∧
  (∀ (s : State) (eng : Nat) (c : EngCmd), Runs s eng 1 c → c.started = true → c.pos = 0 → 4 ≤ bitsOf (c.w 3) 0 40 →
    engRead s (engMem c.ctx c.team c.unit (c.w 1)) (bitsOf (c.w 1) 0 48) = .error 0x20 →
    ∃ t, exec (.copy eng) s = .next t ∧ t.mem = s.mem ∧ t.teams = s.teams ∧
      ∃ d ∈ tget t.engines eng [], d.id = c.id ∧ d.ended = none ∧ d.pos = 0 ∧ d.wait = some (bitsOf (c.w 1) 0 48 / 4096)) ∧
  (∀ (s : State) (eng : Nat) (c : EngCmd), Runs s eng 1 c → c.started = true → c.pos = 0 → 4 ≤ bitsOf (c.w 3) 0 40 →
    engRead s (engMem c.ctx c.team c.unit (c.w 1)) (bitsOf (c.w 1) 0 48) = .error waitWalk →
    ∃ t, exec (.copy eng) s = .next t ∧ t.mem = s.mem ∧ t.teams = s.teams ∧ t.msgs = s.msgs ∧ t.events = s.events ∧
      (askWalk s c.ctx (unitTlb eng) (bitsOf (c.w 1) 0 48) false).walkQ = t.walkQ ∧
      ∃ d ∈ tget t.engines eng [], d.id = c.id ∧ d.ended = none ∧ d.pos = 0 ∧ d.wait = none) ∧
  (∀ p ∈ ([.copy, .fill, .gather, .scatter, .tcopy, .prdx] : List (Nat → Instr)), ∀ (s : State) (eng : Nat),
    (∀ c ∈ tget s.engines eng [], c.ended.isSome = true) → exec (p eng) s = .next s)

open Sys2Proof.Claims in
/-- R154, R274, R307 and R322: what a word of an engine's move is. A read of a word of this device gives its newest value,
one of a discarded page zero, one of scratchpad the word of the command's team; a write reaches exactly its bytes, at the
home, and a part of a word that a core owns goes to that core; on a DEV or SOR page the part waits until the owner has given the
word back, so that every later load finds it (item 2 of R302, the model's reading, log entry 71). -/
def Claims.EngineAccesses : Prop :=
  (∀ (s : State) (m : EngMem) (a : Nat) (leaf : Leaf), m.sp = false → engXlat s m (a / 4 * 4) 4 .read = .ok leaf →
    (leaf.dsc = false → homeOf (leaf.at (a / 4 * 4)) = 0 → hostBiased s (lineBase (leaf.at a)) = false → engRead s m a = .ok (newest s (leaf.at (a / 4 * 4)))) ∧
    (leaf.dsc = true → engRead s m a = .ok (0, false))) ∧
  (∀ (s : State) (m : EngMem) (a : Nat) (t : Team), m.sp = true → teamOf s m.team = some t →
    engRead s m a = .ok (memWord t.mem (a / 4 * 4), tget t.poison (a / 4 * 4) false)) ∧
  (∀ (s : State) (m : EngMem) (a : Nat) (mask : BitVec 4) (v : Word) (poison : Bool) (leaf : Leaf), m.sp = false → MemoryOk s →
    engXlat s m (a / 4 * 4) 4 .write = .ok leaf → let w := leaf.at (a / 4 * 4)
    let io := leaf.mt = .dev ∨ leaf.mt = .sor
    w % 4 = 0 → homeOf w = 0 → isLost s w = false → hostBiased s (lineBase w) = false →
    (io → mask ≠ 0xF → (ownerOf s w).isSome = true → engWrite s m a mask v poison = .error waitWord) ∧
    ((io → mask = 0xF ∨ ownerOf s w = none) → ∃ t, engWrite s m a mask v poison = .ok t ∧ t.teams = s.teams ∧ t.groups = s.groups ∧
      (∀ b, b / 4 * 4 ≠ w → memByte t.mem b = memByte s.mem b) ∧
      (∀ who, OwnedBy s w who → mask ≠ 0xF → t.mem = s.mem ∧ Sent t .mfwd (homeAgent w) who fun x => x.vals = [⟨w, v, mask, poison, none⟩]) ∧
      (IsVal s w ∨ mask = 0xF → IsVal t w ∧ memWord t.mem w = mergeBytes mask v (memWord s.mem w)))) ∧
  (∀ (s : State) (m : EngMem) (a : Nat) (v : Word) (poison : Bool) (t0 : Team), m.sp = true → teamOf s m.team = some t0 →
    Memory.wf t0.mem = true →
    ∃ t t1, engWrite s m a 0xF v poison = .ok t ∧ teamOf t m.team = some t1 ∧ memWord t1.mem (a / 4 * 4) = v ∧ t.mem = s.mem ∧
      ∀ b, b / 4 * 4 ≠ a / 4 * 4 → memByte t1.mem b = memByte t0.mem b)

namespace Sys2Proof.Claims

/-- R162: the status word after a completion with a class by an engine. -/
structure StatusAfter (old new : DWord) (cls ident : Nat) : Prop where
  valid : new.getLsbD 63 = true
  zero : bitsOf new 32 31 = 0
  worst : bitsOf new 24 8 = max cls (if old.getLsbD 63 then bitsOf old 24 8 else 0)
  hamlet : bitsOf new 21 3 = ident / 32
  unit : bitsOf new 16 5 = ident % 32
  count : bitsOf new 0 16 = ((if old.getLsbD 63 then bitsOf old 0 16 else 0) + 1) % 2 ^ 16

end Sys2Proof.Claims

open Sys2Proof.Claims in
/-- R156 to R159 and R162: TCOPY moves the bytes of its rows when its records agree and ends with class 0x18 when they do
not; LAUNCH places its record in its queue and moves WR on; PRDX sends its contribution and ends with class 0x1A on a device
without a twin when it needs one; PRDX_COMBINE of one device combines element by element; ENGINE_CMD_COMPLETE takes ended
work away with one status word and one arrival, once its release has ended, and leaves other work alone. That a LAUNCH
remembers its queue and index is the model's own bookkeeping (log entry 55), that a release waits for what the RDC has to
register or write back is its reading of R160 (log entry 134), and the single turn of a command's moves its choice (log
entries 21, 28). So is log entry 129. -/
def Obligations.EngineCommandsComplete : Prop :=
  (∀ (s : State) (eng : Nat) (c : EngCmd) (a b : Tensor), Runs s eng 2 c → c.recs = [] →
    readTensor (startCmd s eng c) c.ctx c.team c.unit (c.w 1) = .ok (a, false) →
    readTensor (startCmd s eng c) c.ctx c.team c.unit (c.w 2) = .ok (b, false) →
    let fits := a.ok (teamSize s c.team) (c.team == 0) && b.ok (teamSize s c.team) (c.team == 0) && sameShape a b
    (fits = false → exec (.tcopy eng) s = .next (endCmd (startCmd s eng c) eng c 0x18)) ∧
    (∀ (σ : Nat → State) (p : Nat → Bool), fits = true → PlainPages s c a b → σ 0 = withRecords s eng c a b →
      let n := a.rowBytes * (a.dim 1 * a.dim 2 * a.dim 3) - c.pos
      Moves n c.pos σ p (fun s t i q => tensorByte c a b s i = .ok (t, q)) →
      ∃ t, exec (.tcopy eng) s = .next t ∧ CommandDone (σ n) t eng c n p)) ∧
  (∀ (s : State) (eng : Nat) (c : EngCmd) (σ : Nat → State) (p : Nat → Bool), Runs s eng 2 c → c.started = true → c.recs ≠ [] →
    c.io = false → σ 0 = s →
    let n := c.recA.bytes - c.pos
    Moves n c.pos σ p (fun s t i q => tensorByte c c.recA c.recB s i = .ok (t, q)) →
    ∃ t, exec (.tcopy eng) s = .next t ∧ CommandDone (σ n) t eng c n p) ∧
  (∀ (s : State) (c : EngCmd) (ws : List (Word × Bool)) (σ : Nat → State),
    (mayRun (tget s.engines 64 [])).find? (fun c => !c.started) = some c → (∀ d ∈ tget s.engines 64 [], d.id = c.id → d = c) →
    (c.w 0).getLsbD 55 = false →
    let q := bitsOf (c.w 2) 0 5
    qRoom s q = true → engReads s (pairMem c) (bitsOf (c.w 1) 0 48) 16 = .ok ws → σ 0 = s →
    (∀ k, k < 16 → engWrite (σ k) (pairMem c) (qRing s q + 64 * (qWr s q % qSize s q) + 4 * k) 0xF
      (ws.getD k (0, false)).1 (ws.getD k (0, false)).2 = .ok (σ (k + 1))) →
    ∃ t, exec .launch s = .next t ∧ qWr t q = (qWr s q + 1) % 2 ^ 32 ∧ t.mem = (σ 16).mem ∧
      ∃ d ∈ tget t.engines 64 [], d.id = c.id ∧ d.started = true ∧ d.wait = some (qWr s q * 32 + q)) ∧
  (∀ (s : State) (eng : Nat) (c : EngCmd),
    (mayRun (tget s.engines eng [])).find? (fun c => c.code == 7 && !(s.pairReds.any fun p => p.cmd == c.id && !p.far)) = some c →
    (∀ d ∈ tget s.engines eng [], d.id = c.id → d = c) →
    (prdxDev c.words = 2 → s.isW = false → exec (.prdx eng) s = .next (endCmd (startCmd s eng c) eng c 0x1A)) ∧
    (∀ (v : Nat → Word) (bad : Nat → Bool), prdxDev c.words = 1 → c.recs = [] →
      (∀ i, i < prdxN c.words * (prdxBytes (prdxOp c.words) / 4) →
        engRead (startCmd s eng c) (pairMem c) (bitsOf (c.w 1) 0 48 + 4 * i) = .ok (v i, bad i)) →
      ∃ t, exec (.prdx eng) s = .next t ∧ t.mem = s.mem ∧ t.teams = s.teams ∧ t.groups = s.groups ∧ t.nextId = s.nextId + 1 ∧
        t.pairReds = s.pairReds ++ [⟨s.nextId, false, eng, c.id, c.ctx, (List.range (prdxN c.words)).map fun i =>
          if prdxOp c.words = 3 then (v (2 * i + 1) ++ v (2 * i), bad (2 * i) || bad (2 * i + 1)) else ((v i).zeroExtend 64, bad i),
          c.words, 0⟩])) ∧
  (∀ (s : State) (idx : Nat) (p : PairRed) (σ : Nat → State), s.pairReds[idx]? = some p → prdxDev p.words = 1 → p.far = false →
    (∀ c ∈ tget s.engines p.eng [], c.id = p.cmd → c.wait = none) →
    σ 0 = s →
    (∀ i, i < prdxN p.words - p.done → combineElem p.ctx p.eng p.words [p.src] (σ i) (p.done + i) = .ok (σ (i + 1), false)) →
    ∃ t, exec (.prdxCombine idx) s = .next t ∧ t.mem = (σ (prdxN p.words - p.done)).mem ∧ (∀ r ∈ t.pairReds, r.id ≠ p.id) ∧
      ∀ d ∈ tget t.engines p.eng [], d.id = p.cmd → d.ended = some 0) ∧
  (∀ (s : State) (eng : Nat) (c : EngCmd) (cls : Nat) (t0 : Team), eng < 32 →
    (tget s.engines eng []).find? (fun d => d.id == c.id) = some c → c.ended = some cls →
    (c.w 0).getLsbD 51 = false ∨ bitsOf (c.w 0) 48 3 < 4 →
    ((c.w 0).getLsbD 46 = false → exec (.engineCmdComplete eng c.id) s =
      .next { s with engines := tput s.engines eng ((tget s.engines eng []).filter fun d => d.id ≠ c.id) }) ∧
    ((c.w 0).getLsbD 46 = true → teamOf s c.team = some t0 → Memory.wf t0.mem = true → cls < 2 ^ 8 → c.worst < 2 ^ 8 →
      ∃ t t1, exec (.engineCmdComplete eng c.id) s = .next t ∧ teamOf t c.team = some t1 ∧ t.mem = s.mem ∧
        StatusAfter (spDWord t0 (bitsOf (c.w 0) 0 20 + 8)) (spDWord t1 (bitsOf (c.w 0) 0 20 + 8))
          (max cls c.worst) (eng / 4 * 32 + eng % 4) ∧
        spDWord t1 (bitsOf (c.w 0) 0 20) = barArrive (spDWord t0 (bitsOf (c.w 0) 0 20)) ∧
        ∀ d ∈ tget t.engines eng [], d.id ≠ c.id)) ∧
  (∀ (s : State) (eng : Nat) (c : EngCmd), eng < 32 → (tget s.engines eng []).find? (fun d => d.id == c.id) = some c →
    c.ended.isSome = true → (c.w 0).getLsbD 51 = true → 5 ≤ bitsOf (c.w 0) 48 3 → (∃ e ∈ s.hostLines, e.2.st = .modified) →
    ∃ t, exec (.engineCmdComplete eng c.id) s = .next t ∧ t.engines = s.engines ∧ t.teams = s.teams ∧ t.mem = s.mem) ∧
  (∀ (s : State) (eng id : Nat), eng < 32 ∨ eng = 64 → (∀ c ∈ tget s.engines eng [], c.id = id → c.ended = none) →
    exec (.engineCmdComplete eng id) s = .next s)

namespace Sys2Proof.Claims

/-! ## The matrix engine at work: R70, R167, R171 to R173, R202, R268, R361, R364 -/

/-- Only quadrant `q` of a device has changed, and what groups and coalescers hold. -/
def QuadOnly (s t : State) (q : Nat) : Prop :=
  (∀ p, p ≠ q → quadAt t p = quadAt s p) ∧ t.mem = s.mem ∧ t.engines = s.engines ∧ t.l1 = s.l1 ∧ t.homes = s.homes ∧ t.rdc = s.rdc

/-- The pairs of two strips that form products: both elements are there (R171, R357). -/
def products (a c : Strip) : List (Elem × Elem) := (a.elems.zip c.elems).filterMap fun p => match p with
  | (some x, some y) => some (x, y)
  | _ => none

/-- What one block does to a bank element (R70): with no product it stays, else the exact block sum is rounded into it once. -/
def blockInto (acc : Nat) (old : Word) (a c : Strip) : Word :=
  match blockSum a.scale c.scale ((products a c).map fun p => (p.1.1, p.2.1)) with
  | none => old
  | some v => roundAcc acc old v

/-- A job of a quadrant has ended with a class. -/
def JobEnded (t : State) (q id cls : Nat) : Prop := ∃ j ∈ (quadAt t q).jobs, j.id = id ∧ j.ended = some cls

/-- The strip of array row `i` of an operand without metadata (R171): matrix row `r0 + i`, K indices from `k0` on, with
elements outside the matrix absent. -/
def IsStrip (s : State) (j : QuadJob) (t : Tensor) (entry : Nat → Word) (r0 k0 : Int) (kb : Nat) (a : Strip) : Prop :=
  0 ≤ r0 + a.idx ∧ r0 + a.idx < t.dim 1 ∧ a.scale = scaleValue t.fmt (entry a.idx) ∧ a.elems.length = kb ∧
  ∀ k, k < kb →
    (0 ≤ k0 + k ∧ k0 + k < t.dim 0 →
      ∃ e, a.elems[k]? = some (some e) ∧ denseElem s j t (entry a.idx) (r0 + a.idx).toNat (k0 + k).toNat = .ok e) ∧
    (¬ (0 ≤ k0 + k ∧ k0 + k < t.dim 0) → a.elems[k]? = some none)

end Sys2Proof.Claims

open Sys2Proof.Claims in
/-- R167 and R171: BANK_ZERO zeroes its bank, empties its scale rings, leaves no format word but that of a loop accepted after
its mzero, and lets its mzero's counter down, once earlier work on the bank is past. MLOOP_START reads both records; a rank other than 2, a format other than the format word's or
different K end the loop with class 0x18, and no element changes.
When a bank that a drain gives up is free (log entry 86) is the model's reading. -/
def Claims.BanksAndLoopStarts : Prop :=
  (∀ (s : State) (q b : Nat) (j : QuadJob) (g : Group) (o : MemOp),
    (quadAt s q).jobs.find? (fun j => j.kind == .zero && j.bank == b) = some j →
    groupAt s j.core j.slot = some g → g.ops.find? (fun p => p.id == j.op) = some o →
    ((∀ p ∈ (quadAt s q).jobs, p.id < j.id → p.bank = b → p.past = true) →
      ∃ t h, exec (.bankZero q b) s = .next t ∧ groupAt t j.core j.slot = some h ∧ Ended g h o ∧ QuadOnly s t q ∧ t.teams = s.teams ∧
        (bankAt t q b).elems = [] ∧ (bankAt t q b).poison = [] ∧ (bankAt t q b).region = none ∧
        ((∃ p ∈ (quadAt s q).jobs, p.kind = .loop ∧ p.bank = b ∧ j.id < p.id) → (bankAt t q b).fmt = (bankAt s q b).fmt) ∧
        ((∀ p ∈ (quadAt s q).jobs, p.kind = .loop → p.bank = b → p.id ≤ j.id) → (bankAt t q b).fmt = none) ∧
        (bankAt t q b).ringA = ⟨[], 0, 0⟩ ∧ (bankAt t q b).ringB = ⟨[], 0, 0⟩ ∧ (∀ k, k ≠ b → bankAt t q k = bankAt s q k) ∧
        (quadAt t q).jobs = (quadAt s q).jobs.filter fun p => p.id ≠ j.id) ∧
    ((∃ p ∈ (quadAt s q).jobs, p.id < j.id ∧ p.bank = b ∧ p.past = false) → exec (.bankZero q b) s = .next s)) ∧
  (∀ (s : State) (q : Nat) (j : QuadJob) (a b : Tensor) (x y : Bool),
    (quadAt s q).jobs.find? (fun j => j.kind == .loop && !j.started && j.ended.isNone && j.wait.isNone && firstOnBank (quadAt s q) j) =
      some j →
    (j.desc.getD 6 0).getLsbD 55 = false → readTensor s j.ctx j.team j.unit (j.desc.getD 0 0) = .ok (a, x) →
    readTensor s j.ctx j.team j.unit (j.desc.getD 1 0) = .ok (b, y) →
    (recordsOk s j a b = true → ∃ t, exec (.mloopStart q) s = .next t ∧ QuadOnly s t q ∧ t.groups = s.groups ∧ t.teams = s.teams ∧
      (quadAt t q).banks = (quadAt s q).banks ∧ ∃ i ∈ (quadAt t q).jobs, i.id = j.id ∧ i.started = true ∧ i.recs = a.w ++ b.w) ∧
    (a.rank ≠ 2 ∨ b.rank ≠ 2 ∨ a.fmt ≠ fAfmt j.fmt ∨ b.fmt ≠ fBfmt j.fmt ∨ a.dim 0 ≠ b.dim 0 →
      ∃ t, exec (.mloopStart q) s = .next t ∧ QuadOnly s t q ∧ JobEnded t q j.id 0x18 ∧ ∀ k, (bankAt t q k).elems = (bankAt s q k).elems)) ∧
  (∀ (s : State) (q : Nat), (quadAt s q).jobs = [] →
    exec (.mloopStart q) s = .next s ∧ exec (.mdrainRead q) s = .next s ∧ exec (.denoiseStart q) s = .next s ∧
    ∀ b, exec (.bankZero q b) s = .next s)

open Sys2Proof.Claims in
/-- R70, R171, R268 and R361: a step is started for the work of the highest class that can proceed, the earliest accepted
first, and what it leaves in its bank is settled then, from the operands as they stand (log entry 89): every element of the bank has
its block sum rounded into it once, and elements without a product stay. While a step runs, no other is started. When it ends,
the bank takes what it leaves; a step whose stream held uncorrectable data gives its loop class 0x10; and the last step ends
the loop with class 0. The rows and columns of a step's operands are those
at the step's origins, and elements outside the matrices form no product.
That class 0 is the highest here too is the model's reading of R268 (log entry 104). -/
def Claims.MatrixSteps : Prop :=
  (∀ (s : State) (q : Nat) (j : QuadJob) (as bs : List Strip), (quadAt s q).running = none → j ∈ (quadAt s q).jobs →
    j.kind = .loop → canProceed s q j = true →
    (∀ p ∈ (quadAt s q).jobs, canProceed s q p = true → p ≠ j → j.cls < p.cls ∨ (j.cls = p.cls ∧ j.id < p.id)) →
    loopIn s q j = .ok as bs →
    ∃ t o, exec (.matrixStepStart q) s = .next t ∧ QuadOnly s t q ∧ t.groups = s.groups ∧ t.teams = s.teams ∧
      (quadAt t q).running = some j.id ∧ (quadAt t q).jobs = (quadAt s q).jobs ∧ (quadAt t q).banks = (quadAt s q).banks ∧
      (quadAt t q).out = some o ∧ o.bad = stepPoison as bs ∧
      (∀ a ∈ as, ∀ c ∈ bs, tget o.elems (384 * a.idx + c.idx) 0 =
        blockInto (fAcc j.fmt) (tget (bankAt s q j.bank).elems (384 * a.idx + c.idx) 0) a c) ∧
      ∀ k, (∀ a ∈ as, ∀ c ∈ bs, k ≠ 384 * a.idx + c.idx) → tget o.elems k 0 = tget (bankAt s q j.bank).elems k 0) ∧
  (∀ (s : State) (q n : Nat), (quadAt s q).running = some n → exec (.matrixStepStart q) s = .next s) ∧
  (∀ (s : State) (q : Nat) (j : QuadJob) (o : StepOut), (quadAt s q).running = some j.id → (quadAt s q).out = some o →
    (quadAt s q).jobs.find? (fun p => p.id == j.id) = some j → j.ended = none → j.kind = .loop →
    ∃ t, exec (.matrixStepEnd q) s = .next t ∧ QuadOnly s t q ∧ t.groups = s.groups ∧ t.teams = s.teams ∧
      (quadAt t q).running = none ∧ (bankAt t q j.bank).elems = o.elems ∧ (bankAt t q j.bank).poison = o.poison ∧
      (bankAt t q j.bank).region = some ⟨(stepOrigins j).1, (stepOrigins j).2.2.2, j.recA.dim 1, j.recB.dim 1⟩ ∧
      (∀ k, k ≠ j.bank → (bankAt t q k).elems = (bankAt s q k).elems) ∧
      ∃ i ∈ (quadAt t q).jobs, i.id = j.id ∧ i.step = j.step + 1 ∧ i.worst = (if o.bad then max j.worst 0x10 else j.worst) ∧
        i.ended = if j.step + 1 = j.steps then some 0 else none) ∧
  (∀ (s : State) (q : Nat) (j : QuadJob) (as bs : List Strip), loopIn s q j = .ok as bs → fSparse j.fmt = false →
    (∀ a ∈ as, a.idx < 256 ∧ IsStrip s j j.recA (ringEntry (bankAt s q j.bank).ringA) (stepOrigins j).1 (stepOrigins j).2.1 (kBlock j.fmt) a) ∧
    (∀ b ∈ bs, b.idx < 384 ∧
      IsStrip s j j.recB (ringEntry (bankAt s q j.bank).ringB) (stepOrigins j).2.2.2 (stepOrigins j).2.2.1 (kBlock j.fmt) b) ∧
    (∀ i : Nat, i < 256 → 0 ≤ (stepOrigins j).1 + i → (stepOrigins j).1 + i < j.recA.dim 1 → ∃ a ∈ as, a.idx = i) ∧
    (∀ i : Nat, i < 384 → 0 ≤ (stepOrigins j).2.2.2 + i → (stepOrigins j).2.2.2 + i < j.recB.dim 1 → ∃ b ∈ bs, b.idx = i))

open Sys2Proof.Claims in
/-- R171, R173, R202 and R364: a drain reads its bank and writes the elements of its region to scratchpad, each converted
by the drain's rounding, and no other byte; elements outside the matrix are not written. A drain to a queue delivers 128
elements to each queue element. DENOISE_START, of the oldest denoise that can proceed, zeroes the bank, records its region, and its format unless an mzero accepted since has cleared it, reads the tile and clears it
when RET asks.
That an mzero accepted after the denoise counts for the format is the model's reading (log entry 130). -/
def Claims.DrainsAndDenoises : Prop :=
  (∀ (s : State) (q : Nat) (j : QuadJob) (g : Group) (o : MemOp) (t0 : Team),
    (quadAt s q).jobs.find? (fun j => (j.kind == .drainQ || j.kind == .drainSp) && j.ended.isNone &&
      (if j.started then !drainStuck s j else firstOnBank (quadAt s q) j)) = some j →
    j.kind = .drainSp → j.started = false → teamOf s j.team = some t0 → Memory.wf t0.mem = true →
    groupAt s j.core j.slot = some g → g.ops.find? (fun p => p.id == j.op) = some o →
    let d := j.desc
    let n := drainBytes j.fmt
    let b := bankAt s q j.bank
    let place := fun r c => dOfs d + r * dPitch d + c * n
    dOfs d % n = 0 → dPitch d % 4 = 0 → dCols d * n ≤ dPitch d → drainPoison s q j = false →
    ∃ t t1 h, exec (.mdrainRead q) s = .next t ∧ QuadOnly s t q ∧ groupAt t j.core j.slot = some h ∧ Ended g h o ∧ JobEnded t q j.id 0 ∧
      teamOf t j.team = some t1 ∧ (∀ k, (bankAt t q k).elems = (bankAt s q k).elems) ∧
      (∀ r c k, r < dRows d → c < dCols d → k < n → inRegion b (dRow0 d + r) (dCol0 d + c) = true →
        memByte t1.mem (place r c + k) = byteOf (drainElem b j.bad j.fmt (dRow0 d + r) (dCol0 d + c)).1 k) ∧
      (∀ a, (∀ r c, r < dRows d → c < dCols d → inRegion b (dRow0 d + r) (dCol0 d + c) = true → a < place r c ∨ place r c + n ≤ a) →
        memByte t1.mem a = memByte t0.mem a)) ∧
  (∀ (s : State) (q : Nat) (j : QuadJob) (g : Group) (x : QueueReg),
    (quadAt s q).jobs.find? (fun j => (j.kind == .drainQ || j.kind == .drainSp) && j.ended.isNone &&
      (if j.started then !drainStuck s j else firstOnBank (quadAt s q) j)) = some j →
    j.kind = .drainQ → j.started = true → j.freed = false → groupAt s j.core j.slot = some g →
    tfind g.queues (dOfs j.desc) = some x → 128 < j.data.length →
    ∃ t h y, exec (.mdrainRead q) s = .next t ∧ QuadOnly s t q ∧ t.teams = s.teams ∧ groupAt t j.core j.slot = some h ∧
      tfind h.queues (dOfs j.desc) = some y ∧
      (∃ e, y.elems = x.elems ++ [e] ∧ ∀ l, l < 128 → lane e.1 l = (j.data.getD l (0, false)).1 ∧ e.2.getLsbD l = (j.data.getD l (0, false)).2) ∧
      ∃ i ∈ (quadAt t q).jobs, i.id = j.id ∧ i.data = j.data.drop 128) ∧
  (∀ (s : State) (q : Nat) (j : QuadJob) (t : Tensor) (x : Bool),
    (quadAt s q).jobs.find? (fun j => j.kind == .denoise && !j.started && j.ended.isNone && j.wait.isNone &&
      firstOnBank (quadAt s q) j && !jobHalted s j && !denoiseBusy s j) = some j →
    readTensor s j.ctx j.team j.unit (j.desc.getD 1 0) = .ok (t, x) →
    (weightOk s j t = true → ∃ u, exec (.denoiseStart q) s = .next u ∧ QuadOnly s u q ∧ u.groups = s.groups ∧ u.teams = s.teams ∧
      (bankAt u q j.bank).elems = [] ∧ (bankAt u q j.bank).region = some ⟨0, 0, 64, t.dim 1⟩ ∧
      ((∀ p ∈ (quadAt s q).jobs, p.kind = .zero → p.bank = j.bank → p.id ≤ j.id) → (bankAt u q j.bank).fmt = some 0x00010842) ∧
      ((∃ p ∈ (quadAt s q).jobs, p.kind = .zero ∧ p.bank = j.bank ∧ j.id < p.id) → (bankAt u q j.bank).fmt = (bankAt s q j.bank).fmt) ∧
      (∃ i ∈ (quadAt u q).jobs, i.id = j.id ∧ i.started = true ∧ i.recs = t.w ∧
        i.data = tileFp16 s j.ctx (pixTile (frameW s j.ctx) j.pix)) ∧
      (j.ret = false → u.tiles = s.tiles) ∧
      (j.ret = true → ∀ p, placedTile u j.ctx (pixTile (frameW s j.ctx) j.pix) = some p → p.chans = [] ∧ p.marks = [])) ∧
    (t.rank ≠ 2 ∨ t.fmt ≠ 2 ∨ t.dim 0 ≠ 72 ∨ t.dim 1 < 1 ∨ 384 < t.dim 1 →
      ∃ u, exec (.denoiseStart q) s = .next u ∧ QuadOnly s u q ∧ u.tiles = s.tiles ∧ JobEnded u q j.id 0x18 ∧
        ∀ k, (bankAt u q k).elems = (bankAt s q k).elems))

namespace Sys2Proof.Claims

/-! ## Ray instructions: R176 to R199 -/

/-- The lanes in which a ray instruction acts: the active ones, in an episode those of them that hold a ray (R177). -/
def rayActive (g : Group) (c : Clause) (ox : Option Ox) : Mask :=
  activeMask g c ox &&& (if g.kind = .compute then BitVec.allOnes 128 else maskOf fun l => (tfind g.rays l).isSome)

/-- A ray instruction of a group comes to its lanes: the group is of a kind that may issue it and stands at it, its counter
has not reached 63, no acquire holds it, and the registers it names are plain (R9, R15, R138, R177). -/
structure RayStands (s : State) (g : Group) (c : Clause) (ctr : BitVec 3) (kinds : List GroupKind) (fs : List (BitVec 7)) : Prop where
  standing : At s g c
  kind : g.kind ∈ kinds
  plain : ∀ f ∈ fs, Plain g f
  counter : cnt g ctr.toNat < 63
  acquired : acqHeld s g = false
  served : g.batch = none

/-- And it acts in some lane. -/
structure RayIssues (s : State) (g : Group) (c : Clause) (ctr : BitVec 3) (ox : Option Ox) (kinds : List GroupKind)
    (fs : List (BitVec 7)) : Prop extends RayStands s g c ctr kinds fs where
  active : rayActive g c ox ≠ 0

/-- The kinds of R177. -/
def episodeKinds : List GroupKind := [.gen, .hit, .miss, .anyhit]
def shadingKinds : List GroupKind := [.gen, .hit, .miss]
def allKinds : List GroupKind := [.compute, .gen, .hit, .miss, .anyhit]

/-- Each active lane holds a ray, and the rays of different lanes differ. -/
structure LaneRays (s : State) (g : Group) (act : Mask) (r : Nat → Ray) : Prop where
  held : ∀ l, On act l → tfind g.rays l = some (r l).id ∧ rayAt s (r l).id = some (r l)
  apart : ∀ l m, On act l → On act m → (r l).id = (r m).id → l = m

/-- The rays that no active lane holds are as they were. -/
def OtherRays (s t : State) (act : Mask) (r : Nat → Ray) : Prop := ∀ id, (∀ l, On act l → (r l).id ≠ id) → rayAt t id = rayAt s id

/-- R179 and R180: values that words 8 and 9 may take. -/
def FlagsOk (w : Word) : Prop := w.extractLsb' 7 17 = 0 ∧ (w.getLsbD 0 && w.getLsbD 1) = false
def IndexOk (s : State) (g : Group) (w : Word) : Prop :=
  ∃ d, gridOf s g.ctx g.grid = some d ∧ w.toNat % 2 ^ 16 < d.ents.length

/-- R187: the attributes of a hit. -/
def hitAttribute (h : Hit) (k : Nat) : Word := [h.t, h.u, h.v, h.prim, h.geom, h.inst, if h.back then 1 else 0, h.iusr].getD k 0

/-- R188: word 11 with DEPTH one more, at most 255. -/
def deepened (w : Word) : Word := BitVec.ofNat 32 (min (w.toNat / 2 ^ 24 + 1) 255 * 2 ^ 24 + w.toNat % 2 ^ 24)

/-- R188: a template scalar whose words are valid; K = 0 names none. -/
def TemplateOk (s : State) (g : Group) (k : BitVec 5) : Prop :=
  k ≠ 0 → FlagsOk ((sReg g k.toNat).extractLsb' 0 32) ∧ IndexOk s g ((sReg g k.toNat).extractLsb' 32 32)

/-- Trap 0x01 of a ray instruction in some lanes. -/
def allTrap (s : State) (g : Group) (c : Clause) (m : Mask) : State :=
  trapped s g c 1 m 0xFF 0 ((lanesIn m).map fun l => (l, 0))

/-- The OX word names a status predicate, and what the instruction makes of it: the bits of some lanes are cleared, or set
under GN (R191). -/
def named (ox : Option Ox) : Bool := (ox.map fun o => o.gp != 0).getD false
noncomputable def statusSet (g : Group) (ox : Option Ox) (done : Mask) : Group := match ox with
  | none => g
  | some o => setP g o.gp.toNat (if o.gn then pReg g o.gp.toNat ||| done else pReg g o.gp.toNat &&& ~~~done)

/-- The ray that a lane spawns beside its own ray `q`, as it is created (R190). -/
def spawned (s : State) (g : Group) (f : Y) (q : Ray) (l : Nat) : Ray :=
  let sk := sReg g f.k.toNat
  { id := s.nextId, ctx := g.ctx, grid := g.grid, rid := 0
    words := (List.range 8).map (fun i => readV g (f.a + BitVec.ofNat 7 i) l) ++
      [if f.k = 0 then q.word 8 else sk.extractLsb' 0 32, if f.k = 0 then q.word 9 else sk.extractLsb' 32 32, q.word 10, deepened (q.word 11)]
    payload := (List.range 16).map fun i => readV g (f.d + BitVec.ofNat 7 i) l
    payPoison := 0, trav := ⟨[], none, none⟩, place := .travBin 0, since := 0, spilled := none }

/-- A ray holds what another was created with. -/
def SameBirth (q new : Ray) : Prop :=
  q.ctx = new.ctx ∧ q.grid = new.grid ∧ q.words = new.words ∧ q.payload = new.payload ∧ q.payPoison = 0

/-- The forms that come to their lanes alike, each with the kinds that may issue it, the registers it names, and the number
past its longest run (R177, R184 to R199). -/
noncomputable def rayInstructions (ctr : BitVec 3) (d a : BitVec 7) (k : BitVec 5) (n : BitVec 6) (ox : Option Ox) :
    List (Instr × List GroupKind × List (BitVec 7) × Nat) := [
  (.rayget ⟨ctr, d, k⟩ ox, episodeKinds, [d], 0), (.rayset ⟨ctr, d, k⟩ ox, shadingKinds, [d], 0),
  (.hitattr ⟨ctr, d, k⟩ ox, [.hit, .anyhit], [d], 0), (.poolst ⟨ctr, n, k⟩ ox, allKinds, [], 0),
  (.trace ⟨ctr, a, k⟩ ox, shadingKinds, runFields a 8, 0),
  (.spwn ⟨ctr, d, a, k⟩ ox, shadingKinds, runFields a 8 ++ runFields d 16, d.toNat + 16),
  (.rsv ⟨ctr, d, a⟩ ox, shadingKinds, [a, d], 0), (.epend ctr ox, episodeKinds, [], 0),
  (.ahitAccept ctr ox, [.anyhit], [], 0), (.ahitAcceptEnd ctr ox, [.anyhit], [], 0), (.ahitIgnore ctr ox, [.anyhit], [], 0),
  (.accum ⟨ctr, d⟩ ox, episodeKinds, runFields d 4, 0), (.accaux ⟨ctr, d⟩ ox, episodeKinds, runFields d 4, 0),
  (.accumPx ⟨ctr, d, a⟩ ox, allKinds, a :: runFields d 4, 0), (.accauxPx ⟨ctr, d, a⟩ ox, allKinds, a :: runFields d 4, 0),
  (.tlpf ⟨ctr, a, k⟩ ox, allKinds, [a], 0)]

/-- R199: the counts of a context; its capacity is its share of the pool plus a record for each 128 bytes of spill region. -/
def counts (s : State) (g : Group) : List Nat :=
  let mine (p : Ray → Bool) : Nat := (s.rays.filter fun r => r.ctx == g.ctx && p r).length
  let cap := (ctxWord s g.ctx 0x080).toNat + (ctxDWord s g.ctx 0x090).toNat / 128
  let used := mine fun _ => true
  let held := ((s.groups.filter fun h => h.ctx == g.ctx).map fun h => (h.res.map Prod.snd).sum).sum
  [cap, used, held, cap - used - held,
    mine fun r => match r.place with
      | .shadeBin _ _ _ => true
      | _ => false,
    mine fun r => match r.place with
      | .travBin _ => true
      | .traversal _ => true
      | _ => false,
    (g.res.map Prod.snd).sum, mine fun r => r.spilled.isSome]

end Sys2Proof.Claims

open Sys2Proof.Claims in
/-- R177 to R180, R186, R187 and R199: a ray instruction without a lane that acts retires; rayget and hitattr give a word of each lane's record and an attribute of its hit;
rayset writes a word of each lane's record and no other; an invalid word 8 or 9 is trap 0x01 in its lane; poolst gives a
count of the context. -/
def Claims.RayRecords : Prop :=
  (∀ (f : YK) (ox : Option Ox) (s : State) (g : Group) (c : Clause) (r : Nat → Ray), RayIssues s g c f.ctr ox episodeKinds [f.d] →
    LaneRays s g (rayActive g c ox) r →
    exec (.rayget f ox) s =
      .next (after s (setV g f.d.toNat (rayActive g c ox) fun l => (r l).words.getD f.k.toNat 0) c)) ∧
  (∀ (f : YK) (ox : Option Ox) (s : State) (g : Group) (c : Clause) (r : Nat → Ray), RayIssues s g c f.ctr ox shadingKinds [f.d] →
    LaneRays s g (rayActive g c ox) r → Sound g (rayActive g c ox) f.d → f.k.toNat < 10 →
    ((f.k.toNat = 8 → ∀ l, On (rayActive g c ox) l → FlagsOk (readV g f.d l)) →
     (f.k.toNat = 9 → ∀ l, On (rayActive g c ox) l → IndexOk s g (readV g f.d l)) →
      ∃ t, exec (.rayset f ox) s = .next t ∧ groupAt t g.core g.slot = some (advance s g c) ∧ t.mem = s.mem ∧ t.bins = s.bins ∧
        OtherRays s t (rayActive g c ox) r ∧ ∀ l, On (rayActive g c ox) l → ∃ q, rayAt t (r l).id = some q ∧
          q.word f.k.toNat = readV g f.d l ∧ (∀ i, i ≠ f.k.toNat → q.word i = (r l).word i) ∧ q.payload = (r l).payload ∧
          q.trav = (r l).trav ∧ q.place = (r l).place ∧ q.rid = (r l).rid) ∧
    ((f.k.toNat = 8 ∧ ∀ l, On (rayActive g c ox) l → ¬ FlagsOk (readV g f.d l)) ∨
        (f.k.toNat = 9 ∧ ∀ l, On (rayActive g c ox) l → ¬ IndexOk s g (readV g f.d l)) →
      exec (.rayset f ox) s = .next (trapped s g c 1 (rayActive g c ox) 0xFF 0 ((lanesIn (rayActive g c ox)).map fun l => (l, 0))))) ∧
  (∀ (f : YK) (ox : Option Ox) (s : State) (g : Group) (c : Clause) (r : Nat → Ray) (h : Nat → Hit),
    RayIssues s g c f.ctr ox [.hit, .anyhit] [f.d] → f.k.toNat < 8 → LaneRays s g (rayActive g c ox) r →
    (∀ l, On (rayActive g c ox) l → (if g.kind = .anyhit then (r l).trav.cand else (r l).trav.hit) = some (h l)) →
    exec (.hitattr f ox) s = .next (after s (setV g f.d.toNat (rayActive g c ox) fun l => hitAttribute (h l) f.k.toNat) c)) ∧
  (∀ (f : YS) (ox : Option Ox) (s : State) (g : Group) (c : Clause), RayIssues s g c f.ctr ox allKinds [] → f.k.toNat < 8 →
    exec (.poolst f ox) s = .next (after s (setS g f.d.toNat (BitVec.ofNat 64 ((counts s g).getD f.k.toNat 0))) c)) ∧
  (∀ (ctr : BitVec 3) (d a : BitVec 7) (k : BitVec 5) (n : BitVec 6) (ox : Option Ox) (s : State) (g : Group) (c : Clause),
    ∀ p ∈ rayInstructions ctr d a k n ox, RayStands s g c ctr p.2.1 p.2.2.1 → p.2.2.2 ≤ g.regAlloc → rayActive g c ox = 0 →
      exec p.1 s = .next (after s g c)) ∧
  (∀ (f : YK) (ox : Option Ox) (s : State) (g : Group) (c : Clause), At s g c → g.kind = .compute →
    exec (.rayget f ox) s = .next (trapped s g c 1 (execMask g c) 0xFF 0 []) ∧
    exec (.rayset f ox) s = .next (trapped s g c 1 (execMask g c) 0xFF 0 []) ∧
    exec (.hitattr f ox) s = .next (trapped s g c 1 (execMask g c) 0xFF 0 []))

open Sys2Proof.Claims in
/-- R184, R188 to R191 and R196: trace re-aims each lane's ray, raises its depth and marks it to be traced; spwn decides
lane by lane in ascending order, by reservation, then by unreserved room, and creates a ray for each lane that spawns, with
the geometry, payload, pixel and sample the rule gives it, in the sorter, leaving the lane's own ray; a status predicate
then selects the refused lanes, and without one they trap; an invalid template traps in every lane; the any-hit forms set
the lane's decision; epend empties its slot, and is a trap in a handler. That the sound lanes have their status and results where
others trap (log entry 33), and that a new ray takes a place on die while its context's share has one (log entry 37), are the model's. -/
def Claims.RaysOfLanes : Prop :=
  (∀ (f : YT) (ox : Option Ox) (s : State) (g : Group) (c : Clause) (r : Nat → Ray),
    RayIssues s g c f.ctr ox shadingKinds (runFields f.a 8) → LaneRays s g (rayActive g c ox) r →
    (f.k ≠ 0 → tget g.sPoison f.k.toNat false = false) →
    (TemplateOk s g f.k → (∀ x ∈ runFields f.a 8, Sound g (rayActive g c ox) x) →
      ∃ t d, exec (.trace f ox) s = .next t ∧ groupAt t g.core g.slot = some (advance s { g with disp := d } c) ∧
        (∀ l, l < 128 → tfind d l = if (rayActive g c ox).getLsbD l then some .trace else tfind g.disp l) ∧
        t.mem = s.mem ∧ t.bins = s.bins ∧ OtherRays s t (rayActive g c ox) r ∧
        ∀ l, On (rayActive g c ox) l → ∃ q, rayAt t (r l).id = some q ∧
          (∀ i, i < 8 → q.word i = readV g (f.a + BitVec.ofNat 7 i) l) ∧
          q.word 8 = (if f.k = 0 then (r l).word 8 else (sReg g f.k.toNat).extractLsb' 0 32) ∧
          q.word 9 = (if f.k = 0 then (r l).word 9 else (sReg g f.k.toNat).extractLsb' 32 32) ∧
          q.word 10 = (r l).word 10 ∧ q.word 11 = deepened ((r l).word 11) ∧
          q.payload = (r l).payload ∧ q.trav = (r l).trav ∧ q.place = (r l).place) ∧
    (¬ TemplateOk s g f.k → exec (.trace f ox) s = .next (allTrap s g c (rayActive g c ox)))) ∧
  (∀ (f : Y) (ox : Option Ox) (s : State) (g : Group) (c : Clause) (r : Nat → Ray),
    RayIssues s g c f.ctr ox shadingKinds (runFields f.a 8 ++ runFields f.d 16) → f.d.toNat + 16 ≤ g.regAlloc →
    LaneRays s g (rayActive g c ox) r → (f.k ≠ 0 → tget g.sPoison f.k.toNat false = false) →
    let act := rayActive g c ox
    let room := (counts s g).getD 3 0
    let spawns (l : Nat) : Bool := decide (0 < tget g.res l 0) ||
      decide (((lanesIn act).filter fun m => decide (m < l) && tget g.res m 0 == 0).length < room)
    let new (l : Nat) : Ray := spawned s g f (r l) l
    (TemplateOk s g f.k → (∀ x ∈ runFields f.a 8 ++ runFields f.d 16, Sound g act x) → (∀ q ∈ s.rays, q.id < s.nextId) →
      (logMode s g.ctx = 0 ∨ ∀ l, On act l → tget g.spawns l 0 < 256) →
      ((∀ l, On act l → 0 < tget g.res l 0) ∨
        (s.groups.map fun g => (g.core, g.slot)).Nodup ∧ (g.res.map Prod.fst).Pairwise (· < ·) ∧
          ∀ l, On act l → degenerate (new l) = false ∨ (new l).flag 6 = false) →
      let refused := among act fun l => !spawns l
      ∃ (u : State) (h : Group) (id : Nat → Nat),
        exec (.spwn f ox) s = .next (if refused = 0 ∨ named ox then after u (statusSet h ox (act &&& ~~~refused)) c
          else allTrap u h c refused) ∧
        h = { g with res := h.res, spawns := h.spawns } ∧
        (∀ l, l < 128 → tget h.res l 0 = tget g.res l 0 - if act.getLsbD l && spawns l then 1 else 0) ∧
        (∀ l, l < 128 → tget h.spawns l 0 = tget g.spawns l 0 + if act.getLsbD l && spawns l then 1 else 0) ∧
        (∀ core slot, ¬ (core = g.core ∧ slot = g.slot) → groupAt u core slot = groupAt s core slot) ∧
        ((s.rays.filter fun q => q.ctx == g.ctx && q.spilled.isNone).length + (lanesIn act).length ≤ (ctxWord s g.ctx 0x080).toNat →
          u.mem = s.mem ∧ u.msgs = s.msgs) ∧
        (∀ n q, rayAt s n = some q → ∃ p, rayAt u n = some p ∧ { p with since := q.since } = q) ∧
        (∀ l, On act l → spawns l → s.nextId ≤ id l ∧ ∀ m, On act m → spawns m → id m = id l → m = l) ∧
        ∀ l, On act l → spawns l →
          (degenerate (new l) = false → ∃ q, rayAt u (id l) = some q ∧ SameBirth q (new l) ∧ q.place = .travBin 0 ∧
            q.trav = ⟨[⟨.node 0 0, none, none⟩], none, none⟩) ∧
          (degenerate (new l) = true → (new l).flag 6 = true → rayAt u (id l) = none) ∧
          (degenerate (new l) = true → (new l).flag 6 = false → ∃ q cell dir, rayAt u (id l) = some q ∧ SameBirth q (new l) ∧
            q.place = .shadeBin (((new l).word 9).toNat % 2 ^ 16) cell dir ∧ q.trav = ⟨[], none, none⟩)) ∧
    (¬ TemplateOk s g f.k ∨ (∀ x ∈ runFields f.a 8 ++ runFields f.d 16, Sound g act x) ∧ logMode s g.ctx ≠ 0 ∧
        (∀ l, On act l → 256 ≤ tget g.spawns l 0) →
      exec (.spwn f ox) s = .next (allTrap s (statusSet g ox act) c act))) ∧
  (∀ (f : Y) (ox : Option Ox) (s : State) (g : Group) (c : Clause), At s g c → g.kind ∈ shadingKinds → g.regAlloc < f.d.toNat + 16 →
    (∀ x ∈ runFields f.a 8 ++ runFields f.d 16, windowOf g x = none) →
    exec (.spwn f ox) s = .next (trapped s g c 4 (execMask g c) 0xFF 0 [])) ∧
  (∀ p ∈ ([(.ahitAccept, .accept false), (.ahitAcceptEnd, .accept true), (.ahitIgnore, .ignore)] :
      List ((BitVec 3 → Option Ox → Instr) × AnyHit)), ∀ (ctr : BitVec 3) (ox : Option Ox) (s : State) (g : Group) (c : Clause),
    RayIssues s g c ctr ox [.anyhit] [] →
    ∃ d, exec (p.1 ctr ox) s = .next (after s { g with decision := d } c) ∧
      ∀ l, l < 128 → tfind d l = if (rayActive g c ox).getLsbD l then some p.2 else tfind g.decision l) ∧
  (∀ (ctr : BitVec 3) (ox : Option Ox) (s : State) (g : Group) (c : Clause), RayIssues s g c ctr ox episodeKinds [] →
    (g.inHandler = false → exec (.epend ctr ox) s =
      .next (settle s (setSlot { left s g c (following c) with byEpend := true } c.pcs emptySlot))) ∧
    (g.inHandler = true → exec (.epend ctr ox) s = .next (trapped s g c 1 (execMask g c) 0xFF 0 [])))

open Sys2Proof.Claims in
/-- R192 and R193: rsv asks for its lanes' records as one request. A total of 0 is granted at once; any other joins the
end of its context's queue with its counter raised; a lane that asks for more than 16, or would hold more than 64,
traps and nothing is reserved (that no lane's request is made then is the model's reading, log entry 33). -/
def Claims.Reservations : Prop :=
  ∀ (f : YA) (ox : Option Ox) (s : State) (g : Group) (c : Clause), RayIssues s g c f.ctr ox shadingKinds [f.a, f.d] →
    Sound g (rayActive g c ox) f.a → logMode s g.ctx = 0 →
    let act := rayActive g c ox
    let ask (l : Nat) : Nat := (readV g f.a l).toNat
    let greedy := among act fun l => decide (16 < ask l) || decide (64 < tget g.res l 0 + ask l)
    let total := ((lanesIn act).map ask).sum
    (greedy = 0 → total = 0 → (∀ o ∈ g.ops, o.id ≠ s.nextId) →
      ∃ t h, exec (.rsv f ox) s = .next t ∧ groupAt t g.core g.slot = some h ∧ h.v = (setV g f.d.toNat act fun _ => 0).v ∧
        (∀ n, cnt h n = cnt g n) ∧ h.ops = g.ops ∧ (∀ l, tget h.res l 0 = tget g.res l 0) ∧ t.rays = s.rays ∧ t.ctxs = s.ctxs) ∧
    (greedy = 0 → total ≠ 0 →
      ∃ t h o, exec (.rsv f ox) s = .next t ∧ groupAt t g.core g.slot = some h ∧ h.v = g.v ∧ h.res = g.res ∧
        cnt h f.ctr.toNat = cnt g f.ctr.toNat + 1 ∧ h.ops = g.ops ++ [o] ∧ o.id = s.nextId ∧ o.dst = f.d.toNat ∧
        o.kind = .rsv ((lanesIn act).map fun l => (l, ask l)) total none ∧ t.rays = s.rays ∧
        (ctxOf t g.ctx).rsvQueue = (ctxOf s g.ctx).rsvQueue ++ [(g.core, g.slot, s.nextId)]) ∧
    (greedy ≠ 0 → exec (.rsv f ox) s = .next (trapped s g c 1 greedy f.d.toNat 0 ((lanesIn greedy).map fun l => (l, 0))))

open Sys2Proof.Claims in
/-- R197 and R198: the accumulation forms add the samples of each lane to the channels of its pixel, exactly and with
saturation, when the pixel's tile has its place; every other channel stays. A pixel beyond the frame is trap 0x01. tlpf
only asks for treelets; that it drops lanes with poisoned operands is the model's reading of R198 (log entry 45), and the places that a
tile's pixels have by the frame of its first addition are log entry 48. -/
def Claims.Accumulations : Prop :=
  (∀ (i : Instr) (ctr : BitVec 3) (d : BitVec 7) (first : Nat) (fs : List (BitVec 7)) (kinds : List GroupKind) (ox : Option Ox) (s : State)
    (g : Group) (c : Clause) (pix : Nat → Nat),
    ((i = .accum ⟨ctr, d⟩ ox ∧ first = 0 ∨ i = .accaux ⟨ctr, d⟩ ox ∧ first = 4) ∧ fs = runFields d 4 ∧ kinds = episodeKinds ∧
        (∃ r, LaneRays s g (rayActive g c ox) r ∧ ∀ l, On (rayActive g c ox) l → pix l = ((r l).word 10).toNat) ∨
      (∃ a, (i = .accumPx ⟨ctr, d, a⟩ ox ∧ first = 0 ∨ i = .accauxPx ⟨ctr, d, a⟩ ox ∧ first = 4) ∧ fs = a :: runFields d 4 ∧
        kinds = allKinds ∧ ∀ l, pix l = (readV g a l).toNat)) →
    RayIssues s g c ctr ox kinds fs → (∀ x ∈ fs, Sound g (rayActive g c ox) x) →
    let fw := frameW s g.ctx
    let tile := fun l => pixTile fw (pix l)
    ((∀ l, On (rayActive g c ox) l → pix l < fw * frameH s g.ctx ∧ ∃ t, placedTile s g.ctx (tile l) = some t ∧ t.retiring = false) →
      (∀ l m, On (rayActive g c ox) l → On (rayActive g c ox) m → pix l = pix m → l = m) →
      ∃ t, exec i s = .next t ∧ groupAt t g.core g.slot = some (advance s g c) ∧ t.mem = s.mem ∧ t.rays = s.rays ∧ t.tileAdds = s.tileAdds ∧
        (∀ l, On (rayActive g c ox) l → ∀ p q, placedTile s g.ctx (tile l) = some p → placedTile t g.ctx (tile l) = some q →
          ∀ n, n < 4 →
            let key := 8 * pixSlot fw (pix l) + first + n
            let x := sampleOf (readV g (d + BitVec.ofNat 7 n) l)
            tget q.chans key 0 = satAdd (tget p.chans key 0) x.1) ∧
        (∀ (ctx n : Nat) (p : Tile), placedTile s ctx n = some p → ∃ q, placedTile t ctx n = some q ∧
          ∀ k, (∀ l, On (rayActive g c ox) l → ctx = g.ctx → n = tile l →
            ¬ (8 * pixSlot fw (pix l) + first ≤ k ∧ k < 8 * pixSlot fw (pix l) + first + 4)) → tget q.chans k 0 = tget p.chans k 0)) ∧
    ((∀ l, On (rayActive g c ox) l → fw * frameH s g.ctx ≤ pix l) →
      exec i s = .next (trapped s g c 1 (rayActive g c ox) 0xFF 0 ((lanesIn (rayActive g c ox)).map fun l => (l, 0))))) ∧
  (∀ (f : YT) (ox : Option Ox) (s : State) (g : Group) (c : Clause), RayIssues s g c f.ctr ox allKinds [f.a] →
    ∃ t, exec (.tlpf f ox) s = .next t ∧ groupAt t g.core g.slot = some (advance s g c) ∧ t.rays = s.rays ∧ t.mem = s.mem ∧
      (tget g.sPoison f.k.toNat false = true → t.treelets = s.treelets) ∧
      ∀ x ∈ t.treelets, x ∈ s.treelets ∨ (x.ready = false ∧ x.ctx = g.ctx ∧ x.base = (sReg g f.k.toNat).toNat % 2 ^ 48 ∧
        x.base % 16384 = 0 ∧ x.base + 16384 * x.index < 2 ^ 48 ∧
        ∃ l, On (rayActive g c ox) l ∧ (fieldPoison g f.a).getLsbD l = false ∧ x.index = (readV g f.a l).toNat))

namespace Sys2Proof.Claims

/-! ## The ray machine: R182, R185, R192 to R194, R207 to R242 -/

/-- An episode has come to its end (R185): both slots and the split stack are empty, every counter reads zero, and nothing
else of the group is left. -/
structure EpisodeOver (s : State) (g : Group) : Prop where
  place : groupAt s g.core g.slot = some g
  kind : g.kind ≠ .compute
  slots : g.a.st = .empty ∧ g.b.st = .empty ∧ g.top = none ∧ g.clause = none
  counters : ∀ n, n < 6 → cnt g n = 0
  work : g.ops = [] ∧ ∀ o ∈ s.syncOps, ¬ (o.core = g.core ∧ o.slot = g.slot)
  free : g.stopped = none ∧ g.batch = none ∧ g.waitingSince = none

/-- Two states hold the same rays, but for the clocks at which those in bins entered them. -/
def SameRay (s t : State) (id : Nat) : Prop :=
  (rayAt t id).map (fun r => (r.ctx, r.grid, r.rid, r.words, r.payload, r.payPoison, r.trav, r.place, r.spilled)) =
  (rayAt s id).map (fun r => (r.ctx, r.grid, r.rid, r.words, r.payload, r.payPoison, r.trav, r.place, r.spilled))

/-- Memory and the other agents' work are as they were; rays, bins and events may have changed. -/
def RaysOnly (s t : State) : Prop :=
  t.mem = s.mem ∧ t.homes = s.homes ∧ t.l1 = s.l1 ∧ t.msgs = s.msgs ∧ t.engines = s.engines ∧ t.quads = s.quads ∧ t.teams = s.teams ∧
  t.tiles = s.tiles

/-- The oldest request of a context (R194): its group, its operation, the lanes' requests and their total. -/
structure Oldest (s : State) (ctx : Nat) (g : Group) (o : MemOp) (n : List (Nat × Nat)) (total : Nat) (rest : List (Nat × Nat × Nat)) :
    Prop where
  head : (ctxOf s ctx).rsvQueue = (g.core, g.slot, o.id) :: rest
  group : groupAt s g.core g.slot = some g
  same : g.ctx = ctx
  op : g.ops.find? (fun p => p.id == o.id) = some o
  kind : o.kind = .rsv n total none
  lanes : (n.map Prod.fst).Nodup ∧ ∀ x ∈ n, x.1 < 128

/-- A request has its answer (R193): D in its lanes, unless the group has given that register up meanwhile (log entry 142), the
reservations, its counter; the next request is the oldest. -/
def Answered (s t : State) (ctx : Nat) (g : Group) (o : MemOp) (n : List (Nat × Nat)) (rest : List (Nat × Nat × Nat)) (granted : Bool) : Prop :=
  ∃ h, groupAt t g.core g.slot = some h ∧ Ended g h o ∧ (ctxOf t ctx).rsvQueue = rest ∧ t.rays = s.rays ∧ t.mem = s.mem ∧
    (o.dst < g.regAlloc → ∀ x ∈ n, lane (vReg h o.dst) x.1 = if granted then BitVec.ofNat 32 x.2 else 0) ∧
    (g.regAlloc ≤ o.dst → h.v = g.v) ∧
    (∀ m l, l < 128 → (m ≠ o.dst ∨ ∀ x ∈ n, x.1 ≠ l) → lane (vReg h m) l = lane (vReg g m) l) ∧
    (∀ x ∈ n, tget h.res x.1 0 = tget g.res x.1 0 + if granted then x.2 else 0) ∧
    (∀ l, (∀ x ∈ n, x.1 ≠ l) → tget h.res l 0 = tget g.res l 0)

/-- The entry that a child of a node becomes when the ray enters its box (R226, R227). -/
def childItem (d : List Host.Cell) (n b : Nat) (r : Ray) (sp : Option InstSpace) (i : Nat) : Option TravItem :=
  (refItem (tlWord d (b + 64 + 4 * i)) n).bind fun what =>
    (boxEntry ((List.range 3).map fun a => childSlab d b i a (orgIn r sp) (dirIn r sp)) (f32 (r.word 3)) (rayL r)).map
      fun dist => ⟨what, some (fpWord dist), sp⟩

/-- The first page of a treelet at which its fetch faults, with the cause (R223). -/
def fetchFault (s : State) (x : Treelet) : Option (Nat × Nat) :=
  (treeletPages x.base x.index).findSome? fun va => match fetchPage s x va with
    | .fail k => some (k, va)
    | _ => none

end Sys2Proof.Claims

open Sys2Proof.Claims in
/-- R185: at the end of an episode every ray of the disposition RETIRE is gone and no other is; a ray of the disposition
TRACE takes its payload from v0 to v15 and enters traversal at the root; the group waits for another wave after epend, and
ends otherwise. A waiting group ends after 2,048 clocks or when its context is pre-empted. -/
def Claims.Episodes : Prop :=
  (∀ (s : State) (g : Group), EpisodeOver s g → (∀ e ∈ g.rays, tfind g.disp e.1 = some .retire) →
    ∃ t, exec (.episodeEnd g.core g.slot) s = .next t ∧ t.mem = s.mem ∧ t.teams = s.teams ∧
      (∀ id, id ∈ g.rays.map Prod.snd → rayAt t id = none) ∧ (∀ id, id ∉ g.rays.map Prod.snd → SameRay s t id) ∧
      (g.byEpend = true → (ctxOf s g.ctx).preempt = false → ∃ h, groupAt t g.core g.slot = some h ∧ h.waitingSince = some s.clock ∧
        h.rays = [] ∧ h.res = [] ∧ h.queues = [] ∧ h.regAlloc = g.regAlloc) ∧
      (g.byEpend = false ∨ (ctxOf s g.ctx).preempt = true → groupAt t g.core g.slot = none)) ∧
  (∀ (s : State) (g : Group) (l : Nat) (r : Ray), EpisodeOver s g → l < 128 → g.rays = [(l, r.id)] → rayAt s r.id = some r →
    tfind g.disp l = some .trace → degenerate r = false →
    ∃ t q, exec (.episodeEnd g.core g.slot) s = .next t ∧ rayAt t r.id = some q ∧ q.words = r.words ∧ q.place = .travBin 0 ∧
      q.trav = ⟨[⟨.node 0 0, none, none⟩], none, none⟩ ∧ (∀ i, i < 16 → q.payload.getD i 0 = lane (vReg g i) l) ∧
      (∀ i, i < 16 → q.payPoison.getLsbD i = (tget g.vPoison i 0).getLsbD l)) ∧
  (∀ (s : State) (g : Group) (n : Nat), groupAt s g.core g.slot = some g → g.waitingSince = some n →
    (n + 2048 ≤ s.clock ∨ (ctxOf s g.ctx).preempt = true → ∃ t, exec (.waitGroupTimeout g.core g.slot) s = .next t ∧
      groupAt t g.core g.slot = none ∧ t.rays = s.rays ∧ t.mem = s.mem ∧
      ∀ core slot, ¬ (core = g.core ∧ slot = g.slot) → groupAt t core slot = groupAt s core slot) ∧
    (s.clock < n + 2048 → (ctxOf s g.ctx).preempt = false → exec (.waitGroupTimeout g.core g.slot) s = .next s))

open Sys2Proof.Claims in
/-- R182, R214 and R215: a shading bin whose oldest ray has waited 2,048 clocks is made ready. A ready bin's 128 oldest
rays form a wave: lane by lane the group of their episode holds them with their payloads, in the kind, code, registers and
floating-point controls of the shader-table entry, and its scalars name the arguments and the entry. The order in which rays of
one clock stand in a bin is the schedule's (log entry 36), the slot that a wave takes log entry 40, lanes without a ray log entry 118. -/
def Claims.Waves : Prop :=
  (∀ (s : State) (i : Nat) (b : Bin), s.bins[i]? = some b → b.shading = true → logMode s b.ctx ≠ 2 →
    ((∃ r ∈ s.rays, b.holds r = true ∧ r.since + 2048 ≤ s.clock) →
      exec (.binAgeReady i) s = .next { s with bins := s.bins.map fun x => if x = b then { x with ready := true } else x }) ∧
    ((∀ r ∈ s.rays, b.holds r = true → s.clock < r.since + 2048) → exec (.binAgeReady i) s = .next s)) ∧
  (∀ (s : State), (∀ b ∈ s.bins, binReady s b = false) → (∀ c ∈ s.ctxs, logMode s c.1 ≠ 2 ∧ c.2.stalls = []) → exec .waveDispatch s = .next s) ∧
  (∀ (s : State) (b : Bin) (gr : Grid) (e : DWord × DWord) (core slot : Nat), s.bins.filter (binReady s) = [b] →
    (∀ c ∈ s.ctxs, logMode s c.1 ≠ 2) → logMode s b.ctx = 0 → launches s b.ctx = true → (s.rays.map fun r => r.id).Nodup →
    gridOf s b.ctx b.grid = some gr → gr.ents[b.entry]? = some e →
    wavePlace s b.ctx (recEntry gr.recw + 16 * b.entry) (entRegs e) = some (core, slot) →
    let rs := (binRays s b).take 128
    rs ≠ [] → (∀ r ∈ rs, r.spilled = none) →
    ∃ t h, exec .waveDispatch s = .next t ∧ groupAt t core slot = some h ∧ t.mem = s.mem ∧ t.teams = s.teams ∧
      h.ctx = b.ctx ∧ h.kind = ([.gen, .hit, .miss, .anyhit] : List GroupKind).getD (bitsOf e.1 48 2) .anyhit ∧
      h.a.st = .running ∧ h.a.pc = bitsOf e.1 0 48 ∧ (∀ l, l < 128 → h.a.mask.getLsbD l = decide (l < rs.length)) ∧ h.a.rpc = none ∧
      h.b.st = .empty ∧ h.top = none ∧ h.regAlloc = bitsOf e.2 0 7 ∧ h.fpctl = BitVec.ofNat 32 (bitsOf e.2 16 9) ∧
      sReg h 0 = BitVec.ofNat 64 (bitsOf (gr.recw.getD 1 0) 0 48) ∧ sReg h 1 = BitVec.ofNat 64 (recEntry gr.recw + 16 * b.entry) ∧
      (∀ n, 2 ≤ n → sReg h n = 0) ∧ (∀ n, n ≠ 0 → pReg h n = 0) ∧ (∀ n, cnt h n = 0) ∧ h.fflags = [] ∧ (∀ l, tget h.res l 0 = 0) ∧
      (∀ i l r, i < 16 → l < 128 → rs[l]? = some r → lane (vReg h i) l = r.payload.getD i 0) ∧
      (∀ n l, 16 ≤ n → lane (vReg h n) l = 0) ∧
      (∀ (l : Nat) (r : Ray), rs[l]? = some r →
        tfind h.rays l = some r.id ∧ ∃ q, rayAt t r.id = some q ∧ q.place = .episode core slot l ∧ q.words = r.words))

open Sys2Proof.Claims in
/-- R193 to R195, with who counts as blocked as the model reads R194 (log entry 47): the oldest request is granted exactly when Free − Reserved is at least its total; with every episode group
blocked, none grantable and 4,096 clocks gone, it gets a zero grant. -/
def Claims.Grants : Prop :=
  ∀ (s : State) (ctx : Nat) (g : Group) (o : MemOp) (n : List (Nat × Nat)) (total : Nat) (rest : List (Nat × Nat × Nat)),
    Oldest s ctx g o n total rest → logMode s ctx = 0 →
    let room := raysUsed s ctx + raysReserved s ctx + total ≤ (ctxWord s ctx 0x080).toNat + (ctxDWord s ctx 0x090).toNat / 128
    (room → ∃ t, exec (.rsvGrant ctx) s = .next t ∧ Answered s t ctx g o n rest true) ∧
    (¬ room → exec (.rsvGrant ctx) s = .next s) ∧
    (¬ room → (ctxOf s ctx).rsvSince + 4096 ≤ s.clock → (∀ h ∈ s.groups, h.ctx = ctx → h.kind ≠ .compute → h.waitingSince = none →
        ∃ q ∈ (ctxOf s ctx).rsvQueue, q.1 = h.core ∧ q.2.1 = h.slot) →
      ∃ t, exec (.poolDrainTimeout ctx) s = .next t ∧ Answered s t ctx g o n rest false) ∧
    (room ∨ s.clock < (ctxOf s ctx).rsvSince + 4096 → exec (.poolDrainTimeout ctx) s = .next s)

open Sys2Proof.Claims in
/-- R178, R207, R210, R211 and R242: a generation ray has the words the record gives it and enters the shading bin of the
generation entry, while capacity allows and no reservation waits. A ray that is spilled keeps its record, whose words stand
in the spill region; one that returns takes the record that memory holds, and is a ray error when words 8 or 9 are invalid; one
that returns to a traversal bin degenerate leaves it for its end. That a waiting record is spilled and comes back when the
schedule says so, to the lowest free place (log entry 37), and comes back with every word as memory holds it (log entry 39), are the
model's choices. -/
def Obligations.CreationAndSpilling : Prop :=
  (∀ (s : State) (ctx grid : Nat) (g : Grid), gridOf s ctx grid = some g → recKind g.recw = 1 →
    ((g.created < recNpix g.recw * recSpp g.recw ∧ raysFree s ctx 1 = true ∧ (ctxOf s ctx).rsvQueue = [] ∧ launches s ctx = true) →
      (∀ r ∈ s.rays, r.id < s.nextId) →
      ∃ t q, exec (.genRayCreate ctx grid) s = .next t ∧ rayAt t s.nextId = some q ∧ q.ctx = ctx ∧ t.groups = s.groups ∧
        q.words = [0, 0, 0, 0, 0, 0, 0, 0, 0xFF000000, 0, BitVec.ofNat 32 (recPix0 g.recw + g.created / recSpp g.recw),
          BitVec.ofNat 32 (recSmp0 g.recw + g.created % recSpp g.recw)] ∧ q.payload = [] ∧
        (∃ cell dir, q.place = .shadeBin (recGen g.recw) cell dir) ∧ ∀ id, id ≠ s.nextId → SameRay s t id) ∧
    ((recNpix g.recw * recSpp g.recw ≤ g.created ∨ raysFree s ctx 1 = false ∨ (ctxOf s ctx).rsvQueue ≠ []) →
      exec (.genRayCreate ctx grid) s = .next s)) ∧
  (∀ (s : State) (r : Ray), MemoryOk s → rayAt s r.id = some r → r.key.isSome = true → r.spilled = none →
    128 * (spillSlot s r.ctx + 1) ≤ (ctxDWord s r.ctx 0x090).toNat → bitsOf (ctxDWord s r.ctx 0x088) 0 48 % 4 = 0 →
    bitsOf (ctxDWord s r.ctx 0x088) 0 48 + (ctxDWord s r.ctx 0x090).toNat ≤ 2 ^ 48 →
    (∀ i, i < 32 → isLost s (bitsOf (ctxDWord s r.ctx 0x088) 0 48 + 128 * spillSlot s r.ctx + 4 * i) = false) →
    ∃ t q, exec (.raySpill r.id) s = .next t ∧ rayAt t r.id = some q ∧ q.spilled.map Prod.fst = some (spillSlot s r.ctx) ∧ q.words = r.words ∧
      q.payload = r.payload ∧ q.place = r.place ∧ t.groups = s.groups ∧
      let base := bitsOf (ctxDWord s r.ctx 0x088) 0 48 + 128 * spillSlot s r.ctx
      (∀ i, i < 12 → memWord t.mem (base + 4 * i) = r.words.getD i 0) ∧ (∀ i, i < 16 → memWord t.mem (base + 64 + 4 * i) = r.payload.getD i 0)) ∧
  (∀ (s : State) (r : Ray) (p drawn : Nat), rayAt s r.id = some r → r.spilled = some (p, drawn) → (s.rays.map fun q => q.id).Nodup → raysOnDie s r.ctx < (ctxWord s r.ctx 0x080).toNat →
    let w := fun i => (readAsEngine s (bitsOf (ctxDWord s r.ctx 0x088) 0 48 + 128 * p + 4 * i)).1
    let back := { r with words := (List.range 12).map w }
    (FlagsOk (w 8) → (w 9).toNat % 2 ^ 16 < nentOf s r.ctx r.grid → (degenerate back = false ∨ ∀ n, r.place ≠ .travBin n) →
      ∃ t q, exec (.rayUnspill r.id) s = .next t ∧ rayAt t r.id = some q ∧ q.spilled = none ∧ q.words = (List.range 12).map w ∧
        q.payload = (List.range 16).map (fun i => w (16 + i)) ∧ q.place = r.place ∧ RaysOnly s t) ∧
    (∀ n, FlagsOk (w 8) → (w 9).toNat % 2 ^ 16 < nentOf s r.ctx r.grid → degenerate back = true → r.place = .travBin n →
      ∃ t, exec (.rayUnspill r.id) s = .next t ∧ RaysOnly s t ∧
        ∀ q, rayAt t r.id = some q → ∃ cell dir, q.place = .shadeBin ((w 9).toNat % 2 ^ 16) cell dir) ∧
    (¬ FlagsOk (w 8) ∨ nentOf s r.ctx r.grid ≤ (w 9).toNat % 2 ^ 16 → ∃ t, exec (.rayUnspill r.id) s = .next t ∧ rayAt t r.id = none ∧
      ctxDWord t r.ctx 0x0D0 = ctxDWord s r.ctx 0x0D0 + 1)) ∧
  (∀ (s : State) (id : Nat), rayAt s id = none → exec (.raySpill id) s = .next s ∧ exec (.rayUnspill id) s = .next s ∧
    exec (.traverse id) s = .next s)

open Sys2Proof.Claims in
/-- R223 and R224: a bin's oldest ray that has waited 2,048 clocks makes it ready; its treelet's fetch is then begun; a fetch
reads the treelet's 16 KiB, or reports an absent page once and waits; and the rays of a treelet that is there go to
traversal, but for those that have become degenerate, which go to their end. That the lines of a treelet are read in one turn is
the model's choice (log entry 141), as are the wait for a place in a full slice (log entry 45) and the turn in which the host gives up lines
first (R286). -/
def Claims.Treelets : Prop :=
  (∀ (s : State) (ctx grid n : Nat) (b : Bin), travBinOf s ctx grid n = some b →
    ((∃ r ∈ s.rays, b.holds r = true ∧ r.since + 2048 ≤ s.clock) → exec (.treeletAgeExpire ctx grid n) s =
      .next { s with bins := s.bins.map fun x => if x = b then { x with ready := true } else x }) ∧
    ((∀ r ∈ s.rays, b.holds r = true → s.clock < r.since + 2048) → exec (.treeletAgeExpire ctx grid n) s = .next s)) ∧
  (∀ (s : State) (ctx grid n : Nat) (b : Bin) (g : Grid), travBinOf s ctx grid n = some b → gridOf s ctx grid = some g →
    (ctxOf s ctx).drained = false →
    (treeletAt s ctx (recTla g.recw) n = none → b.ready = true → (sliceTreelets s (treeletSlice n)).length < 256 →
      exec (.treeletFetchStart ctx grid n) s = .next { s with treelets := s.treelets ++
        [⟨ctx, recTla g.recw, n, treeletSlice n, [], true, false, none, s.clock⟩] }) ∧
    (treeletAt s ctx (recTla g.recw) n = none → b.ready = true → 256 ≤ (sliceTreelets s (treeletSlice n)).length →
      (∀ x ∈ sliceTreelets s (treeletSlice n), treeletBusy s x = true) →
      exec (.treeletFetchStart ctx grid n) s = .next { s with treelets := s.treelets ++
        [⟨ctx, recTla g.recw, n, treeletSlice n, [], false, false, none, s.clock⟩] }) ∧
    (∀ x, treeletAt s ctx (recTla g.recw) n = some x → x.ready = true → (s.rays.map fun r => r.id).Nodup →
      (∀ r ∈ s.rays, b.holds r = true → r.spilled = none ∧ degenerate r = false) →
      ∃ t, exec (.treeletFetchStart ctx grid n) s = .next t ∧ RaysOnly s t ∧ t.groups = s.groups ∧
        (∀ r ∈ s.rays, b.holds r = true → ∃ q, rayAt t r.id = some q ∧ q.place = .traversal n ∧ q.words = r.words ∧ q.trav = r.trav) ∧
        (∀ r ∈ s.rays, b.holds r = false → SameRay s t r.id)) ∧
    (∀ x, treeletAt s ctx (recTla g.recw) n = some x → x.ready = false → exec (.treeletFetchStart ctx grid n) s = .next s)) ∧
  (∀ (s : State) (ctx grid n : Nat) (x : Treelet), fetchNamed s ctx grid n = some x → x.fault = none → x.placed = true → x.ctx = ctx →
    treeletAt s x.ctx x.base x.index = some x →
    ((∀ va ∈ treeletPages x.base x.index, ∃ leaf, fetchPage s x va = .ok leaf) → (∀ r ∈ s.rays, r.ctx = x.ctx → r.spilled = none) →
      snoopLines s (treeletReads s x) = [] →
      ∃ t y, exec (.treeletFetchComplete ctx grid n) s = .next t ∧ RaysOnly s t ∧ treeletAt t x.ctx x.base x.index = some y ∧
        y.ready = true ∧ y.used = s.clock ∧
        ∀ i k leaf, i < 4 → k < 1024 → fetchPage s x (x.base + 16384 * x.index + 4096 * i) = .ok leaf → leaf.dsc = false →
          memWord y.data (4096 * i + 4 * k) = (readAsEngine s (leaf.at (x.base + 16384 * x.index + 4096 * i) + 4 * k)).1) ∧
    ((∃ va ∈ treeletPages x.base x.index, fetchPage s x va = .miss) → (∀ va ∈ treeletPages x.base x.index, ∀ k, fetchPage s x va ≠ .fail k) →
      ∃ t, exec (.treeletFetchComplete ctx grid n) s = .next t ∧ RaysOnly s t ∧ t.rays = s.rays ∧ t.treelets = s.treelets) ∧
    (∀ va, fetchFault s x = some (0x20, va) →
      ∃ t y, exec (.treeletFetchComplete ctx grid n) s = .next t ∧ RaysOnly s t ∧ t.rays = s.rays ∧
        treeletAt t x.ctx x.base x.index = some y ∧ y.ready = false ∧ y.fault = some (va / 4096)))

open Sys2Proof.Claims in
/-- R226, R230, R231, R233 and R234: a ray with no entry left ends its traversal: with a hit it goes to its hit entry or
retires under SKIPCH, with none to its MISS entry or retires under SKIPMS; an entry of another treelet sends it to that
treelet's bin; an opaque triangle that beats the committed hit is committed, and one that does not is dropped; a candidate that
is not opaque is committed where its hit-group entry names no any-hit entry, and else leaves for the bin of that entry, as the
candidate that its episode reads; a sound node's children are visited nearest first, and of equals the lower number first; an
unsound node is ray error 1. That a node is read as a whole is the model's reading of R217 (log entry 43).
How much one turn traverses is its choice (log entry 44). -/
def Claims.Traversal : Prop :=
  (∀ (s : State) (r : Ray) (n : Nat) (x : Treelet) (g : Grid), rayAt s r.id = some r → r.place = .traversal n →
    gridOf s r.ctx r.grid = some g → treeletAt s r.ctx (recTla g.recw) n = some x →
    (r.trav.stack = [] → r.trav.hit = none →
      (r.flag 6 = true → ∃ t, exec (.traverse r.id) s = .next t ∧ rayAt t r.id = none ∧ RaysOnly s t ∧
        ∀ id, id ≠ r.id → SameRay s t id) ∧
      (r.flag 6 = false → ∃ t q, exec (.traverse r.id) s = .next t ∧ rayAt t r.id = some q ∧ RaysOnly s t ∧ q.words = r.words ∧
        (∃ cell dir, q.place = .shadeBin ((r.word 9).toNat % 2 ^ 16) cell dir) ∧ ∀ id, id ≠ r.id → SameRay s t id)) ∧
    (∀ h, r.trav.stack = [] → r.trav.hit = some h →
      (r.flag 5 = true → ∃ t, exec (.traverse r.id) s = .next t ∧ rayAt t r.id = none ∧ RaysOnly s t) ∧
      (∀ e, r.flag 5 = false → g.ents[h.hbase + (r.word 9).toNat / 2 ^ 16]? = some e → bitsOf e.1 48 2 = 1 →
        ∃ t q, exec (.traverse r.id) s = .next t ∧ rayAt t r.id = some q ∧ RaysOnly s t ∧ q.trav.hit = some h ∧
          ∃ cell dir, q.place = .shadeBin (h.hbase + (r.word 9).toNat / 2 ^ 16) cell dir) ∧
      (r.flag 5 = false → g.ents[h.hbase + (r.word 9).toNat / 2 ^ 16]? = none →
        ∃ t, exec (.traverse r.id) s = .next t ∧ rayAt t r.id = none ∧ ctxDWord t r.ctx 0x0D0 = ctxDWord s r.ctx 0x0D0 + 1)) ∧
    (∀ m rest sp, m ≠ n → r.trav.stack = ⟨.node m 0, none, sp⟩ :: rest →
      ∃ t q, exec (.traverse r.id) s = .next t ∧ rayAt t r.id = some q ∧ RaysOnly s t ∧ q.place = .travBin m ∧ q.trav = r.trav ∧
        q.words = r.words) ∧
    (∀ line sp, r.trav.stack = [⟨.node n line, none, sp⟩] → nodeOk x.data (128 * line) = false →
      ∃ t, exec (.traverse r.id) s = .next t ∧ rayAt t r.id = none ∧ ctxDWord t r.ctx 0x0D0 = ctxDWord s r.ctx 0x0D0 + 1)) ∧
  (∀ (s : State) (d : List Host.Cell) (n ofs : Nat) (r : Ray) (sp : Option InstSpace) (rest : List TravItem) (h : Hit),
    tlWord d (16 * ofs + 0x2C) >>> 1 = 0 → triRecord d (16 * ofs) (withStack r rest) sp = some h →
    (beats r h = false → triStep s d r n ofs 1 sp rest = .go (withStack r rest)) ∧
    (beats r h = true → opaqueCand d (16 * ofs) r sp = true → r.flag 2 = false →
      triStep s d r n ofs 1 sp rest = .go { r with trav := ⟨rest, some h, none⟩ }) ∧
    (beats r h = true → opaqueCand d (16 * ofs) r sp = true → r.flag 2 = true →
      triStep s d r n ofs 1 sp rest = .go { r with trav := ⟨[], some h, none⟩ }) ∧
    (∀ e, beats r h = true → opaqueCand d (16 * ofs) r sp = false →
      entryOf s r (h.hbase + (r.word 9).toNat / 2 ^ 16) = some e → bitsOf e.1 48 2 = 1 →
      (entAhe e = 0xFFFF → triStep s d r n ofs 1 sp rest =
        .go { r with trav := ⟨if r.flag 2 then [] else rest, some h, none⟩ }) ∧
      (∀ a, entAhe e ≠ 0xFFFF → entryOf s r (entAhe e) = some a → bitsOf a.1 48 2 = 3 →
        triStep s d r n ofs 1 sp rest = .shade { r with trav := ⟨rest, r.trav.hit, some h⟩ } (entAhe e)))) ∧
  (∀ (s : State) (r : Ray) (n ofs : Nat) (sp : Option InstSpace) (rest : List TravItem) (x : Treelet) (g : Grid) (h : Hit)
    (e a : DWord × DWord), rayAt s r.id = some r → r.place = .traversal n → gridOf s r.ctx r.grid = some g →
    treeletAt s r.ctx (recTla g.recw) n = some x → r.trav.stack = ⟨.tris n ofs 1, none, sp⟩ :: rest →
    tlWord x.data (16 * ofs + 0x2C) >>> 1 = 0 → triRecord x.data (16 * ofs) (withStack r rest) sp = some h → beats r h = true →
    opaqueCand x.data (16 * ofs) r sp = false → g.ents[h.hbase + (r.word 9).toNat / 2 ^ 16]? = some e → bitsOf e.1 48 2 = 1 →
    entAhe e ≠ 0xFFFF → g.ents[entAhe e]? = some a → bitsOf a.1 48 2 = 3 →
    ∃ t q, exec (.traverse r.id) s = .next t ∧ rayAt t r.id = some q ∧ RaysOnly s t ∧
      q.trav = ⟨rest, r.trav.hit, some h⟩ ∧ q.words = r.words ∧ ∃ cell dir, q.place = .shadeBin (entAhe e) cell dir) ∧
  (∀ (r : Ray) (h c : Hit), r.trav.hit = some c → (f32 h.t).isNan = false → (f32 c.t).isNan = false →
    (beats r h = true ↔ fpLt (f32 h.t) (f32 c.t) = true ∨ (fpLt (f32 c.t) (f32 h.t) = false ∧
      (h.inst.toNat < c.inst.toNat ∨ (h.inst = c.inst ∧ (h.geom.toNat < c.geom.toNat ∨ (h.geom = c.geom ∧ h.prim.toNat < c.prim.toNat))))))) ∧
  (∀ (d : List Host.Cell) (n b : Nat) (r : Ray) (sp : Option InstSpace),
    ((nodeChildren d n b r sp).map fun x => (x.dist.map f32).getD .nan).Pairwise fun x y => fpLt y x = false) ∧
  (∀ (d : List Host.Cell) (n b : Nat) (r : Ray) (sp : Option InstSpace) (i j : Nat) (x y : TravItem),
    (∀ a, a < 3 → finiteW (tlWord d (b + 4 * a)) = true) → i < j → j < 8 → childItem d n b r sp i = some x →
    childItem d n b r sp j = some y → x.dist = y.dist → List.Sublist [x, y] (nodeChildren d n b r sp))

open Sys2Proof.Claims in
/-- R239 to R241: an addition that waits lands once its tile has a place, or takes a free one, whose channels are then zero but
for its samples, and its counter goes down with the last of its instruction; a tile that retires with no image, mark plane or
resolve gives up its place once the RDC has nothing to release; one whose next access meets an absent page keeps its place and
waits, and one that meets another fault is dropped. The order of a retirement's accesses, its stop at the first absent page and
the frame that it keeps from its beginning are the model's reading (log entry 48), and so is the wait for the RDC (log entry 134). -/
def Obligations.TileEvents : Prop :=
  (∀ (s : State) (a : TileAdd) (rest : List TileAdd) (p : Tile) (g : Group) (o : MemOp), s.tileAdds = a :: rest →
    placedTile s a.ctx a.tile = some p → p.retiring = false → groupAt s a.core a.slot = some g →
    g.ops.find? (fun x => x.id == a.op) = some o → a.samples.length ≤ 4 →
    ∃ t q, exec .tileAddResume s = .next t ∧ t.tileAdds = rest ∧ t.mem = s.mem ∧ placedTile t a.ctx a.tile = some q ∧
      (∀ i w, a.samples[i]? = some w →
        let key := 8 * pixSlot a.fw a.pixel + a.first + i
        tget q.chans key 0 = satAdd (tget p.chans key 0) (sampleOf w).1) ∧
      ((∃ x ∈ rest, x.op = a.op) → t.groups = s.groups) ∧
      ((∀ x ∈ rest, x.op ≠ a.op) → ∃ h, groupAt t a.core a.slot = some h ∧ Ended g h o)) ∧
  (∀ (s : State) (a : TileAdd) (rest : List TileAdd) (g : Group) (o : MemOp), s.tileAdds = a :: rest →
    placedTile s a.ctx a.tile = none → (s.tiles.filter fun t => t.tile % 8 == a.tile % 8).length < 512 →
    groupAt s a.core a.slot = some g → g.ops.find? (fun x => x.id == a.op) = some o → a.samples.length ≤ 4 →
    ∃ t q, exec .tileAddResume s = .next t ∧ t.tileAdds = rest ∧ t.mem = s.mem ∧ placedTile t a.ctx a.tile = some q ∧
      q.retiring = false ∧ (∀ c m, ¬ (c = a.ctx ∧ m = a.tile) → placedTile t c m = placedTile s c m) ∧
      (∀ i w, a.samples[i]? = some w → tget q.chans (8 * pixSlot a.fw a.pixel + a.first + i) 0 = satAdd 0 (sampleOf w).1) ∧
      (∀ k, (∀ i, i < a.samples.length → k ≠ 8 * pixSlot a.fw a.pixel + a.first + i) → tget q.chans k 0 = 0) ∧
      ((∃ x ∈ rest, x.op = a.op) → t.groups = s.groups) ∧
      ((∀ x ∈ rest, x.op ≠ a.op) → ∃ h, groupAt t a.core a.slot = some h ∧ Ended g h o)) ∧
  (∀ (s : State) (ctx n : Nat) (p : Tile), placedTile s ctx n = some p →
    (p.retiring = false ∨ p.waitPage.isSome = true → exec (.tileRetire ctx n) s = .next s) ∧
    (p.retiring = true → p.waitPage = none → p.frame.img = 0 → p.frame.mrk = 0 → p.frame.res = 0 → s.flushing = [] →
      (∀ e ∈ s.rdc, e.2.st ≠ .drt) → (∀ e ∈ s.hostLines, e.2.st ≠ .modified) → rdcOut s s.msgSeq = false →
      ∃ t, exec (.tileRetire ctx n) s = .next t ∧ placedTile t ctx n = none ∧ t.groups = s.groups ∧ t.rays = s.rays ∧
        ∀ c m, ¬ (c = ctx ∧ m = n) → placedTile t c m = placedTile s c m) ∧
    (∀ x xs va len acc, p.retiring = true → p.waitPage = none → (retireSteps p).drop p.pos = x :: xs → x.access p.frame = (va, len, acc) →
      unitXlat s ctx (tileTlb p) va len acc = .fail 0x20 →
      ∃ t q, exec (.tileRetire ctx n) s = .next t ∧ placedTile t ctx n = some q ∧ q.waitPage = some (va / 4096) ∧ q.chans = p.chans ∧
        q.marks = p.marks ∧ q.pos = p.pos ∧ t.mem = s.mem) ∧
    (∀ x xs va len acc k, p.retiring = true → p.waitPage = none → s.flushing = [] → (retireSteps p).drop p.pos = x :: xs →
      x.access p.frame = (va, len, acc) → unitXlat s ctx (tileTlb p) va len acc = .fail k → k ≠ 0x20 →
      ∃ t, exec (.tileRetire ctx n) s = .next t ∧ placedTile t ctx n = none ∧ t.groups = s.groups ∧ t.rays = s.rays ∧ t.mem = s.mem)) ∧
  (∀ (x : DWord) (n : Int), -2 ^ 63 ≤ x.toInt + n → x.toInt + n < 2 ^ 63 → (satAdd x n).toInt = x.toInt + n) ∧
  (∀ (x : DWord) (n : Int), 2 ^ 63 ≤ x.toInt + n → (satAdd x n).toInt = 2 ^ 63 - 1) ∧
  (∀ (x : DWord) (n : Int), x.toInt + n < -2 ^ 63 → (satAdd x n).toInt = -2 ^ 63)

namespace Sys2Proof.Claims

/-! ## Issue, launch and logs: R31, R33, R108, R250 to R266, R276 to R280, R338, R344, R372, R386, R387 -/

/-- The words after a header at an address are there to be fetched (R386). -/
def Fetched (s : State) (g : Group) (pc : Nat) (ws : List Word) : Prop :=
  ∀ i w, ws[i]? = some w → fetchWord s g.ctx g.core (pc + 4 * (i + 1)) = .word w

/-- A header's counters read zero (R29). -/
def CountersZero (g : Group) (h : Word) : Prop := ∀ n, n < 6 → hdrWait h n = true → cnt g n = 0

/-- No acq holds back a clause of a header's class (R138). -/
def Free (s : State) (g : Group) (h : Word) : Prop := acqHeld s g = false ∨ hdrClass h ∉ [2, 4, 5]

/-- No group of an issue slot holds it with a clause, none stands at its reconvergence address, and their slots differ. -/
def IssueFree (s : State) (core iss : Nat) : Prop :=
  ((issueGroups s core iss).map fun g => g.slot).Nodup ∧
  ∀ g ∈ issueGroups s core iss, holdsSlot g = false ∧
    ∀ i, (pcSlot g i).st = .running → (pcSlot g i).rpc ≠ some (pcSlot g i).pc

/-- A compute group has nothing left to run and nothing outstanding (R108). -/
structure GroupOver (s : State) (g : Group) : Prop where
  place : groupAt s g.core g.slot = some g
  kind : g.kind = .compute
  slots : g.a.st = .empty ∧ g.b.st = .empty ∧ g.top = none ∧ g.clause = none
  counters : ∀ n, n < 6 → cnt g n = 0
  work : g.ops = [] ∧ ∀ o ∈ s.syncOps, ¬ (o.core = g.core ∧ o.slot = g.slot)
  free : g.stopped = none ∧ g.batch = none

/-- A core's L1 holds no dirty word, and no home has sent the core or the RDC anything about a registered word, so that an
acquire has nothing to wait for (R304, R323). -/
def Quiescent (s : State) (core : Nat) : Prop :=
  dirtyWords s core (fun _ => true) = [] ∧ handedOn s (.core core) (fun _ => true) = false ∧ handedOn s .rdc (fun _ => true) = false

/-- No head of the launch unit waits for room in a log (R344). -/
def Unstalled (s : State) : Prop := ∀ c ∈ s.ctxs, ∀ x ∈ c.2.stalls, x % 8 ≠ 2

/-- No queue has a record to take, and only the queues in `qs` have a head. -/
def HeadsOnly (s : State) (qs : List Nat) : Prop :=
  (∀ q, qCtx s q = none ∨ qWr s q = qRd s q ∨ qStp s q = true ∨ (headOf s q).isSome = true) ∧ ∀ q, q ∉ qs → headOf s q = none

end Sys2Proof.Claims

open Sys2Proof.Claims in
/-- R33, R109, R266, R386 and R387: a free issue slot starts the clause of the candidate that ranks first; a slot that a
clause holds starts none. A clause may start when its header has its MARK, its counters read zero and its words pass their
check; a header without MARK is trap 0x02 of that header, and so is an illegal one once its words are fetched; a fetch
fault of the header or of a word that is not an absent page is its own trap. A group that has been a candidate for 4,096
clocks is promoted. That the header and all its words are fetched in one turn (log entry 115) and how the 4,096 clocks are
counted (log entry 135) are the model's choices. -/
def Obligations.ClauseStarts : Prop :=
  (∀ (s : State) (core iss : Nat) (g : Group) (i : SlotId) (c : Clause) (fresh : Bool), IssueFree s core iss →
    g ∈ issueGroups s core iss → groupAt s core g.slot = some g → issueHeld s g = false → (pcSlot g i).st = .running →
    g.diverged = none → (g.resume = none ∨ ∃ r, g.resume = some r ∧ r.pcs = i) → tryStart s g i = .start c fresh →
    (∀ h ∈ issueGroups s core iss, ∀ j, issueHeld s h = false → (pcSlot h j).st = .running → ¬ (h.slot = g.slot ∧ j = i) →
      rankLe (rankKey s h j) (rankKey s g i) = true → tryStart s h j = .not) →
    ∃ t h, exec (.clauseStart core iss) s = .next t ∧ t.cur = some (core, g.slot) ∧ groupAt t core g.slot = some h ∧
      h.clause = some c ∧ h.issuedAt = s.clock ∧ h.yielded = hdrYield c.hdr ∧ h.promoted = false ∧ SameRegisters h g ∧
      (fresh = true → h.latches = [] ∧ h.latchValid = 0) ∧ t.mem = s.mem ∧ t.l1 = s.l1) ∧
  (∀ (s : State) (core iss : Nat) (g : Group), g ∈ s.groups → g.core = core → g.slot % 8 = iss → g.clause.isSome = true →
    g.stopped = none → g.halted = false → g.batch = none → exec (.clauseStart core iss) s = .next s) ∧
  (∀ (s : State) (g : Group) (i : SlotId) (h : Word) (ws : List Word), g.resume = none →
    fetchWord s g.ctx g.core (pcSlot g i).pc = .word h →
    (isHeader h = false → tryStart s g i = .trap 0x02 (pcSlot g i).pc 1 h (pcSlot g i).pc) ∧
    (isHeader h = true → ¬ CountersZero g h → tryStart s g i = .not) ∧
    (isHeader h = true → acqHeld s g = true → hdrClass h ∈ [2, 4, 5] → tryStart s g i = .not) ∧
    (∀ n k, isHeader h = true → CountersZero g h → Free s g h → n < hdrN h →
      (∀ m, m < n → ∃ w, fetchWord s g.ctx g.core ((pcSlot g i).pc + 4 * (m + 1)) = .word w) →
      fetchWord s g.ctx g.core ((pcSlot g i).pc + 4 * (n + 1)) = .fault k →
      let a := (pcSlot g i).pc + 4 * (n + 1)
      tryStart s g i = if k = 0x20 then .batch a 1 h (pcSlot g i).pc else .trap k a 1 h (pcSlot g i).pc) ∧
    (isHeader h = true → CountersZero g h → Free s g h → hdrOk h = false → ws.length = hdrN h → Fetched s g (pcSlot g i).pc ws →
      tryStart s g i = .trap 0x02 (pcSlot g i).pc 1 h (pcSlot g i).pc) ∧
    (isHeader h = true → CountersZero g h → Free s g h → hdrOk h = true → ws.length = hdrN h → Fetched s g (pcSlot g i).pc ws →
      clauseFlaw (hdrClass h) ws 0 = none → queueNeeds g ws = true →
      tryStart s g i = .start ⟨i, (pcSlot g i).pc, h, ws, 0⟩ true) ∧
    (∀ k, isHeader h = true → CountersZero g h → Free s g h → hdrOk h = true → ws.length = hdrN h → Fetched s g (pcSlot g i).pc ws →
      clauseFlaw (hdrClass h) ws 0 = some k →
      tryStart s g i = .trap 0x02 ((pcSlot g i).pc + 4 * (k + 1)) 1 h (pcSlot g i).pc)) ∧
  (∀ (s : State) (g : Group) (i : SlotId) (k : Nat), g.resume = none → fetchWord s g.ctx g.core (pcSlot g i).pc = .fault k →
    tryStart s g i = if k = 0x20 then .batch (pcSlot g i).pc 1 0 (pcSlot g i).pc else .trap k (pcSlot g i).pc 1 0 (pcSlot g i).pc) ∧
  (∀ (s : State) (g : Group) (n : Nat), groupAt s g.core g.slot = some g → g.candSince = some n →
    (n + 4096 ≤ s.clock → exec (.issuePromote g.core g.slot) s = .next (setGroup s { g with promoted := true })) ∧
    (s.clock < n + 4096 → exec (.issuePromote g.core g.slot) s = .next s)) ∧
  (∀ (s : State) (g h : Group) (i : SlotId), g.yielded = false → h.yielded = false →
    (g.promoted = true ∨ ∃ n, g.candSince = some n ∧ n + 4096 ≤ s.clock) →
    h.promoted = false → (∀ n, h.candSince = some n → s.clock < n + 4096) → 0 < h.cls →
    rankLe (rankKey s g i) (rankKey s h i) = true)

open Sys2Proof.Claims in
/-- R279, R280 and R387: run-ahead ends 2,048 clocks after its fault, and the group stands at its checkpoint with its batch
before system software; with a verdict for every page the instruction issues again, a fetch is made again, and a fetch
whose page is given up is trap 0x20.
That a group which waits for a verdict has given its issue slot up is the model's reading (log entry 58). -/
def Claims.BatchEvents : Prop :=
  (∀ (s : State) (g : Group) (b : Batch), groupAt s g.core g.slot = some g → g.batch = some b →
    (b.ahead = true → b.since + 2048 ≤ s.clock → ∃ t, exec (.runAheadTimeout g.core g.slot) s = .next t ∧
      groupAt t g.core g.slot = some { g with batch := some { b with ahead := false } } ∧ t.mem = s.mem ∧ t.l1 = s.l1 ∧
      (∀ a ∈ t.ahead, ¬ (a.core = g.core ∧ a.slot = g.slot)) ∧
      ∀ core slot, ¬ (core = g.core ∧ slot = g.slot) → groupAt t core slot = groupAt s core slot) ∧
    (s.clock < b.since + 2048 → exec (.runAheadTimeout g.core g.slot) s = .next s) ∧
    (b.ahead = false → b.released = false → g.halted = false → g.stopped = none →
      ((∃ p ∈ b.pages, p.verdict = none) → exec (.faultReissue g.core g.slot) s = .next s) ∧
      ((∀ p ∈ b.pages, p.verdict ≠ none) →
        (∀ m, b.what = .lanes m → slotTaken s g.core (g.slot % 8) g.slot = false → exec (.faultReissue g.core g.slot) s =
          .next { setGroup (dropCoreFails s g.ctx g.core) { g with batch := some { b with released := true } } with cur := some (g.core, g.slot) }) ∧
        (∀ i pc word idx hdr, b.what = .fetch i pc word idx hdr → (∀ p ∈ b.pages, p.verdict = some true) →
          exec (.faultReissue g.core g.slot) s = .next (setGroup (dropCoreFails s g.ctx g.core) { g with batch := none })) ∧
        (∀ i pc word idx hdr leaf, b.what = .fetch i pc word idx hdr → (∃ p ∈ b.pages, p.verdict = some false) → Deliverable s g leaf →
          ∃ t h, exec (.faultReissue g.core g.slot) s = .next t ∧ groupAt t g.core g.slot = some h ∧ h.inHandler = true ∧
            h.a.pc = (trapVec s g.ctx).toNat ∧ h.trapCause = 0x20 ∧ h.trapPc = pc ∧ h.trapAddr = word ∧ h.trapDst = 0xFF ∧
            h.trapMask = (pcSlot g i).mask ∧ SameRegisters h g))))

open Sys2Proof.Claims in
/-- R108, R262, R264, R250 and R257: a group with nothing left ends and gives up its place; its team goes with its last
group; a grid whose work has ended releases the words of its cores and, once they are acknowledged, completes with its
interrupt and its LAUNCH command; a write of WR rings a queue's
doorbell, and STP clears; a head that has waited AGE clocks has aged. That the releases of all the cores begin in one event
and the completion follows in a later one (log entry 54), and that a head ages from the window that makes it the head (log
entry 52), are the model's choices. -/
def Obligations.EndsAndQueues : Prop :=
  (∀ (s : State) (g : Group) (tm : Team), GroupOver s g → teamOfGroup s g = some tm → (s.teams.map fun t => t.key).Nodup →
    ∃ t, exec (.groupEnd g.core g.slot) s = .next t ∧ groupAt t g.core g.slot = none ∧ t.rays = s.rays ∧
      (∀ core slot, ¬ (core = g.core ∧ slot = g.slot) → groupAt t core slot = groupAt s core slot) ∧
      ((tm.running.filter fun n => n ≠ g.slot) ≠ [] → t.mem = s.mem ∧ t.grids = s.grids ∧
        teamOf t tm.key = some { tm with running := tm.running.filter fun n => n ≠ g.slot }) ∧
      ((tm.running.filter fun n => n ≠ g.slot) = [] → teamOf t tm.key = none ∧ ∀ k, k ≠ tm.key → teamOf t k = teamOf s k)) ∧
  (∀ (s : State) (ctx grid : Nat) (g : Grid), gridOf s ctx grid = some g → (∀ n ∈ s.reds, ¬ (n.ctx = ctx ∧ n.grid = grid)) →
    (gridEnded s g = true → g.relMark = none → ∃ t, exec (.gridComplete ctx grid) s = .next t ∧ t.groups = s.groups ∧
      t.irqs = s.irqs ∧ t.engines = s.engines ∧
      t.grids = s.grids.map fun x => if x.key = g.key then { x with relMark := some t.msgSeq } else x) ∧
    (∀ mark, gridEnded s g = true → g.relMark = some mark → (∃ c ∈ g.cores, releaseOut s c 5 mark = true) →
      exec (.gridComplete ctx grid) s = .next s) ∧
    (∀ mark, gridEnded s g = true → g.relMark = some mark → (∀ c ∈ g.cores, releaseOut s c 5 mark = false) →
      (s.grids.map fun x => x.key).Nodup → ∃ t, exec (.gridComplete ctx grid) s = .next t ∧ t.grids = s.grids.filter (fun x => x.key ≠ g.key) ∧ t.groups = s.groups ∧
        t.irqs = (if (g.recw.getD 0 0).getLsbD 55 then qWord s g.queue 0x34 % 2048 :: s.irqs else s.irqs) ∧
        ∀ id, g.fromCmd = some id → ∀ c ∈ tget t.engines 64 [], c.id = id → c.ended = some 0) ∧
    (gridEnded s g = false → exec (.gridComplete ctx grid) s = .next s)) ∧
  (∀ (s : State) (q : Nat) (wr : Word), q < 32 → ∃ t, exec (.queueDoorbell q wr) s = .next t ∧ qWr t q = wr.toNat ∧
    (∀ off, off / 4 ≠ (0x100C + 64 * q) / 4 → barWord t off = barWord s off) ∧ t.mem = s.mem ∧ t.groups = s.groups ∧ t.grids = s.grids) ∧
  (∀ (s : State) (q : Nat), q < 32 → ∃ t, exec (.queueStpClear q) s = .next t ∧ qStp t q = false ∧
    (∀ i, i < 32 → i ≠ 12 → (barWord t (0x1020 + 64 * q)).getLsbD i = (barWord s (0x1020 + 64 * q)).getLsbD i) ∧
    (∀ off, off / 4 ≠ (0x1020 + 64 * q) / 4 → barWord t off = barWord s off) ∧ t.mem = s.mem ∧ t.groups = s.groups ∧ t.grids = s.grids) ∧
  (∀ (s : State) (q : Nat) (g : Grid), headOf s q = some g →
    (g.aged = none → qWord s q 0x24 ≠ 0 → g.headSince + qWord s q 0x24 ≤ s.clock → ∃ t, exec (.headAged q) s = .next t ∧ t.groups = s.groups ∧
      t.mem = s.mem ∧ ∃ x ∈ t.grids, x.key = g.key ∧ x.aged = some (g.headSince + qWord s q 0x24)) ∧
    (g.aged.isSome = true ∨ qWord s q 0x24 = 0 ∨ s.clock < g.headSince + qWord s q 0x24 → exec (.headAged q) s = .next s))

open Sys2Proof.Claims in
/-- R8, R11, R69, R247, R250, R256 to R261: nothing happens outside a placement window. In one, with one head that fits, a
cluster takes its place: every group of every team starts at the entry with all lanes, its arguments and its lane seeds,
with an empty scratchpad and its place in the grid. A record that fails a check stops its queue, or is stepped over. That a
grid takes its GRIDID as its first cluster is placed is the model's choice (log entry 51). -/
def Obligations.Launches : Prop :=
  (∀ (s : State), s.clock % 16 ≠ 0 ∨ s.clock / 16 < s.window → exec .launchWindow s = .next s) ∧
  (∀ (s : State), s.clock % 16 = 0 → s.window ≤ s.clock / 16 → HeadsOnly s [] → Unstalled s →
    exec .launchWindow s = .next { s with window := s.clock / 16 + 1 }) ∧
  (∀ (s : State) (q : Nat) (g : Grid) (cores : List Nat), s.clock % 16 = 0 → s.window ≤ s.clock / 16 → q < 32 → HeadsOnly s [q] → Unstalled s →
    headOf (ageHead s q) q = some g → recKind g.recw = 0 → launches s g.ctx = true → logMode s g.ctx = 0 →
    findPlace (ageHead s q) g = some cores → (∀ c ∈ cores, Quiescent s c) →
    let id := g.id.getD ((ctxOf s g.ctx).nextGrid % 2 ^ 32)
    ∃ t, exec .launchWindow s = .next t ∧ t.window = s.clock / 16 + 1 ∧ t.mem = s.mem ∧
      (∀ h ∈ s.groups, h ∈ t.groups) ∧ t.groups.length = s.groups.length + cores.length * recNg g.recw ∧
      (∀ k core, cores[k]? = some core →
        (∃ tm ∈ t.teams, tm.core = core ∧ tm.ctx = g.ctx ∧ tm.grid = id ∧ tm.cluster = g.nextCluster ∧ tm.team = k ∧ tm.mem = [] ∧
          tm.size = recScr g.recw ∧ tm.ng = recNg g.recw) ∧
        ∀ j, j < recNg g.recw → ∃ h ∈ t.groups, h.core = core ∧ h.ctx = g.ctx ∧ h.grid = id ∧ h.cluster = g.nextCluster ∧ h.team = k ∧
          h.index = j ∧ h.kind = .compute ∧ h.regAlloc = recRegs g.recw ∧ h.a.st = .running ∧ h.a.pc = recEntry g.recw ∧
          h.a.mask = BitVec.allOnes 128 ∧ h.a.rpc = none ∧ h.b.st = .empty ∧ h.v = [] ∧ h.p = [] ∧ h.cnt = [] ∧ h.fpctl = 0 ∧
          sReg h 0 = BitVec.ofNat 64 (bitsOf (g.recw.getD 1 0) 0 48) ∧ (∀ n, n ≠ 0 → sReg h n = 0) ∧
          ∀ l, l < 128 → lane h.srseed l = mix32 (BitVec.ofNat 32 id) (BitVec.ofNat 32 (((g.nextCluster * 12 + k) * 16 + j) * 128 + l))) ∧
      ∃ x ∈ t.grids, x.key = g.key ∧ x.id = some id ∧ x.nextCluster = g.nextCluster + 1) ∧
  (∀ (s : State) (q ctx tag code : Nat) (gir : Bool) (cmd : Option EngCmd), complSlot s q ctx = none →
    (qRej s q = true → qRd (rejectRecord s q ctx tag code gir cmd) q = (qRd s q + 1) % 2 ^ 32 ∧
      qStp (rejectRecord s q ctx tag code gir cmd) q = qStp s q) ∧
    (qRej s q = false → qRd (rejectRecord s q ctx tag code gir cmd) q = qRd s q ∧ qStp (rejectRecord s q ctx tag code gir cmd) q = true)) ∧
  (∀ (s : State) (ctx q : Nat) (r : List DWord), recReserved r = false → recKind r = 0 →
    (recEntry r = 0 ∨ recEntry r % 256 ≠ 0 → checkRecord s ctx q r = 2) ∧
    (recEntry r ≠ 0 → recEntry r % 256 = 0 →
      (recNcl r = 0 ∨ 2 ^ 31 < recNcl r → checkRecord s ctx q r = 3) ∧
      (checkRecord s ctx q r = 0 → 1 ≤ recNcl r ∧ 1 ≤ recCw r ∧ recCw r ≤ 3 ∧ 1 ≤ recCh r ∧ recCh r ≤ 4 ∧ 1 ≤ recNg r ∧ recNg r ≤ 16 ∧
        recRegs r % 4 = 0 ∧ 8 ≤ recRegs r ∧ recRegs r ≤ 124 ∧ recScr r ≤ 655360 ∧ recScr r % 8 = 0)))

open Sys2Proof.Claims in
/-- R344, R371 and R372: a coalescer writes its oldest record to the event ring and raises EIV when the ring was empty, waits
while the ring is full, and begins a release at SYSTEM scope first where one has anything to do; a write of TAIL takes effect at once, but for a replay, which stages it; a record that stalled and
now fits is written, and with the last of them FULL clears. -/
def Obligations.Rings : Prop :=
  (∀ (s : State) (core : Nat) (e : EventRec) (es : List EventRec), tget s.events core [] = e :: es →
    let slot := locAt (bitsOf (barDWord s 0x200) 52 2) (evBase s + 32 * ((barWord s 0x208).toNat % evSlots s))
    (evRoom s = true → homeOf slot = 0 → physExists 0 (paOf slot) = true → slot % 32 = 0 → MemoryOk s →
      (∀ i, i < 8 → isLost s (slot + 4 * i) = false) → unitReleased s 5 = true →
      ∃ t, exec (.coalescerWrite core) s = .next t ∧ tget t.events core [] = es ∧
        barWord t 0x208 = barWord s 0x208 + 1 ∧
        (∀ i, i < 8 → memWord t.mem (slot + 4 * i) = ((wordsOf64 (eventWords e)).getD i 0)) ∧
        t.irqs = (if barWord s 0x208 = barWord s 0x20C then (barWord s 0x210).toNat % 2048 :: s.irqs else s.irqs)) ∧
    (evRoom s = true → physExists (homeOf slot) (paOf slot) = true → unitReleased (unitRelease s 0 5) 5 = false →
      exec (.coalescerWrite core) s = .next (unitRelease s 0 5)) ∧
    (evRoom s = false → exec (.coalescerWrite core) s = .next s)) ∧
  (∀ (s : State) (core : Nat), tget s.events core [] = [] → exec (.coalescerWrite core) s = .next s) ∧
  (∀ (s : State) (ctx : Nat) (tail : Word),
    (logMode s ctx = 2 → exec (.logTailWrite ctx tail) s = .next (putBar s (ctxBlock ctx + 0x04C) tail)) ∧
    (logMode s ctx ≠ 2 → (∀ w ∈ s.logWait, w.ctx ≠ ctx) →
      ∃ t, exec (.logTailWrite ctx tail) s = .next t ∧ ctxWord t ctx 0x04C = tail ∧ t.mem = s.mem ∧ t.groups = s.groups ∧
        t.logWait = s.logWait ∧ (ctxOf t ctx).stalls = (ctxOf s ctx).stalls) ∧
    (∀ w ty w1 rest, logMode s ctx = 1 → s.logWait = [w] → w.ctx = ctx → w.words = ty :: w1 :: rest → ty ≠ 2 → haltedAt s w.core w.slot = false →
      (ctxOf s ctx).stalls = [stallOp w.op] → logRoom (putCtx s ctx 0x04C tail) ctx (recUnits rest.length) = true →
      ∃ t, exec (.logTailWrite ctx tail) s = .next t ∧ t.logWait = [] ∧ (ctxOf t ctx).stalls = [] ∧
        (ctxWord t ctx 0x05C).getLsbD 0 = false))

open Sys2Proof.Claims in
/-- R273, R276, R277 and R283: a free walker takes the oldest request with every request for its page, and none is free
past 32; a walk that finds a leaf fills the three levels for each core that asked, so that its access translates, and one
that fails leaves the cause that the access will raise; a walk that reads a line of the host's bias waits for the host. An
invalidation completes once every access translated through what it removed has been performed, be it as a reduction (log
entry 59). -/
def Claims.Walks : Prop :=
  (∀ (s : State) (h : Nat) (r : WalkReq) (rest : List WalkReq), tget s.walkQ h [] = r :: rest →
    (((tget s.walking h []).map fun r => (r.ctx, r.page)).dedup.length < 32 →
      ∃ t, exec (.pageWalkStart h) s = .next t ∧ t.groups = s.groups ∧ t.mem = s.mem ∧
        (∀ q, q ∈ tget t.walking h [] ↔ q ∈ tget s.walking h [] ∨ q = r ∨ (q ∈ rest ∧ q.ctx = r.ctx ∧ q.page = r.page)) ∧
        (∀ q, q ∈ tget t.walkQ h [] ↔ q ∈ rest ∧ ¬ (q.ctx = r.ctx ∧ q.page = r.page))) ∧
    (32 ≤ ((tget s.walking h []).map fun r => (r.ctx, r.page)).dedup.length → (∀ q ∈ tget s.walking h [], ¬ (q.ctx = r.ctx ∧ q.page = r.page)) →
      exec (.pageWalkStart h) s = .next s)) ∧
  (∀ (s : State) (h ctx page : Nat) (r : WalkReq), r ∈ tget s.walking h [] → r.ctx = ctx → r.page = page →
    let ls := snoopLines s (walkReads s ctx (page * 4096))
    ls ≠ [] → exec (.pageWalkComplete h ctx page) s = .next { s with biasWait := (ls ++ s.biasWait).dedup }) ∧
  (∀ (s : State) (h ctx page core : Nat) (soft : Bool), snoopLines s (walkReads s ctx (page * 4096)) = [] →
    (tget s.walking h []).filter (fun r => r.ctx == ctx && r.page == page) =
      [⟨ctx, page, core, soft⟩] → page < 2 ^ 36 → (core < 96 ∨ 128 ≤ core) →
    (∀ leaf acc, walk s ctx (page * 4096) = .ok leaf → leafCause s leaf acc = none →
      ∃ t, exec (.pageWalkComplete h ctx page) s = .next t ∧ t.mem = s.mem ∧ t.groups = s.groups ∧
        (∀ va, page * 4096 ≤ va → va < page * 4096 + 4096 → xlat t ctx core va acc = .ok leaf) ∧
        ∀ r ∈ tget t.walking h [], ¬ (r.ctx = ctx ∧ r.page = page)) ∧
    (∀ why, walk s ctx (page * 4096) = .error why → soft = false →
      ∃ t, exec (.pageWalkComplete h ctx page) s = .next t ∧ t.mem = s.mem ∧ t.groups = s.groups ∧
        t.walkFails = ⟨ctx, page, core, why⟩ :: s.walkFails ∧
        (why = .malformed → ∃ e ∈ tget t.events (min core noCore) [], e.kind = 7 ∧ e.ctx = ctx ∧ e.addr = page * 4096) ∧ ∀ r ∈ tget t.walking h [], ¬ (r.ctx = ctx ∧ r.page = page))) ∧
  (∀ (s : State) (i : Nat) (v : Inval), s.invals[i]? = some v →
    ((∃ g ∈ s.groups, g.ctx = v.ctx ∧ ∃ o ∈ g.ops, o.sp = false ∧ o.id < v.before ∧ ∃ r ∈ o.lanes, ∃ x ∈ v.ranges,
        x.1 ≤ r.va ∧ r.va < x.1 + x.2) →
      exec (.invalComplete i) s = .next s) ∧
    ((∃ n ∈ s.reds, n.ctx = v.ctx ∧ n.born < v.before ∧ ∃ x ∈ v.ranges, x.1 ≤ n.va ∧ n.va < x.1 + x.2) →
      exec (.invalComplete i) s = .next s) ∧
    ((∀ n ∈ s.reds, n.ctx = v.ctx → n.born < v.before → ∀ x ∈ v.ranges, ¬ (x.1 ≤ n.va ∧ n.va < x.1 + x.2)) → (∀ g ∈ s.groups, g.ctx = v.ctx → ∀ o ∈ g.ops, o.sp = false → o.id < v.before → ∀ r ∈ o.lanes, ∀ x ∈ v.ranges,
        ¬ (x.1 ≤ r.va ∧ r.va < x.1 + x.2)) →
      exec (.invalComplete i) s = .next (finishCmd { s with invals := s.invals.filter fun x => x.cmd ≠ v.cmd } v.cmd 0 0)))

namespace Sys2Proof.Claims

/-! ## The host's registers and commands: R22, R209, R239, R250, R283, R287 to R291, R336 to R338, R373 to R377 -/

/-- The command ring's head is a command that the device can read (R288). -/
structure HeadIs (s : State) (c : HostCmd) : Prop where
  pending : cmdPending s = true
  inMemory : headExists s = true
  read : headCmd (engineAcquire s 5) = c
  home : homeOf c.loc ≠ 1
  place : c.loc % 64 = 0
  lines : ∀ e ∈ s.hostLines, e.2.vals.length = 32

/-- Nothing that an earlier command or write has left waits for a release: the RDC holds nothing to register or write back, and
nothing of the kind is under way (R289, R321). -/
structure Settled (s : State) : Prop where
  ends : s.cmdEnds = []
  still : unitReleased s 5 = true
  host : ∀ m ∈ s.msgs, m.kind = .wb → m.dst ≠ .host

/-- The head is a command whose end waits for nothing. -/
structure HeadStands (s : State) (c : HostCmd) : Prop extends HeadIs s c where
  settled : Settled s
  memory : Memory.wf s.mem = true

/-- The head is a well-formed command of a live context (R289). -/
structure Proper (s : State) (c : HostCmd) : Prop extends HeadStands s c where
  good : badCmd c = false
  live : (ctxOf s c.ctx).live = true

/-- A command has been taken from the ring and has completed: word 7 holds DONE, RESULT and STATUS, and KIV is raised if the
command asks for it (R288, R289). -/
structure Completed (s t : State) (c : HostCmd) (status result : Nat) : Prop where
  gone : c ∉ t.cmds
  others : (∀ x ∈ t.cmds, x ∈ s.cmds) ∧ ∀ x ∈ s.cmds, x.loc ≠ c.loc → x ∈ t.cmds
  taken : barWord t 0x10C = barWord s 0x10C + 1
  low : (readAsEngine t (c.loc + 56)).1 = BitVec.ofNat 32 (result * 2 ^ 16 + status)
  high : (readAsEngine t (c.loc + 60)).1 = 0x80000000
  irq : t.irqs = if c.irq then (barWord s 0x110).toNat % 2048 :: s.irqs else s.irqs

/-- A command has left the ring and has completed, or its end waits for the release before word 7 (R289). -/
structure Closed (t : State) (c : HostCmd) (status result : Nat) : Prop where
  gone : c ∉ t.cmds
  word : (readAsEngine t (c.loc + 56)).1 = BitVec.ofNat 32 (result * 2 ^ 16 + status) ∧ (readAsEngine t (c.loc + 60)).1 = 0x80000000 ∨
    ∃ e ∈ t.cmdEnds, e.cmd = c ∧ e.status = status ∧ e.result = result

/-- What a command that does nothing else leaves alone. -/
structure WorkKept (s t : State) : Prop where
  groups : t.groups = s.groups
  teams : t.teams = s.teams
  grids : t.grids = s.grids
  rays : t.rays = s.rays
  units : t.engines = s.engines ∧ t.quads = s.quads
  tiles : t.tiles = s.tiles ∧ t.treelets = s.treelets
  sync : t.syncTab = s.syncTab ∧ t.syncOps = s.syncOps

/-- The contexts stand as they were. -/
def SettingsKept (s t : State) : Prop := t.ctxs = s.ctxs

/-- The register map stands but for KRD. -/
def RegistersKept (s t : State) : Prop := ∀ off, off / 4 ≠ 0x10C / 4 → barWord t off = barWord s off

/-- A step takes the command at the ring's head and ends it, changing no work and no setting (R289). -/
def EndsAs (i : Instr) (s : State) (c : HostCmd) (status result : Nat) : Prop :=
  ∃ t, exec i s = .next (skipIdles t) ∧ Completed s t c status result ∧ WorkKept s t ∧ SettingsKept s t ∧ RegistersKept s t

/-- The events that take the command of one code each (R289). -/
noncomputable def byCode : List (Instr × Nat) := [
  (.ctxcreate, 0x01), (.ctxdestroy, 0x02), (.preempt, 0x06), (.reset, 0x08), (.halt, 0x09), (.step, 0x0A), (.dbgread, 0x0B),
  (.dbgwrite, 0x0C), (.raysave, 0x0D), (.banksave, 0x0E), (.tileflush, 0x10), (.tileclear, 0x11), (.salvage, 0x12)]

/-- The events that apply one part of a SETCTX each, by the part's bit (R290). -/
noncomputable def byPart : List (Instr × Nat) := [
  (.setctxTrans, 0), (.setctxTrap, 1), (.setctxLog, 2), (.setctxRay, 3), (.setctxPfx, 4), (.setctxFrame, 5), (.setctxDbg, 6)]

/-- A staged word and a staged 64-bit setting of a context's block (R290). -/
def st (s : State) (ctx off : Nat) : Nat := (barWord s (0x10000 + 1024 * ctx + off)).toNat
def st64 (s : State) (ctx off : Nat) : Nat := st s ctx off + 2 ^ 32 * st s ctx (off + 4)

/-- The check of a part that does not look at what runs (R209, R212, R223, R235, R270, R282, R379). -/
def partRule (s : State) (ctx : Nat) : Nat → Prop
  | 0 => st64 s ctx 0 % 2 ^ 12 = 0 ∧ st64 s ctx 0 / 2 ^ 52 % 2 ^ 8 = 0 ∧ st64 s ctx 0 / 2 ^ 60 ∈ [0, 2]
  | 4 => st s ctx 0xAC ≤ 16 ∧ (st s ctx 0xAC = 0 ∨ 16 ≤ st s ctx 0xA8 ∧ st s ctx 0xA8 ≤ 29)
  | 5 => st s ctx 0xB0 % 2 ^ 16 ≠ 0 ∧ st s ctx 0xB0 / 2 ^ 16 ≠ 0 ∧ st s ctx 0xB4 = 0 ∧ st64 s ctx 0xB8 % 64 = 0 ∧
      st64 s ctx 0xC0 % 2 = 0 ∧ st64 s ctx 0xC8 % 32 = 0 ∧ st64 s ctx 0xB8 < 2 ^ 48 ∧ st64 s ctx 0xC0 < 2 ^ 48 ∧ st64 s ctx 0xC8 < 2 ^ 48
  | _ => st64 s ctx 0x18 < 2

/-- A range of a context's addresses that is mapped readable, or writable, and not lost (R291, R376). -/
abbrev Reachable (s : State) (ctx a n : Nat) (acc : Acc) : Prop := rangeOk s ctx a n acc = true

/-- Nothing of a context's work is left: no group, team, grid or ray. -/
def NoWork (t : State) (ctx : Nat) : Prop :=
  (∀ g ∈ t.groups, g.ctx ≠ ctx) ∧ (∀ x ∈ t.teams, x.ctx ≠ ctx) ∧ (∀ x ∈ t.grids, x.ctx ≠ ctx) ∧ ∀ x ∈ t.rays, x.ctx ≠ ctx

/-- A CTXDESTROY has ended, and nothing that its context held is left (R289). -/
structure Destroyed (t : State) (c : HostCmd) : Prop extends Closed t c 0 0 where
  live : (ctxOf t c.ctx).live = false
  sync : ∀ x ∈ t.syncTab, x.ctx ≠ c.ctx
  tiles : ∀ x ∈ t.tiles, x.ctx ≠ c.ctx
  treelets : ∀ x ∈ t.treelets, x.ctx ≠ c.ctx
  queues : ∀ q, q < 32 → qCtx t q ≠ some c.ctx
  banks : ∀ quad b, holdsBank t c.ctx quad b = false

/-- The group that a debugger's command names, halted, and the part of its state that the command selects (R291). -/
structure Selects (s : State) (c : HostCmd) (g : Group) (sel index : Nat) : Prop where
  place : groupAt s (bitsOf (c.arg 1) 0 7) (bitsOf (c.arg 1) 8 7) = some g
  own : g.ctx = c.ctx
  halted : g.halted = true
  sel : bitsOf (c.arg 2) 0 8 = sel
  index : bitsOf (c.arg 2) 8 24 = index

end Sys2Proof.Claims

open Sys2Proof.Claims in
/-- R288 and R289: word 7 of a command is written once the release that its end begins has been acknowledged; with no command to take, or one with another code, nothing happens; a bad command ends with STATUS 2 and
one of a context that is not live with STATUS 3, and nothing else is done; what names nothing to do ends by itself.
That STATUS 2 comes before STATUS 3 (log entry 62), that a command starts with the event that carries it out (log entry 63), the stop for a ring in memory that does not exist (log entry 64), and what the release before word 7 awaits (log entry 134) are the model's choices. -/
def Claims.CommandRing : Prop :=
  (∀ (s : State) (c : HostCmd) (status result : Nat), (∃ e ∈ s.hostLines, e.2.st = .modified) →
    let t := finishCmd s c status result
    (∃ e ∈ t.cmdEnds, e.cmd = c ∧ e.status = status ∧ e.result = result) ∧ c ∉ t.cmds ∧
      ((∀ e ∈ s.cmdEnds, rdcOut s e.mark = true) → t.irqs = s.irqs)) ∧
  (∀ (s : State) (e : CmdEnd), s.cmdEnds = [e] →
    (rdcOut s e.mark = true → settleEnds s = s) ∧
    (rdcOut s e.mark = false → e.status < 2 ^ 8 → homeOf e.cmd.loc = 0 → e.cmd.loc % 64 = 0 → Memory.wf s.mem = true →
      (settleEnds s).cmdEnds = [] ∧
      (readAsEngine (settleEnds s) (e.cmd.loc + 56)).1 = BitVec.ofNat 32 (e.result * 2 ^ 16 + e.status) ∧
      (e.result < 2 ^ 8 → (readAsEngine (settleEnds s) (e.cmd.loc + 60)).1 = 0x80000000) ∧
      (settleEnds s).irqs = if e.cmd.irq then (barWord s 0x110).toNat % 2048 :: s.irqs else s.irqs)) ∧
  (∀ (s : State), ∀ p ∈ byCode, (p.2 = 2 → ∀ x ∈ s.cmds, x.code ≠ 2) →
    (cmdPending s = false → exec p.1 s = .next s) ∧
    (∀ c, HeadIs s c → c.code ≠ p.2 → exec p.1 s = .next s) ∧
    (∀ c, HeadStands s c → c.code = p.2 → badCmd c = true → EndsAs p.1 s c 2 0) ∧
    (∀ c, HeadStands s c → c.code = p.2 → p.2 ≠ 1 → badCmd c = false → (ctxOf s c.ctx).live = false →
      (∀ g ∈ s.groups, g.ctx ≠ c.ctx) → EndsAs p.1 s c 3 0) ∧
    (cmdPending s = true → headExists s = false → exec p.1 s = .fault .noMemory)) ∧
  (∀ (s : State), cmdKwr s = cmdKrd s → skipIdles s = s) ∧
  (∀ (s : State) (c : HostCmd), HeadStands s c → cmdKwr s = (cmdKrd s + 1) % 2 ^ 32 →
    (c.code = 0 ∨ 0x12 < c.code ∨ c.code = 3 ∧ bitsOf (c.arg 0) 16 7 = 0) →
    Completed s (skipIdles s) c (if badCmd c then 2 else if (ctxOf s c.ctx).live then 0 else 3) 0 ∧ WorkKept s (skipIdles s) ∧
      SettingsKept s (skipIdles s)) ∧
  (∀ (s : State) (kwr : Word), hostUp s = true → let s1 := putBar s 0x108 kwr
    (cmdPending s1 = false ∨ headExists s1 = true) →
    exec (.cmdDoorbell kwr) s = .next (skipIdles s1) ∧ cmdKwr s1 = kwr.toNat ∧
      ∀ off, off / 4 ≠ 0x108 / 4 → barWord s1 off = barWord s off) ∧
  (∀ (s : State) (kwr : Word), hostUp s = false → exec (.cmdDoorbell kwr) s = .next s)

open Sys2Proof.Claims in
/-- R250, R287, R288, R290, R338 and R371: what a host write reaches. An access that is not an aligned one of 4 or 8 bytes,
past the BAR, or in the safe state, is ignored; indices that the device writes, and what it alone writes of a context's
block, are not reached, RD of a queue only while the queue is stopped; a ring's base is written whole or not at all; STP can
be cleared and never set.
That RD of a stopped queue can be written is the model's reading (log entry 133). -/
def Claims.HostRegisters : Prop :=
  ∀ (s : State) (off : Nat) (v : DWord),
    (∀ size, hostUp s = false ∨ 2 ^ 20 ≤ off ∨ size ∉ [4, 8] ∨ off % size ≠ 0 → exec (.hostRegWrite off size v) s = .next (skipIdles s)) ∧
    (hostUp s = true → off < 2 ^ 20 → off % 4 = 0 →
      (off < 0x100 ∨ off ∈ [0x10C, 0x208] ∨ (0x114 ≤ off ∧ off < 0x200) ∨ (0x214 ≤ off ∧ off < 0x1000) ∨ (0x1800 ≤ off ∧ off < 0x10000) ∨ 0x20000 ≤ off ∨
        (0x1000 ≤ off ∧ off < 0x1800 ∧ off % 64 ∈ [0x18, 0x1C, 0x3C]) ∨
        (0x1000 ≤ off ∧ off < 0x1800 ∧ off % 64 = 0x08 ∧ qStp s ((off - 0x1000) / 64) = false) ∨
        (0x10000 ≤ off ∧ off < 0x20000 ∧ (off % 1024 ∈ [0x50, 0x5C] ∨ 0xD0 ≤ off % 1024)) →
        exec (.hostRegWrite off 4 v) s = .next (skipIdles s)) ∧
      (off = 0x108 ∨ off = 0x20C ∨ (0x1000 ≤ off ∧ off < 0x1800 ∧ off % 64 ∈ [0x00, 0x0C, 0x10, 0x24, 0x28, 0x2C, 0x30, 0x38]) ∨
        (0x1000 ≤ off ∧ off < 0x1800 ∧ off % 64 = 0x08 ∧ qStp s ((off - 0x1000) / 64) = true) ∨
        (0x10000 ≤ off ∧ off < 0x20000 ∧ off % 1024 = 0x4C ∧ logMode s ((off - 0x10000) / 1024) = 2) ∨
        (0x10000 ≤ off ∧ off < 0x20000 ∧ off % 1024 < 0xD0 ∧ off % 1024 ∉ [0x48, 0x4C, 0x50, 0x54, 0x5C]) →
        exec (.hostRegWrite off 4 v) s = .next (skipIdles (putBar s off (v.extractLsb' 0 32)))) ∧
      (0x1000 ≤ off → off < 0x1800 → off % 64 = 0x20 → ∃ t, exec (.hostRegWrite off 4 v) s = .next (skipIdles t) ∧
        (∀ i, i < 32 → (barWord t off).getLsbD i = if i = 12 then (barWord s off).getLsbD 12 && v.getLsbD 12 else
          v.getLsbD i && decide (i ∉ [6, 13, 14, 15] ∧ i < 24)) ∧ ∀ o, o / 4 ≠ off / 4 → barWord t o = barWord s o) ∧
      (∀ ctx, ctx < 64 → off = 0x10000 + 1024 * ctx + 0x48 → exec (.hostRegWrite off 4 v) s =
        .next (skipIdles (if logMode s ctx = 1 then s else putBar s off (v.extractLsb' 0 32))))) ∧
    (hostUp s = true → off ∈ [0x100, 0x200] → ∃ t, exec (.hostRegWrite off 8 v) s = .next (skipIdles t) ∧
      ((bitsOf v 52 2 ∈ [0, 2] ∧ bitsOf v 0 12 = 0 ∧ (off = 0x100 → cmdKwr s = cmdKrd s) →
          barDWord t off = v &&& 0x003FFFFFFFFFFFFF) ∧
        (bitsOf v 52 2 ∉ [0, 2] ∨ bitsOf v 0 12 ≠ 0 ∨ (off = 0x100 ∧ cmdKwr s ≠ cmdKrd s) → t = s)))

open Sys2Proof.Claims in
/-- R22, R289, R290, R375: CTXCREATE makes a context live with every setting at its reset value; CTXDESTROY, once
the reset of its context is complete, leaves nothing of it; a part of a SETCTX is applied as a whole, or rejected, when the block reads the active settings again.
The order of what CTXDESTROY frees (log entry 96) and what a changed log part starts with (log entry 81) are the model's reading. -/
def Claims.ContextSettings : Prop :=
  (∀ (s : State) (c : HostCmd), HeadStands s c → c.code = 1 → badCmd c = false →
    ((ctxOf s c.ctx).live = true → EndsAs .ctxcreate s c 5 0) ∧
    ((ctxOf s c.ctx).live = false → ∃ t, exec .ctxcreate s = .next (skipIdles t) ∧ Completed s t c 0 0 ∧ WorkKept s t ∧
      (ctxOf t c.ctx).live = true ∧ (∀ o, ctxWord t c.ctx o = ctxReset o) ∧ (ctxOf t c.ctx).nextGrid = 0 ∧
      (∀ o, o < 1024 → barWord t (0x10000 + 1024 * c.ctx + o) = barReset (0x10000 + 1024 * c.ctx + o)) ∧
      ∀ ctx, ctx ≠ c.ctx → ctxOf t ctx = ctxOf s ctx)) ∧
  (∀ (s : State) (c : HostCmd), Proper s c → c.code = 2 → (∀ x ∈ s.cmds, x.code ≠ 2) → ∃ t, exec .ctxdestroy s = .next (skipIdles t) ∧
    barWord t 0x10C = barWord s 0x10C + 1 ∧ NoWork t c.ctx ∧
    (Destroyed t c ∨ c ∈ t.cmds ∧ (ctxOf t c.ctx).live = true ∧ (ctxOf t c.ctx).flush.isSome = true) ∧
    ((∀ g ∈ s.groups, g.ctx ≠ c.ctx) → (∀ n ∈ s.reds, n.ctx ≠ c.ctx) →
      Destroyed t c ∧ (t.cmdEnds = [] → c.irq = true → (barWord s 0x110).toNat % 2048 ∈ t.irqs))) ∧
  (∀ (s : State) (c : HostCmd), s.cmds = [c] → c.code = 2 → (ctxOf s c.ctx).flush = none → homeOf c.loc ≠ 1 → c.loc % 64 = 0 →
    (∀ m ∈ s.msgs, m.kind = .wb → m.dst ≠ .host) →
    (∀ e ∈ s.hostLines, e.2.vals.length = 32) → Memory.wf s.mem = true → NoWork s c.ctx →
    ∃ t, exec .ctxdestroy s = .next t ∧ Destroyed t c ∧ NoWork t c.ctx) ∧
  (∀ (s : State) (c : HostCmd), ∀ p ∈ byPart, Proper s c → c.code = 3 → bitsOf (c.arg 0) 16 7 = 2 ^ p.2 →
    (∀ x ∈ s.cmds, ¬ (x.code = 3 ∧ x.todo.testBit p.2 = true)) →
    (partOk s c.ctx p.2 = false → ∃ t, exec p.1 s = .next (skipIdles t) ∧ Completed s t c 1 (2 ^ p.2) ∧ WorkKept s t ∧ SettingsKept s t ∧
      ∀ o ∈ partWords p.2, barWord t (0x10000 + 1024 * c.ctx + o) = ctxWord s c.ctx o) ∧
    (partOk s c.ctx p.2 = true → ∃ t, exec p.1 s = .next (skipIdles t) ∧ Completed s t c 0 0 ∧ (p.2 ≠ 2 → WorkKept s t) ∧
      t.groups = s.groups ∧ t.teams = s.teams ∧ t.grids = s.grids ∧ t.rays = s.rays ∧
      (∀ o ∈ partWords p.2, o ∉ [0x50, 0x5C] → ctxWord t c.ctx o = barWord s (0x10000 + 1024 * c.ctx + o)) ∧
      (∀ o, o / 4 ∉ (partWords p.2).map (· / 4) → ctxWord t c.ctx o = ctxWord s c.ctx o) ∧
      ∀ ctx, ctx ≠ c.ctx → ctxOf t ctx = ctxOf s ctx)) ∧
  (∀ (s : State) (ctx bit : Nat), bit ∈ [0, 4, 5, 6] → (partOk s ctx bit = true ↔ partRule s ctx bit)) ∧
  (∀ (s : State) (ctx : Nat), ((∃ g ∈ s.groups, g.ctx = ctx) → partOk s ctx 1 = false) ∧
    (st s ctx 0x20 = 0 → (∀ o ∈ partWords 2, st s ctx o = (ctxWord s ctx o).toNat) → logZero s ctx = true → partOk s ctx 2 = true) ∧
    (2 < st s ctx 0x20 → partOk s ctx 2 = false) ∧ (st s ctx 0x80 % 16 ≠ 0 → partOk s ctx 3 = false) ∧
    (0 < st64 s ctx 0x90 → 0 < st s ctx 0x80 → st s ctx 0x80 < 128 → partOk s ctx 3 = false))

open Sys2Proof.Claims in
/-- R283, R284 and R373: an invalidation removes from every TLB the entries that overlap its range, and waits for its
completion; a verdict reaches every page of a fault batch that waits for it, and the engine commands that wait for the page,
which go on or end with class 0x08. -/
def Claims.InvalidationsAndVerdicts : Prop :=
  (∀ (s : State) (c : HostCmd), Proper s c → c.code = 4 →
    let base := (c.arg 1).toNat; let len := (c.arg 2).toNat
    (base % 4096 ≠ 0 ∨ len % 4096 ≠ 0 ∨ len < 4096 ∨ 2 ^ 48 < len → EndsAs .inval s c 2 0) ∧
    (base % 4096 = 0 → len % 4096 = 0 → 4096 ≤ len → len ≤ 2 ^ 48 →
      (16 ≤ s.invals.length → exec .inval s = .next s) ∧
      (s.invals.length < 16 → ∃ t, exec .inval s = .next (skipIdles t) ∧ t.invals.length = s.invals.length + 1 ∧
        t.cmds = s.cmds ++ [c] ∧ barWord t 0x10C = barWord s 0x10C + 1 ∧ t.groups = s.groups ∧ t.teams = s.teams ∧ t.grids = s.grids ∧
        t.rays = s.rays ∧ t.engines = s.engines ∧ SettingsKept s t ∧ t.mem = s.mem ∧
        (∀ core va leaf, tlbFind t c.ctx core va = some leaf → base ≤ va → va < base + len → False) ∧
        (∀ ctx core va, ctx ≠ c.ctx → tlbFind t ctx core va = tlbFind s ctx core va) ∧
        ∀ h, ∀ r ∈ tget t.walking h [], ¬ (r.ctx = c.ctx ∧ base ≤ r.page * 4096 ∧ r.page * 4096 < base + len)))) ∧
  (∀ (s : State) (c : HostCmd), Proper s c → c.code = 5 →
    ∀ p ∈ ([(.verdictResolved, true), (.verdictGivenUp, false)] : List (Instr × Bool)), (c.arg 2).getLsbD 0 = !p.2 →
    (∀ x ∈ s.tiles, x.ctx ≠ c.ctx) → (∀ x ∈ s.treelets, x.ctx ≠ c.ctx) →
    ∃ t, exec p.1 s = .next (skipIdles t) ∧ Completed s t c 0 0 ∧ t.rays = s.rays ∧ t.teams = s.teams ∧ SettingsKept s t ∧
      (∀ core slot g, groupAt s core slot = some g → ∃ h, groupAt t core slot = some h ∧ SameRegisters h g ∧
        (g.ctx ≠ c.ctx ∨ g.batch = none → h = g) ∧
        (∀ b, g.ctx = c.ctx → g.batch = some b → b.ahead = false → b.released = false → ∃ d, h.batch = some d ∧
          d.pages.length = b.pages.length ∧ ∀ (i : Nat) (x : BatchPage), b.pages[i]? = some x → d.pages[i]? = some
            (if x.page = bitsOf (c.arg 1) 12 36 * 4096 ∧ x.verdict = none then { x with verdict := some p.2 } else x)) ∧
        ∀ b, g.ctx = c.ctx → g.batch = some b → b.ahead = true ∨ b.released = true → h = g) ∧
      (s.pairReds = [] → ((s.engines.flatMap Prod.snd).map fun x => x.id).Nodup → (s.engines.map Prod.fst).Nodup →
        ∀ e ∈ s.engines, e.1 < 64 → ∀ x ∈ e.2, x.ctx = c.ctx → x.wait = some (bitsOf (c.arg 1) 12 36) →
        ∃ y ∈ tget t.engines e.1 [], y.id = x.id ∧ y.wait = none ∧ y.ended = if p.2 then x.ended else some 0x08))

open Sys2Proof.Claims in
/-- R289, R374 to R376: PREEMPT stops a context's launches and ends the groups that wait for a wave; it is over when nothing
of the context remains; at its deadline, where work is left, and with RESET, the context's work goes, which is reported once what its groups had
stored is written back; RESUME lifts it.
What a forced reset leaves, and in which order it acts, is the model's reading of R375 (log entry 95). -/
def Claims.Preemption : Prop :=
  (∀ (s : State) (c : HostCmd), Proper s c → c.code = 6 →
    let us := if (c.arg 1).getLsbD 20 then 2000 else bitsOf (c.arg 1) 0 20
    (1000000 < us → EndsAs .preempt s c 2 0) ∧
    (us ≤ 1000000 → (s.groups.map fun g => (g.core, g.slot)).Nodup → ∃ t, exec .preempt s = .next (skipIdles t) ∧ Completed s t c 0 0 ∧ t.rays = s.rays ∧ t.teams = s.teams ∧
      (ctxOf t c.ctx).preempt = true ∧ (ctxOf t c.ctx).drained = false ∧ launches t c.ctx = false ∧
      (ctxOf t c.ctx).deadline = (if us = 0 then none else some (s.refUnits + us * (100 * Config.refUnit))) ∧
      (∀ ctx, ctx ≠ c.ctx → ctxOf t ctx = ctxOf s ctx) ∧
      (∀ g ∈ t.groups, g.ctx = c.ctx → g.waitingSince = none ∧ (g.batch.map fun b => b.ahead).getD false = false) ∧
      ∀ g ∈ s.groups, g.ctx ≠ c.ctx → g ∈ t.groups)) ∧
  (∀ (s : State) (ctx : Nat), (ctxOf s ctx).preempt = true → (ctxOf s ctx).drained = false →
    ((∀ g ∈ s.groups, g.ctx ≠ ctx) → (∀ x ∈ s.teams, x.ctx ≠ ctx) → (∀ e ∈ s.engines, ∀ x ∈ e.2, x.ctx ≠ ctx) →
      (∀ q ∈ s.quads, ∀ x ∈ q.2.jobs, x.ctx ≠ ctx) → ∃ t, exec (.preemptComplete ctx) s = .next t ∧ (ctxOf t ctx).drained = true ∧
        (ctxOf t ctx).deadline = none ∧ WorkKept s t ∧ (∀ x, x ≠ ctx → ctxOf t x = ctxOf s x) ∧ t.mem = s.mem ∧
        ∃ e ∈ tget t.events noCore [], e.kind = 0x12 ∧ e.ctx = ctx) ∧
    ((∃ g ∈ s.groups, g.ctx = ctx) → exec (.preemptComplete ctx) s = .next s)) ∧
  (∀ (s : State) (ctx d : Nat), (ctxOf s ctx).deadline = some d →
    (s.refUnits < d → exec (.preemptDeadline ctx) s = .next s) ∧
    (workLeft s ctx = false → exec (.preemptDeadline ctx) s = .next s) ∧
    (d ≤ s.refUnits → (∃ g ∈ s.groups, g.ctx = ctx) ∨ (∃ e ∈ s.engines, ∃ x ∈ e.2, x.ctx = ctx) ∨ (∃ q ∈ s.quads, ∃ x ∈ q.2.jobs, x.ctx = ctx) →
      ∃ t, exec (.preemptDeadline ctx) s = .next t ∧ (∀ g ∈ t.groups, g.ctx ≠ ctx) ∧ (∀ x ∈ t.teams, x.ctx ≠ ctx) ∧
      (∀ x ∈ t.grids, x.ctx ≠ ctx) ∧ (∀ x ∈ t.rays, x.ctx ≠ ctx) ∧ (ctxOf t ctx).preempt = false ∧ (ctxOf t ctx).deadline = none ∧
      (ctxOf t ctx).live = (ctxOf s ctx).live ∧
      ((ctxOf t ctx).flush = none → ∃ e ∈ tget t.events noCore [], e.kind = 0x13 ∧ e.ctx = ctx) ∧
      ((∀ g ∈ s.groups, g.ctx ≠ ctx) → (∀ n ∈ s.reds, n.ctx ≠ ctx) → (ctxOf t ctx).flush = none))) ∧
  (∀ (s : State) (c : HostCmd), Proper s c → c.code = 8 → ∃ t, exec .reset s = .next (skipIdles t) ∧ c ∉ t.cmds ∧
    barWord t 0x10C = barWord s 0x10C + 1 ∧ (∀ g ∈ t.groups, g.ctx ≠ c.ctx) ∧ (∀ x ∈ t.teams, x.ctx ≠ c.ctx) ∧
    (∀ x ∈ t.grids, x.ctx ≠ c.ctx) ∧ (∀ x ∈ t.rays, x.ctx ≠ c.ctx) ∧ (ctxOf t c.ctx).live = true ∧ (ctxOf t c.ctx).preempt = false ∧
    (ctxOf t c.ctx).drained = false ∧ (ctxOf t c.ctx).deadline = none ∧
    ((ctxOf t c.ctx).flush = none → ∃ e ∈ tget t.events noCore [], e.kind = 0x13 ∧ e.ctx = c.ctx)) ∧
  (∀ (s : State) (c : HostCmd), Proper s c → c.code = 7 → (c.arg 1).getLsbD 0 = false →
    ∃ t, exec .resumePreempt s = .next (skipIdles t) ∧ Completed s t c 0 0 ∧ WorkKept s t ∧ (ctxOf t c.ctx).preempt = false ∧
      (ctxOf t c.ctx).drained = false ∧ (ctxOf t c.ctx).deadline = none ∧ ∀ ctx, ctx ≠ c.ctx → ctxOf t ctx = ctxOf s ctx)

open Sys2Proof.Claims in
/-- R289, R291 and R377: HALT stops the groups it names, which keep their state, one whose word waits for system software once
that word has retired; a group that steps issues one clause and halts again, which ends the command; RESUME lets them go; and
the debugger reads and writes a halted group's registers. That HALT is accepted at once and a STEP of a group that is not
halted ends with STATUS 5 (log entry 94), the ranges and sizes of the selectors (log entry 65) and the wait of a read of a bank
for a running step (log entry 131) are the model's choices. -/
def Obligations.Debugging : Prop :=
  (∀ (s : State) (c : HostCmd), Proper s c → c.code = 9 → (s.groups.map fun g => (g.core, g.slot)).Nodup →
    ∃ t, exec .halt s = .next (skipIdles t) ∧ (ctxOf t c.ctx).haltWait = true ∧ Completed s t c 0 0 ∧ t.rays = s.rays ∧ t.teams = s.teams ∧
    ∀ g ∈ s.groups, ∃ h, groupAt t g.core g.slot = some h ∧ SameRegisters h g ∧
      (g.ctx = c.ctx → (c.arg 1).getLsbD 15 = true ∨ (g.core = bitsOf (c.arg 1) 0 7 ∧ g.slot = bitsOf (c.arg 1) 8 7) →
        if g.wordWaits then h.haltAsked = true ∧ h.halted = g.halted else h.halted = true) ∧ (g.ctx ≠ c.ctx → h = g)) ∧
  (∀ (s : State) (ctx : Nat), (∀ x ∈ s.cmds, ¬ (x.code = 0x0A ∧ x.ctx = ctx)) → (∀ g ∈ s.groups, g.ctx = ctx → g.haltAsked = false) →
    ((ctxOf s ctx).haltWait = false → exec (.haltComplete ctx) s = .next s) ∧
    ((ctxOf s ctx).haltWait = true → ∃ t, exec (.haltComplete ctx) s = .next t ∧ (ctxOf t ctx).haltWait = false ∧ WorkKept s t ∧
      t.mem = s.mem ∧ ∃ e ∈ tget t.events noCore [], e.kind = 0x11 ∧ e.ctx = ctx)) ∧
  (∀ (s : State) (g : Group), (∀ x ∈ s.cmds, ¬ (x.code = 0x0A ∧ x.ctx = g.ctx)) → groupAt s g.core g.slot = some g →
    (∀ h ∈ s.groups, h.ctx = g.ctx → h.haltAsked = true → h = g) → (∀ h ∈ s.groups, h.core = g.core → h.slot = g.slot → h = g) →
    g.haltAsked = true → (ctxOf s g.ctx).haltWait = true →
    ((∀ b, g.batch = some b → b.ahead = false) → g.wordWaits = true →
      ∃ t, exec (.haltComplete g.ctx) s = .next t ∧ groupAt t g.core g.slot = some g ∧ t.events = s.events ∧ (ctxOf t g.ctx).haltWait = true) ∧
    (g.batch = none → ∃ t, exec (.haltComplete g.ctx) s = .next t ∧ (ctxOf t g.ctx).haltWait = false ∧
      groupAt t g.core g.slot = some (suspend { g with halted := true, haltAsked := false, stepping := false }) ∧
      ∃ e ∈ tget t.events noCore [], e.kind = 0x11 ∧ e.ctx = g.ctx)) ∧
  (∀ (s : State) (c : HostCmd) (g : Group), Proper s c → c.code = 0x0A → g.ctx = c.ctx → bitsOf (c.arg 1) 0 7 = g.core →
    bitsOf (c.arg 1) 8 7 = g.slot → groupAt s g.core g.slot = some g →
    (∀ h ∈ s.groups, h.core = g.core → h.slot = g.slot → h = g) →
    (g.halted = true → ∃ t h, exec .step s = .next (skipIdles t) ∧ t.cmds = s.cmds ++ [c] ∧
      groupAt t g.core g.slot = some h ∧ h.halted = false ∧ h.stepping = true ∧
      ((∀ o ∈ s.syncOps, o.stage ≠ .acks) → logMode s g.ctx ≠ 1 → h = { g with halted := false, stepping := true } ∧ t.mem = s.mem)) ∧
    (g.halted = false → EndsAs .step s c 5 0)) ∧
  (∀ (s : State) (g : Group) (c : Clause), At s g c → g.stepping = true →
    (nextIdx c = c.words.length → ∃ t h, exec .nop s = .next t ∧ groupAt t g.core g.slot = some h ∧ h.clause = none ∧ h.halted = true ∧
      h.stepping = false) ∧
    (nextIdx c < c.words.length → ∃ t h, exec .nop s = .next t ∧ groupAt t g.core g.slot = some h ∧ h.halted = g.halted ∧
      h.stepping = true)) ∧
  (∀ (s : State) (c : HostCmd) (g : Group), s.cmds = [c] → c.code = 0x0A → g.ctx = c.ctx → bitsOf (c.arg 1) 0 7 = g.core →
    bitsOf (c.arg 1) 8 7 = g.slot → groupAt s g.core g.slot = some g → (∀ h ∈ s.groups, h.ctx = c.ctx → h.haltAsked = false) →
    (ctxOf s c.ctx).haltWait = false → (g.stepping = true → g.stopped = none → exec (.haltComplete c.ctx) s = .next s) ∧
    (g.stepping = false → exec (.haltComplete c.ctx) s = .next (finishCmd s c 0 0))) ∧
  (∀ (s : State) (c : HostCmd) (g : Group), Proper s c → c.code = 7 → (c.arg 1).getLsbD 0 = true →
    (s.groups.map fun g => (g.core, g.slot)).Nodup → g ∈ s.groups → g.ctx = c.ctx →
    (c.arg 2).getLsbD 15 = true ∨ (g.core = bitsOf (c.arg 2) 0 7 ∧ g.slot = bitsOf (c.arg 2) 8 7) →
    ∃ t h, exec .resumeHalt s = .next (skipIdles t) ∧ c ∉ t.cmds ∧ groupAt t g.core g.slot = some h ∧ h.halted = false ∧
      h.haltAsked = false ∧ h.stepping = false ∧
      ((∀ o ∈ s.syncOps, o.stage ≠ .acks) → logMode s c.ctx ≠ 1 → Completed s t c 0 0 ∧ SettingsKept s t ∧
        h = { g with halted := false, haltAsked := false, stepping := false })) ∧
  (∀ (s : State) (c : HostCmd) (g : Group) (i : Instr) (n : Nat), Proper s c → (i, n) ∈ [(Instr.dbgread, 0x0B), (.dbgwrite, 0x0C)] →
    c.code = n → groupAt s (bitsOf (c.arg 1) 0 7) (bitsOf (c.arg 1) 8 7) = some g → g.halted = false → bitsOf (c.arg 2) 0 8 < 7 →
    EndsAs i s c 5 0) ∧
  (∀ (s : State) (c : HostCmd), Proper s c → c.code = 0x0B → bankBusy s c = true → exec .dbgread s = .next s) ∧
  (∀ (s : State) (c : HostCmd), Proper s c → c.code = 0x0C → bitsOf (c.arg 2) 0 8 ∈ [7, 8, 9, 10] ∨ 12 ≤ bitsOf (c.arg 2) 0 8 →
    EndsAs .dbgwrite s c 2 0) ∧
  (∀ (s : State) (c : HostCmd) (g : Group) (n : Nat), Proper s c → Selects s c g 0 n → n < g.regAlloc →
    (c.code = 0x0B → s.hostLines = [] → Reachable (engineAcquire s 5) c.ctx (c.arg 3).toNat 512 .write → ∃ t, exec .dbgread s = .next (skipIdles t) ∧
      Completed s t c 0 0 ∧ WorkKept s t ∧ SettingsKept s t) ∧
    (c.code = 0x0C → Reachable (engineAcquire s 5) c.ctx (c.arg 3).toNat 512 .read → ∃ t h, exec .dbgwrite s = .next (skipIdles t) ∧
      Completed s t c 0 0 ∧ groupAt t g.core g.slot = some h ∧
      (∀ l, l < 128 → lane (vReg h n) l = (dbgWord (readBuf (startCmdAt (engineAcquire s 5) c) c.ctx (c.arg 3).toNat 512) l).1) ∧
      ({ h with v := g.v, vPoison := g.vPoison } = g) ∧ (∀ m, m ≠ n → vReg h m = vReg g m) ∧ SettingsKept s t)) ∧
  (∀ (s : State) (g : Group) (n len : Nat), dbgBytes s g 0 n len = some ((List.range 128).flatMap fun l =>
      (List.range 4).map fun i => (byteOf (lane (vReg g n) l) i, (tget g.vPoison n 0).getLsbD l))) ∧
  (∀ (s : State) (g : Group) (sel index len : Nat) (bs : List DbgByte), sel ≠ 11 → selOk s g sel index len = true →
    dbgBytes s g sel index len = some bs → bs.length = [512, 512, 128, 80, 16, 2049, 1028, 8, 8200, 405508, 64].getD sel 0)

open Sys2Proof.Claims in
/-- R239, R289, R336 and R376: the commands of a context switch ask for a complete pre-emption; BANKSAVE empties the bank
into its image and BANKLOAD, on the same bank with the image unchanged, gives it back; TILECLEAR empties the context's
tiles without retirement, but for those whose retirement has begun to merge; SALVAGE copies the orphaned words of its range,
and with a wrong range is a bad command. That TILEFLUSH, as the others, ends with STATUS 4 where pre-emption is not complete
is the model's choice (log entry 139).
The image of a bank (log entry 90), a load into a bank that the context holds (log entry 91), the STATUS of RAYSAVE (log entry 92) and that a clear awaits a retirement in its middle (log entry 48) are its choices too. -/
def Claims.Saves : Prop :=
  (∀ (s : State) (c : HostCmd) (i : Instr) (n : Nat), (i, n) ∈ [(Instr.raysave, 0x0D), (.banksave, 0x0E), (.bankload, 0x0F),
      (.tileflush, 0x10)] → Proper s c → c.code = n → (∀ x ∈ s.cmds, x.code ≠ 0x0F) → (ctxOf s c.ctx).drained = false → EndsAs i s c 4 0) ∧
  (∀ (s : State) (c : HostCmd), Proper s c → c.code = 0x0D → (ctxOf s c.ctx).drained = true → s.hostLines = [] →
    ((ctxDWord s c.ctx 0x090).toNat / 128 < raysUsed s c.ctx → EndsAs .raysave s c 5 0) ∧
    (raysUsed s c.ctx ≤ (ctxDWord s c.ctx 0x090).toNat / 128 → (s.rays.map fun r => r.id).Nodup →
      ∃ t, exec .raysave s = .next (skipIdles t) ∧ Completed s t c 0 0 ∧ t.groups = s.groups ∧ t.teams = s.teams ∧ t.grids = s.grids ∧
        SettingsKept s t ∧ RegistersKept s t ∧ (t.rays.map fun r => (r.id, r.ctx, r.grid, r.words, r.payload, r.trav)) =
          (s.rays.map fun r => (r.id, r.ctx, r.grid, r.words, r.payload, r.trav)) ∧
        ∀ r ∈ t.rays, r.ctx = c.ctx → r.spilled.isSome = true ∧ ∀ n, r.place ≠ .traversal n)) ∧
  (∀ (s : State) (c : HostCmd), Proper s c → c.code = 0x0E → (ctxOf s c.ctx).drained = true → (c.arg 2).toNat % 4096 = 0 →
    let quad := 4 * bitsOf (c.arg 1) 0 3 + bitsOf (c.arg 1) 3 2; let bank := bitsOf (c.arg 1) 5 2
    (holdsBank s c.ctx quad bank = false → EndsAs .banksave s c 5 0) ∧
    (holdsBank s c.ctx quad bank = true → s.hostLines = [] → Reachable (engineAcquire s 5) c.ctx (c.arg 2).toNat 524288 .write →
      ∃ t, exec .banksave s = .next (skipIdles t) ∧ Completed s t c 0 0 ∧ holdsBank t c.ctx quad bank = false ∧
        t.groups = s.groups ∧ t.rays = s.rays ∧ ∃ im ∈ t.images, im.bank = bankAt s quad bank ∧ im.place = 4 * quad + bank)) ∧
  (∀ (s : State) (c : HostCmd), Proper s c → c.code = 0x0F → (ctxOf s c.ctx).drained = true → (c.arg 2).toNat % 4096 = 0 →
    (∀ x ∈ s.cmds, x.code ≠ 0x0F) →
    let quad := 4 * bitsOf (c.arg 1) 0 3 + bitsOf (c.arg 1) 3 2; let bank := bitsOf (c.arg 1) 5 2
    (∀ o, (bankAt s quad bank).owner = some o → o ≠ c.ctx → ∃ t, exec .bankload s = .next (skipIdles t) ∧ t.cmds = s.cmds ++ [c] ∧
      WorkKept s t) ∧
    ((bankAt s quad bank).owner ∈ [none, some c.ctx] → Reachable (engineAcquire s 5) c.ctx (c.arg 2).toNat 524288 .read →
      ∃ t, exec .bankload s = .next (skipIdles t) ∧ Completed s t c 0 0 ∧ holdsBank t c.ctx quad bank = true ∧ t.groups = s.groups ∧
        ∀ im, s.images = [im] → im.place = 4 * quad + bank →
          imageHolds (startCmdAt (engineAcquire s 5) c) c.ctx (c.arg 2).toNat im = true →
          bankAt t quad bank = { im.bank with owner := some c.ctx, release := false })) ∧
  (∀ (s : State) (c : HostCmd), Proper s c → c.code = 0x10 → (ctxOf s c.ctx).drained = true →
    ((∀ x ∈ s.tiles, x.ctx ≠ c.ctx) → (∀ f ∈ s.flushing, f.1 ≠ c.ctx) → EndsAs .tileflush s c 0 0) ∧
    ((∃ x ∈ s.tiles, x.ctx = c.ctx) → ∃ t, exec .tileflush s = .next (skipIdles t) ∧ t.cmds = s.cmds ++ [c] ∧
      t.tiles = (s.tiles.map fun x => if x.ctx = c.ctx then retireTile s x else x) ∧ t.mem = s.mem)) ∧
  (∀ (s : State) (c : HostCmd), Proper s c → c.code = 0x11 → (∀ f ∈ s.flushing, f.1 ≠ c.ctx) →
    ∃ t, exec .tileclear s = .next (skipIdles t) ∧ t.groups = s.groups ∧ t.rays = s.rays ∧
      (∀ x, x ∈ t.tiles ↔ x ∈ s.tiles ∧ (x.ctx = c.ctx → x.retiring = true ∧ 0 < x.pos)) ∧
      ((∀ x ∈ s.tiles, x.ctx = c.ctx → x.retiring = false ∨ x.pos = 0) → Completed s t c 0 0) ∧
      ((∃ x ∈ s.tiles, x.ctx = c.ctx ∧ x.retiring = true ∧ 0 < x.pos) → t.cmds = s.cmds ++ [c] ∧ (c.ctx, c) ∈ t.flushing)) ∧
  (∀ (s : State) (c : HostCmd), Proper s c → c.code = 0x12 →
    let va := (c.arg 1).toNat; let dst := (c.arg 2).toNat; let len := (c.arg 3).toNat
    (va % 4096 ≠ 0 ∨ len % 4096 ≠ 0 ∨ dst % 4 ≠ 0 ∨ Config.localEnd < dst + len → EndsAs .salvage s c 2 0) ∧
    (va % 4096 = 0 → len % 4096 = 0 → dst % 4 = 0 → dst + len ≤ Config.localEnd → ∃ t, exec .salvage s = .next (skipIdles t) ∧
      Completed s t c 0 0 ∧ WorkKept s t ∧ SettingsKept s t ∧ RegistersKept s t)) ∧
  (∀ (s : State) (ctx va dst i : Nat) (leaf : Leaf) (x : Copy), Memory.wf s.mem = true → xlatNow s ctx noTlb (va + 4 * i) .read = .ok leaf →
    rdcCopy s (leaf.at (va + 4 * i)) = some x → dst % 4 = 0 → dst + 4 * i < Config.localEnd →
    let t := salvageWord ctx va dst s i
    (orphaned s (leaf.at (va + 4 * i)) = true → x.held = 0xF →
      rdcCopy t (leaf.at (va + 4 * i)) = none ∧ memWord t.mem (dst + 4 * i) = x.val) ∧
    (orphaned s (leaf.at (va + 4 * i)) = false → t = fillNow s ctx noTlb (va + 4 * i)))

namespace Sys2Proof.Claims

/-! ## Bring-up, the safe state, power and the twin: R292, R293, R336, R381 to R385 -/

/-- Cores, engines and memory are without power; the host's memory and what the twin holds stay (R382, R383). -/
structure PoweredDown (s t : State) : Prop where
  work : t.groups = [] ∧ t.teams = [] ∧ t.grids = [] ∧ t.rays = [] ∧ t.engines = [] ∧ t.quads = [] ∧ t.tiles = [] ∧ t.ctxs = []
  caches : t.l1 = [] ∧ t.rdc = [] ∧ t.msgs = [] ∧ t.homes = [] ∧ t.devTlb = []
  registers : t.bar = []
  memory : (∀ a, a < 2 ^ 52 → memByte t.mem a = 0) ∧ ∀ a, 2 ^ 52 ≤ a → memByte t.mem a = memByte s.mem a
  product : t.isW = s.isW ∧ t.devId = s.devId

/-- The device without power under a failure record (R383): READY and the reference clock stay. -/
structure DownAs (s t : State) (mode : DevMode) (code index : Nat) (detail : Word) : Prop extends PoweredDown s t where
  mode : t.mode = mode
  code : bitsOf t.failRec 40 24 = code
  index : bitsOf t.failRec 32 8 = index
  detail : bitsOf t.failRec 0 32 = detail.toNat
  kept : t.ready = s.ready ∧ t.refUnits = s.refUnits

/-- A step enters the safe state, unless the device is in it, when its record stays (R383). -/
def EntersSafe (i : Instr) (code index : Nat) (detail : Word) : Prop :=
  ∀ s : State, (s.mode = .safe → exec i s = .next s) ∧ (s.mode ≠ .safe → ∃ t, exec i s = .next t ∧ DownAs s t .safe code index detail)

end Sys2Proof.Claims

open Sys2Proof.Claims in
/-- R381 to R385: a reset starts bring-up over; a function that passes its self-test sets its bit of READY; the device runs
once the boot firmware is verified and all that it needs is ready; a function that fails leads to the safe state under its code, to the link-wait state, or
goes without; the clock moves between 200 and 600 MHz by 25.
What a loss of power clears (log entry 97), the free DETAIL (log entry 98), and the events of the environment (log entry 100) are the model's choices. -/
def Claims.BringUp : Prop :=
  (∀ s : State, ∃ t, exec .deviceReset s = .next t ∧ PoweredDown s t ∧ t.mode = .boot ∧ t.ready = 0 ∧ t.failRec = 0 ∧ t.refUnits = 0 ∧
    t.clock = 0 ∧ t.mhz = 600 ∧
    t.verified = false ∧ t.sideband = true) ∧
  (∀ (s : State) (bit : Nat), s.mode ≠ .safe → bit ≤ 36 →
    let ready := s.ready ||| BitVec.ofNat 64 (2 ^ bit)
    let mode : DevMode := if s.mode = .boot ∧ s.verified = true ∧ ((List.range 35).all (fun i => ready.getLsbD i)) = true then .run else s.mode
    (bit ∉ [0, 35] → exec (.selfTestPass bit) s = .next { s with ready := ready, mode := mode }) ∧
    (bit = 35 → exec (.selfTestPass bit) s =
      .next (if s.isW = true ∧ s.twinFailed = false then { s with ready := ready, twinUp := true } else s)) ∧
    (bit = 0 → s.mode ≠ .linkWait → exec .linkTrained s = .next { s with ready := ready, mode := mode }) ∧
    (bit = 0 → s.mode = .linkWait → exec .linkTrained s =
      .next { s with ready := ready, failRec := 0, mode := if s.verified = true ∧ (List.range 35).all (fun i => ready.getLsbD i) = true then .run else .boot })) ∧
  (∀ (s : State) (bit : Nat), 36 < bit →
    (s.mode = .boot → exec (.selfTestPass bit) s =
      .next { s with verified := true, mode := if (List.range 35).all (fun i => s.ready.getLsbD i) = true then .run else .boot }) ∧
    (s.mode ≠ .boot → exec (.selfTestPass bit) s = .next s)) ∧
  (∀ s : State, s.mode = .safe → exec .linkTrained s = .next s ∧ ∀ bit, exec (.selfTestPass bit) s = .next s) ∧
  (∀ (bit : Nat) (detail : Word),
    (bit = 1 → EntersSafe (.selfTestFail bit detail) 0x07 0 detail) ∧
    (2 ≤ bit → bit ≤ 25 → EntersSafe (.selfTestFail bit detail) 0x03 (bit - 2) detail) ∧
    (26 ≤ bit → bit ≤ 33 → EntersSafe (.selfTestFail bit detail) 0x02 (bit - 26) detail) ∧
    (bit = 34 → EntersSafe (.selfTestFail bit detail) 0x04 0 detail) ∧
    (36 < bit → ∀ s : State, (s.mode = .safe ∨ s.verified = true → exec (.selfTestFail bit detail) s = .next s) ∧
      (s.mode ≠ .safe → s.verified = false → ∃ t, exec (.selfTestFail bit detail) s = .next t ∧ DownAs s t .safe 0x01 0 detail))) ∧
  (∀ s : State, s.mode ≠ .safe → ∀ p ∈ ([(.thermalShutdown, 5), (.supplyFault, 6)] : List (Instr × Nat)),
    ∃ t detail, exec p.1 s = .next t ∧ DownAs s t .safe p.2 0 detail) ∧
  (∀ s : State, s.mode = .safe → exec .thermalShutdown s = .next s ∧ exec .supplyFault s = .next s) ∧
  (∀ (s : State) (bit : Nat) (detail : Word) (t : State), s.mode ≠ .safe → s.sideband = true → exec (.selfTestFail bit detail) s = .next t →
    sidebandRecord t = if bit = 1 then none else some t.failRec) ∧
  (∀ (s : State) (detail : Word), s.mode ≠ .safe →
    (∃ t, exec (.selfTestFail 0 detail) s = .next t ∧ DownAs s t .linkWait 0x08 0 detail) ∧
    (∃ t, exec (.selfTestFail 36 detail) s = .next t ∧ (∀ i, i < 64 → t.ready.getLsbD i = (s.ready.getLsbD i && decide (i ≠ 36))) ∧
      (∀ ctx, ctx < 64 → logMode t ctx = 0) ∧ t.groups = s.groups ∧ t.mem = s.mem ∧ t.rays = s.rays) ∧
    (s.isW = false → exec (.selfTestFail 35 detail) s = .next s)) ∧
  (∀ s : State, exec .linkRetrainTimer s = .next s ∧ exec .twinFlitRetry s = .next s) ∧
  (∀ (s : State) (nonce : Nat), exec (.spdmRequest nonce) s = .next { s with report := some nonce }) ∧
  (∀ (s : State) (mhz : Nat), s.mode ≠ .safe →
    (mhz % 25 = 0 → 200 ≤ mhz → mhz ≤ 600 → exec (.clockChange mhz) s = .next { s with mhz := mhz }) ∧
    (mhz % 25 ≠ 0 ∨ mhz < 200 ∨ 600 < mhz → exec (.clockChange mhz) s = .next s) ∧
    ∃ t e, exec .thermalThrottle s = .next t ∧ t.mhz = 200 ∧ e ∈ tget t.events noCore [] ∧ e.kind = 0x16 ∧
      t = { s with mhz := 200, events := t.events })

open Sys2Proof.Claims in
/-- R293 and R336: the survivor of a pair clears TWIN, for good until a reset, and reports the failure; words of its own
that the twin owned are lost; a PX960-M has no twin to lose.
What the link loses (log entry 77) and the records of the failure report (log entry 78) are the model's reading. -/
def Claims.TwinFailure : Prop :=
  (∀ s : State, s.isW = false ∨ s.twinUp = false → exec .twinFail s = .next s) ∧
  (∀ s : State, s.isW = true → s.twinUp = true → ∃ t e, exec .twinFail s = .next t ∧ t.twinUp = false ∧ t.twinFailed = true ∧
    (∀ i, i < 64 → t.ready.getLsbD i = (s.ready.getLsbD i && decide (i ≠ 35))) ∧ t.mode = s.mode ∧
    exec (.selfTestPass 35) t = .next t ∧ e ∈ tget t.events noCore [] ∧ e.kind = 0x14 ∧
    ((∀ m ∈ s.msgs, farAgent m.src = false ∧ farAgent m.dst = false) → s.pairReds = [] → s.syncOps = [] →
      (∀ g ∈ s.groups, g.ops = []) →
      t.groups = s.groups ∧ t.mem = s.mem ∧ t.rays = s.rays ∧
      ∀ w, (∀ u, homeOf w = 0 → homeSt s w = some (.own true u) → isLost t w = true) ∧
        (homeOf w ≠ 0 ∨ (∀ u, homeSt s w ≠ some (.own true u)) → homeSt t w = homeSt s w)))

namespace Sys2Proof.Claims

/-! ## The whole machine: R31 to R48, R5, R8, R250, R287 to R290, R381 -/

/-- Words of the spec's worked examples (R46, R101, R129, R110, R194, R198, R189, R172), and words written out from the
layouts of R35 to R41 and the map of R47, each with its instruction. -/
noncomputable def workedWords : List (List Word × Instr) := [
  ([0x30A00205], .fmulF32 ⟨true, 0, 4, 5⟩ none),
  ([0x3001BE07], .faddF32 ⟨false, 6, 0x7C, 7⟩ none),
  ([0x32023E82, 0xFC00087C], .ffmaF32 ⟨false, 8, 0x7D, 2⟩ ⟨false, 2, 0x7C⟩),
  ([0x28410402, 0xFC000003], .pkqN4 ⟨false, 4, 8, 2⟩ ⟨false, 0, 3⟩),
  ([0x2E443E05], .upkN4 ⟨false, 0x10, 0x7C, 5⟩ none),
  ([0x54004044, 0xFC000C00], .ldgTB32 ⟨0, 4, 2, 4⟩ (some ⟨false, 3, 0⟩)),
  ([0x19518000], .voteAny ⟨4, 3, false⟩ none),
  ([0x810FFFFB], .bra ⟨4, false, -5⟩),
  ([0xC00142A0], .rsv ⟨0, 0x14, 0x15⟩ none),
  ([0xCE080000, 0xFC002400], .accum ⟨1, 0⟩ (some ⟨true, 1, 0⟩)),
  ([0xC2080308, 0xFC000400], .spwn ⟨1, 0, 0x18, 8⟩ (some ⟨false, 1, 0⟩)),
  ([0xC6100000], .epend 2 none),
  ([0xA6080200, 0xFC000009], .mscale ⟨1, 0, 4, 0⟩ ⟨false, 0, 9⟩),
  ([0xA40A0200, 0xFC000008], .mloop ⟨1, 16, 4, 0⟩ ⟨false, 0, 8⟩),
  ([0x0000C082], .vaddI32 ⟨false, 3, 1, 2⟩ none),
  ([0x1684020A], .cmpF32 ⟨2, 1, 4, 10⟩ none),
  ([0x3C2189FF], .saddIw ⟨true, 3, 4, true, 0xFF⟩),
  ([0x1141806F, 0xFCADBEEF], .vmovB32Vi ⟨false, 6, 0xDEADBEEF⟩),
  ([0x63480004], .acq ⟨5, 1, 4⟩ none),
  ([0x5C4A61A7, 0xFC00000C], .atomCasB32 ⟨1, 0x26, 0x0D, 7⟩ ⟨false, 0, 12⟩),
  ([0x82800003, 0xFC000005], .split ⟨2, false, 3⟩ 5),
  ([0x88000120], .trap 0x12),
  ([0xE0082200], .rdsys ⟨1, 2, 0x20⟩)]

/-- A turn of the schedule comes up. -/
def Turns (s : State) (t : Turn) (rest : List Turn) : Prop := s.sched = t :: rest

/-- A group may issue its next word: it stands in a slot with a clause, and nothing holds it. -/
structure MayIssue (s : State) (core slot : Nat) (g : Group) (c : Clause) : Prop where
  place : groupAt s core slot = some g
  clause : g.clause = some c
  open_ : g.batch = none ∧ issueHeld s g = false
  within : c.idx < c.words.length

/-- `n` clocks have passed (R5): a clock at `mhz` is 100 / mhz periods of the 100 MHz reference, and each group's wait as a
candidate is counted once clocks pass (R266). -/
def later (s : State) (n : Nat) : State :=
  { s with
    clock := s.clock + n
    refUnits := s.refUnits + if s.mhz = 0 then 0 else n * (100 * Config.refUnit / s.mhz)
    groups := if n = 0 then s.groups else s.groups.map (countCandidate s) }

end Sys2Proof.Claims

/-- R34 to R41: no bit of an encoding is dropped: every well-formed instruction is what its words decode to. -/
def Obligations.DecodeEncode : Prop :=
  ∀ i : Instr, i.isEvent = false → i.wf = true → decodeWords (encode i) = .ok (i, [])

/-- R34 to R48: each worked word decodes to its instruction and is what it encodes to, a reserved opcode, a reserved F
value, a missing and a stray extension word, and a set bit that must be zero are rejected by name. -/
def Obligations.WorkedWordsDecode : Prop :=
  (∀ p ∈ Claims.workedWords, decodeWords p.1 = .ok (p.2, []) ∧ encode p.2 = p.1 ∧ p.2.wf = true) ∧
  decode 0x44000000 none = .error .reservedOpcode ∧ decode 0x03C00000 none = .error .reservedFunction ∧
  decode 0x04000000 none = .error .missingExtension ∧ decode 0x86C00000 (some 0xFC000000) = .error .strayExtension ∧
  decode 0x0A000001 none = .error .mustBeZero

open Sys2Proof.Claims in
/-- R33, R48: a step takes the schedule's next turn: a group's turn issues the word at which its clause stands, an event
happens unless the unit whose act it is waits with a record for its coalescer (R372), clocks pass. With no turn left the device
takes a round, which offers one to everything that has work, so that whatever is due comes up (R243, R269). A word that does not
decode, or whose operands its words forbid, is trap 0x02 or 0x01 of that word; a group that is held waits. A walk made ahead of a copy engine is asked of
its hamlet (R276), and an act of the twin follows the rules of the pair (R2). An instruction placed where
the next step issues it is the one that runs. The schedule and its rounds (log entry 7), the cause of a word that does not
decode (log entry 13), the units that are held with a record (log entry 101), the turn of an uncorrectable error (log entry 79)
and the acts of the twin (log entry 69) are the model's choices. -/
def Obligations.StepRunsTheDecodedInstruction : Prop :=
  (∀ (s : State) (rest : List Turn) (core slot : Nat) (g : Group) (c : Clause), Turns s (.issue core slot) rest →
    MayIssue s core slot g c →
    let s' := { s with sched := rest, cur := some (core, slot) }
    (∀ i more, decodeWords (c.words.drop c.idx) = .ok (i, more) → step s =
      if i.wf = true then exec i s' else .next (trapped s' g c 0x01 (execMask g c) 0xFF 0 [])) ∧
    (∀ r, decodeWords (c.words.drop c.idx) = .error r → step s = .next
      (if r ∈ [.missingExtension, .strayExtension] then trapped s' g c 0x02 (execMask g c) 0xFF (wordAddr c) []
       else trapped s' g c 0x01 (execMask g c) 0xFF 0 []))) ∧
  (∀ (s : State) (rest : List Turn) (core slot : Nat) (g : Group), Turns s (.issue core slot) rest → groupAt s core slot = some g →
    g.batch = none → issueHeld s g = true ∨ g.clause = none → step s = .next { s with sched := rest }) ∧
  (∀ (s : State) (rest : List Turn) (e : Instr), Turns s (.event e) rest →
    step s = (if e.isEvent = true ∧ unitHeld s e = false then exec e { s with sched := rest } else .next { s with sched := rest }) ∧
    ((∀ x ∈ s.events, x.2.length ≤ 32) → unitHeld s e = false)) ∧
  (∀ (s : State) (rest : List Turn) (n : Nat), Turns s (.tick n) rest → step s = .next (later { s with sched := rest } n)) ∧
  (∀ s : State, s.sched = [] → step s = .next { s with sched := round s }) ∧
  (∀ s : State, .tick 1 ∈ round s ∧ (∀ g ∈ s.groups, .issue g.core g.slot ∈ round s ∧ .event (.clauseStart g.core (g.slot % 8)) ∈ round s ∧
      .event (.groupEnd g.core g.slot) ∈ round s ∧ .event (.faultReissue g.core g.slot) ∈ round s) ∧
    (∀ g ∈ s.groups, ∀ o ∈ g.ops, .event (.loadComplete g.core g.slot o.id) ∈ round s ∧ .event (.storeComplete g.core g.slot o.id) ∈ round s) ∧
    .event .launchWindow ∈ round s ∧ .event .waveDispatch ∈ round s ∧ (∀ i, i < s.bins.length → .event (.binAgeReady i) ∈ round s) ∧
    (∀ m ∈ s.msgs, .event (msgEvent m) ∈ round s) ∧ (∀ c ∈ s.ctxs, c.2.live = true → .event (.poolDrainTimeout c.1) ∈ round s) ∧
    ∀ e ∈ s.events, e.2 ≠ [] → .event (.coalescerWrite e.1) ∈ round s) ∧
  (∀ (s : State) (rest : List Turn) (w : Nat), Turns s (.memError w) rest →
    ∃ t, step s = .next t ∧ t = { s with sched := rest, memPoison := t.memPoison } ∧ (homeWord t (w / 4 * 4)).2 = true ∧
      ∀ a, a ≠ w / 4 * 4 → homeWord t a = homeWord s a) ∧
  (∀ (s : State) (rest : List Turn) (eng ctx page : Nat), Turns s (.walkAhead eng ctx page) rest →
    ∃ t, step s = .next t ∧ t = { s with sched := rest, walkQ := t.walkQ } ∧
      (eng < 32 → tlbFind s ctx (128 + eng) (page * 4096) = none → walkRoom s ctx (128 + eng) page = true →
        walkAsked t ctx (128 + eng) page = true)) ∧
  (∀ (s : State) (rest : List Turn) (a : TwinAct), Turns s (.twin a) rest →
    step s = .next (twinAct { s with sched := rest } a) ∧
    (s.isW = false ∨ s.twinUp = false → step s = .next { s with sched := rest })) ∧
  (∀ mhz : Nat, mhz % 25 = 0 → 200 ≤ mhz → mhz ≤ 600 → mhz ∣ 100 * Config.refUnit) ∧
  (∀ (s : State) (nbits w : Nat) (i : Instr) (more : List Word), (∀ o ∈ s.syncOps, ¬ (o.core = 0 ∧ o.slot = 0)) →
    (tget s.events 0 []).length ≤ 32 →
    decodeWords [BitVec.ofNat 32 w, BitVec.ofNat 32 (w / 2 ^ 32)] = .ok (i, more) → i.wf = true →
    let s1 := s.withFetchWord nbits w
    step s1 = exec i { s1 with sched := [] })

/-- No step spoils the canonical form of a memory: that of any home, or the scratchpad of any team. The form is the model's own
(log entry 156): of the rules cited it takes only that memory and scratchpads are bytes at addresses. -/
def Obligations.MemoryStaysCanonical : Prop := KeptByStep MemoryOk

/-- No step spoils the order of an L1 or of the RDC: each word stands there at most once. -/
def Claims.CachesStayOrdered : Prop := KeptByStep CachesOk

/-- R1, R293: no step makes another product of the device, and a PX960-M never has a twin. -/
def Claims.ProductStays : Prop :=
  KeptByStep NoTwinOnM ∧ ∀ (w : Bool) (d : Nat), KeptByStep fun s => s.isW = w ∧ s.devId = d

/-- R8, R250, R287 to R290, R371, R381: right after reset no function is ready, no context is live, no queue is bound, no
group runs, CLOCK and REFCLK are 0, each register of the host function reads its reset value; and the invariants hold. -/
def Obligations.ResetState : Prop :=
  let s := State.reset
  s.ready = 0 ∧ s.failRec = 0 ∧ s.clock = 0 ∧ s.refUnits = 0 ∧ s.groups = [] ∧ s.teams = [] ∧ s.rays = [] ∧
  (∀ ctx, (ctxOf s ctx).live = false) ∧
  (∀ q, q < 32 → qCtx s q = none ∧ qWr s q = 0 ∧ qRd s q = 0 ∧ qWord s q 0x24 = 8192 ∧ qHmask s q = 0xFF) ∧
  cmdKwr s = 0 ∧ cmdKrd s = 0 ∧ barWord s 0x208 = 0 ∧ barWord s 0x20C = 0 ∧
  (∀ ctx, ctx < 64 → barWord s (0x10000 + 1024 * ctx + 0xA4) = 127 ∧ barWord s (0x10000 + 1024 * ctx + 0xB0) = 0x00010001 ∧
    ∀ o, o < 1024 → o ∉ [0xA4, 0xB0] → barWord s (0x10000 + 1024 * ctx + o) = 0) ∧
  MemoryOk s ∧ CachesOk s ∧ NoTwinOnM s

/-! ## The statements that gather those above by what they are about -/

/-- R80 to R83: logic, shifts, bit fields, dot products and the operations of one source. -/
def Obligations.LogicAndBitFields : Prop :=
  Claims.LogicAndShifts ∧ Claims.OneSourceInteger ∧ Claims.ThreeSourceInteger ∧ Claims.IntegerEncodings

/-- R89 to R91: shuffles, broadcasts, and registers that lanes name. -/
def Obligations.LaneMoves : Prop := Claims.Shuffles ∧ Claims.Broadcasts ∧ Claims.IndexedRead ∧ Claims.IndexedWrite

/-- R86: the comparisons of integers and of FP32. -/
def Obligations.Comparisons : Prop := Claims.IntegerComparisons ∧ Claims.FloatingPointComparison

/-- R85, R92 to R98: floating-point results, with the conditions that they raise. -/
def Obligations.FloatingPoint : Prop :=
  Claims.FloatingPointResults ∧ Claims.FloatingPointScalarOperands ∧ Claims.FloatingPointCodes

/-- R64, R65, R92, R93, R97: each result is the exact one rounded once. -/
def Obligations.RoundingIsExact : Prop :=
  Claims.ExactSumsAndProducts ∧ Claims.RoundingIsCorrect ∧ Claims.OverflowIsAsTabled ∧ Claims.DivisionAndRootAreCorrect

/-- R77: when an active lane raises a condition whose trap is enabled, the lanes that do not fault deliver, every lane's
conditions reach FFLAGS, and the instruction traps with the lowest enabled cause, the faulting lanes, and D: in every form that
can raise one, comparisons, conversions and packing among them. -/
def Obligations.FloatingPointTraps : Prop := Claims.ResultTraps ∧ Claims.ComparisonTraps ∧ Claims.ConversionTraps

/-- R97: the cases of the transcendentals that its table lists as exact or as rounded, with the conditions that they raise. -/
def Obligations.ExactTranscendentals : Prop :=
  Claims.ExactAtSpecialValues ∧ Claims.ExactPowers ∧ Claims.AnglesOfSpecialPoints

/-- R53, R55, R65, R98, R99: the codes of the formats, and the conversions that narrow. -/
def Obligations.Conversions : Prop := Claims.CodesRoundTrip ∧ Claims.NarrowingConversions

/-- R100 to R103: packing and unpacking of element formats. -/
def Obligations.PackingAndUnpacking : Prop := Claims.Packing ∧ Claims.Unpacking

/-- R8, R9, R43 to R46: writes of registers and latches, and the checks of an instruction's operands. -/
def Obligations.RegistersAndOperands : Prop := Claims.RegisterWrites ∧ Claims.OperandChecks

/-- R32, R39, R106, R107: branches, and the traps of their targets. -/
def Obligations.Transfers : Prop := Claims.Branches ∧ Claims.TransferTraps

/-- R109 to R112: splits and reconvergence. -/
def Obligations.Divergence : Prop := Claims.Split ∧ Claims.Reconvergence

/-- R23, R26, R369, R379: what becomes of a trap that no handler takes, and of a breakpoint under a debugger. The model's
choice in it is log entry 103, which its part names. -/
def Obligations.TrapsWithoutHandler : Prop := Claims.TrapsNotDelivered ∧ Claims.BreakpointUnderDebug

/-- R17, R117, R118, R249: register allocation, and the system registers. The model's choices in it are log entries 113, 114
and 117, which its parts name. -/
def Obligations.SystemRegisters : Prop :=
  Claims.RegisterAllocation ∧ Claims.SystemRegisterReads ∧ Claims.SystemRegisterWrites

/-- R119 to R133: the issue of loads, stores and atomics. -/
def Obligations.MemoryIssue : Prop := Claims.LoadsIssue ∧ Claims.StoresIssue ∧ Claims.AtomicsIssue

/-- R119, R120, R122, R129, R274, R275, R278, R279, R336: faults of accesses, ldg.t and the prefetches. -/
def Obligations.MemoryFaultsAndTests : Prop :=
  Claims.AccessTraps ∧ Claims.AccessBatches ∧ Claims.GrantsOfAccess ∧ Claims.TranslatedLoadsAndPrefetches

/-- R124, R300, R319, R320: loads and stores end with their values. The model's choices in it are log entries 20, 31 and 71,
which its parts name. -/
def Obligations.LoadsAndStoresComplete : Prop := Claims.LoadsComplete ∧ Claims.StoresComplete ∧ Claims.StoresAtHome

/-- R131 to R135, R331: atomics and reductions. The model's choices in it are log entries 31 and 122, which its parts name.
-/
def Obligations.AtomicsAndReductions : Prop := Claims.AtomicsPerform ∧ Claims.Reductions

/-- R141 to R145: barriers, drains and marks. The model's choice in it is log entry 30, which its part names. -/
def Obligations.Barriers : Prop := Claims.BarriersDrainsMarksIssue ∧ Claims.BarrierSteps ∧ Claims.DrainsComplete

/-- R136 to R140, R321, R323, R342: acquires and releases. The model's choices in it are log entries 73, 122 and 124, which
its parts name. -/
def Obligations.AcquiresAndReleases : Prop := Claims.AcquiresAndReleasesIssue ∧ Claims.AcquiresAndReleasesComplete

/-- R318 to R327: the order of messages, and what a home does with them. -/
def Obligations.Homes : Prop := Claims.MessageOrder ∧ Claims.HomeSide

/-- R286, R308, R323 to R327, R334: evictions, and the host's accesses. The model's choices in it are log entries 66, 67, 68,
122 and 154, which its parts name. -/
def Obligations.EvictionsAndHost : Prop := Claims.Evictions ∧ Claims.HostAccesses

/-- R146 to R166: commands for engines, and queue registers. The model's choice in it is log entry 127, which its part names.
-/
def Obligations.EngineCommandsIssue : Prop := Claims.CommandsIssue ∧ Claims.QueueBindings

/-- R167 to R175: work for the matrix quadrants. The model's choices in it are log entries 23, 25, 29 and 85, which its parts
name. -/
def Obligations.MatrixInstructions : Prop := Claims.MatrixWorkIssues ∧ Claims.MatrixStatusAndMergePath

/-- R149 to R162: what copy engines move. The model's choices in it are log entries 21, 28, 71 and 129, which its parts name.
-/
def Obligations.EnginesMove : Prop := Claims.CopyEnginesMove ∧ Claims.EngineAccesses

/-- R167 to R173, R200 to R203, R356 to R363: banks, loops, drains and denoises. The model's choices in it are log entries
86, 89, 104 and 130, which its parts name. -/
def Obligations.MatrixUnits : Prop := Claims.BanksAndLoopStarts ∧ Claims.MatrixSteps ∧ Claims.DrainsAndDenoises

/-- R186 to R190, R193, R195, R196: the instructions of an episode on its lanes' rays. The model's choices in it are log
entries 33 and 37, which its parts name. -/
def Obligations.RayInstructions : Prop := Claims.RayRecords ∧ Claims.RaysOfLanes

/-- R193, R194, R197, R198: reservations, accumulation and treelet prefetches. The model's choices in it are log entries 33,
45, 48 and 142, which its parts name. -/
def Obligations.ReservationsAndAccumulation : Prop := Claims.Reservations ∧ Claims.Accumulations

/-- R194, R213 to R219: episodes, waves and grants. The model's choices in it are log entries 36, 40, 47 and 118, which its
parts name. -/
def Obligations.EpisodesAndWaves : Prop := Claims.Episodes ∧ Claims.Waves ∧ Claims.Grants

/-- R223 to R233: treelets and traversal. The model's choices in it are log entries 43, 44, 45 and 141, which its parts name.
-/
def Obligations.TreeletsAndTraversal : Prop := Claims.Treelets ∧ Claims.Traversal

/-- R273, R276 to R280, R283, R387: fault batches, run-ahead and walks. The model's choices in it are log entries 58 and 59,
which its parts name. -/
def Obligations.FaultBatchesAndWalks : Prop := Claims.BatchEvents ∧ Claims.Walks

/-- R287 to R289: the host's registers and its command ring. The model's choices in it are log entries 62, 63, 64, 133 and
134, which its parts name. -/
def Obligations.HostInterface : Prop := Claims.CommandRing ∧ Claims.HostRegisters

/-- R22, R283, R289, R290, R373: contexts, invalidations and verdicts. The model's choices in it are log entries 81 and 96,
which its parts name. -/
def Obligations.ContextsAndTranslations : Prop := Claims.ContextSettings ∧ Claims.InvalidationsAndVerdicts

/-- R374 to R376: pre-emption, forced resets, and the saves of a context switch. The model's choices in it are log entries
48, 90, 91, 92, 95 and 139, which its parts name. -/
def Obligations.ContextSwitch : Prop := Claims.Preemption ∧ Claims.Saves

/-- R292, R293, R336, R381 to R385: bring-up, the safe state, power, and the failure of the twin. The model's choices in it
are log entries 77, 78, 97, 98 and 100, which its parts name. -/
def Obligations.BringUpAndTwin : Prop := Claims.BringUp ∧ Claims.TwinFailure

/-- R1, R293, R317: the L1s and the RDC keep their order; no step makes another product of the device, and a PX960-M never
has a twin. -/
def Obligations.CachesAndProductStay : Prop := Claims.CachesStayOrdered ∧ Claims.ProductStays

/-- R74: a channel reads back as the nearest FP32 value, of two equally near the even one; no channel overflows, and one of
at most 24 significant bits is exact. -/
def Obligations.ChannelsReadBack : Prop :=
  ∀ c : DWord, let x : ℝ := c.toInt * (2 : ℝ) ^ (-24 : ℤ); let y := fpRead fp32 (readBack c 0).toNat
    Claims.Finite y ∧
    (∀ b, Claims.Finite (fpRead fp32 b) → |(Claims.value y : ℝ) - x| ≤ |(Claims.value (fpRead fp32 b) : ℝ) - x| ∧
      (|(Claims.value y : ℝ) - x| = |(Claims.value (fpRead fp32 b) : ℝ) - x| → (Claims.value (fpRead fp32 b) : ℝ) ≠ Claims.value y →
        (readBack c 0).getLsbD 0 = false)) ∧
    ∀ (m : ℤ) (k : ℕ), c.toInt = m * 2 ^ k → |m| < 2 ^ 24 → (Claims.value y : ℝ) = x
end

