-- ==== Sys2Proof/Laws/Tables.lean ====
section
/-!
SUPPORT. The laws of sparse tables, lanes and masks: what is read after a write.
-/

namespace Sys2Proof.Machine

/-! ## Sparse tables -/

@[simp] theorem tfind_nil {α : Type} (k : Nat) : tfind ([] : Tbl α) k = none := rfl

/-- Reading the key just written gives the value written. -/
@[simp] theorem tfind_tput_same {α : Type} (t : Tbl α) (k : Nat) (v : α) : tfind (tput t k v) k = some v := by
  induction t with
  | nil => simp [tput, tfind]
  | cons e t ih =>
    obtain ⟨j, w⟩ := e
    by_cases h1 : k < j
    · simp [tput, tfind, h1]
    · by_cases h2 : k = j
      · simp [tput, tfind, h2]
      · have h3 : ¬ j = k := fun h => h2 h.symm
        simpa [tput, tfind, h1, h2, h3] using ih

/-- A write leaves every other key alone. -/
theorem tfind_tput_other {α : Type} (t : Tbl α) (k n : Nat) (v : α) (h : n ≠ k) : tfind (tput t k v) n = tfind t n := by
  have hk : ¬ k = n := fun e => h e.symm
  induction t with
  | nil => simp [tput, tfind, hk]
  | cons e t ih =>
    obtain ⟨j, w⟩ := e
    by_cases h1 : k < j
    · simp [tput, tfind, h1, hk]
    · by_cases h2 : k = j
      · have hj : ¬ j = n := h2 ▸ hk
        simp [tput, tfind, h2, hj]
      · simp [tput, tfind, h1, h2, ih]

/-- What a table holds after a write. -/
theorem tfind_tput {α : Type} (t : Tbl α) (k n : Nat) (v : α) :
    tfind (tput t k v) n = if n = k then some v else tfind t n := by
  by_cases h : n = k
  · simp [h]
  · simp [h, tfind_tput_other t k n v h]

@[simp] theorem tget_tput_same {α : Type} (t : Tbl α) (k : Nat) (v d : α) : tget (tput t k v) k d = v := by simp [tget]

theorem tget_tput_other {α : Type} (t : Tbl α) (k n : Nat) (v d : α) (h : n ≠ k) : tget (tput t k v) n d = tget t n d := by
  simp [tget, tfind_tput_other t k n v h]

theorem tget_tput {α : Type} (t : Tbl α) (k n : Nat) (v d : α) :
    tget (tput t k v) n d = if n = k then v else tget t n d := by
  by_cases h : n = k
  · simp [h]
  · simp [h, tget_tput_other t k n v d h]

@[simp] theorem tget_tupd_same {α : Type} (t : Tbl α) (k : Nat) (d : α) (f : α → α) :
    tget (tupd t k d f) k d = f (tget t k d) := by simp [tupd]

theorem tget_tupd_other {α : Type} (t : Tbl α) (k n : Nat) (d : α) (f : α → α) (h : n ≠ k) :
    tget (tupd t k d f) n d = tget t n d := by simp [tupd, tget_tput_other t k n _ d h]

/-- A deletion removes its key and no other. -/
theorem tfind_tdel {α : Type} (t : Tbl α) (k n : Nat) : tfind (tdel t k) n = if n = k then none else tfind t n := by
  induction t with
  | nil => simp [tdel, tfind]
  | cons e t ih =>
    obtain ⟨j, w⟩ := e
    by_cases hj : j = k
    · subst hj
      have : tdel ((j, w) :: t) j = tdel t j := by simp [tdel]
      rw [this, ih]
      by_cases hn : n = j
      · simp [hn]
      · have : ¬ j = n := fun e => hn e.symm
        simp [hn, tfind, this]
    · have hc : tdel ((j, w) :: t) k = (j, w) :: tdel t k := by simp [tdel, hj]
      rw [hc]
      by_cases hn : j = n
      · subst hn
        simp [tfind, hj]
      · simp [tfind, hn, ih]

@[simp] theorem tfind_tdel_same {α : Type} (t : Tbl α) (k : Nat) : tfind (tdel t k) k = none := by simp [tfind_tdel]

@[simp] theorem tget_tdel_same {α : Type} (t : Tbl α) (k : Nat) (d : α) : tget (tdel t k) k d = d := by simp [tget]

theorem tget_tdel_other {α : Type} (t : Tbl α) (k n : Nat) (d : α) (h : n ≠ k) : tget (tdel t k) n d = tget t n d := by
  simp [tget, tfind_tdel, h]

/-! ## Lanes and masks -/

theorem perLane_length {α : Type} (f : Nat → α) : (perLane f).length = 128 := by simp [perLane, numLanes]

/-- What one lane holds of a list built lane by lane. -/
theorem lane_perLane (f : Nat → Word) (l : Nat) : lane (perLane f) l = if l < 128 then f l else 0 := by
  by_cases h : l < 128 <;> simp [lane, perLane, numLanes, h, List.getD_eq_getElem?_getD]

/-- What one lane holds after a write under a mask. -/
theorem lane_mergeLanes (act : Mask) (f : Nat → Word) (old : Lanes) (l : Nat) (h : l < 128) :
    lane (mergeLanes act f old) l = if act.getLsbD l then f l else lane old l := by
  simp [mergeLanes, lane_perLane, h]

theorem bitsBelow_lt (p : Nat → Bool) (n : Nat) : bitsBelow p n < 2 ^ n := by
  induction n with
  | zero => simp [bitsBelow]
  | succ n ih =>
    rw [bitsBelow, Nat.pow_succ]
    split <;> omega

theorem bitsBelow_testBit (p : Nat → Bool) (n l : Nat) : (bitsBelow p n).testBit l = (decide (l < n) && p l) := by
  induction n with
  | zero => simp [bitsBelow]
  | succ n ih =>
    have hlt := bitsBelow_lt p n
    by_cases hp : p n = true
    · have hor : bitsBelow p n + 2 ^ n = 2 ^ n ||| bitsBelow p n := by
        rw [Nat.add_comm]
        simpa using Nat.two_pow_add_eq_or_of_lt hlt 1
      rw [bitsBelow, if_pos hp, hor, Nat.testBit_or, ih, Nat.testBit_two_pow]
      by_cases hl : n = l
      · subst hl; simp [hp]
      · have : (l < n + 1) = (l < n) := by simp; omega
        simp [hl, this]
    · rw [bitsBelow, if_neg hp, Nat.add_zero, ih]
      by_cases hl : l = n
      · subst hl; simp [hp]
      · have : (l < n + 1) = (l < n) := by simp; omega
        simp [this]

/-- The mask of a predicate holds in a lane exactly where the predicate does. -/
theorem maskOf_getLsbD (p : Nat → Bool) (l : Nat) (h : l < 128) : (maskOf p).getLsbD l = p l := by
  have hlt := bitsBelow_lt p numLanes
  rw [maskOf, BitVec.getLsbD_ofNat, bitsBelow_testBit]
  simp [numLanes, h]

/-- Bits of a merge of masks. -/
theorem mergeMask_getLsbD (act new old : Mask) (l : Nat) (h : l < 128) :
    (mergeMask act new old).getLsbD l = if act.getLsbD l then new.getLsbD l else old.getLsbD l := by
  simp only [mergeMask, BitVec.getLsbD_or, BitVec.getLsbD_and, BitVec.getLsbD_not, h, decide_true, Bool.true_and]
  cases act.getLsbD l <;> simp

end Sys2Proof.Machine
end

