-- ==== Sys2Proof/Laws/Issue.lean ====
section
/-!
SUPPORT. What the shared operations of an issuing group do: who issues, what a vector or scalar instruction gives when
nothing stops it, and that it always answers a next state.
-/

namespace Sys2Proof.Machine

/-! ## The issuer -/

/-- A group found in a slot stands in it. -/
theorem groupAt_place {s : State} {core slot : Nat} {g : Group} (h : groupAt s core slot = some g) :
    g.core = core ∧ g.slot = slot := by
  have := List.find?_some h
  simpa using this

/-- The issuer is a resident group with a clause. -/
theorem issuer_spec {s : State} {g : Group} {c : Clause} (h : issuer s = some (g, c)) :
    groupAt s g.core g.slot = some g ∧ g.clause = some c := by
  unfold issuer at h
  split at h
  · cases h
  · rename_i core slot hcur
    split at h
    · cases h
    · rename_i g' hg
      obtain ⟨hc, hs⟩ := groupAt_place hg
      cases hcl : g'.clause with
      | none => simp [hcl] at h
      | some c' =>
        simp only [hcl, Option.map_some, Option.some.injEq, Prod.mk.injEq] at h
        obtain ⟨rfl, rfl⟩ := h
        exact ⟨by rw [hc, hs]; exact hg, hcl⟩

/-- A meaning runs for the issuer. -/
theorem withIssuer_eq {s : State} {g : Group} {c : Clause} (h : issuer s = some (g, c)) (k : Group → Clause → Res) :
    withIssuer s k = k g c := by simp [withIssuer, h]

/-- With no issuer a meaning faults. -/
theorem withIssuer_none {s : State} (h : issuer s = none) (k : Group → Clause → Res) :
    withIssuer s k = .fault .noIssuer := by simp [withIssuer, h]

/-- The group in a slot after one group has been put back. -/
theorem groupAt_setGroup {s : State} {g g' : Group} (h : groupAt s g.core g.slot = some g) (hc : g'.core = g.core)
    (hs : g'.slot = g.slot) : groupAt (setGroup s g') g.core g.slot = some g' := by
  unfold groupAt setGroup at *
  dsimp only at *
  rw [hc, hs]
  generalize s.groups = gs at h
  induction gs with
  | nil => simp at h
  | cons x xs ih =>
    rw [List.find?_cons] at h
    rw [List.map_cons, List.find?_cons]
    cases hx : (x.core == g.core && x.slot == g.slot)
    · rw [hx] at h
      simpa [hx] using ih h
    · simp [hc, hs]

/-- Putting a group back leaves the other slots alone. -/
theorem groupAt_setGroup_other {s : State} {g' : Group} {core slot : Nat} (h : ¬ (core = g'.core ∧ slot = g'.slot)) :
    groupAt (setGroup s g') core slot = groupAt s core slot := by
  unfold groupAt setGroup
  dsimp only
  have hg : (g'.core == core && g'.slot == slot) = false := by
    by_contra hcon
    simp only [Bool.not_eq_false, Bool.and_eq_true, beq_iff_eq] at hcon
    exact h ⟨hcon.1.symm, hcon.2.symm⟩
  generalize s.groups = gs
  induction gs with
  | nil => rfl
  | cons x xs ih =>
    rw [List.map_cons, List.find?_cons, List.find?_cons, ih]
    cases hx : (x.core == g'.core && x.slot == g'.slot)
    · simp
    · simp only [Bool.and_eq_true, beq_iff_eq] at hx
      have hx' : (x.core == core && x.slot == slot) = false := by rw [hx.1, hx.2]; exact hg
      simp [hg, hx']

/-! ## Vector instructions -/

/-- The fields that a vector instruction names. -/
def VecOp.fields (o : VecOp) : List (BitVec 7) := o.srcs ++ (o.runs.flatMap fun r => runFields r.1 r.2) ++ o.named ++ o.dst.fields

/-- A list of masks that no lane belongs to. -/
theorem maskOf_eq_zero (p : Nat → Bool) (h : ∀ l, l < 128 → p l = false) : maskOf p = 0 := by
  apply BitVec.eq_of_getLsbD_eq
  intro i hi
  rw [maskOf_getLsbD p i hi, h i hi]
  simp

/-- A mask that selects what another does. -/
theorem maskOf_eq_mask (p : Nat → Bool) (m : Mask) (h : ∀ l, l < 128 → p l = m.getLsbD l) : maskOf p = m := by
  apply BitVec.eq_of_getLsbD_eq
  intro i hi
  rw [maskOf_getLsbD p i hi, h i hi]

theorem dst_single_mem {d : Dst} {x : BitVec 7} (h : d.single = some x) : x ∈ d.fields := by
  unfold Dst.single at h
  split at h
  · cases h
    simp [Dst.fields, runFields]
  · cases h

theorem dst_run_subset (d : Dst) : ∀ x ∈ d.run, x ∈ d.fields := by
  intro x hx
  unfold Dst.run at hx
  split at hx
  · split at hx
    · simp at hx
    · simpa [Dst.fields] using hx
  · simp at hx

/-- Fields that name registers below REGALLOC or latches, and no window, raise no cause. -/
theorem operandCause_plain {g : Group} {o : VecOp} (h : ∀ x ∈ o.fields, windowOf g x = none ∧ beyond g x = false) :
    operandCause g o = none := by
  have hs : ∀ x ∈ o.srcs, x ∈ o.fields := fun x hx => by simp [VecOp.fields, hx]
  have hr : ∀ x ∈ o.runs.flatMap fun r => runFields r.1 r.2, x ∈ o.fields := fun x hx => by
    simp only [VecOp.fields, List.mem_append]; exact .inl (.inl (.inr hx))
  have hn : ∀ x ∈ o.named, x ∈ o.fields := fun x hx => by simp [VecOp.fields, hx]
  have hd : ∀ x ∈ o.dst.fields, x ∈ o.fields := fun x hx => by simp [VecOp.fields, hx]
  have w1 : (((o.runs.flatMap fun r => runFields r.1 r.2) ++ o.dst.run).any fun f => (windowOf g f).isSome) = false := by
    rw [List.any_eq_false]
    intro x hx
    have : x ∈ o.fields := by
      rcases List.mem_append.mp hx with hx | hx
      · exact hr x hx
      · exact hd x (dst_run_subset _ x hx)
    simp [(h x this).1]
  have w2 : (o.srcs.any (outWindow g)) = false := by
    rw [List.any_eq_false]
    intro x hx
    simp [outWindow, (h x (hs x hx)).1]
  have w3 : ((o.dst.single.map (inWindow g)).getD false) = false := by
    cases hsg : o.dst.single with
    | none => rfl
    | some x => simp [inWindow, (h x (hd x (dst_single_mem hsg))).1]
  have w4 : ((o.srcs ++ (o.runs.flatMap fun r => runFields r.1 r.2) ++ o.named ++ o.dst.fields).any (beyond g)) = false := by
    rw [List.any_eq_false]
    intro x hx
    simp [(h x hx).2]
  simp only [operandCause, w1, w2, w3, w4, Bool.or_false, Bool.false_eq_true, if_false]

/-- No window among the fields: nothing is popped, and every queue is ready. -/
theorem inputQueues_plain {g : Group} {o : VecOp} (h : ∀ x ∈ o.fields, windowOf g x = none ∧ beyond g x = false) :
    inputQueues g o = [] := by
  refine (congrArg List.dedup (List.filterMap_eq_nil_iff.mpr ?_)).trans List.dedup_nil
  intro x hx
  simp [(h x (by simp [VecOp.fields, hx])).1]

theorem outputQueue_plain {g : Group} {o : VecOp} (h : ∀ x ∈ o.fields, windowOf g x = none ∧ beyond g x = false) :
    outputQueue g o = none := by
  unfold outputQueue
  cases hsg : o.dst.single with
  | none => rfl
  | some x => simp [(h x (by simp [VecOp.fields, dst_single_mem hsg])).1]

theorem queuesReady_plain {g : Group} {o : VecOp} (h : ∀ x ∈ o.fields, windowOf g x = none ∧ beyond g x = false) :
    queuesReady g o = true := by
  simp [queuesReady, inputQueues_plain h, outputQueue_plain h]

theorem popQueues_plain {g' : Group} {o : VecOp} (hq : inputQueues g' o = []) : popQueues g' o = g' := by
  simp [popQueues, hq]

/-- A plain field reads its register or latch. -/
theorem readField_plain {g : Group} {f : BitVec 7} (h : windowOf g f = none) (l : Nat) : readField g f l = readV g f l := by
  simp [readField, h]

theorem poisonField_plain {g : Group} {f : BitVec 7} (h : windowOf g f = none) (l : Nat) :
    poisonField g f l = (fieldPoison g f).getLsbD l := by simp [poisonField, h]

/-- A vector instruction that nothing stops: every active lane delivers, and the instruction retires. -/
theorem runVec_quiet {o : VecOp} {f : Group → Nat → LaneOut} {s : State} {g : Group} {c : Clause}
    (hi : issuer s = some (g, c)) (hp : ∀ x ∈ o.fields, windowOf g x = none ∧ beyond g x = false)
    (ha : activeMask g c o.ox ≠ 0) (hs : (o.scal.map fun n => tget g.sPoison n.toNat false).getD false = false)
    (hc : ∀ l, l < 128 → (activeMask g c o.ox).getLsbD l = true → laneCause g o (f g) l = none) :
    runVec o f s = retire s (vecResult g o (activeMask g c o.ox) (activeMask g c o.ox) (f g)) c := by
  have hb : faultMask g o (activeMask g c o.ox) (f g) = 0 := by
    apply maskOf_eq_zero
    intro l hl
    cases hact : (activeMask g c o.ox).getLsbD l
    · simp
    · simp [hc l hl hact]
  rw [runVec, withIssuer_eq hi, operandCause_plain hp]
  have hz : activeMask g c o.ox &&& ~~~(0 : Mask) = activeMask g c o.ox := by
    apply BitVec.eq_of_getLsbD_eq
    intro i hi
    have hn : (0 : Mask).getLsbD i = false := BitVec.getLsbD_zero
    rw [BitVec.getLsbD_and, BitVec.getLsbD_not, hn]
    simp [hi]
  simp only [ha, hs, queuesReady_plain hp, hb, hz, if_true, if_false, Bool.false_eq_true, Bool.true_eq_false]

/-- A vector instruction always answers a next state for the group that issues. -/
theorem runVec_next {o : VecOp} {f : Group → Nat → LaneOut} {s : State} {g : Group} {c : Clause}
    (hi : issuer s = some (g, c)) : ∃ t, runVec o f s = .next t := by
  rw [runVec, withIssuer_eq hi]
  split
  · exact ⟨_, rfl⟩
  · dsimp only
    split
    · exact ⟨_, rfl⟩
    · split
      · exact ⟨_, rfl⟩
      · split
        · exact ⟨_, rfl⟩
        · split
          · exact ⟨_, rfl⟩
          · exact ⟨_, rfl⟩

/-- The destination of one register, without a window. -/
theorem writeDst_vec {g : Group} {o : VecOp} {nw : Bool} {d : BitVec 7} {good : Mask} {out : Nat → LaneOut}
    (hd : o.dst = .vec nw d 1) (hq : outputQueue g o = none) :
    writeDst g o good out = if nw then g else setV g d.toNat good fun l => (out l).val 0 := by
  unfold writeDst
  rw [hd]
  dsimp only
  split
  · rfl
  · rw [hq]
    rfl

/-! ## Scalar instructions -/

/-- A scalar instruction with sound sources writes its result and retires. -/
theorem runScalar_sound {srcs : List Nat} {d : Nat} {f : Group → DWord} {s : State} {g : Group} {c : Clause}
    (hi : issuer s = some (g, c)) (hs : ∀ n ∈ srcs, tget g.sPoison n false = false) :
    runScalar srcs d f s = retire s (setS g d (f g)) c := by
  have : (srcs.any fun n => tget g.sPoison n false) = false := by
    rw [List.any_eq_false]
    intro n hn
    simp [hs n hn]
  rw [runScalar, withIssuer_eq hi, if_neg (by simp [this])]

/-- A scalar instruction with a poisoned source traps (R126). -/
theorem runScalar_poison {srcs : List Nat} {d : Nat} {f : Group → DWord} {s : State} {g : Group} {c : Clause}
    (hi : issuer s = some (g, c)) (hs : ∃ n ∈ srcs, tget g.sPoison n false = true) :
    runScalar srcs d f s = trapAt s g c 0x70 (execMask g c) 0xFF 0 [] := by
  have : (srcs.any fun n => tget g.sPoison n false) = true := by
    rw [List.any_eq_true]
    exact hs
  rw [runScalar, withIssuer_eq hi, if_pos this]

end Sys2Proof.Machine
end

