-- ==== Sys2Proof/Laws/Lanes.lean ====
section
/-!
SUPPORT. What a vector instruction gives in the words of Sys2Proof/Safety.lean: one lemma for instructions that raise no
condition and one for those that may.
-/

namespace Sys2Proof.Machine

open Sys2Proof.Safety

/-- The fields of an instruction that reads its own lane of each source. -/
theorem plainOp_fields {nw : Bool} {d : BitVec 7} {srcs : List (BitVec 7)} {ox : Option Ox} {fp : Bool} :
    (plainOp (.vec nw d 1) srcs [] ox fp).fields = srcs ++ dest nw d := by
  cases nw <;> simp [VecOp.fields, plainOp, Dst.fields, dest, runFields]

/-- The lanes read are sound: no lane's data stops it. -/
theorem laneCause_sound {g : Group} {o : VecOp} {out : Nat → LaneOut} {l : Nat}
    (hr : ∀ r ∈ o.reads l, windowOf g r.1 = none ∧ (fieldPoison g r.1).getLsbD r.2 = false) (ho : (out l).cause = none)
    (hf : o.fp = false ∨ fpFaults (enabledTraps g.fpctl) (out l).fl = false) : laneCause g o out l = none := by
  have : ((o.reads l).any fun r => poisonField g r.1 r.2) = false := by
    rw [List.any_eq_false]
    intro r h
    simp [poisonField_plain (hr r h).1, (hr r h).2]
  rw [laneCause, this, if_neg (by simp), ho]
  dsimp only
  rcases hf with hf | hf <;> simp [hf]

/-- A vector instruction of one result that raises no condition (R42, R46, R76). -/
theorem runVec_one {s : State} {g : Group} {c : Clause} {ox : Option Ox} {srcs : List (BitVec 7)} {nw : Bool} {d : BitVec 7}
    (h : LaneOp s g c ox srcs nw d) (o : VecOp) (ho : o = { plainOp (.vec nw d 1) srcs [] ox false with
      scal := o.scal, reads := o.reads }) (f : Group → Nat → LaneOut) (val : Nat → Word) (hv : ∀ l, f g l = .one (val l))
    (hs : (o.scal.map fun n => tget g.sPoison n.toNat false).getD false = false)
    (hr : ∀ l, On (activeMask g c ox) l → ∀ r ∈ o.reads l, windowOf g r.1 = none ∧ (fieldPoison g r.1).getLsbD r.2 = false) :
    runVec o f s = .next (after s (written g (activeMask g c ox) nw d val) c) := by
  have hfields : o.fields = srcs ++ dest nw d := by rw [ho]; exact plainOp_fields (ox := ox) (fp := false)
  have hox : o.ox = ox := by rw [ho]; rfl
  have hdst : o.dst = .vec nw d 1 := by rw [ho]; rfl
  have hfp : o.fp = false := by rw [ho]; rfl
  have hp : ∀ x ∈ o.fields, windowOf g x = none ∧ beyond g x = false := by rw [hfields]; exact h.plain
  rw [runVec_quiet (c := c) (g := g) h.standing hp (by rw [hox]; exact h.active) hs ?_]
  · rw [hox]
    have hq : inputQueues (writeDst g o (activeMask g c ox) (f g)) o = [] := by
      rw [writeDst_vec hdst (outputQueue_plain hp)]
      cases nw
      · have e : inputQueues (setV g d.toNat (activeMask g c ox) fun l => (f g l).val 0) o = inputQueues g o := rfl
        rw [if_neg (by simp), e, inputQueues_plain hp]
      · rw [if_pos rfl, inputQueues_plain hp]
    unfold vecResult
    simp only [hfp, if_false, Bool.false_eq_true]
    rw [popQueues_plain hq, writeDst_vec hdst (outputQueue_plain hp)]
    unfold shiftDst
    rw [hdst]
    dsimp only
    have hval : (fun l => (f g l).val 0) = val := by
      funext l
      rw [hv l]
      rfl
    rw [hval]
    rfl
  · intro l hl ha
    rw [hox] at ha
    exact laneCause_sound (hr l ⟨hl, ha⟩) (by rw [hv l]; rfl) (.inl hfp)

/-- The case of sources read in their own lanes, with no scalar. -/
theorem runVec_plain {s : State} {g : Group} {c : Clause} {ox : Option Ox} {srcs : List (BitVec 7)} {nw : Bool} {d : BitVec 7}
    (h : LaneOp s g c ox srcs nw d) (f : Group → Nat → LaneOut) (val : Nat → Word) (hv : ∀ l, f g l = .one (val l)) :
    runVec (plainOp (.vec nw d 1) srcs [] ox false) f s = .next (after s (written g (activeMask g c ox) nw d val) c) := by
  refine runVec_one h _ rfl f val hv rfl ?_
  intro l hl r hr
  have hm : r.1 ∈ srcs ∧ r.2 = l := by
    have : r ∈ (srcs ++ []).map fun x => (x, l) := hr
    simp only [List.append_nil, List.mem_map] at this
    obtain ⟨x, hx, rfl⟩ := this
    exact ⟨hx, rfl⟩
  refine ⟨(h.plain r.1 (List.mem_append_left _ hm.1)).1, ?_⟩
  rw [hm.2]
  exact h.sound r.1 hm.1 l hl

end Sys2Proof.Machine
end

