-- ==== Sys2Proof/Laws/Memory.lean ====
section
/-!
SUPPORT. The laws of memory: a write keeps the canonical form, a read after a write gives the value written, and a
write leaves every other byte alone.
-/

namespace Sys2Proof.Machine

/-! ## The canonical form -/

theorem wfAbove_mono {lo lo' : Nat} {m : List Host.Cell} (hl : lo' ≤ lo) (h : wfAbove lo m = true) : wfAbove lo' m = true := by
  cases m with
  | nil => rfl
  | cons e m =>
    simp only [wfAbove, Bool.and_eq_true, decide_eq_true_eq] at h ⊢
    exact ⟨⟨by omega, h.1.2⟩, h.2⟩

/-- Writing a byte keeps the canonical form. -/
theorem memPut_wfAbove (m : List Host.Cell) (lo k : Nat) (v : BitVec 8) (hk : lo ≤ k) (h : wfAbove lo m = true) :
    wfAbove lo (memPut m k v) = true := by
  induction m generalizing lo with
  | nil =>
    by_cases hv : v = 0#8
    · simp [memPut, hv, wfAbove]
    · simp [memPut, hv, wfAbove, hk]
  | cons e m ih =>
    obtain ⟨a, b⟩ := e
    have h' := h
    simp only [wfAbove, Bool.and_eq_true, decide_eq_true_eq] at h
    obtain ⟨⟨hla, hb⟩, hm⟩ := h
    by_cases h1 : k < a
    · by_cases hv : v = 0
      · simpa [memPut, h1, hv] using h'
      · simp only [memPut, h1, hv, if_true, if_false, wfAbove, Bool.and_eq_true, decide_eq_true_eq]
        exact ⟨⟨hk, by simpa using hv⟩, ⟨by omega, hb⟩, hm⟩
    · by_cases h2 : k = a
      · subst h2
        by_cases hv : v = 0
        · simpa [memPut, hv] using wfAbove_mono (by omega) hm
        · simp only [memPut, hv, Nat.lt_irrefl, if_true, if_false, wfAbove, Bool.and_eq_true, decide_eq_true_eq]
          exact ⟨⟨hk, by simpa using hv⟩, hm⟩
      · simp only [memPut, h1, h2, if_false, wfAbove, Bool.and_eq_true, decide_eq_true_eq]
        exact ⟨⟨hla, hb⟩, ih (a + 1) (by omega) hm⟩

/-- Writing a byte keeps the canonical form. -/
theorem memPut_wf (m : List Host.Cell) (k : Nat) (v : BitVec 8) (h : Memory.wf m = true) : Memory.wf (memPut m k v) = true :=
  memPut_wfAbove m 0 k v (Nat.zero_le k) h

/-- A byte below every listed address reads as an unlisted one. -/
theorem memByte_below (m : List Host.Cell) (lo k : Nat) (hk : k < lo) (h : wfAbove lo m = true) : memByte m k = 0 := by
  induction m generalizing lo with
  | nil => rfl
  | cons e m ih =>
    obtain ⟨a, b⟩ := e
    simp only [wfAbove, Bool.and_eq_true, decide_eq_true_eq] at h
    have hne : ¬ a = k := by omega
    simp only [memByte, hne, if_false]
    exact ih (a + 1) (by omega) h.2

/-- Dropping a byte's entries keeps what is listed above it. -/
theorem wfAbove_filter (m : List Host.Cell) (lo : Nat) (p : Host.Cell → Bool) (h : wfAbove lo m = true) :
    wfAbove lo (m.filter p) = true := by
  induction m generalizing lo with
  | nil => rfl
  | cons e m ih =>
    obtain ⟨a, b⟩ := e
    simp only [wfAbove, Bool.and_eq_true, decide_eq_true_eq] at h
    by_cases hp : p (a, b) = true
    · rw [List.filter_cons_of_pos hp]
      simp only [wfAbove, Bool.and_eq_true, decide_eq_true_eq]
      exact ⟨h.1, ih (a + 1) h.2⟩
    · rw [List.filter_cons_of_neg hp]
      exact wfAbove_mono (by omega) (ih (a + 1) h.2)

/-- Filtering keeps the canonical form. -/
theorem filter_wf (m : List Host.Cell) (p : Host.Cell → Bool) (h : Memory.wf m = true) : Memory.wf (m.filter p) = true :=
  wfAbove_filter m 0 p h

/-! ## Reads after writes -/

/-- What a byte reads as after a write of a byte to a canonical memory. -/
theorem memByte_memPut (m : List Host.Cell) (lo k n : Nat) (v : BitVec 8) (h : wfAbove lo m = true) :
    memByte (memPut m k v) n = if n = k then v else memByte m n := by
  induction m generalizing lo with
  | nil =>
    by_cases hv : v = 0#8
    · simp [memPut, hv, memByte]
    · by_cases hn : n = k
      · simp [memPut, hv, memByte, hn]
      · have : ¬ k = n := fun e => hn e.symm
        simp [memPut, hv, memByte, hn, this]
  | cons e m ih =>
    obtain ⟨a, b⟩ := e
    have h' := h
    simp only [wfAbove, Bool.and_eq_true, decide_eq_true_eq] at h
    by_cases h1 : k < a
    · by_cases hv : v = 0
      · simp only [memPut, h1, hv, if_true]
        by_cases hn : n = k
        · subst hn
          have hne : ¬ a = n := by omega
          simp only [memByte, hne, if_false, if_true]
          exact memByte_below m (a + 1) n (by omega) h.2
        · simp [hn]
      · simp only [memPut, h1, hv, if_true, if_false]
        by_cases hn : n = k
        · subst hn; simp [memByte]
        · have : ¬ k = n := fun e => hn e.symm
          simp [memByte, hn, this]
    · by_cases h2 : k = a
      · subst h2
        by_cases hv : v = 0
        · simp only [memPut, hv, Nat.lt_irrefl, if_true, if_false]
          by_cases hn : n = k
          · subst hn
            simp only [if_true]
            exact memByte_below m (n + 1) n (by omega) h.2
          · have : ¬ k = n := fun e => hn e.symm
            simp [memByte, hn, this]
        · simp only [memPut, hv, Nat.lt_irrefl, if_true, if_false]
          by_cases hn : n = k
          · subst hn; simp [memByte]
          · have : ¬ k = n := fun e => hn e.symm
            simp [memByte, hn, this]
      · simp only [memPut, h1, h2, if_false]
        by_cases hn : a = n
        · subst hn
          have : ¬ a = k := fun e => h2 e.symm
          simp [memByte, this]
        · simp only [memByte, hn, if_false]
          exact ih (a + 1) h.2

/-! ## Words -/

/-- A step of a word's write keeps the canonical form. -/
theorem memPutIf_wf (m : List Host.Cell) (c : Bool) (k : Nat) (v : BitVec 8) (h : Memory.wf m = true) :
    Memory.wf (if c then memPut m k v else m) = true := by
  cases c
  · exact h
  · exact memPut_wf m k v h

/-- Writing bytes of a word keeps the canonical form. -/
theorem memPutWord_wf (m : List Host.Cell) (w : Nat) (mask : BitVec 4) (v : Word) (h : Memory.wf m = true) :
    Memory.wf (memPutWord m w mask v) = true :=
  memPutIf_wf _ _ _ _ (memPutIf_wf _ _ _ _ (memPutIf_wf _ _ _ _ (memPutIf_wf _ _ _ _ h)))

/-- What a byte reads as after a byte has been written or not. -/
theorem memByte_memPutIf (m : List Host.Cell) (c : Bool) (k n : Nat) (v : BitVec 8) (h : Memory.wf m = true) :
    memByte (if c then memPut m k v else m) n = if c = true ∧ n = k then v else memByte m n := by
  cases c
  · simp
  · simpa using memByte_memPut m 0 k n v h

/-- What a byte reads as after a write of a word's bytes: the byte of the value inside the mask, else what it was. -/
theorem memByte_memPutWord (m : List Host.Cell) (w n : Nat) (mask : BitVec 4) (v : Word) (h : Memory.wf m = true) :
    memByte (memPutWord m w mask v) n =
      if w ≤ n ∧ n < w + 4 ∧ mask.getLsbD (n - w) = true then byteOf v (n - w) else memByte m n := by
  have h3 := memPutIf_wf m (mask.getLsbD 3) (w + 3) (byteOf v 3) h
  have h2 := memPutIf_wf _ (mask.getLsbD 2) (w + 2) (byteOf v 2) h3
  have h1 := memPutIf_wf _ (mask.getLsbD 1) (w + 1) (byteOf v 1) h2
  simp only [memPutWord, List.foldl_cons, List.foldl_nil]
  rw [memByte_memPutIf _ _ _ _ _ h1, memByte_memPutIf _ _ _ _ _ h2, memByte_memPutIf _ _ _ _ _ h3, memByte_memPutIf _ _ _ _ _ h]
  by_cases hlo : w ≤ n
  · obtain ⟨d, rfl⟩ := Nat.le.dest hlo
    match d with
    | 0 => by_cases hm : mask.getLsbD 0 = true <;> simp [hm]
    | 1 => by_cases hm : mask.getLsbD 1 = true <;> simp [hm]
    | 2 => by_cases hm : mask.getLsbD 2 = true <;> simp [hm]
    | 3 => by_cases hm : mask.getLsbD 3 = true <;> simp [hm]
    | d + 4 => simp
  · have e0 : ¬ n = w + 0 := by omega
    have e1 : ¬ n = w + 1 := by omega
    have e2 : ¬ n = w + 2 := by omega
    have e3 : ¬ n = w + 3 := by omega
    simp only [e0, e1, e2, e3, hlo, and_false, false_and, if_false]

/-- A byte outside the word written reads as before. -/
theorem memByte_memPutWord_other (m : List Host.Cell) (w n : Nat) (mask : BitVec 4) (v : Word) (h : Memory.wf m = true)
    (hn : n < w ∨ w + 4 ≤ n) : memByte (memPutWord m w mask v) n = memByte m n := by
  rw [memByte_memPutWord m w n mask v h, if_neg (by omega)]

/-- A word is its bytes. -/
theorem wordOf_bytes (v : Word) : wordOf (byteOf v) = v := by
  apply BitVec.eq_of_getLsbD_eq
  intro i hi
  simp only [wordOf, byteOf, BitVec.getLsbD_append, BitVec.getLsbD_extractLsb']
  by_cases h0 : i < 8
  · simp [h0]
  · by_cases h1 : i < 16
    · have a : i - 8 < 8 := by omega
      have b : 8 + (i - 8) = i := by omega
      simp [h0, a, b]
    · by_cases h2 : i < 24
      · have a : i - 8 - 8 < 8 := by omega
        have a' : ¬ i - 8 < 8 := by omega
        have b : 16 + (i - 8 - 8) = i := by omega
        simp [h0, a, a', b]
      · have a : i - 8 - 8 - 8 < 8 := by omega
        have a' : ¬ i - 8 < 8 := by omega
        have a'' : ¬ i - 8 - 8 < 8 := by omega
        have b : 24 + (i - 8 - 8 - 8) = i := by omega
        simp [h0, a, a', a'', b]

/-- A word just written whole reads back. -/
theorem memWord_memPutWord_same (m : List Host.Cell) (w : Nat) (v : Word) (h : Memory.wf m = true) :
    memWord (memPutWord m w 0xF v) w = v := by
  have e : ∀ i, i < 4 → memByte (memPutWord m w 0xF v) (w + i) = byteOf v i := by
    intro i hi
    have hb : (0xF : BitVec 4).getLsbD i = true := by
      have : i = 0 ∨ i = 1 ∨ i = 2 ∨ i = 3 := by omega
      rcases this with h | h | h | h <;> subst h <;> rfl
    rw [memByte_memPutWord m w (w + i) 0xF v h, if_pos ⟨by omega, by omega, by simpa using hb⟩]
    simp
  have : memWord (memPutWord m w 0xF v) w = wordOf (byteOf v) := by
    simp only [memWord, wordOf]
    rw [e 0 (by omega), e 1 (by omega), e 2 (by omega), e 3 (by omega)]
  rw [this, wordOf_bytes]

/-- A word that does not overlap the word written reads as before. -/
theorem memWord_memPutWord_other (m : List Host.Cell) (w n : Nat) (mask : BitVec 4) (v : Word) (h : Memory.wf m = true)
    (hn : n + 4 ≤ w ∨ w + 4 ≤ n) : memWord (memPutWord m w mask v) n = memWord m n := by
  have e : ∀ i, i < 4 → memByte (memPutWord m w mask v) (n + i) = memByte m (n + i) :=
    fun i hi => memByte_memPutWord_other m w (n + i) mask v h (by omega)
  simp only [memWord, wordOf]
  rw [e 0 (by omega), e 1 (by omega), e 2 (by omega), e 3 (by omega)]

end Sys2Proof.Machine
end

