-- ==== Sys2Proof/Laws/State.lean ====
section
/-!
SUPPORT. The fields of the state after each of its basic updates: one lemma per field per update, so that no later proof
unfolds a record update.
-/

namespace Sys2Proof.Machine

/-! ## `setGroup` -/

@[simp] theorem setGroup_isW (s : State) (g : Group) : (setGroup s g).isW = s.isW := rfl
@[simp] theorem setGroup_devId (s : State) (g : Group) : (setGroup s g).devId = s.devId := rfl
@[simp] theorem setGroup_mode (s : State) (g : Group) : (setGroup s g).mode = s.mode := rfl
@[simp] theorem setGroup_ready (s : State) (g : Group) : (setGroup s g).ready = s.ready := rfl
@[simp] theorem setGroup_failRec (s : State) (g : Group) : (setGroup s g).failRec = s.failRec := rfl
@[simp] theorem setGroup_sideband (s : State) (g : Group) : (setGroup s g).sideband = s.sideband := rfl
@[simp] theorem setGroup_verified (s : State) (g : Group) : (setGroup s g).verified = s.verified := rfl
@[simp] theorem setGroup_report (s : State) (g : Group) : (setGroup s g).report = s.report := rfl
@[simp] theorem setGroup_twinUp (s : State) (g : Group) : (setGroup s g).twinUp = s.twinUp := rfl
@[simp] theorem setGroup_twinFailed (s : State) (g : Group) : (setGroup s g).twinFailed = s.twinFailed := rfl
@[simp] theorem setGroup_mhz (s : State) (g : Group) : (setGroup s g).mhz = s.mhz := rfl
@[simp] theorem setGroup_clock (s : State) (g : Group) : (setGroup s g).clock = s.clock := rfl
@[simp] theorem setGroup_refUnits (s : State) (g : Group) : (setGroup s g).refUnits = s.refUnits := rfl
@[simp] theorem setGroup_bar (s : State) (g : Group) : (setGroup s g).bar = s.bar := rfl
@[simp] theorem setGroup_irqs (s : State) (g : Group) : (setGroup s g).irqs = s.irqs := rfl
@[simp] theorem setGroup_mem (s : State) (g : Group) : (setGroup s g).mem = s.mem := rfl
@[simp] theorem setGroup_memPoison (s : State) (g : Group) : (setGroup s g).memPoison = s.memPoison := rfl
@[simp] theorem setGroup_homes (s : State) (g : Group) : (setGroup s g).homes = s.homes := rfl
@[simp] theorem setGroup_l2 (s : State) (g : Group) : (setGroup s g).l2 = s.l2 := rfl
@[simp] theorem setGroup_l2Wait (s : State) (g : Group) : (setGroup s g).l2Wait = s.l2Wait := rfl
@[simp] theorem setGroup_l2Evict (s : State) (g : Group) : (setGroup s g).l2Evict = s.l2Evict := rfl
@[simp] theorem setGroup_stamps (s : State) (g : Group) : (setGroup s g).stamps = s.stamps := rfl
@[simp] theorem setGroup_l1 (s : State) (g : Group) : (setGroup s g).l1 = s.l1 := rfl
@[simp] theorem setGroup_holding (s : State) (g : Group) : (setGroup s g).holding = s.holding := rfl
@[simp] theorem setGroup_rdc (s : State) (g : Group) : (setGroup s g).rdc = s.rdc := rfl
@[simp] theorem setGroup_hostLines (s : State) (g : Group) : (setGroup s g).hostLines = s.hostLines := rfl
@[simp] theorem setGroup_msgs (s : State) (g : Group) : (setGroup s g).msgs = s.msgs := rfl
@[simp] theorem setGroup_msgSeq (s : State) (g : Group) : (setGroup s g).msgSeq = s.msgSeq := rfl
@[simp] theorem setGroup_coreTlb (s : State) (g : Group) : (setGroup s g).coreTlb = s.coreTlb := rfl
@[simp] theorem setGroup_hamletTlb (s : State) (g : Group) : (setGroup s g).hamletTlb = s.hamletTlb := rfl
@[simp] theorem setGroup_devTlb (s : State) (g : Group) : (setGroup s g).devTlb = s.devTlb := rfl
@[simp] theorem setGroup_aheadTlb (s : State) (g : Group) : (setGroup s g).aheadTlb = s.aheadTlb := rfl
@[simp] theorem setGroup_walkQ (s : State) (g : Group) : (setGroup s g).walkQ = s.walkQ := rfl
@[simp] theorem setGroup_walking (s : State) (g : Group) : (setGroup s g).walking = s.walking := rfl
@[simp] theorem setGroup_walkFails (s : State) (g : Group) : (setGroup s g).walkFails = s.walkFails := rfl
@[simp] theorem setGroup_invals (s : State) (g : Group) : (setGroup s g).invals = s.invals := rfl
@[simp] theorem setGroup_bias (s : State) (g : Group) : (setGroup s g).bias = s.bias := rfl
@[simp] theorem setGroup_biasWait (s : State) (g : Group) : (setGroup s g).biasWait = s.biasWait := rfl
@[simp] theorem setGroup_biasHeld (s : State) (g : Group) : (setGroup s g).biasHeld = s.biasHeld := rfl
@[simp] theorem setGroup_storers (s : State) (g : Group) : (setGroup s g).storers = s.storers := rfl
@[simp] theorem setGroup_placers (s : State) (g : Group) : (setGroup s g).placers = s.placers := rfl
@[simp] theorem setGroup_twinAtoms (s : State) (g : Group) : (setGroup s g).twinAtoms = s.twinAtoms := rfl
@[simp] theorem setGroup_twinOps (s : State) (g : Group) : (setGroup s g).twinOps = s.twinOps := rfl
@[simp] theorem setGroup_hostRead (s : State) (g : Group) : (setGroup s g).hostRead = s.hostRead := rfl
@[simp] theorem setGroup_cmds (s : State) (g : Group) : (setGroup s g).cmds = s.cmds := rfl
@[simp] theorem setGroup_events (s : State) (g : Group) : (setGroup s g).events = s.events := rfl
@[simp] theorem setGroup_ctxs (s : State) (g : Group) : (setGroup s g).ctxs = s.ctxs := rfl
@[simp] theorem setGroup_groups (s : State) (g : Group) :
    (setGroup s g).groups = s.groups.map fun h => if h.core == g.core && h.slot == g.slot then g else h := rfl
@[simp] theorem setGroup_ahead (s : State) (g : Group) : (setGroup s g).ahead = s.ahead := rfl
@[simp] theorem setGroup_teams (s : State) (g : Group) : (setGroup s g).teams = s.teams := rfl
@[simp] theorem setGroup_nextTeam (s : State) (g : Group) : (setGroup s g).nextTeam = s.nextTeam := rfl
@[simp] theorem setGroup_cur (s : State) (g : Group) : (setGroup s g).cur = s.cur := rfl
@[simp] theorem setGroup_syncTab (s : State) (g : Group) : (setGroup s g).syncTab = s.syncTab := rfl
@[simp] theorem setGroup_syncOps (s : State) (g : Group) : (setGroup s g).syncOps = s.syncOps := rfl
@[simp] theorem setGroup_frontier (s : State) (g : Group) : (setGroup s g).frontier = s.frontier := rfl
@[simp] theorem setGroup_reds (s : State) (g : Group) : (setGroup s g).reds = s.reds := rfl
@[simp] theorem setGroup_rays (s : State) (g : Group) : (setGroup s g).rays = s.rays := rfl
@[simp] theorem setGroup_bins (s : State) (g : Group) : (setGroup s g).bins = s.bins := rfl
@[simp] theorem setGroup_treelets (s : State) (g : Group) : (setGroup s g).treelets = s.treelets := rfl
@[simp] theorem setGroup_tiles (s : State) (g : Group) : (setGroup s g).tiles = s.tiles := rfl
@[simp] theorem setGroup_tileAdds (s : State) (g : Group) : (setGroup s g).tileAdds = s.tileAdds := rfl
@[simp] theorem setGroup_flushing (s : State) (g : Group) : (setGroup s g).flushing = s.flushing := rfl
@[simp] theorem setGroup_cmdEnds (s : State) (g : Group) : (setGroup s g).cmdEnds = s.cmdEnds := rfl
@[simp] theorem setGroup_engines (s : State) (g : Group) : (setGroup s g).engines = s.engines := rfl
@[simp] theorem setGroup_pairReds (s : State) (g : Group) : (setGroup s g).pairReds = s.pairReds := rfl
@[simp] theorem setGroup_quads (s : State) (g : Group) : (setGroup s g).quads = s.quads := rfl
@[simp] theorem setGroup_images (s : State) (g : Group) : (setGroup s g).images = s.images := rfl
@[simp] theorem setGroup_grids (s : State) (g : Group) : (setGroup s g).grids = s.grids := rfl
@[simp] theorem setGroup_served (s : State) (g : Group) : (setGroup s g).served = s.served := rfl
@[simp] theorem setGroup_window (s : State) (g : Group) : (setGroup s g).window = s.window := rfl
@[simp] theorem setGroup_runs (s : State) (g : Group) : (setGroup s g).runs = s.runs := rfl
@[simp] theorem setGroup_logWait (s : State) (g : Group) : (setGroup s g).logWait = s.logWait := rfl
@[simp] theorem setGroup_nextId (s : State) (g : Group) : (setGroup s g).nextId = s.nextId := rfl
@[simp] theorem setGroup_draws (s : State) (g : Group) : (setGroup s g).draws = s.draws := rfl
@[simp] theorem setGroup_sched (s : State) (g : Group) : (setGroup s g).sched = s.sched := rfl

/-! ## `updTeam` -/

@[simp] theorem updTeam_isW (s : State) (key : Nat) (f : Team → Team) : (updTeam s key f).isW = s.isW := rfl
@[simp] theorem updTeam_devId (s : State) (key : Nat) (f : Team → Team) : (updTeam s key f).devId = s.devId := rfl
@[simp] theorem updTeam_mode (s : State) (key : Nat) (f : Team → Team) : (updTeam s key f).mode = s.mode := rfl
@[simp] theorem updTeam_ready (s : State) (key : Nat) (f : Team → Team) : (updTeam s key f).ready = s.ready := rfl
@[simp] theorem updTeam_failRec (s : State) (key : Nat) (f : Team → Team) : (updTeam s key f).failRec = s.failRec := rfl
@[simp] theorem updTeam_sideband (s : State) (key : Nat) (f : Team → Team) :
    (updTeam s key f).sideband = s.sideband := rfl
@[simp] theorem updTeam_verified (s : State) (key : Nat) (f : Team → Team) :
    (updTeam s key f).verified = s.verified := rfl
@[simp] theorem updTeam_report (s : State) (key : Nat) (f : Team → Team) : (updTeam s key f).report = s.report := rfl
@[simp] theorem updTeam_twinUp (s : State) (key : Nat) (f : Team → Team) : (updTeam s key f).twinUp = s.twinUp := rfl
@[simp] theorem updTeam_twinFailed (s : State) (key : Nat) (f : Team → Team) :
    (updTeam s key f).twinFailed = s.twinFailed := rfl
@[simp] theorem updTeam_mhz (s : State) (key : Nat) (f : Team → Team) : (updTeam s key f).mhz = s.mhz := rfl
@[simp] theorem updTeam_clock (s : State) (key : Nat) (f : Team → Team) : (updTeam s key f).clock = s.clock := rfl
@[simp] theorem updTeam_refUnits (s : State) (key : Nat) (f : Team → Team) :
    (updTeam s key f).refUnits = s.refUnits := rfl
@[simp] theorem updTeam_bar (s : State) (key : Nat) (f : Team → Team) : (updTeam s key f).bar = s.bar := rfl
@[simp] theorem updTeam_irqs (s : State) (key : Nat) (f : Team → Team) : (updTeam s key f).irqs = s.irqs := rfl
@[simp] theorem updTeam_mem (s : State) (key : Nat) (f : Team → Team) : (updTeam s key f).mem = s.mem := rfl
@[simp] theorem updTeam_memPoison (s : State) (key : Nat) (f : Team → Team) :
    (updTeam s key f).memPoison = s.memPoison := rfl
@[simp] theorem updTeam_homes (s : State) (key : Nat) (f : Team → Team) : (updTeam s key f).homes = s.homes := rfl
@[simp] theorem updTeam_l2 (s : State) (key : Nat) (f : Team → Team) : (updTeam s key f).l2 = s.l2 := rfl
@[simp] theorem updTeam_l2Wait (s : State) (key : Nat) (f : Team → Team) : (updTeam s key f).l2Wait = s.l2Wait := rfl
@[simp] theorem updTeam_l2Evict (s : State) (key : Nat) (f : Team → Team) : (updTeam s key f).l2Evict = s.l2Evict := rfl
@[simp] theorem updTeam_stamps (s : State) (key : Nat) (f : Team → Team) : (updTeam s key f).stamps = s.stamps := rfl
@[simp] theorem updTeam_l1 (s : State) (key : Nat) (f : Team → Team) : (updTeam s key f).l1 = s.l1 := rfl
@[simp] theorem updTeam_holding (s : State) (key : Nat) (f : Team → Team) : (updTeam s key f).holding = s.holding := rfl
@[simp] theorem updTeam_rdc (s : State) (key : Nat) (f : Team → Team) : (updTeam s key f).rdc = s.rdc := rfl
@[simp] theorem updTeam_hostLines (s : State) (key : Nat) (f : Team → Team) :
    (updTeam s key f).hostLines = s.hostLines := rfl
@[simp] theorem updTeam_msgs (s : State) (key : Nat) (f : Team → Team) : (updTeam s key f).msgs = s.msgs := rfl
@[simp] theorem updTeam_msgSeq (s : State) (key : Nat) (f : Team → Team) : (updTeam s key f).msgSeq = s.msgSeq := rfl
@[simp] theorem updTeam_coreTlb (s : State) (key : Nat) (f : Team → Team) : (updTeam s key f).coreTlb = s.coreTlb := rfl
@[simp] theorem updTeam_hamletTlb (s : State) (key : Nat) (f : Team → Team) :
    (updTeam s key f).hamletTlb = s.hamletTlb := rfl
@[simp] theorem updTeam_devTlb (s : State) (key : Nat) (f : Team → Team) : (updTeam s key f).devTlb = s.devTlb := rfl
@[simp] theorem updTeam_aheadTlb (s : State) (key : Nat) (f : Team → Team) :
    (updTeam s key f).aheadTlb = s.aheadTlb := rfl
@[simp] theorem updTeam_walkQ (s : State) (key : Nat) (f : Team → Team) : (updTeam s key f).walkQ = s.walkQ := rfl
@[simp] theorem updTeam_walking (s : State) (key : Nat) (f : Team → Team) : (updTeam s key f).walking = s.walking := rfl
@[simp] theorem updTeam_walkFails (s : State) (key : Nat) (f : Team → Team) :
    (updTeam s key f).walkFails = s.walkFails := rfl
@[simp] theorem updTeam_invals (s : State) (key : Nat) (f : Team → Team) : (updTeam s key f).invals = s.invals := rfl
@[simp] theorem updTeam_bias (s : State) (key : Nat) (f : Team → Team) : (updTeam s key f).bias = s.bias := rfl
@[simp] theorem updTeam_biasWait (s : State) (key : Nat) (f : Team → Team) :
    (updTeam s key f).biasWait = s.biasWait := rfl
@[simp] theorem updTeam_biasHeld (s : State) (key : Nat) (f : Team → Team) :
    (updTeam s key f).biasHeld = s.biasHeld := rfl
@[simp] theorem updTeam_storers (s : State) (key : Nat) (f : Team → Team) : (updTeam s key f).storers = s.storers := rfl
@[simp] theorem updTeam_placers (s : State) (key : Nat) (f : Team → Team) : (updTeam s key f).placers = s.placers := rfl
@[simp] theorem updTeam_twinAtoms (s : State) (key : Nat) (f : Team → Team) :
    (updTeam s key f).twinAtoms = s.twinAtoms := rfl
@[simp] theorem updTeam_twinOps (s : State) (key : Nat) (f : Team → Team) : (updTeam s key f).twinOps = s.twinOps := rfl
@[simp] theorem updTeam_hostRead (s : State) (key : Nat) (f : Team → Team) :
    (updTeam s key f).hostRead = s.hostRead := rfl
@[simp] theorem updTeam_cmds (s : State) (key : Nat) (f : Team → Team) : (updTeam s key f).cmds = s.cmds := rfl
@[simp] theorem updTeam_events (s : State) (key : Nat) (f : Team → Team) : (updTeam s key f).events = s.events := rfl
@[simp] theorem updTeam_ctxs (s : State) (key : Nat) (f : Team → Team) : (updTeam s key f).ctxs = s.ctxs := rfl
@[simp] theorem updTeam_groups (s : State) (key : Nat) (f : Team → Team) : (updTeam s key f).groups = s.groups := rfl
@[simp] theorem updTeam_ahead (s : State) (key : Nat) (f : Team → Team) : (updTeam s key f).ahead = s.ahead := rfl
@[simp] theorem updTeam_teams (s : State) (key : Nat) (f : Team → Team) :
    (updTeam s key f).teams = s.teams.map fun t => if t.key == key then f t else t := rfl
@[simp] theorem updTeam_nextTeam (s : State) (key : Nat) (f : Team → Team) :
    (updTeam s key f).nextTeam = s.nextTeam := rfl
@[simp] theorem updTeam_cur (s : State) (key : Nat) (f : Team → Team) : (updTeam s key f).cur = s.cur := rfl
@[simp] theorem updTeam_syncTab (s : State) (key : Nat) (f : Team → Team) : (updTeam s key f).syncTab = s.syncTab := rfl
@[simp] theorem updTeam_syncOps (s : State) (key : Nat) (f : Team → Team) : (updTeam s key f).syncOps = s.syncOps := rfl
@[simp] theorem updTeam_frontier (s : State) (key : Nat) (f : Team → Team) :
    (updTeam s key f).frontier = s.frontier := rfl
@[simp] theorem updTeam_reds (s : State) (key : Nat) (f : Team → Team) : (updTeam s key f).reds = s.reds := rfl
@[simp] theorem updTeam_rays (s : State) (key : Nat) (f : Team → Team) : (updTeam s key f).rays = s.rays := rfl
@[simp] theorem updTeam_bins (s : State) (key : Nat) (f : Team → Team) : (updTeam s key f).bins = s.bins := rfl
@[simp] theorem updTeam_treelets (s : State) (key : Nat) (f : Team → Team) :
    (updTeam s key f).treelets = s.treelets := rfl
@[simp] theorem updTeam_tiles (s : State) (key : Nat) (f : Team → Team) : (updTeam s key f).tiles = s.tiles := rfl
@[simp] theorem updTeam_tileAdds (s : State) (key : Nat) (f : Team → Team) :
    (updTeam s key f).tileAdds = s.tileAdds := rfl
@[simp] theorem updTeam_flushing (s : State) (key : Nat) (f : Team → Team) :
    (updTeam s key f).flushing = s.flushing := rfl
@[simp] theorem updTeam_cmdEnds (s : State) (key : Nat) (f : Team → Team) : (updTeam s key f).cmdEnds = s.cmdEnds := rfl
@[simp] theorem updTeam_engines (s : State) (key : Nat) (f : Team → Team) : (updTeam s key f).engines = s.engines := rfl
@[simp] theorem updTeam_pairReds (s : State) (key : Nat) (f : Team → Team) :
    (updTeam s key f).pairReds = s.pairReds := rfl
@[simp] theorem updTeam_quads (s : State) (key : Nat) (f : Team → Team) : (updTeam s key f).quads = s.quads := rfl
@[simp] theorem updTeam_images (s : State) (key : Nat) (f : Team → Team) : (updTeam s key f).images = s.images := rfl
@[simp] theorem updTeam_grids (s : State) (key : Nat) (f : Team → Team) : (updTeam s key f).grids = s.grids := rfl
@[simp] theorem updTeam_served (s : State) (key : Nat) (f : Team → Team) : (updTeam s key f).served = s.served := rfl
@[simp] theorem updTeam_window (s : State) (key : Nat) (f : Team → Team) : (updTeam s key f).window = s.window := rfl
@[simp] theorem updTeam_runs (s : State) (key : Nat) (f : Team → Team) : (updTeam s key f).runs = s.runs := rfl
@[simp] theorem updTeam_logWait (s : State) (key : Nat) (f : Team → Team) : (updTeam s key f).logWait = s.logWait := rfl
@[simp] theorem updTeam_nextId (s : State) (key : Nat) (f : Team → Team) : (updTeam s key f).nextId = s.nextId := rfl
@[simp] theorem updTeam_draws (s : State) (key : Nat) (f : Team → Team) : (updTeam s key f).draws = s.draws := rfl
@[simp] theorem updTeam_sched (s : State) (key : Nat) (f : Team → Team) : (updTeam s key f).sched = s.sched := rfl

/-! ## `updCtx` -/

@[simp] theorem updCtx_isW (s : State) (ctx : Nat) (f : Ctx → Ctx) : (updCtx s ctx f).isW = s.isW := rfl
@[simp] theorem updCtx_devId (s : State) (ctx : Nat) (f : Ctx → Ctx) : (updCtx s ctx f).devId = s.devId := rfl
@[simp] theorem updCtx_mode (s : State) (ctx : Nat) (f : Ctx → Ctx) : (updCtx s ctx f).mode = s.mode := rfl
@[simp] theorem updCtx_ready (s : State) (ctx : Nat) (f : Ctx → Ctx) : (updCtx s ctx f).ready = s.ready := rfl
@[simp] theorem updCtx_failRec (s : State) (ctx : Nat) (f : Ctx → Ctx) : (updCtx s ctx f).failRec = s.failRec := rfl
@[simp] theorem updCtx_sideband (s : State) (ctx : Nat) (f : Ctx → Ctx) : (updCtx s ctx f).sideband = s.sideband := rfl
@[simp] theorem updCtx_verified (s : State) (ctx : Nat) (f : Ctx → Ctx) : (updCtx s ctx f).verified = s.verified := rfl
@[simp] theorem updCtx_report (s : State) (ctx : Nat) (f : Ctx → Ctx) : (updCtx s ctx f).report = s.report := rfl
@[simp] theorem updCtx_twinUp (s : State) (ctx : Nat) (f : Ctx → Ctx) : (updCtx s ctx f).twinUp = s.twinUp := rfl
@[simp] theorem updCtx_twinFailed (s : State) (ctx : Nat) (f : Ctx → Ctx) :
    (updCtx s ctx f).twinFailed = s.twinFailed := rfl
@[simp] theorem updCtx_mhz (s : State) (ctx : Nat) (f : Ctx → Ctx) : (updCtx s ctx f).mhz = s.mhz := rfl
@[simp] theorem updCtx_clock (s : State) (ctx : Nat) (f : Ctx → Ctx) : (updCtx s ctx f).clock = s.clock := rfl
@[simp] theorem updCtx_refUnits (s : State) (ctx : Nat) (f : Ctx → Ctx) : (updCtx s ctx f).refUnits = s.refUnits := rfl
@[simp] theorem updCtx_bar (s : State) (ctx : Nat) (f : Ctx → Ctx) : (updCtx s ctx f).bar = s.bar := rfl
@[simp] theorem updCtx_irqs (s : State) (ctx : Nat) (f : Ctx → Ctx) : (updCtx s ctx f).irqs = s.irqs := rfl
@[simp] theorem updCtx_mem (s : State) (ctx : Nat) (f : Ctx → Ctx) : (updCtx s ctx f).mem = s.mem := rfl
@[simp] theorem updCtx_memPoison (s : State) (ctx : Nat) (f : Ctx → Ctx) :
    (updCtx s ctx f).memPoison = s.memPoison := rfl
@[simp] theorem updCtx_homes (s : State) (ctx : Nat) (f : Ctx → Ctx) : (updCtx s ctx f).homes = s.homes := rfl
@[simp] theorem updCtx_l2 (s : State) (ctx : Nat) (f : Ctx → Ctx) : (updCtx s ctx f).l2 = s.l2 := rfl
@[simp] theorem updCtx_l2Wait (s : State) (ctx : Nat) (f : Ctx → Ctx) : (updCtx s ctx f).l2Wait = s.l2Wait := rfl
@[simp] theorem updCtx_l2Evict (s : State) (ctx : Nat) (f : Ctx → Ctx) : (updCtx s ctx f).l2Evict = s.l2Evict := rfl
@[simp] theorem updCtx_stamps (s : State) (ctx : Nat) (f : Ctx → Ctx) : (updCtx s ctx f).stamps = s.stamps := rfl
@[simp] theorem updCtx_l1 (s : State) (ctx : Nat) (f : Ctx → Ctx) : (updCtx s ctx f).l1 = s.l1 := rfl
@[simp] theorem updCtx_holding (s : State) (ctx : Nat) (f : Ctx → Ctx) : (updCtx s ctx f).holding = s.holding := rfl
@[simp] theorem updCtx_rdc (s : State) (ctx : Nat) (f : Ctx → Ctx) : (updCtx s ctx f).rdc = s.rdc := rfl
@[simp] theorem updCtx_hostLines (s : State) (ctx : Nat) (f : Ctx → Ctx) :
    (updCtx s ctx f).hostLines = s.hostLines := rfl
@[simp] theorem updCtx_msgs (s : State) (ctx : Nat) (f : Ctx → Ctx) : (updCtx s ctx f).msgs = s.msgs := rfl
@[simp] theorem updCtx_msgSeq (s : State) (ctx : Nat) (f : Ctx → Ctx) : (updCtx s ctx f).msgSeq = s.msgSeq := rfl
@[simp] theorem updCtx_coreTlb (s : State) (ctx : Nat) (f : Ctx → Ctx) : (updCtx s ctx f).coreTlb = s.coreTlb := rfl
@[simp] theorem updCtx_hamletTlb (s : State) (ctx : Nat) (f : Ctx → Ctx) :
    (updCtx s ctx f).hamletTlb = s.hamletTlb := rfl
@[simp] theorem updCtx_devTlb (s : State) (ctx : Nat) (f : Ctx → Ctx) : (updCtx s ctx f).devTlb = s.devTlb := rfl
@[simp] theorem updCtx_aheadTlb (s : State) (ctx : Nat) (f : Ctx → Ctx) : (updCtx s ctx f).aheadTlb = s.aheadTlb := rfl
@[simp] theorem updCtx_walkQ (s : State) (ctx : Nat) (f : Ctx → Ctx) : (updCtx s ctx f).walkQ = s.walkQ := rfl
@[simp] theorem updCtx_walking (s : State) (ctx : Nat) (f : Ctx → Ctx) : (updCtx s ctx f).walking = s.walking := rfl
@[simp] theorem updCtx_walkFails (s : State) (ctx : Nat) (f : Ctx → Ctx) :
    (updCtx s ctx f).walkFails = s.walkFails := rfl
@[simp] theorem updCtx_invals (s : State) (ctx : Nat) (f : Ctx → Ctx) : (updCtx s ctx f).invals = s.invals := rfl
@[simp] theorem updCtx_bias (s : State) (ctx : Nat) (f : Ctx → Ctx) : (updCtx s ctx f).bias = s.bias := rfl
@[simp] theorem updCtx_biasWait (s : State) (ctx : Nat) (f : Ctx → Ctx) : (updCtx s ctx f).biasWait = s.biasWait := rfl
@[simp] theorem updCtx_biasHeld (s : State) (ctx : Nat) (f : Ctx → Ctx) : (updCtx s ctx f).biasHeld = s.biasHeld := rfl
@[simp] theorem updCtx_storers (s : State) (ctx : Nat) (f : Ctx → Ctx) : (updCtx s ctx f).storers = s.storers := rfl
@[simp] theorem updCtx_placers (s : State) (ctx : Nat) (f : Ctx → Ctx) : (updCtx s ctx f).placers = s.placers := rfl
@[simp] theorem updCtx_twinAtoms (s : State) (ctx : Nat) (f : Ctx → Ctx) :
    (updCtx s ctx f).twinAtoms = s.twinAtoms := rfl
@[simp] theorem updCtx_twinOps (s : State) (ctx : Nat) (f : Ctx → Ctx) : (updCtx s ctx f).twinOps = s.twinOps := rfl
@[simp] theorem updCtx_hostRead (s : State) (ctx : Nat) (f : Ctx → Ctx) : (updCtx s ctx f).hostRead = s.hostRead := rfl
@[simp] theorem updCtx_cmds (s : State) (ctx : Nat) (f : Ctx → Ctx) : (updCtx s ctx f).cmds = s.cmds := rfl
@[simp] theorem updCtx_events (s : State) (ctx : Nat) (f : Ctx → Ctx) : (updCtx s ctx f).events = s.events := rfl
@[simp] theorem updCtx_ctxs (s : State) (ctx : Nat) (f : Ctx → Ctx) :
    (updCtx s ctx f).ctxs = tput s.ctxs ctx (f (ctxOf s ctx)) := rfl
@[simp] theorem updCtx_groups (s : State) (ctx : Nat) (f : Ctx → Ctx) : (updCtx s ctx f).groups = s.groups := rfl
@[simp] theorem updCtx_ahead (s : State) (ctx : Nat) (f : Ctx → Ctx) : (updCtx s ctx f).ahead = s.ahead := rfl
@[simp] theorem updCtx_teams (s : State) (ctx : Nat) (f : Ctx → Ctx) : (updCtx s ctx f).teams = s.teams := rfl
@[simp] theorem updCtx_nextTeam (s : State) (ctx : Nat) (f : Ctx → Ctx) : (updCtx s ctx f).nextTeam = s.nextTeam := rfl
@[simp] theorem updCtx_cur (s : State) (ctx : Nat) (f : Ctx → Ctx) : (updCtx s ctx f).cur = s.cur := rfl
@[simp] theorem updCtx_syncTab (s : State) (ctx : Nat) (f : Ctx → Ctx) : (updCtx s ctx f).syncTab = s.syncTab := rfl
@[simp] theorem updCtx_syncOps (s : State) (ctx : Nat) (f : Ctx → Ctx) : (updCtx s ctx f).syncOps = s.syncOps := rfl
@[simp] theorem updCtx_frontier (s : State) (ctx : Nat) (f : Ctx → Ctx) : (updCtx s ctx f).frontier = s.frontier := rfl
@[simp] theorem updCtx_reds (s : State) (ctx : Nat) (f : Ctx → Ctx) : (updCtx s ctx f).reds = s.reds := rfl
@[simp] theorem updCtx_rays (s : State) (ctx : Nat) (f : Ctx → Ctx) : (updCtx s ctx f).rays = s.rays := rfl
@[simp] theorem updCtx_bins (s : State) (ctx : Nat) (f : Ctx → Ctx) : (updCtx s ctx f).bins = s.bins := rfl
@[simp] theorem updCtx_treelets (s : State) (ctx : Nat) (f : Ctx → Ctx) : (updCtx s ctx f).treelets = s.treelets := rfl
@[simp] theorem updCtx_tiles (s : State) (ctx : Nat) (f : Ctx → Ctx) : (updCtx s ctx f).tiles = s.tiles := rfl
@[simp] theorem updCtx_tileAdds (s : State) (ctx : Nat) (f : Ctx → Ctx) : (updCtx s ctx f).tileAdds = s.tileAdds := rfl
@[simp] theorem updCtx_flushing (s : State) (ctx : Nat) (f : Ctx → Ctx) : (updCtx s ctx f).flushing = s.flushing := rfl
@[simp] theorem updCtx_cmdEnds (s : State) (ctx : Nat) (f : Ctx → Ctx) : (updCtx s ctx f).cmdEnds = s.cmdEnds := rfl
@[simp] theorem updCtx_engines (s : State) (ctx : Nat) (f : Ctx → Ctx) : (updCtx s ctx f).engines = s.engines := rfl
@[simp] theorem updCtx_pairReds (s : State) (ctx : Nat) (f : Ctx → Ctx) : (updCtx s ctx f).pairReds = s.pairReds := rfl
@[simp] theorem updCtx_quads (s : State) (ctx : Nat) (f : Ctx → Ctx) : (updCtx s ctx f).quads = s.quads := rfl
@[simp] theorem updCtx_images (s : State) (ctx : Nat) (f : Ctx → Ctx) : (updCtx s ctx f).images = s.images := rfl
@[simp] theorem updCtx_grids (s : State) (ctx : Nat) (f : Ctx → Ctx) : (updCtx s ctx f).grids = s.grids := rfl
@[simp] theorem updCtx_served (s : State) (ctx : Nat) (f : Ctx → Ctx) : (updCtx s ctx f).served = s.served := rfl
@[simp] theorem updCtx_window (s : State) (ctx : Nat) (f : Ctx → Ctx) : (updCtx s ctx f).window = s.window := rfl
@[simp] theorem updCtx_runs (s : State) (ctx : Nat) (f : Ctx → Ctx) : (updCtx s ctx f).runs = s.runs := rfl
@[simp] theorem updCtx_logWait (s : State) (ctx : Nat) (f : Ctx → Ctx) : (updCtx s ctx f).logWait = s.logWait := rfl
@[simp] theorem updCtx_nextId (s : State) (ctx : Nat) (f : Ctx → Ctx) : (updCtx s ctx f).nextId = s.nextId := rfl
@[simp] theorem updCtx_draws (s : State) (ctx : Nat) (f : Ctx → Ctx) : (updCtx s ctx f).draws = s.draws := rfl
@[simp] theorem updCtx_sched (s : State) (ctx : Nat) (f : Ctx → Ctx) : (updCtx s ctx f).sched = s.sched := rfl

/-! ## `putBar` -/

@[simp] theorem putBar_isW (s : State) (off : Nat) (v : Word) : (putBar s off v).isW = s.isW := rfl
@[simp] theorem putBar_devId (s : State) (off : Nat) (v : Word) : (putBar s off v).devId = s.devId := rfl
@[simp] theorem putBar_mode (s : State) (off : Nat) (v : Word) : (putBar s off v).mode = s.mode := rfl
@[simp] theorem putBar_ready (s : State) (off : Nat) (v : Word) : (putBar s off v).ready = s.ready := rfl
@[simp] theorem putBar_failRec (s : State) (off : Nat) (v : Word) : (putBar s off v).failRec = s.failRec := rfl
@[simp] theorem putBar_sideband (s : State) (off : Nat) (v : Word) : (putBar s off v).sideband = s.sideband := rfl
@[simp] theorem putBar_verified (s : State) (off : Nat) (v : Word) : (putBar s off v).verified = s.verified := rfl
@[simp] theorem putBar_report (s : State) (off : Nat) (v : Word) : (putBar s off v).report = s.report := rfl
@[simp] theorem putBar_twinUp (s : State) (off : Nat) (v : Word) : (putBar s off v).twinUp = s.twinUp := rfl
@[simp] theorem putBar_twinFailed (s : State) (off : Nat) (v : Word) : (putBar s off v).twinFailed = s.twinFailed := rfl
@[simp] theorem putBar_mhz (s : State) (off : Nat) (v : Word) : (putBar s off v).mhz = s.mhz := rfl
@[simp] theorem putBar_clock (s : State) (off : Nat) (v : Word) : (putBar s off v).clock = s.clock := rfl
@[simp] theorem putBar_refUnits (s : State) (off : Nat) (v : Word) : (putBar s off v).refUnits = s.refUnits := rfl
@[simp] theorem putBar_bar (s : State) (off : Nat) (v : Word) : (putBar s off v).bar = tput s.bar (off / 4) v := rfl
@[simp] theorem putBar_irqs (s : State) (off : Nat) (v : Word) : (putBar s off v).irqs = s.irqs := rfl
@[simp] theorem putBar_mem (s : State) (off : Nat) (v : Word) : (putBar s off v).mem = s.mem := rfl
@[simp] theorem putBar_memPoison (s : State) (off : Nat) (v : Word) : (putBar s off v).memPoison = s.memPoison := rfl
@[simp] theorem putBar_homes (s : State) (off : Nat) (v : Word) : (putBar s off v).homes = s.homes := rfl
@[simp] theorem putBar_l2 (s : State) (off : Nat) (v : Word) : (putBar s off v).l2 = s.l2 := rfl
@[simp] theorem putBar_l2Wait (s : State) (off : Nat) (v : Word) : (putBar s off v).l2Wait = s.l2Wait := rfl
@[simp] theorem putBar_l2Evict (s : State) (off : Nat) (v : Word) : (putBar s off v).l2Evict = s.l2Evict := rfl
@[simp] theorem putBar_stamps (s : State) (off : Nat) (v : Word) : (putBar s off v).stamps = s.stamps := rfl
@[simp] theorem putBar_l1 (s : State) (off : Nat) (v : Word) : (putBar s off v).l1 = s.l1 := rfl
@[simp] theorem putBar_holding (s : State) (off : Nat) (v : Word) : (putBar s off v).holding = s.holding := rfl
@[simp] theorem putBar_rdc (s : State) (off : Nat) (v : Word) : (putBar s off v).rdc = s.rdc := rfl
@[simp] theorem putBar_hostLines (s : State) (off : Nat) (v : Word) : (putBar s off v).hostLines = s.hostLines := rfl
@[simp] theorem putBar_msgs (s : State) (off : Nat) (v : Word) : (putBar s off v).msgs = s.msgs := rfl
@[simp] theorem putBar_msgSeq (s : State) (off : Nat) (v : Word) : (putBar s off v).msgSeq = s.msgSeq := rfl
@[simp] theorem putBar_coreTlb (s : State) (off : Nat) (v : Word) : (putBar s off v).coreTlb = s.coreTlb := rfl
@[simp] theorem putBar_hamletTlb (s : State) (off : Nat) (v : Word) : (putBar s off v).hamletTlb = s.hamletTlb := rfl
@[simp] theorem putBar_devTlb (s : State) (off : Nat) (v : Word) : (putBar s off v).devTlb = s.devTlb := rfl
@[simp] theorem putBar_aheadTlb (s : State) (off : Nat) (v : Word) : (putBar s off v).aheadTlb = s.aheadTlb := rfl
@[simp] theorem putBar_walkQ (s : State) (off : Nat) (v : Word) : (putBar s off v).walkQ = s.walkQ := rfl
@[simp] theorem putBar_walking (s : State) (off : Nat) (v : Word) : (putBar s off v).walking = s.walking := rfl
@[simp] theorem putBar_walkFails (s : State) (off : Nat) (v : Word) : (putBar s off v).walkFails = s.walkFails := rfl
@[simp] theorem putBar_invals (s : State) (off : Nat) (v : Word) : (putBar s off v).invals = s.invals := rfl
@[simp] theorem putBar_bias (s : State) (off : Nat) (v : Word) : (putBar s off v).bias = s.bias := rfl
@[simp] theorem putBar_biasWait (s : State) (off : Nat) (v : Word) : (putBar s off v).biasWait = s.biasWait := rfl
@[simp] theorem putBar_biasHeld (s : State) (off : Nat) (v : Word) : (putBar s off v).biasHeld = s.biasHeld := rfl
@[simp] theorem putBar_storers (s : State) (off : Nat) (v : Word) : (putBar s off v).storers = s.storers := rfl
@[simp] theorem putBar_placers (s : State) (off : Nat) (v : Word) : (putBar s off v).placers = s.placers := rfl
@[simp] theorem putBar_twinAtoms (s : State) (off : Nat) (v : Word) : (putBar s off v).twinAtoms = s.twinAtoms := rfl
@[simp] theorem putBar_twinOps (s : State) (off : Nat) (v : Word) : (putBar s off v).twinOps = s.twinOps := rfl
@[simp] theorem putBar_hostRead (s : State) (off : Nat) (v : Word) : (putBar s off v).hostRead = s.hostRead := rfl
@[simp] theorem putBar_cmds (s : State) (off : Nat) (v : Word) : (putBar s off v).cmds = s.cmds := rfl
@[simp] theorem putBar_events (s : State) (off : Nat) (v : Word) : (putBar s off v).events = s.events := rfl
@[simp] theorem putBar_ctxs (s : State) (off : Nat) (v : Word) : (putBar s off v).ctxs = s.ctxs := rfl
@[simp] theorem putBar_groups (s : State) (off : Nat) (v : Word) : (putBar s off v).groups = s.groups := rfl
@[simp] theorem putBar_ahead (s : State) (off : Nat) (v : Word) : (putBar s off v).ahead = s.ahead := rfl
@[simp] theorem putBar_teams (s : State) (off : Nat) (v : Word) : (putBar s off v).teams = s.teams := rfl
@[simp] theorem putBar_nextTeam (s : State) (off : Nat) (v : Word) : (putBar s off v).nextTeam = s.nextTeam := rfl
@[simp] theorem putBar_cur (s : State) (off : Nat) (v : Word) : (putBar s off v).cur = s.cur := rfl
@[simp] theorem putBar_syncTab (s : State) (off : Nat) (v : Word) : (putBar s off v).syncTab = s.syncTab := rfl
@[simp] theorem putBar_syncOps (s : State) (off : Nat) (v : Word) : (putBar s off v).syncOps = s.syncOps := rfl
@[simp] theorem putBar_frontier (s : State) (off : Nat) (v : Word) : (putBar s off v).frontier = s.frontier := rfl
@[simp] theorem putBar_reds (s : State) (off : Nat) (v : Word) : (putBar s off v).reds = s.reds := rfl
@[simp] theorem putBar_rays (s : State) (off : Nat) (v : Word) : (putBar s off v).rays = s.rays := rfl
@[simp] theorem putBar_bins (s : State) (off : Nat) (v : Word) : (putBar s off v).bins = s.bins := rfl
@[simp] theorem putBar_treelets (s : State) (off : Nat) (v : Word) : (putBar s off v).treelets = s.treelets := rfl
@[simp] theorem putBar_tiles (s : State) (off : Nat) (v : Word) : (putBar s off v).tiles = s.tiles := rfl
@[simp] theorem putBar_tileAdds (s : State) (off : Nat) (v : Word) : (putBar s off v).tileAdds = s.tileAdds := rfl
@[simp] theorem putBar_flushing (s : State) (off : Nat) (v : Word) : (putBar s off v).flushing = s.flushing := rfl
@[simp] theorem putBar_cmdEnds (s : State) (off : Nat) (v : Word) : (putBar s off v).cmdEnds = s.cmdEnds := rfl
@[simp] theorem putBar_engines (s : State) (off : Nat) (v : Word) : (putBar s off v).engines = s.engines := rfl
@[simp] theorem putBar_pairReds (s : State) (off : Nat) (v : Word) : (putBar s off v).pairReds = s.pairReds := rfl
@[simp] theorem putBar_quads (s : State) (off : Nat) (v : Word) : (putBar s off v).quads = s.quads := rfl
@[simp] theorem putBar_images (s : State) (off : Nat) (v : Word) : (putBar s off v).images = s.images := rfl
@[simp] theorem putBar_grids (s : State) (off : Nat) (v : Word) : (putBar s off v).grids = s.grids := rfl
@[simp] theorem putBar_served (s : State) (off : Nat) (v : Word) : (putBar s off v).served = s.served := rfl
@[simp] theorem putBar_window (s : State) (off : Nat) (v : Word) : (putBar s off v).window = s.window := rfl
@[simp] theorem putBar_runs (s : State) (off : Nat) (v : Word) : (putBar s off v).runs = s.runs := rfl
@[simp] theorem putBar_logWait (s : State) (off : Nat) (v : Word) : (putBar s off v).logWait = s.logWait := rfl
@[simp] theorem putBar_nextId (s : State) (off : Nat) (v : Word) : (putBar s off v).nextId = s.nextId := rfl
@[simp] theorem putBar_draws (s : State) (off : Nat) (v : Word) : (putBar s off v).draws = s.draws := rfl
@[simp] theorem putBar_sched (s : State) (off : Nat) (v : Word) : (putBar s off v).sched = s.sched := rfl

/-! ## `report` -/

@[simp] theorem report_isW (s : State) (r : Report) : (report s r).isW = s.isW := rfl
@[simp] theorem report_devId (s : State) (r : Report) : (report s r).devId = s.devId := rfl
@[simp] theorem report_mode (s : State) (r : Report) : (report s r).mode = s.mode := rfl
@[simp] theorem report_ready (s : State) (r : Report) : (report s r).ready = s.ready := rfl
@[simp] theorem report_failRec (s : State) (r : Report) : (report s r).failRec = s.failRec := rfl
@[simp] theorem report_sideband (s : State) (r : Report) : (report s r).sideband = s.sideband := rfl
@[simp] theorem report_verified (s : State) (r : Report) : (report s r).verified = s.verified := rfl
@[simp] theorem report_report (s : State) (r : Report) : (report s r).report = s.report := rfl
@[simp] theorem report_twinUp (s : State) (r : Report) : (report s r).twinUp = s.twinUp := rfl
@[simp] theorem report_twinFailed (s : State) (r : Report) : (report s r).twinFailed = s.twinFailed := rfl
@[simp] theorem report_mhz (s : State) (r : Report) : (report s r).mhz = s.mhz := rfl
@[simp] theorem report_clock (s : State) (r : Report) : (report s r).clock = s.clock := rfl
@[simp] theorem report_refUnits (s : State) (r : Report) : (report s r).refUnits = s.refUnits := rfl
@[simp] theorem report_bar (s : State) (r : Report) : (report s r).bar = s.bar := rfl
@[simp] theorem report_irqs (s : State) (r : Report) : (report s r).irqs = s.irqs := rfl
@[simp] theorem report_mem (s : State) (r : Report) : (report s r).mem = s.mem := rfl
@[simp] theorem report_memPoison (s : State) (r : Report) : (report s r).memPoison = s.memPoison := rfl
@[simp] theorem report_homes (s : State) (r : Report) : (report s r).homes = s.homes := rfl
@[simp] theorem report_l2 (s : State) (r : Report) : (report s r).l2 = s.l2 := rfl
@[simp] theorem report_l2Wait (s : State) (r : Report) : (report s r).l2Wait = s.l2Wait := rfl
@[simp] theorem report_l2Evict (s : State) (r : Report) : (report s r).l2Evict = s.l2Evict := rfl
@[simp] theorem report_stamps (s : State) (r : Report) : (report s r).stamps = s.stamps := rfl
@[simp] theorem report_l1 (s : State) (r : Report) : (report s r).l1 = s.l1 := rfl
@[simp] theorem report_holding (s : State) (r : Report) : (report s r).holding = s.holding := rfl
@[simp] theorem report_rdc (s : State) (r : Report) : (report s r).rdc = s.rdc := rfl
@[simp] theorem report_hostLines (s : State) (r : Report) : (report s r).hostLines = s.hostLines := rfl
@[simp] theorem report_msgs (s : State) (r : Report) : (report s r).msgs = s.msgs := rfl
@[simp] theorem report_msgSeq (s : State) (r : Report) : (report s r).msgSeq = s.msgSeq := rfl
@[simp] theorem report_coreTlb (s : State) (r : Report) : (report s r).coreTlb = s.coreTlb := rfl
@[simp] theorem report_hamletTlb (s : State) (r : Report) : (report s r).hamletTlb = s.hamletTlb := rfl
@[simp] theorem report_devTlb (s : State) (r : Report) : (report s r).devTlb = s.devTlb := rfl
@[simp] theorem report_aheadTlb (s : State) (r : Report) : (report s r).aheadTlb = s.aheadTlb := rfl
@[simp] theorem report_walkQ (s : State) (r : Report) : (report s r).walkQ = s.walkQ := rfl
@[simp] theorem report_walking (s : State) (r : Report) : (report s r).walking = s.walking := rfl
@[simp] theorem report_walkFails (s : State) (r : Report) : (report s r).walkFails = s.walkFails := rfl
@[simp] theorem report_invals (s : State) (r : Report) : (report s r).invals = s.invals := rfl
@[simp] theorem report_bias (s : State) (r : Report) : (report s r).bias = s.bias := rfl
@[simp] theorem report_biasWait (s : State) (r : Report) : (report s r).biasWait = s.biasWait := rfl
@[simp] theorem report_biasHeld (s : State) (r : Report) : (report s r).biasHeld = s.biasHeld := rfl
@[simp] theorem report_storers (s : State) (r : Report) : (report s r).storers = s.storers := rfl
@[simp] theorem report_placers (s : State) (r : Report) : (report s r).placers = s.placers := rfl
@[simp] theorem report_twinAtoms (s : State) (r : Report) : (report s r).twinAtoms = s.twinAtoms := rfl
@[simp] theorem report_twinOps (s : State) (r : Report) : (report s r).twinOps = s.twinOps := rfl
@[simp] theorem report_hostRead (s : State) (r : Report) : (report s r).hostRead = s.hostRead := rfl
@[simp] theorem report_cmds (s : State) (r : Report) : (report s r).cmds = s.cmds := rfl
@[simp] theorem report_events (s : State) (r : Report) :
    (report s r).events = tupd s.events r.core [] fun es => mergeEvent es r := rfl
@[simp] theorem report_ctxs (s : State) (r : Report) : (report s r).ctxs = s.ctxs := rfl
@[simp] theorem report_groups (s : State) (r : Report) : (report s r).groups = s.groups := rfl
@[simp] theorem report_ahead (s : State) (r : Report) : (report s r).ahead = s.ahead := rfl
@[simp] theorem report_teams (s : State) (r : Report) : (report s r).teams = s.teams := rfl
@[simp] theorem report_nextTeam (s : State) (r : Report) : (report s r).nextTeam = s.nextTeam := rfl
@[simp] theorem report_cur (s : State) (r : Report) : (report s r).cur = s.cur := rfl
@[simp] theorem report_syncTab (s : State) (r : Report) : (report s r).syncTab = s.syncTab := rfl
@[simp] theorem report_syncOps (s : State) (r : Report) : (report s r).syncOps = s.syncOps := rfl
@[simp] theorem report_frontier (s : State) (r : Report) : (report s r).frontier = s.frontier := rfl
@[simp] theorem report_reds (s : State) (r : Report) : (report s r).reds = s.reds := rfl
@[simp] theorem report_rays (s : State) (r : Report) : (report s r).rays = s.rays := rfl
@[simp] theorem report_bins (s : State) (r : Report) : (report s r).bins = s.bins := rfl
@[simp] theorem report_treelets (s : State) (r : Report) : (report s r).treelets = s.treelets := rfl
@[simp] theorem report_tiles (s : State) (r : Report) : (report s r).tiles = s.tiles := rfl
@[simp] theorem report_tileAdds (s : State) (r : Report) : (report s r).tileAdds = s.tileAdds := rfl
@[simp] theorem report_flushing (s : State) (r : Report) : (report s r).flushing = s.flushing := rfl
@[simp] theorem report_cmdEnds (s : State) (r : Report) : (report s r).cmdEnds = s.cmdEnds := rfl
@[simp] theorem report_engines (s : State) (r : Report) : (report s r).engines = s.engines := rfl
@[simp] theorem report_pairReds (s : State) (r : Report) : (report s r).pairReds = s.pairReds := rfl
@[simp] theorem report_quads (s : State) (r : Report) : (report s r).quads = s.quads := rfl
@[simp] theorem report_images (s : State) (r : Report) : (report s r).images = s.images := rfl
@[simp] theorem report_grids (s : State) (r : Report) : (report s r).grids = s.grids := rfl
@[simp] theorem report_served (s : State) (r : Report) : (report s r).served = s.served := rfl
@[simp] theorem report_window (s : State) (r : Report) : (report s r).window = s.window := rfl
@[simp] theorem report_runs (s : State) (r : Report) : (report s r).runs = s.runs := rfl
@[simp] theorem report_logWait (s : State) (r : Report) : (report s r).logWait = s.logWait := rfl
@[simp] theorem report_nextId (s : State) (r : Report) : (report s r).nextId = s.nextId := rfl
@[simp] theorem report_draws (s : State) (r : Report) : (report s r).draws = s.draws := rfl
@[simp] theorem report_sched (s : State) (r : Report) : (report s r).sched = s.sched := rfl

/-! ## `putHomeWord` -/

/-- A recall of words only sends messages. -/
theorem recallWords_frame (s : State) (ws : List Nat) :
    ∃ ms n, recallWords s ws = { s with msgs := ms, msgSeq := n } := by
  have inner : ∀ (ls : List (Nat × List Nat)) (o : Agent) (s : State), ∃ ms n,
      ls.foldl (fun s l => send s { kind := .rcl, src := homeAgent l.1, dst := o, addr := l.1, who := o, words := l.2 }) s =
        { s with msgs := ms, msgSeq := n } := by
    intro ls
    induction ls with
    | nil => exact fun _ s => ⟨s.msgs, s.msgSeq, rfl⟩
    | cons l ls ih =>
      intro o s
      obtain ⟨ms, n, h⟩ := ih o (send s { kind := .rcl, src := homeAgent l.1, dst := o, addr := l.1, who := o, words := l.2 })
      exact ⟨ms, n, by rw [List.foldl_cons, h]; rfl⟩
  unfold recallWords
  simp only
  generalize ownersOf s _ = os
  revert s
  induction os with
  | nil => exact fun s => ⟨s.msgs, s.msgSeq, rfl⟩
  | cons o os ih =>
    intro s
    obtain ⟨ms, n, h⟩ := inner (byLine o.2) o.1 s
    obtain ⟨ms', n', h'⟩ := ih { s with msgs := ms, msgSeq := n }
    exact ⟨ms', n', by rw [List.foldl_cons, h, h']⟩

/-- Settling a line changes the slots of the L2, the evictions under way, and what their recalls send. -/
theorem settleLine_frame (s : State) (line : Nat) :
    ∃ l2 ev ms n, settleLine s line = { s with l2 := l2, l2Evict := ev, msgs := ms, msgSeq := n } := by
  unfold settleLine
  simp only
  split
  · exact ⟨_, s.l2Evict, s.msgs, s.msgSeq, rfl⟩
  · split
    · rename_i slot _
      obtain ⟨ms, n, h⟩ := recallWords_frame
        { s with l2 := settledSlots s line, l2Evict := (slot ++ s.l2Evict).dedup } (slot.flatMap lineWords)
      exact ⟨_, _, ms, n, h⟩
    · exact ⟨_, s.l2Evict, s.msgs, s.msgSeq, rfl⟩

/-- A write of a word at its home changes memory and its marks, and settles the line. -/
theorem putHomeWord_frame (s : State) (w : Nat) (mask : BitVec 4) (v : Word) (poison : Bool) :
    ∃ l2 ev ms n, putHomeWord s w mask v poison = { s with
      mem := memPutWord s.mem w mask v
      memPoison := if poison || (mask ≠ 0xF && tget s.memPoison w false) then tput s.memPoison w true else tdel s.memPoison w
      l2 := l2, l2Evict := ev, msgs := ms, msgSeq := n } := by
  obtain ⟨l2, ev, ms, n, h⟩ := settleLine_frame { s with
      mem := memPutWord s.mem w mask v
      memPoison := if poison || (mask ≠ 0xF && tget s.memPoison w false) then tput s.memPoison w true else tdel s.memPoison w }
    (lineBase w)
  exact ⟨l2, ev, ms, n, h⟩

@[simp] theorem putHomeWord_isW (s : State) (w : Nat) (mask : BitVec 4) (v : Word) (poison : Bool) :
    (putHomeWord s w mask v poison).isW = s.isW := by
  obtain ⟨_, _, _, _, h⟩ := putHomeWord_frame s w mask v poison; rw [h]
@[simp] theorem putHomeWord_devId (s : State) (w : Nat) (mask : BitVec 4) (v : Word) (poison : Bool) :
    (putHomeWord s w mask v poison).devId = s.devId := by
  obtain ⟨_, _, _, _, h⟩ := putHomeWord_frame s w mask v poison; rw [h]
@[simp] theorem putHomeWord_mode (s : State) (w : Nat) (mask : BitVec 4) (v : Word) (poison : Bool) :
    (putHomeWord s w mask v poison).mode = s.mode := by
  obtain ⟨_, _, _, _, h⟩ := putHomeWord_frame s w mask v poison; rw [h]
@[simp] theorem putHomeWord_ready (s : State) (w : Nat) (mask : BitVec 4) (v : Word) (poison : Bool) :
    (putHomeWord s w mask v poison).ready = s.ready := by
  obtain ⟨_, _, _, _, h⟩ := putHomeWord_frame s w mask v poison; rw [h]
@[simp] theorem putHomeWord_failRec (s : State) (w : Nat) (mask : BitVec 4) (v : Word) (poison : Bool) :
    (putHomeWord s w mask v poison).failRec = s.failRec := by
  obtain ⟨_, _, _, _, h⟩ := putHomeWord_frame s w mask v poison; rw [h]
@[simp] theorem putHomeWord_sideband (s : State) (w : Nat) (mask : BitVec 4) (v : Word) (poison : Bool) :
    (putHomeWord s w mask v poison).sideband = s.sideband := by
  obtain ⟨_, _, _, _, h⟩ := putHomeWord_frame s w mask v poison; rw [h]
@[simp] theorem putHomeWord_verified (s : State) (w : Nat) (mask : BitVec 4) (v : Word) (poison : Bool) :
    (putHomeWord s w mask v poison).verified = s.verified := by
  obtain ⟨_, _, _, _, h⟩ := putHomeWord_frame s w mask v poison; rw [h]
@[simp] theorem putHomeWord_report (s : State) (w : Nat) (mask : BitVec 4) (v : Word) (poison : Bool) :
    (putHomeWord s w mask v poison).report = s.report := by
  obtain ⟨_, _, _, _, h⟩ := putHomeWord_frame s w mask v poison; rw [h]
@[simp] theorem putHomeWord_twinUp (s : State) (w : Nat) (mask : BitVec 4) (v : Word) (poison : Bool) :
    (putHomeWord s w mask v poison).twinUp = s.twinUp := by
  obtain ⟨_, _, _, _, h⟩ := putHomeWord_frame s w mask v poison; rw [h]
@[simp] theorem putHomeWord_twinFailed (s : State) (w : Nat) (mask : BitVec 4) (v : Word) (poison : Bool) :
    (putHomeWord s w mask v poison).twinFailed = s.twinFailed := by
  obtain ⟨_, _, _, _, h⟩ := putHomeWord_frame s w mask v poison; rw [h]
@[simp] theorem putHomeWord_mhz (s : State) (w : Nat) (mask : BitVec 4) (v : Word) (poison : Bool) :
    (putHomeWord s w mask v poison).mhz = s.mhz := by
  obtain ⟨_, _, _, _, h⟩ := putHomeWord_frame s w mask v poison; rw [h]
@[simp] theorem putHomeWord_clock (s : State) (w : Nat) (mask : BitVec 4) (v : Word) (poison : Bool) :
    (putHomeWord s w mask v poison).clock = s.clock := by
  obtain ⟨_, _, _, _, h⟩ := putHomeWord_frame s w mask v poison; rw [h]
@[simp] theorem putHomeWord_refUnits (s : State) (w : Nat) (mask : BitVec 4) (v : Word) (poison : Bool) :
    (putHomeWord s w mask v poison).refUnits = s.refUnits := by
  obtain ⟨_, _, _, _, h⟩ := putHomeWord_frame s w mask v poison; rw [h]
@[simp] theorem putHomeWord_bar (s : State) (w : Nat) (mask : BitVec 4) (v : Word) (poison : Bool) :
    (putHomeWord s w mask v poison).bar = s.bar := by
  obtain ⟨_, _, _, _, h⟩ := putHomeWord_frame s w mask v poison; rw [h]
@[simp] theorem putHomeWord_irqs (s : State) (w : Nat) (mask : BitVec 4) (v : Word) (poison : Bool) :
    (putHomeWord s w mask v poison).irqs = s.irqs := by
  obtain ⟨_, _, _, _, h⟩ := putHomeWord_frame s w mask v poison; rw [h]
@[simp] theorem putHomeWord_mem (s : State) (w : Nat) (mask : BitVec 4) (v : Word) (poison : Bool) :
    (putHomeWord s w mask v poison).mem = memPutWord s.mem w mask v := by
  obtain ⟨_, _, _, _, h⟩ := putHomeWord_frame s w mask v poison; rw [h]
@[simp] theorem putHomeWord_memPoison (s : State) (w : Nat) (mask : BitVec 4) (v : Word) (poison : Bool) :
    (putHomeWord s w mask v poison).memPoison = if poison || (mask ≠ 0xF && tget s.memPoison w false) then tput s.memPoison w true else tdel s.memPoison w := by
  obtain ⟨_, _, _, _, h⟩ := putHomeWord_frame s w mask v poison; rw [h]
@[simp] theorem putHomeWord_homes (s : State) (w : Nat) (mask : BitVec 4) (v : Word) (poison : Bool) :
    (putHomeWord s w mask v poison).homes = s.homes := by
  obtain ⟨_, _, _, _, h⟩ := putHomeWord_frame s w mask v poison; rw [h]
@[simp] theorem putHomeWord_l2Wait (s : State) (w : Nat) (mask : BitVec 4) (v : Word) (poison : Bool) :
    (putHomeWord s w mask v poison).l2Wait = s.l2Wait := by
  obtain ⟨_, _, _, _, h⟩ := putHomeWord_frame s w mask v poison; rw [h]
@[simp] theorem putHomeWord_stamps (s : State) (w : Nat) (mask : BitVec 4) (v : Word) (poison : Bool) :
    (putHomeWord s w mask v poison).stamps = s.stamps := by
  obtain ⟨_, _, _, _, h⟩ := putHomeWord_frame s w mask v poison; rw [h]
@[simp] theorem putHomeWord_l1 (s : State) (w : Nat) (mask : BitVec 4) (v : Word) (poison : Bool) :
    (putHomeWord s w mask v poison).l1 = s.l1 := by
  obtain ⟨_, _, _, _, h⟩ := putHomeWord_frame s w mask v poison; rw [h]
@[simp] theorem putHomeWord_holding (s : State) (w : Nat) (mask : BitVec 4) (v : Word) (poison : Bool) :
    (putHomeWord s w mask v poison).holding = s.holding := by
  obtain ⟨_, _, _, _, h⟩ := putHomeWord_frame s w mask v poison; rw [h]
@[simp] theorem putHomeWord_rdc (s : State) (w : Nat) (mask : BitVec 4) (v : Word) (poison : Bool) :
    (putHomeWord s w mask v poison).rdc = s.rdc := by
  obtain ⟨_, _, _, _, h⟩ := putHomeWord_frame s w mask v poison; rw [h]
@[simp] theorem putHomeWord_hostLines (s : State) (w : Nat) (mask : BitVec 4) (v : Word) (poison : Bool) :
    (putHomeWord s w mask v poison).hostLines = s.hostLines := by
  obtain ⟨_, _, _, _, h⟩ := putHomeWord_frame s w mask v poison; rw [h]
@[simp] theorem putHomeWord_coreTlb (s : State) (w : Nat) (mask : BitVec 4) (v : Word) (poison : Bool) :
    (putHomeWord s w mask v poison).coreTlb = s.coreTlb := by
  obtain ⟨_, _, _, _, h⟩ := putHomeWord_frame s w mask v poison; rw [h]
@[simp] theorem putHomeWord_hamletTlb (s : State) (w : Nat) (mask : BitVec 4) (v : Word) (poison : Bool) :
    (putHomeWord s w mask v poison).hamletTlb = s.hamletTlb := by
  obtain ⟨_, _, _, _, h⟩ := putHomeWord_frame s w mask v poison; rw [h]
@[simp] theorem putHomeWord_devTlb (s : State) (w : Nat) (mask : BitVec 4) (v : Word) (poison : Bool) :
    (putHomeWord s w mask v poison).devTlb = s.devTlb := by
  obtain ⟨_, _, _, _, h⟩ := putHomeWord_frame s w mask v poison; rw [h]
@[simp] theorem putHomeWord_aheadTlb (s : State) (w : Nat) (mask : BitVec 4) (v : Word) (poison : Bool) :
    (putHomeWord s w mask v poison).aheadTlb = s.aheadTlb := by
  obtain ⟨_, _, _, _, h⟩ := putHomeWord_frame s w mask v poison; rw [h]
@[simp] theorem putHomeWord_walkQ (s : State) (w : Nat) (mask : BitVec 4) (v : Word) (poison : Bool) :
    (putHomeWord s w mask v poison).walkQ = s.walkQ := by
  obtain ⟨_, _, _, _, h⟩ := putHomeWord_frame s w mask v poison; rw [h]
@[simp] theorem putHomeWord_walking (s : State) (w : Nat) (mask : BitVec 4) (v : Word) (poison : Bool) :
    (putHomeWord s w mask v poison).walking = s.walking := by
  obtain ⟨_, _, _, _, h⟩ := putHomeWord_frame s w mask v poison; rw [h]
@[simp] theorem putHomeWord_walkFails (s : State) (w : Nat) (mask : BitVec 4) (v : Word) (poison : Bool) :
    (putHomeWord s w mask v poison).walkFails = s.walkFails := by
  obtain ⟨_, _, _, _, h⟩ := putHomeWord_frame s w mask v poison; rw [h]
@[simp] theorem putHomeWord_invals (s : State) (w : Nat) (mask : BitVec 4) (v : Word) (poison : Bool) :
    (putHomeWord s w mask v poison).invals = s.invals := by
  obtain ⟨_, _, _, _, h⟩ := putHomeWord_frame s w mask v poison; rw [h]
@[simp] theorem putHomeWord_bias (s : State) (w : Nat) (mask : BitVec 4) (v : Word) (poison : Bool) :
    (putHomeWord s w mask v poison).bias = s.bias := by
  obtain ⟨_, _, _, _, h⟩ := putHomeWord_frame s w mask v poison; rw [h]
@[simp] theorem putHomeWord_biasWait (s : State) (w : Nat) (mask : BitVec 4) (v : Word) (poison : Bool) :
    (putHomeWord s w mask v poison).biasWait = s.biasWait := by
  obtain ⟨_, _, _, _, h⟩ := putHomeWord_frame s w mask v poison; rw [h]
@[simp] theorem putHomeWord_biasHeld (s : State) (w : Nat) (mask : BitVec 4) (v : Word) (poison : Bool) :
    (putHomeWord s w mask v poison).biasHeld = s.biasHeld := by
  obtain ⟨_, _, _, _, h⟩ := putHomeWord_frame s w mask v poison; rw [h]
@[simp] theorem putHomeWord_storers (s : State) (w : Nat) (mask : BitVec 4) (v : Word) (poison : Bool) :
    (putHomeWord s w mask v poison).storers = s.storers := by
  obtain ⟨_, _, _, _, h⟩ := putHomeWord_frame s w mask v poison; rw [h]
@[simp] theorem putHomeWord_placers (s : State) (w : Nat) (mask : BitVec 4) (v : Word) (poison : Bool) :
    (putHomeWord s w mask v poison).placers = s.placers := by
  obtain ⟨_, _, _, _, h⟩ := putHomeWord_frame s w mask v poison; rw [h]
@[simp] theorem putHomeWord_twinAtoms (s : State) (w : Nat) (mask : BitVec 4) (v : Word) (poison : Bool) :
    (putHomeWord s w mask v poison).twinAtoms = s.twinAtoms := by
  obtain ⟨_, _, _, _, h⟩ := putHomeWord_frame s w mask v poison; rw [h]
@[simp] theorem putHomeWord_twinOps (s : State) (w : Nat) (mask : BitVec 4) (v : Word) (poison : Bool) :
    (putHomeWord s w mask v poison).twinOps = s.twinOps := by
  obtain ⟨_, _, _, _, h⟩ := putHomeWord_frame s w mask v poison; rw [h]
@[simp] theorem putHomeWord_hostRead (s : State) (w : Nat) (mask : BitVec 4) (v : Word) (poison : Bool) :
    (putHomeWord s w mask v poison).hostRead = s.hostRead := by
  obtain ⟨_, _, _, _, h⟩ := putHomeWord_frame s w mask v poison; rw [h]
@[simp] theorem putHomeWord_cmds (s : State) (w : Nat) (mask : BitVec 4) (v : Word) (poison : Bool) :
    (putHomeWord s w mask v poison).cmds = s.cmds := by
  obtain ⟨_, _, _, _, h⟩ := putHomeWord_frame s w mask v poison; rw [h]
@[simp] theorem putHomeWord_events (s : State) (w : Nat) (mask : BitVec 4) (v : Word) (poison : Bool) :
    (putHomeWord s w mask v poison).events = s.events := by
  obtain ⟨_, _, _, _, h⟩ := putHomeWord_frame s w mask v poison; rw [h]
@[simp] theorem putHomeWord_ctxs (s : State) (w : Nat) (mask : BitVec 4) (v : Word) (poison : Bool) :
    (putHomeWord s w mask v poison).ctxs = s.ctxs := by
  obtain ⟨_, _, _, _, h⟩ := putHomeWord_frame s w mask v poison; rw [h]
@[simp] theorem putHomeWord_groups (s : State) (w : Nat) (mask : BitVec 4) (v : Word) (poison : Bool) :
    (putHomeWord s w mask v poison).groups = s.groups := by
  obtain ⟨_, _, _, _, h⟩ := putHomeWord_frame s w mask v poison; rw [h]
@[simp] theorem putHomeWord_ahead (s : State) (w : Nat) (mask : BitVec 4) (v : Word) (poison : Bool) :
    (putHomeWord s w mask v poison).ahead = s.ahead := by
  obtain ⟨_, _, _, _, h⟩ := putHomeWord_frame s w mask v poison; rw [h]
@[simp] theorem putHomeWord_teams (s : State) (w : Nat) (mask : BitVec 4) (v : Word) (poison : Bool) :
    (putHomeWord s w mask v poison).teams = s.teams := by
  obtain ⟨_, _, _, _, h⟩ := putHomeWord_frame s w mask v poison; rw [h]
@[simp] theorem putHomeWord_nextTeam (s : State) (w : Nat) (mask : BitVec 4) (v : Word) (poison : Bool) :
    (putHomeWord s w mask v poison).nextTeam = s.nextTeam := by
  obtain ⟨_, _, _, _, h⟩ := putHomeWord_frame s w mask v poison; rw [h]
@[simp] theorem putHomeWord_cur (s : State) (w : Nat) (mask : BitVec 4) (v : Word) (poison : Bool) :
    (putHomeWord s w mask v poison).cur = s.cur := by
  obtain ⟨_, _, _, _, h⟩ := putHomeWord_frame s w mask v poison; rw [h]
@[simp] theorem putHomeWord_syncTab (s : State) (w : Nat) (mask : BitVec 4) (v : Word) (poison : Bool) :
    (putHomeWord s w mask v poison).syncTab = s.syncTab := by
  obtain ⟨_, _, _, _, h⟩ := putHomeWord_frame s w mask v poison; rw [h]
@[simp] theorem putHomeWord_syncOps (s : State) (w : Nat) (mask : BitVec 4) (v : Word) (poison : Bool) :
    (putHomeWord s w mask v poison).syncOps = s.syncOps := by
  obtain ⟨_, _, _, _, h⟩ := putHomeWord_frame s w mask v poison; rw [h]
@[simp] theorem putHomeWord_frontier (s : State) (w : Nat) (mask : BitVec 4) (v : Word) (poison : Bool) :
    (putHomeWord s w mask v poison).frontier = s.frontier := by
  obtain ⟨_, _, _, _, h⟩ := putHomeWord_frame s w mask v poison; rw [h]
@[simp] theorem putHomeWord_reds (s : State) (w : Nat) (mask : BitVec 4) (v : Word) (poison : Bool) :
    (putHomeWord s w mask v poison).reds = s.reds := by
  obtain ⟨_, _, _, _, h⟩ := putHomeWord_frame s w mask v poison; rw [h]
@[simp] theorem putHomeWord_rays (s : State) (w : Nat) (mask : BitVec 4) (v : Word) (poison : Bool) :
    (putHomeWord s w mask v poison).rays = s.rays := by
  obtain ⟨_, _, _, _, h⟩ := putHomeWord_frame s w mask v poison; rw [h]
@[simp] theorem putHomeWord_bins (s : State) (w : Nat) (mask : BitVec 4) (v : Word) (poison : Bool) :
    (putHomeWord s w mask v poison).bins = s.bins := by
  obtain ⟨_, _, _, _, h⟩ := putHomeWord_frame s w mask v poison; rw [h]
@[simp] theorem putHomeWord_treelets (s : State) (w : Nat) (mask : BitVec 4) (v : Word) (poison : Bool) :
    (putHomeWord s w mask v poison).treelets = s.treelets := by
  obtain ⟨_, _, _, _, h⟩ := putHomeWord_frame s w mask v poison; rw [h]
@[simp] theorem putHomeWord_tiles (s : State) (w : Nat) (mask : BitVec 4) (v : Word) (poison : Bool) :
    (putHomeWord s w mask v poison).tiles = s.tiles := by
  obtain ⟨_, _, _, _, h⟩ := putHomeWord_frame s w mask v poison; rw [h]
@[simp] theorem putHomeWord_tileAdds (s : State) (w : Nat) (mask : BitVec 4) (v : Word) (poison : Bool) :
    (putHomeWord s w mask v poison).tileAdds = s.tileAdds := by
  obtain ⟨_, _, _, _, h⟩ := putHomeWord_frame s w mask v poison; rw [h]
@[simp] theorem putHomeWord_flushing (s : State) (w : Nat) (mask : BitVec 4) (v : Word) (poison : Bool) :
    (putHomeWord s w mask v poison).flushing = s.flushing := by
  obtain ⟨_, _, _, _, h⟩ := putHomeWord_frame s w mask v poison; rw [h]
@[simp] theorem putHomeWord_cmdEnds (s : State) (w : Nat) (mask : BitVec 4) (v : Word) (poison : Bool) :
    (putHomeWord s w mask v poison).cmdEnds = s.cmdEnds := by
  obtain ⟨_, _, _, _, h⟩ := putHomeWord_frame s w mask v poison; rw [h]
@[simp] theorem putHomeWord_engines (s : State) (w : Nat) (mask : BitVec 4) (v : Word) (poison : Bool) :
    (putHomeWord s w mask v poison).engines = s.engines := by
  obtain ⟨_, _, _, _, h⟩ := putHomeWord_frame s w mask v poison; rw [h]
@[simp] theorem putHomeWord_pairReds (s : State) (w : Nat) (mask : BitVec 4) (v : Word) (poison : Bool) :
    (putHomeWord s w mask v poison).pairReds = s.pairReds := by
  obtain ⟨_, _, _, _, h⟩ := putHomeWord_frame s w mask v poison; rw [h]
@[simp] theorem putHomeWord_quads (s : State) (w : Nat) (mask : BitVec 4) (v : Word) (poison : Bool) :
    (putHomeWord s w mask v poison).quads = s.quads := by
  obtain ⟨_, _, _, _, h⟩ := putHomeWord_frame s w mask v poison; rw [h]
@[simp] theorem putHomeWord_images (s : State) (w : Nat) (mask : BitVec 4) (v : Word) (poison : Bool) :
    (putHomeWord s w mask v poison).images = s.images := by
  obtain ⟨_, _, _, _, h⟩ := putHomeWord_frame s w mask v poison; rw [h]
@[simp] theorem putHomeWord_grids (s : State) (w : Nat) (mask : BitVec 4) (v : Word) (poison : Bool) :
    (putHomeWord s w mask v poison).grids = s.grids := by
  obtain ⟨_, _, _, _, h⟩ := putHomeWord_frame s w mask v poison; rw [h]
@[simp] theorem putHomeWord_served (s : State) (w : Nat) (mask : BitVec 4) (v : Word) (poison : Bool) :
    (putHomeWord s w mask v poison).served = s.served := by
  obtain ⟨_, _, _, _, h⟩ := putHomeWord_frame s w mask v poison; rw [h]
@[simp] theorem putHomeWord_window (s : State) (w : Nat) (mask : BitVec 4) (v : Word) (poison : Bool) :
    (putHomeWord s w mask v poison).window = s.window := by
  obtain ⟨_, _, _, _, h⟩ := putHomeWord_frame s w mask v poison; rw [h]
@[simp] theorem putHomeWord_runs (s : State) (w : Nat) (mask : BitVec 4) (v : Word) (poison : Bool) :
    (putHomeWord s w mask v poison).runs = s.runs := by
  obtain ⟨_, _, _, _, h⟩ := putHomeWord_frame s w mask v poison; rw [h]
@[simp] theorem putHomeWord_logWait (s : State) (w : Nat) (mask : BitVec 4) (v : Word) (poison : Bool) :
    (putHomeWord s w mask v poison).logWait = s.logWait := by
  obtain ⟨_, _, _, _, h⟩ := putHomeWord_frame s w mask v poison; rw [h]
@[simp] theorem putHomeWord_nextId (s : State) (w : Nat) (mask : BitVec 4) (v : Word) (poison : Bool) :
    (putHomeWord s w mask v poison).nextId = s.nextId := by
  obtain ⟨_, _, _, _, h⟩ := putHomeWord_frame s w mask v poison; rw [h]
@[simp] theorem putHomeWord_draws (s : State) (w : Nat) (mask : BitVec 4) (v : Word) (poison : Bool) :
    (putHomeWord s w mask v poison).draws = s.draws := by
  obtain ⟨_, _, _, _, h⟩ := putHomeWord_frame s w mask v poison; rw [h]
@[simp] theorem putHomeWord_sched (s : State) (w : Nat) (mask : BitVec 4) (v : Word) (poison : Bool) :
    (putHomeWord s w mask v poison).sched = s.sched := by
  obtain ⟨_, _, _, _, h⟩ := putHomeWord_frame s w mask v poison; rw [h]

/-! ## `setVal` -/

@[simp] theorem setVal_isW (s : State) (w : Nat) : (setVal s w).isW = s.isW := rfl
@[simp] theorem setVal_devId (s : State) (w : Nat) : (setVal s w).devId = s.devId := rfl
@[simp] theorem setVal_mode (s : State) (w : Nat) : (setVal s w).mode = s.mode := rfl
@[simp] theorem setVal_ready (s : State) (w : Nat) : (setVal s w).ready = s.ready := rfl
@[simp] theorem setVal_failRec (s : State) (w : Nat) : (setVal s w).failRec = s.failRec := rfl
@[simp] theorem setVal_sideband (s : State) (w : Nat) : (setVal s w).sideband = s.sideband := rfl
@[simp] theorem setVal_verified (s : State) (w : Nat) : (setVal s w).verified = s.verified := rfl
@[simp] theorem setVal_report (s : State) (w : Nat) : (setVal s w).report = s.report := rfl
@[simp] theorem setVal_twinUp (s : State) (w : Nat) : (setVal s w).twinUp = s.twinUp := rfl
@[simp] theorem setVal_twinFailed (s : State) (w : Nat) : (setVal s w).twinFailed = s.twinFailed := rfl
@[simp] theorem setVal_mhz (s : State) (w : Nat) : (setVal s w).mhz = s.mhz := rfl
@[simp] theorem setVal_clock (s : State) (w : Nat) : (setVal s w).clock = s.clock := rfl
@[simp] theorem setVal_refUnits (s : State) (w : Nat) : (setVal s w).refUnits = s.refUnits := rfl
@[simp] theorem setVal_bar (s : State) (w : Nat) : (setVal s w).bar = s.bar := rfl
@[simp] theorem setVal_irqs (s : State) (w : Nat) : (setVal s w).irqs = s.irqs := rfl
@[simp] theorem setVal_mem (s : State) (w : Nat) : (setVal s w).mem = s.mem := rfl
@[simp] theorem setVal_memPoison (s : State) (w : Nat) : (setVal s w).memPoison = s.memPoison := rfl
@[simp] theorem setVal_homes (s : State) (w : Nat) : (setVal s w).homes = tdel s.homes w := rfl
@[simp] theorem setVal_l2 (s : State) (w : Nat) : (setVal s w).l2 = s.l2 := rfl
@[simp] theorem setVal_l2Wait (s : State) (w : Nat) : (setVal s w).l2Wait = s.l2Wait := rfl
@[simp] theorem setVal_l2Evict (s : State) (w : Nat) : (setVal s w).l2Evict = s.l2Evict := rfl
@[simp] theorem setVal_stamps (s : State) (w : Nat) : (setVal s w).stamps = s.stamps := rfl
@[simp] theorem setVal_l1 (s : State) (w : Nat) : (setVal s w).l1 = s.l1 := rfl
@[simp] theorem setVal_holding (s : State) (w : Nat) : (setVal s w).holding = s.holding := rfl
@[simp] theorem setVal_rdc (s : State) (w : Nat) : (setVal s w).rdc = s.rdc := rfl
@[simp] theorem setVal_hostLines (s : State) (w : Nat) : (setVal s w).hostLines = s.hostLines := rfl
@[simp] theorem setVal_msgs (s : State) (w : Nat) : (setVal s w).msgs = s.msgs := rfl
@[simp] theorem setVal_msgSeq (s : State) (w : Nat) : (setVal s w).msgSeq = s.msgSeq := rfl
@[simp] theorem setVal_coreTlb (s : State) (w : Nat) : (setVal s w).coreTlb = s.coreTlb := rfl
@[simp] theorem setVal_hamletTlb (s : State) (w : Nat) : (setVal s w).hamletTlb = s.hamletTlb := rfl
@[simp] theorem setVal_devTlb (s : State) (w : Nat) : (setVal s w).devTlb = s.devTlb := rfl
@[simp] theorem setVal_aheadTlb (s : State) (w : Nat) : (setVal s w).aheadTlb = s.aheadTlb := rfl
@[simp] theorem setVal_walkQ (s : State) (w : Nat) : (setVal s w).walkQ = s.walkQ := rfl
@[simp] theorem setVal_walking (s : State) (w : Nat) : (setVal s w).walking = s.walking := rfl
@[simp] theorem setVal_walkFails (s : State) (w : Nat) : (setVal s w).walkFails = s.walkFails := rfl
@[simp] theorem setVal_invals (s : State) (w : Nat) : (setVal s w).invals = s.invals := rfl
@[simp] theorem setVal_bias (s : State) (w : Nat) : (setVal s w).bias = s.bias := rfl
@[simp] theorem setVal_biasWait (s : State) (w : Nat) : (setVal s w).biasWait = s.biasWait := rfl
@[simp] theorem setVal_biasHeld (s : State) (w : Nat) : (setVal s w).biasHeld = s.biasHeld := rfl
@[simp] theorem setVal_storers (s : State) (w : Nat) : (setVal s w).storers = s.storers := rfl
@[simp] theorem setVal_placers (s : State) (w : Nat) : (setVal s w).placers = s.placers := rfl
@[simp] theorem setVal_twinAtoms (s : State) (w : Nat) : (setVal s w).twinAtoms = s.twinAtoms := rfl
@[simp] theorem setVal_twinOps (s : State) (w : Nat) : (setVal s w).twinOps = s.twinOps := rfl
@[simp] theorem setVal_hostRead (s : State) (w : Nat) : (setVal s w).hostRead = s.hostRead := rfl
@[simp] theorem setVal_cmds (s : State) (w : Nat) : (setVal s w).cmds = s.cmds := rfl
@[simp] theorem setVal_events (s : State) (w : Nat) : (setVal s w).events = s.events := rfl
@[simp] theorem setVal_ctxs (s : State) (w : Nat) : (setVal s w).ctxs = s.ctxs := rfl
@[simp] theorem setVal_groups (s : State) (w : Nat) : (setVal s w).groups = s.groups := rfl
@[simp] theorem setVal_ahead (s : State) (w : Nat) : (setVal s w).ahead = s.ahead := rfl
@[simp] theorem setVal_teams (s : State) (w : Nat) : (setVal s w).teams = s.teams := rfl
@[simp] theorem setVal_nextTeam (s : State) (w : Nat) : (setVal s w).nextTeam = s.nextTeam := rfl
@[simp] theorem setVal_cur (s : State) (w : Nat) : (setVal s w).cur = s.cur := rfl
@[simp] theorem setVal_syncTab (s : State) (w : Nat) : (setVal s w).syncTab = s.syncTab := rfl
@[simp] theorem setVal_syncOps (s : State) (w : Nat) : (setVal s w).syncOps = s.syncOps := rfl
@[simp] theorem setVal_frontier (s : State) (w : Nat) : (setVal s w).frontier = s.frontier := rfl
@[simp] theorem setVal_reds (s : State) (w : Nat) : (setVal s w).reds = s.reds := rfl
@[simp] theorem setVal_rays (s : State) (w : Nat) : (setVal s w).rays = s.rays := rfl
@[simp] theorem setVal_bins (s : State) (w : Nat) : (setVal s w).bins = s.bins := rfl
@[simp] theorem setVal_treelets (s : State) (w : Nat) : (setVal s w).treelets = s.treelets := rfl
@[simp] theorem setVal_tiles (s : State) (w : Nat) : (setVal s w).tiles = s.tiles := rfl
@[simp] theorem setVal_tileAdds (s : State) (w : Nat) : (setVal s w).tileAdds = s.tileAdds := rfl
@[simp] theorem setVal_flushing (s : State) (w : Nat) : (setVal s w).flushing = s.flushing := rfl
@[simp] theorem setVal_cmdEnds (s : State) (w : Nat) : (setVal s w).cmdEnds = s.cmdEnds := rfl
@[simp] theorem setVal_engines (s : State) (w : Nat) : (setVal s w).engines = s.engines := rfl
@[simp] theorem setVal_pairReds (s : State) (w : Nat) : (setVal s w).pairReds = s.pairReds := rfl
@[simp] theorem setVal_quads (s : State) (w : Nat) : (setVal s w).quads = s.quads := rfl
@[simp] theorem setVal_images (s : State) (w : Nat) : (setVal s w).images = s.images := rfl
@[simp] theorem setVal_grids (s : State) (w : Nat) : (setVal s w).grids = s.grids := rfl
@[simp] theorem setVal_served (s : State) (w : Nat) : (setVal s w).served = s.served := rfl
@[simp] theorem setVal_window (s : State) (w : Nat) : (setVal s w).window = s.window := rfl
@[simp] theorem setVal_runs (s : State) (w : Nat) : (setVal s w).runs = s.runs := rfl
@[simp] theorem setVal_logWait (s : State) (w : Nat) : (setVal s w).logWait = s.logWait := rfl
@[simp] theorem setVal_nextId (s : State) (w : Nat) : (setVal s w).nextId = s.nextId := rfl
@[simp] theorem setVal_draws (s : State) (w : Nat) : (setVal s w).draws = s.draws := rfl
@[simp] theorem setVal_sched (s : State) (w : Nat) : (setVal s w).sched = s.sched := rfl

/-! ## `setOwner` -/

@[simp] theorem setOwner_isW (s : State) (w : Nat) (who : Agent) : (setOwner s w who).isW = s.isW := rfl
@[simp] theorem setOwner_devId (s : State) (w : Nat) (who : Agent) : (setOwner s w who).devId = s.devId := rfl
@[simp] theorem setOwner_mode (s : State) (w : Nat) (who : Agent) : (setOwner s w who).mode = s.mode := rfl
@[simp] theorem setOwner_ready (s : State) (w : Nat) (who : Agent) : (setOwner s w who).ready = s.ready := rfl
@[simp] theorem setOwner_failRec (s : State) (w : Nat) (who : Agent) : (setOwner s w who).failRec = s.failRec := rfl
@[simp] theorem setOwner_sideband (s : State) (w : Nat) (who : Agent) : (setOwner s w who).sideband = s.sideband := rfl
@[simp] theorem setOwner_verified (s : State) (w : Nat) (who : Agent) : (setOwner s w who).verified = s.verified := rfl
@[simp] theorem setOwner_report (s : State) (w : Nat) (who : Agent) : (setOwner s w who).report = s.report := rfl
@[simp] theorem setOwner_twinUp (s : State) (w : Nat) (who : Agent) : (setOwner s w who).twinUp = s.twinUp := rfl
@[simp] theorem setOwner_twinFailed (s : State) (w : Nat) (who : Agent) :
    (setOwner s w who).twinFailed = s.twinFailed := rfl
@[simp] theorem setOwner_mhz (s : State) (w : Nat) (who : Agent) : (setOwner s w who).mhz = s.mhz := rfl
@[simp] theorem setOwner_clock (s : State) (w : Nat) (who : Agent) : (setOwner s w who).clock = s.clock := rfl
@[simp] theorem setOwner_refUnits (s : State) (w : Nat) (who : Agent) : (setOwner s w who).refUnits = s.refUnits := rfl
@[simp] theorem setOwner_bar (s : State) (w : Nat) (who : Agent) : (setOwner s w who).bar = s.bar := rfl
@[simp] theorem setOwner_irqs (s : State) (w : Nat) (who : Agent) : (setOwner s w who).irqs = s.irqs := rfl
@[simp] theorem setOwner_mem (s : State) (w : Nat) (who : Agent) : (setOwner s w who).mem = s.mem := rfl
@[simp] theorem setOwner_memPoison (s : State) (w : Nat) (who : Agent) :
    (setOwner s w who).memPoison = s.memPoison := rfl
@[simp] theorem setOwner_homes (s : State) (w : Nat) (who : Agent) :
    (setOwner s w who).homes = tput s.homes w (.own (tagOf who).1 (tagOf who).2) := rfl
@[simp] theorem setOwner_l2 (s : State) (w : Nat) (who : Agent) : (setOwner s w who).l2 = s.l2 := rfl
@[simp] theorem setOwner_l2Wait (s : State) (w : Nat) (who : Agent) : (setOwner s w who).l2Wait = s.l2Wait := rfl
@[simp] theorem setOwner_l2Evict (s : State) (w : Nat) (who : Agent) : (setOwner s w who).l2Evict = s.l2Evict := rfl
@[simp] theorem setOwner_stamps (s : State) (w : Nat) (who : Agent) : (setOwner s w who).stamps = s.stamps := rfl
@[simp] theorem setOwner_l1 (s : State) (w : Nat) (who : Agent) : (setOwner s w who).l1 = s.l1 := rfl
@[simp] theorem setOwner_holding (s : State) (w : Nat) (who : Agent) : (setOwner s w who).holding = s.holding := rfl
@[simp] theorem setOwner_rdc (s : State) (w : Nat) (who : Agent) : (setOwner s w who).rdc = s.rdc := rfl
@[simp] theorem setOwner_hostLines (s : State) (w : Nat) (who : Agent) :
    (setOwner s w who).hostLines = s.hostLines := rfl
@[simp] theorem setOwner_msgs (s : State) (w : Nat) (who : Agent) : (setOwner s w who).msgs = s.msgs := rfl
@[simp] theorem setOwner_msgSeq (s : State) (w : Nat) (who : Agent) : (setOwner s w who).msgSeq = s.msgSeq := rfl
@[simp] theorem setOwner_coreTlb (s : State) (w : Nat) (who : Agent) : (setOwner s w who).coreTlb = s.coreTlb := rfl
@[simp] theorem setOwner_hamletTlb (s : State) (w : Nat) (who : Agent) :
    (setOwner s w who).hamletTlb = s.hamletTlb := rfl
@[simp] theorem setOwner_devTlb (s : State) (w : Nat) (who : Agent) : (setOwner s w who).devTlb = s.devTlb := rfl
@[simp] theorem setOwner_aheadTlb (s : State) (w : Nat) (who : Agent) : (setOwner s w who).aheadTlb = s.aheadTlb := rfl
@[simp] theorem setOwner_walkQ (s : State) (w : Nat) (who : Agent) : (setOwner s w who).walkQ = s.walkQ := rfl
@[simp] theorem setOwner_walking (s : State) (w : Nat) (who : Agent) : (setOwner s w who).walking = s.walking := rfl
@[simp] theorem setOwner_walkFails (s : State) (w : Nat) (who : Agent) :
    (setOwner s w who).walkFails = s.walkFails := rfl
@[simp] theorem setOwner_invals (s : State) (w : Nat) (who : Agent) : (setOwner s w who).invals = s.invals := rfl
@[simp] theorem setOwner_bias (s : State) (w : Nat) (who : Agent) : (setOwner s w who).bias = s.bias := rfl
@[simp] theorem setOwner_biasWait (s : State) (w : Nat) (who : Agent) : (setOwner s w who).biasWait = s.biasWait := rfl
@[simp] theorem setOwner_biasHeld (s : State) (w : Nat) (who : Agent) : (setOwner s w who).biasHeld = s.biasHeld := rfl
@[simp] theorem setOwner_storers (s : State) (w : Nat) (who : Agent) : (setOwner s w who).storers = s.storers := rfl
@[simp] theorem setOwner_placers (s : State) (w : Nat) (who : Agent) : (setOwner s w who).placers = s.placers := rfl
@[simp] theorem setOwner_twinAtoms (s : State) (w : Nat) (who : Agent) :
    (setOwner s w who).twinAtoms = s.twinAtoms := rfl
@[simp] theorem setOwner_twinOps (s : State) (w : Nat) (who : Agent) : (setOwner s w who).twinOps = s.twinOps := rfl
@[simp] theorem setOwner_hostRead (s : State) (w : Nat) (who : Agent) : (setOwner s w who).hostRead = s.hostRead := rfl
@[simp] theorem setOwner_cmds (s : State) (w : Nat) (who : Agent) : (setOwner s w who).cmds = s.cmds := rfl
@[simp] theorem setOwner_events (s : State) (w : Nat) (who : Agent) : (setOwner s w who).events = s.events := rfl
@[simp] theorem setOwner_ctxs (s : State) (w : Nat) (who : Agent) : (setOwner s w who).ctxs = s.ctxs := rfl
@[simp] theorem setOwner_groups (s : State) (w : Nat) (who : Agent) : (setOwner s w who).groups = s.groups := rfl
@[simp] theorem setOwner_ahead (s : State) (w : Nat) (who : Agent) : (setOwner s w who).ahead = s.ahead := rfl
@[simp] theorem setOwner_teams (s : State) (w : Nat) (who : Agent) : (setOwner s w who).teams = s.teams := rfl
@[simp] theorem setOwner_nextTeam (s : State) (w : Nat) (who : Agent) : (setOwner s w who).nextTeam = s.nextTeam := rfl
@[simp] theorem setOwner_cur (s : State) (w : Nat) (who : Agent) : (setOwner s w who).cur = s.cur := rfl
@[simp] theorem setOwner_syncTab (s : State) (w : Nat) (who : Agent) : (setOwner s w who).syncTab = s.syncTab := rfl
@[simp] theorem setOwner_syncOps (s : State) (w : Nat) (who : Agent) : (setOwner s w who).syncOps = s.syncOps := rfl
@[simp] theorem setOwner_frontier (s : State) (w : Nat) (who : Agent) : (setOwner s w who).frontier = s.frontier := rfl
@[simp] theorem setOwner_reds (s : State) (w : Nat) (who : Agent) : (setOwner s w who).reds = s.reds := rfl
@[simp] theorem setOwner_rays (s : State) (w : Nat) (who : Agent) : (setOwner s w who).rays = s.rays := rfl
@[simp] theorem setOwner_bins (s : State) (w : Nat) (who : Agent) : (setOwner s w who).bins = s.bins := rfl
@[simp] theorem setOwner_treelets (s : State) (w : Nat) (who : Agent) : (setOwner s w who).treelets = s.treelets := rfl
@[simp] theorem setOwner_tiles (s : State) (w : Nat) (who : Agent) : (setOwner s w who).tiles = s.tiles := rfl
@[simp] theorem setOwner_tileAdds (s : State) (w : Nat) (who : Agent) : (setOwner s w who).tileAdds = s.tileAdds := rfl
@[simp] theorem setOwner_flushing (s : State) (w : Nat) (who : Agent) : (setOwner s w who).flushing = s.flushing := rfl
@[simp] theorem setOwner_cmdEnds (s : State) (w : Nat) (who : Agent) : (setOwner s w who).cmdEnds = s.cmdEnds := rfl
@[simp] theorem setOwner_engines (s : State) (w : Nat) (who : Agent) : (setOwner s w who).engines = s.engines := rfl
@[simp] theorem setOwner_pairReds (s : State) (w : Nat) (who : Agent) : (setOwner s w who).pairReds = s.pairReds := rfl
@[simp] theorem setOwner_quads (s : State) (w : Nat) (who : Agent) : (setOwner s w who).quads = s.quads := rfl
@[simp] theorem setOwner_images (s : State) (w : Nat) (who : Agent) : (setOwner s w who).images = s.images := rfl
@[simp] theorem setOwner_grids (s : State) (w : Nat) (who : Agent) : (setOwner s w who).grids = s.grids := rfl
@[simp] theorem setOwner_served (s : State) (w : Nat) (who : Agent) : (setOwner s w who).served = s.served := rfl
@[simp] theorem setOwner_window (s : State) (w : Nat) (who : Agent) : (setOwner s w who).window = s.window := rfl
@[simp] theorem setOwner_runs (s : State) (w : Nat) (who : Agent) : (setOwner s w who).runs = s.runs := rfl
@[simp] theorem setOwner_logWait (s : State) (w : Nat) (who : Agent) : (setOwner s w who).logWait = s.logWait := rfl
@[simp] theorem setOwner_nextId (s : State) (w : Nat) (who : Agent) : (setOwner s w who).nextId = s.nextId := rfl
@[simp] theorem setOwner_draws (s : State) (w : Nat) (who : Agent) : (setOwner s w who).draws = s.draws := rfl
@[simp] theorem setOwner_sched (s : State) (w : Nat) (who : Agent) : (setOwner s w who).sched = s.sched := rfl

/-! ## `mapCopies` -/

@[simp] theorem mapCopies_isW (s : State) (who : Agent) (f : Tbl Copy → Tbl Copy) :
    (mapCopies s who f).isW = s.isW := rfl
@[simp] theorem mapCopies_devId (s : State) (who : Agent) (f : Tbl Copy → Tbl Copy) :
    (mapCopies s who f).devId = s.devId := rfl
@[simp] theorem mapCopies_mode (s : State) (who : Agent) (f : Tbl Copy → Tbl Copy) :
    (mapCopies s who f).mode = s.mode := rfl
@[simp] theorem mapCopies_ready (s : State) (who : Agent) (f : Tbl Copy → Tbl Copy) :
    (mapCopies s who f).ready = s.ready := rfl
@[simp] theorem mapCopies_failRec (s : State) (who : Agent) (f : Tbl Copy → Tbl Copy) :
    (mapCopies s who f).failRec = s.failRec := rfl
@[simp] theorem mapCopies_sideband (s : State) (who : Agent) (f : Tbl Copy → Tbl Copy) :
    (mapCopies s who f).sideband = s.sideband := rfl
@[simp] theorem mapCopies_verified (s : State) (who : Agent) (f : Tbl Copy → Tbl Copy) :
    (mapCopies s who f).verified = s.verified := rfl
@[simp] theorem mapCopies_report (s : State) (who : Agent) (f : Tbl Copy → Tbl Copy) :
    (mapCopies s who f).report = s.report := rfl
@[simp] theorem mapCopies_twinUp (s : State) (who : Agent) (f : Tbl Copy → Tbl Copy) :
    (mapCopies s who f).twinUp = s.twinUp := rfl
@[simp] theorem mapCopies_twinFailed (s : State) (who : Agent) (f : Tbl Copy → Tbl Copy) :
    (mapCopies s who f).twinFailed = s.twinFailed := rfl
@[simp] theorem mapCopies_mhz (s : State) (who : Agent) (f : Tbl Copy → Tbl Copy) :
    (mapCopies s who f).mhz = s.mhz := rfl
@[simp] theorem mapCopies_clock (s : State) (who : Agent) (f : Tbl Copy → Tbl Copy) :
    (mapCopies s who f).clock = s.clock := rfl
@[simp] theorem mapCopies_refUnits (s : State) (who : Agent) (f : Tbl Copy → Tbl Copy) :
    (mapCopies s who f).refUnits = s.refUnits := rfl
@[simp] theorem mapCopies_bar (s : State) (who : Agent) (f : Tbl Copy → Tbl Copy) :
    (mapCopies s who f).bar = s.bar := rfl
@[simp] theorem mapCopies_irqs (s : State) (who : Agent) (f : Tbl Copy → Tbl Copy) :
    (mapCopies s who f).irqs = s.irqs := rfl
@[simp] theorem mapCopies_mem (s : State) (who : Agent) (f : Tbl Copy → Tbl Copy) :
    (mapCopies s who f).mem = s.mem := rfl
@[simp] theorem mapCopies_memPoison (s : State) (who : Agent) (f : Tbl Copy → Tbl Copy) :
    (mapCopies s who f).memPoison = s.memPoison := rfl
@[simp] theorem mapCopies_homes (s : State) (who : Agent) (f : Tbl Copy → Tbl Copy) :
    (mapCopies s who f).homes = s.homes := rfl
@[simp] theorem mapCopies_l2 (s : State) (who : Agent) (f : Tbl Copy → Tbl Copy) : (mapCopies s who f).l2 = s.l2 := rfl
@[simp] theorem mapCopies_l2Wait (s : State) (who : Agent) (f : Tbl Copy → Tbl Copy) :
    (mapCopies s who f).l2Wait = s.l2Wait := rfl
@[simp] theorem mapCopies_l2Evict (s : State) (who : Agent) (f : Tbl Copy → Tbl Copy) :
    (mapCopies s who f).l2Evict = s.l2Evict := rfl
@[simp] theorem mapCopies_stamps (s : State) (who : Agent) (f : Tbl Copy → Tbl Copy) :
    (mapCopies s who f).stamps = s.stamps := rfl
@[simp] theorem mapCopies_l1 (s : State) (who : Agent) (f : Tbl Copy → Tbl Copy) :
    (mapCopies s who f).l1 = if who = .rdc then s.l1 else tupd s.l1 (unitKey who) [] f := rfl
@[simp] theorem mapCopies_holding (s : State) (who : Agent) (f : Tbl Copy → Tbl Copy) :
    (mapCopies s who f).holding = s.holding := rfl
@[simp] theorem mapCopies_rdc (s : State) (who : Agent) (f : Tbl Copy → Tbl Copy) :
    (mapCopies s who f).rdc = if who = .rdc then f s.rdc else s.rdc := rfl
@[simp] theorem mapCopies_hostLines (s : State) (who : Agent) (f : Tbl Copy → Tbl Copy) :
    (mapCopies s who f).hostLines = s.hostLines := rfl
@[simp] theorem mapCopies_msgs (s : State) (who : Agent) (f : Tbl Copy → Tbl Copy) :
    (mapCopies s who f).msgs = s.msgs := rfl
@[simp] theorem mapCopies_msgSeq (s : State) (who : Agent) (f : Tbl Copy → Tbl Copy) :
    (mapCopies s who f).msgSeq = s.msgSeq := rfl
@[simp] theorem mapCopies_coreTlb (s : State) (who : Agent) (f : Tbl Copy → Tbl Copy) :
    (mapCopies s who f).coreTlb = s.coreTlb := rfl
@[simp] theorem mapCopies_hamletTlb (s : State) (who : Agent) (f : Tbl Copy → Tbl Copy) :
    (mapCopies s who f).hamletTlb = s.hamletTlb := rfl
@[simp] theorem mapCopies_devTlb (s : State) (who : Agent) (f : Tbl Copy → Tbl Copy) :
    (mapCopies s who f).devTlb = s.devTlb := rfl
@[simp] theorem mapCopies_aheadTlb (s : State) (who : Agent) (f : Tbl Copy → Tbl Copy) :
    (mapCopies s who f).aheadTlb = s.aheadTlb := rfl
@[simp] theorem mapCopies_walkQ (s : State) (who : Agent) (f : Tbl Copy → Tbl Copy) :
    (mapCopies s who f).walkQ = s.walkQ := rfl
@[simp] theorem mapCopies_walking (s : State) (who : Agent) (f : Tbl Copy → Tbl Copy) :
    (mapCopies s who f).walking = s.walking := rfl
@[simp] theorem mapCopies_walkFails (s : State) (who : Agent) (f : Tbl Copy → Tbl Copy) :
    (mapCopies s who f).walkFails = s.walkFails := rfl
@[simp] theorem mapCopies_invals (s : State) (who : Agent) (f : Tbl Copy → Tbl Copy) :
    (mapCopies s who f).invals = s.invals := rfl
@[simp] theorem mapCopies_bias (s : State) (who : Agent) (f : Tbl Copy → Tbl Copy) :
    (mapCopies s who f).bias = s.bias := rfl
@[simp] theorem mapCopies_biasWait (s : State) (who : Agent) (f : Tbl Copy → Tbl Copy) :
    (mapCopies s who f).biasWait = s.biasWait := rfl
@[simp] theorem mapCopies_biasHeld (s : State) (who : Agent) (f : Tbl Copy → Tbl Copy) :
    (mapCopies s who f).biasHeld = s.biasHeld := rfl
@[simp] theorem mapCopies_storers (s : State) (who : Agent) (f : Tbl Copy → Tbl Copy) :
    (mapCopies s who f).storers = s.storers := rfl
@[simp] theorem mapCopies_placers (s : State) (who : Agent) (f : Tbl Copy → Tbl Copy) :
    (mapCopies s who f).placers = s.placers := rfl
@[simp] theorem mapCopies_twinAtoms (s : State) (who : Agent) (f : Tbl Copy → Tbl Copy) :
    (mapCopies s who f).twinAtoms = s.twinAtoms := rfl
@[simp] theorem mapCopies_twinOps (s : State) (who : Agent) (f : Tbl Copy → Tbl Copy) :
    (mapCopies s who f).twinOps = s.twinOps := rfl
@[simp] theorem mapCopies_hostRead (s : State) (who : Agent) (f : Tbl Copy → Tbl Copy) :
    (mapCopies s who f).hostRead = s.hostRead := rfl
@[simp] theorem mapCopies_cmds (s : State) (who : Agent) (f : Tbl Copy → Tbl Copy) :
    (mapCopies s who f).cmds = s.cmds := rfl
@[simp] theorem mapCopies_events (s : State) (who : Agent) (f : Tbl Copy → Tbl Copy) :
    (mapCopies s who f).events = s.events := rfl
@[simp] theorem mapCopies_ctxs (s : State) (who : Agent) (f : Tbl Copy → Tbl Copy) :
    (mapCopies s who f).ctxs = s.ctxs := rfl
@[simp] theorem mapCopies_groups (s : State) (who : Agent) (f : Tbl Copy → Tbl Copy) :
    (mapCopies s who f).groups = s.groups := rfl
@[simp] theorem mapCopies_ahead (s : State) (who : Agent) (f : Tbl Copy → Tbl Copy) :
    (mapCopies s who f).ahead = s.ahead := rfl
@[simp] theorem mapCopies_teams (s : State) (who : Agent) (f : Tbl Copy → Tbl Copy) :
    (mapCopies s who f).teams = s.teams := rfl
@[simp] theorem mapCopies_nextTeam (s : State) (who : Agent) (f : Tbl Copy → Tbl Copy) :
    (mapCopies s who f).nextTeam = s.nextTeam := rfl
@[simp] theorem mapCopies_cur (s : State) (who : Agent) (f : Tbl Copy → Tbl Copy) :
    (mapCopies s who f).cur = s.cur := rfl
@[simp] theorem mapCopies_syncTab (s : State) (who : Agent) (f : Tbl Copy → Tbl Copy) :
    (mapCopies s who f).syncTab = s.syncTab := rfl
@[simp] theorem mapCopies_syncOps (s : State) (who : Agent) (f : Tbl Copy → Tbl Copy) :
    (mapCopies s who f).syncOps = s.syncOps := rfl
@[simp] theorem mapCopies_frontier (s : State) (who : Agent) (f : Tbl Copy → Tbl Copy) :
    (mapCopies s who f).frontier = s.frontier := rfl
@[simp] theorem mapCopies_reds (s : State) (who : Agent) (f : Tbl Copy → Tbl Copy) :
    (mapCopies s who f).reds = s.reds := rfl
@[simp] theorem mapCopies_rays (s : State) (who : Agent) (f : Tbl Copy → Tbl Copy) :
    (mapCopies s who f).rays = s.rays := rfl
@[simp] theorem mapCopies_bins (s : State) (who : Agent) (f : Tbl Copy → Tbl Copy) :
    (mapCopies s who f).bins = s.bins := rfl
@[simp] theorem mapCopies_treelets (s : State) (who : Agent) (f : Tbl Copy → Tbl Copy) :
    (mapCopies s who f).treelets = s.treelets := rfl
@[simp] theorem mapCopies_tiles (s : State) (who : Agent) (f : Tbl Copy → Tbl Copy) :
    (mapCopies s who f).tiles = s.tiles := rfl
@[simp] theorem mapCopies_tileAdds (s : State) (who : Agent) (f : Tbl Copy → Tbl Copy) :
    (mapCopies s who f).tileAdds = s.tileAdds := rfl
@[simp] theorem mapCopies_flushing (s : State) (who : Agent) (f : Tbl Copy → Tbl Copy) :
    (mapCopies s who f).flushing = s.flushing := rfl
@[simp] theorem mapCopies_cmdEnds (s : State) (who : Agent) (f : Tbl Copy → Tbl Copy) :
    (mapCopies s who f).cmdEnds = s.cmdEnds := rfl
@[simp] theorem mapCopies_engines (s : State) (who : Agent) (f : Tbl Copy → Tbl Copy) :
    (mapCopies s who f).engines = s.engines := rfl
@[simp] theorem mapCopies_pairReds (s : State) (who : Agent) (f : Tbl Copy → Tbl Copy) :
    (mapCopies s who f).pairReds = s.pairReds := rfl
@[simp] theorem mapCopies_quads (s : State) (who : Agent) (f : Tbl Copy → Tbl Copy) :
    (mapCopies s who f).quads = s.quads := rfl
@[simp] theorem mapCopies_images (s : State) (who : Agent) (f : Tbl Copy → Tbl Copy) :
    (mapCopies s who f).images = s.images := rfl
@[simp] theorem mapCopies_grids (s : State) (who : Agent) (f : Tbl Copy → Tbl Copy) :
    (mapCopies s who f).grids = s.grids := rfl
@[simp] theorem mapCopies_served (s : State) (who : Agent) (f : Tbl Copy → Tbl Copy) :
    (mapCopies s who f).served = s.served := rfl
@[simp] theorem mapCopies_window (s : State) (who : Agent) (f : Tbl Copy → Tbl Copy) :
    (mapCopies s who f).window = s.window := rfl
@[simp] theorem mapCopies_runs (s : State) (who : Agent) (f : Tbl Copy → Tbl Copy) :
    (mapCopies s who f).runs = s.runs := rfl
@[simp] theorem mapCopies_logWait (s : State) (who : Agent) (f : Tbl Copy → Tbl Copy) :
    (mapCopies s who f).logWait = s.logWait := rfl
@[simp] theorem mapCopies_nextId (s : State) (who : Agent) (f : Tbl Copy → Tbl Copy) :
    (mapCopies s who f).nextId = s.nextId := rfl
@[simp] theorem mapCopies_draws (s : State) (who : Agent) (f : Tbl Copy → Tbl Copy) :
    (mapCopies s who f).draws = s.draws := rfl
@[simp] theorem mapCopies_sched (s : State) (who : Agent) (f : Tbl Copy → Tbl Copy) :
    (mapCopies s who f).sched = s.sched := rfl

/-! ## `putCopy` -/

@[simp] theorem putCopy_isW (s : State) (who : Agent) (w : Nat) (c : Copy) : (putCopy s who w c).isW = s.isW := rfl
@[simp] theorem putCopy_devId (s : State) (who : Agent) (w : Nat) (c : Copy) :
    (putCopy s who w c).devId = s.devId := rfl
@[simp] theorem putCopy_mode (s : State) (who : Agent) (w : Nat) (c : Copy) : (putCopy s who w c).mode = s.mode := rfl
@[simp] theorem putCopy_ready (s : State) (who : Agent) (w : Nat) (c : Copy) :
    (putCopy s who w c).ready = s.ready := rfl
@[simp] theorem putCopy_failRec (s : State) (who : Agent) (w : Nat) (c : Copy) :
    (putCopy s who w c).failRec = s.failRec := rfl
@[simp] theorem putCopy_sideband (s : State) (who : Agent) (w : Nat) (c : Copy) :
    (putCopy s who w c).sideband = s.sideband := rfl
@[simp] theorem putCopy_verified (s : State) (who : Agent) (w : Nat) (c : Copy) :
    (putCopy s who w c).verified = s.verified := rfl
@[simp] theorem putCopy_report (s : State) (who : Agent) (w : Nat) (c : Copy) :
    (putCopy s who w c).report = s.report := rfl
@[simp] theorem putCopy_twinUp (s : State) (who : Agent) (w : Nat) (c : Copy) :
    (putCopy s who w c).twinUp = s.twinUp := rfl
@[simp] theorem putCopy_twinFailed (s : State) (who : Agent) (w : Nat) (c : Copy) :
    (putCopy s who w c).twinFailed = s.twinFailed := rfl
@[simp] theorem putCopy_mhz (s : State) (who : Agent) (w : Nat) (c : Copy) : (putCopy s who w c).mhz = s.mhz := rfl
@[simp] theorem putCopy_clock (s : State) (who : Agent) (w : Nat) (c : Copy) :
    (putCopy s who w c).clock = s.clock := rfl
@[simp] theorem putCopy_refUnits (s : State) (who : Agent) (w : Nat) (c : Copy) :
    (putCopy s who w c).refUnits = s.refUnits := rfl
@[simp] theorem putCopy_bar (s : State) (who : Agent) (w : Nat) (c : Copy) : (putCopy s who w c).bar = s.bar := rfl
@[simp] theorem putCopy_irqs (s : State) (who : Agent) (w : Nat) (c : Copy) : (putCopy s who w c).irqs = s.irqs := rfl
@[simp] theorem putCopy_mem (s : State) (who : Agent) (w : Nat) (c : Copy) : (putCopy s who w c).mem = s.mem := rfl
@[simp] theorem putCopy_memPoison (s : State) (who : Agent) (w : Nat) (c : Copy) :
    (putCopy s who w c).memPoison = s.memPoison := rfl
@[simp] theorem putCopy_homes (s : State) (who : Agent) (w : Nat) (c : Copy) :
    (putCopy s who w c).homes = s.homes := rfl
@[simp] theorem putCopy_l2 (s : State) (who : Agent) (w : Nat) (c : Copy) : (putCopy s who w c).l2 = s.l2 := rfl
@[simp] theorem putCopy_l2Wait (s : State) (who : Agent) (w : Nat) (c : Copy) :
    (putCopy s who w c).l2Wait = s.l2Wait := rfl
@[simp] theorem putCopy_l2Evict (s : State) (who : Agent) (w : Nat) (c : Copy) :
    (putCopy s who w c).l2Evict = s.l2Evict := rfl
@[simp] theorem putCopy_stamps (s : State) (who : Agent) (w : Nat) (c : Copy) :
    (putCopy s who w c).stamps = s.stamps := rfl
@[simp] theorem putCopy_l1 (s : State) (who : Agent) (w : Nat) (c : Copy) :
    (putCopy s who w c).l1 = if who = .rdc then s.l1 else tupd s.l1 (unitKey who) [] fun t => tput t w c := rfl
@[simp] theorem putCopy_holding (s : State) (who : Agent) (w : Nat) (c : Copy) :
    (putCopy s who w c).holding = s.holding := rfl
@[simp] theorem putCopy_rdc (s : State) (who : Agent) (w : Nat) (c : Copy) :
    (putCopy s who w c).rdc = if who = .rdc then tput s.rdc w c else s.rdc := rfl
@[simp] theorem putCopy_hostLines (s : State) (who : Agent) (w : Nat) (c : Copy) :
    (putCopy s who w c).hostLines = s.hostLines := rfl
@[simp] theorem putCopy_msgs (s : State) (who : Agent) (w : Nat) (c : Copy) : (putCopy s who w c).msgs = s.msgs := rfl
@[simp] theorem putCopy_msgSeq (s : State) (who : Agent) (w : Nat) (c : Copy) :
    (putCopy s who w c).msgSeq = s.msgSeq := rfl
@[simp] theorem putCopy_coreTlb (s : State) (who : Agent) (w : Nat) (c : Copy) :
    (putCopy s who w c).coreTlb = s.coreTlb := rfl
@[simp] theorem putCopy_hamletTlb (s : State) (who : Agent) (w : Nat) (c : Copy) :
    (putCopy s who w c).hamletTlb = s.hamletTlb := rfl
@[simp] theorem putCopy_devTlb (s : State) (who : Agent) (w : Nat) (c : Copy) :
    (putCopy s who w c).devTlb = s.devTlb := rfl
@[simp] theorem putCopy_aheadTlb (s : State) (who : Agent) (w : Nat) (c : Copy) :
    (putCopy s who w c).aheadTlb = s.aheadTlb := rfl
@[simp] theorem putCopy_walkQ (s : State) (who : Agent) (w : Nat) (c : Copy) :
    (putCopy s who w c).walkQ = s.walkQ := rfl
@[simp] theorem putCopy_walking (s : State) (who : Agent) (w : Nat) (c : Copy) :
    (putCopy s who w c).walking = s.walking := rfl
@[simp] theorem putCopy_walkFails (s : State) (who : Agent) (w : Nat) (c : Copy) :
    (putCopy s who w c).walkFails = s.walkFails := rfl
@[simp] theorem putCopy_invals (s : State) (who : Agent) (w : Nat) (c : Copy) :
    (putCopy s who w c).invals = s.invals := rfl
@[simp] theorem putCopy_bias (s : State) (who : Agent) (w : Nat) (c : Copy) : (putCopy s who w c).bias = s.bias := rfl
@[simp] theorem putCopy_biasWait (s : State) (who : Agent) (w : Nat) (c : Copy) :
    (putCopy s who w c).biasWait = s.biasWait := rfl
@[simp] theorem putCopy_biasHeld (s : State) (who : Agent) (w : Nat) (c : Copy) :
    (putCopy s who w c).biasHeld = s.biasHeld := rfl
@[simp] theorem putCopy_storers (s : State) (who : Agent) (w : Nat) (c : Copy) :
    (putCopy s who w c).storers = s.storers := rfl
@[simp] theorem putCopy_placers (s : State) (who : Agent) (w : Nat) (c : Copy) :
    (putCopy s who w c).placers = s.placers := rfl
@[simp] theorem putCopy_twinAtoms (s : State) (who : Agent) (w : Nat) (c : Copy) :
    (putCopy s who w c).twinAtoms = s.twinAtoms := rfl
@[simp] theorem putCopy_twinOps (s : State) (who : Agent) (w : Nat) (c : Copy) :
    (putCopy s who w c).twinOps = s.twinOps := rfl
@[simp] theorem putCopy_hostRead (s : State) (who : Agent) (w : Nat) (c : Copy) :
    (putCopy s who w c).hostRead = s.hostRead := rfl
@[simp] theorem putCopy_cmds (s : State) (who : Agent) (w : Nat) (c : Copy) : (putCopy s who w c).cmds = s.cmds := rfl
@[simp] theorem putCopy_events (s : State) (who : Agent) (w : Nat) (c : Copy) :
    (putCopy s who w c).events = s.events := rfl
@[simp] theorem putCopy_ctxs (s : State) (who : Agent) (w : Nat) (c : Copy) : (putCopy s who w c).ctxs = s.ctxs := rfl
@[simp] theorem putCopy_groups (s : State) (who : Agent) (w : Nat) (c : Copy) :
    (putCopy s who w c).groups = s.groups := rfl
@[simp] theorem putCopy_ahead (s : State) (who : Agent) (w : Nat) (c : Copy) :
    (putCopy s who w c).ahead = s.ahead := rfl
@[simp] theorem putCopy_teams (s : State) (who : Agent) (w : Nat) (c : Copy) :
    (putCopy s who w c).teams = s.teams := rfl
@[simp] theorem putCopy_nextTeam (s : State) (who : Agent) (w : Nat) (c : Copy) :
    (putCopy s who w c).nextTeam = s.nextTeam := rfl
@[simp] theorem putCopy_cur (s : State) (who : Agent) (w : Nat) (c : Copy) : (putCopy s who w c).cur = s.cur := rfl
@[simp] theorem putCopy_syncTab (s : State) (who : Agent) (w : Nat) (c : Copy) :
    (putCopy s who w c).syncTab = s.syncTab := rfl
@[simp] theorem putCopy_syncOps (s : State) (who : Agent) (w : Nat) (c : Copy) :
    (putCopy s who w c).syncOps = s.syncOps := rfl
@[simp] theorem putCopy_frontier (s : State) (who : Agent) (w : Nat) (c : Copy) :
    (putCopy s who w c).frontier = s.frontier := rfl
@[simp] theorem putCopy_reds (s : State) (who : Agent) (w : Nat) (c : Copy) : (putCopy s who w c).reds = s.reds := rfl
@[simp] theorem putCopy_rays (s : State) (who : Agent) (w : Nat) (c : Copy) : (putCopy s who w c).rays = s.rays := rfl
@[simp] theorem putCopy_bins (s : State) (who : Agent) (w : Nat) (c : Copy) : (putCopy s who w c).bins = s.bins := rfl
@[simp] theorem putCopy_treelets (s : State) (who : Agent) (w : Nat) (c : Copy) :
    (putCopy s who w c).treelets = s.treelets := rfl
@[simp] theorem putCopy_tiles (s : State) (who : Agent) (w : Nat) (c : Copy) :
    (putCopy s who w c).tiles = s.tiles := rfl
@[simp] theorem putCopy_tileAdds (s : State) (who : Agent) (w : Nat) (c : Copy) :
    (putCopy s who w c).tileAdds = s.tileAdds := rfl
@[simp] theorem putCopy_flushing (s : State) (who : Agent) (w : Nat) (c : Copy) :
    (putCopy s who w c).flushing = s.flushing := rfl
@[simp] theorem putCopy_cmdEnds (s : State) (who : Agent) (w : Nat) (c : Copy) :
    (putCopy s who w c).cmdEnds = s.cmdEnds := rfl
@[simp] theorem putCopy_engines (s : State) (who : Agent) (w : Nat) (c : Copy) :
    (putCopy s who w c).engines = s.engines := rfl
@[simp] theorem putCopy_pairReds (s : State) (who : Agent) (w : Nat) (c : Copy) :
    (putCopy s who w c).pairReds = s.pairReds := rfl
@[simp] theorem putCopy_quads (s : State) (who : Agent) (w : Nat) (c : Copy) :
    (putCopy s who w c).quads = s.quads := rfl
@[simp] theorem putCopy_images (s : State) (who : Agent) (w : Nat) (c : Copy) :
    (putCopy s who w c).images = s.images := rfl
@[simp] theorem putCopy_grids (s : State) (who : Agent) (w : Nat) (c : Copy) :
    (putCopy s who w c).grids = s.grids := rfl
@[simp] theorem putCopy_served (s : State) (who : Agent) (w : Nat) (c : Copy) :
    (putCopy s who w c).served = s.served := rfl
@[simp] theorem putCopy_window (s : State) (who : Agent) (w : Nat) (c : Copy) :
    (putCopy s who w c).window = s.window := rfl
@[simp] theorem putCopy_runs (s : State) (who : Agent) (w : Nat) (c : Copy) : (putCopy s who w c).runs = s.runs := rfl
@[simp] theorem putCopy_logWait (s : State) (who : Agent) (w : Nat) (c : Copy) :
    (putCopy s who w c).logWait = s.logWait := rfl
@[simp] theorem putCopy_nextId (s : State) (who : Agent) (w : Nat) (c : Copy) :
    (putCopy s who w c).nextId = s.nextId := rfl
@[simp] theorem putCopy_draws (s : State) (who : Agent) (w : Nat) (c : Copy) :
    (putCopy s who w c).draws = s.draws := rfl
@[simp] theorem putCopy_sched (s : State) (who : Agent) (w : Nat) (c : Copy) :
    (putCopy s who w c).sched = s.sched := rfl

/-! ## `dropCopy` -/

@[simp] theorem dropCopy_isW (s : State) (who : Agent) (w : Nat) : (dropCopy s who w).isW = s.isW := rfl
@[simp] theorem dropCopy_devId (s : State) (who : Agent) (w : Nat) : (dropCopy s who w).devId = s.devId := rfl
@[simp] theorem dropCopy_mode (s : State) (who : Agent) (w : Nat) : (dropCopy s who w).mode = s.mode := rfl
@[simp] theorem dropCopy_ready (s : State) (who : Agent) (w : Nat) : (dropCopy s who w).ready = s.ready := rfl
@[simp] theorem dropCopy_failRec (s : State) (who : Agent) (w : Nat) : (dropCopy s who w).failRec = s.failRec := rfl
@[simp] theorem dropCopy_sideband (s : State) (who : Agent) (w : Nat) : (dropCopy s who w).sideband = s.sideband := rfl
@[simp] theorem dropCopy_verified (s : State) (who : Agent) (w : Nat) : (dropCopy s who w).verified = s.verified := rfl
@[simp] theorem dropCopy_report (s : State) (who : Agent) (w : Nat) : (dropCopy s who w).report = s.report := rfl
@[simp] theorem dropCopy_twinUp (s : State) (who : Agent) (w : Nat) : (dropCopy s who w).twinUp = s.twinUp := rfl
@[simp] theorem dropCopy_twinFailed (s : State) (who : Agent) (w : Nat) :
    (dropCopy s who w).twinFailed = s.twinFailed := rfl
@[simp] theorem dropCopy_mhz (s : State) (who : Agent) (w : Nat) : (dropCopy s who w).mhz = s.mhz := rfl
@[simp] theorem dropCopy_clock (s : State) (who : Agent) (w : Nat) : (dropCopy s who w).clock = s.clock := rfl
@[simp] theorem dropCopy_refUnits (s : State) (who : Agent) (w : Nat) : (dropCopy s who w).refUnits = s.refUnits := rfl
@[simp] theorem dropCopy_bar (s : State) (who : Agent) (w : Nat) : (dropCopy s who w).bar = s.bar := rfl
@[simp] theorem dropCopy_irqs (s : State) (who : Agent) (w : Nat) : (dropCopy s who w).irqs = s.irqs := rfl
@[simp] theorem dropCopy_mem (s : State) (who : Agent) (w : Nat) : (dropCopy s who w).mem = s.mem := rfl
@[simp] theorem dropCopy_memPoison (s : State) (who : Agent) (w : Nat) :
    (dropCopy s who w).memPoison = s.memPoison := rfl
@[simp] theorem dropCopy_homes (s : State) (who : Agent) (w : Nat) : (dropCopy s who w).homes = s.homes := rfl
@[simp] theorem dropCopy_l2 (s : State) (who : Agent) (w : Nat) : (dropCopy s who w).l2 = s.l2 := rfl
@[simp] theorem dropCopy_l2Wait (s : State) (who : Agent) (w : Nat) : (dropCopy s who w).l2Wait = s.l2Wait := rfl
@[simp] theorem dropCopy_l2Evict (s : State) (who : Agent) (w : Nat) : (dropCopy s who w).l2Evict = s.l2Evict := rfl
@[simp] theorem dropCopy_stamps (s : State) (who : Agent) (w : Nat) : (dropCopy s who w).stamps = s.stamps := rfl
@[simp] theorem dropCopy_l1 (s : State) (who : Agent) (w : Nat) :
    (dropCopy s who w).l1 = if who = .rdc then s.l1 else tupd s.l1 (unitKey who) [] fun t => tdel t w := rfl
@[simp] theorem dropCopy_holding (s : State) (who : Agent) (w : Nat) : (dropCopy s who w).holding = s.holding := rfl
@[simp] theorem dropCopy_rdc (s : State) (who : Agent) (w : Nat) :
    (dropCopy s who w).rdc = if who = .rdc then tdel s.rdc w else s.rdc := rfl
@[simp] theorem dropCopy_hostLines (s : State) (who : Agent) (w : Nat) :
    (dropCopy s who w).hostLines = s.hostLines := rfl
@[simp] theorem dropCopy_msgs (s : State) (who : Agent) (w : Nat) : (dropCopy s who w).msgs = s.msgs := rfl
@[simp] theorem dropCopy_msgSeq (s : State) (who : Agent) (w : Nat) : (dropCopy s who w).msgSeq = s.msgSeq := rfl
@[simp] theorem dropCopy_coreTlb (s : State) (who : Agent) (w : Nat) : (dropCopy s who w).coreTlb = s.coreTlb := rfl
@[simp] theorem dropCopy_hamletTlb (s : State) (who : Agent) (w : Nat) :
    (dropCopy s who w).hamletTlb = s.hamletTlb := rfl
@[simp] theorem dropCopy_devTlb (s : State) (who : Agent) (w : Nat) : (dropCopy s who w).devTlb = s.devTlb := rfl
@[simp] theorem dropCopy_aheadTlb (s : State) (who : Agent) (w : Nat) : (dropCopy s who w).aheadTlb = s.aheadTlb := rfl
@[simp] theorem dropCopy_walkQ (s : State) (who : Agent) (w : Nat) : (dropCopy s who w).walkQ = s.walkQ := rfl
@[simp] theorem dropCopy_walking (s : State) (who : Agent) (w : Nat) : (dropCopy s who w).walking = s.walking := rfl
@[simp] theorem dropCopy_walkFails (s : State) (who : Agent) (w : Nat) :
    (dropCopy s who w).walkFails = s.walkFails := rfl
@[simp] theorem dropCopy_invals (s : State) (who : Agent) (w : Nat) : (dropCopy s who w).invals = s.invals := rfl
@[simp] theorem dropCopy_bias (s : State) (who : Agent) (w : Nat) : (dropCopy s who w).bias = s.bias := rfl
@[simp] theorem dropCopy_biasWait (s : State) (who : Agent) (w : Nat) : (dropCopy s who w).biasWait = s.biasWait := rfl
@[simp] theorem dropCopy_biasHeld (s : State) (who : Agent) (w : Nat) : (dropCopy s who w).biasHeld = s.biasHeld := rfl
@[simp] theorem dropCopy_storers (s : State) (who : Agent) (w : Nat) : (dropCopy s who w).storers = s.storers := rfl
@[simp] theorem dropCopy_placers (s : State) (who : Agent) (w : Nat) : (dropCopy s who w).placers = s.placers := rfl
@[simp] theorem dropCopy_twinAtoms (s : State) (who : Agent) (w : Nat) :
    (dropCopy s who w).twinAtoms = s.twinAtoms := rfl
@[simp] theorem dropCopy_twinOps (s : State) (who : Agent) (w : Nat) : (dropCopy s who w).twinOps = s.twinOps := rfl
@[simp] theorem dropCopy_hostRead (s : State) (who : Agent) (w : Nat) : (dropCopy s who w).hostRead = s.hostRead := rfl
@[simp] theorem dropCopy_cmds (s : State) (who : Agent) (w : Nat) : (dropCopy s who w).cmds = s.cmds := rfl
@[simp] theorem dropCopy_events (s : State) (who : Agent) (w : Nat) : (dropCopy s who w).events = s.events := rfl
@[simp] theorem dropCopy_ctxs (s : State) (who : Agent) (w : Nat) : (dropCopy s who w).ctxs = s.ctxs := rfl
@[simp] theorem dropCopy_groups (s : State) (who : Agent) (w : Nat) : (dropCopy s who w).groups = s.groups := rfl
@[simp] theorem dropCopy_ahead (s : State) (who : Agent) (w : Nat) : (dropCopy s who w).ahead = s.ahead := rfl
@[simp] theorem dropCopy_teams (s : State) (who : Agent) (w : Nat) : (dropCopy s who w).teams = s.teams := rfl
@[simp] theorem dropCopy_nextTeam (s : State) (who : Agent) (w : Nat) : (dropCopy s who w).nextTeam = s.nextTeam := rfl
@[simp] theorem dropCopy_cur (s : State) (who : Agent) (w : Nat) : (dropCopy s who w).cur = s.cur := rfl
@[simp] theorem dropCopy_syncTab (s : State) (who : Agent) (w : Nat) : (dropCopy s who w).syncTab = s.syncTab := rfl
@[simp] theorem dropCopy_syncOps (s : State) (who : Agent) (w : Nat) : (dropCopy s who w).syncOps = s.syncOps := rfl
@[simp] theorem dropCopy_frontier (s : State) (who : Agent) (w : Nat) : (dropCopy s who w).frontier = s.frontier := rfl
@[simp] theorem dropCopy_reds (s : State) (who : Agent) (w : Nat) : (dropCopy s who w).reds = s.reds := rfl
@[simp] theorem dropCopy_rays (s : State) (who : Agent) (w : Nat) : (dropCopy s who w).rays = s.rays := rfl
@[simp] theorem dropCopy_bins (s : State) (who : Agent) (w : Nat) : (dropCopy s who w).bins = s.bins := rfl
@[simp] theorem dropCopy_treelets (s : State) (who : Agent) (w : Nat) : (dropCopy s who w).treelets = s.treelets := rfl
@[simp] theorem dropCopy_tiles (s : State) (who : Agent) (w : Nat) : (dropCopy s who w).tiles = s.tiles := rfl
@[simp] theorem dropCopy_tileAdds (s : State) (who : Agent) (w : Nat) : (dropCopy s who w).tileAdds = s.tileAdds := rfl
@[simp] theorem dropCopy_flushing (s : State) (who : Agent) (w : Nat) : (dropCopy s who w).flushing = s.flushing := rfl
@[simp] theorem dropCopy_cmdEnds (s : State) (who : Agent) (w : Nat) : (dropCopy s who w).cmdEnds = s.cmdEnds := rfl
@[simp] theorem dropCopy_engines (s : State) (who : Agent) (w : Nat) : (dropCopy s who w).engines = s.engines := rfl
@[simp] theorem dropCopy_pairReds (s : State) (who : Agent) (w : Nat) : (dropCopy s who w).pairReds = s.pairReds := rfl
@[simp] theorem dropCopy_quads (s : State) (who : Agent) (w : Nat) : (dropCopy s who w).quads = s.quads := rfl
@[simp] theorem dropCopy_images (s : State) (who : Agent) (w : Nat) : (dropCopy s who w).images = s.images := rfl
@[simp] theorem dropCopy_grids (s : State) (who : Agent) (w : Nat) : (dropCopy s who w).grids = s.grids := rfl
@[simp] theorem dropCopy_served (s : State) (who : Agent) (w : Nat) : (dropCopy s who w).served = s.served := rfl
@[simp] theorem dropCopy_window (s : State) (who : Agent) (w : Nat) : (dropCopy s who w).window = s.window := rfl
@[simp] theorem dropCopy_runs (s : State) (who : Agent) (w : Nat) : (dropCopy s who w).runs = s.runs := rfl
@[simp] theorem dropCopy_logWait (s : State) (who : Agent) (w : Nat) : (dropCopy s who w).logWait = s.logWait := rfl
@[simp] theorem dropCopy_nextId (s : State) (who : Agent) (w : Nat) : (dropCopy s who w).nextId = s.nextId := rfl
@[simp] theorem dropCopy_draws (s : State) (who : Agent) (w : Nat) : (dropCopy s who w).draws = s.draws := rfl
@[simp] theorem dropCopy_sched (s : State) (who : Agent) (w : Nat) : (dropCopy s who w).sched = s.sched := rfl

/-! ## `send` -/

@[simp] theorem send_isW (s : State) (m : Msg) : (send s m).isW = s.isW := rfl
@[simp] theorem send_devId (s : State) (m : Msg) : (send s m).devId = s.devId := rfl
@[simp] theorem send_mode (s : State) (m : Msg) : (send s m).mode = s.mode := rfl
@[simp] theorem send_ready (s : State) (m : Msg) : (send s m).ready = s.ready := rfl
@[simp] theorem send_failRec (s : State) (m : Msg) : (send s m).failRec = s.failRec := rfl
@[simp] theorem send_sideband (s : State) (m : Msg) : (send s m).sideband = s.sideband := rfl
@[simp] theorem send_verified (s : State) (m : Msg) : (send s m).verified = s.verified := rfl
@[simp] theorem send_report (s : State) (m : Msg) : (send s m).report = s.report := rfl
@[simp] theorem send_twinUp (s : State) (m : Msg) : (send s m).twinUp = s.twinUp := rfl
@[simp] theorem send_twinFailed (s : State) (m : Msg) : (send s m).twinFailed = s.twinFailed := rfl
@[simp] theorem send_mhz (s : State) (m : Msg) : (send s m).mhz = s.mhz := rfl
@[simp] theorem send_clock (s : State) (m : Msg) : (send s m).clock = s.clock := rfl
@[simp] theorem send_refUnits (s : State) (m : Msg) : (send s m).refUnits = s.refUnits := rfl
@[simp] theorem send_bar (s : State) (m : Msg) : (send s m).bar = s.bar := rfl
@[simp] theorem send_irqs (s : State) (m : Msg) : (send s m).irqs = s.irqs := rfl
@[simp] theorem send_mem (s : State) (m : Msg) : (send s m).mem = s.mem := rfl
@[simp] theorem send_memPoison (s : State) (m : Msg) : (send s m).memPoison = s.memPoison := rfl
@[simp] theorem send_homes (s : State) (m : Msg) : (send s m).homes = s.homes := rfl
@[simp] theorem send_l2 (s : State) (m : Msg) : (send s m).l2 = s.l2 := rfl
@[simp] theorem send_l2Wait (s : State) (m : Msg) : (send s m).l2Wait = s.l2Wait := rfl
@[simp] theorem send_l2Evict (s : State) (m : Msg) : (send s m).l2Evict = s.l2Evict := rfl
@[simp] theorem send_stamps (s : State) (m : Msg) : (send s m).stamps = s.stamps := rfl
@[simp] theorem send_l1 (s : State) (m : Msg) : (send s m).l1 = s.l1 := rfl
@[simp] theorem send_holding (s : State) (m : Msg) : (send s m).holding = s.holding := rfl
@[simp] theorem send_rdc (s : State) (m : Msg) : (send s m).rdc = s.rdc := rfl
@[simp] theorem send_hostLines (s : State) (m : Msg) : (send s m).hostLines = s.hostLines := rfl
@[simp] theorem send_msgs (s : State) (m : Msg) : (send s m).msgs = s.msgs ++ [{ m with serial := s.msgSeq }] := rfl
@[simp] theorem send_msgSeq (s : State) (m : Msg) : (send s m).msgSeq = s.msgSeq + 1 := rfl
@[simp] theorem send_coreTlb (s : State) (m : Msg) : (send s m).coreTlb = s.coreTlb := rfl
@[simp] theorem send_hamletTlb (s : State) (m : Msg) : (send s m).hamletTlb = s.hamletTlb := rfl
@[simp] theorem send_devTlb (s : State) (m : Msg) : (send s m).devTlb = s.devTlb := rfl
@[simp] theorem send_aheadTlb (s : State) (m : Msg) : (send s m).aheadTlb = s.aheadTlb := rfl
@[simp] theorem send_walkQ (s : State) (m : Msg) : (send s m).walkQ = s.walkQ := rfl
@[simp] theorem send_walking (s : State) (m : Msg) : (send s m).walking = s.walking := rfl
@[simp] theorem send_walkFails (s : State) (m : Msg) : (send s m).walkFails = s.walkFails := rfl
@[simp] theorem send_invals (s : State) (m : Msg) : (send s m).invals = s.invals := rfl
@[simp] theorem send_bias (s : State) (m : Msg) : (send s m).bias = s.bias := rfl
@[simp] theorem send_biasWait (s : State) (m : Msg) : (send s m).biasWait = s.biasWait := rfl
@[simp] theorem send_biasHeld (s : State) (m : Msg) : (send s m).biasHeld = s.biasHeld := rfl
@[simp] theorem send_storers (s : State) (m : Msg) : (send s m).storers = s.storers := rfl
@[simp] theorem send_placers (s : State) (m : Msg) : (send s m).placers = s.placers := rfl
@[simp] theorem send_twinAtoms (s : State) (m : Msg) : (send s m).twinAtoms = s.twinAtoms := rfl
@[simp] theorem send_twinOps (s : State) (m : Msg) : (send s m).twinOps = s.twinOps := rfl
@[simp] theorem send_hostRead (s : State) (m : Msg) : (send s m).hostRead = s.hostRead := rfl
@[simp] theorem send_cmds (s : State) (m : Msg) : (send s m).cmds = s.cmds := rfl
@[simp] theorem send_events (s : State) (m : Msg) : (send s m).events = s.events := rfl
@[simp] theorem send_ctxs (s : State) (m : Msg) : (send s m).ctxs = s.ctxs := rfl
@[simp] theorem send_groups (s : State) (m : Msg) : (send s m).groups = s.groups := rfl
@[simp] theorem send_ahead (s : State) (m : Msg) : (send s m).ahead = s.ahead := rfl
@[simp] theorem send_teams (s : State) (m : Msg) : (send s m).teams = s.teams := rfl
@[simp] theorem send_nextTeam (s : State) (m : Msg) : (send s m).nextTeam = s.nextTeam := rfl
@[simp] theorem send_cur (s : State) (m : Msg) : (send s m).cur = s.cur := rfl
@[simp] theorem send_syncTab (s : State) (m : Msg) : (send s m).syncTab = s.syncTab := rfl
@[simp] theorem send_syncOps (s : State) (m : Msg) : (send s m).syncOps = s.syncOps := rfl
@[simp] theorem send_frontier (s : State) (m : Msg) : (send s m).frontier = s.frontier := rfl
@[simp] theorem send_reds (s : State) (m : Msg) : (send s m).reds = s.reds := rfl
@[simp] theorem send_rays (s : State) (m : Msg) : (send s m).rays = s.rays := rfl
@[simp] theorem send_bins (s : State) (m : Msg) : (send s m).bins = s.bins := rfl
@[simp] theorem send_treelets (s : State) (m : Msg) : (send s m).treelets = s.treelets := rfl
@[simp] theorem send_tiles (s : State) (m : Msg) : (send s m).tiles = s.tiles := rfl
@[simp] theorem send_tileAdds (s : State) (m : Msg) : (send s m).tileAdds = s.tileAdds := rfl
@[simp] theorem send_flushing (s : State) (m : Msg) : (send s m).flushing = s.flushing := rfl
@[simp] theorem send_cmdEnds (s : State) (m : Msg) : (send s m).cmdEnds = s.cmdEnds := rfl
@[simp] theorem send_engines (s : State) (m : Msg) : (send s m).engines = s.engines := rfl
@[simp] theorem send_pairReds (s : State) (m : Msg) : (send s m).pairReds = s.pairReds := rfl
@[simp] theorem send_quads (s : State) (m : Msg) : (send s m).quads = s.quads := rfl
@[simp] theorem send_images (s : State) (m : Msg) : (send s m).images = s.images := rfl
@[simp] theorem send_grids (s : State) (m : Msg) : (send s m).grids = s.grids := rfl
@[simp] theorem send_served (s : State) (m : Msg) : (send s m).served = s.served := rfl
@[simp] theorem send_window (s : State) (m : Msg) : (send s m).window = s.window := rfl
@[simp] theorem send_runs (s : State) (m : Msg) : (send s m).runs = s.runs := rfl
@[simp] theorem send_logWait (s : State) (m : Msg) : (send s m).logWait = s.logWait := rfl
@[simp] theorem send_nextId (s : State) (m : Msg) : (send s m).nextId = s.nextId := rfl
@[simp] theorem send_draws (s : State) (m : Msg) : (send s m).draws = s.draws := rfl
@[simp] theorem send_sched (s : State) (m : Msg) : (send s m).sched = s.sched := rfl

end Sys2Proof.Machine
end

