-- ==== Sys2Proof/Tests/Slice0.lean ====
section
/-!
SUPPORT. Tests. Words written out from the encodings of the spec decode to their instructions; each check on operands
refuses a term; results worked in the spec; and, for each statement with hypotheses, states and operands that meet them.
-/

namespace Sys2Proof.Tests

open Sys2Proof.Machine Sys2Proof.Safety

set_option Elab.async false

/-- Words that decode whole to their instructions, which are well-formed. -/
abbrev decodesAll (ps : List (List Word × Instr)) : Prop := ∀ p ∈ ps, decodeWords p.1 = .ok (p.2, []) ∧ p.2.wf = true

theorem test_decode_integer : decodesAll [
    ([0x00200C7D, 0xFC000000], .vaddI32 ⟨true, 0x0, 0x18, 0x7D⟩ (some ⟨false, 0, 0⟩)),
    ([0x00440C7D], .vsubI32 ⟨false, 0x10, 0x18, 0x7D⟩ none), ([0x00840C7D], .vaddsI32 ⟨false, 0x10, 0x18, 0x7D⟩ none),
    ([0x00C40C7D, 0xFC002C00], .vsubsI32 ⟨false, 0x10, 0x18, 0x7D⟩ (some ⟨true, 3, 0⟩)),
    ([0x01040C7D], .vaddsN32 ⟨false, 0x10, 0x18, 0x7D⟩ none), ([0x01600C7D], .vsubsN32 ⟨true, 0x0, 0x18, 0x7D⟩ none),
    ([0x01840C7D, 0xFC001800], .vminI32 ⟨false, 0x10, 0x18, 0x7D⟩ (some ⟨false, 6, 0⟩)),
    ([0x01C40C7D], .vmaxI32 ⟨false, 0x10, 0x18, 0x7D⟩ none), ([0x02040C7D], .vminN32 ⟨false, 0x10, 0x18, 0x7D⟩ none),
    ([0x02440C7D, 0xFC002400], .vmaxN32 ⟨false, 0x10, 0x18, 0x7D⟩ (some ⟨true, 1, 0⟩)),
    ([0x02A00C7D], .vabsdI32 ⟨true, 0x0, 0x18, 0x7D⟩ none), ([0x02C40C7D], .vabsdN32 ⟨false, 0x10, 0x18, 0x7D⟩ none),
    ([0x03040C7D, 0xFC001000], .vmulI32 ⟨false, 0x10, 0x18, 0x7D⟩ (some ⟨false, 4, 0⟩)),
    ([0x03440C7D], .vmulhiI32 ⟨false, 0x10, 0x18, 0x7D⟩ none), ([0x03840C7D], .vmulhiN32 ⟨false, 0x10, 0x18, 0x7D⟩ none),
    ([0x04200C7D, 0xFC003C7F], .vmadI32 ⟨true, 0x0, 0x18, 0x7D⟩ ⟨true, 7, 127⟩),
    ([0x04440C7D, 0xFC00007C], .vdp4I8 ⟨false, 0x10, 0x18, 0x7D⟩ ⟨false, 0, 124⟩),
    ([0x04840C7D, 0xFC00247D], .vdp4N8 ⟨false, 0x10, 0x18, 0x7D⟩ ⟨true, 1, 125⟩),
    ([0x04C40C7D, 0xFC00087E], .vdp2I16 ⟨false, 0x10, 0x18, 0x7D⟩ ⟨false, 2, 126⟩)] := by decide +kernel

theorem test_decode_logic : decodesAll [
    ([0x06040C7D], .vandB32 ⟨false, 0x10, 0x18, 0x7D⟩ none), ([0x06600C7D], .vorB32 ⟨true, 0x0, 0x18, 0x7D⟩ none),
    ([0x06840C7D, 0xFC003400], .vxorB32 ⟨false, 0x10, 0x18, 0x7D⟩ (some ⟨true, 5, 0⟩)),
    ([0x06C40C7D], .vandnB32 ⟨false, 0x10, 0x18, 0x7D⟩ none), ([0x07040C7D], .vornB32 ⟨false, 0x10, 0x18, 0x7D⟩ none),
    ([0x07440C7D, 0xFC000000], .vxnorB32 ⟨false, 0x10, 0x18, 0x7D⟩ (some ⟨false, 0, 0⟩)),
    ([0x08200C7D], .vshlB32 ⟨true, 0x0, 0x18, 0x7D⟩ none), ([0x08440C7D], .vshrN32 ⟨false, 0x10, 0x18, 0x7D⟩ none),
    ([0x08840C7D, 0xFC002C00], .vshrI32 ⟨false, 0x10, 0x18, 0x7D⟩ (some ⟨true, 3, 0⟩)),
    ([0x08C40C7D], .vrotlB32 ⟨false, 0x10, 0x18, 0x7D⟩ none), ([0x09040C7D], .vrotrB32 ⟨false, 0x10, 0x18, 0x7D⟩ none),
    ([0x0A043F00, 0xFC001800], .vpopcB32 ⟨false, 0x10, 0x7E⟩ (some ⟨false, 6, 0⟩)),
    ([0x0A443F00], .vclzB32 ⟨false, 0x10, 0x7E⟩ none), ([0x0A843F00], .vctzB32 ⟨false, 0x10, 0x7E⟩ none),
    ([0x0AC43F00, 0xFC002400], .vbrevB32 ⟨false, 0x10, 0x7E⟩ (some ⟨true, 1, 0⟩)),
    ([0x0B043F00], .vnegI32 ⟨false, 0x10, 0x7E⟩ none), ([0x0B443F00], .vabsI32 ⟨false, 0x10, 0x7E⟩ none),
    ([0x0B843F00, 0xFC001000], .vmovB32 ⟨false, 0x10, 0x7E⟩ (some ⟨false, 4, 0⟩)),
    ([0x0BC43F00], .vnotB32 ⟨false, 0x10, 0x7E⟩ none),
    ([0x0C040C7D, 0xFC00187E], .vbfxN32 ⟨false, 0x10, 0x18, 0x7D⟩ ⟨false, 6, 126⟩),
    ([0x0C440C7D, 0xFC003C7F], .vbfxI32 ⟨false, 0x10, 0x18, 0x7D⟩ ⟨true, 7, 127⟩),
    ([0x0CA00C7D, 0xFC00007C], .vbfiB32 ⟨true, 0x0, 0x18, 0x7D⟩ ⟨false, 0, 124⟩),
    ([0x0CC40C7D, 0xFC00247D], .vfshB32 ⟨false, 0x10, 0x18, 0x7D⟩ ⟨true, 1, 125⟩),
    ([0x0D040C7D, 0xFC00087E], .vprmB8 ⟨false, 0x10, 0x18, 0x7D⟩ ⟨false, 2, 126⟩)] := by decide +kernel

theorem test_decode_scalarOperands : decodesAll [
    ([0x0E040C6A], .vaddI32Vs ⟨false, 0x10, 0x18, true, 0x2A⟩ none),
    ([0x0E440C6A], .vsubI32Vs ⟨false, 0x10, 0x18, true, 0x2A⟩ none),
    ([0x0E840C6A, 0xFC003400], .vmulI32Vs ⟨false, 0x10, 0x18, true, 0x2A⟩ (some ⟨true, 5, 0⟩)),
    ([0x0EC40C6A], .vandB32Vs ⟨false, 0x10, 0x18, true, 0x2A⟩ none),
    ([0x0F040C6A], .vorB32Vs ⟨false, 0x10, 0x18, true, 0x2A⟩ none),
    ([0x0F440C6A, 0xFC000000], .vxorB32Vs ⟨false, 0x10, 0x18, true, 0x2A⟩ (some ⟨false, 0, 0⟩)),
    ([0x0F840C6A], .vshlB32Vs ⟨false, 0x10, 0x18, true, 0x2A⟩ none),
    ([0x0FC40C6A], .vshrN32Vs ⟨false, 0x10, 0x18, true, 0x2A⟩ none),
    ([0x10040C52, 0xFDC01267], .vaddI32Vi ⟨false, 0x10, 0x18, 0xA5C01267⟩),
    ([0x10440C52, 0xFDC01268], .vmulI32Vi ⟨false, 0x10, 0x18, 0xA5C01268⟩),
    ([0x10840C52, 0xFDC01269], .vandB32Vi ⟨false, 0x10, 0x18, 0xA5C01269⟩),
    ([0x10C40C52, 0xFDC0126A], .vorB32Vi ⟨false, 0x10, 0x18, 0xA5C0126A⟩),
    ([0x11040C52, 0xFDC0126B], .vxorB32Vi ⟨false, 0x10, 0x18, 0xA5C0126B⟩),
    ([0x1144002D, 0xFC3FEDCB], .vmovB32Vi ⟨false, 0x10, 0x5A3FEDCB⟩),
    ([0x11840C52, 0xFDC0126D], .faddF32Vi ⟨false, 0x10, 0x18, 0xA5C0126D⟩),
    ([0x11C40C52, 0xFDC0126E], .fmulF32Vi ⟨false, 0x10, 0x18, 0xA5C0126E⟩)] := by decide +kernel

theorem test_decode_predicates : decodesAll [
    ([0x12D80C7D], .cmpI32 ⟨3, 6, 0x18, 0x7D⟩ none),
    ([0x14D80C7D, 0xFC001000], .cmpN32 ⟨3, 6, 0x18, 0x7D⟩ (some ⟨false, 4, 0⟩)),
    ([0x16D80C7D], .cmpF32 ⟨3, 6, 0x18, 0x7D⟩ none), ([0x181AA800], .pand ⟨6, 5, 2, true, false⟩ none),
    ([0x185AA800, 0xFC003C00], .por ⟨6, 5, 2, true, false⟩ (some ⟨true, 7, 0⟩)),
    ([0x189AA800], .pxor ⟨6, 5, 2, true, false⟩ none), ([0x18DAA800], .pandn ⟨6, 5, 2, true, false⟩ none),
    ([0x191A8800, 0xFC000800], .pmov ⟨6, 5, true⟩ (some ⟨false, 2, 0⟩)), ([0x195A8800], .voteAny ⟨6, 5, true⟩ none),
    ([0x199A8800], .voteAll ⟨6, 5, true⟩ none), ([0x19DA8800, 0xFC003400], .voteUni ⟨6, 5, true⟩ (some ⟨true, 5, 0⟩)),
    ([0x1B600C7D], .vselB32 5 ⟨true, 0x0, 0x18, 0x7D⟩ none)] := by decide +kernel

theorem test_decode_laneMoves : decodesAll [
    ([0x1C040C7D], .vshflIdxB32 ⟨false, 0x10, 0x18, 0x7D⟩ none),
    ([0x1C440C7D, 0xFC000000], .vshflUpB32 ⟨false, 0x10, 0x18, 0x7D⟩ (some ⟨false, 0, 0⟩)),
    ([0x1C840C7D], .vshflDnB32 ⟨false, 0x10, 0x18, 0x7D⟩ none), ([0x1CC40C7D], .vshflXorB32 ⟨false, 0x10, 0x18, 0x7D⟩ none),
    ([0x1E040015, 0xFC002C00], .vbcstB32 ⟨false, 0x10, false, 0x15⟩ (some ⟨true, 3, 0⟩)),
    ([0x1E440C6A], .vbcstLaneB32 ⟨false, 0x10, 0x18, true, 0x2A⟩ none), ([0x1E8ACC15], .vgetB32 ⟨0x2B, 0x18, false, 0x15⟩ none),
    ([0x20040C0B, 0xFC001800], .vrdxB32 ⟨false, 0x10, 0x18, 0xB⟩ (some ⟨false, 6, 0⟩)),
    ([0x20440C0B], .vwrxB32 ⟨false, 0x10, 0x18, 0xB⟩ none)] := by decide +kernel

theorem test_decode_conversions : decodesAll [
    ([0x22043F00], .cvtF32I32 ⟨false, 0x10, 0x7E⟩ none),
    ([0x22443F00, 0xFC002400], .cvtF32N32 ⟨false, 0x10, 0x7E⟩ (some ⟨true, 1, 0⟩)),
    ([0x22843F00], .cvtI32F32 ⟨false, 0x10, 0x7E⟩ none), ([0x22C43F00], .cvtN32F32 ⟨false, 0x10, 0x7E⟩ none),
    ([0x23043F00, 0xFC001000], .cvtF16F32 ⟨false, 0x10, 0x7E⟩ (some ⟨false, 4, 0⟩)),
    ([0x23443F00], .cvtBf16F32 ⟨false, 0x10, 0x7E⟩ none), ([0x23843F00], .cvtF32F16 ⟨false, 0x10, 0x7E⟩ none),
    ([0x23C43F00, 0xFC003C00], .cvtF32Bf16 ⟨false, 0x10, 0x7E⟩ (some ⟨true, 7, 0⟩)),
    ([0x24040C7D], .cvtF16x2F32 ⟨false, 0x10, 0x18, 0x7D⟩ none), ([0x24440C7D], .cvtBf16x2F32 ⟨false, 0x10, 0x18, 0x7D⟩ none)] := by decide +kernel

theorem test_decode_packing : decodesAll [
    ([0x26200C7D, 0xFC000800], .pkE4m3 ⟨true, 0x0, 0x18, 0x7D⟩ (some ⟨false, 2, 0⟩)),
    ([0x26440C7D], .pkE5m2 ⟨false, 0x10, 0x18, 0x7D⟩ none), ([0x26840C7D], .pkE3m2 ⟨false, 0x10, 0x18, 0x7D⟩ none),
    ([0x26C40C7D, 0xFC003400], .pkE2m3 ⟨false, 0x10, 0x18, 0x7D⟩ (some ⟨true, 5, 0⟩)),
    ([0x27040C7D], .pkE2m1 ⟨false, 0x10, 0x18, 0x7D⟩ none), ([0x27600C7D], .pkI8 ⟨true, 0x0, 0x18, 0x7D⟩ none),
    ([0x27840C7D, 0xFC000000], .pkI4 ⟨false, 0x10, 0x18, 0x7D⟩ (some ⟨false, 0, 0⟩)),
    ([0x28040C7D, 0xFC00247D], .pkqN8 ⟨false, 0x10, 0x18, 0x7D⟩ ⟨true, 1, 125⟩),
    ([0x28440C7D, 0xFC00087E], .pkqN4 ⟨false, 0x10, 0x18, 0x7D⟩ ⟨false, 2, 126⟩),
    ([0x2A040C7D, 0xFC002C00], .upkE4m3 ⟨false, 0x10, 0x18, 0x7D⟩ (some ⟨true, 3, 0⟩)),
    ([0x2A600C7D], .upkE5m2 ⟨true, 0x0, 0x18, 0x7D⟩ none), ([0x2A840C7D], .upkE3m2 ⟨false, 0x10, 0x18, 0x7D⟩ none),
    ([0x2AC40C7D, 0xFC001800], .upkE2m3 ⟨false, 0x10, 0x18, 0x7D⟩ (some ⟨false, 6, 0⟩)),
    ([0x2B040C7D], .upkE2m1 ⟨false, 0x10, 0x18, 0x7D⟩ none), ([0x2B440C7D], .upkI8 ⟨false, 0x10, 0x18, 0x7D⟩ none),
    ([0x2BA00C7D, 0xFC002400], .upkI4 ⟨true, 0x0, 0x18, 0x7D⟩ (some ⟨true, 1, 0⟩))] := by decide +kernel

theorem test_decode_scalarImmediates : decodesAll [
    ([0x2C389C61, 0xFDD2129E], .saddIwSi ⟨true, 0x31, 0xE, 0xC3D2129E⟩),
    ([0x2C789C61, 0xFDD2129F], .sandBwSi ⟨true, 0x31, 0xE, 0xC3D2129F⟩),
    ([0x2CB89C61, 0xFDD212A0], .sorBwSi ⟨true, 0x31, 0xE, 0xC3D212A0⟩),
    ([0x2CF89C61, 0xFDD212A1], .sxorBwSi ⟨true, 0x31, 0xE, 0xC3D212A1⟩),
    ([0x2D188061, 0xFDD21234], .smovBw ⟨false, 0x31, 0xC3D21234⟩),
    ([0x2D789C61, 0xFDD212A3], .smulIwSi ⟨true, 0x31, 0xE, 0xC3D212A3⟩), ([0x2E040C7D], .upkN8 ⟨false, 0x10, 0x18, 0x7D⟩ none),
    ([0x2E440C7D], .upkN4 ⟨false, 0x10, 0x18, 0x7D⟩ none)] := by decide +kernel

theorem test_decode_floating : decodesAll [
    ([0x30040C7D, 0xFC000800], .faddF32 ⟨false, 0x10, 0x18, 0x7D⟩ (some ⟨false, 2, 0⟩)),
    ([0x30600C7D], .fsubF32 ⟨true, 0x0, 0x18, 0x7D⟩ none), ([0x30840C7D], .fmulF32 ⟨false, 0x10, 0x18, 0x7D⟩ none),
    ([0x30C40C7D, 0xFC003400], .fminF32 ⟨false, 0x10, 0x18, 0x7D⟩ (some ⟨true, 5, 0⟩)),
    ([0x31040C7D], .fmaxF32 ⟨false, 0x10, 0x18, 0x7D⟩ none), ([0x31443F00], .fabsF32 ⟨false, 0x10, 0x7E⟩ none),
    ([0x31843F00, 0xFC000000], .fnegF32 ⟨false, 0x10, 0x7E⟩ (some ⟨false, 0, 0⟩)),
    ([0x31C40C7D], .fsgnF32 ⟨false, 0x10, 0x18, 0x7D⟩ none),
    ([0x32040C7D, 0xFC00087E], .ffmaF32 ⟨false, 0x10, 0x18, 0x7D⟩ ⟨false, 2, 126⟩),
    ([0x32440C7D, 0xFC002C7F], .ffmsF32 ⟨false, 0x10, 0x18, 0x7D⟩ ⟨true, 3, 127⟩),
    ([0x32840C7D, 0xFC00107C], .fnfmaF32 ⟨false, 0x10, 0x18, 0x7D⟩ ⟨false, 4, 124⟩),
    ([0x32E00C7D, 0xFC00347D], .fnfmsF32 ⟨true, 0x0, 0x18, 0x7D⟩ ⟨true, 5, 125⟩)] := by decide +kernel

theorem test_decode_packedFloating : decodesAll [
    ([0x34040C7D, 0xFC001800], .haddF16x2 ⟨false, 0x10, 0x18, 0x7D⟩ (some ⟨false, 6, 0⟩)),
    ([0x34440C7D], .hmulF16x2 ⟨false, 0x10, 0x18, 0x7D⟩ none), ([0x34840C7D], .hminF16x2 ⟨false, 0x10, 0x18, 0x7D⟩ none),
    ([0x34C40C7D, 0xFC002400], .hmaxF16x2 ⟨false, 0x10, 0x18, 0x7D⟩ (some ⟨true, 1, 0⟩)),
    ([0x35200C7D], .haddBf16x2 ⟨true, 0x0, 0x18, 0x7D⟩ none), ([0x35440C7D], .hmulBf16x2 ⟨false, 0x10, 0x18, 0x7D⟩ none),
    ([0x35840C7D, 0xFC001000], .hminBf16x2 ⟨false, 0x10, 0x18, 0x7D⟩ (some ⟨false, 4, 0⟩)),
    ([0x35C40C7D], .hmaxBf16x2 ⟨false, 0x10, 0x18, 0x7D⟩ none),
    ([0x36040C7D, 0xFC00187E], .hfmaF16x2 ⟨false, 0x10, 0x18, 0x7D⟩ ⟨false, 6, 126⟩),
    ([0x36600C7D, 0xFC003C7F], .hfmaBf16x2 ⟨true, 0x0, 0x18, 0x7D⟩ ⟨true, 7, 127⟩),
    ([0x36840C7D, 0xFC00007C], .hdot2F32F16x2 ⟨false, 0x10, 0x18, 0x7D⟩ ⟨false, 0, 124⟩),
    ([0x36C40C7D, 0xFC00247D], .hdot2F32Bf16x2 ⟨false, 0x10, 0x18, 0x7D⟩ ⟨true, 1, 125⟩),
    ([0x38043F00, 0xFC000800], .frndF32 ⟨false, 0x10, 0x7E⟩ (some ⟨false, 2, 0⟩)),
    ([0x38443F00], .ffloorF32 ⟨false, 0x10, 0x7E⟩ none), ([0x38843F00], .fceilF32 ⟨false, 0x10, 0x7E⟩ none),
    ([0x38C43F00, 0xFC003400], .ftruncF32 ⟨false, 0x10, 0x7E⟩ (some ⟨true, 5, 0⟩)),
    ([0x39043F00], .ffractF32 ⟨false, 0x10, 0x7E⟩ none), ([0x39443F00], .fclassF32 ⟨false, 0x10, 0x7E⟩ none),
    ([0x3A040C2A, 0xFC000000], .faddF32Vs ⟨false, 0x10, 0x18, 0x2A⟩ (some ⟨false, 0, 0⟩)),
    ([0x3A440C2A], .fmulF32Vs ⟨false, 0x10, 0x18, 0x2A⟩ none), ([0x3A840C2A], .fminF32Vs ⟨false, 0x10, 0x18, 0x2A⟩ none),
    ([0x3AC40C2A, 0xFC002C00], .fmaxF32Vs ⟨false, 0x10, 0x18, 0x2A⟩ (some ⟨true, 3, 0⟩))] := by decide +kernel

theorem test_decode_scalar : decodesAll [
    ([0x3C389C2D], .saddIw ⟨true, 0x31, 0xE, false, 0x2D⟩), ([0x3C789DF3], .ssubIw ⟨true, 0x31, 0xE, true, 0xF3⟩),
    ([0x3CB89C2D], .smulIw ⟨true, 0x31, 0xE, false, 0x2D⟩), ([0x3CF89DF3], .sandBw ⟨true, 0x31, 0xE, true, 0xF3⟩),
    ([0x3D389C2D], .sorBw ⟨true, 0x31, 0xE, false, 0x2D⟩), ([0x3D789DF3], .sxorBw ⟨true, 0x31, 0xE, true, 0xF3⟩),
    ([0x3DB89C2D], .sshlBw ⟨true, 0x31, 0xE, false, 0x2D⟩), ([0x3DF89DF3], .sshrNw ⟨true, 0x31, 0xE, true, 0xF3⟩),
    ([0x3E389C2D], .sshrIw ⟨true, 0x31, 0xE, false, 0x2D⟩), ([0x3E789DF3], .sminIw ⟨true, 0x31, 0xE, true, 0xF3⟩),
    ([0x3EB89C2D], .smaxIw ⟨true, 0x31, 0xE, false, 0x2D⟩), ([0x3EF89DF3], .sminNw ⟨true, 0x31, 0xE, true, 0xF3⟩),
    ([0x3F389C2D], .smaxNw ⟨true, 0x31, 0xE, false, 0x2D⟩), ([0x3F789DF3], .sseqBw ⟨true, 0x31, 0xE, true, 0xF3⟩),
    ([0x3FB89C2D], .ssltIw ⟨true, 0x31, 0xE, false, 0x2D⟩), ([0x3FF89DF3], .ssltNw ⟨true, 0x31, 0xE, true, 0xF3⟩)] := by decide +kernel

theorem test_decode_transcendental : decodesAll [
    ([0x40043F00], .frcpF32 ⟨false, 0x10, 0x7E⟩ none),
    ([0x40443F00, 0xFC003400], .frsqF32 ⟨false, 0x10, 0x7E⟩ (some ⟨true, 5, 0⟩)),
    ([0x40843F00], .fsqrtF32 ⟨false, 0x10, 0x7E⟩ none), ([0x40C43F00], .fexp2F32 ⟨false, 0x10, 0x7E⟩ none),
    ([0x41043F00, 0xFC000000], .flog2F32 ⟨false, 0x10, 0x7E⟩ (some ⟨false, 0, 0⟩)),
    ([0x41443F00], .fsinF32 ⟨false, 0x10, 0x7E⟩ none), ([0x41843F00], .fcosF32 ⟨false, 0x10, 0x7E⟩ none),
    ([0x41C43F00, 0xFC002C00], .ftanhF32 ⟨false, 0x10, 0x7E⟩ (some ⟨true, 3, 0⟩)),
    ([0x42040C7D], .fdivF32 ⟨false, 0x10, 0x18, 0x7D⟩ none), ([0x42440C7D], .fatan2F32 ⟨false, 0x10, 0x18, 0x7D⟩ none)] := by decide +kernel

theorem test_decode_loadsAndStores : decodesAll [
    ([0x50010313, 0xFC001800], .ldgN8 ⟨0, 0x10, 0x18, 0x13⟩ (some ⟨false, 6, 0⟩)),
    ([0x50490313], .ldgI8 ⟨1, 0x10, 0x18, 0x13⟩ none), ([0x50910313], .ldgN16 ⟨2, 0x10, 0x18, 0x13⟩ none),
    ([0x50D90313, 0xFC002400], .ldgI16 ⟨3, 0x10, 0x18, 0x13⟩ (some ⟨true, 1, 0⟩)),
    ([0x51210313], .ldgB32 ⟨4, 0x10, 0x18, 0x13⟩ none), ([0x51690313], .ldgB64 ⟨5, 0x10, 0x18, 0x13⟩ none),
    ([0x51810313, 0xFC001000], .ldgB128 ⟨0, 0x10, 0x18, 0x13⟩ (some ⟨false, 4, 0⟩)),
    ([0x52090313], .stgB8 ⟨1, 0x10, 0x18, 0x13⟩ none), ([0x52510313], .stgB16 ⟨2, 0x10, 0x18, 0x13⟩ none),
    ([0x52990313, 0xFC003C00], .stgB32 ⟨3, 0x10, 0x18, 0x13⟩ (some ⟨true, 7, 0⟩)),
    ([0x52E10313], .stgB64 ⟨4, 0x10, 0x18, 0x13⟩ none), ([0x53290313], .stgB128 ⟨5, 0x10, 0x18, 0x13⟩ none),
    ([0x54010313, 0xFC000800], .ldgTB32 ⟨0, 0x10, 0x18, 0x13⟩ (some ⟨false, 2, 0⟩)),
    ([0x54490313], .ldgTB64 ⟨1, 0x10, 0x18, 0x13⟩ none), ([0x54910313], .ldgTB128 ⟨2, 0x10, 0x18, 0x13⟩ none)] := by decide +kernel

theorem test_decode_scratchpad : decodesAll [
    ([0x56190313, 0xFC003400], .ldsB32 ⟨3, 0x10, 0x18, 0x13⟩ (some ⟨true, 5, 0⟩)),
    ([0x56610313], .ldsB64 ⟨4, 0x10, 0x18, 0x13⟩ none), ([0x56A90313], .ldsB128 ⟨5, 0x10, 0x18, 0x13⟩ none),
    ([0x56C10313, 0xFC000000], .stsB32 ⟨0, 0x10, 0x18, 0x13⟩ (some ⟨false, 0, 0⟩)),
    ([0x57090313], .stsB64 ⟨1, 0x10, 0x18, 0x13⟩ none), ([0x57510313], .stsB128 ⟨2, 0x10, 0x18, 0x13⟩ none),
    ([0x581A82B3, 0xFC002C00], .lduB32 ⟨3, 0x28, 0x15, 0x13⟩ (some ⟨true, 3, 0⟩)),
    ([0x586282B3], .lduB64 ⟨4, 0x28, 0x15, 0x13⟩ none), ([0x58AA82B3], .lduB128 ⟨5, 0x28, 0x15, 0x13⟩ none),
    ([0x58C282B3, 0xFC001800], .lduB256 ⟨0, 0x28, 0x15, 0x13⟩ (some ⟨false, 6, 0⟩)),
    ([0x590A82B3], .lduB512 ⟨1, 0x28, 0x15, 0x13⟩ none), ([0x595282B3], .stuB32 ⟨2, 0x28, 0x15, 0x13⟩ none),
    ([0x599A82B3, 0xFC002400], .stuB64 ⟨3, 0x28, 0x15, 0x13⟩ (some ⟨true, 1, 0⟩))] := by decide +kernel

theorem test_decode_atomics : decodesAll [
    ([0x5A210313], .atomAddI32 ⟨4, 0x10, 0x18, 0x13⟩ none), ([0x5A690313], .atomMinI32 ⟨5, 0x10, 0x18, 0x13⟩ none),
    ([0x5A810313, 0xFC001000], .atomMaxI32 ⟨0, 0x10, 0x18, 0x13⟩ (some ⟨false, 4, 0⟩)),
    ([0x5AC90313], .atomMinN32 ⟨1, 0x10, 0x18, 0x13⟩ none), ([0x5B110313], .atomMaxN32 ⟨2, 0x10, 0x18, 0x13⟩ none),
    ([0x5B590313, 0xFC003C00], .atomAndB32 ⟨3, 0x10, 0x18, 0x13⟩ (some ⟨true, 7, 0⟩)),
    ([0x5BA10313], .atomOrB32 ⟨4, 0x10, 0x18, 0x13⟩ none), ([0x5BE90313], .atomXorB32 ⟨5, 0x10, 0x18, 0x13⟩ none),
    ([0x5C010313, 0xFC000800], .atomXchgB32 ⟨0, 0x10, 0x18, 0x13⟩ (some ⟨false, 2, 0⟩)),
    ([0x5C490313, 0xFC002C20], .atomCasB32 ⟨1, 0x10, 0x18, 0x13⟩ ⟨true, 3, 32⟩),
    ([0x5C910313], .atomAddI64 ⟨2, 0x10, 0x18, 0x13⟩ none),
    ([0x5CD90313, 0xFC003400], .atomXchgB64 ⟨3, 0x10, 0x18, 0x13⟩ (some ⟨true, 5, 0⟩)),
    ([0x5D210313, 0xFC001820], .atomCasB64 ⟨4, 0x10, 0x18, 0x13⟩ ⟨false, 6, 32⟩),
    ([0x5E290313], .redAddF32 ⟨5, 0x10, 0x18, 0x13⟩ none),
    ([0x5E410313, 0xFC000000], .redAddBf16x2 ⟨0, 0x10, 0x18, 0x13⟩ (some ⟨false, 0, 0⟩)),
    ([0x5E890313], .redAddI32 ⟨1, 0x10, 0x18, 0x13⟩ none), ([0x5ED10313], .redAddI64 ⟨2, 0x10, 0x18, 0x13⟩ none),
    ([0x5F190313, 0xFC002C00], .redMinF32 ⟨3, 0x10, 0x18, 0x13⟩ (some ⟨true, 3, 0⟩)),
    ([0x5F610313], .redMaxF32 ⟨4, 0x10, 0x18, 0x13⟩ none)] := by decide +kernel

theorem test_decode_orderings : decodesAll [
    ([0x60280313], .pfL1 ⟨5, 0x18, 0x13⟩ none), ([0x60400313, 0xFC001800], .pfL2 ⟨0, 0x18, 0x13⟩ (some ⟨false, 6, 0⟩)),
    ([0x60880313], .pfRdc ⟨1, 0x18, 0x13⟩ none), ([0x63500013], .acq ⟨5, 2, 0x13⟩ none),
    ([0x65580013, 0xFC002400], .rel ⟨5, 3, 0x13⟩ (some ⟨true, 1, 0⟩)), ([0x67600013], .acqrel ⟨5, 4, 0x13⟩ none),
    ([0x692802B3], .invRgn ⟨4, 5, 0x15, 0x13⟩ none), ([0x6A0002B3, 0xFC001000], .barInit ⟨0, 0x15, 0x13⟩ (some ⟨false, 4, 0⟩)),
    ([0x6A495013], .barArr ⟨1, 0x15, 0x13⟩ none), ([0x6A9002B3], .barWait ⟨2, 0x15, 0x13⟩ none),
    ([0x6AD80013, 0xFC003C00], .barSync ⟨3, 0x13⟩ (some ⟨true, 7, 0⟩)), ([0x6C200000], .drainSp 4 none),
    ([0x6C680000], .drainLoc 5 none), ([0x6C800000, 0xFC000800], .drainTwin 0 (some ⟨false, 2, 0⟩)),
    ([0x6CC80000], .drainHost 1 none), ([0x6E100013], .logmark ⟨2, 0x13⟩ none)] := by decide +kernel

theorem test_decode_control : decodesAll [
    ([0x81AFFFF9], .bra ⟨6, true, 0xFFFF9⟩), ([0x81BFFFF9], .braAny ⟨6, true, 0xFFFF9⟩),
    ([0x83AFFFF9, 0xFC012345], .split ⟨6, true, 0xFFFF9⟩ 0x12345), ([0x85AFFFF9], .call ⟨6, true, 0xFFFF9⟩),
    ([0x86000000], .ret), ([0x86400000], .exit), ([0x86800000], .yield), ([0x86C00000], .nop), ([0x870AB000], .brx 0x2B),
    ([0x88000240], .trap 0x24), ([0x88400240], .brk 0x24), ([0x88800000], .tretSkip), ([0x88C00000], .tretRetry),
    ([0x8A000240], .reggrow 0x24), ([0x8A400240], .regshrink 0x24)] := by decide +kernel

theorem test_decode_engines : decodesAll [
    ([0xA0050430, 0xFC001000], .pushc ⟨0, 0x28, 8, 3⟩ (some ⟨false, 4, 0⟩)),
    ([0xA2096D00, 0xFC002821], .qbindIn ⟨1, 0xB, 0x1A⟩ (some ⟨true, 2, 33⟩)),
    ([0xA2516B00, 0xFC002821], .qbindOut ⟨2, 0xB, 0x16⟩ (some ⟨true, 2, 33⟩)),
    ([0xA2996000, 0xFC003C00], .qfree ⟨3, 0xB⟩ (some ⟨true, 7, 0⟩)),
    ([0xA4250330, 0xFC000021], .mloop ⟨4, 0x28, 6, 3⟩ ⟨false, 0, 33⟩),
    ([0xA62D8330, 0xFC002421], .mscale ⟨5, 0x2C, 6, 3⟩ ⟨true, 1, 33⟩),
    ([0xA80042B0, 0xFC000800], .mzero ⟨0, 2, 5, 3⟩ (some ⟨false, 2, 0⟩)), ([0xAA0D4280], .mdrainQ ⟨1, 0x2A, 5⟩ none),
    ([0xAA554280], .mdrainSp ⟨2, 0x2A, 5⟩ none), ([0xAC1D4280, 0xFC003400], .mstat ⟨3, 0x2A, 5⟩ (some ⟨true, 5, 0⟩)),
    ([0xAE258000, 0xFC001821], .mpath ⟨4, 0x2C⟩ ⟨false, 6, 33⟩)] := by decide +kernel

theorem test_decode_rays : decodesAll [
    ([0xC0290300], .rsv ⟨5, 0x10, 0x18⟩ none), ([0xC2010313, 0xFC000000], .spwn ⟨0, 0x10, 0x18, 0x13⟩ (some ⟨false, 0, 0⟩)),
    ([0xC4080313], .trace ⟨1, 0x18, 0x13⟩ none), ([0xC6100000], .epend 2 none),
    ([0xC8190007, 0xFC002C00], .hitattr ⟨3, 0x10, 7⟩ (some ⟨true, 3, 0⟩)), ([0xCA210007], .rayget ⟨4, 0x10, 7⟩ none),
    ([0xCC290007], .rayset ⟨5, 0x10, 7⟩ none)] := by decide +kernel

theorem test_decode_accumulation : decodesAll [
    ([0xCE010000, 0xFC001800], .accum ⟨0, 0x10⟩ (some ⟨false, 6, 0⟩)), ([0xCE090301], .accumPx ⟨1, 0x10, 0x18⟩ none),
    ([0xD0110000], .accaux ⟨2, 0x10⟩ none), ([0xD0190301, 0xFC002400], .accauxPx ⟨3, 0x10, 0x18⟩ (some ⟨true, 1, 0⟩)),
    ([0xD2200000], .ahitAccept 4 none), ([0xD2280001], .ahitAcceptEnd 5 none),
    ([0xD2400000, 0xFC001000], .ahitIgnore 0 (some ⟨false, 4, 0⟩)), ([0xD4080313], .tlpf ⟨1, 0x18, 0x13⟩ none),
    ([0xD612B006], .poolst ⟨2, 0x2B, 6⟩ none), ([0xD81AC003, 0xFC003C00], .dntile ⟨3, 0x2C, 3⟩ (some ⟨true, 7, 0⟩))] := by decide +kernel

theorem test_decode_system : decodesAll [
    ([0xE0105330], .rdsys ⟨2, 5, 0x33⟩), ([0xE207D210], .wrsys ⟨0, 0x7D, 0x21⟩)] := by decide +kernel

/-! ## Operands that each check of a word refuses, beside the nearest that it allows -/

/-- R43 to R45, R190: destinations, NW, vector runs and scalar runs. -/
theorem test_wf_registers :
    (Instr.faddF32 ⟨false, 123, 1, 2⟩ none).wf = true ∧ (Instr.faddF32 ⟨false, 124, 1, 2⟩ none).wf = false ∧
    (Instr.faddF32 ⟨true, 0, 1, 2⟩ none).wf = true ∧ (Instr.faddF32 ⟨true, 1, 1, 2⟩ none).wf = false ∧
    (Instr.pkE4m3 ⟨false, 0, 120, 0⟩ none).wf = true ∧ (Instr.pkE4m3 ⟨false, 0, 122, 0⟩ none).wf = false ∧
    (Instr.pkE4m3 ⟨false, 0, 124, 0⟩ none).wf = false ∧ (Instr.upkI4 ⟨false, 112, 0, 0⟩ none).wf = true ∧
    (Instr.upkI4 ⟨false, 120, 0, 0⟩ none).wf = false ∧ (Instr.lduB512 ⟨0, 56, 0, 0⟩ none).wf = true ∧
    (Instr.lduB512 ⟨0, 60, 0, 0⟩ none).wf = false ∧ (Instr.vrdxB32 ⟨false, 0, 124, 0⟩ none).wf = false ∧
    (Instr.spwn ⟨0, 120, 0, 0⟩ none).wf = false ∧ (Instr.spwn ⟨0, 96, 116, 0⟩ none).wf = false ∧
    (Instr.spwn ⟨0, 112, 112, 0⟩ none).wf = true ∧ (Instr.atomCasB64 ⟨0, 2, 0, 0⟩ ⟨false, 0, 3⟩).wf = false := by decide

/-- R34, R38, R41, R86: counters, an OX word whose C is unused, conditions, and scalar operands. -/
theorem test_wf_fields :
    (Instr.nop).wf = true ∧ (Instr.ldgB32 ⟨5, 0, 0, 0⟩ none).wf = true ∧ (Instr.ldgB32 ⟨6, 0, 0, 0⟩ none).wf = false ∧
    (Instr.vaddI32 ⟨false, 0, 0, 0⟩ (some ⟨true, 7, 0⟩)).wf = true ∧ (Instr.vaddI32 ⟨false, 0, 0, 0⟩ (some ⟨true, 7, 1⟩)).wf = false ∧
    (Instr.cmpI32 ⟨5, 0, 0, 0⟩ none).wf = true ∧ (Instr.cmpI32 ⟨6, 0, 0, 0⟩ none).wf = false ∧ (Instr.cmpF32 ⟨7, 0, 0, 0⟩ none).wf = true ∧
    (Instr.saddIw ⟨false, 0, 0, false, 63⟩).wf = true ∧ (Instr.saddIw ⟨false, 0, 0, false, 64⟩).wf = false ∧
    (Instr.saddIw ⟨false, 0, 0, true, 64⟩).wf = true := by decide

/-- R17, R117, R118, R138, R141: allocations, system registers and scopes. -/
theorem test_wf_system :
    (Instr.reggrow 124).wf = true ∧ (Instr.reggrow 126).wf = false ∧ (Instr.reggrow 4).wf = false ∧ (Instr.regshrink 128).wf = false ∧
    (Instr.rdsys ⟨0, 123, 0x00⟩).wf = true ∧ (Instr.rdsys ⟨0, 124, 0x00⟩).wf = false ∧ (Instr.rdsys ⟨1, 0, 0x00⟩).wf = false ∧
    (Instr.rdsys ⟨2, 7, 0x0C⟩).wf = true ∧ (Instr.rdsys ⟨2, 8, 0x0C⟩).wf = false ∧ (Instr.rdsys ⟨1, 0, 0x0E⟩).wf = false ∧
    (Instr.wrsys ⟨1, 63, 0x20⟩).wf = true ∧ (Instr.wrsys ⟨1, 0, 0x01⟩).wf = false ∧ (Instr.acq ⟨6, 0, 0⟩ none).wf = false ∧
    (Instr.acq ⟨7, 0, 0⟩ none).wf = true ∧ (Instr.invRgn ⟨5, 0, 0, 0⟩ none).wf = true ∧ (Instr.invRgn ⟨6, 0, 0, 0⟩ none).wf = false := by decide

/-- R146, R164, R172, R186, R187, R199: ports, windows, chunks, and the numbers of words, attributes and counts. -/
theorem test_wf_engines :
    (Instr.pushc ⟨0, 56, 3, 0⟩ none).wf = true ∧ (Instr.pushc ⟨0, 56, 4, 0⟩ none).wf = false ∧ (Instr.pushc ⟨0, 56, 8, 0⟩ none).wf = true ∧
    (Instr.qbindIn ⟨0, 0, 0x10⟩ none).wf = true ∧ (Instr.qbindIn ⟨0, 0, 0x14⟩ none).wf = false ∧ (Instr.qbindIn ⟨0, 0, 0x1B⟩ none).wf = true ∧
    (Instr.qbindOut ⟨0, 0, 0x17⟩ (some ⟨false, 0, 123⟩)).wf = true ∧ (Instr.qbindOut ⟨0, 0, 0x17⟩ (some ⟨false, 0, 124⟩)).wf = false ∧
    (Instr.qbindOut ⟨0, 0, 0x18⟩ none).wf = false ∧ (Instr.mzero ⟨0, 3, 7, 0⟩ none).wf = true ∧ (Instr.mzero ⟨0, 3, 8, 0⟩ none).wf = false ∧
    (Instr.mscale ⟨0, 2, 4, 0⟩ ⟨false, 0, 9⟩).wf = true ∧ (Instr.mscale ⟨0, 4, 4, 0⟩ ⟨false, 0, 9⟩).wf = false ∧
    (Instr.mscale ⟨0, 36, 4, 0⟩ ⟨false, 0, 9⟩).wf = true ∧ (Instr.mscale ⟨0, 38, 4, 0⟩ ⟨false, 0, 9⟩).wf = false ∧
    (Instr.rayget ⟨0, 0, 11⟩ none).wf = true ∧ (Instr.rayget ⟨0, 0, 12⟩ none).wf = false ∧ (Instr.rayset ⟨0, 0, 9⟩ none).wf = true ∧
    (Instr.rayset ⟨0, 0, 10⟩ none).wf = false ∧ (Instr.hitattr ⟨0, 0, 8⟩ none).wf = false ∧ (Instr.poolst ⟨0, 0, 8⟩ none).wf = false := by decide

/-! ## Words that no instruction has (R34 to R48) -/

theorem test_rejected :
    decode 0x44000000 none = .error .reservedOpcode ∧ decode 0x03C00000 none = .error .reservedFunction ∧
    decode 0x04000000 none = .error .missingExtension ∧ decode 0x86C00000 (some 0xFC000000) = .error .strayExtension ∧
    decode 0x0A000001 none = .error .mustBeZero := by decide +kernel

/-! ## Witnesses: states and operands that meet the hypotheses of the statements -/

/-- A clause of one word, a nop, at which a group may stand. -/
def clause0 : Clause := ⟨.a, 0x100, 0xFE018001, [0x86C00000], 0⟩

/-- A compute group with every register, standing at that word with all lanes. -/
def group0 : Group := { freshGroup 0 0 0 0 0 124 .compute 0x100 (BitVec.allOnes 128) 0 0 0 with clause := some clause0 }

/-- A device with one group in a live context. -/
def dev (g : Group) : State :=
  { State.reset with groups := [g], ctxs := [(0, { noCtx with live := true })], cur := some (g.core, g.slot), nextId := 10 }

/-- A property of the lanes on, from a check of the 128 lanes. -/
theorem lanes_on {m : Mask} {P : Nat → Prop} (h : ∀ l, l < 128 → m.getLsbD l = true → P l) : ∀ l, On m l → P l :=
  fun l hl => h l hl.1 hl.2

/-- A group whose fields hold no poison and are no windows may compute. -/
theorem laneOp_of {s : State} {g : Group} {c : Clause} {ox : Option Ox} {srcs : List (BitVec 7)} {nw : Bool} {d : BitVec 7}
    (h : issuer s = some (g, c) ∧ (∀ f ∈ srcs ++ dest nw d, windowOf g f = none ∧ beyond g f = false) ∧ activeMask g c ox ≠ 0 ∧ ∀ f ∈ srcs, fieldPoison g f = 0) :
    LaneOp s g c ox srcs nw d :=
  ⟨h.1, h.2.1, h.2.2.1, fun f hf l _ => by simp [h.2.2.2 f hf]⟩

/-- Group 0 with v1 = 7 and v2 = 3 in each lane. -/
def group1 : Group := { group0 with v := [(1, List.replicate 128 7), (2, List.replicate 128 3)] }

/-- Group 0 with 1.0 in v1, in lanes 0 and 127 alone, with every trap of FPCTL enabled. -/
def group2 : Group :=
  { group0 with a := { group0.a with mask := 2 ^ 127 + 1 }, v := [(1, List.replicate 128 0x3F800000)], fpctl := 0x1F0 }

/-- A page of 2 MiB at address 0, mapped on local memory with every access. -/
def leaf0 : Leaf := ⟨0, 0x200000, .loc, 0, .nrm, .dev, false, true, true, true⟩

/-- A device whose context maps that page, with a handler at 0x9000 and frames from 0x100000 on. -/
def devM (g : Group) : State :=
  { dev g with
    ctxs := [(0, { noCtx with live := true, active := [(2, 0x9000), (4, 0x100000)] })]
    coreTlb := [(0, [⟨0, leaf0⟩])] }

/-- A word that a core holds clean. -/
def clean (v : Word) : Copy := ⟨.cln, v, 0, 0xF, false, none⟩

/-! ## Results of the spec's worked examples, and of hand calculation from its rules -/

/-- Lane 0 of a register after a step of group 0. -/
def lane0 (r : Host.Outcome State Fault Refusal) (n : Nat) : Option Word := match r with
  | .next t => (groupAt t 0 0).map fun g => lane (vReg g n) 0
  | _ => none

/-- Group 0 with the given values in lane 0, which alone is on. -/
def groupOf (v : List (Nat × Word)) : Group := { group0 with a := { group0.a with mask := 1 }, v := v.map fun x => (x.1, [x.2]) }

/-- R79 to R83: sums that wrap and saturate, high halves of products, shifts and counts. -/
theorem test_integer :
    lane0 (exec (.vaddI32 ⟨false, 3, 1, 2⟩ none) (dev (groupOf [(1, 0xFFFFFFFF), (2, 2)]))) 3 = some 1 ∧
    lane0 (exec (.vsubsI32 ⟨false, 3, 1, 2⟩ none) (dev (groupOf [(1, 0x80000000), (2, 1)]))) 3 = some 0x80000000 ∧
    lane0 (exec (.vmulhiI32 ⟨false, 3, 1, 2⟩ none) (dev (groupOf [(1, 0xFFFFFFFF), (2, 2)]))) 3 = some 0xFFFFFFFF ∧
    lane0 (exec (.vmulhiN32 ⟨false, 3, 1, 2⟩ none) (dev (groupOf [(1, 0xFFFFFFFF), (2, 2)]))) 3 = some 1 ∧
    lane0 (exec (.vshrI32 ⟨false, 3, 1, 2⟩ none) (dev (groupOf [(1, 0x80000000), (2, 31)]))) 3 = some 0xFFFFFFFF ∧
    lane0 (exec (.vclzB32 ⟨false, 3, 1⟩ none) (dev (groupOf [(1, 0)]))) 3 = some 32 := by decide +kernel

/-- R92, R93, R97, R98: 1 + 1, 1.5 × 2 − 1, 1 / 2, the root of 4, and −1.5 to an integer. -/
theorem test_floating :
    lane0 (exec (.faddF32 ⟨false, 3, 1, 1⟩ none) (dev (groupOf [(1, 0x3F800000)]))) 3 = some 0x40000000 ∧
    lane0 (exec (.ffmsF32 ⟨false, 3, 1, 2⟩ ⟨false, 0, 4⟩) (dev (groupOf [(1, 0x3FC00000), (2, 0x40000000), (4, 0x3F800000)]))) 3 = some 0x40000000 ∧
    lane0 (exec (.fdivF32 ⟨false, 3, 1, 2⟩ none) (dev (groupOf [(1, 0x3F800000), (2, 0x40000000)]))) 3 = some 0x3F000000 ∧
    lane0 (exec (.fsqrtF32 ⟨false, 3, 1⟩ none) (dev (groupOf [(1, 0x40800000)]))) 3 = some 0x40000000 := by decide +kernel

/-- The example of one AQ4 group in one lane (after R102): its codes, and a value restored from each end. -/
theorem test_quantized :
    let g := groupOf [(2, 0x40800000), (3, 8), (5, 0x00083400), (8, 0x3E99999A), (9, 0xBDCCCCCD), (10, 0x3FE00000), (11, 0xC0200000),
      (12, 0x3E000000), (13, 0), (14, 0x3F800000), (15, 0x40A00000), (4, 0x74008701)]
    lane0 (exec (.pkqN4 ⟨false, 4, 8, 2⟩ ⟨false, 0, 3⟩) (dev g)) 4 = some 0x74008701 ∧
    lane0 (exec (.upkN4 ⟨false, 16, 4, 5⟩ none) (dev g)) 16 = some 0x3E800000 ∧
    lane0 (exec (.upkN4 ⟨false, 16, 4, 5⟩ none) (dev g)) 19 = some 0xC0000000 ∧
    lane0 (exec (.upkN4 ⟨false, 16, 4, 5⟩ none) (dev g)) 23 = some 0x3FE00000 := by decide +kernel

/-- The example of one rounding per block (after R70): 1 and two products of 4, scaled by 2^−26, give 1 + 2^−23. -/
theorem test_block :
    scaleValue 0x12 0x1F0 = .fin false 16 (-4) ∧
    Claims.blockInto 0 0x3F800000 ⟨0, scaleValue 0x12 0x1F0, List.replicate 2 (some (elemValue 0x12 4 0, false))⟩
      ⟨0, scaleValue 0x12 0x050, List.replicate 2 (some (elemValue 0x12 4 0, false))⟩ = 0x3F800001 := by decide +kernel

/-- The example of a skipped pair with an infinite partner (after R364): 0 × Inf + 1 + 1 and 0 × 4 + 1 + 1. -/
theorem test_infinitePartner :
    let a : Strip := ⟨0, scaleValue 3 0, [0x00, 0x38, 0x40].map fun c => some (elemValue 3 c 0, false)⟩
    Claims.blockInto 0 0 a ⟨0, scaleValue 4 0, [0x7C, 0x3C, 0x38].map fun c => some (elemValue 4 c 0, false)⟩ = 0x7FC00000 ∧
    Claims.blockInto 0 0 a ⟨1, scaleValue 4 0, [0x44, 0x3C, 0x38].map fun c => some (elemValue 4 c 0, false)⟩ = 0x40000000 := by decide +kernel

/-- The example of mpath (after R168): the bag ends 2, 2, 5 with B implicit, at diagonals 0, 2, 4 and 6. -/
theorem test_mergePath :
    let s := { devM group0 with l1 := [(0, [(0, clean 2), (4, clean 2), (8, clean 5)])] }
    let d : List DWord := [0, 5 * 2 ^ 32 + 3, 0, 1]
    let ends (l v : Nat) : Bool := match mergeLane s group0 d l with
      | .ok x bad _ => x == BitVec.ofNat 32 v && !bad
      | _ => false
    ends 0 0 = true ∧ ends 2 0 = true ∧ ends 4 2 = true ∧ ends 6 2 = true := by decide +kernel

/-- The example of a ray down the shared edge (after R234): both triangles are hit from the front at 1.0. -/
theorem test_sharedEdge :
    let o : List Word := [0x3F800000, 0x40000000, 0x3F800000]
    let d : List Word := [0, 0, 0xBF800000]
    triTest [0, 0, 0, 0x40800000, 0, 0, 0x40800000, 0x41000000, 0] o d = some ⟨0x3F800000, 0, 0x3E800000, false⟩ ∧
    triTest [0, 0, 0, 0x40800000, 0x41000000, 0, 0, 0x41000000, 0] o d = some ⟨0x3F800000, 0x3E800000, 0, false⟩ := by decide +kernel

/-- The examples of R20 and R236: the hamlet of core 41, and the tile of pixel 1,000,000 of a frame of 1,920. -/
theorem test_places : hamletOf 41 = 1 ∧ pixTile 1920 1000000 = 15800 ∧ pixSlot 1920 1000000 = 0 := by decide

/-- Group 0 after a step. -/
def groupIn (r : Host.Outcome State Fault Refusal) : Option Group := match r with
  | .next t => groupAt t 0 0
  | _ => none

/-- Step 1 of the example of a nested split (after R112): the taken lanes 0 to 3 go to slot B. -/
theorem test_split :
    let g := { group0 with a := { group0.a with mask := 0xFF }, p := [(1, 0xF)], splitMax := 3,
                           clause := some { clause0 with words := [0x82400003, 0xFC000005] } }
    (groupIn (exec (.split ⟨1, false, 3⟩ 5) { devM g with l1 := [(0, [(0x110, clean 0xFE018001)])] })).map (fun h => (h.a.mask, h.b.mask, h.b.st, h.a.rpc == h.b.rpc, h.depth)) =
      some (0xF0, 0xF, .running, true, 1) := by decide +kernel

/-- IntegerArithmetic, LogicAndBitFields, ScalarAndImmediateOperands, Select, Comparisons: two sources and a destination at
the ends of the register file, a latch, and NW with a third source. -/
theorem witness_laneOp :
    LaneOp (dev group1) group1 clause0 none [0, 123] false 123 ∧ LaneOp (dev group1) group1 clause0 none [0x7C, 0x7F] true 0 ∧
    LaneOp (dev group1) group1 clause0 (some ⟨false, 0, 3⟩) [1, 2, 3] false 0 ∧ ScalarSound group1 false 63 ∧
    ScalarSound group1 true 0 ∧ plainOx none = true ∧ plainOx (some ⟨true, 7, 0⟩) = true := by
  unfold ScalarSound
  refine ⟨laneOp_of ?_, laneOp_of ?_, laneOp_of ?_, ?_⟩ <;> decide +kernel

/-- LaneMoves: lanes of v1 name lane 7 and registers 7 above A and D. -/
theorem witness_laneMoves :
    (∀ l, On (activeMask group1 clause0 none) l →
      (fieldPoison group1 2).getLsbD (Claims.laneOf (readV group1 1 l)) = false ∧
      (let r := 116 + Claims.laneOf (readV group1 1 l)
       r < group1.regAlloc ∧ windowOf group1 (BitVec.ofNat 7 r) = none ∧ (fieldPoison group1 (BitVec.ofNat 7 r)).getLsbD l = false)) ∧
    (fieldPoison group1 2).getLsbD (Claims.laneNumber group1 true 63) = false ∧
    (fieldPoison group1 2).getLsbD (Claims.laneNumber group1 false 63) = false := by
  refine ⟨lanes_on ?_, ?_⟩ <;> decide +kernel

/-- FloatingPoint, Conversions, PackingAndUnpacking, Comparisons: 1.0 + 0, 1.0 to FP16, four products 1.0 × 0 in eight
bits, and a comparison, raise nothing in either lane. -/
theorem witness_quiet :
    let e := rndEnv group2.fpctl
    let act := activeMask group2 clause0 none
    LaneOp (dev group2) group2 clause0 none [1, 2] false 3 ∧
    Quiet group2 act (fun l => addRes fp32 e (Claims.single e (readV group2 1 l)) (Claims.single e (readV group2 2 l))) ∧
    (∀ l, On act l → fpFaults (enabledTraps group2.fpctl)
      (Claims.oneWord e (Claims.convertOne fp16 e (readV group2 1 l) (lane group2.srseed l))).fl = false) ∧
    (∀ l, On act l → fpFaults (enabledTraps group2.fpctl)
      (Claims.packed e4m3 e ((runFields 4 4).map fun r => Claims.product e (readV group2 r l) (readV group2 1 l)) (lane group2.srseed l)).fl = false) ∧
    (∀ l, On act l → fpFaults (enabledTraps group2.fpctl)
      (Claims.values ((List.range 4).map fun i => mulRes fp32 e (fpRead e4m3 (Claims.element 8 (readV group2 1 l) i).toNat)
        (Claims.single e (readV group2 1 l)))).fl = false) := by
  refine ⟨laneOp_of ?_, lanes_on ?_, lanes_on ?_, lanes_on ?_, lanes_on ?_⟩ <;> decide +kernel

/-- FloatingPointTraps: 1.0 / 0 raises DZ, bit 1, in both lanes, and no lower condition. -/
theorem witness_lowestRaised :
    let e := rndEnv group2.fpctl
    Claims.LowestRaised group2 (activeMask group2 clause0 none)
      (fun l => (divRes e (Claims.single e (readV group2 1 l)) (Claims.single e (readV group2 2 l))).fl) 1 := by
  refine ⟨by decide, ⟨127, by decide +kernel⟩, fun j hj => ?_⟩
  have : j = 0 := by omega
  subst this
  exact lanes_on (by decide +kernel)

/-- RoundingIsExact: finite operands, a divisor that is not 0, and a radicand of 2. -/
theorem witness_finite :
    Claims.Finite (.fin true 3 (-1)) ∧ (3 : Nat) ≠ 0 ∧ fpRead fp32 (0x40000000 : Word).toNat = .fin false (2 ^ 23) (-22) ∧
    ((fpRound fp32 .ne false true 3 (-1) false).fl.getLsbD 2 = false) := by
  refine ⟨⟨true, 3, -1, rfl⟩, ?_⟩
  decide +kernel

/-- ExactTranscendentals: a code that is NaN. -/
theorem witness_nan : fpRead fp32 (0x7FC00001 : Word).toNat = .nan := by decide +kernel

/-- Group 0 with a poisoned lane 127 of v1, and 8 registers. -/
def group3 : Group := { group1 with regAlloc := 8, vPoison := [(1, 2 ^ 127)], fpctl := 0 }

/-- RegistersAndOperands: a field at REGALLOC, a guard that leaves no lane, and a poisoned lane. -/
theorem witness_operandChecks :
    At (dev group3) group3 clause0 ∧ beyond group3 8 = true ∧ beyond group3 7 = false ∧
    activeMask group3 clause0 (some ⟨true, 0, 0⟩) = 0 ∧ Claims.poisoned group3 (activeMask group3 clause0 none) 1 2 = 2 ^ 127 ∧
    ∀ x ∈ [(1 : BitVec 7), 2] ++ dest false 8, windowOf group3 x = none := by
  unfold At
  decide +kernel

/-- Group 0 with v8 bound to an input queue of one element, v9 to an empty one, v10 to an output queue and v11 to a full one. -/
def group4 : Group := { group1 with queues := [(0, ⟨0x10, false, 8, [([5], 0)]⟩), (1, ⟨0x10, false, 9, []⟩),
  (2, ⟨0x14, true, 10, List.replicate 15 ([], 0)⟩), (3, ⟨0x14, true, 11, List.replicate 16 ([], 0)⟩)] }

/-- QueueWindows: each of the four queues where its clause asks for it. -/
theorem witness_queueWindows :
    At (dev group4) group4 clause0 ∧ Claims.PopsFrom group4 8 0 ⟨0x10, false, 8, [([5], 0)]⟩ ([5], 0) [] ∧
    windowOf group4 9 = some (1, ⟨0x10, false, 9, []⟩) ∧
    windowOf group4 10 = some (2, ⟨0x14, true, 10, List.replicate 15 ([], 0)⟩) ∧
    windowOf group4 11 = some (3, ⟨0x14, true, 11, List.replicate 16 ([], 0)⟩) ∧ Plain group4 1 := by
  unfold At Claims.PopsFrom Plain
  decide +kernel

/-- Group 0 with p1 in lane 127 alone, s0 naming the header at 0x108, s1 an odd address, s2 a word that is no header, and
s3 a page that no TLB holds. -/
def group5 : Group :=
  { group0 with p := [(1, 2 ^ 127)], s := [(0, 0x108), (1, 0x10A), (2, 0x10C), (3, 0x1000000000000)], splitMax := 0 }

/-- The headers and words that its core holds. -/
def dev5 (g : Group) : State :=
  { devM g with l1 := [(0, [(0x104, clean 0xFE018001), (0x108, clean 0xFE018001), (0x10C, clean 0x86C00000)])] }

theorem header5 : Claims.HeaderAt (dev5 group5) group5 0x108 :=
  ⟨by decide, 0xFE018001, by decide +kernel, by decide +kernel⟩

/-- Transfers: a guard that holds in every lane, one that holds in lane 127 alone, one that holds in none, and the
targets of each clause. -/
theorem witness_branches :
    At (dev5 group5) group5 clause0 ∧ Claims.AllTake group5 clause0 ⟨0, false, 1⟩ ∧ Claims.target clause0 1 = 0x108 ∧
    Claims.target clause0 (-1) = 0x100 ∧ ¬ Claims.AllTake group5 clause0 ⟨1, false, 1⟩ ∧
    Claims.SomeTake group5 clause0 ⟨1, false, 1⟩ ∧ ¬ Claims.SomeTake group5 clause0 ⟨0, true, 1⟩ ∧
    Claims.HeaderAt (dev5 group5) group5 0x108 ∧ (sReg group5 0).toNat % 2 ^ 48 = 0x108 ∧ tget group5.sPoison 63 false = false := by
  refine ⟨by unfold At; decide +kernel, lanes_on (by decide +kernel), by decide +kernel, by decide +kernel, fun h => ?_,
    ⟨127, by decide +kernel⟩, ?_, header5, by decide +kernel⟩
  · exact absurd (h 0 (by decide +kernel)) (by decide +kernel)
  · rintro ⟨l, hl, hg⟩
    have h0 := lanes_on (m := execMask group5 clause0) (P := fun l => Claims.guardOf group5 ⟨0, true, 1⟩ l = false)
      (by decide +kernel) l hl
    exact Bool.false_ne_true (h0.symm.trans hg)

/-- Transfers: each form of a transfer, where it is one. -/
theorem witness_transfersTo :
    Claims.TransfersTo group5 clause0 (.bra ⟨0, false, 1⟩) 0x108 ∧ Claims.TransfersTo group5 clause0 (.braAny ⟨0, false, -1⟩) 0x100 ∧
    Claims.TransfersTo group5 clause0 (.call ⟨0, false, 1⟩) 0x108 ∧ Claims.TransfersTo group5 clause0 .ret 0 ∧
    Claims.TransfersTo group5 clause0 (.brx 1) 0x10A ∧ Claims.TransfersTo group5 clause0 (.split ⟨1, false, 1⟩ 2) 0x108 := by
  have take : Claims.AllTake group5 clause0 ⟨0, false, 1⟩ := lanes_on (by decide +kernel)
  exact ⟨.bra _ take, .braAny _ (.inr ⟨rfl, rfl⟩), .call _ take, .ret (by decide +kernel), .brx 1 (by decide +kernel), .split _ 2 rfl⟩

/-- Transfers: an odd target, a word without MARK, and a page that faults with another cause than 0x20. -/
theorem witness_transferTraps :
    ((sReg group5 1).toNat % 2 ^ 48) % 4 ≠ 0 ∧ fetchWord (dev5 group5) 0 0 ((sReg group5 2).toNat % 2 ^ 48) = .word 0x86C00000 ∧
    isHeader 0x86C00000 = false ∧
    fetchWord { dev5 group5 with walkFails := [⟨0, 0x3000, 0, .malformed⟩] } 0 0 0x3000000 = .fault 0x21 := by
  decide +kernel

/-- Divergence: a split that every lane takes, one that none takes, one of lane 127 with room for one entry and, beside
a parked slot, without room for three; and one in a handler. -/
theorem witness_split :
    let taken := fun f => among (execMask group5 clause0) (Claims.guardOf group5 f)
    execMask group5 clause0 &&& ~~~taken ⟨0, false, 1⟩ = 0 ∧ taken ⟨0, true, 1⟩ = 0 ∧ taken ⟨1, false, 1⟩ = 2 ^ 127 ∧
    group5.depth + 1 ≤ group5.splitMax + 1 ∧ group5.inHandler = false ∧ group5.splitMax + 1 < group5.depth + 3 ∧
    (∃ x, pushAll (dev5 group5) group5 [fuseEntry 0x108 none] = .ok x) ∧
    At (dev5 { group5 with inHandler := true }) { group5 with inHandler := true } clause0 := by
  refine ⟨by decide +kernel, by decide +kernel, by decide +kernel, by decide, rfl, by decide, ⟨_, rfl⟩, by unfold At; decide +kernel⟩

/-- Divergence: a Fuse entry of join 0x108 on top of the stack, and joins at the end of the range. -/
theorem witness_reconvergence :
    Claims.IsFuse (fuseEntry 0x108 (some 0xFFFFFFFFFFFF)) 0x108 ∧ (fuseEntry 0x108 none).hi.getLsbD 63 = false ∧
    (∀ r, some 0xFFFFFFFFFFFF = some r → r < 2 ^ 48) := by
  refine ⟨by unfold Claims.IsFuse; decide +kernel, by decide +kernel, ?_⟩
  intro r h
  injection h with h
  omega

/-- Group 0 with `n` entries on its split stack, all zero but the top, of the kind given, and slot A parked. -/
def groupS (kind n : Nat) : Group :=
  { group0 with
    clause := none, splitMax := 8, spillBase := 0x150000, depth := n, top := some ⟨BitVec.ofNat 64 (kind * 2 ^ 60 + 0x108), 0⟩,
    a := ⟨.parked, 0x108, 1, some 0x108, 0⟩ }

/-- Divergence: the entries below the top of a stack of two and of three, and the page that a push writes. -/
theorem witness_spilled :
    Claims.Spilled (devM (groupS 1 2)) (groupS 1 2) 0 ⟨0, 0⟩ ∧ Claims.IsFuse ⟨BitVec.ofNat 64 (2 ^ 60 + 0x108), 0⟩ 0x108 ∧
    Claims.IsPending ⟨BitVec.ofNat 64 (2 * 2 ^ 60 + 0x108), 0⟩ ∧ Claims.Spilled (devM (groupS 2 3)) (groupS 2 3) 1 ⟨0, 0⟩ ∧
    Claims.Spilled (Claims.refilled (devM (groupS 2 3)) (groupS 2 3)) { groupS 2 3 with depth := 2 } 0 ⟨0, 0⟩ ∧
    spillAt (devM (groupS 1 2)) (groupS 1 2) 1 .write = .ok leaf0 ∧ (groupS 1 2).b.st = .empty := by
  refine ⟨⟨leaf0, by decide +kernel⟩, ?_, ?_, ⟨leaf0, by decide +kernel⟩, ⟨leaf0, by decide +kernel⟩, by decide +kernel⟩
  · unfold Claims.IsFuse; decide +kernel
  · unfold Claims.IsPending; decide +kernel

/-- TrapEntry: the group may deliver a trap; TrapsWithoutHandler: in a handler, without a handler, with its frame on a
page that is not mapped, and under a debugger. -/
theorem witness_deliverable : Claims.Deliverable (devM group0) group0 leaf0 ∧ dbgOn (devM group0) 0 = false := by
  refine ⟨⟨rfl, by decide +kernel, by decide +kernel⟩, by decide +kernel⟩

theorem witness_trapsNotDelivered :
    trapVec (dropFails (dev group0) 0 0 [0]) 0 = 0 ∧
    xlatNow (dropFails { devM group0 with coreTlb := [] } 0 0 [0]) 0 0 (frameAddr { devM group0 with coreTlb := [] } group0) .write =
      .error 0x20 ∧
    dbgOn { dev group0 with ctxs := [(0, { noCtx with live := true, active := [(6, 1)] })] } 0 = true := by
  decide +kernel

/-- A handler that returns to word 1 of a clause of two. -/
def aside0 : Aside := ⟨{ group0.a with pc := 0xFFC }, emptySlot, .a, none, 0, false, 0⟩
def group6 : Group := { group0 with inHandler := true, aside := some aside0, trapPc := 0 }
def dev6 : State :=
  { devM group6 with mem := [(0x100042, 1), (0x100044, 2), (0x100045, 0x80), (0x100046, 1), (0x100047, 0xFE)] }

/-- TrapReturn: the frame can be read and holds what the clauses ask; outside a handler; a store of the handler. -/
theorem witness_returns :
    ∃ fr, Claims.Returns dev6 group6 aside0 fr ∧ bitsOf (Claims.frame64 fr 16) 16 8 = 1 ∧ hdrN (Claims.frameWord fr 17) = 2 := by
  refine ⟨(List.range 1024).map fun i => (if i = 16 then 0x10000 else if i = 17 then 0xFE018002 else 0, false),
    ⟨rfl, by decide +kernel, ⟨leaf0, by decide +kernel⟩, ?_, rfl, by decide +kernel, by decide +kernel, rfl⟩, by decide +kernel⟩
  intro i hi _
  rw [List.getD_eq_getElem?_getD, List.getElem?_map, List.getElem?_range hi]
  rfl

theorem witness_handlerBusy :
    handlerBusy { group6 with ops := [⟨0, .store 4, 0, 0xFF, false, [], 0, .a, 0, 0⟩] } aside0 = true ∧ group0.aside = none ∧
    xlat { dev6 with coreTlb := [] } 0 0 (frameAddr dev6 group6) .read = .miss := by
  decide +kernel

/-- SystemRegisters: a group of 8 registers that waits for 12, with a load of v4 to v7 outstanding. -/
def group7 : Group :=
  { group0 with regAlloc := 8, grow := some (12, 5), shrink := some 4, ops := [⟨0, .load 16 false, 0, 4, false, [], 0, .a, 0, 0⟩] }

theorem witness_allocation :
    Claims.Waiting (dev group7) 0 0 12 5 group7 ∧ Claims.LoadsAbove group7 7 ∧ ¬ Claims.LoadsAbove group7 8 ∧
    Claims.MayShrink group7 8 ∧ (12 - group7.regAlloc) / 4 ≤ granulesFree (dev group7) 0 := by
  refine ⟨⟨rfl, rfl, ?_⟩, ⟨_, List.mem_singleton_self _, 16, .inl ⟨false, rfl⟩, by decide⟩, ?_, ⟨by decide +kernel, .inl rfl⟩,
    by decide +kernel⟩
  · intro h hh _ m t e
    simp only [dev, List.mem_singleton] at hh
    subst hh
    simp [group7] at e
    omega
  · rintro ⟨o, ho, b, hk, hlt⟩
    simp only [group7, List.mem_singleton] at ho
    subst ho
    rcases hk with ⟨sg, h⟩ | ⟨fn, h⟩ <;> simp at h
    rw [← h.1] at hlt
    simp at hlt

theorem witness_systemRegisters :
    (∃ p ∈ Claims.systemScalars (dev group0) group0, p.1 = 0x40) ∧ (∃ p ∈ Claims.systemLanes group0, p.1 = 0x22) ∧
    Plain group0 123 ∧ Sound group0 (execMask group0 clause0) 123 ∧
    (∀ l, On (execMask group0 clause0) l → (readV group0 123 l).toNat < 2 ^ 5) ∧
    ((sReg { group0 with s := [(1, 511)] } 1).truncate 32).toNat < 2 ^ 9 ∧ 2 ^ 9 ≤ ((sReg { group0 with s := [(1, 512)] } 1).truncate 32).toNat ∧
    (∃ l, On (execMask group0 clause0) l ∧ 2 ^ 5 ≤ (readV { group0 with v := [(1, [32])] } 1 l).toNat) ∧
    Plain group3 1 ∧ (among (execMask group3 clause0) fun l => (fieldPoison group3 1).getLsbD l) = 2 ^ 127 := by
  refine ⟨⟨_, List.getLast_mem (by simp [Claims.systemScalars]), by decide +kernel⟩, ⟨_, List.getLast_mem (by simp [Claims.systemLanes]), by decide +kernel⟩,
    by unfold Plain; decide +kernel, lanes_on (by decide +kernel), lanes_on (by decide +kernel), by decide +kernel, by decide +kernel,
    ⟨0, by decide +kernel⟩, by unfold Plain; decide +kernel⟩

/-- Group 0 with v1 at 0 in every lane but lane 0, which names 2 MiB, beyond the page mapped, and v2 odd in lane 0 alone. -/
def group8 : Group := { group0 with v := [(1, [0x200000]), (2, [1])] }

/-- A team of group 0 with a barrier word that expects 2, and a scratchpad of 64 bytes. -/
def team0 : Team := ⟨0, 0, 0, 0xFFFFFFFF, 0, 1, 64, [(5, 2)], [], [0], 1⟩
def devT (g : Group) : State := { devM g with teams := [team0] }

theorem issues0 (s : State) (g : Group) (h : issuer s = some (g, clause0) ∧ activeMask g clause0 none ≠ 0 ∧ cnt g 5 < 63 ∧
    acqHeld s g = false ∧ sorHeld g = false ∧ g.batch = none) : Claims.Issues s g clause0 5 none := ⟨h.1, h.2.1, h.2.2.1, h.2.2.2.1, h.2.2.2.2.1, h.2.2.2.2.2⟩

/-- MemoryIssue: a group that may issue, with its operands and every lane's word within reach, for each kind of access. -/
theorem witness_memoryIssue :
    Claims.Issues (devT group0) group0 clause0 5 none ∧ Claims.Operands group0 (activeMask group0 clause0 none) [1, 123] [120, 121] [31] ∧
    (∀ l, On (activeMask group0 clause0 none) l → Claims.Reaches (devT group0) group0 .read 16 (Claims.address group0 31 (readV group0 1 l).toNat) leaf0) ∧
    Claims.Reaches (devT group0) group0 .write 8 0x1FFFF8 leaf0 ∧ Claims.Reaches (devT group0) group0 .atom 4 0 leaf0 ∧
    Claims.InOrder group0 (activeMask group0 clause0 none) (fun _ => leaf0) ∧
    teamOfGroup (devT group0) group0 = some team0 ∧ 48 % 16 = 0 ∧ 48 + 16 ≤ team0.size ∧
    redRoom (devT group0) group0 .addF32 [Claims.ref 127 0 leaf0 false [0]] = true := by
  refine ⟨issues0 _ _ (by decide +kernel), ⟨by unfold Plain; decide +kernel, fun f _ l _ => ?_, by decide +kernel⟩,
    lanes_on (fun l _ _ => ?_), ⟨by decide, by decide +kernel, .inr (by decide +kernel), by decide⟩,
    ⟨by decide, by decide +kernel, .inr (by decide +kernel), by decide +kernel⟩, .inl rfl, by decide +kernel⟩
  · simp [fieldPoison, group0, freshGroup, tget]
  · have h : Claims.address group0 31 (readV group0 1 l).toNat = 0 := by
      simp [Claims.address, readV, fieldLanes, isReg, group0, freshGroup, vReg, sReg, tget, lane]
    rw [h]
    exact ⟨by decide, by decide +kernel, .inr (by decide +kernel), fun h => nomatch h⟩

/-- MemoryFaultsAndTests: lane 0 odd, lane 0 on a page that no TLB holds, and a page known to be absent. -/
theorem witness_memoryFaults :
    let act := activeMask group8 clause0 none
    among act (fun l => decide (Claims.address group8 31 (readV group8 2 l).toNat % 4 ≠ 0)) = 1 ∧
    among act (fun l => (tlbFind (devM group8) 0 0 (Claims.address group8 31 (readV group8 1 l).toNat)).isNone) = 1 ∧
    (∀ acc, xlat { dev group8 with walkFails := [⟨0, 0, 0, .absent⟩] } 0 0 0 acc = .fail 0x20) := by
  refine ⟨by decide +kernel, by decide +kernel, fun acc => ?_⟩
  cases acc <;> decide +kernel

/-- MemoryFaultsAndTests: of a prefetch, every lane on the page that is mapped, and lane 0 on one whose walk has to be made. -/
theorem witness_prefetch :
    (∀ l, On (activeMask group0 clause0 none) l →
      xlat (devM group0) 0 0 (Claims.address group0 31 (readV group0 1 l).toNat) .read ≠ .miss) ∧
    xlat (devM group8) 0 0 (Claims.address group8 31 (readV group8 1 0).toNat) .read = .miss ∧ On (activeMask group8 clause0 none) 0 ∧
    (fieldPoison group8 1).getLsbD 0 = false := by
  refine ⟨lanes_on fun l _ _ => ?_, by decide +kernel⟩
  have h : Claims.address group0 31 (readV group0 1 l).toNat = 0 := by
    simp [Claims.address, readV, fieldLanes, isReg, group0, freshGroup, vReg, sReg, tget, lane]
  rw [h]
  decide +kernel

/-- Group 0 with one operation outstanding, named 0 on counter 0. -/
def withOp (kind : OpKind) (sp : Bool) (lanes : List LaneRef) : Group :=
  { group0 with cnt := [(0, 1)], ops := [⟨0, kind, 0, 4, sp, lanes, 0x104, .a, 1, 0⟩] }
def op0 (kind : OpKind) (sp : Bool) (lanes : List LaneRef) : MemOp := ⟨0, kind, 0, 4, sp, lanes, 0x104, .a, 1, 0⟩

theorem outstanding0 {s : State} {kind : OpKind} {sp : Bool} {lanes : List LaneRef}
    (h : groupAt s 0 0 = some (withOp kind sp lanes) ∧ opTurn s (withOp kind sp lanes) (op0 kind sp lanes) = true) :
    Claims.Outstanding s (withOp kind sp lanes) (op0 kind sp lanes) := ⟨h.1, rfl, h.2⟩

/-- Two lanes at neighbouring words, and one lane for the whole group. -/
def lanes2 : List LaneRef := [⟨0, 0x40, 0x40, 0, .nrm, false, [7]⟩, ⟨127, 0x44, 0x44, 0, .nrm, false, [9]⟩]
def devOp (kind : OpKind) (sp : Bool) (lanes : List LaneRef) : State :=
  { devT (withOp kind sp lanes) with l1 := [(0, [(0x40, ⟨.reg, 5, 0, 0xF, false, none⟩), (0x44, clean 6)])] }

/-- LoadsAndStoresComplete: a load, a load of the group, a store, a store to scratchpad, and a store to a DEV page. -/
theorem witness_completions :
    Claims.Outstanding (devOp (.load 4 false) false lanes2) (withOp (.load 4 false) false lanes2) (op0 (.load 4 false) false lanes2) ∧
    (∀ r ∈ lanes2, r.lane < 128 ∧ r.loc % 4 = 0 ∧
      ∃ ws, laneWords (devOp (.load 4 false) false lanes2) (withOp (.load 4 false) false lanes2) (op0 (.load 4 false) false lanes2) r = some ws) ∧
    snoopLines (devOp (.load 4 false) false lanes2) (devWords (op0 (.load 4 false) false lanes2)) = [] ∧
    racingLanes ((devWords (op0 (.load 4 false) false lanes2)).foldl readHome (devOp (.load 4 false) false lanes2))
      (withOp (.load 4 false) false lanes2) (op0 (.load 4 false) false lanes2) = [] ∧
    Claims.GoodStore (op0 (.store 4) false lanes2) 4 ∧
    Claims.Outstanding (devOp (.loadU 8) false [⟨128, 0x40, 0x40, 0, .nrm, false, []⟩]) (withOp (.loadU 8) false [⟨128, 0x40, 0x40, 0, .nrm, false, []⟩])
      (op0 (.loadU 8) false [⟨128, 0x40, 0x40, 0, .nrm, false, []⟩]) ∧
    (teamOfGroup (devOp (.store 4) true [⟨0, 60, 60, 0, .nrm, false, [7]⟩]) (withOp (.store 4) true [⟨0, 60, 60, 0, .nrm, false, [7]⟩]) = some team0 ∧
      ([team0].map Team.key).Nodup ∧ Memory.wf team0.mem = true) ∧
    Claims.GoodStore (op0 (.store 16) false [⟨127, 0x50, 0x50, 0, .dev, false, [1, 2, 3, 4]⟩]) 16 := by
  refine ⟨outstanding0 (by decide +kernel), ?_, by decide +kernel, by decide +kernel, ⟨by decide, by decide, by decide⟩,
    outstanding0 (by decide +kernel), by decide +kernel, ⟨by decide, by decide, by decide⟩⟩
  intro r hr
  simp only [lanes2, List.mem_cons, List.not_mem_nil, or_false] at hr
  rcases hr with rfl | rfl
  · exact ⟨by decide, by decide, [(5, false)], by decide +kernel⟩
  · exact ⟨by decide, by decide, [(6, false)], by decide +kernel⟩

/-- LoadsAndStoresComplete: no word is lost; a store that the L1 takes, one of 16 bytes, and one for which scratchpads leave
the L1 no place; a page of another memory type with a whole word of no owner, and with a byte of a word that core 1 owns. -/
theorem witness_stores :
    let s1 := devOp (.store 4) false lanes2
    let s16 := devOp (.store 16) false [⟨127, 0x50, 0x50, 0, .nrm, false, [1, 2, 3, 4]⟩]
    let full := { s1 with l1 := [], teams := [{ team0 with size := 786432 }] }
    let sd := { devOp (.store 1) false [⟨127, 0x51, 0x51, 0, .dev, false, [1]⟩] with homes := [(0x50, .own false 1)] }
    Claims.NoneLost s1 (withOp (.load 4 false) false lanes2) (op0 (.load 4 false) false lanes2) .read ∧
    Claims.L1Takes s1 (withOp (.store 4) false lanes2) (op0 (.store 4) false lanes2) ∧
    storeReady s1 (withOp (.store 4) false lanes2) (op0 (.store 4) false lanes2) = some s1 ∧
    (storeReady s16 (withOp (.store 16) false [⟨127, 0x50, 0x50, 0, .nrm, false, [1, 2, 3, 4]⟩])
      (op0 (.store 16) false [⟨127, 0x50, 0x50, 0, .nrm, false, [1, 2, 3, 4]⟩])).isSome = true ∧
    storeReady full (withOp (.store 4) false lanes2) (op0 (.store 4) false lanes2) = none ∧
    MemoryOk sd ∧ ownerOf sd (0x51 / 4 * 4) = some (.core 1) ∧ homeOf 0x51 < 2 ∧ isLost sd 0x50 = false ∧
    Claims.Outstanding sd (withOp (.store 1) false [⟨127, 0x51, 0x51, 0, .dev, false, [1]⟩])
      (op0 (.store 1) false [⟨127, 0x51, 0x51, 0, .dev, false, [1]⟩]) ∧
    snoopLines sd (homeStores (op0 (.store 1) false [⟨127, 0x51, 0x51, 0, .dev, false, [1]⟩])) = [] ∧ accWords 0x51 1 = [0x50] ∧
    ownerWaits sd 0x50 = false ∧ twinGone sd = false ∧ (ownerOf sd (0x51 / 4 * 4)).isSome = true ∧ homeSt s1 0x50 = none ∧
    Claims.Outstanding { sd with groups := [withOp (.store 1) false [⟨127, 0x51, 0x51, 0, .wcb, false, [1]⟩]] }
      (withOp (.store 1) false [⟨127, 0x51, 0x51, 0, .wcb, false, [1]⟩]) (op0 (.store 1) false [⟨127, 0x51, 0x51, 0, .wcb, false, [1]⟩]) := by
  refine ⟨?_, ⟨.inl (by decide +kernel), fun h => absurd h (by decide)⟩, by decide +kernel, by decide +kernel, by decide +kernel, ?_, by decide +kernel, by decide +kernel, by decide +kernel,
    outstanding0 (by decide +kernel), by decide +kernel, by decide +kernel, by decide +kernel, by decide +kernel, by decide +kernel,
    by decide +kernel, outstanding0 (by decide +kernel)⟩
  · intro r hr
    simp only [op0, lanes2, List.mem_cons, List.not_mem_nil, or_false] at hr
    rcases hr with rfl | rfl <;> exact .inr (.inr (by decide +kernel))
  · unfold MemoryOk
    decide +kernel

/-- AtomicsAndReductions: a word that the core holds registered, one that it does not hold, and a closed node whose turn has come. -/
theorem witness_atomics :
    let r : LaneRef := ⟨127, 0x40, 0x40, 0, .nrm, false, [1]⟩
    let s := devOp (.atom .add 4) false [r]
    Claims.Outstanding s (withOp (.atom .add 4) false [r]) (op0 (.atom .add 4) false [r]) ∧ homeOf r.loc = 0 ∧ logMode s 0 = 0 ∧
    l1Copy s 0 0x40 = some ⟨.reg, 5, 0, 0xF, false, none⟩ ∧ s.runs = [] ∧ handedOn s (.core 0) (· == r.loc) = false ∧
    logHeld s (withOp (.atom .add 4) false [r]) = false ∧ isLost s r.loc = false ∧
    l1Copy s 0 0x80 = none ∧ rdcCopy s 0x80 = none ∧ isLost s 0x80 = false ∧ atqPending s 0 0x80 = false := by
  refine ⟨outstanding0 (by decide +kernel), by decide +kernel⟩

theorem witness_redNode :
    let n : RedNode := ⟨0, 0, 0x40, 0x40, .nrm, .addF32, 0, 0, 0, 0, some 5, 0, true, 0⟩
    let s := { State.reset with reds := [n] }
    s.reds[0]? = some n ∧ n.level < 3 ∧ redClosed s n = true ∧ foldTurn s n = true ∧ redClosed s { n with closed := false } = false := by
  decide +kernel

/-- Group 0 with s31 at 56, the last barrier word of its scratchpad, s30 misaligned and s29 past the end. -/
def group9 : Group := { group0 with s := [(29, 64), (30, 4), (31, 56)] }
def logCtx (mode : Word) (s : State) : State := { s with ctxs := [(0, { noCtx with live := true, active := [(8, mode)] })] }

/-- A replay whose next record, of a TYPE, is of group 0, with its words 2 and 3 in `m`. -/
def replayDev (type : Nat) (m : List Host.Cell) (g : Group) : State :=
  { devT g with
    mem := (0x10006, 1) :: (0x10007, BitVec.ofNat 8 type) :: m
    devTlb := [⟨0, leaf0⟩]
    ctxs := [(0, { noCtx with live := true, active := [(8, 2), (16, 0x10000), (17, 0x90000), (18, 1)] })] }

/-- Barriers: the issue of each form, its two traps, and the three log modes. -/
theorem witness_barrierIssue :
    Claims.Issues (devT group9) group9 clause0 5 none ∧ Claims.BarOk (devT group9) group9 31 ∧ Claims.barAddress group9 30 % 8 ≠ 0 ∧
    team0.size < Claims.barAddress group9 29 + 8 ∧ Claims.barAddress group9 29 % 8 = 0 ∧ logMode (devT group9) 0 = 0 ∧
    logMode (logCtx 1 (devT group9)) 0 = 1 ∧ logMode (logCtx 2 (devT group9)) 0 = 2 ∧
    nextRec (logCtx 2 (devT group9)) 0 0x08 (byGroup (logCtx 2 (devT group9)) group9) = none ∧
    (nextRec (replayDev 8 [(0x10010, 29), (0x10018, 4), (0x10019, 1)] { group9 with s := [(31, 29)] }) 0 0x08
      (byGroup (dev group0) { group9 with s := [(31, 29)] })).map (fun r => ((r.word 2).toNat % 2 ^ 32, (r.word 3).toNat % 2 ^ 48)) =
      some (29, clause0.addr + 4 * (clause0.idx + 1)) := by
  refine ⟨⟨by unfold At; decide +kernel, by decide +kernel, by decide +kernel, by decide +kernel, by decide +kernel, rfl⟩,
    ⟨by decide +kernel, team0, by decide +kernel, by decide +kernel⟩, by decide +kernel⟩

/-- A team whose barrier word at 0 has phase 0, expects 2 and has `n` arrivals. -/
def teamAt (n : BitVec 8) : Team := { team0 with mem := if n = 0 then [(5, 2)] else [(3, n), (5, 2)] }
def devBar (form : BarForm) (arg : Nat) (phase : Option Bool) (n : BitVec 8) : State :=
  { devT (withOp (.bar form 0 arg phase) true []) with teams := [teamAt n] }

theorem atBarrier0 (form : BarForm) (arg : Nat) (phase : Option Bool) (n : BitVec 8)
    (h : teamOfGroup (devBar form arg phase n) (withOp (.bar form 0 arg phase) true []) = some (teamAt n) ∧ Memory.wf (teamAt n).mem = true) :
    Claims.AtBarrier (devBar form arg phase n) (withOp (.bar form 0 arg phase) true []) (op0 (.bar form 0 arg phase) true []) (teamAt n)
      form 0 arg phase :=
  ⟨rfl, rfl, rfl, h.1, List.nodup_singleton _, h.2⟩

/-- Barriers: each form at its operation, the first and the last arrival, and a wait that ends and one that does not. -/
theorem witness_barrierSteps :
    Claims.AtBarrier (devBar .init 65535 none 0) (withOp (.bar .init 0 65535 none) true []) (op0 (.bar .init 0 65535 none) true [])
      (teamAt 0) .init 0 65535 none ∧
    Claims.AtBarrier (devBar .sync 0 (some false) 1) (withOp (.bar .sync 0 0 (some false)) true []) (op0 (.bar .sync 0 0 (some false)) true [])
      (teamAt 1) .sync 0 0 (some false) ∧
    Claims.WritesDone (withOp (.bar .arr 0 0 none) true []) 0 ∧
    Claims.arrivalsOf (spDWord (teamAt 0) 0) + 1 < Claims.expectedOf (spDWord (teamAt 0) 0) ∧
    Claims.arrivalsOf (spDWord (teamAt 1) 0) + 1 = Claims.expectedOf (spDWord (teamAt 1) 0) ∧
    Claims.phaseOf (spDWord (teamAt 1) 0) ≠ (1 % 2 == 1) ∧ Claims.phaseOf (spDWord (teamAt 1) 0) = (0 % 2 == 1) ∧
    ¬ Claims.WritesDone { group0 with ops := [op0 (.store 4) false []] } 1 := by
  refine ⟨atBarrier0 _ _ _ _ (by decide +kernel), atBarrier0 _ _ _ _ (by decide +kernel), ?_, by decide +kernel, by decide +kernel,
    by decide +kernel, by decide +kernel, fun h => (h _ (List.mem_singleton_self _) (by decide) .add 4).1 rfl⟩
  intro p hp
  simp only [withOp, List.mem_singleton] at hp
  subst hp
  intro hlt
  exact absurd hlt (by decide)

/-- AcquiresAndReleases: an acquire and a release may issue; the caches stand in order; in replay, a record of the variable
for each, and none. -/
theorem witness_acquires :
    Claims.Issues (dev group0) group0 clause0 5 none ∧ tget group0.sPoison 31 false = false ∧ logMode (dev group0) 0 ≠ 2 ∧
    CachesOk (dev group0) ∧ logMode (replayDev 3 [(0x10010, 61)] group9) 0 = 2 ∧
    (nextRec (replayDev 3 [(0x10010, 61)] group9) 0 0x03 (byGroup (dev group0) group9)).map (fun r => (r.word 2).toNat / 8 % 2 ^ 45 * 8) =
      some (Claims.syncVar group9 31) ∧
    (nextRec (replayDev 2 [(0x10010, 61)] group9) 0 0x02 (byGroup (dev group0) group9)).map (fun r => (r.word 2).toNat / 8 % 2 ^ 45 * 8) =
      some (Claims.syncVar group9 31) ∧
    nextRec (replayDev 2 [(0x10010, 61)] group9) 0 0x03 (byGroup (dev group0) group9) = none := by
  refine ⟨issues0 _ _ (by decide +kernel), by decide +kernel, by decide +kernel, ⟨fun core => ?_, ?_⟩, by decide +kernel⟩ <;>
    simp [dev, State.reset, tget]

/-- AcquiresAndReleases: a self-invalidation that the holding entries have room for, and one that they have not. -/
theorem witness_selfInvalidations :
    let s := { dev group0 with l1 := [(0, [(0x80, ⟨.drt, 7, 0xF, 0xF, false, none⟩), (0x100, clean 1)])] }
    let full := { s with holding := [(0, List.replicate 64 ⟨0x200, 7, 0xF, false, false, 3⟩)] }
    Claims.holdingUsed s 0 + (Claims.dirtyWords s 0 fun _ => true).length ≤ 64 ∧
    acquired (acquireAt s 0 0 4 fun _ => true) 0 4 (fun _ => true) = true ∧
    acquired (acquireAt full 0 0 4 fun _ => true) 0 4 (fun _ => true) = false ∧
    Claims.NothingComing s 0 4 (fun _ => true) ∧ Claims.Unselected (fun w => w == 0x100) 0x80 := by
  unfold Claims.NothingComing Claims.Unselected
  decide +kernel

/-- A release of group 0 at a scope and a stage, and its entry in the table. -/
def sync0 (rel acq : Bool) (scope : Nat) (stage : SyncStage) : SyncOp :=
  ⟨0, 0, 9, 5, rel, acq, scope, 8, scope, stage, 0, [], 0, none, false, 0x104, .a, 1, 0⟩
def devSync (o : SyncOp) : State := { dev group0 with syncOps := [o], syncTab := [⟨0, 8, 5, none, 0, none, 0, 0, none⟩] }

theorem witness_releases :
    Claims.ReadyToRelease (devSync (sync0 true false 5 .waiting)) group0 (sync0 true false 5 .waiting) ∧
    Claims.ReadyToRelease (devSync (sync0 true true 7 .waiting)) group0 (sync0 true true 7 .waiting) ∧
    relClear (withOp (.store 4) false []) = false ∧
    Claims.ReadyToAcquire (devSync (sync0 false true 7 .inval)) group0 (sync0 false true 7 .inval) ∧
    Claims.AtTable (devSync (sync0 true false 5 .table)) group0 (sync0 true false 5 .table) ∧
    Claims.AtTable (devSync { sync0 false true 7 .table with var := 16 }) group0 { sync0 false true 7 .table with var := 16 } := by
  refine ⟨⟨rfl, rfl, rfl, by decide +kernel, by decide +kernel⟩, ⟨rfl, rfl, rfl, by decide +kernel, by decide +kernel⟩, by decide +kernel,
    ⟨rfl, rfl, rfl, rfl, by decide +kernel⟩, ⟨rfl, rfl, rfl, rfl, rfl, by decide +kernel, by decide +kernel, rfl⟩,
    ⟨rfl, rfl, rfl, rfl, rfl, by decide +kernel, by decide +kernel, rfl⟩⟩

/-- AcquiresAndReleases: the entry that a release finds, its registrations all acknowledged or one not, and a variable that
nothing has released. -/
theorem witness_table :
    let s := devSync (sync0 true false 5 .table)
    syncEntry s 0 8 = some ⟨0, 8, 5, none, 0, none, 0, 0, none⟩ ∧ releaseOut s 0 5 s.msgSeq = false ∧
    releaseOut { s with msgSeq := 1, msgs := [{ kind := .reg, src := .core 0, dst := .slice 0, addr := 0, who := .core 0, words := [0] }] } 0 5 1 = true ∧
    syncEntry s 0 16 = none ∧ savedEntry s 0 16 = none ∧ (tableEntries s (tableOf s 16)).length < 16384 := by
  decide +kernel

/-- A device with one message in flight, line 0x80 cached, and its first word registered by core 0. -/
def devMsg (m : Msg) : State :=
  { dev group0 with msgs := [m], msgSeq := 5, l2 := [[0x80]], homes := [(0x80, .own false 0)], l1 := [(0, [(0x80, ⟨.reg, 7, 0xF, 0xF, false, none⟩)])] }
def msg0 (kind : MsgKind) (src dst : Agent) (words : List Nat) (vals : List WordVal) : Msg :=
  { kind, src, dst, addr := 0x80, who := .core 1, words, vals, serial := 4 }
def val0 (w : Nat) : WordVal := ⟨w, 9, 0xF, false, none⟩

theorem arrives0 (m : Msg) : Claims.Arrives (devMsg m) m.src m.dst m [] := by
  simp [Claims.Arrives, devMsg, takeMsg]

/-- Homes: requests that a slice may answer, one that waits behind a read, a line with a free slot to fill, and the words
that the clauses ask VAL or owned. -/
theorem witness_homes :
    let m := msg0 .rdq (.core 2) (.slice 1) [] []
    let wb := msg0 .wb (.core 0) (.slice 1) [] [val0 0x80]
    Claims.Arrives (devMsg m) (.core 2) (.slice 1) m [] ∧ Claims.Answerable (devMsg m) (.slice 1) m ∧
    cached (devMsg m) 0x80 = true ∧ cached (dev group0) 0x80 = false ∧ (∃ x ∈ { devMsg m with l2Wait := [m] }.l2Wait, x.dst = .slice 1) ∧
    m.dst = .slice (sliceOf 0x80) ∧ homeOf 0x80 = 0 ∧ slotsUsed (dev group0) 0x80 < Config.l2Slots ∧
    (∀ w ∈ lineWords 0x80, Claims.IsVal (dev group0) w) ∧ Claims.OwnedBy (devMsg wb) 0x80 (.core 0) ∧ Claims.IsVal (devMsg wb) 0x84 ∧
    Claims.OwnedBy { dev group0 with homes := [(0x80, .own false 96)] } 0x80 .rdc ∧ ¬ Claims.OwnedBy (devMsg wb) 0x84 (.core 0) ∧
    Claims.NoneAwaits (devMsg wb) ∧ MemoryOk (devMsg wb) ∧ hostBiased (devMsg wb) 0x80 = false := by
  refine ⟨arrives0 _, ⟨⟨1, rfl⟩, by decide +kernel, by decide +kernel⟩, by decide +kernel, by decide +kernel, ⟨_, List.mem_singleton_self _, rfl⟩,
    by decide +kernel, by decide +kernel, by decide +kernel, fun w _ => rfl, by unfold Claims.OwnedBy; decide +kernel, by unfold Claims.IsVal; decide +kernel,
    by unfold Claims.OwnedBy; decide +kernel, by unfold Claims.OwnedBy; decide +kernel, ⟨by simp [devMsg, dev, State.reset], rfl, fun ctx => ?_⟩,
    by unfold MemoryOk; decide +kernel, by decide +kernel⟩
  by_cases h : 0 = ctx <;> simp [h, ctxOf, devMsg, dev, noCtx, tget, tfind]

/-- OwnerSide: the messages of each clause, with the copies, holding entries and fills that they meet. -/
theorem witness_ownerSide :
    let c : Copy := ⟨.reg, 7, 0xF, 0xF, false, none⟩
    let s := devMsg (msg0 .fwd (.slice 1) (.core 0) [0x80] [])
    let h : Held := ⟨0x80, 7, 0xF, false, true, 3⟩
    let given := { s with l1 := [], holding := [(0, [h])] }
    let fill := devMsg (msg0 .data (.slice 1) (.core 0) [] [val0 0x84])
    Claims.Arrives s (.slice 1) (.core 0) (msg0 .fwd (.slice 1) (.core 0) [0x80] []) [] ∧ Claims.Registered s 0 0x80 c ∧
    Claims.GivenUp given 0 0x80 h ∧
    Claims.Arrives fill (.slice 1) (.core 0) (msg0 .data (.slice 1) (.core 0) [] [val0 0x84]) [] ∧ l1Fits fill 0 (0x84 / 128 * 128) = true ∧
    (∀ h ∈ Claims.entries fill 0, h.word ≠ 0x84) ∧ l1Copy fill 0 0x84 = none ∧
    l1Copy { fill with l1 := [(0, [(0x84, ⟨.drt, 1, 1, 1, false, none⟩)])] } 0 0x84 = some ⟨.drt, 1, 1, 1, false, none⟩ ∧
    (∀ g ∈ fill.groups, g.core = 0 → g.ops = []) ∧ (Claims.entries s 0).length < 64 ∧
    64 ≤ (Claims.entries { s with holding := [(0, List.replicate 64 h)] } 0).length := by
  refine ⟨arrives0 _, ⟨by decide +kernel, rfl, by decide +kernel, by decide +kernel, by decide +kernel⟩,
    ⟨by decide +kernel, by decide +kernel⟩, arrives0 _, ?_⟩
  decide +kernel

/-- A running device with a line of the L2 whose first word core 3 owns, a modified line of the host in the RDC, a write-back
on its way to the host, and two host-biased regions. -/
def devHost : State :=
  { dev group0 with
    mode := .run
    clock := 65536
    l2 := [[0x80]]
    homes := [(0x80, .own false 3)]
    biasWait := [0x80]
    hostLines := [(2 ^ 53 + 128, ⟨.modified, List.replicate 32 (5, false)⟩)]
    rdc := [(2 ^ 52, ⟨.drt, 1, 1, 1, false, none⟩)]
    msgs := [{ kind := .wb, src := .rdc, dst := .host, addr := 2 ^ 53, who := .rdc, vals := [⟨2 ^ 53, 1, 0xF, false, none⟩] }]
    bias := [⟨0, 32768, true, 0⟩, ⟨32768, 32768, true, 0⟩] }

/-- EvictionsAndHost: a line with owners, a dirty word, one that the twin is home of, a line of the host, the host's reach, a
write-back on its way, a line that the host is to give up, and two regions that merge. -/
theorem witness_evictionsAndHost :
    let s := devHost
    let one := { s with bias := [⟨0, 65536, true, 0⟩] }
    cached s 0x80 = true ∧ (∀ w ∈ lineWords 0x80, isLost s w = false) ∧ Claims.OwnedBy s 0x80 (.core 3) ∧
    (∀ x ∈ s.msgs, x.names 0x80 = false) ∧ l1Copy (dev group0) 0 0x80 = none ∧ (Claims.entries s 0).length + 2 ≤ 64 ∧
    l1Copy (devMsg (msg0 .fwd (.slice 1) (.core 0) [0x80] [])) 0 0x80 = some ⟨.reg, 7, 0xF, 0xF, false, none⟩ ∧
    homeOf (2 ^ 53 + 128) = 2 ∧ (∃ l, tfind s.hostLines (2 ^ 53 + 128) = some l ∧ l.st = .modified) ∧ hostBusy s (2 ^ 53 + 128) = false ∧
    homeOf (2 ^ 52) ≠ 2 ∧ rdcCopy s (2 ^ 52) = some ⟨.drt, 1, 1, 1, false, none⟩ ∧ twinGone s = false ∧ twinGone { s with isW := true } = true ∧
    s.mode ≠ .safe ∧ s.mode ≠ .linkWait ∧ (2 ^ 30 * 288 - 1) / 4 * 4 < 2 ^ 30 * 288 ∧
    Claims.Arrives s .rdc .host { kind := .wb, src := .rdc, dst := .host, addr := 2 ^ 53, who := .rdc, vals := [⟨2 ^ 53, 1, 0xF, false, none⟩] } [] ∧
    s.biasWait.contains 0x80 = true ∧ s.biasWait.contains 0x100 = false ∧ hostBiased s (2 ^ 30) = false ∧
    (one.bias = [⟨0, 65536, true, 0⟩] ∧ homeOf 65535 = 0) ∧ 0 % (2 * 32768) = 0 ∧ 2 * 32768 ≤ 65536 ∧ 0 + 65536 ≤ s.clock := by
  and_intros <;> first
    | decide +kernel
    | (unfold Claims.OwnedBy; decide +kernel)
    | simp [Claims.Arrives, devHost, takeMsg]

/-- Group 0 with a COPY of 4 bytes in s8 to s15, a loop's descriptor in s16 to s23, a drain's in s24 and s25, and a tile's
in s28 to s31; queue register 15 is bound to the drain port of quadrant 0. -/
def group10 : Group :=
  { group0 with
    s := [(8, 2 ^ 56), (9, 0x1000), (10, 0x2000), (11, 4), (16, 0x1000), (17, 0x1040), (19, 2 ^ 32), (24, 4 * 2 ^ 20), (25, 2 ^ 48 + 2 ^ 16),
      (29, 0x1000), (30, 0x2000)]
    v := [(1, List.replicate 128 0x42)]
    queues := [(15, ⟨0x18, false, 100, []⟩)] }

/-- A bank that context 0 holds. -/
def bank0 : Bank := { noBank with owner := some 0 }
def devQ (b : Bank) (jobs : List QuadJob) : State := { devT group10 with quads := [(0, ⟨[(0, b)], jobs, none, none⟩)] }

/-- A command of copy engine 0 for team 1. -/
def cmd0 (ws : List DWord) (started : Bool) (ended : Option Nat) : EngCmd := ⟨7, 0, 0, 0, 0, 1, ws, started, 0, none, false, 0, ended, 0, [], false, []⟩

/-- EngineCommandsIssue: a COPY that passes its checks, room and none, and one of length 0. -/
theorem witness_commands :
    Claims.Issues (devT group10) group10 clause0 5 none ∧ Claims.SoundRun group10 8 8 ∧
    cmdFlaws (devT group10) group10 false (Claims.scalars group10 8 8) = [] ∧ spWritePending group10 = false ∧
    engineRoom (devT group10) (Claims.copyEngine 0 3) (Claims.scalars group10 8 8) = true ∧
    engineRoom { devT group10 with engines := [(0, List.replicate 16 (cmd0 [2 ^ 56] false none))] } 0 (Claims.scalars group10 8 8) = false ∧
    Claims.GoesBehind (devT group10) group10 { cmd0 [2 ^ 56] false none with core := 1 } ∧
    worstFlaw (cmdFlaws (devT group10) group10 false [2 ^ 56, 0x1000, 0x2000, 0, 0, 0, 0, 0]) = some (1, 0) ∧
    bitsOf (2 ^ 56) 20 36 = 0 ∧ bitsOf (2 ^ 56) 56 8 = 1 ∧ bitsOf (5 * 2 ^ 56) 56 8 = 5 := by
  refine ⟨⟨by unfold At; decide +kernel, by decide +kernel, by decide +kernel, by decide +kernel, by decide +kernel, rfl⟩,
    fun i _ => rfl, by unfold Claims.GoesBehind; decide +kernel⟩

/-- EngineCommandsIssue: a free register and window, a window in use, and one at REGALLOC. -/
theorem witness_queueBindings :
    beyond group10 100 = false ∧ beyond { group10 with regAlloc := 100 } 100 = true ∧ tfind group10.queues 0 = none ∧
    tfind group10.queues 15 ≠ none ∧ windowOf group10 99 = none ∧ windowOf group10 100 ≠ none := by decide +kernel

/-- MatrixInstructions: the descriptors pass their checks, for the holder and for another context. -/
theorem witness_matrixIssue :
    let s := devQ bank0 []
    Claims.SoundRun group10 16 8 ∧ Plain group10 1 ∧ (∀ l, On (activeMask group10 clause0 none) l → readV group10 1 l = 0x42) ∧
    fmtOk 0x42 = true ∧ otherAcc s 0 0 0 0x42 = false ∧ loopFlaws s group10 0 (Claims.scalars group10 16 8) = [] ∧ loopsOf s 0 < 8 ∧
    (bankAt s 0 0).owner = some 0 ∧ (ringSlot (bankAt s 0 0).ringA 0).full = false ∧ (bankAt s 0 3).owner = none ∧
    (bankAt (devQ { bank0 with owner := some 1 } []) 0 0).owner = some 1 ∧
    drainFlaws s group10 0 (Claims.scalars group10 24 2) = [] ∧ boundToDrain group10 15 4 = true ∧
    dOfs (Claims.scalars group10 24 2) % 4 = 0 ∧ dCols (Claims.scalars group10 24 2) * 4 ≤ dPitch (Claims.scalars group10 24 2) ∧
    tileFlaws s group10 0 (Claims.scalars group10 28 4) = [] ∧ (∀ o ∈ group10.ops, o.kind ≠ .accum) := by
  refine ⟨fun i _ => rfl, by unfold Plain; decide +kernel, lanes_on (by decide +kernel), by decide +kernel⟩

/-- MatrixInstructions: a merge path of two sequences of one word, and rising sequences with equal elements. -/
theorem witness_mergePath :
    pathFlaws [0x1000, 2 ^ 32 + 1, 0x1004, 2] = [] ∧
    (∃ us, mergeLane (devM group0) group0 [0x1000, 2 ^ 32 + 1, 0x1004, 2] 1 = .ok 1 false us ∧
      ∀ u ∈ us, u.mt ≠ .dev ∧ u.mt ≠ .sor) ∧
    Claims.Rising true (fun _ => 5) 3 ∧ Claims.Rising false (fun _ => 5) 4 := by
  exact ⟨by decide +kernel, ⟨_, rfl, by decide +kernel⟩, fun i j _ _ => by simp [Claims.mergeLe], fun i j _ _ => by simp [Claims.mergeLe]⟩

/-- Scratchpad to scratchpad, one word. -/
def copyWords : List DWord := [2 ^ 56, 2 ^ 63, 2 ^ 63 + 8, 4]
def devE (c : EngCmd) : State := { devT group0 with engines := [(0, [c])] }

theorem runs0 (c : EngCmd) (code : Nat) (h : runnable (devE c) 0 code = some c) : Claims.Runs (devE c) 0 code c :=
  ⟨h, fun d hd _ => by simpa [devE, tget, tfind] using hd⟩

/-- EnginesMove: a COPY, a FILL and the row commands at their last word, a COPY whose first word is absent, and an engine
whose work has ended. -/
theorem witness_copies :
    let c := cmd0 copyWords true none
    Claims.Runs (devE c) 0 1 c ∧
    (∃ (σ : Nat → State) (p : Nat → Bool), σ 0 = startCmd (devE c) 0 c ∧ Claims.Moves 1 0 σ p (fun s t i q =>
      Claims.WordMoves s t (engMem 0 1 0 (c.w 1)) (engMem 0 1 0 (c.w 2)) (bitsOf (c.w 1) 0 48 + 4 * i) (bitsOf (c.w 2) 0 48 + 4 * i) q)) ∧
    Claims.Runs (devE (cmd0 [5 * 2 ^ 56, 2 ^ 63, 0, 8] true none)) 0 5 (cmd0 [5 * 2 ^ 56, 2 ^ 63, 0, 8] true none) ∧
    (let r := cmd0 [3 * 2 ^ 56, 0, 2 ^ 63, 2 ^ 34 + 1, 0, 2 ^ 63 + 8] true none
     Claims.Runs (devE r) 0 3 r ∧ r.queue = none ∧ (Claims.rowsCommand (devE r) 0 r).io = false) ∧
    (let r := cmd0 [2 ^ 56, 0x40000000, 0, 4] true none
     Claims.Runs (devE r) 0 1 r ∧ 4 ≤ bitsOf (r.w 3) 0 40 ∧
     engRead { devE r with walkFails := [⟨0, 0x40000, 128, .absent⟩] } (engMem 0 1 0 (r.w 1)) 0x40000000 = .error 0x20 ∧
     engRead (devE r) (engMem 0 1 0 (r.w 1)) 0x40000000 = .error waitWalk) ∧
    (∀ d ∈ tget (devE (cmd0 copyWords true (some 0))).engines 0 [], d.ended.isSome = true) := by
  refine ⟨runs0 _ _ (by decide +kernel), ?_, runs0 _ _ (by decide +kernel), ⟨runs0 _ _ (by decide +kernel), by decide +kernel⟩,
    ⟨runs0 _ _ (by decide +kernel), by decide +kernel⟩, by decide +kernel⟩
  let s := startCmd (devE (cmd0 copyWords true none)) 0 (cmd0 copyWords true none)
  let m1 := engMem 0 1 0 (2 ^ 63 : DWord)
  let m2 := engMem 0 1 0 (2 ^ 63 + 8 : DWord)
  have hr : engRead s m1 (bitsOf (2 ^ 63 : DWord) 0 48 + 4 * (0 + 0)) = .ok (0, false) := by decide +kernel
  obtain ⟨t, ht⟩ : ∃ t, engWrite s m2 (bitsOf (2 ^ 63 + 8 : DWord) 0 48 + 4 * (0 + 0)) 0xF 0 false = .ok t := by
    have hm : m2.sp = true := by decide +kernel
    simp [engWrite, hm]
  exact ⟨fun i => if i = 0 then s else t, fun _ => false, rfl, fun i hi => by
    have : i = 0 := by omega
    subst this
    exact ⟨0, hr, ht⟩⟩

/-- EnginesMove: a word within reach of engine 0, and one of its team's scratchpad. -/
theorem witness_engineAccess :
    let s := { devE (cmd0 copyWords true none) with aheadTlb := [(0, [⟨0, leaf0⟩])] }
    engXlat s (engMem 0 1 0 0) 0x1FFFFC 4 .read = .ok leaf0 ∧ engXlat s (engMem 0 1 0 0) 0 4 .write = .ok leaf0 ∧ MemoryOk s ∧
    leaf0.dsc = false ∧ homeOf (leaf0.at 0x1FFFFC) = 0 ∧ leaf0.at 0 % 4 = 0 ∧ isLost s (leaf0.at 0) = false ∧ teamOf s 1 = some team0 ∧
    Claims.OwnedBy { s with homes := [(0, .own false 3)] } (leaf0.at 0) (.core 3) ∧ Claims.IsVal s (leaf0.at 0) := by
  unfold MemoryOk Claims.OwnedBy Claims.IsVal
  decide +kernel

/-- EngineCommandsComplete: tensor records that fit and that do not; a LAUNCH with room; a PRDX of one device and one that
needs a twin; a combination; and work that has ended, with a barrier and without. -/
theorem witness_engineCommands :
    let s := { devE (cmd0 [2 * 2 ^ 56, 0, 0x40] true none) with aheadTlb := [(0, [⟨0, leaf0⟩])], devTlb := [⟨0, leaf0⟩] }
    let c := cmd0 [2 * 2 ^ 56, 0, 0x40] true none
    let l := { cmd0 [6 * 2 ^ 56, 0x1000, 0] false none with unit := 64 }
    let s64 := { s with engines := [(64, [l])], bar := [(0x1000 / 4, 0), (0x1004 / 4, 0x10000)] }
    Claims.Runs (devE c) 0 2 c ∧ c.recs = [] ∧ { c with recs := [(1, false)] }.recs ≠ [] ∧
    (∃ a, readTensor s 0 1 0 (c.w 1) = .ok a ∧ (a.1.ok 64 false && sameShape a.1 a.1) = false) ∧
    (mayRun (tget s64.engines 64 [])).find? (fun c => !c.started) = some l ∧ qRoom s64 0 = true ∧
    (∃ ws, engReads s64 (Claims.pairMem l) 0x1000 16 = .ok ws) ∧
    prdxDev [0, 0, 0, 2 * 2 ^ 36 + 1] = 2 ∧ prdxDev [0, 0, 0, 2 ^ 36 + 1] = 1 ∧ prdxOp [0, 0, 0, 2 ^ 36 + 1] ≠ 3 ∧ s.isW = false ∧
    (∃ t, combineElem 0 0 [0, 0, 0x1FFFFC, 2 ^ 36 + 1] [[(0, false)]] s 0 = .ok (t, false)) ∧
    (cmd0 [2 ^ 46] true (some 8)).ended = some 8 ∧ ((cmd0 [2 ^ 46] true (some 8)).w 0).getLsbD 46 = true ∧
    ((cmd0 [2 ^ 46] true (some 8)).w 0).getLsbD 51 = false ∧ bitsOf ((cmd0 [2 ^ 46 + 2 ^ 51 + 3 * 2 ^ 48] true (some 8)).w 0) 48 3 < 4 ∧
    ((cmd0 [2 ^ 51 + 5 * 2 ^ 48] true (some 8)).w 0).getLsbD 51 = true ∧ 5 ≤ bitsOf ((cmd0 [2 ^ 51 + 5 * 2 ^ 48] true (some 8)).w 0) 48 3 ∧
    (∃ e ∈ [(0, (⟨.modified, []⟩ : HostLine))], e.2.st = .modified) ∧ ((cmd0 [0] true (some 8)).w 0).getLsbD 46 = false := by
  refine ⟨runs0 _ _ (by decide +kernel), by decide +kernel, by decide +kernel, ⟨_, rfl, by decide +kernel⟩, by decide +kernel, by decide +kernel, ⟨_, rfl⟩, by decide +kernel, by decide +kernel,
    by decide +kernel, by decide +kernel, ⟨_, rfl⟩, by decide +kernel⟩

/-- The words of a tensor record in scratchpad at 0x800: format 2, two dimensions. -/
def record (k n : Word) : List Word := [0x800, 0x80000000, 0x0202, k, n, 1, 1, 0, 0x90, 0, 0, 0, 0, 0, 0, 0]

/-- A team whose scratchpad holds, at 0, 0x40 and 0x80, the records of a 2 by 3 operand, a 2 by 5 one and 72 by 4 weights. -/
def team1 : Team :=
  ((record 2 3 ++ record 2 5 ++ record 72 4).zipIdx).foldl (fun t x => spPut t (4 * x.2) 0xF x.1 false)
    { team0 with size := 4096, mem := [] }

/-- Group 0 with operation 3 outstanding, and its quadrant 0 with one job, which that operation began. -/
def job0 (kind : QuadWork) (desc : List DWord) (fmt : Word) (started : Bool) (data : List (Word × Bool)) : QuadJob :=
  ⟨7, 32, kind, 0, 0, 0, 1, 2, 0, desc, fmt, started, 0, record 2 3 ++ record 2 5, data, none, false, false, false, none, 0, 3, []⟩
def group11 : Group :=
  { group10 with cnt := [(5, 1)], ops := [⟨3, .mdrain 0, 5, 0, true, [], 0x104, .a, 1, 0⟩] }
def devJ (jobs : List QuadJob) (running : Option Nat) : State :=
  { devT group11 with teams := [team1], quads := [(0, ⟨[(0, bank0)], jobs, running, none⟩)] }
def desc0 : List DWord := [2 ^ 63, 2 ^ 63 + 0x40, 0, 2 ^ 32, 0, 0, 0, 0]

theorem readTensor_of {s : State} {ctx team unit : Nat} {w : DWord} {ws : List Word}
    (h : engReads s (engMem ctx team unit w) (bitsOf w 0 48) 16 = .ok (ws.map fun x => (x, false))) :
    readTensor s ctx team unit w = .ok (⟨ws⟩, false) := by
  have hm : (ws.map fun x => (x, false)).map Prod.fst = ws := by simp [Function.comp_def]
  have ha : ((ws.map fun x => (x, false)).any fun x => x.2) = false := by simp
  simp [readTensor, h, Except.map, hm, ha]

/-- BanksAndLoopStarts: a BANK_ZERO with no earlier work and one with, and a loop whose records agree, and whose K differ. -/
theorem witness_loopStarts :
    let z := job0 .zero [] 0 false []
    let j := job0 .loop desc0 0x842 false []
    (quadAt (devJ [z] none) 0).jobs.find? (fun j => j.kind == .zero && j.bank == 0) = some z ∧
    groupAt (devJ [z] none) 0 0 = some group11 ∧ group11.ops.find? (fun p => p.id == 3) = group11.ops[0]? ∧
    (∀ p ∈ (quadAt (devJ [z] none) 0).jobs, p.id < z.id → p.bank = 0 → p.past = true) ∧
    (∃ p ∈ (quadAt (devJ [{ j with id := 6 }, z] none) 0).jobs, p.id < z.id ∧ p.bank = 0 ∧ p.past = false) ∧
    (∃ p ∈ (quadAt (devJ [z, { j with id := 8 }] none) 0).jobs, p.kind = .loop ∧ p.bank = 0 ∧ z.id < p.id) ∧
    (∀ p ∈ (quadAt (devJ [z] none) 0).jobs, p.kind = .loop → p.bank = 0 → p.id ≤ z.id) ∧
    (quadAt (devJ [j] none) 0).jobs.find? (fun p => p.kind == .loop && !p.started && p.ended.isNone && p.wait.isNone &&
      firstOnBank (quadAt (devJ [j] none) 0) p) = some j ∧
    (j.desc.getD 6 0).getLsbD 55 = false ∧
    (∃ a b, readTensor (devJ [j] none) 0 1 32 (j.desc.getD 0 0) = .ok (a, false) ∧
      readTensor (devJ [j] none) 0 1 32 (j.desc.getD 1 0) = .ok (b, false) ∧ recordsOk (devJ [j] none) j a b = true) ∧
    (∃ a b, readTensor (devJ [j] none) 0 1 32 (2 ^ 63) = .ok (a, false) ∧
      readTensor (devJ [j] none) 0 1 32 (2 ^ 63 + 0x80) = .ok (b, false) ∧ a.dim 0 ≠ b.dim 0) ∧
    (quadAt (devJ [] none) 0).jobs = [] := by
  and_intros <;> try decide +kernel
  · exact ⟨⟨record 2 3⟩, ⟨record 2 5⟩, readTensor_of (by decide +kernel), readTensor_of (by decide +kernel), by decide +kernel⟩
  · exact ⟨⟨record 2 3⟩, ⟨record 72 4⟩, readTensor_of (by decide +kernel), readTensor_of (by decide +kernel), by decide +kernel⟩

/-- A step of a loop has its operands, or a tensor does not allow them. -/
def hasOperands (s : State) (q : Nat) (j : QuadJob) : Bool := match loopIn s q j with
  | .ok as bs => !stepPoison as bs
  | _ => false

theorem operands_of {s : State} {q : Nat} {j : QuadJob} (h : hasOperands s q j = true) :
    ∃ as bs, loopIn s q j = .ok as bs ∧ stepPoison as bs = false := by
  unfold hasOperands at h
  cases hl : loopIn s q j with
  | ok as bs => exact ⟨as, bs, rfl, by simpa [hl] using h⟩
  | fault c v => simp [hl] at h
  | badMeta => simp [hl] at h

/-- MatrixSteps: a loop of one step, running and not, and two of the same bank in the order of their acceptance. -/
theorem witness_matrixSteps :
    let j := job0 .loop desc0 0x842 true []
    (quadAt (devJ [j] none) 0).running = none ∧ (quadAt (devJ [j] (some 7)) 0).running = some 7 ∧ j ∈ (quadAt (devJ [j] none) 0).jobs ∧
    j.kind = .loop ∧ j.ended = none ∧ fSparse j.fmt = false ∧ canProceed (devJ [j] none) 0 j = true ∧
    (∃ as bs, loopIn (devJ [j] none) 0 j = .ok as bs ∧ stepPoison as bs = false) ∧
    (∀ p ∈ (quadAt (devJ [j, { j with bank := 1, id := 8 }] none) 0).jobs,
      canProceed (devJ [j, { j with bank := 1, id := 8 }] none) 0 p = true → p ≠ j → j.cls < p.cls ∨ (j.cls = p.cls ∧ j.id < p.id)) := by
  and_intros <;> first | decide +kernel | exact operands_of (by decide +kernel)

/-- DrainsAndDenoises: a drain to scratchpad of one row, one to a queue with more than one element left, and a denoise with
sound weights and with a record of the wrong shape. -/
theorem witness_drains :
    let d := job0 .drainSp [8 * 2 ^ 20, 2 ^ 48 + 2 ^ 16] 0 false []
    let e := job0 .drainQ [15, 0] 0 true (List.replicate 129 (5, false))
    let n := job0 .denoise [0, 2 ^ 63 + 0x80, 0] 0 false []
    (∀ x ∈ [d, e], (quadAt (devJ [x] none) 0).jobs.find? (fun j => (j.kind == .drainQ || j.kind == .drainSp) && j.ended.isNone &&
      (if j.started then !drainStuck (devJ [x] none) j else firstOnBank (quadAt (devJ [x] none) 0) j)) = some x) ∧
    teamOf (devJ [d] none) 1 = some team1 ∧ Memory.wf team1.mem = true ∧ groupAt (devJ [d] none) 0 0 = some group11 ∧
    (group11.ops.find? fun p => p.id == 3).isSome = true ∧
    dOfs d.desc % drainBytes d.fmt = 0 ∧ dPitch d.desc % 4 = 0 ∧ dCols d.desc * drainBytes d.fmt ≤ dPitch d.desc ∧ dRows d.desc = 1 ∧
    drainPoison (devJ [d] none) 0 d = false ∧ e.freed = false ∧ (tfind group11.queues (dOfs e.desc)).isSome = true ∧ 128 < e.data.length ∧
    (quadAt (devJ [n] none) 0).jobs.find? (fun j => j.kind == .denoise && !j.started && j.ended.isNone && j.wait.isNone &&
      firstOnBank (quadAt (devJ [n] none) 0) j) = some n ∧
    (∃ p ∈ (quadAt (devJ [n, { job0 .zero [] 0 false [] with id := 8 }] none) 0).jobs, p.kind = .zero ∧ p.bank = n.bank ∧ n.id < p.id) ∧
    (∀ p ∈ (quadAt (devJ [n] none) 0).jobs, p.kind = .zero → p.bank = n.bank → p.id ≤ n.id) ∧
    ((placedTile (devJ [n] none) 0 (pixTile (frameW (devJ [n] none) 0) n.pix)).map fun t => t.retiring).getD false = false ∧
    (∃ t, readTensor (devJ [n] none) 0 1 32 (n.desc.getD 1 0) = .ok (t, false) ∧ weightOk (devJ [n] none) n t = true) ∧
    (∃ t, readTensor (devJ [n] none) 0 1 32 (2 ^ 63) = .ok (t, false) ∧ t.dim 0 ≠ 72) := by
  and_intros <;> try decide +kernel
  · exact ⟨⟨record 72 4⟩, readTensor_of (by decide +kernel), by decide +kernel⟩
  · exact ⟨⟨record 2 3⟩, readTensor_of (by decide +kernel), by decide +kernel⟩

/-- A frame of 8 by 8 pixels with no image. -/
def noFrame : TileFrame := ⟨8, 8, 0, 0, 0⟩

/-- A ray grid with a generation entry and a hit entry, whose treelets stand from address 0 on, and two rays in lanes 0 and 127. -/
def grid0 : Grid :=
  ⟨0, 1, some 0, 0, [2 ^ 48 + 0x1000, 0x2000, 0, 4 * 2 ^ 32, 2 ^ 32, 0, 0, 0], [(0x3000, 124), (2 ^ 48 + 0x4000, 124)], 2, 0, 0, none, [], 0, 0, 0,
    [], [], none, none⟩
def ray (id : Nat) (place : RayPlace) : Ray :=
  ⟨id, 0, 0, 5, [0, 0, 0, 0, 0x3F800000, 0, 0, 0x7F7FFFFF, 0xFF000000, 0, BitVec.ofNat 32 id, 0xFE000000], List.replicate 16 1, 0, ⟨[], none, none⟩,
    place, 0, none⟩
def group12 (kind : GroupKind) : Group :=
  { group0 with
    kind := kind
    a := { group0.a with mask := 2 ^ 127 + 1 }
    rays := [(0, 0), (127, 1)]
    disp := [(0, .retire), (127, .retire)]
    s := [(4, 0xFF000000)] }
def devR (g : Group) : State :=
  { devM g with
    ctxs := [(0, { noCtx with live := true, active := [(0x20, 1000), (0x2C, 8 * 65536 + 16)] })]
    grids := [grid0]
    rays := [ray 0 (.episode 0 0 0), ray 1 (.episode 0 0 127)]
    tiles := [⟨0, 0, [], [], 0, false, noFrame, none, 0, [], 0⟩, ⟨0, 1, [], [], 0, false, noFrame, none, 0, [], 0⟩] }
def rayOf (l : Nat) : Ray := if l = 0 then ray 0 (.episode 0 0 0) else ray 1 (.episode 0 0 127)

theorem rayIssues0 {kinds : List GroupKind} {fs : List (BitVec 7)} {g : Group}
    (h : issuer (devR g) = some (g, clause0) ∧ g.kind ∈ kinds ∧ (∀ f ∈ fs, windowOf g f = none ∧ beyond g f = false) ∧
      cnt g 5 < 63 ∧ acqHeld (devR g) g = false ∧ Claims.rayActive g clause0 none ≠ 0 ∧ g.batch = none) :
    Claims.RayIssues (devR g) g clause0 5 none kinds fs :=
  ⟨⟨h.1, h.2.1, h.2.2.1, h.2.2.2.1, h.2.2.2.2.1, h.2.2.2.2.2.2⟩, h.2.2.2.2.2.1⟩

theorem laneRays0 (kind : GroupKind) :
    Claims.LaneRays (devR (group12 kind)) (group12 kind) (Claims.rayActive (group12 kind) clause0 none) rayOf := by
  have hm : ∀ l, l < 128 → (2 ^ 127 + 1 : Mask).getLsbD l = true → l = 0 ∨ l = 127 := by decide +kernel
  have ha : Claims.rayActive (group12 kind) clause0 none = 2 ^ 127 + 1 := by cases kind <;> decide +kernel
  rw [ha]
  refine ⟨fun l hl => ?_, fun l m hl hm' => ?_⟩
  · rcases hm l hl.1 hl.2 with rfl | rfl <;> cases kind <;> decide +kernel
  · rcases hm l hl.1 hl.2 with rfl | rfl <;> rcases hm m hm'.1 hm'.2 with rfl | rfl <;> decide +kernel

/-- RayRecords: rays in two lanes, and words 8 and 9 at the bounds of what they may hold. -/
theorem witness_rayRecords :
    Claims.RayIssues (devR (group12 .gen)) (group12 .gen) clause0 5 none Claims.episodeKinds [1] ∧
    Claims.RayIssues (devR (group12 .anyhit)) (group12 .anyhit) clause0 5 none [.hit, .anyhit] [123] ∧
    Claims.LaneRays (devR (group12 .gen)) (group12 .gen) (Claims.rayActive (group12 .gen) clause0 none) rayOf ∧
    Claims.FlagsOk 0xFF00007E ∧ ¬ Claims.FlagsOk 3 ∧ ¬ Claims.FlagsOk 0x80 ∧
    Claims.IndexOk (devR (group12 .gen)) (group12 .gen) 0xFFFF0001 ∧ ¬ Claims.IndexOk (devR (group12 .gen)) (group12 .gen) 2 ∧
    group0.kind = .compute ∧ At (dev group0) group0 clause0 := by
  refine ⟨rayIssues0 (by decide +kernel), rayIssues0 (by decide +kernel), laneRays0 .gen, by unfold Claims.FlagsOk; decide, by unfold Claims.FlagsOk; decide,
    by unfold Claims.FlagsOk; decide, ⟨grid0, by decide +kernel, by decide +kernel⟩, ?_, rfl, by unfold At; decide +kernel⟩
  rintro ⟨d, hd, h⟩
  have : gridOf (devR (group12 .gen)) (group12 .gen).ctx (group12 .gen).grid = some grid0 := by decide +kernel
  rw [this] at hd
  cases hd
  revert h
  decide

/-- RaysOfLanes: the forms' fields and scalars, a template that is valid and one that is not, reservations, a lane without
one, no room, and an episode in its handler. -/
theorem witness_raysOfLanes :
    let g := { group12 .hit with res := [(0, 1), (127, 64)] }
    Claims.RayIssues (devR g) g clause0 5 none Claims.shadingKinds (runFields 1 8 ++ runFields 16 16) ∧ (16 : BitVec 7).toNat + 16 ≤ g.regAlloc ∧
    (∀ x ∈ runFields 1 8 ++ runFields 16 16, Sound g (Claims.rayActive g clause0 none) x) ∧
    tget g.sPoison 4 false = false ∧ Claims.TemplateOk (devR g) g 4 ∧ ¬ Claims.TemplateOk (devR g) { g with s := [(4, 3)] } 4 ∧
    logMode (devR g) 0 = 0 ∧ (∀ l, On (Claims.rayActive g clause0 none) l → 0 < tget g.res l 0) ∧
    (∀ q ∈ (devR g).rays, q.id < (devR g).nextId) ∧ ((devR g).groups.map fun g => (g.core, g.slot)).Nodup ∧
    (g.res.map Prod.fst).Pairwise (· < ·) ∧ degenerate (ray 2 (.travBin 0)) = false ∧ Claims.named (some ⟨false, 3, 0⟩) = true ∧
    (Claims.counts { devR (group12 .hit) with ctxs := [(0, { noCtx with live := true, active := [(0x20, 2)] })] } (group12 .hit)).getD 3 0 = 0 ∧
    ((devR g).rays.filter fun q => q.ctx == 0 && q.spilled.isNone).length + (lanesIn (Claims.rayActive g clause0 none)).length ≤
      (ctxWord (devR g) 0 0x080).toNat ∧
    Claims.RayIssues (devR (group12 .anyhit)) (group12 .anyhit) clause0 5 none [.anyhit] [] := by
  refine ⟨rayIssues0 (by decide +kernel), by decide, fun x _ l _ => ?_, by decide +kernel,
    fun _ => ⟨by unfold Claims.FlagsOk; decide +kernel, ⟨grid0, by decide +kernel, by decide +kernel⟩⟩,
    fun h => absurd (h (by decide)).1 (by unfold Claims.FlagsOk; decide +kernel), by decide +kernel, lanes_on (by decide +kernel), ?_⟩
  · simp [fieldPoison, group12, group0, freshGroup, tget]
  · refine ⟨by decide +kernel, by decide +kernel, by decide +kernel, by decide +kernel, rfl, by decide +kernel, by decide +kernel,
      rayIssues0 (by decide +kernel)⟩

/-- RayRecords: each form at its lanes with none that holds a ray; RaysOfLanes: the 256th spawn of a lane, and a run of 16
that leaves the allocation. -/
theorem witness_rayless :
    let g := { group12 .hit with rays := [] }
    (∀ p ∈ ([([.hit, .anyhit], [1]), (Claims.shadingKinds, runFields 1 8 ++ runFields 16 16), (Claims.allKinds, 1 :: runFields 2 4)] :
      List (List GroupKind × List (BitVec 7))), Claims.RayStands (devR g) g clause0 5 p.1 p.2) ∧
    Claims.rayActive g clause0 none = 0 ∧ (16 : BitVec 7).toNat + 16 ≤ g.regAlloc ∧
    256 ≤ tget { g with spawns := [(0, 256), (127, 256)] }.spawns 127 0 ∧ { g with regAlloc := 16 }.regAlloc < (16 : BitVec 7).toNat + 16 ∧
    (∀ x ∈ runFields 1 8 ++ runFields 16 16, windowOf { g with regAlloc := 16 } x = none) := by
  refine ⟨fun p hp => ?_, by decide +kernel⟩
  simp only [List.mem_cons, List.not_mem_nil, or_false] at hp
  rcases hp with rfl | rfl | rfl <;>
    exact ⟨by unfold At; decide +kernel, by decide +kernel, by unfold Plain; decide +kernel, by decide +kernel, by decide +kernel, rfl⟩

/-- Reservations: a request of nothing, one of 16 records in lane 127, and one of 17 and one that would hold 65. -/
theorem witness_reservations :
    let g := fun (l : Nat) (n : Word) (r : Nat) => { group12 .gen with v := [(1, (List.replicate 128 (0 : Word)).set l n)], res := [(127, r)] }
    let greedy := fun (g : Group) => among (Claims.rayActive g clause0 none) fun l =>
      decide (16 < (readV g 1 l).toNat) || decide (64 < tget g.res l 0 + (readV g 1 l).toNat)
    let total := fun (g : Group) => ((lanesIn (Claims.rayActive g clause0 none)).map fun l => (readV g 1 l).toNat).sum
    Claims.RayIssues (devR (g 0 0 0)) (g 0 0 0) clause0 5 none Claims.shadingKinds [1, 2] ∧ logMode (devR (g 0 0 0)) 0 = 0 ∧
    greedy (g 0 0 0) = 0 ∧ total (g 0 0 0) = 0 ∧ greedy (g 127 16 48) = 0 ∧ total (g 127 16 48) = 16 ∧ greedy (g 127 17 0) ≠ 0 ∧
    greedy (g 127 16 49) ≠ 0 ∧ (∀ o ∈ (g 0 0 0).ops, o.id ≠ (devR (g 0 0 0)).nextId) := by
  exact ⟨rayIssues0 (by decide +kernel), by decide +kernel⟩

/-- Group 0 with lanes 0 and 127 at pixels 0 and 127. -/
def group13 : Group := { group12 .compute with v := [(1, (List.replicate 128 (0 : Word)).set 127 127)] }

/-- Accumulations: pixels of a placed tile, the first and the last of a frame of 16 by 8, and the first beyond it. -/
theorem witness_accumulations :
    let g := group13
    Claims.RayIssues (devR g) g clause0 5 none Claims.allKinds (1 :: runFields 2 4) ∧ frameW (devR g) 0 = 16 ∧ frameH (devR g) 0 = 8 ∧
    (∀ l, On (Claims.rayActive g clause0 none) l → (readV g 1 l).toNat < 16 * 8 ∧
      placedTile (devR g) 0 (pixTile 16 (readV g 1 l).toNat) = some ⟨0, l / 127, [], [], 0, false, noFrame, none, 0, [], 0⟩) ∧
    (∀ l, l < 128 → ∀ m, m < 128 → On (Claims.rayActive g clause0 none) l → On (Claims.rayActive g clause0 none) m →
      (readV g 1 l).toNat = (readV g 1 m).toNat → l = m) ∧
    pixTile 16 127 = 1 ∧ (let h := { g with v := [(1, List.replicate 128 (128 : Word))] };
      ∀ l, On (Claims.rayActive h clause0 none) l → 16 * 8 ≤ (readV h 1 l).toNat) ∧
    Claims.LaneRays (devR (group12 .gen)) (group12 .gen) (Claims.rayActive (group12 .gen) clause0 none) rayOf ∧
    tget g.sPoison 31 false = false := by
  refine ⟨rayIssues0 (by decide +kernel), by decide +kernel, by decide +kernel, lanes_on (by decide +kernel), ?_, by decide +kernel,
    lanes_on (by decide +kernel), laneRays0 .gen, by decide +kernel⟩
  have hm : ∀ l, l < 128 → (Claims.rayActive group13 clause0 none).getLsbD l = true → l = 0 ∨ l = 127 := by decide +kernel
  intro l _ m _ hl hm'
  rcases hm l hl.1 hl.2 with rfl | rfl <;> rcases hm m hm'.1 hm'.2 with rfl | rfl <;> revert hl hm' <;> decide +kernel

/-- A group of an episode that has come to its end, by epend or otherwise, and one that waits since clock `n`. -/
def group14 (byEpend : Bool) (d : Disposition) (rays : Tbl Nat) : Group :=
  { group12 .gen with
    a := { group0.a with st := .empty }
    clause := none
    rays := rays
    disp := [(0, d), (127, d)]
    byEpend := byEpend }
def group15 (n : Nat) : Group := { group14 true .retire [] with waitingSince := some n }

theorem episodeOver0 {s : State} {g : Group} (h : groupAt s g.core g.slot = some g ∧ g.kind ≠ .compute ∧
      (g.a.st = .empty ∧ g.b.st = .empty ∧ g.top = none ∧ g.clause = none) ∧ (∀ n, n < 6 → cnt g n = 0) ∧ g.ops = [] ∧ s.syncOps = [] ∧
      (g.stopped = none ∧ g.batch = none ∧ g.waitingSince = none)) : Claims.EpisodeOver s g :=
  ⟨h.1, h.2.1, h.2.2.1, h.2.2.2.1, ⟨h.2.2.2.2.1, fun o ho => by simp [h.2.2.2.2.2.1] at ho⟩, h.2.2.2.2.2.2⟩

/-- EpisodesAndWaves: episodes that end by epend and otherwise, one with a ray to trace, and one that has waited 2,048 clocks. -/
theorem witness_episodes :
    Claims.EpisodeOver (devR (group14 true .retire [(0, 0), (127, 1)])) (group14 true .retire [(0, 0), (127, 1)]) ∧
    Claims.EpisodeOver (devR (group14 false .retire [])) (group14 false .retire []) ∧
    Claims.EpisodeOver (devR (group14 false .trace [(127, 1)])) (group14 false .trace [(127, 1)]) ∧
    (∀ e ∈ (group14 true .retire [(0, 0), (127, 1)]).rays, tfind (group14 true .retire [(0, 0), (127, 1)]).disp e.1 = some .retire) ∧
    rayAt (devR (group14 false .trace [(127, 1)])) 1 = some (rayOf 127) ∧ degenerate (rayOf 127) = false ∧
    tfind (group14 false .trace [(127, 1)]).disp 127 = some .trace ∧ (ctxOf (devR (group15 0)) 0).preempt = false ∧
    groupAt (devR (group15 0)) 0 0 = some (group15 0) ∧ (group15 0).waitingSince = some 0 ∧ 0 + 2048 ≤ 2048 := by
  exact ⟨episodeOver0 (by decide +kernel), episodeOver0 (by decide +kernel), episodeOver0 (by decide +kernel), by decide +kernel⟩

/-- A device with a ray in each kind of bin, as old as the clock, on a core that is ready. -/
def bin0 (shading : Bool) (ready : Bool) : Bin := ⟨0, 0, shading, 0, 0, 0, ready⟩
def devB (shading ready : Bool) (clock : Nat) : State :=
  { devR group0 with
    ready := 2 ^ 64 - 1
    clock := clock
    bins := [bin0 shading ready]
    rays := [ray 0 (if shading then .shadeBin 0 0 0 else .travBin 0)] }

/-- EpisodesAndWaves: a shading bin at its age and one clock before, with none ready and with one that has a place. -/
theorem witness_waves :
    (devB true false 2048).bins[0]? = some (bin0 true false) ∧ (bin0 true false).shading = true ∧ logMode (devB true false 2048) 0 ≠ 2 ∧
    (∃ r ∈ (devB true false 2048).rays, (bin0 true false).holds r = true ∧ r.since + 2048 ≤ 2048) ∧
    (∀ r ∈ (devB true false 2047).rays, (bin0 true false).holds r = true → 2047 < r.since + 2048) ∧
    (∀ b ∈ (devB true false 0).bins, binReady (devB true false 0) b = false) ∧
    (∀ c ∈ (devB true false 0).ctxs, logMode (devB true false 0) c.1 ≠ 2) ∧
    (devB true true 0).bins.filter (binReady (devB true true 0)) = [bin0 true true] ∧ logMode (devB true true 0) 0 = 0 ∧
    launches (devB true true 0) 0 = true ∧ ((devB true true 0).rays.map fun r => r.id).Nodup ∧ gridOf (devB true true 0) 0 0 = some grid0 ∧
    grid0.ents[0]? = some (0x3000, 124) ∧ (wavePlace (devB true true 0) 0 (recEntry grid0.recw) (entRegs (0x3000, 124))).isSome = true ∧
    (binRays (devB true true 0) (bin0 true true)).take 128 ≠ [] ∧
    (∀ r ∈ (binRays (devB true true 0) (bin0 true true)).take 128, r.spilled = none) := by
  decide +kernel

/-- A group with a request of 16 records in lane 127, the oldest of a context with room for `cap` records. -/
def group16 : Group := { group12 .gen with ops := [⟨3, .rsv [(127, 16)] 16 none, 0, 4, false, [], 0x104, .a, 1, 0⟩] }
def devG (cap : Word) (clock : Nat) : State :=
  { devR group16 with
    clock := clock
    ctxs := [(0, { noCtx with live := true, active := [(0x20, cap)], rsvQueue := [(0, 0, 3)] })] }

/-- EpisodesAndWaves: a request that fits exactly, one that is one record short, and the clock at which it may be given nothing. -/
theorem witness_grants :
    (∀ cap clock, Claims.Oldest (devG cap clock) 0 group16 ⟨3, .rsv [(127, 16)] 16 none, 0, 4, false, [], 0x104, .a, 1, 0⟩ [(127, 16)] 16 []) ∧
    raysUsed (devG 18 0) 0 + raysReserved (devG 18 0) 0 + 16 = 18 ∧
    (ctxWord (devG 18 0) 0 0x080).toNat + (ctxDWord (devG 18 0) 0 0x090).toNat / 128 = 18 ∧
    (ctxWord (devG 17 0) 0 0x080).toNat + (ctxDWord (devG 17 0) 0 0x090).toNat / 128 = 17 ∧
    (ctxOf (devG 17 4096) 0).rsvSince + 4096 = (devG 17 4096).clock ∧ logMode (devG 18 0) 0 = 0 ∧
    (∀ h ∈ (devG 17 0).groups, h.ctx = 0 → h.kind ≠ .compute → h.waitingSince = none →
      ∃ q ∈ (ctxOf (devG 17 0) 0).rsvQueue, q.1 = h.core ∧ q.2.1 = h.slot) := by
  refine ⟨fun cap clock => ⟨rfl, rfl, rfl, by decide +kernel, rfl, by decide, by decide⟩, by decide +kernel⟩

/-- A device whose spill region of two places starts at 0x10000, with a ray on die and one whose record stands at place 1. -/
def devS (mem : List Host.Cell) : State :=
  { devR group0 with
    ctxs := [(0, { noCtx with live := true, active := [(0x20, 4), (0x22, 0x10000), (0x24, 256)] })]
    mem := mem
    nextId := 10
    rays := [ray 0 (.travBin 0), { ray 1 (.travBin 0) with spilled := some (1, 0) }] }

/-- CreationAndSpilling: room for one more generation ray and none, a ray that may be spilled, and a record in memory whose
word 8 is sound and one whose is not. -/
theorem witness_creation :
    gridOf (devS []) 0 0 = some grid0 ∧ recKind grid0.recw = 1 ∧ grid0.created < recNpix grid0.recw * recSpp grid0.recw ∧
    raysFree (devS []) 0 1 = true ∧ (ctxOf (devS []) 0).rsvQueue = [] ∧ launches (devS []) 0 = true ∧
    (∀ r ∈ (devS []).rays, r.id < (devS []).nextId) ∧ recNpix grid0.recw * recSpp grid0.recw = 4 ∧
    rayAt (devS []) 0 = some (ray 0 (.travBin 0)) ∧ (ray 0 (.travBin 0)).key.isSome = true ∧
    128 * (spillSlot (devS []) 0 + 1) ≤ (ctxDWord (devS []) 0 0x090).toNat ∧ bitsOf (ctxDWord (devS []) 0 0x088) 0 48 % 4 = 0 ∧
    bitsOf (ctxDWord (devS []) 0 0x088) 0 48 + (ctxDWord (devS []) 0 0x090).toNat ≤ 2 ^ 48 ∧ ((devS []).rays.map fun q => q.id).Nodup ∧
    (∀ i, i < 32 → isLost (devS []) (bitsOf (ctxDWord (devS []) 0 0x088) 0 48 + 128 * spillSlot (devS []) 0 + 4 * i) = false) ∧
    raysOnDie (devS []) 0 < (ctxWord (devS []) 0 0x080).toNat ∧
    Claims.FlagsOk (readAsEngine (devS []) (0x10000 + 128 + 32)).1 ∧
    (readAsEngine (devS []) (0x10000 + 128 + 36)).1.toNat % 2 ^ 16 < nentOf (devS []) 0 0 ∧
    ¬ Claims.FlagsOk (readAsEngine (devS [(0x10000 + 128 + 32, 3)]) (0x10000 + 128 + 32)).1 ∧ rayAt (devS []) 7 = none := by
  unfold Claims.FlagsOk
  decide +kernel

theorem witness_creationMemory : MemoryOk (devS []) := ⟨by decide +kernel, by simp [devS, devR, devM, dev, State.reset]⟩

/-- A device whose ray waits for treelet 0, which is absent, fetched or being fetched. -/
def treelet0 (ready : Bool) (data : List Host.Cell) : Treelet := ⟨0, 0, 0, 0, data, true, ready, none, 0⟩
def devTl (ts : List Treelet) (clock : Nat) : State :=
  { devB false true clock with treelets := ts, devTlb := [⟨0, leaf0⟩], aheadTlb := [(0, [⟨0, leaf0⟩])], hamletTlb := [(0, [⟨0, leaf0⟩])] }

def leafIn : Xl → Option Leaf
  | .ok leaf => some leaf
  | _ => none

/-- TreeletsAndTraversal: a bin of treelet 0 at its age, its fetch begun and not, its pages within reach, and one absent. -/
theorem witness_treelets :
    let far : Treelet := ⟨0, 0x1FFFFC000, 0, 0, [], true, false, none, 0⟩
    travBinOf (devTl [] 2048) 0 0 0 = some (bin0 false true) ∧
    (∃ r ∈ (devTl [] 2048).rays, (bin0 false true).holds r = true ∧ r.since + 2048 ≤ 2048) ∧ (ctxOf (devTl [] 0) 0).drained = false ∧
    treeletAt (devTl [] 0) 0 (recTla grid0.recw) 0 = none ∧ (sliceTreelets (devTl [] 0) (treeletSlice 0)).length < 256 ∧
    treeletAt (devTl [treelet0 true []] 0) 0 (recTla grid0.recw) 0 = some (treelet0 true []) ∧
    (∀ r ∈ (devTl [] 0).rays, (bin0 false true).holds r = true → r.spilled = none) ∧
    fetchNamed (devTl [treelet0 false []] 0) 0 0 0 = some (treelet0 false []) ∧
    (∀ va ∈ treeletPages 0 0, (leafIn (fetchPage (devTl [] 0) (treelet0 false []) va)).isSome = true) ∧
    Claims.fetchFault { devTl [] 0 with walkFails := [⟨0, 0x1FFFFC, treeletTlb far, .absent⟩] } far = some (0x20, 0x1FFFFC000) ∧
    fetchPage (devTl [] 0) far 0x1FFFFC000 = .miss ∧
    (let full := List.replicate 256 (⟨0, 0x4000, 0, 0, [], true, false, none, 0⟩ : Treelet)
     treeletAt (devTl full 0) 0 (recTla grid0.recw) 0 = none ∧ 256 ≤ (sliceTreelets (devTl full 0) (treeletSlice 0)).length ∧
     ∀ x ∈ sliceTreelets (devTl full 0) (treeletSlice 0), treeletBusy (devTl full 0) x = true) := by
  decide +kernel

/-- A treelet whose first line holds a triangle at x = 1 across the x axis. -/
def triWords : List Word :=
  [0x3F800000, 0xBF800000, 0xBF800000, 0x3F800000, 0x3F800000, 0xBF800000, 0x3F800000, 0, 0x3F800000, 1, 2, 1]
def triData : List Host.Cell := (triWords.zipIdx.foldl (fun t x => spPut t (4 * x.2) 0xF x.1 false) { team0 with mem := [] }).mem
def hit0 (t : Word) (hbase : Nat) : Hit := ⟨t, 0, 0, 1, 2, 0xFFFFFFFF, false, 0, hbase⟩

/-- A device with a ray in traversal of treelet 0. -/
def rayT (flags : Word) (stack : List TravItem) (hit : Option Hit) : Ray :=
  { ray 0 (.traversal 0) with
    words := [0, 0, 0, 0, 0x3F800000, 0, 0, 0x7F7FFFFF, 0xFF000000 + flags, 0, 0, 0]
    trav := ⟨stack, hit, none⟩ }
def devV (r : Ray) (data : List Host.Cell) : State := { devR group0 with rays := [r], treelets := [treelet0 true data] }

theorem traverses0 (flags : Word) (stack : List TravItem) (hit : Option Hit) (data : List Host.Cell) :
    let r := rayT flags stack hit
    rayAt (devV r data) r.id = some r ∧ r.place = .traversal 0 ∧ gridOf (devV r data) r.ctx r.grid = some grid0 ∧
      treeletAt (devV r data) r.ctx (recTla grid0.recw) 0 = some (treelet0 true data) := ⟨rfl, rfl, rfl, rfl⟩

/-- TreeletsAndTraversal: rays with no entry left under each flag, with a hit of a hit entry and of none, one whose entry is
of another treelet, and one at an unsound node. -/
theorem witness_traversal :
    (rayT 0x40 [] none).flag 6 = true ∧ (rayT 0 [] none).flag 6 = false ∧ (rayT 0x20 [] (some (hit0 0 1))).flag 5 = true ∧
    (rayT 0 [] (some (hit0 0 1))).flag 5 = false ∧
    grid0.ents[(hit0 0 1).hbase + ((rayT 0 [] none).word 9).toNat / 2 ^ 16]? = some (2 ^ 48 + 0x4000, 124) ∧
    bitsOf (2 ^ 48 + 0x4000 : DWord) 48 2 = 1 ∧ grid0.ents[(hit0 0 2).hbase + ((rayT 0 [] none).word 9).toNat / 2 ^ 16]? = none ∧
    (rayT 0 [⟨.node 1 0, none, none⟩] none).trav.stack = [⟨.node 1 0, none, none⟩] ∧ nodeOk [(15, 1)] (128 * 0) = false ∧
    nodeOk [] (128 * 0) = true := by
  decide +kernel

/-- TreeletsAndTraversal: a triangle that the ray hits, which beats no hit and a farther one, and loses to a nearer one. -/
theorem witness_triangles :
    tlWord triData (16 * 0 + 0x2C) >>> 1 = 0 ∧
    (∀ c ∈ [none, some (hit0 0x40000000 0), some (hit0 0 0)], (triRecord triData (16 * 0) (withStack (rayT 0 [] c) []) none).any (fun h =>
      beats (rayT 0 [] c) h == (c != some (hit0 0 0))) = true) ∧
    opaqueCand triData (16 * 0) (rayT 0 [] none) none = true ∧ (rayT 0 [] none).flag 2 = false ∧ (rayT 4 [] none).flag 2 = true ∧
    (f32 (hit0 0x40000000 0).t).isNan = false := by
  decide +kernel

/-- A device with an addition of lane 127 that waits for the tile of its pixel, and tiles that retire. -/
def tile0 (retiring : Bool) (wait : Option Nat) (img : Nat := 0) : Tile :=
  ⟨0, 0, [(0, 2 ^ 63 - 1)], [], 0, retiring, { noFrame with img := img }, wait, 0, [], 0⟩
def add0 (op : Nat) : TileAdd := ⟨0, 8, 0, 0, [0x3F800000, 0, 0, 0x3F800000], 0, 0, op⟩
def group17 : Group := { group12 .compute with ops := [⟨3, .accum, 0, 0, false, [], 0x104, .a, 1, 0⟩] }
def devA (img : Word) (rest : List TileAdd) (t : Tile) : State :=
  { devR group17 with
    tileAdds := add0 3 :: rest
    tiles := [t]
    ctxs := [(0, { noCtx with live := true, active := [(0x2C, 8 * 65536 + 8), (0x2E, img)] })] }

/-- TileEvents: an addition that waits, the last of its operation and not, a tile that retires with no image and one whose
image is absent, and sums at the bounds. -/
theorem witness_tileEvents :
    placedTile (devA 0 [] (tile0 false none)) 0 (add0 3).tile = some (tile0 false none) ∧
    placedTile { devA 0 [] (tile0 false none) with tiles := [] } 0 (add0 3).tile = none ∧
    ({ devA 0 [] (tile0 false none) with tiles := [] }.tiles.filter fun (t : Tile) => t.tile % 8 == (add0 3).tile % 8).length < 512 ∧
    (tile0 false none).retiring = false ∧ groupAt (devA 0 [] (tile0 false none)) 0 0 = some group17 ∧
    (group17.ops.find? fun x => x.id == 3).isSome = true ∧ (add0 3).samples.length ≤ 4 ∧ (∃ x ∈ [add0 3], x.op = 3) ∧
    (∀ x ∈ [add0 4], x.op ≠ 3) ∧ (tile0 true (some 1)).waitPage.isSome = true ∧ (tile0 true none).retiring = true ∧
    ((tile0 true none).frame.img = 0 ∧ (tile0 true none).frame.mrk = 0 ∧ (tile0 true none).frame.res = 0) ∧
    (devA 0 [] (tile0 true none)).flushing = [] ∧ (devA 0 [] (tile0 true none)).rdc = [] ∧
    (devA 0 [] (tile0 true none)).hostLines = [] ∧ rdcOut (devA 0 [] (tile0 true none)) (devA 0 [] (tile0 true none)).msgSeq = false ∧
    (let p := tile0 true none 0x40000000
     let s := { devA 0x40000000 [] p with ctxs := [(0, { noCtx with live := true, active := [(0x2C, 8 * 65536 + 8), (0x2E, 0x40000000)] })] }
     ((retireSteps p).drop p.pos).head?.map (fun x => x.access p.frame) = some (0x40000000, 64, .atom) ∧
     unitXlat { s with walkFails := [⟨0, 0x40000, 192, .absent⟩] } 0 (tileTlb p) 0x40000000 64 .atom = .fail 0x20 ∧
     unitXlat { s with walkFails := [⟨0, 0x40000, 192, .malformed⟩] } 0 (tileTlb p) 0x40000000 64 .atom = .fail 0x21) ∧
    (2 ^ 63 - 1 : DWord).toInt + 1 = 2 ^ 63 ∧ (2 ^ 63 : DWord).toInt + -1 < -2 ^ 63 ∧ (2 ^ 63 : DWord).toInt + 0 = -2 ^ 63 := by
  decide +kernel

/-- A core whose L1 holds a clause of one nop at 0x100 and a word without MARK at 0x200. -/
def devC (gs : List Group) : State :=
  { devM group0 with
    groups := gs
    l1 := [(0, [(0x100, clean 0xFE018001), (0x104, clean 0x86C00000), (0x200, clean 7), (0x300, clean 0xFE058001), (0x304, clean 0x86C00000),
      (0x400, clean 0xFE018001), (0x404, clean 0x44000000)])] }
def atPc (pc : Nat) (cnt : Tbl Nat) : Group := { group0 with clause := none, a := { group0.a with pc := pc }, cnt := cnt }

def wordIn : Fetch → Option Word
  | .word w => some w
  | _ => none

theorem fetchWord_of {s : State} {ctx core a : Nat} {w : Word} (h : wordIn (fetchWord s ctx core a) = some w) : fetchWord s ctx core a = .word w := by
  cases hf : fetchWord s ctx core a <;> simp_all [wordIn]

def startOf : StartTry → Option (Clause × Bool)
  | .start c f => some (c, f)
  | _ => none

theorem tryStart_of {s : State} {g : Group} {i : SlotId} {c : Clause} {f : Bool} (h : startOf (tryStart s g i) = some (c, f)) :
    tryStart s g i = .start c f := by
  cases ht : tryStart s g i <;> simp_all [startOf]

/-- ClauseStarts: a free slot with one candidate, headers that may start, that lack MARK, whose counter is not zero and whose
word is reserved, a slot held, and a candidate of 4,096 clocks. -/
theorem witness_clauseStarts :
    let g := atPc 0x100 []
    let s := devC [g]
    Claims.IssueFree s 0 0 ∧ g ∈ issueGroups s 0 0 ∧ groupAt s 0 0 = some g ∧ issueHeld s g = false ∧ (pcSlot g .a).st = .running ∧
    g.resume = none ∧ tryStart s g .a = .start clause0 true ∧
    (∀ h ∈ issueGroups s 0 0, ∀ j, issueHeld s h = false → (pcSlot h j).st = .running → (h.slot = g.slot ∧ j = .a)) ∧
    fetchWord s 0 0 0x100 = .word 0xFE018001 ∧ isHeader 0xFE018001 = true ∧ Claims.CountersZero g 0xFE018001 ∧ hdrOk 0xFE018001 = true ∧
    hdrN 0xFE018001 = 1 ∧ Claims.Fetched s g 0x100 [0x86C00000] ∧ clauseFlaw (hdrClass 0xFE018001) [0x86C00000] 0 = none ∧
    queueNeeds g [0x86C00000] = true ∧ fetchWord s 0 0 0x200 = .word 7 ∧ isHeader 7 = false ∧ fetchWord s 0 0 0x300 = .word 0xFE058001 ∧
    isHeader 0xFE058001 = true ∧ ¬ Claims.CountersZero (atPc 0x300 [(0, 1), (1, 1), (2, 1), (3, 1), (4, 1), (5, 1)]) 0xFE058001 ∧
    clauseFlaw (hdrClass 0xFE018001) [0x44000000] 0 = some 0 := by
  refine ⟨⟨by decide +kernel, ?_⟩, by decide +kernel, by decide +kernel, by decide +kernel, by decide +kernel, rfl, tryStart_of (by decide +kernel), ?_,
    fetchWord_of (by decide +kernel), by decide +kernel, ?_, by decide +kernel, by decide +kernel, ?_, by decide +kernel,
    by decide +kernel, fetchWord_of (by decide +kernel), by decide +kernel, fetchWord_of (by decide +kernel),
    by decide +kernel, ?_, by decide +kernel⟩
  · intro g hg
    have : g = atPc 0x100 [] := by simpa [issueGroups, devC] using (List.mem_filter.mp hg).1
    subst this
    exact ⟨by decide +kernel, fun i => by cases i <;> decide +kernel⟩
  · intro h hh j _ hr
    have : h = atPc 0x100 [] := by simpa [issueGroups, devC] using (List.mem_filter.mp hh).1
    subst this
    cases j
    · exact ⟨rfl, rfl⟩
    · revert hr; decide +kernel
  · intro n _ _
    simp [atPc, group0, freshGroup, cnt, tget]
  · intro i w hw
    match i, hw with
    | 0, hw =>
      cases hw
      exact fetchWord_of (by decide +kernel)
    | i + 1, hw => simp at hw
  · unfold Claims.CountersZero
    decide +kernel

/-- ClauseStarts: a header at the end of a page whose next page is absent, an illegal header, a group that an acq holds, a
fetch that faults, and a candidate of 4,096 clocks. -/
theorem witness_clauseFaults :
    let g := atPc 0x1FFFFC []
    let s := { devC [g] with l1 := [(0, [(0x1FFFFC, clean 0xFE018001)])], walkFails := [⟨0, 0x200, 0, .absent⟩, ⟨0, 0x300, 0, .malformed⟩] }
    fetchWord s 0 0 0x1FFFFC = .word 0xFE018001 ∧ fetchWord s 0 0 (0x1FFFFC + 4 * (0 + 1)) = .fault 0x20 ∧
    fetchWord s 0 0 0x300000 = .fault 0x21 ∧ (acqHeld s g = false ∨ hdrClass 0xFE018001 ∉ [2, 4, 5]) ∧ isHeader 0xFE038001 = true ∧
    hdrOk 0xFE038011 = false ∧ isHeader 0xFE038011 = true ∧
    acqHeld { s with syncOps := [sync0 false true 5 .table] } g = true ∧ hdrClass 0xFE010001 ∈ [2, 4, 5] ∧
    g.diverged = none ∧ { g with candSince := some 0 }.candSince = some 0 ∧ 0 + 4096 ≤ { s with clock := 4096 }.clock := by
  decide +kernel

/-- A group whose lanes, or a fetch of its, wait for the verdict of page 1. -/
def group18 (what : BatchOf) (ahead : Bool) (v : Option Bool) : Group :=
  { group0 with batch := some ⟨what, [⟨1, 0x20, 0, v⟩], ahead, false, 0⟩, clause := none }

/-- FaultBatchesAndWalks: run-ahead at its end, and batches of lanes and of a fetch with no verdict, and with each. -/
theorem witness_batches :
    (∀ what ahead v, groupAt (devM (group18 what ahead v)) 0 0 = some (group18 what ahead v)) ∧
    (0 : Nat) + 2048 ≤ { devM group0 with clock := 2048 }.clock ∧ (devM group0).clock < 0 + 2048 ∧
    (∃ p ∈ [(⟨1, 0x20, 0, none⟩ : BatchPage)], p.verdict = none) ∧ (∀ p ∈ [(⟨1, 0x20, 0, some true⟩ : BatchPage)], p.verdict = some true) ∧
    (∃ p ∈ [(⟨1, 0x20, 0, some false⟩ : BatchPage)], p.verdict = some false) ∧
    slotTaken (devM (group18 (.lanes 1) false (some true))) 0 (0 % 8) 0 = false ∧
    Claims.Deliverable (devM (group18 (.fetch .a 0x100 0x104 1 0) false (some false))) (group18 (.fetch .a 0x100 0x104 1 0) false (some false)) leaf0 := by
  refine ⟨fun _ _ _ => rfl, ?_⟩
  and_intros <;> first | decide +kernel | constructor <;> decide +kernel

/-- A compute group with nothing left, in a team of it alone or of it and slot 8. -/
def group19 : Group := { group0 with clause := none, a := { group0.a with st := .empty } }
def devN (running : List Nat) : State := { devM group19 with teams := [{ team0 with running := running }] }
def grid1 (placed : Bool) : Grid :=
  ⟨0, 1, if placed then some 0 else none, 0, [2 ^ 55 + 0x3000, 0, 1 + 2 ^ 32 + 2 ^ 36 + 2 ^ 40, 8, 0, 0, 0, 0], [], 2, if placed then 1 else 0, 0, none,
    [], 0, 0, 0, [], [], some 7, none⟩
def devQ1 (placed : Bool) : State :=
  { devM group0 with
    groups := []
    ready := 2 ^ 64 - 1
    grids := [grid1 placed]
    bar := [(0x1020 / 4, 0x10080), (0x1024 / 4, 100)]
    engines := [(64, [{ cmd0 [6 * 2 ^ 56] true none with unit := 64 }])] }

/-- EndsAndQueues: the last group of a team and one of two, a grid that has ended and one that has not, and a head of its AGE. -/
theorem witness_ends :
    Claims.GroupOver (devN [0]) group19 ∧ (∀ rs, teamOfGroup (devN rs) group19 = some { team0 with running := rs }) ∧
    ((devN [0]).teams.map fun t => t.key).Nodup ∧ [0].filter (fun n => n ≠ group19.slot) = [] ∧ [0, 8].filter (fun n => n ≠ group19.slot) ≠ [] ∧
    gridOf (devQ1 true) 0 0 = some (grid1 true) ∧ gridEnded (devQ1 true) (grid1 true) = true ∧
    gridEnded (devM group0) (grid1 true) = false ∧ gridEnded (devQ1 true) { grid1 true with relMark := some 1, cores := [3] } = true ∧
    releaseOut (devQ1 true) 3 5 1 = false ∧
    releaseOut { devQ1 true with msgs := [{ kind := .reg, src := .core 3, dst := .slice 0, addr := 0, who := .core 3, words := [0] }] } 3 5 1 = true ∧
    ((devQ1 true).grids.map fun x => x.key).Nodup ∧ (devQ1 true).reds = [] ∧
    headOf (devQ1 false) 0 = some (grid1 false) ∧ recKind (grid1 false).recw = 0 ∧ (grid1 false).aged = none ∧ qWord (devQ1 false) 0 0x24 = 100 ∧
    (grid1 false).headSince + 100 ≤ { devQ1 false with clock := 100 }.clock ∧ qWord { devQ1 false with bar := [(0x1024 / 4, 0)] } 0 0x24 = 0 := by
  refine ⟨⟨rfl, rfl, ⟨rfl, rfl, rfl, rfl⟩, by decide +kernel, ⟨rfl, fun o ho => by simp [devN, devM, dev, State.reset] at ho⟩, rfl, rfl⟩, ?_, by decide +kernel⟩
  intro rs
  rfl

theorem queue_unbound (q : Nat) (h : q ≠ 0) : qCtx (devQ1 false) q = none := by
  have hr : ∀ k, k < 16 → (ctxReset (64 * k + 0x20)).getLsbD 7 = false := by decide +kernel
  have hk : (0x1000 + 64 * q + 0x20) % 1024 = 64 * (q % 16) + 0x20 := by omega
  have hb : (barReset (0x1000 + 64 * q + 0x20)).getLsbD 7 = false := by
    unfold barReset
    split
    · rw [hk]; exact hr _ (Nat.mod_lt _ (by decide))
    · split
      · split
        · decide
        · split <;> decide
      · decide
  have h1 : (0x1000 + 64 * q + 0x20) / 4 ≠ 0x1020 / 4 := by omega
  have h2 : (0x1000 + 64 * q + 0x20) / 4 ≠ 0x1024 / 4 := by omega
  have hw : barWord (devQ1 false) (queueBase q + 0x20) = barReset (0x1000 + 64 * q + 0x20) := by
    simp only [barWord, devQ1, queueBase, tget, tfind, if_neg h1.symm, if_neg h2.symm]
    rfl
  simp only [qCtx, hw, hb]
  rfl

theorem headsOnly1 : Claims.HeadsOnly (devQ1 false) [0] := by
  refine ⟨fun q => ?_, fun q hq => ?_⟩
  · by_cases h : q = 0
    · subst h; exact .inr (.inl (by decide +kernel))
    · exact .inl (queue_unbound q h)
  · have hq : q ≠ 0 := by simpa using hq
    simp [headOf, devQ1, grid1, Ne.symm hq]

/-- Launches: a window, outside one, no head, and one head that fits; a record refused and one that passes its checks. -/
theorem witness_launches :
    { devQ1 false with clock := 17 }.clock % 16 ≠ 0 ∧ (devQ1 false).clock % 16 = 0 ∧ (devQ1 false).window ≤ (devQ1 false).clock / 16 ∧
    Claims.HeadsOnly (devQ1 false) [0] ∧ headOf (ageHead (devQ1 false) 0) 0 = some (grid1 false) ∧ Claims.Quiescent (devQ1 false) 5 ∧ launches (devQ1 false) 0 = true ∧
    logMode (devQ1 false) 0 = 0 ∧ (findPlace (ageHead (devQ1 false) 0) (grid1 false)).isSome = true ∧ complSlot (devQ1 false) 0 0 = none ∧
    qRej (devQ1 false) 0 = false ∧ qRej { devQ1 false with bar := [(0x1020 / 4, 0x880)] } 0 = true ∧
    recReserved (grid1 false).recw = false ∧ recEntry (grid1 false).recw % 256 = 0 ∧ recEntry (grid1 false).recw ≠ 0 ∧
    checkRecord (devQ1 false) 0 0 (grid1 false).recw = 0 ∧ recNcl [2 ^ 55 + 0x3000, 0, 2 ^ 31 + 1, 8, 0, 0, 0, 0] = 2 ^ 31 + 1 := by
  refine ⟨by decide +kernel, by decide +kernel, by decide +kernel, headsOnly1, by decide +kernel, by unfold Claims.Quiescent; decide +kernel, by decide +kernel⟩

/-- A device with an event ring of 64 slots at 0x10000, its HEAD at `h`, with one record pending in coalescer 3. -/
def event0 : EventRec := ⟨4, 0, 0, 3, 0, 0, 0, 1, 1, 0⟩
def devEv (h : Word) : State :=
  { State.reset with
    bar := [(0x200 / 4, 0x10000), (0x208 / 4, h)]
    events := [(3, [event0])] }

/-- Rings: a ring with room for one record, a full one, and a write of TAIL with nothing waiting. -/
theorem witness_rings :
    tget (devEv 63).events 3 [] = [event0] ∧ evRoom (devEv 63) = true ∧ evRoom (devEv 64) = false ∧
    (let slot := locAt (bitsOf (barDWord (devEv 63) 0x200) 52 2) (evBase (devEv 63) + 32 * ((barWord (devEv 63) 0x208).toNat % evSlots (devEv 63)));
      physExists (homeOf slot) (paOf slot) = true ∧ slot % 32 = 0 ∧ ∀ i, i < 8 → isLost (devEv 63) (slot + 4 * i) = false) ∧
    tget (devEv 63).events 0 [] = [] ∧ (devEv 63).logWait = [] ∧ logMode (logCtx 2 (devEv 63)) 0 = 2 ∧
    (let w : LogWait := ⟨0, [8, 0, 5], 0, 0, 3⟩
     let s := { devEv 63 with
       logWait := [w]
       ctxs := [(0, { noCtx with live := true, active := [(8, 1), (16, 0x10000), (17, 0x90000), (18, 16)], stalls := [stallOp 3] })] }
     logMode s 0 = 1 ∧ (ctxOf s 0).stalls = [stallOp w.op] ∧ logRoom s 0 (recUnits 1) = false ∧
       logRoom (putCtx s 0 0x04C 1) 0 (recUnits 1) = true) := by
  decide +kernel

theorem witness_ringsMemory : MemoryOk (devEv 63) := ⟨by decide +kernel, by simp [devEv, State.reset]⟩

/-- A device whose page table, from 0x1000 on, maps page 0 of context 0 and no other, with walks asked for and in progress. -/
def devW (walking : List WalkReq) : State :=
  { devM group0 with
    ctxs := [(0, { noCtx with live := true, active := [(0, 0x1000)] })]
    mem := [(0x1000, 3), (0x1001, 0x20), (0x2000, 3), (0x2001, 0x30), (0x3000, 5)]
    walkQ := [(0, [⟨0, 0, 0, false⟩, ⟨0, 0, 1, false⟩])]
    walking := [(0, walking)] }

/-- FaultBatchesAndWalks: a free walker and 32 busy ones, a walk that finds a leaf and one that does not, and an invalidation
with an access through what it removed and with none. -/
theorem witness_walks :
    tget (devW []).walkQ 0 [] = [⟨0, 0, 0, false⟩, ⟨0, 0, 1, false⟩] ∧
    ((tget (devW []).walking 0 []).map fun r => (r.ctx, r.page)).dedup.length < 32 ∧
    32 ≤ ((tget (devW ((List.range 32).map fun i => ⟨0, i + 1, 0, false⟩)).walking 0 []).map fun r => (r.ctx, r.page)).dedup.length ∧
    (tget (devW [⟨0, 0, 5, false⟩]).walking 0 []).filter (fun r => r.ctx == 0 && r.page == 0) = [⟨0, 0, 5, false⟩] ∧
    walk (devW []) 0 0 = .ok ⟨0, 0x200000, .loc, 0, .nrm, .none, false, true, false, false⟩ ∧
    leafCause (devW []) ⟨0, 0x200000, .loc, 0, .nrm, .none, false, true, false, false⟩ .read = none ∧
    walk (devW []) 0 (0x200 * 4096) = .error .absent ∧ (0x200 : Nat) < 2 ^ 36 := by
  decide +kernel

def inval0 : Inval := ⟨0, 0, 4096, 1, [(0, 4096)], ⟨0, 5, 0, false, [], 0, 0⟩⟩
def devI (va : Nat) : State := { devM (withOp (.store 4) false [⟨0, va, va, 0, .nrm, false, [7]⟩]) with invals := [inval0] }

theorem witness_invals :
    (devI 4095).invals[0]? = some inval0 ∧
    (∃ g ∈ (devI 4095).groups, g.ctx = 0 ∧ ∃ o ∈ g.ops, o.sp = false ∧ o.id < 1 ∧ ∃ r ∈ o.lanes, 0 ≤ r.va ∧ r.va < 0 + 4096) ∧
    (∀ g ∈ (devI 4096).groups, g.ctx = 0 → ∀ o ∈ g.ops, o.sp = false → o.id < 1 → ∀ r ∈ o.lanes, ¬ (0 ≤ r.va ∧ r.va < 0 + 4096)) := by
  decide +kernel

/-! The host's commands: a ring at 0x10000 with one command. -/

/-- A device with a command of the given words at the head of its ring. -/
def devK (ws : List DWord) (s : State) : State :=
  { s with
    mode := .run
    ready := 2 ^ 64 - 1
    hostLines := []
    bar := (0x100 / 4, 0x10000) :: (0x108 / 4, 1) :: s.bar
    mem := (ws.zipIdx.foldl (fun t x => spPutD t (0x10000 + 8 * x.2) x.1) { team0 with mem := [] }).mem }
def cmdOf (ws : List DWord) : HostCmd :=
  let w := ws.getD 0 0
  ⟨0x10000, bitsOf w 0 8, bitsOf w 8 6, w.getLsbD 14, (List.range 8).map fun i => ws.getD i 0, bitsOf w 16 7, 0⟩

/-- The command that stands at the head of the ring of `devK` stands there with nothing to wait for. -/
abbrev Stands (ws : List DWord) (s : State) : Prop :=
  cmdPending s = true ∧ headExists s = true ∧ headCmd (engineAcquire s 5) = cmdOf ws ∧ s.cmdEnds = [] ∧ unitReleased s 5 = true ∧
  (∀ m ∈ s.msgs, m.kind = .wb → m.dst ≠ .host) ∧ Memory.wf s.mem = true
theorem stands_of {ws : List DWord} {s : State} (h : Stands ws (devK ws s)) : Claims.HeadStands (devK ws s) (cmdOf ws) :=
  ⟨⟨h.1, h.2.1, h.2.2.1, (by show homeOf 0x10000 ≠ 1; decide), (by show 0x10000 % 64 = 0; decide), fun _ he => nomatch he⟩, ⟨h.2.2.2.1, h.2.2.2.2.1, h.2.2.2.2.2.1⟩,
    h.2.2.2.2.2.2⟩
theorem proper_of {ws : List DWord} {s : State} (h : Stands ws (devK ws s) ∧ badCmd (cmdOf ws) = false ∧
    (ctxOf (devK ws s) (cmdOf ws).ctx).live = true) : Claims.Proper (devK ws s) (cmdOf ws) := ⟨stands_of h.1, h.2.1, h.2.2⟩

/-- HostInterface: each command with no argument set is well-formed; bad ones, one of a context that is not live, one that
names nothing to do, a ring with no command, and one outside memory. -/
theorem witness_commandRing :
    (∀ n : Nat, 1 ≤ n → n < 0x13 → Claims.Proper (devK [BitVec.ofNat 64 n] (devM group0)) (cmdOf [BitVec.ofNat 64 n])) ∧
    (∀ n : Nat, n < 0x13 → badCmd (cmdOf [BitVec.ofNat 64 n, 0, 0, 0, 0, 0, 1]) = true) ∧
    Claims.HeadStands (devK [0x106] (devM group0)) (cmdOf [0x106]) ∧ badCmd (cmdOf [0x106]) = false ∧ (cmdOf [0x106]).code = 6 ∧
    (ctxOf (devK [0x106] (devM group0)) 1).live = false ∧ Claims.HeadStands (devK [0x13] (devM group0)) (cmdOf [0x13]) ∧
    (∃ e ∈ devHost.hostLines, e.2.st = .modified) ∧
    (let e : CmdEnd := ⟨cmdOf [6], 0, 0, 0⟩
     let s := { dev group0 with cmdEnds := [e], msgs := [{ kind := .wb, src := .rdc, dst := .host, addr := 2 ^ 53, who := .rdc, form := 1 }] }
     rdcOut s 9 = true ∧ rdcOut (dev group0) e.mark = false ∧ homeOf e.cmd.loc = 0 ∧ e.cmd.loc % 64 = 0) ∧
    cmdKwr (devK [0x13] (devM group0)) = (cmdKrd (devK [0x13] (devM group0)) + 1) % 2 ^ 32 ∧ bitsOf ((cmdOf [3]).arg 0) 16 7 = 0 ∧
    cmdPending (dev group0) = false ∧ cmdKwr (dev group0) = cmdKrd (dev group0) ∧
    (let s := { devK [6] (devM group0) with bar := [(0x100 / 4, 0), (0x104 / 4, 0x80), (0x108 / 4, 1)] };
      cmdPending s = true ∧ headExists s = false) ∧ hostUp (devK [6] (devM group0)) = true ∧ hostUp { dev group0 with mode := .safe } = false := by
  refine ⟨fun n h1 h2 => proper_of ?_, ?_⟩
  · revert n; decide +kernel
  and_intros <;> first | decide +kernel | exact stands_of (by decide +kernel)

/-- HostInterface: the two ring bases with sound and unsound values, and a log that is off and one that records. -/
theorem witness_hostRegisters :
    bitsOf (0x10000 : DWord) 52 2 = 0 ∧ bitsOf (0x10000 : DWord) 0 12 = 0 ∧ bitsOf (0x20000000001000 : DWord) 52 2 = 2 ∧ bitsOf (0x20000000001000 : DWord) 0 12 = 0 ∧ bitsOf (0x10000000000000 : DWord) 52 2 ∉ [0, 2] ∧
    bitsOf (0xFFF : DWord) 0 12 ≠ 0 ∧ cmdKwr (devK [6] (devM group0)) ≠ cmdKrd (devK [6] (devM group0)) ∧
    logMode (dev group0) 0 = 0 ∧ logMode (logCtx 1 (dev group0)) 0 = 1 := by
  decide +kernel

/-- A device whose context 0 has staged the given words of its block. -/
def devSt (ws : List (Nat × Word)) (gs : List Group) (n : Nat) : State :=
  devK [BitVec.ofNat 64 (3 + 2 ^ (16 + n))] { devM group0 with groups := gs, bar := ws.map fun w => ((0x10000 + w.1) / 4, w.2) }

/-- ContextsAndTranslations: each part alone, accepted with the reset values staged and rejected with a value out of rule;
a context made live twice, and one that is not live. -/
theorem witness_contextSettings :
    (∀ n ∈ [0, 1, 2, 3, 4, 5, 6], Claims.Proper (devSt [] [] n) (cmdOf [BitVec.ofNat 64 (3 + 2 ^ (16 + n))])) ∧
    (∀ n ∈ [0, 1, 2, 3, 4, 5, 6], bitsOf ((cmdOf [BitVec.ofNat 64 (3 + 2 ^ (16 + n))]).arg 0) 16 7 = 2 ^ n) ∧ (∀ n ∈ [0, 1, 2, 3, 4, 5, 6], partOk (devSt [] [] n) 0 n = true) ∧
    (devSt [] [] 0).cmds = [] ∧
    (∀ p ∈ [(0, 0x000), (1, 0x008), (2, 0x024), (3, 0x080), (5, 0x0B4), (6, 0x01C)], partOk (devSt [(p.2, 1)] [] p.1) 0 p.1 = false) ∧
    partOk (devSt [(0x0AC, 17)] [] 4) 0 4 = false ∧ Claims.partRule (devSt [(0x0AC, 16), (0x0A8, 29)] [] 4) 0 4 ∧
    ¬ Claims.partRule (devSt [(0x0AC, 16), (0x0A8, 30)] [] 4) 0 4 ∧
    (∃ g ∈ (devSt [] [group0] 1).groups, g.ctx = 0) ∧ Claims.st (devSt [] [] 2) 0 0x20 = 0 ∧ logZero (devSt [] [] 2) 0 = true ∧
    2 < Claims.st (devSt [(0x20, 3)] [] 2) 0 0x20 ∧ Claims.st (devSt [(0x80, 15)] [] 3) 0 0x80 % 16 ≠ 0 ∧
    (let s := devSt [(0x80, 127), (0x90, 0x200000)] [] 3;
      0 < Claims.st64 s 0 0x90 ∧ 0 < Claims.st s 0 0x80 ∧ Claims.st s 0 0x80 < 128) ∧
    (ctxOf (devK [1] (devM group0)) 0).live = true ∧ (ctxOf (devK [0x101] (devM group0)) 1).live = false ∧
    (let s := { devK [2] (devM group0) with groups := [], cmds := [cmdOf [2]] };
      s.cmds = [cmdOf [2]] ∧ (cmdOf [2]).code = 2 ∧ (ctxOf s 0).flush = none ∧ homeOf (cmdOf [2]).loc ≠ 1 ∧ (cmdOf [2]).loc % 64 = 0 ∧
        (∀ m ∈ s.msgs, m.kind = .wb → m.dst ≠ .host) ∧ (∀ e ∈ s.hostLines, e.2.vals.length = 32) ∧ Memory.wf s.mem = true ∧ Claims.NoWork s 0) ∧
    Claims.HeadStands (devK [0x101] (devM group0)) (cmdOf [0x101]) ∧ badCmd (cmdOf [0x101]) = false := by
  have hp : ∀ n ∈ [0, 1, 2, 3, 4, 5, 6], Stands [BitVec.ofNat 64 (3 + 2 ^ (16 + n))] (devSt [] [] n) ∧
      badCmd (cmdOf [BitVec.ofNat 64 (3 + 2 ^ (16 + n))]) = false ∧
      (ctxOf (devSt [] [] n) (cmdOf [BitVec.ofNat 64 (3 + 2 ^ (16 + n))]).ctx).live = true := by decide +kernel
  refine ⟨fun n h => proper_of (hp n h), ?_⟩
  and_intros <;> first | decide +kernel | exact stands_of (by decide +kernel) | (simp only [Claims.partRule]; decide +kernel)

/-- ContextsAndTranslations: invalidations of one page, of none and of more than the address space, with 15 outstanding and
16; verdicts of both kinds, in a context without tiles or treelets. -/
theorem witness_invalidations :
    Claims.Proper (devK [4, 0, 4096] (devM group0)) (cmdOf [4, 0, 4096]) ∧ Claims.Proper (devK [4, 0, 2 ^ 48 + 4096] (devM group0)) (cmdOf [4, 0, 2 ^ 48 + 4096]) ∧
    { devK [4, 0, 4096] (devM group0) with invals := List.replicate 15 inval0 }.invals.length < 16 ∧
    16 ≤ { devK [4, 0, 4096] (devM group0) with invals := List.replicate 16 inval0 }.invals.length ∧
    Claims.Proper (devK [5, 0x1000, 0] (devM (group18 (.lanes 1) false none))) (cmdOf [5, 0x1000, 0]) ∧
    Claims.Proper (devK [5, 0x1000, 1] (devM (group18 (.lanes 1) false none))) (cmdOf [5, 0x1000, 1]) ∧
    (devK [5, 0x1000, 1] (devM (group18 (.lanes 1) false none))).tiles = [] ∧ ((cmdOf [5, 0x1000, 1]).arg 2).getLsbD 0 = true := by
  and_intros <;> first | decide +kernel | exact proper_of (by decide +kernel)

/-- A device whose context 0 is being pre-empted, drained or not, with a deadline. -/
def devP (g : Group) (drained : Bool) : State :=
  { devM g with ctxs := [(0, { noCtx with live := true, preempt := true, drained := drained, deadline := some 60000, active := [(0x24, 256)] })] }

/-- ContextSwitch: PREEMPT of 1,000,000 microseconds and of one more, a context with nothing left and one with a group, a
deadline that has passed and one that has not, and RESUME. -/
theorem witness_preemption :
    Claims.Proper (devK [6, 1000000] (devM group0)) (cmdOf [6, 1000000]) ∧ Claims.Proper (devK [6, 1000001] (devM group0)) (cmdOf [6, 1000001]) ∧
    ((devM group0).groups.map fun g => (g.core, g.slot)).Nodup ∧ (ctxOf (devP group0 false) 0).preempt = true ∧
    (ctxOf (devP group0 false) 0).drained = false ∧
    (let s := { devP group0 false with groups := [] };
      s.groups = [] ∧ s.teams = [] ∧ s.engines = [] ∧ s.quads = [] ∧ s.reds = [] ∧ (ctxOf s 0).preempt = true) ∧
    (∃ g ∈ (devP group0 false).groups, g.ctx = 0) ∧ (ctxOf (devP group0 false) 0).deadline = some 60000 ∧
    { devP group0 false with refUnits := 59999 }.refUnits < 60000 ∧ 60000 ≤ { devP group0 false with refUnits := 60000 }.refUnits ∧
    Claims.Proper (devK [8] (devP group0 false)) (cmdOf [8]) ∧ Claims.Proper (devK [7, 0] (devP group0 true)) (cmdOf [7, 0]) := by
  and_intros <;> first | decide +kernel | exact proper_of (by decide +kernel)

/-- Group 0 halted by a debugger. -/
def group20 : Group := { group0 with halted := true }

/-- Debugging: HALT of every group, HALT waiting, STEP and RESUME of a halted group, DBGREAD and DBGWRITE of a register of a
halted group and of a group that runs, DBGREAD of a bank on which a job runs, and DBGWRITE of a selector that only reads. -/
theorem witness_debugging :
    Claims.Proper (devK [9, 0x8000] (devM group0)) (cmdOf [9, 0x8000]) ∧ ((cmdOf [9, 0x8000]).arg 1).getLsbD 15 = true ∧
    (ctxOf { devM group0 with ctxs := [(0, { noCtx with live := true, haltWait := true })] } 0).haltWait = true ∧ (devM group0).cmds = [] ∧
    Claims.Proper (devK [0x0A, 0] (devM group20)) (cmdOf [0x0A, 0]) ∧ groupAt (devK [0x0A, 0] (devM group20)) 0 0 = some group20 ∧
    (∀ h ∈ (devK [0x0A, 0] (devM group20)).groups, h.core = 0 → h.slot = 0 → h = group20) ∧ group20.halted = true ∧ group0.halted = false ∧
    Claims.Proper (devK [7, 1, 0x8000] (devM group20)) (cmdOf [7, 1, 0x8000]) ∧ group20 ∈ (devK [7, 1, 0x8000] (devM group20)).groups ∧
    (∀ n ∈ [0x0B, 0x0C], bitsOf ((cmdOf [BitVec.ofNat 64 n, 0, 0x100, 0x20000]).arg 2) 0 8 = 0) ∧
    Claims.Proper (devK [0x0B, 0, 123 * 256, 0x20000] (devM group20)) (cmdOf [0x0B, 0, 123 * 256, 0x20000]) ∧
    Claims.Selects (devK [0x0B, 0, 123 * 256, 0x20000] (devM group20)) (cmdOf [0x0B, 0, 123 * 256, 0x20000]) group20 0 123 ∧
    Claims.Proper (devK [0x0C, 0, 123 * 256, 0x20000] (devTl [] 0)) (cmdOf [0x0C, 0, 123 * 256, 0x20000]) ∧ 123 < group20.regAlloc ∧
    (let s := { devK [0x0B, 0, 9] (devM group20) with quads := [(0, ⟨[(0, noBank)], [job0 .zero [] 0 true []], some 7, none⟩)] };
      bankBusy s (cmdOf [0x0B, 0, 9]) = true ∧ (cmdOf [0x0B, 0, 9]).code = 0x0B) ∧
    (∀ acc ∈ [Acc.read, Acc.write], rangeOk (engineAcquire (devTl [] 0) 5) 0 0x20000 512 acc = true) ∧
    Claims.Proper (devK [0x0C, 0, 12] (devM group20)) (cmdOf [0x0C, 0, 12]) ∧ bitsOf ((cmdOf [0x0C, 0, 12]).arg 2) 0 8 = 12 ∧
    (∀ sel ∈ [0, 1, 2, 3, 5, 6, 7, 8, 9, 10], selOk (devM group20) group20 sel 0 0 = true ∧ (dbgBytes (devM group20) group20 sel 0 0).isSome = true) := by
  and_intros <;> first | decide +kernel | exact proper_of (by decide +kernel) | constructor <;> decide +kernel

/-- A drained context that holds bank 0 of quadrant 0, or another's, with every page that its commands name mapped. -/
def devF (owner : Option Nat) : State :=
  { devP group0 true with
    groups := []
    quads := [(0, ⟨[(0, { noBank with owner := owner })], [], none, none⟩)]
    devTlb := [⟨0, leaf0⟩] }

/-- Where the first 2 MiB are mapped on local memory and no word is lost, every access there passes. -/
theorem mapped0 {s : State} {tlb va n : Nat} {acc : Acc} (h1 : s.isW = false) (h2 : s.homes = [])
    (h3 : ∀ va, va < 0x200000 → tlbFind s 0 tlb va = some leaf0) (h : va < 0x200000) : unitAccess s 0 tlb va n acc = .ok leaf0 := by
  have hc : leafCause s leaf0 acc = none := by
    cases acc <;> simp [leafCause, leaf0, acReaches]
  have hl : ∀ w, lostCause s none w acc 0xF = none := fun w => by
    simp [lostCause, twinGone, isLost, homeSt, h1, h2]
  have hv : ¬ 2 ^ 48 ≤ va := by omega
  have hf : leafLost s leaf0 va n acc = none := by
    unfold leafLost
    split
    · rfl
    · exact List.findSome?_eq_none_iff.mpr fun w _ => hl w
  simp only [unitAccess, xlatNow, hv, if_false, h3 va h, hc, hf]

theorem range0 {s : State} {a n : Nat} {acc : Acc} (h1 : s.isW = false) (h2 : s.homes = [])
    (h3 : ∀ va, va < 0x200000 → tlbFind s 0 noTlb va = some leaf0) (ha : a % 4096 = 0) (hn : n % 4096 = 0) (h : a + n ≤ 0x200000) :
    rangeOk s 0 a n acc = true := by
  unfold rangeOk
  rw [List.all_eq_true]
  intro i hi
  have hi' : i < (a % 4096 + n + 4095) / 4096 := by simpa using hi
  have hlo : (if i = 0 then a else a / 4096 * 4096 + 4096 * i) < 0x200000 := by split <;> omega
  simp only [mapped0 h1 h2 h3 hlo]

/-- A PX960-W whose twin has failed, with a page of the twin's at 0 and, in its RDC, one word stored and one read of it. -/
def devT0 : State :=
  { State.reset with
    isW := true
    homes := []
    devTlb := [⟨0, { leaf0 with home := .twin }⟩]
    rdc := [(2 ^ 52, { clean 9 with st := .drt, mask := 0xF }), (2 ^ 52 + 4, clean 7)] }

/-- Saves: every command, with room for a ray saved and with none, a bank that is held, free or another's, a tile and none,
buffers that can be reached, and words that a salvage takes and leaves. -/
theorem witness_saves :
    (∀ n ∈ [0x0D, 0x0E, 0x0F, 0x10, 0x11, 0x12], Claims.Proper (devK [BitVec.ofNat 64 n, 0, if n ∈ [0x0E, 0x0F, 0x12] then 0x80000 else 0] (devF (some 0)))
      (cmdOf [BitVec.ofNat 64 n, 0, if n ∈ [0x0E, 0x0F, 0x12] then 0x80000 else 0])) ∧
    (∀ acc, rangeOk (engineAcquire (devF none) 5) 0 0x80000 524288 acc = true) ∧
    ((ctxOf (devF none) 0).drained = true ∧ (ctxOf (devP group0 false) 0).drained = false ∧
      (let s := { devF none with rays := List.replicate 3 (ray 0 (.travBin 0)) };
        (ctxDWord s 0 0x090).toNat / 128 < raysUsed s 0) ∧
      (let s := { devF none with rays := [ray 0 (.travBin 0)] };
        raysUsed s 0 ≤ (ctxDWord s 0 0x090).toNat / 128 ∧ (s.rays.map fun r => r.id).Nodup) ∧ (devF none).cmds = [] ∧
      holdsBank (devF (some 0)) 0 0 0 = true ∧ holdsBank (devF none) 0 0 0 = false ∧
      (bankAt (devF (some 1)) 0 0).owner = some 1 ∧ (bankAt (devF none) 0 0).owner = none ∧ (devF none).tiles = [] ∧ (devF none).flushing = [] ∧
      (∃ x ∈ { devF none with tiles := [tile0 false none] }.tiles, x.ctx = 0) ∧ (0x1001 : Nat) % 4096 ≠ 0 ∧ 0x80000 + 0 ≤ Config.localEnd) ∧
    Memory.wf devT0.mem = true ∧ xlatNow devT0 0 noTlb 0 .read = .ok { leaf0 with home := .twin } ∧
    (∀ i ∈ [0, 1], orphaned devT0 (({ leaf0 with home := .twin } : Leaf).at (4 * i)) = decide (i = 0)) ∧
    ((rdcCopy devT0 (2 ^ 52)).map fun x => x.held) = some 0xF := by
  have h : ∀ n ∈ [0x0D, 0x0E, 0x0F, 0x10, 0x11, 0x12], let ws : List DWord := [BitVec.ofNat 64 n, 0, if n ∈ [0x0E, 0x0F, 0x12] then 0x80000 else 0]
      Stands ws (devK ws (devF (some 0))) ∧ badCmd (cmdOf ws) = false ∧ (ctxOf (devK ws (devF (some 0))) (cmdOf ws).ctx).live = true := by
    decide +kernel
  refine ⟨fun n hn => proper_of (h n hn), fun acc => range0 rfl rfl (fun va h => ?_) (by decide) (by decide) (by decide), by decide +kernel, by decide +kernel,
    rfl, by decide +kernel⟩
  simp [tlbFind, noTlb, engTlb, hamTlb, tlbHit, devF, engineAcquire, invalidateRdc, voidFills, tfind, tget, TlbEntry.hits, leaf0, h, devP, devM, dev, State.reset]

/-- Memory that holds the words of a command at 0x10000 and the first `n` words of an image at 0x80000. -/
def imageMem : Nat → List Host.Cell
  | 0 => (devK [0x0F, 0, 0x80000] (devF none)).mem
  | n + 1 => memPutWord (imageMem n) (0x80000 + 4 * n) 0xF (Config.freeWord n)
def image0 : BankImage := ⟨noBank, 0, 0⟩
def devX (m : List Host.Cell) : State := { devK [0x0F, 0, 0x80000] (devF none) with mem := m, images := [image0] }

theorem imageMem_wf (n : Nat) : Memory.wf (imageMem n) = true := by
  induction n with
  | zero => decide +kernel
  | succ n ih => exact memPutWord_wf _ _ _ _ ih

theorem imageMem_below (n w : Nat) (h : w + 4 ≤ 0x80000) : memWord (imageMem n) w = memWord (imageMem 0) w := by
  induction n with
  | zero => rfl
  | succ n ih => exact (memWord_memPutWord_other _ _ _ _ _ (imageMem_wf n) (by omega)).trans ih

theorem imageMem_word (n i : Nat) (h : i < n) : memWord (imageMem n) (0x80000 + 4 * i) = Config.freeWord i := by
  induction n with
  | zero => omega
  | succ n ih =>
    by_cases hi : i = n
    · rw [hi, imageMem, memWord_memPutWord_same _ _ _ (imageMem_wf n)]
    · rw [imageMem, memWord_memPutWord_other _ _ _ _ _ (imageMem_wf n) (by omega), ih (by omega)]

theorem readAsEngine_devX (m : List Host.Cell) (w : Nat) (h : w < 2 ^ 52) : readAsEngine (devX m) w = (memWord m w, false) := by
  have hw : homeOf w = 0 := by simpa [homeOf] using h
  have hs : ownerOf (devX m) w = none := rfl
  simp [readAsEngine, newest, hw, hs]
  rfl

theorem engineAcquire_devX (m : List Host.Cell) : engineAcquire (devX m) 5 = devX m := rfl

theorem headCmd_devX (n : Nat) : headCmd (devX (imageMem n)) = headCmd (devX (imageMem 0)) := by
  have hl : ∀ m, cmdLoc (devX m) (cmdKrd (devX m)) 0 = 0x10000 := fun _ =>
    (by decide +kernel : cmdLoc (devK [0x0F, 0, 0x80000] (devF none)) (cmdKrd (devK [0x0F, 0, 0x80000] (devF none))) 0 = 0x10000)
  have hw : (List.range 8).map (fun i => joinWords (readAsEngine (devX (imageMem n)) (0x10000 + 8 * i)).1
        (readAsEngine (devX (imageMem n)) (0x10000 + 8 * i + 4)).1) =
      (List.range 8).map (fun i => joinWords (readAsEngine (devX (imageMem 0)) (0x10000 + 8 * i)).1
        (readAsEngine (devX (imageMem 0)) (0x10000 + 8 * i + 4)).1) := by
    refine List.map_congr_left fun i hi => ?_
    have hi : i < 8 := by simpa using hi
    rw [readAsEngine_devX _ _ (by omega), readAsEngine_devX _ _ (by omega), readAsEngine_devX _ _ (by omega), readAsEngine_devX _ _ (by omega),
      imageMem_below n _ (by omega), imageMem_below n _ (by omega)]
  simp only [headCmd, hl, hw]

theorem imageHolds_devX (n i : Nat) (hi : i < n) (hn : n ≤ imageWords) :
    engRead (startCmdAt (engineAcquire (devX (imageMem n)) 5) (cmdOf [0x0F, 0, 0x80000])) ⟨0, 0, 64, false, none⟩ (0x80000 + 4 * i) =
      .ok (Config.freeWord i, false) := by
  simp only [imageWords] at hn
  have ha : (0x80000 + 4 * i) / 4 * 4 = 0x80000 + 4 * i := by omega
  have hu := mapped0 (s := startCmdAt (engineAcquire (devX (imageMem n)) 5) (cmdOf [0x0F, 0, 0x80000])) (tlb := noTlb) (va := 0x80000 + 4 * i)
    (n := 4) (acc := .read) rfl rfl (fun va h => by simp [tlbFind, noTlb, engTlb, hamTlb, tlbHit, voidFills, devX, devK, devF, startCmdAt, engineAcquire, invalidateRdc, putBar, tfind, tget, TlbEntry.hits, leaf0, h, devP, devM, dev, State.reset]) (by omega)
  have hl : leaf0.at (0x80000 + 4 * i) = 0x80000 + 4 * i := by simp [Leaf.at, leaf0, locAt, homeCode]
  simp only [engRead, engXlat, ha, hl, hu, Bool.false_eq_true, if_false, show ¬ ((64 : Nat) < 32) by decide]
  have hw := readAsEngine_devX (imageMem n) (0x80000 + 4 * i) (by omega)
  rw [imageMem_word _ _ hi] at hw
  have hs : readAsEngine (startCmdAt (engineAcquire (devX (imageMem n)) 5) (cmdOf [0x0F, 0, 0x80000])) (0x80000 + 4 * i) = (Config.freeWord i, false) := hw
  have hb : hostBiased (startCmdAt (engineAcquire (devX (imageMem n)) 5) (cmdOf [0x0F, 0, 0x80000])) (lineBase (0x80000 + 4 * i)) = false := by
    simp [hostBiased, biasRegion, voidFills, devX, devK, devF, startCmdAt, engineAcquire, invalidateRdc, putBar, devP, devM, dev, State.reset]
  simp only [leafRead, hb, hs, show leaf0.dsc = false from rfl, Bool.false_eq_true, if_false]
  simp [leaf0]

theorem proper_devX (n : Nat) : Claims.Proper (devX (imageMem n)) (cmdOf [0x0F, 0, 0x80000]) := by
  have h1 : cmdPending (devK [0x0F, 0, 0x80000] (devF none)) = true := by decide +kernel
  have h2 : headExists (devK [0x0F, 0, 0x80000] (devF none)) = true := by decide +kernel
  refine ⟨⟨⟨h1, h2, ?_, (by decide : homeOf 0x10000 ≠ 1), rfl, fun _ he => nomatch he⟩, ⟨rfl, rfl, fun _ h => nomatch h⟩, imageMem_wf _⟩,
    by decide +kernel, rfl⟩
  rw [engineAcquire_devX, headCmd_devX]
  decide +kernel

/-- ContextSwitch: a BANKLOAD whose image memory holds unchanged. -/
theorem witness_image :
    ∃ s, Claims.Proper s (cmdOf [0x0F, 0, 0x80000]) ∧ (bankAt s 0 0).owner = none ∧ (ctxOf s 0).drained = true ∧ s.images = [image0] ∧
      imageHolds (startCmdAt (engineAcquire s 5) (cmdOf [0x0F, 0, 0x80000])) 0 0x80000 image0 = true := by
  generalize hn : imageWords = n
  refine ⟨devX (imageMem n), proper_devX n, rfl, rfl, rfl, ?_⟩
  unfold imageHolds
  rw [List.all_eq_true]
  intro i hi
  have hi : i < n := by rw [← hn]; simpa using hi
  rw [imageHolds_devX n i hi (Nat.le_of_eq hn.symm)]
  simp [image0]

/-- BringUpAndTwin: each mode, a PX960-W with and without its twin, and a word that the twin owns. -/
theorem witness_bringUp :
    State.reset.mode = .boot ∧ State.reset.mode ≠ .safe ∧ { State.reset with mode := .safe }.mode = .safe ∧
    { State.reset with mode := .linkWait }.mode = .linkWait ∧ State.reset.isW = false ∧
    (let s := { State.reset with isW := true, twinUp := true, homes := [(0x80, .own true 3)] };
      s.isW = true ∧ s.twinUp = true ∧ (∀ m ∈ s.msgs, farAgent m.src = false ∧ farAgent m.dst = false) ∧ s.pairReds = [] ∧ s.syncOps = [] ∧ (∀ g ∈ s.groups, g.ops = []) ∧
      homeOf 0x80 = 0 ∧ homeSt s 0x80 = some (.own true 3)) ∧
    (600 % 25 = 0 ∧ 200 ≤ 600 ∧ 601 % 25 ≠ 0) := by
  decide +kernel

/-! The whole machine -/

/-- A device whose schedule has one turn. -/
def devU (t : Turn) (g : Group) : State := { devM g with sched := [t] }

/-- StepRunsTheDecodedInstruction: a group that may issue a word that decodes, and words that do not; a group that is held,
each other turn, walks that find a leaf and that do not, and a device where an instruction may be placed. -/
theorem witness_step :
    Claims.Turns (devU (.issue 0 0) group0) (.issue 0 0) [] ∧ Claims.MayIssue (devU (.issue 0 0) group0) 0 0 group0 clause0 ∧
    decodeWords (clause0.words.drop clause0.idx) = .ok (.nop, []) ∧ Instr.nop.wf = true ∧
    decodeWords [0x44000000] = .error .reservedOpcode ∧ decodeWords [0x04000000] = .error .missingExtension ∧
    decodeWords [0x86C00000, 0xFC000000] = .error .strayExtension ∧
    (devM group0).sched = [] ∧ (devM group0).cur = some (0, 0) ∧
    groupAt (devU (.issue 0 0) group20) 0 0 = some group20 ∧ group20.batch = none ∧ issueHeld (devU (.issue 0 0) group20) group20 = true ∧
    Claims.Turns (devU (.event .launchWindow) group0) (.event .launchWindow) [] ∧ Claims.Turns (devU (.tick 16) group0) (.tick 16) [] ∧
    (∀ x ∈ (devU (.event .launchWindow) group0).events, x.2.length ≤ 32) ∧ (Instr.launchWindow).isEvent = true ∧
    unitHeld { devM group0 with events := [(0, List.replicate 33 ⟨0x08, 8, 0, 0, 33, 0, 0, 0, 1, 0⟩)] } (.copy 5) = true ∧
    State.reset.sched = [] ∧ issuer State.reset = none ∧ Claims.Turns (devU (.memError 7) group0) (.memError 7) [] ∧
    Claims.Turns { devW [] with sched := [.walkAhead 31 0 0] } (.walkAhead 31 0 0) [] ∧
    tlbFind (devW []) 0 (128 + 31) (0x200 * 4096) = none ∧ walkRoom (devW []) 0 (128 + 31) 0x200 = true ∧
    Claims.Turns { devW [] with sched := [.twin (.release 5)] } (.twin (.release 5)) [] ∧ (devW []).isW = false ∧
    (∀ o ∈ State.reset.syncOps, ¬ (o.core = 0 ∧ o.slot = 0)) ∧ (tget State.reset.events 0 []).length ≤ 32 ∧
    decodeWords [BitVec.ofNat 32 0x86C00000, BitVec.ofNat 32 (0x86C00000 / 2 ^ 32)] = .ok (.nop, [0]) := by
  and_intros <;> first | rfl | decide +kernel | constructor <;> decide +kernel

/-- DecodeEncode: an instruction of one word and one of two are no events and well-formed. -/
theorem witness_decodeEncode :
    (Instr.faddF32 ⟨false, 6, 0x7C, 7⟩ none).isEvent = false ∧ (Instr.faddF32 ⟨false, 6, 0x7C, 7⟩ none).wf = true ∧
    (Instr.ffmaF32 ⟨false, 8, 0x7D, 2⟩ ⟨false, 2, 0x7C⟩).isEvent = false ∧ (Instr.ffmaF32 ⟨false, 8, 0x7D, 2⟩ ⟨false, 2, 0x7C⟩).wf = true := by
  decide +kernel

/-- A device that lists no scratchpad and no copy keeps the invariants when its memory is canonical. -/
theorem invariants_of {s : State} (hm : Memory.wf s.mem = true) (ht : s.teams = []) (h1 : s.l1 = []) (hr : s.rdc = []) (hw : s.twinUp = false ∧ s.twinFailed = false) :
    MemoryOk s ∧ CachesOk s ∧ NoTwinOnM s :=
  ⟨⟨hm, by simp [ht]⟩, ⟨fun core => by simp [h1, tget], by simp [hr]⟩, fun _ => hw⟩

/-- MemoryStaysCanonical, CachesAndProductStay: a device that lists memory meets the invariants, and so does one that steps. -/
theorem witness_invariants :
    (MemoryOk (devW []) ∧ CachesOk (devW []) ∧ NoTwinOnM (devW [])) ∧ (∃ t, step (devU (.tick 1) group0) = .next t) ∧
    MemoryOk (devU (.tick 1) group0) ∧ CachesOk (devU (.tick 1) group0) ∧ NoTwinOnM (devU (.tick 1) group0) :=
  ⟨invariants_of (by decide +kernel) rfl rfl rfl ⟨rfl, rfl⟩, ⟨_, rfl⟩, invariants_of (by decide +kernel) rfl rfl rfl ⟨rfl, rfl⟩⟩

/-! Clauses that several statements share -/

/-- MemoryFaultsAndTests: lane 0 misaligned beside lanes that reach their words; each other cause of a lane. -/
theorem witness_laneFaults :
    let s := devM group8
    let act := activeMask group8 clause0 none
    let rest := act &&& ~~~(1 : Mask)
    (1 : Mask) &&& ~~~act = 0 ∧ rest ≠ 0 ∧
    (∀ l, On 1 l → Claims.Fails s group8 .write 4 (Claims.address group8 31 (readV group8 2 l).toNat) 5) ∧
    (∀ l, On rest l → Claims.Reaches s group8 .write 4 (Claims.address group8 31 (readV group8 2 l).toNat) leaf0) ∧
    Claims.Lowest 1 (fun _ => 5) 5 ∧ Claims.Fails s group8 .read 4 (2 ^ 48) 0x21 ∧
    Claims.Fails { s with coreTlb := [(0, [⟨0, { leaf0 with ac := .none }⟩])] } group8 .atom 4 0 0x23 ∧
    Claims.Fails { s with homes := [(0, .lost)] } group8 .read 4 0 0x30 ∧
    Claims.Fails { s with isW := true, coreTlb := [(0, [⟨0, { leaf0 with home := .twin }⟩])] } group8 .read 4 0 0x31 := by
  have hl : ∀ l, On (activeMask group8 clause0 none &&& ~~~(1 : Mask)) l → Claims.address group8 31 (readV group8 2 l).toNat = 0 :=
    lanes_on (by decide +kernel)
  refine ⟨by decide +kernel, by decide +kernel, lanes_on fun l _ h => .inl ⟨?_, rfl⟩, fun l h => ?_,
    ⟨⟨0, by unfold On; decide +kernel, rfl⟩, fun _ _ => Nat.le_refl 5⟩, .inr (.inl (by decide +kernel)), .inr (.inl (by decide +kernel)),
    .inr (.inr ⟨by decide, .inl rfl, leaf0, by decide +kernel⟩), .inr (.inr ⟨by decide, .inr rfl, { leaf0 with home := .twin }, by decide +kernel⟩)⟩
  · revert l; decide +kernel
  · rw [hl l h]
    exact ⟨by decide, by decide +kernel, .inr (by decide +kernel), fun h => nomatch h⟩

/-- Barriers: a drain with nothing before it, on each memory, and one with a store of the core before it. -/
theorem witness_drains144 :
    let g := withOp (.drain .host 4 0) false []
    let st := { group0 with cnt := [(0, 2)], ops := [⟨0, .store 4, 0, 4, false, [⟨127, 0x51, 2 ^ 53, 0, .wcb, false, [1]⟩], 0x104, .a, 1, 0⟩] }
    (∀ m ∈ [DrainMem.sp, .loc, .twin, .host], Claims.WritesPerformed (dev g) 0 m 4 0) ∧
    (∃ p ∈ st.ops, p.id < 4 ∧ p.kind = .store 4 ∧ p.sp = false ∧ ∃ r ∈ p.lanes, homeOf r.loc = 2 ∧ r.mt ≠ .nrm) ∧
    drainHome .host = some 2 ∧ drainHome .sp = none ∧ (dev g).isW = false := by
  refine ⟨fun m _ => ⟨?_, fun _ _ x hx => (nomatch hx), fun _ _ o ho => (nomatch ho), fun e he => (nomatch he), fun q hq => (nomatch hq)⟩, by decide +kernel⟩
  intro k hk _ p hp _ hw
  simp only [dev, List.mem_singleton] at hk
  subst hk
  simp only [withOp, List.mem_singleton] at hp
  subst hp
  exact absurd hw (by decide)

/-- OwnerSide and HostAccesses: an L1 without a place, a core that waits for a value, and a snoop that the host is busy with. -/
theorem witness_rooms :
    l1Reserve { dev group0 with teams := [{ team0 with size := 786432 }] } 0 [0x80] = none ∧
    (let m : Msg := { kind := .data, src := .slice 1, dst := .core 0, addr := 0x80, who := .core 0, form := 1, vals := [val0 0x80], serial := 4 }
     ownerWaits { devMsg m with l1 := [] } 0x80 = true ∧ ownerWaits (devMsg (msg0 .fwd (.slice 1) (.core 0) [0x80] [])) 0x80 = false) ∧
    isLost { dev group0 with homes := [(0x80, .lost)] } 0x80 = true := by
  decide +kernel

/-- EngineCommandsIssue: a push that finds the room taken by a higher core in its clock, and by its own. -/
theorem witness_pushedPast :
    let full := fun core => { devT group10 with engines := [(0, List.replicate 16 { cmd0 [2 ^ 56] false none with core := core })] }
    engineRoom (full 1) 0 (Claims.scalars group10 8 8) = false ∧ pushedPast (full 1) group10 0 = true ∧
    engineRoom (full 0) 0 (Claims.scalars group10 8 8) = false ∧ pushedPast (full 0) group10 0 = false := by
  decide +kernel

/-- MatrixInstructions: format words that differ in lane 127 alone and one that is reserved, a quadrant of eight loops, a bank of
another context, a scale slot that is full, and a loop at work. -/
theorem witness_matrixRefusals :
    let g := { group10 with v := [(1, (List.replicate 128 0x42).set 127 0x43)] }
    (lowestLane (activeMask g clause0 none) = some 0 ∧ (∀ l, l < 128 →
      (2 ^ 127 : Mask).getLsbD l = ((activeMask g clause0 none).getLsbD l && readV g 1 l != readV g 1 0))) ∧ fmtOk 0x1F = false ∧
    8 ≤ loopsOf (devQ bank0 (List.replicate 8 (job0 .loop desc0 0x842 false []))) 0 ∧
    (ringSlot { slots := [(0, ⟨[], true⟩)], wptr := 0, rptr := 0 } 0).full = true ∧
    (bankAt (devQ { bank0 with owner := some 1 } []) 0 0).owner ≠ some 0 ∧
    (activeMask (group12 .gen) clause0 none &&& rayLanes { group12 .gen with rays := [] } = 0 ∧
      activeMask (group12 .gen) clause0 none &&& rayLanes (group12 .gen) ≠ 0) ∧
    (quadAt (devJ [job0 .loop desc0 0x842 true []] (some 7)) 0).running = some 7 ∧
    (quadAt (devJ [job0 .loop desc0 0x842 true []] (some 7)) 0).jobs.find? (fun x => x.id == 7) = some (job0 .loop desc0 0x842 true []) := by
  decide +kernel

/-- Moves that follow one another from a state, each of them made. -/
def movesOk (f : State → Nat → Except (Nat × Nat) (State × Bool)) : Nat → Nat → State → Bool
  | 0, _, _ => true
  | n + 1, i, s => match f s i with
    | .ok (t, _) => movesOk f n (i + 1) t
    | .error _ => false

theorem moves_of (f : State → Nat → Except (Nat × Nat) (State × Bool)) :
    ∀ (n i : Nat) (s : State), movesOk f n i s = true →
      ∃ (σ : Nat → State) (p : Nat → Bool), σ 0 = s ∧ Claims.Moves n i σ p fun s t j q => f s j = .ok (t, q)
  | 0, i, s, _ => ⟨fun _ => s, fun _ => false, rfl, fun j hj => absurd hj (Nat.not_lt_zero j)⟩
  | n + 1, i, s, h => by
    unfold movesOk at h
    split at h
    case h_1 t q hf =>
      obtain ⟨σ, p, h0, hm⟩ := moves_of f n (i + 1) t h
      refine ⟨fun j => if j = 0 then s else σ (j - 1), fun j => if j = 0 then q else p (j - 1), rfl, fun j hj => ?_⟩
      rcases j with _ | j
      · simpa [h0] using hf
      · have := hm j (by omega)
        simpa [Nat.add_assoc, Nat.add_comm 1 j] using this
    case h_2 => exact absurd h (by simp)

/-- EngineCommandsComplete: a TCOPY of a tensor of 12 bytes onto itself, in scratchpad, before and after it has read its records. -/
theorem witness_tensorCopy :
    let c := cmd0 [2 * 2 ^ 56, 2 ^ 63, 2 ^ 63] true none
    let s := { devE c with teams := [team1] }
    let a : Tensor := ⟨record 2 3⟩
    Claims.Runs (devE c) 0 2 c ∧ runnable s 0 2 = some c ∧ readTensor (startCmd s 0 c) 0 1 0 (c.w 1) = .ok (a, false) ∧
    (a.ok (teamSize s 1) false && a.ok (teamSize s 1) false && sameShape a a) = true ∧ Claims.PlainPages s c a a ∧
    (∃ σ p, σ 0 = Claims.withRecords s 0 c a a ∧ Claims.Moves (a.rowBytes * (a.dim 1 * a.dim 2 * a.dim 3)) 0 σ p
      fun s t i q => tensorByte c a a s i = .ok (t, q)) := by
  refine ⟨runs0 _ _ (by decide +kernel), by decide +kernel, readTensor_of (by decide +kernel), by decide +kernel, fun j _ => ?_,
    moves_of _ _ _ _ (by decide +kernel)⟩
  have h : (Tensor.mem ⟨record 2 3⟩ (cmd0 [2 * 2 ^ 56, 2 ^ 63, 2 ^ 63] true none)).sp = true := by decide +kernel
  constructor <;> (unfold ioPage; rw [h]; rfl)

/-- EnginesMove: a word on a DEV page that a core owns, and one that none does. -/
theorem witness_engineDev :
    let s := { devE (cmd0 copyWords true none) with aheadTlb := [(0, [⟨0, { leaf0 with mt := .dev }⟩])] }
    engXlat s (engMem 0 1 0 0) 0 4 .write = .ok { leaf0 with mt := .dev } ∧ ownerOf s 0 = none ∧
    (ownerOf { s with homes := [(0, .own false 3)] } 0).isSome = true ∧ hostBiased s 0 = false ∧ (3 : BitVec 4) ≠ 0xF := by
  decide +kernel

/-- MatrixSteps and DrainsAndDenoises: what a step that runs leaves, and a denoise that nothing holds. -/
theorem witness_matrixEnds :
    let j := job0 .loop desc0 0x842 true []
    let s := { devT group11 with teams := [team1], quads := [(0, ⟨[(0, bank0)], [j], some 7, some ⟨[], [], true⟩⟩)] }
    (quadAt s 0).running = some j.id ∧ (quadAt s 0).out = some ⟨[], [], true⟩ ∧ (quadAt s 0).jobs.find? (fun p => p.id == j.id) = some j ∧
    j.ended = none ∧
    (let n := job0 .denoise [0, 2 ^ 63 + 0x80, 0] 0 false []
     (quadAt (devJ [n] none) 0).jobs.find? (fun j => j.kind == .denoise && !j.started && j.ended.isNone && j.wait.isNone &&
       firstOnBank (quadAt (devJ [n] none) 0) j && !jobHalted (devJ [n] none) j && !denoiseBusy (devJ [n] none) j) = some n) := by
  decide +kernel

/-- A node with two children that meet the ray at the same distance. -/
def twinNode : List Host.Cell := [(19, 1), (20, 1), (21, 1), (25, 1), (26, 1), (27, 1), (67, 0x20), (68, 1), (71, 0x20)]
/-- A ray grid whose hit-group entry names its any-hit entry. -/
def gridA : Grid := { grid0 with ents := [(3 * 2 ^ 48 + 0x3000, 124), (2 ^ 48 + 0x4000, 124)] }
def rayA : Ray :=
  { rayT 2 [⟨.tris 0 0 1, none, none⟩] none with words := [0, 0, 0, 0, 0x3F800000, 0, 0, 0x7F7FFFFF, 0xFF000002, 0x10000, 0, 0] }

/-- TreeletsAndTraversal: children at equal distance, and a candidate that is not opaque, with an any-hit entry and without. -/
theorem witness_anyHit :
    (∀ a, a < 3 → finiteW (tlWord twinNode (0 + 4 * a)) = true) ∧
    (Claims.childItem twinNode 0 0 (rayT 0 [] none) none 0).isSome = true ∧
    (Claims.childItem twinNode 0 0 (rayT 0 [] none) none 0).map (fun x => x.dist) =
      (Claims.childItem twinNode 0 0 (rayT 0 [] none) none 1).map (fun x => x.dist) ∧
    (let s := { devV rayA triData with grids := [gridA] }
     rayAt s rayA.id = some rayA ∧ rayA.place = .traversal 0 ∧ gridOf s rayA.ctx rayA.grid = some gridA ∧
     (triRecord triData (16 * 0) (withStack rayA []) none).any (fun h => beats rayA h && h.hbase == 0) = true ∧
     opaqueCand triData (16 * 0) rayA none = false ∧ gridA.ents[0 + (rayA.word 9).toNat / 2 ^ 16]? = some (2 ^ 48 + 0x4000, 124) ∧
     entryOf s rayA (0 + (rayA.word 9).toNat / 2 ^ 16) = some (2 ^ 48 + 0x4000, 124) ∧ bitsOf (2 ^ 48 + 0x4000 : DWord) 48 2 = 1 ∧
     entAhe (2 ^ 48 + 0x4000, 124) = 0 ∧ entAhe (2 ^ 48 + 0x4000, 0xFFFF0000007C) = 0xFFFF ∧
     gridA.ents[0]? = some (3 * 2 ^ 48 + 0x3000, 124) ∧ bitsOf (3 * 2 ^ 48 + 0x3000 : DWord) 48 2 = 3) := by
  decide +kernel

/-- CreationAndSpilling: a record that comes back degenerate, and one that does not; TreeletsAndTraversal: a fetch whose lines
the host does not hold; EpisodesAndWaves: a context without a log. -/
theorem witness_unspills :
    let back := fun m => { ray 1 (.travBin 0) with words := (List.range 12).map fun i => (readAsEngine (devS m) (0x10000 + 128 + 4 * i)).1 }
    degenerate (back []) = true ∧ degenerate (back [(0x10000 + 128 + 18, 0x80), (0x10000 + 128 + 19, 0x3F)]) = false ∧
    snoopLines (devTl [treelet0 false []] 0) (treeletReads (devTl [treelet0 false []] 0) (treelet0 false [])) = [] ∧
    (∀ c ∈ (devB true false 0).ctxs, logMode (devB true false 0) c.1 ≠ 2 ∧ c.2.stalls = []) := by
  decide +kernel

/-- Launches, Rings and FaultBatchesAndWalks: nothing that stalls a head; a coalescer whose release has nothing to do and one
whose release waits; a walk through lines that the host holds and that it does not; and a reduction through a range removed. -/
theorem witness_releasesFirst :
    Claims.Unstalled (devQ1 false) ∧ unitReleased (devEv 63) 5 = true ∧
    unitReleased (unitRelease { devEv 63 with hostLines := [(2 ^ 53 + 128, ⟨.modified, List.replicate 32 (5, false)⟩)] } 0 5) 5 = false ∧
    haltedAt (devEv 63) 0 0 = false ∧
    snoopLines { devW [] with bias := [⟨0, 65536, true, 0⟩] } (walkReads { devW [] with bias := [⟨0, 65536, true, 0⟩] } 0 0) ≠ [] ∧
    snoopLines (devW []) (walkReads (devW []) 0 0) = [] ∧
    (∃ n ∈ [(⟨0, 0, 0x40, 0x40, .nrm, .addF32, 0, 0, 0, 0, some 5, 0, true, 0⟩ : RedNode)], n.ctx = inval0.ctx ∧ n.born < inval0.before ∧
      ∃ x ∈ inval0.ranges, x.1 ≤ n.va ∧ n.va < x.1 + x.2) := by
  unfold Claims.Unstalled
  decide +kernel

/-- ContextsAndTranslations and ContextSwitch: a command that waits for a page, and a deadline with work left and with none. -/
theorem witness_waiting :
    (let c := { cmd0 copyWords true none with wait := some 1 }
     (devE c).pairReds = [] ∧ (((devE c).engines.flatMap Prod.snd).map fun x => x.id).Nodup ∧ ((devE c).engines.map Prod.fst).Nodup ∧ c.ctx = 0 ∧
     c.wait = some (bitsOf ((cmdOf [5, 0x1000, 0]).arg 1) 12 36)) ∧
    workLeft { devP group0 false with groups := [] } 0 = false ∧ (ctxOf { devP group0 false with groups := [] } 0).deadline = some 60000 ∧
    (∃ g ∈ (devP group0 false).groups, g.ctx = 0) := by
  decide +kernel

/-- Group 0 waiting for a verdict with a halt asked of it, and one whose verdict has come. -/
def group21 : Group := { group18 (.lanes 1) false none with haltAsked := true }
def devH (g : Group) : State := { devM g with ctxs := [(0, { noCtx with live := true, haltWait := true })] }

/-- Debugging: a halt that a word puts off and one that it no longer does; a group that steps at the last word of a clause and at
the one before; and a STEP that goes on and that has ended. -/
theorem witness_halts :
    group21.wordWaits = true ∧ (∀ b, group21.batch = some b → b.ahead = false) ∧ groupAt (devH group21) 0 0 = some group21 ∧
    (∀ h ∈ (devH group21).groups, h.ctx = 0 → h.haltAsked = true → h = group21) ∧ (ctxOf (devH group21) 0).haltWait = true ∧
    { group0 with haltAsked := true }.batch = none ∧
    (let g := { group0 with stepping := true }
     let two : Clause := { clause0 with words := [0x86C00000, 0x86C00000] }
     At (dev g) g clause0 ∧ nextIdx clause0 = clause0.words.length ∧ At (dev { g with clause := some two }) { g with clause := some two } two ∧
     nextIdx two < two.words.length ∧
     (let s := { devM g with cmds := [cmdOf [0x0A, 0]] }
      s.cmds = [cmdOf [0x0A, 0]] ∧ (cmdOf [0x0A, 0]).code = 0x0A ∧ groupAt s 0 0 = some g ∧ (∀ h ∈ s.groups, h.ctx = 0 → h.haltAsked = false) ∧
      (ctxOf s 0).haltWait = false ∧ g.stopped = none ∧ group0.stepping = false)) := by
  unfold At
  decide +kernel

/-- Saves: a drained context with a tile to flush, and tiles to clear of which one is half merged; BringUpAndTwin: the firmware
verified and not, with every function ready, and the sideband. -/
theorem witness_tilesAndBoot :
    (let s := { devF none with tiles := [tile0 false none, { tile0 true none with tile := 1, pos := 1 }] }
     Claims.Proper (devK [0x10] s) (cmdOf [0x10]) ∧ Claims.Proper (devK [0x11] s) (cmdOf [0x11]) ∧ (ctxOf (devK [0x10] s) 0).drained = true ∧
     (∃ x ∈ s.tiles, x.ctx = 0 ∧ x.retiring = true ∧ 0 < x.pos) ∧ (∀ f ∈ s.flushing, f.1 ≠ 0)) ∧
    (let s := { State.reset with verified := true, ready := 2 ^ 35 - 1 }
     s.mode = .boot ∧ (List.range 35).all (fun i => s.ready.getLsbD i) = true) ∧ State.reset.verified = false ∧ State.reset.sideband = true := by
  and_intros <;> first | decide +kernel | exact proper_of (by decide +kernel)

end Sys2Proof.Tests
end

section
/-!
The invariants that every step keeps: `Keeps s₀ s` says that what is so of `s₀` (canonical memories, ordered caches, the
product and its twin) is so of `s`. There is one lemma for each function of the model that answers a state, named after it and
following its branches. `h.after_f` takes a state that keeps `s₀` to what `f` makes of it; `h.safe_f` speaks of an outcome of
`f`; `h.of_f e` of the state that `f` answers by the equation `e`; `split_f`, `head_f`, `go_f` and `fetch_f` of the answers of
the split stack, a placement window, the log and a fetch. The functions that change what the invariants speak of are few; the
others change fields outside it (`Keeps.frame`) or call them.
-/

namespace Sys2Proof.Machine

open Sys2Proof.Safety

/-! ## What a change of the state keeps -/

/-- From `s₀` to `s` the canonical form of memories, the order of the caches and the product have been kept. -/
structure Keeps (s₀ s : State) : Prop where
  memory : MemoryOk s₀ → MemoryOk s
  caches : CachesOk s₀ → CachesOk s
  isW : s.isW = s₀.isW
  devId : s.devId = s₀.devId
  noTwin : NoTwinOnM s₀ → NoTwinOnM s

/-- An outcome keeps the invariants: its next state does, if it has one. -/
inductive Safe (s₀ : State) : Res → Prop
  | next {s : State} (h : Keeps s₀ s) : Safe s₀ (.next s)
  | fault {r : Fault} : Safe s₀ (.fault r)
  | refused {r : Refusal} : Safe s₀ (.refused r)

/-- A move of the split stack keeps the invariants, whether it is made or faults. -/
inductive SafeSplit (s₀ : State) : Except State (State × Group) → Prop
  | ok {s : State} {g : Group} (h : Keeps s₀ s) : SafeSplit s₀ (.ok (s, g))
  | error {s : State} (h : Keeps s₀ s) : SafeSplit s₀ (.error s)

/-- What a placement window does with a head keeps the invariants. -/
inductive SafeHead (s₀ : State) : HeadAct → Prop
  | done {s : State} (h : Keeps s₀ s) : SafeHead s₀ (.done s)
  | pass {s : State} (h : Keeps s₀ s) : SafeHead s₀ (.pass s)

/-- What a fetch answers keeps the invariants: the state that asks for the word does. -/
inductive SafeFetch (s₀ : State) : Fetch → Prop
  | wait {s : State} (h : Keeps s₀ s) : SafeFetch s₀ (.wait s)
  | word {w : Word} : SafeFetch s₀ (.word w)
  | fault {k : Nat} : SafeFetch s₀ (.fault k)

/-- What the log lets an operation do keeps the invariants: the state that goes on does. -/
inductive SafeGo (s₀ : State) : LogGo → Prop
  | go {s : State} (h : Keeps s₀ s) : SafeGo s₀ (.go s)
  | stall {c : Nat} : SafeGo s₀ (.stall c)
  | diverge : SafeGo s₀ .diverge

section
variable {s₀ s t : State}

theorem Keeps.refl (s : State) : Keeps s s := ⟨id, id, rfl, rfl, id⟩

/-- A change of memories and teams alone. -/
theorem Keeps.of_memory (h : Keeps s₀ s) (hm : MemoryOk s → MemoryOk t) (l1 : t.l1 = s.l1 := by rfl)
    (rdc : t.rdc = s.rdc := by rfl) (isW : t.isW = s.isW := by rfl) (devId : t.devId = s.devId := by rfl)
    (twinUp : t.twinUp = s.twinUp := by rfl) (twinFailed : t.twinFailed = s.twinFailed := by rfl) : Keeps s₀ t where
  memory h0 := hm (h.memory h0)
  caches h0 := by unfold CachesOk; rw [l1, rdc]; exact h.caches h0
  isW := isW.trans h.isW
  devId := devId.trans h.devId
  noTwin h0 := by unfold NoTwinOnM; rw [isW, twinUp, twinFailed]; exact h.noTwin h0

/-- A change of the caches alone. -/
theorem Keeps.of_caches (h : Keeps s₀ s) (hc : CachesOk s → CachesOk t) (mem : t.mem = s.mem := by rfl)
    (teams : t.teams = s.teams := by rfl) (isW : t.isW = s.isW := by rfl) (devId : t.devId = s.devId := by rfl)
    (twinUp : t.twinUp = s.twinUp := by rfl) (twinFailed : t.twinFailed = s.twinFailed := by rfl) : Keeps s₀ t where
  memory h0 := by unfold MemoryOk; rw [mem, teams]; exact h.memory h0
  caches h0 := hc (h.caches h0)
  isW := isW.trans h.isW
  devId := devId.trans h.devId
  noTwin h0 := by unfold NoTwinOnM; rw [isW, twinUp, twinFailed]; exact h.noTwin h0

/-- A change of fields that the invariants do not speak of. -/
theorem Keeps.frame (h : Keeps s₀ s)
    {mode : DevMode} {ready failRec : DWord} {sideband verified : Bool} {report : Option Nat}
    {mhz clock refUnits msgSeq nextTeam window nextId draws : Nat} {bar : Tbl Word}
    {irqs l2Evict biasWait biasHeld : List Nat} {memPoison : Tbl Bool} {homes : Tbl HomeSt} {l2 : List (List Nat)}
    {l2Wait msgs : List Msg} {stamps : Tbl Stamp} {holding : Tbl (List Held)} {hostLines : Tbl HostLine}
    {coreTlb hamletTlb aheadTlb : Tbl (List TlbEntry)} {devTlb : List TlbEntry} {walkQ walking : Tbl (List WalkReq)}
    {walkFails : List WalkFail} {invals : List Inval} {bias : List BiasRegion} {storers : Tbl (Tbl Nat)}
    {placers : Tbl (Nat × Nat)} {twinAtoms : List TwinAtom} {twinOps : List TwinOp}
    {hostRead : Option (Nat × Word × Bool)} {cmds : List HostCmd} {events : Tbl (List EventRec)} {ctxs : Tbl Ctx}
    {groups ahead : List Group} {cur : Option (Nat × Nat)} {syncTab : List SyncEntry} {syncOps : List SyncOp}
    {frontier served : Tbl Nat} {reds : List RedNode} {rays : List Ray} {bins : List Bin} {treelets : List Treelet}
    {tiles : List Tile} {tileAdds : List TileAdd} {flushing : List (Nat × HostCmd)} {cmdEnds : List CmdEnd}
    {engines : Tbl (List EngCmd)} {pairReds : List PairRed} {quads : Tbl Quad} {images : List BankImage}
    {grids : List Grid} {runs : List AtomRun} {logWait : List LogWait} {sched : List Turn} :
    Keeps s₀ { s with
      mode, ready, failRec, sideband, verified, report, mhz, clock, refUnits, bar, irqs, memPoison, homes, l2, l2Wait,
      l2Evict, stamps, holding, hostLines, msgs, msgSeq, coreTlb, hamletTlb, devTlb, aheadTlb, walkQ, walking,
      walkFails, invals, bias, biasWait, biasHeld, storers, placers, twinAtoms, twinOps, hostRead, cmds, events, ctxs,
      groups, ahead, nextTeam, cur, syncTab, syncOps, frontier, reds, rays, bins, treelets, tiles, tileAdds, flushing,
      cmdEnds, engines, pairReds, quads, images, grids, served, window, runs, logWait, nextId, draws, sched } :=
  h.of_memory id

/-- A change of the twin's answers on a PX960-W. -/
theorem Keeps.of_twin (h : Keeps s₀ s) (hw : s.isW = true) (mem : t.mem = s.mem := by rfl)
    (teams : t.teams = s.teams := by rfl) (l1 : t.l1 = s.l1 := by rfl) (rdc : t.rdc = s.rdc := by rfl)
    (isW : t.isW = s.isW := by rfl) (devId : t.devId = s.devId := by rfl) : Keeps s₀ t where
  memory h0 := by unfold MemoryOk; rw [mem, teams]; exact h.memory h0
  caches h0 := by unfold CachesOk; rw [l1, rdc]; exact h.caches h0
  isW := isW.trans h.isW
  devId := devId.trans h.devId
  noTwin _ hm := absurd (isW.trans hw) (by simp [hm])

theorem SafeSplit.of_ok {r : Except State (State × Group)} {g : Group} (h : SafeSplit s₀ r) (e : r = .ok (s, g)) :
    Keeps s₀ s := by
  subst e
  cases h
  assumption

theorem SafeSplit.of_error {r : Except State (State × Group)} (h : SafeSplit s₀ r) (e : r = .error s) : Keeps s₀ s := by
  subst e
  cases h
  assumption

theorem SafeHead.of_done {r : HeadAct} (h : SafeHead s₀ r) (e : r = .done s) : Keeps s₀ s := by
  subst e
  cases h
  assumption

theorem SafeHead.of_pass {r : HeadAct} (h : SafeHead s₀ r) (e : r = .pass s) : Keeps s₀ s := by
  subst e
  cases h
  assumption

theorem SafeFetch.of_wait {r : Fetch} (h : SafeFetch s₀ r) (e : r = .wait s) : Keeps s₀ s := by
  subst e
  cases h
  assumption

theorem SafeGo.of_go {r : LogGo} (h : SafeGo s₀ r) (e : r = .go s) : Keeps s₀ s := by
  subst e
  cases h
  assumption

/-! ## Control -/

theorem Keeps.ite {c : Prop} {d : Decidable c} (hs : Keeps s₀ s) (ht : Keeps s₀ t) : Keeps s₀ (if c then s else t) := by
  split
  · exact hs
  · exact ht

theorem Safe.ite {c : Prop} {d : Decidable c} {r q : Res} (hr : Safe s₀ r) (hq : Safe s₀ q) : Safe s₀ (if c then r else q) := by
  split
  · exact hr
  · exact hq

/-- A fold keeps the invariants if each of its steps does. -/
theorem Keeps.foldl {α : Type} {f : State → α → State} {l : List α} (h : Keeps s₀ s)
    (hf : ∀ s a, Keeps s₀ s → Keeps s₀ (f s a)) : Keeps s₀ (l.foldl f s) := by
  induction l generalizing s with
  | nil => exact h
  | cons a l ih => exact ih (hf s a h)

/-- A fold from the right keeps the invariants if each of its steps does. -/
theorem Keeps.foldr {α : Type} {f : α → State → State} {l : List α} (h : Keeps s₀ s)
    (hf : ∀ a s, Keeps s₀ s → Keeps s₀ (f a s)) : Keeps s₀ (l.foldr f s) := by
  induction l with
  | nil => exact h
  | cons a l ih => exact hf a _ ih

/-- A fold over a state and something else keeps the invariants if each of its steps does. -/
theorem Keeps.foldl_fst {α β : Type} {f : State × β → α → State × β} {l : List α} {p : State × β} (h : Keeps s₀ p.1)
    (hf : ∀ p a, Keeps s₀ p.1 → Keeps s₀ (f p a).1) : Keeps s₀ (l.foldl f p).1 := by
  induction l generalizing p with
  | nil => exact h
  | cons a l ih => exact ih (hf p a h)

/-- The state of a pair that is known in another form. -/
theorem Keeps.of_fst {α : Type} {p : State × α} {a : α} (h : Keeps s₀ p.1) (e : p = (t, a)) : Keeps s₀ t := by
  rw [e] at h
  exact h

theorem Keeps.getD {o : Option State} (h : Keeps s₀ s) (ho : ∀ t, o = some t → Keeps s₀ t) : Keeps s₀ (o.getD s) := by
  cases o with
  | none => exact h
  | some t => exact ho t rfl

/-! ## Tables in rising order -/

/-- The keys of a table rise. -/
def Rising {α : Type} (t : Tbl α) : Prop := (t.map Prod.fst).Pairwise (· < ·)

theorem Rising.sublist {α β : Type} {t : Tbl α} {u : Tbl β} (h : Rising t) (hs : (u.map Prod.fst).Sublist (t.map Prod.fst)) :
    Rising u := List.Pairwise.sublist hs h

theorem Rising.filter {α : Type} {t : Tbl α} (p : Nat × α → Bool) (h : Rising t) : Rising (t.filter p) :=
  h.sublist (List.filter_sublist.map _)

/-- Entries that are dropped, or rewritten under their keys, leave the keys rising. -/
theorem Rising.filterMap {α : Type} {t : Tbl α} {f : Nat × α → Option (Nat × α)} (h : Rising t)
    (hf : ∀ e e', f e = some e' → e'.1 = e.1) : Rising (t.filterMap f) := by
  refine h.sublist ?_
  clear h
  induction t with
  | nil => exact .slnil
  | cons e t ih =>
    cases he : f e with
    | none => simpa [he] using ih.cons e.1
    | some e' => simpa [he, hf e e' he] using ih

theorem Rising.tdel {α : Type} {t : Tbl α} (k : Nat) (h : Rising t) : Rising (tdel t k) := h.filter _

theorem mem_keys_tput {α : Type} {t : Tbl α} {k n : Nat} {v : α} (h : n ∈ (tput t k v).map Prod.fst) :
    n = k ∨ n ∈ t.map Prod.fst := by
  induction t with
  | nil => simpa [tput] using h
  | cons e t ih =>
    obtain ⟨j, w⟩ := e
    unfold tput at h
    split at h
    · simpa using h
    · split at h
      · rename_i hk
        subst hk
        simpa using h
      · rcases List.mem_cons.1 h with h | h
        · exact .inr (List.mem_cons.2 (.inl h))
        · exact (ih h).imp_right fun hm => List.mem_cons.2 (.inr hm)

theorem Rising.tput {α : Type} {t : Tbl α} (k : Nat) (v : α) (h : Rising t) : Rising (tput t k v) := by
  induction t with
  | nil => exact List.pairwise_singleton _ _
  | cons e t ih =>
    obtain ⟨j, w⟩ := e
    obtain ⟨hj, ht⟩ := List.pairwise_cons.1 h
    unfold Machine.tput
    split
    · rename_i hk
      refine List.pairwise_cons.2 ⟨fun n hn => ?_, h⟩
      rcases List.mem_cons.1 hn with rfl | hn
      · exact hk
      · exact Nat.lt_trans hk (hj n hn)
    · split
      · rename_i hk
        subst hk
        exact h
      · rename_i h1 h2
        refine List.pairwise_cons.2 ⟨fun n hn => ?_, ih ht⟩
        rcases mem_keys_tput hn with rfl | hn
        · show j < n
          omega
        · exact hj n hn

theorem tget_map_snd {α : Type} (t : Tbl (Tbl α)) (f : Tbl α → Tbl α) (k : Nat) (hf : f [] = []) :
    tget (t.map fun e => (e.1, f e.2)) k [] = f (tget t k []) := by
  induction t with
  | nil => exact hf.symm
  | cons e t ih =>
    obtain ⟨j, u⟩ := e
    by_cases hj : j = k
    · simp [tget, tfind, hj]
    · simpa [tget, tfind, hj] using ih

/-! ## The caches -/

theorem rising_tget_tupd {l1 : Tbl (Tbl Copy)} {f : Tbl Copy → Tbl Copy} (h : ∀ core, Rising (tget l1 core []))
    (hf : ∀ t, Rising t → Rising (f t)) (who core : Nat) : Rising (tget (tupd l1 who [] f) core []) := by
  by_cases hc : core = who
  · subst hc
    rw [tget_tupd_same]
    exact hf _ (h core)
  · rw [tget_tupd_other _ _ _ _ _ hc]
    exact h core

/-- An agent's copies may be rewritten as long as their order is kept. -/
theorem Keeps.after_mapCopies (h : Keeps s₀ s) {who : Agent} {f : Tbl Copy → Tbl Copy} (hf : ∀ t, Rising t → Rising (f t)) :
    Keeps s₀ (mapCopies s who f) := by
  refine h.of_caches fun ⟨hl, hr⟩ => ?_
  unfold CachesOk
  rw [mapCopies_l1, mapCopies_rdc]
  split
  · exact ⟨hl, hf _ hr⟩
  · exact ⟨rising_tget_tupd hl hf _, hr⟩

/-- A rewriting of every L1 and of the RDC, entry by entry, that drops words or keeps them in their places. -/
theorem Keeps.of_rewritten (h : Keeps s₀ s) {f : Nat × Copy → Option (Nat × Copy)}
    (hf : ∀ e e', f e = some e' → e'.1 = e.1) (l1 : t.l1 = s.l1.map (fun e => (e.1, e.2.filterMap f)) := by rfl)
    (rdc : t.rdc = s.rdc.filterMap f := by rfl) (mem : t.mem = s.mem := by rfl) (teams : t.teams = s.teams := by rfl)
    (isW : t.isW = s.isW := by rfl) (devId : t.devId = s.devId := by rfl) (twinUp : t.twinUp = s.twinUp := by rfl)
    (twinFailed : t.twinFailed = s.twinFailed := by rfl) : Keeps s₀ t := by
  refine h.of_caches (fun ⟨hl, hr⟩ => ?_) mem teams isW devId twinUp twinFailed
  unfold CachesOk
  rw [l1, rdc]
  refine ⟨fun core => ?_, Rising.filterMap hr hf⟩
  rw [tget_map_snd s.l1 (List.filterMap f) core rfl]
  exact Rising.filterMap (hl core) hf

/-! ## Memory and scratchpads -/

theorem foldl_team_wf {α : Type} {f : Team → α → Team} {l : List α} {u : Team} (hu : Memory.wf u.mem = true)
    (hf : ∀ u x, Memory.wf u.mem = true → Memory.wf (f u x).mem = true) : Memory.wf (l.foldl f u).mem = true := by
  induction l generalizing u with
  | nil => exact hu
  | cons x l ih => exact ih (hf u x hu)

theorem Keeps.after_updTeam (h : Keeps s₀ s) {key : Nat} {f : Team → Team}
    (hf : ∀ t, Memory.wf t.mem = true → Memory.wf (f t).mem = true) : Keeps s₀ (updTeam s key f) := by
  refine h.of_memory fun ⟨hm, ht⟩ => ⟨hm, fun t htm => ?_⟩
  obtain ⟨u, hu, rfl⟩ := List.mem_map.1 htm
  by_cases hk : u.key == key
  · simpa [hk] using hf u (ht u hu)
  · simpa [hk] using ht u hu

/-- Teams that go take their scratchpads with them. -/
theorem Keeps.of_fewer_teams (h : Keeps s₀ s) {p : Team → Bool} (teams : t.teams = s.teams.filter p := by rfl)
    (mem : t.mem = s.mem := by rfl) (l1 : t.l1 = s.l1 := by rfl) (rdc : t.rdc = s.rdc := by rfl)
    (isW : t.isW = s.isW := by rfl) (devId : t.devId = s.devId := by rfl) (twinUp : t.twinUp = s.twinUp := by rfl)
    (twinFailed : t.twinFailed = s.twinFailed := by rfl) : Keeps s₀ t := by
  refine h.of_memory (fun ⟨hm, ht⟩ => ⟨mem ▸ hm, fun t htm => ?_⟩) l1 rdc isW devId twinUp twinFailed
  rw [teams] at htm
  exact ht t (List.mem_filter.1 htm).1

/-! ## Report -/

theorem Keeps.after_putBar {off : Nat} {v : Word} (h : Keeps s₀ s) : Keeps s₀ (putBar s off v) := h.frame

theorem Keeps.after_putBarD {off : Nat} {v : DWord} (h : Keeps s₀ s) : Keeps s₀ (putBarD s off v) :=
  h.after_putBar.after_putBar

theorem Keeps.after_updCtx {ctx : Nat} {f : Ctx → Ctx} (h : Keeps s₀ s) : Keeps s₀ (updCtx s ctx f) := h.frame

theorem Keeps.after_putCtx {ctx off : Nat} {v : Word} (h : Keeps s₀ s) : Keeps s₀ (putCtx s ctx off v) :=
  h.after_updCtx.after_putBar

theorem Keeps.after_setGroup {g : Group} (h : Keeps s₀ s) : Keeps s₀ (setGroup s g) := h.frame

theorem Keeps.after_updGroup {core slot : Nat} {f : Group → Group}
    (h : Keeps s₀ s) : Keeps s₀ (updGroup s core slot f) := by
  unfold updGroup
  split
  · exact h.after_setGroup
  · exact h

theorem Keeps.after_report {r : Report} (h : Keeps s₀ s) : Keeps s₀ (report s r) := h.frame

theorem Keeps.after_reportGroup {g : Group} {kind cause addr : Nat} (h : Keeps s₀ s) :
    Keeps s₀ (reportGroup s g kind cause addr) :=
  h.after_report

theorem Keeps.after_reportCtx {ctx kind cause addr : Nat} {aux : Word} (h : Keeps s₀ s) :
    Keeps s₀ (reportCtx s ctx kind cause addr aux) :=
  h.after_report

/-! ## Coherence -/

theorem Keeps.after_putCopy {who : Agent} {w : Nat} {c : Copy} (h : Keeps s₀ s) : Keeps s₀ (putCopy s who w c) :=
  h.after_mapCopies fun _ ht => ht.tput w c

theorem Keeps.after_dropCopy {who : Agent} {w : Nat} (h : Keeps s₀ s) : Keeps s₀ (dropCopy s who w) :=
  h.after_mapCopies fun _ ht => ht.tdel w

theorem Keeps.after_setVal {w : Nat} (h : Keeps s₀ s) : Keeps s₀ (setVal s w) := h.frame

theorem Keeps.after_setOwner {w : Nat} {who : Agent} (h : Keeps s₀ s) : Keeps s₀ (setOwner s w who) := h.frame

theorem Keeps.of_cacheLine {line : Nat} (h : Keeps s₀ s) (e : cacheLine s line = some t) : Keeps s₀ t := by
  unfold cacheLine at e
  dsimp only at e
  split at e
  · cases e
    exact h
  · split at e
    · cases e
      exact h.frame
    · obtain ⟨-, ⟨⟩⟩ := Option.ite_none_right_eq_some.1 e
      exact h.frame

theorem Keeps.after_biasAccess {line : Nat} {host : Bool} (h : Keeps s₀ s) : Keeps s₀ (biasAccess s line host) := by
  unfold biasAccess
  exact Keeps.ite h h.frame

theorem Keeps.of_snoopFirst {ws : List Nat} (h : Keeps s₀ s) (e : snoopFirst s ws = some t) : Keeps s₀ t := by
  obtain ⟨-, ⟨⟩⟩ := Option.ite_none_left_eq_some.1 e
  exact h.frame

theorem Keeps.after_stampWrite {w : Nat} {ctx core : Option Nat}
    (h : Keeps s₀ s) : Keeps s₀ (stampWrite s w ctx core) := by
  unfold stampWrite
  split
  · exact Keeps.ite h.frame h.frame
  · exact h.frame

theorem Keeps.after_stampFor {who : Agent} {w : Nat} {ctx : Option Nat}
    (h : Keeps s₀ s) : Keeps s₀ (stampFor s who w ctx) :=
  h.after_stampWrite

theorem Keeps.after_send {m : Msg} (h : Keeps s₀ s) : Keeps s₀ (send s m) := h.frame

theorem Keeps.of_receive {kind : MsgKind} {src dst : Agent} {m : Msg} (h : Keeps s₀ s)
    (e : receive s kind src dst = some (m, t)) : Keeps s₀ t := by
  unfold receive at e
  split at e
  · obtain ⟨-, e⟩ := Option.ite_none_right_eq_some.1 e
    cases e
    exact h.frame
  · cases e

theorem Keeps.after_recallWords {ws : List Nat} (h : Keeps s₀ s) : Keeps s₀ (recallWords s ws) := by
  unfold recallWords
  exact h.foldl fun _ _ h => h.foldl fun _ _ h1 => h1.after_send

theorem Keeps.after_settleLine {line : Nat} (h : Keeps s₀ s) : Keeps s₀ (settleLine s line) := by
  unfold settleLine
  dsimp only
  split
  · exact h.frame
  · split
    · exact h.frame.frame.after_recallWords
    · exact h.frame

theorem Keeps.after_putHomeWord {w : Nat} {mask : BitVec 4} {v : Word} {poison : Bool} (h : Keeps s₀ s) :
    Keeps s₀ (putHomeWord s w mask v poison) :=
  Keeps.after_settleLine (h.of_memory fun ⟨hm, ht⟩ => ⟨memPutWord_wf _ w mask v hm, ht⟩)

theorem Keeps.after_voidFills {who : Agent} {p : Nat → Bool} (h : Keeps s₀ s) : Keeps s₀ (voidFills s who p) := by
  unfold voidFills
  exact h.frame

theorem Keeps.after_askLine {core w : Nat} (h : Keeps s₀ s) : Keeps s₀ (askLine s core w) := Keeps.ite h h.after_send

theorem Keeps.after_storeCopy {who : Agent} {ctx : Option Nat} {w : Nat} {mask : BitVec 4} {v : Word} {poison : Bool}
    (h : Keeps s₀ s) : Keeps s₀ (storeCopy s who ctx w mask v poison) := by
  unfold storeCopy
  split
  · exact h.after_putCopy.after_stampWrite
  · exact h.after_putCopy
  · exact h.after_putCopy
  · exact h.after_putCopy

theorem Keeps.after_l1Store {core ctx w : Nat} {mask : BitVec 4} {v : Word} {poison : Bool} (h : Keeps s₀ s) :
    Keeps s₀ (l1Store s core ctx w mask v poison) :=
  h.frame.after_storeCopy

theorem Keeps.of_l1Reserve {core : Nat} {lines : List Nat} (h : Keeps s₀ s) (e : l1Reserve s core lines = some t) :
    Keeps s₀ t := by
  obtain ⟨-, ⟨⟩⟩ := Option.ite_none_left_eq_some.1 e
  exact Keeps.ite h (h.after_mapCopies fun _ ht => ht.filter _)

theorem Keeps.after_l1MakeRoom {core line : Nat} (h : Keeps s₀ s) : Keeps s₀ (l1MakeRoom s core line) :=
  Keeps.getD h fun _ e => h.of_l1Reserve e

/-- A write that overtakes copies drops them or keeps them under their words. -/
theorem Keeps.after_overtake {w : Nat} {mask : BitVec 4} (h : Keeps s₀ s) : Keeps s₀ (overtake s w mask) := by
  have hf (e e' : Nat × Copy) (he : (if e.1 = w then (match e.2.st with
      | .cln => none
      | .drt => some (e.1, { e.2 with held := e.2.mask })
      | .reg => some e) else some e) = some e') : e'.1 = e.1 := by
    split at he
    · split at he <;> cases he <;> rfl
    · cases he
      rfl
  unfold overtake
  dsimp only
  split
  · exact Keeps.ite (Keeps.after_dropCopy (h.of_rewritten hf)) (h.of_rewritten hf)
  · exact h.of_rewritten hf

theorem Keeps.after_readHome {w : Nat} (h : Keeps s₀ s) : Keeps s₀ (readHome s w) := h.after_overtake

theorem Keeps.after_holdAndSend {who : Agent} {ctx : Option Nat} {owned : Bool} {es : List (Nat × Copy)}
    (h : Keeps s₀ s) : Keeps s₀ (holdAndSend s who ctx owned es) := by
  unfold holdAndSend
  dsimp only
  split
  · exact h
  · exact Keeps.after_send (Keeps.after_voidFills (h.frame.foldl fun _ _ h => h.after_dropCopy))

theorem Keeps.after_rdcGiveUp {line : Nat} (h : Keeps s₀ s) : Keeps s₀ (rdcGiveUp s line) := by
  unfold rdcGiveUp
  dsimp only
  split
  · split
    · exact h
    · exact Keeps.ite h.frame.after_send h.frame
  · exact Keeps.ite (h.foldl fun _ _ h => h.after_dropCopy) (Keeps.after_holdAndSend (Keeps.after_holdAndSend
      (h.foldl fun _ _ h => h.after_dropCopy)))

theorem Keeps.after_rdcMakeRoom {line : Nat} (h : Keeps s₀ s) : Keeps s₀ (rdcMakeRoom s line) := by
  unfold rdcMakeRoom
  split
  · exact h
  · split
    · exact h.after_rdcGiveUp
    · exact h

theorem Keeps.after_putHostLine {line : Nat} {l : HostLine} (h : Keeps s₀ s) : Keeps s₀ (putHostLine s line l) := by
  unfold putHostLine
  exact h.after_rdcMakeRoom.frame

theorem Keeps.after_putHostWord {w : Nat} {mask : BitVec 4} {v : Word} {poison : Bool} (h : Keeps s₀ s) :
    Keeps s₀ (putHostWord s w mask v poison) := by
  unfold putHostWord
  dsimp only
  split
  · exact h.after_putHostLine
  · exact h.after_putHomeWord

theorem Keeps.after_rdcSees {w : Nat} {mask : BitVec 4} {v : Word} {poison : Bool} (h : Keeps s₀ s) :
    Keeps s₀ (rdcSees s w mask v poison).1 := by
  have hv : Keeps s₀ (voidFills s .rdc fun l => l == lineBase w) := h.after_voidFills
  unfold rdcSees
  dsimp only
  split
  · exact hv
  · split
    · exact hv.after_dropCopy
    · exact Keeps.ite hv.after_dropCopy hv.after_putCopy
    · split
      · exact hv.after_putCopy
      · split
        · exact hv
        · split
          · exact hv.after_dropCopy
          · exact hv.after_putCopy

theorem Keeps.after_writeAtHome {w : Nat} {mask : BitVec 4} {v : Word} {poison : Bool} {ctx core : Option Nat}
    (h : Keeps s₀ s) : Keeps s₀ (writeAtHome s w mask v poison ctx core) := by
  unfold writeAtHome
  dsimp only
  split
  · exact h.after_reportCtx
  · split
    · exact h.after_putHostWord.after_stampWrite
    · split
      · exact h.after_storeCopy
      · refine Keeps.after_stampWrite ?_
        split
        · split
          · exact Keeps.ite h.after_rdcSees (Keeps.ite h.after_rdcSees.after_send.after_setVal.after_putHomeWord
              h.after_rdcSees.after_send)
          · exact Keeps.ite h (Keeps.ite h.after_send.after_setVal.after_putHomeWord h.after_send)
        · refine Keeps.after_putHomeWord ?_
          refine Keeps.after_setVal ?_
          split
          · exact h.after_rdcSees
          · exact h

theorem Keeps.after_homeWrite {w : Nat} {mask : BitVec 4} {v : Word} {poison : Bool} {ctx core : Option Nat}
    (h : Keeps s₀ s) : Keeps s₀ (homeWrite s w mask v poison ctx core) :=
  h.after_biasAccess.after_writeAtHome

theorem Keeps.after_homeWrites {loc : Nat} {ws : List Word} {ctx : Option Nat} (h : Keeps s₀ s) :
    Keeps s₀ (homeWrites s loc ws ctx) :=
  h.foldr fun _ _ h => h.after_homeWrite

theorem Keeps.after_registerAt {src : Agent} {ws : List Nat} {ctx : Option Nat} (h : Keeps s₀ s) :
    Keeps s₀ (registerAt s src ws ctx) := by
  unfold registerAt
  exact Keeps.foldl (h.foldl fun _ _ h => Keeps.ite h h.after_send) fun _ _ h => h.after_setOwner.after_stampFor

theorem Keeps.after_mergeAt {src : Agent} {v : WordVal} {ctx : Option Nat} (h : Keeps s₀ s) :
    Keeps s₀ (mergeAt s src v ctx) := by
  unfold mergeAt
  split
  · exact h.after_send.after_stampFor
  · exact h.after_reportCtx
  · exact h.after_putHomeWord.after_stampFor

theorem Keeps.after_writeBackOwned {src : Agent} {v : WordVal} (h : Keeps s₀ s) : Keeps s₀ (writeBackOwned s src v) := by
  unfold writeBackOwned
  dsimp only
  split
  · exact Keeps.ite h.after_putHomeWord.after_setVal h
  · exact h

theorem Keeps.after_writeBackDirty {src : Agent} {v : WordVal} {ctx : Option Nat} (h : Keeps s₀ s) :
    Keeps s₀ (writeBackDirty s src v ctx) :=
  Keeps.ite h.after_registerAt.after_putHomeWord.after_setVal h.after_mergeAt

theorem Keeps.after_moveToRdc {w : Nat} {c : Copy} (h : Keeps s₀ s) : Keeps s₀ (moveToRdc s w c) := by
  unfold moveToRdc
  dsimp only
  split
  · exact h.after_putHostLine.after_putHostWord
  · split
    · exact h.after_rdcMakeRoom.after_putCopy
    · exact h.after_rdcMakeRoom.after_putCopy
    · exact h.after_rdcMakeRoom.after_putCopy

theorem Keeps.after_moveAway {core ctx w : Nat} {c : Copy} (h : Keeps s₀ s) : Keeps s₀ (moveAway s core ctx w c) := by
  unfold moveAway
  exact Keeps.ite h.after_dropCopy.after_voidFills.after_putHomeWord.after_stampWrite
    h.after_dropCopy.after_voidFills.frame.after_moveToRdc

theorem Keeps.after_moveAll {core ctx : Nat} {es : List (Nat × Copy)} (h : Keeps s₀ s) :
    Keeps s₀ (moveAll s core ctx es) := by
  unfold moveAll
  dsimp only
  refine Keeps.foldl ?_ fun _ _ h => h.after_moveAway
  refine h.foldl fun _ _ h => ?_
  split
  · split
    · exact h.after_holdAndSend
    · exact h
  · exact h

theorem Keeps.after_evictL1 {core ctx w : Nat} (h : Keeps s₀ s) : Keeps s₀ (evictL1 s core ctx w) := by
  unfold evictL1
  dsimp only
  split
  · exact h
  · split
    · exact h
    · split
      · exact h.after_dropCopy
      · exact h.after_holdAndSend
      · exact Keeps.ite h.after_holdAndSend h.after_moveAll

theorem Keeps.after_selfInvalidate {core ctx : Nat} {range : Nat → Bool} (h : Keeps s₀ s) :
    Keeps s₀ (selfInvalidate s core ctx range) := by
  unfold selfInvalidate
  exact Keeps.after_voidFills (Keeps.foldl (h.after_mapCopies fun _ ht => ht.filter _) fun _ _ h => Keeps.ite h.after_evictL1 h)

theorem Keeps.after_invalidateRdc {scope : Nat} {range : Nat → Bool} (h : Keeps s₀ s) :
    Keeps s₀ (invalidateRdc s scope range) := by
  unfold invalidateRdc
  refine Keeps.after_voidFills (h.of_caches fun ⟨hl, hr⟩ => ⟨hl, Rising.filterMap (t := s.rdc) hr fun e e' he => ?_⟩)
  split at he
  · cases he
    rfl
  · split at he <;> cases he <;> rfl

theorem Keeps.after_acquireAt {core ctx scope : Nat} {range : Nat → Bool} (h : Keeps s₀ s) :
    Keeps s₀ (acquireAt s core ctx scope range) :=
  Keeps.ite h h.after_selfInvalidate.after_invalidateRdc

theorem Keeps.after_engineAcquire {scope : Nat} (h : Keeps s₀ s) : Keeps s₀ (engineAcquire s scope) :=
  Keeps.ite h h.after_invalidateRdc

theorem Keeps.after_registerWords {who : Agent} {ctx : Option Nat} {es : List (Nat × Copy)} (h : Keeps s₀ s) :
    Keeps s₀ (registerWords s who ctx es) :=
  h.foldl fun _ _ h => Keeps.ite (Keeps.ite h (Keeps.after_send (h.foldl fun _ _ h1 => h1.after_putCopy)))
    (Keeps.after_send (Keeps.after_voidFills (Keeps.foldl (Keeps.ite h (Keeps.after_send
      (h.foldl fun _ _ h1 => h1.after_putCopy))) fun _ _ h1 => h1.after_putCopy)))

theorem Keeps.after_releaseRdc {ctx : Option Nat} {scope : Nat} (h : Keeps s₀ s) : Keeps s₀ (releaseRdc s ctx scope) := by
  unfold releaseRdc
  exact Keeps.ite (Keeps.foldl (Keeps.ite h.after_registerWords h) fun _ _ h => h.frame.after_send)
    (Keeps.ite h.after_registerWords h)

theorem Keeps.after_releaseAt {core ctx scope : Nat} (h : Keeps s₀ s) : Keeps s₀ (releaseAt s core ctx scope) :=
  Keeps.ite h h.after_registerWords.after_moveAll.after_releaseRdc

theorem Keeps.after_catchUp {far : Bool} {core ctx scope : Nat}
    (h : Keeps s₀ s) : Keeps s₀ (catchUp s far core ctx scope) :=
  Keeps.ite h.after_releaseAt (Keeps.ite h h.after_registerWords)

theorem Keeps.after_unitRelease {ctx scope : Nat}
    (h : Keeps s₀ s) : Keeps s₀ (unitRelease s ctx scope) := h.after_releaseRdc

theorem Keeps.after_writeEnd {e : CmdEnd} (h : Keeps s₀ s) : Keeps s₀ (writeEnd s e) := by
  unfold writeEnd
  exact Keeps.ite h.after_homeWrites.frame h.after_homeWrites

theorem Keeps.after_settleEnds (h : Keeps s₀ s) : Keeps s₀ (settleEnds s) := h.frame.foldl fun _ _ h => h.after_writeEnd

theorem Keeps.after_finishCmd {c : HostCmd} {status result : Nat} (h : Keeps s₀ s) :
    Keeps s₀ (finishCmd s c status result) := by
  unfold finishCmd
  exact h.frame.after_unitRelease.frame.after_settleEnds

/-! ## Xlat -/

theorem Keeps.after_tlbFill {ctx core : Nat} {l : Leaf} (h : Keeps s₀ s) : Keeps s₀ (tlbFill s ctx core l) := by
  unfold tlbFill
  exact Keeps.ite h.frame (Keeps.ite h.frame (Keeps.ite h.frame h.frame))

theorem Keeps.after_tellMalformed {ctx core va : Nat} (h : Keeps s₀ s) : Keeps s₀ (tellMalformed s ctx core va) :=
  Keeps.ite h.after_report h

theorem Keeps.after_fillNow {ctx core va : Nat} (h : Keeps s₀ s) : Keeps s₀ (fillNow s ctx core va) := by
  unfold fillNow
  split
  · exact h
  · split
    · exact h.after_tlbFill
    · exact h.after_tellMalformed

theorem Keeps.after_askWalk {ctx core va : Nat} {soft : Bool}
    (h : Keeps s₀ s) : Keeps s₀ (askWalk s ctx core va soft) := by
  unfold askWalk
  exact Keeps.ite h h.frame

theorem Keeps.after_walkAhead {eng ctx page : Nat} (h : Keeps s₀ s) : Keeps s₀ (walkAhead s eng ctx page) :=
  Keeps.ite h.after_askWalk h

theorem Keeps.after_dropFails {ctx core : Nat} {pages : List Nat}
    (h : Keeps s₀ s) : Keeps s₀ (dropFails s ctx core pages) :=
  h.frame

/-! ## Ops -/

theorem Safe.withIssuer {k : Group → Clause → Res} (hk : ∀ g c, Safe s₀ (k g c)) : Safe s₀ (withIssuer s k) := by
  unfold Machine.withIssuer
  split
  · exact hk _ _
  · exact .fault

theorem Keeps.safe_retire {g : Group} {c : Clause} (h : Keeps s₀ s) : Safe s₀ (retire s g c) := .next h.after_setGroup

theorem Keeps.safe_waits (h : Keeps s₀ s) : Safe s₀ (waits s) := .next h

theorem Keeps.after_storeFrame {g : Group} {loc : Nat} {ws : List Word} (h : Keeps s₀ s) :
    Keeps s₀ (storeFrame s g loc ws) :=
  h.foldr fun _ _ h => h.after_l1Store

theorem Keeps.after_haltGroup {g : Group} {kind cause addr : Nat} (h : Keeps s₀ s) :
    Keeps s₀ (haltGroup s g kind cause addr) :=
  h.after_setGroup.after_reportGroup

theorem Keeps.after_reportLanes {g : Group} {fs : List (Nat × Nat × Nat)}
    (h : Keeps s₀ s) : Keeps s₀ (reportLanes s g fs) :=
  h.foldl fun _ _ h => Keeps.ite h.after_reportGroup (Keeps.ite h.after_reportGroup h)

theorem Keeps.after_reportTrap {g : Group} {t : TrapInfo} (h : Keeps s₀ s) : Keeps s₀ (reportTrap s g t) :=
  Keeps.ite h (Keeps.ite h.after_reportGroup (Keeps.ite h.after_reportGroup h))

theorem Keeps.after_tellFault {ctx core : Nat} {slot : Option Nat} {ident cause va : Nat} (h : Keeps s₀ s) :
    Keeps s₀ (tellFault s ctx core slot ident cause va) := by
  unfold tellFault
  exact Keeps.ite h.after_report (Keeps.ite h.after_report (Keeps.ite h.after_report h))

theorem Keeps.after_haltAccess {g : Group} {kind cause va : Nat} (h : Keeps s₀ s) :
    Keeps s₀ (haltAccess s g kind cause va) :=
  h.after_tellFault.after_haltGroup

theorem Keeps.after_takeTrap {g : Group} {who : SlotId} {t : TrapInfo}
    (h : Keeps s₀ s) : Keeps s₀ (takeTrap s g who t) := by
  unfold takeTrap
  dsimp only
  split
  · exact h.after_dropFails.after_reportTrap.after_haltGroup
  · split
    · exact h.after_dropFails.after_reportTrap.after_haltGroup
    · split
      · exact h.after_dropFails.after_fillNow.after_reportTrap.after_haltAccess
      · exact h.after_dropFails.after_fillNow.after_reportTrap.after_storeFrame.after_setGroup

theorem Keeps.safe_trapAt {g : Group} {c : Clause} {cause : Nat} {mask : Mask} {dst addr : Nat} {laneAddrs : Tbl Nat}
    (h : Keeps s₀ s) : Safe s₀ (trapAt s g c cause mask dst addr laneAddrs) :=
  .next h.after_takeTrap

/-! ## Operands -/

theorem Keeps.safe_runVec {o : VecOp} {f : Group → Nat → LaneOut} (h : Keeps s₀ s) : Safe s₀ (runVec o f s) := by
  unfold runVec
  dsimp only
  refine .withIssuer fun _ _ => ?_
  split
  · exact h.safe_trapAt
  · exact .ite h.safe_retire (.ite h.safe_waits (.ite h.safe_trapAt (.ite h.safe_retire h.safe_trapAt)))

theorem Keeps.safe_runScalar {srcs : List Nat} {d : Nat} {f : Group → DWord} (h : Keeps s₀ s) :
    Safe s₀ (runScalar srcs d f s) :=
  .withIssuer fun _ _ => .ite h.safe_trapAt h.safe_retire

/-! ## Batch -/

theorem Keeps.fetch_fetchWord {ctx core addr : Nat} (h : Keeps s₀ s) : SafeFetch s₀ (fetchWord s ctx core addr) := by
  unfold fetchWord
  -- What a lost word causes is hidden from the kernel, which would evaluate it where it reduces the outer match.
  obtain ⟨lost, hlost⟩ : ∃ f, lostCause s (some core) = f := ⟨_, rfl⟩
  rw [hlost]
  split
  · exact .fault
  · exact .wait h.after_askWalk
  · dsimp only
    split
    · exact .fault
    · split
      · split
        · exact .fault
        · exact .word
      · exact .wait h.after_askLine

theorem Keeps.of_fetchWord {ctx core addr : Nat}
    (h : Keeps s₀ s) (e : fetchWord s ctx core addr = .wait t) : Keeps s₀ t :=
  h.fetch_fetchWord.of_wait e

theorem Keeps.after_reportPages {g : Group} {pages : List BatchPage}
    (h : Keeps s₀ s) : Keeps s₀ (reportPages s g pages) :=
  h.foldl fun _ _ h => h.after_report

theorem Keeps.after_startBatch {g : Group} {what : BatchOf} {faults : List (Nat × Nat)} {mayRun : Bool} (h : Keeps s₀ s) :
    Keeps s₀ (startBatch s g what faults mayRun) := by
  unfold startBatch
  exact Keeps.ite h.after_dropFails.after_setGroup h.after_dropFails.after_setGroup.after_reportPages

theorem Keeps.after_dropAhead {core slot : Nat} (h : Keeps s₀ s) : Keeps s₀ (dropAhead s core slot) := h.frame

theorem Keeps.after_dropCoreFails {ctx core : Nat} (h : Keeps s₀ s) : Keeps s₀ (dropCoreFails s ctx core) := h.frame

theorem Keeps.after_endAhead {g : Group} (h : Keeps s₀ s) : Keeps s₀ (endAhead s g) := by
  unfold endAhead
  split
  · exact Keeps.ite h.after_dropCoreFails.after_dropAhead.after_setGroup.after_reportPages h
  · exact h

theorem Keeps.of_checkTarget {g : Group} {target : Nat} (h : Keeps s₀ s) (e : checkTarget s g target = .wait t) :
    Keeps s₀ t := by
  unfold checkTarget at e
  split at e
  · cases e
  · split at e
    next e' =>
      cases e
      exact h.of_fetchWord e'
    · split at e <;> cases e
    · split at e <;> cases e

theorem Keeps.safe_transfer {g : Group} {c : Clause} {target : Nat} {k : Group → Res} (h : Keeps s₀ s)
    (hk : ∀ g, Safe s₀ (k g)) : Safe s₀ (transfer s g c target k) := by
  unfold transfer
  split
  · exact hk _
  · exact h.safe_trapAt
  · exact .next h.after_startBatch
  next e => exact .next (h.of_checkTarget e)

theorem Keeps.safe_moveTo {g : Group} {c : Clause} {target : Nat} (h : Keeps s₀ s) : Safe s₀ (moveTo s g c target) :=
  .next h.after_setGroup

/-! ## Control -/

theorem Keeps.after_spillFault {g : Group} {cause i : Nat} (h : Keeps s₀ s) : Keeps s₀ (spillFault s g cause i) :=
  h.after_haltAccess

theorem Keeps.split_pushSplit {g : Group} {e : SplitEntry} (h : Keeps s₀ s) : SafeSplit s₀ (pushSplit s g e) := by
  unfold pushSplit
  split
  · exact .ok h
  · split
    · exact .error h.after_fillNow.after_spillFault
    · exact .ok h.after_fillNow.after_l1Store.after_l1Store.after_l1Store.after_l1Store

theorem Keeps.split_popSplit {g : Group} (h : Keeps s₀ s) : SafeSplit s₀ (popSplit s g) := by
  unfold popSplit
  split
  · exact .ok h
  · split
    · exact .error h.after_fillNow.after_spillFault
    · dsimp only
      split
      · exact .error h.after_spillFault
      · exact .ok h.after_fillNow

theorem Keeps.split_fillPending {g : Group} {i : SlotId} {e : SplitEntry} (h : Keeps s₀ s) :
    SafeSplit s₀ (fillPending s g i e) := by
  unfold fillPending
  split
  next e => exact .error (h.split_popSplit.of_error e)
  next e =>
    split
    · exact .ok (h.split_popSplit.of_ok e)
    · split
      next e' => exact .error ((h.split_popSplit.of_ok e).split_popSplit.of_error e')
      next e' => exact .ok ((h.split_popSplit.of_ok e).split_popSplit.of_ok e')

theorem Keeps.split_fuse {g : Group} {e : SplitEntry} {mask : Mask}
    (h : Keeps s₀ s) : SafeSplit s₀ (fuse s g e mask) := by
  unfold fuse
  split
  next e => exact .error (h.split_popSplit.of_error e)
  next e => exact .ok (h.split_popSplit.of_ok e)

theorem Keeps.split_reconvergeOnce {g : Group} {r : Except State (State × Group)} (h : Keeps s₀ s)
    (e : reconvergeOnce s g = some r) : SafeSplit s₀ r := by
  unfold reconvergeOnce at e
  dsimp only at e
  split at e
  · cases e
  · split at e
    · obtain ⟨-, ⟨⟩⟩ := Option.ite_none_right_eq_some.1 e
      exact h.split_fuse
    · split at e
      · cases e
        exact h.split_fillPending
      · obtain ⟨-, ⟨⟩⟩ := Option.ite_none_right_eq_some.1 e
        exact h.split_fuse
    · split at e
      · cases e
        exact h.split_fillPending
      · obtain ⟨-, ⟨⟩⟩ := Option.ite_none_right_eq_some.1 e
        exact h.split_fuse
    · split at e
      · cases e
        exact h.split_fillPending
      · obtain ⟨-, ⟨⟩⟩ := Option.ite_none_right_eq_some.1 e
        exact h.split_popSplit
    · cases e

theorem Keeps.split_reconverge {fuel : Nat} {g : Group} (h : Keeps s₀ s) : SafeSplit s₀ (reconverge fuel s g) := by
  induction fuel generalizing s g with
  | zero => exact .ok h
  | succ fuel ih =>
    unfold reconverge
    split
    · exact .ok h
    next e => exact .error ((h.split_reconvergeOnce e).of_error rfl)
    next e => exact ih ((h.split_reconvergeOnce e).of_ok rfl)

theorem Keeps.after_settle {g : Group} (h : Keeps s₀ s) : Keeps s₀ (settle s g) := by
  unfold settle
  split
  next e => exact (h.split_reconverge.of_ok e).after_setGroup
  next e => exact h.split_reconverge.of_error e

theorem Keeps.safe_execBra {f : B} (h : Keeps s₀ s) : Safe s₀ (execBra f s) :=
  .withIssuer fun _ _ => .ite (h.safe_transfer fun _ => h.safe_moveTo) h.safe_retire

theorem Keeps.safe_execBraAny {f : B} (h : Keeps s₀ s) : Safe s₀ (execBraAny f s) :=
  .withIssuer fun _ _ => .ite (h.safe_transfer fun _ => h.safe_moveTo) h.safe_retire

theorem Keeps.safe_execCall {f : B} (h : Keeps s₀ s) : Safe s₀ (execCall f s) :=
  .withIssuer fun _ _ => .ite (h.safe_transfer fun _ => h.safe_moveTo) h.safe_retire

theorem Keeps.safe_jumpScalar {n : Nat} (h : Keeps s₀ s) : Safe s₀ (jumpScalar n s) :=
  .withIssuer fun _ _ => .ite h.safe_trapAt (h.safe_transfer fun _ => h.safe_moveTo)

theorem Keeps.safe_execExit (h : Keeps s₀ s) : Safe s₀ (execExit s) :=
  .withIssuer fun _ _ => .ite (.next h.after_setGroup) (.next h.after_settle)

theorem Keeps.safe_execYield (h : Keeps s₀ s) : Safe s₀ (execYield s) := .withIssuer fun _ _ => h.safe_retire

theorem Keeps.safe_execNop (h : Keeps s₀ s) : Safe s₀ (execNop s) := .withIssuer fun _ _ => h.safe_retire

theorem Keeps.split_pushAll {g : Group} {es : List SplitEntry} (h : Keeps s₀ s) : SafeSplit s₀ (pushAll s g es) := by
  induction es generalizing s g with
  | nil => exact .ok h
  | cons x es ih =>
    unfold pushAll
    split
    next e => exact ih (h.split_pushSplit.of_ok e)
    next e => exact .error (h.split_pushSplit.of_error e)

theorem Keeps.safe_execSplit {f : B} {join : BitVec 20} (h : Keeps s₀ s) : Safe s₀ (execSplit f join s) := by
  refine .withIssuer fun g c => .ite h.safe_trapAt (h.safe_transfer fun g => ?_)
  refine .ite h.safe_moveTo (.ite h.safe_moveTo (.ite h.safe_trapAt ?_))
  split
  next e => exact .next (h.split_pushAll.of_error e)
  next e => exact .next (h.split_pushAll.of_ok e).after_setGroup

theorem Keeps.safe_execTrap {code : BitVec 8} (h : Keeps s₀ s) : Safe s₀ (execTrap code s) :=
  .withIssuer fun _ _ => h.safe_trapAt

theorem Keeps.safe_execBrk {code : BitVec 8} (h : Keeps s₀ s) : Safe s₀ (execBrk code s) :=
  .withIssuer fun _ _ => .ite (.next h.after_setGroup.after_report) h.safe_trapAt

theorem Keeps.of_checkTargets {g : Group} {ts : List Nat} (h : Keeps s₀ s) (e : checkTargets s g ts = .wait t) :
    Keeps s₀ t := by
  induction ts with
  | nil => cases e
  | cons a ts ih =>
    unfold checkTargets at e
    split at e
    next e' =>
      cases e
      exact h.of_fetchWord e'
    · exact ih e
    · split at e
      · exact ih e
      · cases e

theorem Keeps.safe_tret {skip : Bool} (h : Keeps s₀ s) : Safe s₀ (tret skip s) := by
  unfold tret
  dsimp only
  refine .withIssuer fun _ _ => ?_
  split
  · exact h.safe_trapAt
  · split
    · exact h.safe_waits
    · split
      · exact .next h.after_askWalk
      · exact .next h.after_haltAccess
      · split
        · exact .next h.after_haltAccess
        · split
          next e => exact .next (h.of_checkTargets e)
          · exact h.safe_trapAt
          · exact .next h.after_settle

theorem Keeps.safe_execReggrow {code : BitVec 8} (h : Keeps s₀ s) : Safe s₀ (execReggrow code s) :=
  .withIssuer fun _ _ => .ite h.safe_retire (.next h.after_setGroup)

theorem Keeps.safe_execRegshrink {code : BitVec 8} (h : Keeps s₀ s) : Safe s₀ (execRegshrink code s) :=
  .withIssuer fun _ _ => .ite h.safe_trapAt (.ite h.safe_retire (.ite (.next h.after_setGroup) h.safe_retire))

/-! ## Pred -/

theorem Keeps.safe_runPred {pd : BitVec 3} {ox : Option Ox} {f : Group → Mask → Mask} (h : Keeps s₀ s) :
    Safe s₀ (runPred pd ox f s) :=
  .withIssuer fun _ _ => h.safe_retire

theorem Keeps.safe_predLogic {f : PL} {ox : Option Ox} {op : Mask → Mask → Mask} (h : Keeps s₀ s) :
    Safe s₀ (predLogic f ox op s) := by
  unfold predLogic
  exact h.safe_runPred

theorem Keeps.safe_execPand {f : PL} {ox : Option Ox} (h : Keeps s₀ s) : Safe s₀ (execPand f ox s) := h.safe_predLogic

theorem Keeps.safe_execPor {f : PL} {ox : Option Ox} (h : Keeps s₀ s) : Safe s₀ (execPor f ox s) := h.safe_predLogic

theorem Keeps.safe_execPxor {f : PL} {ox : Option Ox} (h : Keeps s₀ s) : Safe s₀ (execPxor f ox s) := h.safe_predLogic

theorem Keeps.safe_execPandn {f : PL} {ox : Option Ox} (h : Keeps s₀ s) : Safe s₀ (execPandn f ox s) := h.safe_predLogic

theorem Keeps.safe_execPmov {f : P1} {ox : Option Ox} (h : Keeps s₀ s) : Safe s₀ (execPmov f ox s) := h.safe_runPred

theorem Keeps.safe_execVoteAny {f : P1} {ox : Option Ox} (h : Keeps s₀ s) : Safe s₀ (execVoteAny f ox s) := h.safe_runPred

theorem Keeps.safe_execVoteAll {f : P1} {ox : Option Ox} (h : Keeps s₀ s) : Safe s₀ (execVoteAll f ox s) := h.safe_runPred

theorem Keeps.safe_execVoteUni {f : P1} {ox : Option Ox} (h : Keeps s₀ s) : Safe s₀ (execVoteUni f ox s) := h.safe_runPred

/-! ## Log -/

theorem Keeps.after_writeDev {ctx va : Nat} {v : DWord} (h : Keeps s₀ s) : Keeps s₀ (writeDev s ctx va v) := by
  unfold writeDev
  dsimp only
  split
  · exact h.after_fillNow.after_homeWrite.after_homeWrite
  · exact h.after_fillNow

theorem Keeps.after_writeDevs {ctx va : Nat} {ws : List DWord} (h : Keeps s₀ s) : Keeps s₀ (writeDevs s ctx va ws) :=
  h.foldl fun _ _ h => h.after_writeDev

theorem Keeps.after_setStat {ctx bit : Nat} {on : Bool} (h : Keeps s₀ s) : Keeps s₀ (setStat s ctx bit on) := by
  unfold setStat
  exact h.after_putCtx

theorem Keeps.after_wmarkIrq {ctx : Nat} (h : Keeps s₀ s) : Keeps s₀ (wmarkIrq s ctx) := by
  unfold wmarkIrq
  exact Keeps.ite (Keeps.ite h.frame.after_updCtx h) h.after_updCtx

theorem Keeps.after_logWriteOf {dev ctx type : Nat} {w1 : DWord} {rest : List DWord} (h : Keeps s₀ s) :
    Keeps s₀ (logWriteOf s dev ctx type w1 rest) := by
  unfold logWriteOf
  exact Keeps.after_wmarkIrq (Keeps.after_updCtx (Keeps.after_putCtx (Keeps.after_writeDevs
    (Keeps.ite h h.after_writeDevs))))

theorem Keeps.after_logWrite {ctx type : Nat} {w1 : DWord} {rest : List DWord} (h : Keeps s₀ s) :
    Keeps s₀ (logWrite s ctx type w1 rest) :=
  h.after_logWriteOf

theorem Keeps.after_setStalls {ctx : Nat} {f : List Nat → List Nat} (h : Keeps s₀ s) : Keeps s₀ (setStalls s ctx f) := by
  unfold setStalls
  exact h.after_updCtx.after_setStat

theorem Keeps.after_stallAt {ctx code : Nat} (h : Keeps s₀ s) : Keeps s₀ (stallAt s ctx code) :=
  Keeps.ite h h.after_setStalls

theorem Keeps.after_unstall {ctx code : Nat} (h : Keeps s₀ s) : Keeps s₀ (unstall s ctx code) :=
  Keeps.ite h.after_setStalls h

theorem Keeps.after_keepStalls {kind : Nat} {live : Nat → Nat → Bool}
    (h : Keeps s₀ s) : Keeps s₀ (keepStalls s kind live) :=
  h.foldl fun _ _ h => Keeps.ite h.after_setStalls h

theorem Keeps.after_endSync {id : Nat} (h : Keeps s₀ s) : Keeps s₀ (endSync s id) := by
  unfold endSync
  split
  · exact h.frame.after_updGroup
  · exact h

theorem Keeps.after_endAny {core slot id : Nat} (h : Keeps s₀ s) : Keeps s₀ (endAny s core slot id) :=
  h.after_updGroup.after_endSync

theorem Keeps.after_updSync {ctx var : Nat} {f : SyncEntry → SyncEntry}
    (h : Keeps s₀ s) : Keeps s₀ (updSync s ctx var f) :=
  h.frame

theorem Keeps.after_relDone {ctx var seq op : Nat} (h : Keeps s₀ s) : Keeps s₀ (relDone s ctx var seq op) := by
  unfold relDone
  dsimp only
  split
  · exact h
  · exact Keeps.ite (Keeps.frame (Keeps.ite h h.after_updSync)) (Keeps.after_endSync (Keeps.ite h h.after_updSync))

theorem Keeps.after_afterRecord {ctx type seq : Nat} {rest : List DWord} {core slot op : Nat} (h : Keeps s₀ s) :
    Keeps s₀ (afterRecord s ctx type seq rest core slot op) :=
  Keeps.ite h.after_relDone h.after_endAny

theorem Keeps.after_recordOp {ctx type : Nat} {w1 : DWord} {rest : List DWord} {core slot op : Nat} (h : Keeps s₀ s) :
    Keeps s₀ (recordOp s ctx type w1 rest core slot op) :=
  Keeps.ite h.after_logWrite.after_afterRecord h.frame.after_stallAt

theorem Keeps.after_drainLogWait {ctx fuel : Nat} (h : Keeps s₀ s) : Keeps s₀ (drainLogWait s ctx fuel) := by
  induction fuel generalizing s with
  | zero => exact h
  | succ fuel ih =>
    unfold drainLogWait
    split
    · exact h
    · split
      · exact Keeps.ite (ih h.frame.after_unstall.after_logWrite.after_afterRecord) h
      · exact h

theorem Keeps.after_tailWritten {ctx : Nat} {tail : Word} (h : Keeps s₀ s) : Keeps s₀ (tailWritten s ctx tail) := by
  unfold tailWritten
  exact Keeps.ite h.after_putCtx.after_wmarkIrq.after_drainLogWait h.after_putCtx

theorem Keeps.safe_execLogTailWrite {ctx : Nat} {tail : BitVec 32} (h : Keeps s₀ s) :
    Safe s₀ (execLogTailWrite ctx tail s) :=
  .next (Keeps.ite h.after_putBar h.after_tailWritten)

theorem Keeps.after_divergeUnit {ctx : Nat} (h : Keeps s₀ s) : Keeps s₀ (divergeUnit s ctx) :=
  h.after_setStat.after_reportCtx.after_updCtx

theorem Keeps.after_meetBad {ctx : Nat} (h : Keeps s₀ s) : Keeps s₀ (meetBad s ctx) := by
  unfold meetBad
  split
  · exact h
  · split
    · exact h
    · refine Keeps.after_divergeUnit ?_
      refine h.foldl fun _ _ h => ?_
      split
      · exact h.after_tellFault
      · exact h

theorem Keeps.after_advanceRptr {ctx : Nat} {rs : List LRec} (h : Keeps s₀ s) : Keeps s₀ (advanceRptr s ctx rs) := by
  induction rs generalizing s with
  | nil => exact Keeps.ite h.after_setStat h
  | cons r rs ih => exact Keeps.ite h.after_meetBad (Keeps.ite (ih h.after_putCtx.after_updCtx) h)

theorem Keeps.after_matchRec {ctx : Nat} {r : LRec} (h : Keeps s₀ s) : Keeps s₀ (matchRec s ctx r) := by
  unfold matchRec
  exact h.after_fillNow.after_updCtx.after_advanceRptr

theorem Keeps.after_endRun {r : AtomRun} (h : Keeps s₀ s) : Keeps s₀ (endRun s r) := h.frame.after_logWrite

theorem Keeps.of_endRuns {loc n code : Nat} {keep : AtomRun → Bool} (h : Keeps s₀ s)
    (e : endRuns s loc n code keep = .ok t) : Keeps s₀ t := by
  unfold endRuns at e
  generalize List.filter _ _ = rs at e
  induction rs generalizing s with
  | nil =>
    cases e
    exact h
  | cons r rs ih =>
    rw [List.foldl_cons] at e
    dsimp only at e
    split at e
    · exact ih h.after_endRun.after_unstall e
    · exfalso
      clear ih
      induction rs with
      | nil => cases e
      | cons r' rs ih => exact ih e

theorem Keeps.go_recordAtom {g : Group} {va loc : Nat} {wide : Bool} {code : Nat} (h : Keeps s₀ s) :
    SafeGo s₀ (recordAtom s g va loc wide code) := by
  unfold recordAtom
  split
  · exact .go h.frame
  · split
    · exact .go h.frame
    · split
      · exact .go h.after_endRun.after_unstall
      · exact .stall

theorem Keeps.go_replayAtom {g : Group} {va loc : Nat} {wide : Bool} (h : Keeps s₀ s) :
    SafeGo s₀ (replayAtom s g va loc wide) := by
  -- Not `unfold`: to compare the function's value with its body the kernel would evaluate the search for the record.
  rw [show replayAtom = _ from by delta replayAtom; rfl]
  split
  · exact .diverge
  · split
    · extract_lets done others
      split
      · exact .go h.frame.after_matchRec
      · exact .go h.frame
    · exact .stall

theorem Keeps.go_atomLog {g : Group} {va loc : Nat} {wide : Bool} {op : Nat} (h : Keeps s₀ s) :
    SafeGo s₀ (atomLog s g va loc wide op) := by
  unfold atomLog
  split
  · exact .stall
  next e =>
    split
    · exact (h.of_endRuns e).go_recordAtom
    · exact (h.of_endRuns e).go_replayAtom
    · exact .go (h.of_endRuns e)

theorem Keeps.of_atomLog {g : Group} {va loc : Nat} {wide : Bool} {op : Nat} (h : Keeps s₀ s)
    (e : atomLog s g va loc wide op = .go t) : Keeps s₀ t := h.go_atomLog.of_go e

theorem Keeps.after_raiseFrontier {core seq : Nat} (h : Keeps s₀ s) : Keeps s₀ (raiseFrontier s core seq) := h.frame

/-! ## Mem -/

theorem spPut_wf {t : Team} {off : Nat} {mask : BitVec 4} {v : Word} {poison : Bool} (h : Memory.wf t.mem = true) :
    Memory.wf (spPut t off mask v poison).mem = true := memPutWord_wf _ _ _ _ h

theorem spPutD_wf {t : Team} {off : Nat} {v : DWord} (h : Memory.wf t.mem = true) : Memory.wf (spPutD t off v).mem = true :=
  spPut_wf (spPut_wf h)

theorem Keeps.after_askOp {core size : Nat} {refs : List LaneRef} (h : Keeps s₀ s) : Keeps s₀ (askOp s core size refs) :=
  h.foldl fun _ _ h => Keeps.ite h (h.foldl fun _ _ h1 => Keeps.ite h1 h1.after_askLine)

theorem Keeps.after_addOp {g : Group} {c : Clause} {m : MemForm} {refs : List LaneRef} (h : Keeps s₀ s) :
    Keeps s₀ (addOp s g c m refs).1 := by
  unfold addOp
  dsimp only
  refine Keeps.frame (s := ?_) ?_
  split
  · exact Keeps.ite h h.after_askOp
  · exact h.after_askOp
  · exact h

theorem Keeps.safe_memTrap {g : Group} {c : Clause} {dst : Nat} {fs : List (Nat × Nat × Nat)} (h : Keeps s₀ s) :
    Safe s₀ (memTrap s g c dst fs) := by
  unfold memTrap
  exact Keeps.safe_trapAt (Keeps.after_reportLanes (Keeps.ite h.after_meetBad h))

theorem Keeps.after_tellFails {g : Group} {m : MemForm} {cs : List (Nat × LaneChk)} (h : Keeps s₀ s) :
    Keeps s₀ (tellFails s g m cs) := by
  unfold tellFails
  exact h.after_dropFails.after_reportLanes

theorem Keeps.safe_memFinish {m : MemForm} {g : Group} {c : Clause} {refs : List LaneRef} {fs : List (Nat × Nat × Nat)}
    (h : Keeps s₀ s) : Safe s₀ (memFinish m s g c refs fs) := by
  unfold memFinish
  dsimp only
  split
  · refine .next ?_
    refine Keeps.after_startBatch ?_
    split
    · exact h.after_dropFails
    · exact h.after_dropFails.after_addOp
  · split
    · refine Keeps.safe_retire ?_
      split
      · exact h.after_dropFails
      · exact h.after_dropFails.after_addOp
    · refine Keeps.safe_memTrap ?_
      split
      · exact h.after_dropFails
      · exact h.after_dropFails.after_addOp

theorem Keeps.safe_memStart {m : MemForm} {k : Group → Clause → Mask → Res} (h : Keeps s₀ s)
    (hk : ∀ g c act, Safe s₀ (k g c act)) : Safe s₀ (memStart m k s) := by
  refine .withIssuer fun g c => ?_
  split
  · exact h.safe_trapAt
  · exact .ite h.safe_waits (.ite h.safe_retire (.ite h.safe_trapAt (hk _ _ _)))

theorem Keeps.safe_memIssue {m : MemForm} (h : Keeps s₀ s) : Safe s₀ (memIssue m s) :=
  h.safe_memStart fun _ _ _ => .ite (.ite h.safe_waits h.safe_memFinish) (.next (h.foldl fun _ _ h1 => h1.after_askWalk))

theorem Keeps.after_finishOp {core slot id : Nat}
    (h : Keeps s₀ s) : Keeps s₀ (finishOp s core slot id) := h.after_updGroup

theorem Keeps.after_trapLanes {core slot id : Nat} {bad : LaneRef → Option (Nat × Nat)} (h : Keeps s₀ s) :
    Keeps s₀ (trapLanes s core slot id bad) := by
  unfold trapLanes
  dsimp only
  split
  · exact h
  · exact h.after_dropAhead.after_reportLanes.after_takeTrap

/-! ## Reduce -/

theorem Keeps.after_redAdd {g : Group} {form : RedForm} {refs : List LaneRef} {r : LaneRef} (h : Keeps s₀ s) :
    Keeps s₀ (redAdd s g form refs r) := by
  unfold redAdd
  exact Keeps.ite h.frame h.frame

theorem Keeps.after_redAddAll {g : Group} {form : RedForm} {refs : List LaneRef} (h : Keeps s₀ s) :
    Keeps s₀ (redAddAll s g form refs) :=
  h.foldl fun _ _ h => h.after_redAdd

theorem Keeps.after_closeReds {g : Group} (h : Keeps s₀ s) : Keeps s₀ (closeReds s g) := h.frame

theorem Keeps.after_foldNode {n : RedNode} (h : Keeps s₀ s) : Keeps s₀ (foldNode s n) := by
  unfold foldNode
  exact Keeps.ite h.frame h.frame

theorem Keeps.safe_execRedNodeFold {idx : Nat} (h : Keeps s₀ s) : Safe s₀ (execRedNodeFold idx s) := by
  unfold execRedNodeFold
  split
  · exact .ite (.next h.after_foldNode) (.next h)
  · exact .next h

theorem Keeps.after_rootAsks {n : RedNode} (h : Keeps s₀ s) : Keeps s₀ (rootAsks s n) := by
  unfold rootAsks
  exact Keeps.getD h.after_recallWords fun _ e => h.after_recallWords.of_snoopFirst e

theorem Keeps.after_claimWords {ws : List Nat} (h : Keeps s₀ s) : Keeps s₀ (claimWords s ws) :=
  h.foldl fun _ _ h => Keeps.ite h.after_overtake.after_putHostLine h.after_overtake

theorem Keeps.after_rootCombine {n : RedNode} (h : Keeps s₀ s) : Keeps s₀ (rootCombine s n) := by
  unfold rootCombine
  exact Keeps.ite h.after_claimWords.after_homeWrite.after_homeWrite h.after_claimWords.after_homeWrite

theorem Keeps.go_rootLog {n : RedNode} (h : Keeps s₀ s) : SafeGo s₀ (rootLog s n) := by
  rw [show rootLog = _ from by delta rootLog; rfl]
  dsimp only
  split
  · exact .stall
  next e =>
    split
    · split
      · exact .go (h.of_endRuns e).after_logWrite.after_unstall
      · exact .stall
    · split
      · exact .diverge
      · split
        · exact .go (h.of_endRuns e).after_matchRec
        · exact .stall
    · exact .go (h.of_endRuns e)

theorem Keeps.of_rootLog {n : RedNode} (h : Keeps s₀ s) (e : rootLog s n = .go t) : Keeps s₀ t := h.go_rootLog.of_go e

/-! ## MemRun -/

theorem Keeps.after_alsoAhead {core slot : Nat} {f : Group → Group}
    (h : Keeps s₀ s) : Keeps s₀ (alsoAhead s core slot f) :=
  h.frame

theorem Keeps.after_deliver {g : Group} {f : Group → Group} (h : Keeps s₀ s) : Keeps s₀ (deliver s g f) :=
  h.after_updGroup.after_alsoAhead

theorem Keeps.after_endLoad {g : Group} {o : MemOp} {races : List (Nat × Nat)} (h : Keeps s₀ s) :
    Keeps s₀ (endLoad s g o races) := by
  unfold endLoad
  split
  · exact h.after_finishOp
  · exact h.after_recordOp

theorem Keeps.after_completeLoad {g : Group} {o : MemOp} (h : Keeps s₀ s) : Keeps s₀ (completeLoad s g o) := by
  unfold completeLoad
  dsimp only
  split
  next e => exact h.of_snoopFirst e
  · exact h.after_askOp
  · split
    · exact h
    · split
      · exact Keeps.after_endLoad (Keeps.after_deliver (h.foldl fun _ _ h => h.after_readHome))
      · exact Keeps.after_endLoad (Keeps.after_deliver (h.foldl fun _ _ h => h.after_readHome))
      · exact h.foldl fun _ _ h => h.after_readHome

theorem Keeps.after_cleanDirty {who : Agent} {w : Nat} (h : Keeps s₀ s) : Keeps s₀ (cleanDirty s who w) := by
  unfold cleanDirty
  split
  · exact Keeps.ite h.after_putCopy h
  · exact h

theorem Keeps.after_sendAtq {core ctx va : Nat} {ws : List Nat} (h : Keeps s₀ s) : Keeps s₀ (sendAtq s core ctx va ws) :=
  Keeps.ite h (Keeps.after_send (Keeps.after_voidFills (h.foldl fun _ _ h => h.after_cleanDirty.after_cleanDirty)))

theorem Keeps.after_atomPrepare {core ctx : Nat} {r : LaneRef} {bytes : Nat} (h : Keeps s₀ s) :
    Keeps s₀ (atomPrepare s core ctx r bytes) := by
  unfold atomPrepare
  dsimp only
  refine h.foldl fun _ _ h => ?_
  split
  · refine Keeps.after_putHostLine ?_
    split
    · exact Keeps.ite h.after_moveAway h
    · exact h
  · split
    · split
      · exact Keeps.ite h.after_moveAway h
      · exact h
    · exact h

theorem Keeps.after_atomPut {core ctx : Nat} {r : LaneRef} {bytes : Nat} {v : DWord} {poison : Bool} (h : Keeps s₀ s) :
    Keeps s₀ (atomPut s core ctx r bytes v poison) := by
  unfold atomPut
  exact Keeps.ite (Keeps.ite (Keeps.after_l1Store (Keeps.after_overtake
    (Keeps.ite h.after_overtake.after_l1Store h.after_overtake.after_homeWrite))) (Keeps.after_homeWrite
      (Keeps.after_overtake (Keeps.ite h.after_overtake.after_l1Store h.after_overtake.after_homeWrite))))
        (Keeps.ite h.after_overtake.after_l1Store h.after_overtake.after_homeWrite)

theorem Keeps.after_atomLane {core slot id : Nat} {fn : AtomFn} {bytes : Nat} {r : LaneRef} (h : Keeps s₀ s) :
    Keeps s₀ (atomLane s core slot id fn bytes r) := by
  unfold atomLane
  dsimp only
  split
  · exact h
  · split
    · exact Keeps.ite h.after_stallAt h
    · exact h.after_meetBad.after_trapLanes
    next e =>
      exact Keeps.after_deliver (Keeps.after_atomPut (Keeps.ite (h.of_atomLog e) (h.of_atomLog e).after_atomPrepare))

theorem Keeps.after_atomPass {g : Group} {o : MemOp} {fn : AtomFn} {bytes : Nat} {came : List Nat} (h : Keeps s₀ s) :
    Keeps s₀ (atomPass s g o fn bytes came) := by
  unfold atomPass
  dsimp only
  split
  · split
    · refine Keeps.after_finishOp ?_
      refine h.foldl fun _ _ h => ?_
      split
      · exact Keeps.ite h.after_atomLane h.after_sendAtq
      · split
        · exact h.after_atomLane
        · split
          · split
            next e => exact h.of_snoopFirst e
            · exact h.after_atomLane
          · exact h.after_recallWords
    · refine h.foldl fun _ _ h => ?_
      split
      · exact Keeps.ite h.after_atomLane h.after_sendAtq
      · split
        · exact h.after_atomLane
        · split
          · split
            next e => exact h.of_snoopFirst e
            · exact h.after_atomLane
          · exact h.after_recallWords
  · refine h.foldl fun _ _ h => ?_
    split
    · exact Keeps.ite h.after_atomLane h.after_sendAtq
    · split
      · exact h.after_atomLane
      · split
        · split
          next e => exact h.of_snoopFirst e
          · exact h.after_atomLane
        · exact h.after_recallWords

theorem Keeps.after_runAtoms {core : Nat} {ws : List Nat} (h : Keeps s₀ s) : Keeps s₀ (runAtoms s core ws) := by
  unfold runAtoms
  split
  · exact h
  · split
    · exact h.after_atomPass
    · exact h

theorem Keeps.safe_execLoadComplete {core slot id : Nat}
    (h : Keeps s₀ s) : Safe s₀ (execLoadComplete core slot id s) := by
  unfold execLoadComplete
  split
  · exact .next h
  · split
    · exact .next h.after_trapLanes
    · split
      · split
        · exact .next h.after_completeLoad
        · exact .next h.after_completeLoad
        · exact .next (Keeps.ite h h.after_atomPass)
        · exact .next h
      · exact .next h

theorem Keeps.of_evenPair {core ctx w : Nat} (h : Keeps s₀ s) (e : evenPair s core ctx w = some t) : Keeps s₀ t := by
  unfold evenPair at e
  extract_lets one a b at e
  have hone (x : Nat) (e : one x = some t) : Keeps s₀ t := by
    simp only [one] at e
    split at e
    · obtain ⟨-, ⟨⟩⟩ := Option.ite_none_right_eq_some.1 e
      exact h.after_holdAndSend
    · cases e
      exact h
  split at e
  · cases e
  split at e
  · exact hone _ e
  split at e
  · exact hone _ e
  · cases e
    exact h

theorem Keeps.of_homeWaits {o : MemOp} (h : Keeps s₀ s) (e : homeWaits s o = some t) : Keeps s₀ t := by
  unfold homeWaits at e
  dsimp only at e
  split at e
  next e' =>
    cases e
    exact h.of_snoopFirst e'
  · split at e
    · cases e
      exact h
    · obtain ⟨-, ⟨⟩⟩ := Option.ite_none_left_eq_some.1 e
      exact h.after_recallWords

theorem Keeps.of_evenPairs {core ctx : Nat} {ws : List Nat} {o : Option State} (ho : ∀ s, o = some s → Keeps s₀ s)
    (e : ws.foldl (fun acc w => acc.bind fun s => evenPair s core ctx w) o = some t) : Keeps s₀ t := by
  induction ws generalizing o with
  | nil => exact ho t e
  | cons w ws ih =>
    refine ih (fun s e' => ?_) e
    obtain ⟨u, hu, e'⟩ := Option.bind_eq_some_iff.1 e'
    exact (ho u hu).of_evenPair e'

theorem Keeps.of_storeReady {g : Group} {o : MemOp} (h : Keeps s₀ s) (e : storeReady s g o = some t) : Keeps s₀ t := by
  obtain ⟨u, hu, e⟩ := Option.bind_eq_some_iff.1 e
  have hu := h.of_l1Reserve hu
  split at e
  · cases e
    exact hu
  · exact Keeps.of_evenPairs (fun s e => Option.some.inj e ▸ hu) e

theorem Keeps.after_storeLane {g : Group} {o : MemOp} {r : LaneRef} (h : Keeps s₀ s) : Keeps s₀ (storeLane s g o r) := by
  refine h.foldl fun _ _ h => Keeps.ite ?_ (Keeps.ite h.after_l1Store h.after_overtake.after_homeWrite)
  split
  · exact h.after_updTeam fun _ hm => spPut_wf hm
  · exact h

theorem Keeps.after_barStep {g : Group} {o : MemOp} {t : Team} {form : BarForm} {off arg : Nat} {phase : Option Bool}
    (h : Keeps s₀ s) : Keeps s₀ (barStep s g o t form off arg phase) := by
  unfold barStep
  dsimp only
  split
  · exact (h.after_updTeam fun _ hu => spPutD_wf hu).after_finishOp
  · exact Keeps.ite h.after_finishOp h
  · exact Keeps.ite h (h.after_updTeam fun _ hu => spPutD_wf hu).after_updGroup.after_finishOp
  · split
    · exact Keeps.ite h.after_finishOp h
    · exact Keeps.ite h (Keeps.ite (h.after_updTeam fun _ hu => spPutD_wf hu).after_finishOp
        (h.after_updTeam fun _ hu => spPutD_wf hu).after_updGroup)

theorem Keeps.safe_execStoreComplete {core slot id : Nat}
    (h : Keeps s₀ s) : Safe s₀ (execStoreComplete core slot id s) := by
  unfold execStoreComplete
  split
  · exact .next h
  · split
    · split
      · split
        next e => exact .next (h.of_homeWaits e)
        next e => exact .next (Keeps.after_finishOp ((h.of_storeReady e).foldl fun _ _ h => h.after_storeLane))
        · exact .next h
      · exact .next h
    · exact .next h.after_finishOp
    · split
      · exact .next h.after_barStep
      · exact .next h.after_finishOp
    · exact .ite (.next h) (.next h.after_finishOp)
    · exact .next h

/-! ## MemInstr -/

theorem Keeps.safe_ldgT {f : M} {ox : Option Ox} {size : Nat} (h : Keeps s₀ s) : Safe s₀ (ldgT f ox size s) := by
  unfold ldgT
  dsimp only
  split
  · exact h.safe_memIssue
  · exact .ite h.safe_memIssue (h.safe_memStart fun _ _ _ => .ite h.safe_waits (Keeps.safe_memFinish
      (h.foldl fun _ _ h1 => h1.after_askWalk)))

theorem Keeps.after_askRdc {line : Nat}
    (h : Keeps s₀ s) : Keeps s₀ (askRdc s line) := Keeps.ite h (Keeps.ite h h.after_send)

theorem Keeps.safe_prefetch {f : MP} {ox : Option Ox} {ask : State → Nat → Nat → State} (h : Keeps s₀ s)
    (hask : ∀ s core w, Keeps s₀ s → Keeps s₀ (ask s core w)) : Safe s₀ (prefetch f ox ask s) := by
  unfold prefetch
  refine h.safe_memStart fun _ _ _ => .ite (Keeps.safe_retire ?_) (.next (h.foldl fun _ _ h => h.after_askWalk))
  exact h.after_tellFails.foldl fun _ _ h => hask _ _ _ h

theorem Keeps.after_askL2 {line : Nat} (h : Keeps s₀ s) : Keeps s₀ (askL2 s line) :=
  Keeps.ite (Keeps.getD h fun _ e => h.of_cacheLine e) h.after_askRdc

theorem Keeps.safe_redIssue {f : M} {ox : Option Ox} {form : RedForm}
    (h : Keeps s₀ s) : Safe s₀ (redIssue f ox form s) := by
  unfold redIssue
  exact h.safe_memStart fun _ _ _ => .ite (.ite h.safe_waits (.ite h.safe_waits h.after_redAddAll.safe_memFinish)) (.next
    (h.foldl fun _ _ h1 => h1.after_askWalk))

theorem Keeps.safe_groupIssueFor {ctr : BitVec 3} {lanes : Group → Clause → Mask} {scals : List Nat}
    {k : Group → Clause → Mask → Res} (h : Keeps s₀ s) (hk : ∀ g c act, Safe s₀ (k g c act)) :
    Safe s₀ (groupIssueFor ctr lanes scals k s) :=
  .withIssuer fun _ _ => .ite h.safe_waits (.ite h.safe_retire (.ite h.safe_trapAt (hk _ _ _)))

theorem Keeps.safe_groupIssue {ctr : BitVec 3} {ox : Option Ox} {scals : List Nat} {k : Group → Clause → Mask → Res}
    (h : Keeps s₀ s) (hk : ∀ g c act, Safe s₀ (k g c act)) : Safe s₀ (groupIssue ctr ox scals k s) :=
  h.safe_groupIssueFor hk

theorem Keeps.safe_retireOp {g : Group} {c : Clause} {ctr : BitVec 3} {kind : OpKind} {dst : Nat} (h : Keeps s₀ s) :
    Safe s₀ (retireOp s g c ctr kind dst) :=
  h.frame.safe_retire

theorem Keeps.safe_barIssue {ctr : BitVec 3} {ox : Option Ox} {base : BitVec 5} {scals : List Nat} {dst : Nat} {form : BarForm} {arg : Group → Nat}
    (h : Keeps s₀ s) : Safe s₀ (barIssue ctr ox base scals dst form arg s) := by
  unfold barIssue
  dsimp only
  refine h.safe_groupIssue fun _ _ _ => ?_
  split
  · exact h.safe_trapAt
  · split
    · exact h.safe_trapAt
    · exact .ite h.safe_retireOp h.safe_trapAt

theorem Keeps.safe_drainIssue {ctr : BitVec 3} {ox : Option Ox} {m : DrainMem} (h : Keeps s₀ s) :
    Safe s₀ (drainIssue ctr ox m s) :=
  h.safe_groupIssue fun _ _ _ => h.safe_retireOp

theorem Keeps.safe_execLogmark {f : MB} {ox : Option Ox} (h : Keeps s₀ s) : Safe s₀ (execLogmark f ox s) := by
  unfold execLogmark
  dsimp only
  refine h.safe_groupIssue fun _ _ _ => ?_
  split
  · exact .next h.frame.after_setGroup.after_recordOp
  · split
    · exact .ite h.after_matchRec.safe_retire h.after_meetBad.safe_trapAt
    · exact h.after_meetBad.safe_trapAt
  · exact h.safe_retire

theorem Keeps.safe_execLduB32 {f : MS} {ox : Option Ox} (h : Keeps s₀ s) : Safe s₀ (execLduB32 f ox s) := h.safe_memIssue

theorem Keeps.safe_execLduB64 {f : MS} {ox : Option Ox} (h : Keeps s₀ s) : Safe s₀ (execLduB64 f ox s) := h.safe_memIssue

theorem Keeps.safe_execLduB128 {f : MS} {ox : Option Ox}
    (h : Keeps s₀ s) : Safe s₀ (execLduB128 f ox s) := h.safe_memIssue

theorem Keeps.safe_execLduB256 {f : MS} {ox : Option Ox}
    (h : Keeps s₀ s) : Safe s₀ (execLduB256 f ox s) := h.safe_memIssue

theorem Keeps.safe_execLduB512 {f : MS} {ox : Option Ox}
    (h : Keeps s₀ s) : Safe s₀ (execLduB512 f ox s) := h.safe_memIssue

theorem Keeps.safe_execStuB32 {f : MS} {ox : Option Ox} (h : Keeps s₀ s) : Safe s₀ (execStuB32 f ox s) := h.safe_memIssue

theorem Keeps.safe_execStuB64 {f : MS} {ox : Option Ox} (h : Keeps s₀ s) : Safe s₀ (execStuB64 f ox s) := h.safe_memIssue

theorem Keeps.safe_execPfL1 {f : MP} {ox : Option Ox} (h : Keeps s₀ s) : Safe s₀ (execPfL1 f ox s) :=
  h.safe_prefetch fun _ _ _ h => h.after_askLine

theorem Keeps.safe_execPfL2 {f : MP} {ox : Option Ox} (h : Keeps s₀ s) : Safe s₀ (execPfL2 f ox s) :=
  h.safe_prefetch fun _ _ _ h => h.after_askL2

theorem Keeps.safe_execPfRdc {f : MP} {ox : Option Ox} (h : Keeps s₀ s) : Safe s₀ (execPfRdc f ox s) :=
  h.safe_prefetch fun _ _ _ h => h.after_askL2

/-! ## Sync -/

theorem Keeps.safe_retireSync {g : Group} {c : Clause} {ctr : BitVec 3} {o : SyncOp} (h : Keeps s₀ s) :
    Safe s₀ (retireSync s g c ctr o) :=
  h.frame.safe_retire

theorem Keeps.safe_divergeAt {g : Group} {c : Clause} {act : Mask} {r : Option LRec} (h : Keeps s₀ s) :
    Safe s₀ (divergeAt s g c act r) :=
  h.after_meetBad.safe_trapAt

theorem Keeps.safe_execAcq {f : MQ} {ox : Option Ox} (h : Keeps s₀ s) : Safe s₀ (execAcq f ox s) := by
  refine h.safe_groupIssue fun _ _ _ => ?_
  split
  · split
    · exact .ite h.after_matchRec.safe_retireSync h.safe_divergeAt
    · exact h.safe_divergeAt
  · exact h.safe_retireSync

theorem Keeps.safe_relIssue {f : MQ} {ox : Option Ox} {acq : Bool} (h : Keeps s₀ s) : Safe s₀ (relIssue f ox acq s) := by
  unfold relIssue
  dsimp only
  refine h.safe_groupIssue fun _ _ _ => ?_
  split
  · split
    · split
      · exact h.safe_divergeAt
      · split
        · split
          · exact .ite h.safe_retireSync h.safe_divergeAt
          · exact h.safe_divergeAt
        · exact h.safe_retireSync
    · exact h.safe_divergeAt
  · exact h.safe_retireSync

theorem Keeps.safe_execInvRgn {f : MR} {ox : Option Ox} (h : Keeps s₀ s) : Safe s₀ (execInvRgn f ox s) :=
  h.safe_groupIssue fun _ _ _ => .ite h.after_acquireAt.safe_retireSync (.next h.after_acquireAt)

theorem Keeps.after_saveEntry {e : SyncEntry} {i : Nat} (h : Keeps s₀ s) : Keeps s₀ (saveEntry s e i) := by
  unfold saveEntry
  exact h.frame.after_writeDevs.after_updCtx

theorem Keeps.after_evictEntry {e : SyncEntry} (h : Keeps s₀ s) : Keeps s₀ (evictEntry s e).1 := by
  unfold evictEntry
  dsimp only
  split
  · refine Keeps.after_updSync ?_
    split
    · exact h.after_catchUp
    · exact h
  · split
    · split
      · exact h
      · split
        · exact h.frame
        · split
          · exact h.frame.after_saveEntry.after_unstall
          · exact h.after_stallAt
    · split
      · exact h
      · split
        · exact h.frame
        · split
          · exact h.frame.after_saveEntry.after_unstall
          · exact h.after_stallAt

theorem Keeps.after_createEntry {ctx var : Nat} (h : Keeps s₀ s) : Keeps s₀ (createEntry s ctx var) := by
  unfold createEntry
  split
  · exact h.frame.after_updCtx.after_unstall
  · exact h

theorem Keeps.after_roomForEntry {ctx var : Nat} (h : Keeps s₀ s) : Keeps s₀ (roomForEntry s ctx var).1 := by
  unfold roomForEntry
  split
  · exact h
  · split
    · exact h.after_evictEntry
    · exact h

theorem Keeps.after_setSync {id : Nat} {f : SyncOp → SyncOp} (h : Keeps s₀ s) : Keeps s₀ (setSync s id f) := h.frame

theorem Keeps.after_syncAcked {o : SyncOp} {g : Group} (h : Keeps s₀ s) : Keeps s₀ (syncAcked s o g) :=
  Keeps.ite h.after_setSync (Keeps.ite h.after_recordOp h.after_relDone)

theorem Keeps.after_settleSyncs (h : Keeps s₀ s) : Keeps s₀ (settleSyncs s) := by
  unfold settleSyncs
  refine h.after_settleEnds.foldl fun _ _ h => ?_
  split
  · exact h
  · split
    · exact Keeps.ite h h.after_syncAcked
    · exact h

theorem Keeps.after_tableStep {ctx : Nat} {who : Bool × Nat × Nat} {o : SyncOp} {fixed : Option Nat} (h : Keeps s₀ s) :
    Keeps s₀ (tableStep s ctx who o fixed).1 := by
  unfold tableStep
  dsimp only
  split
  · refine Keeps.after_updSync ?_
    split
    · exact Keeps.after_catchUp (Keeps.ite (Keeps.after_unstall (Keeps.frame (Keeps.ite h.after_createEntry h)))
        (Keeps.frame (Keeps.ite h.after_createEntry h)))
    · exact Keeps.ite (Keeps.after_unstall (Keeps.frame (Keeps.ite h.after_createEntry h))) (Keeps.frame
        (Keeps.ite h.after_createEntry h))
  · split
    · exact Keeps.after_catchUp (Keeps.ite (Keeps.after_unstall (Keeps.frame (Keeps.ite h.after_createEntry h)))
        (Keeps.frame (Keeps.ite h.after_createEntry h)))
    · exact Keeps.ite (Keeps.after_unstall (Keeps.frame (Keeps.ite h.after_createEntry h))) (Keeps.frame
        (Keeps.ite h.after_createEntry h))

theorem Keeps.after_performOp {g : Group} {o : SyncOp} (h : Keeps s₀ s) : Keeps s₀ (performOp s g o) := by
  unfold performOp
  dsimp only
  split
  next e => exact h.after_roomForEntry.of_fst e
  next e =>
    exact Keeps.after_settleSyncs (Keeps.after_setSync (Keeps.ite
      (h.after_roomForEntry.of_fst e).after_tableStep.after_releaseAt (h.after_roomForEntry.of_fst e).after_tableStep))

theorem Keeps.safe_execSyncTableOp (h : Keeps s₀ s) : Safe s₀ (execSyncTableOp s) := by
  unfold execSyncTableOp
  dsimp only
  split
  · exact .next h
  · split
    · exact .next h
    · exact .ite (.next h.after_performOp) (.next h.after_meetBad.frame.after_takeTrap)

theorem Keeps.after_beginRel {g : Group} {o : SyncOp} {eff seq : Nat} (h : Keeps s₀ s) :
    Keeps s₀ (beginRel s g o eff seq) := by
  unfold beginRel
  exact Keeps.frame (Keeps.ite h.after_releaseAt h)

theorem Keeps.safe_execRelBegin {core slot : Nat} (h : Keeps s₀ s) : Safe s₀ (execRelBegin core slot s) := by
  unfold execRelBegin
  split
  · split
    · split
      · split
        · exact .next h.after_matchRec.after_beginRel
        · exact .next h
      · exact .next h.after_beginRel
    · exact .next h
  · exact .next h

theorem Keeps.after_matchAcq {g : Group} {o : SyncOp} (h : Keeps s₀ s) : Keeps s₀ (matchAcq s g o) := by
  unfold matchAcq
  split
  · split
    · exact h.after_matchRec
    · exact h
  · exact h

theorem Keeps.after_acquireStep {o : SyncOp} {g : Group} (h : Keeps s₀ s) : Keeps s₀ (acquireStep s o g).1 := by
  unfold acquireStep
  exact h.after_acquireAt

theorem Keeps.safe_execAcqComplete {core slot : Nat} (h : Keeps s₀ s) : Safe s₀ (execAcqComplete core slot s) := by
  unfold execAcqComplete
  dsimp only
  split
  · split
    · exact .next h
    · split
      · exact .next h.after_endSync
      · split
        · exact .next h
        · split
          · exact .next h.after_acquireStep
          · split
            · refine .next ?_
              refine Keeps.after_recordOp ?_
              split
              · exact Keeps.ite h.after_acquireStep.after_raiseFrontier h.after_acquireStep
              · exact h.after_acquireStep
            · refine .next ?_
              refine Keeps.after_endSync ?_
              refine Keeps.after_matchAcq ?_
              split
              · exact Keeps.ite h.after_acquireStep.after_raiseFrontier h.after_acquireStep
              · exact h.after_acquireStep
  · exact .next h

/-! ## Flush -/

theorem Keeps.after_resetRoots {ctx : Nat} {ns : List RedNode} (h : Keeps s₀ s) : Keeps s₀ (resetRoots ctx ns s) := by
  induction ns generalizing s with
  | nil => exact h
  | cons n ns ih => exact Keeps.ite (ih h.after_rootCombine.frame) h.after_rootAsks

theorem Keeps.after_flushStep {ctx : Nat} (h : Keeps s₀ s) : Keeps s₀ (flushStep s ctx) := by
  unfold flushStep
  dsimp only
  split
  · exact h
  · exact Keeps.ite (Keeps.after_reportCtx (Keeps.after_updCtx (Keeps.after_resetRoots
      (h.foldl fun _ _ h => Keeps.ite h.after_evictL1 h)))) (Keeps.after_updCtx (Keeps.after_resetRoots
        (h.foldl fun _ _ h => Keeps.ite h.after_evictL1 h)))

theorem Keeps.after_settleFlush (h : Keeps s₀ s) : Keeps s₀ (settleFlush s) := h.foldl fun _ _ h => h.after_flushStep

/-! ## Messages -/

theorem Keeps.safe_execBiasMerge {base : Nat} (h : Keeps s₀ s) : Safe s₀ (execBiasMerge base s) := by
  unfold execBiasMerge
  dsimp only
  split
  · exact .next h
  · split
    · exact .next h
    · exact .ite (.next h.frame) (.next h)

theorem Keeps.of_arrive_error {kind : MsgKind} {src dst : Agent} (h : Keeps s₀ s)
    (e : arrive s kind src dst = .error t) : Keeps s₀ t := by
  unfold arrive at e
  split at e
  · cases e
    exact h
  · split at e
    · split at e
      · cases e
        exact h
      split at e
      · cases e
        exact h
      split at e
      · cases e
        exact h.frame
      · cases e
    · cases e

theorem Keeps.of_arrive_ok {kind : MsgKind} {src dst : Agent} {m : Msg} (h : Keeps s₀ s)
    (e : arrive s kind src dst = .ok (m, t)) : Keeps s₀ t := by
  unfold arrive at e
  split at e
  · cases e
  next e' =>
    split at e
    · split at e
      · cases e
      split at e
      · cases e
      split at e
      · cases e
      · cases e
        exact (h.of_receive e').frame
    · cases e
      exact h.of_receive e'

theorem Keeps.after_answerRead {home requester : Agent} {line : Nat} {void : Bool} (h : Keeps s₀ s) :
    Keeps s₀ (answerRead s home requester line void) := by
  unfold answerRead
  exact h.after_send.foldl fun _ _ h => h.after_send

theorem Keeps.after_rdcServe {line : Nat} (h : Keeps s₀ s) : Keeps s₀ (rdcServe s line) := by
  unfold rdcServe
  dsimp only
  split
  · exact h
  · split
    · exact h.frame.foldl fun _ _ h => h.after_send
    · exact Keeps.ite h h.after_send

theorem Keeps.safe_execRdq {src dst : Agent} (h : Keeps s₀ s) : Safe s₀ (execRdq src dst s) := by
  unfold execRdq
  split
  next e => exact .next (h.of_arrive_error e)
  next e =>
    split
    · exact .next (h.of_arrive_ok e).frame.after_rdcServe
    · exact .ite (.next (h.of_arrive_ok e).after_answerRead) (.next (h.of_arrive_ok e).frame)
    · exact .next (h.of_arrive_ok e).after_answerRead

theorem Keeps.safe_execL2FillComplete {line : Nat} (h : Keeps s₀ s) : Safe s₀ (execL2FillComplete line s) := by
  unfold execL2FillComplete
  dsimp only
  split
  · exact .next h
  · split
    · exact .next h
    next e => exact .next ((h.of_cacheLine e).frame.foldl fun _ _ h => h.after_answerRead)

theorem Keeps.safe_execBackInvalidationAnswer {line : Nat}
    (h : Keeps s₀ s) : Safe s₀ (execBackInvalidationAnswer line s) :=
  .ite (.next h.frame.after_biasAccess) (.next h)

theorem Keeps.after_fillWord {who : Agent} {v : WordVal} (h : Keeps s₀ s) : Keeps s₀ (fillWord s who v) := by
  unfold fillWord
  dsimp only
  split
  · split
    · split
      · exact h.after_l1MakeRoom
      · split
        · exact h.after_l1MakeRoom
        · exact h.after_l1MakeRoom.after_putCopy
        · exact h.after_l1MakeRoom.after_putCopy
    · split
      · exact h.after_l1MakeRoom
      · split
        · exact h.after_l1MakeRoom
        · exact h.after_l1MakeRoom.after_putCopy
        · exact h.after_l1MakeRoom.after_putCopy
  · split
    · exact h
    · split
      · exact h
      · exact h.after_putCopy
      · exact h.after_putCopy

theorem Keeps.after_fillWords {who : Agent} {m : Msg} (h : Keeps s₀ s) : Keeps s₀ (fillWords s who m) :=
  Keeps.ite h (h.foldl fun _ _ h => h.after_fillWord)

theorem Keeps.after_ownWord {who : Agent} {v : WordVal} (h : Keeps s₀ s) : Keeps s₀ (ownWord s who v) := by
  unfold ownWord
  split
  · exact h.after_moveToRdc
  · split
    · exact h.after_putCopy
    · exact h.after_putCopy

theorem Keeps.after_farAtoms {u : Nat} {ws : List Nat} (h : Keeps s₀ s) : Keeps s₀ (farAtoms s u ws) := by
  unfold farAtoms
  dsimp only
  refine h.frame.foldl fun _ _ h => ?_
  split
  · exact h.after_putCopy
  · exact h

theorem Keeps.after_ownWords {who : Agent} {vals : List WordVal} (h : Keeps s₀ s) : Keeps s₀ (ownWords s who vals) := by
  unfold ownWords
  dsimp only
  split
  · exact Keeps.after_runAtoms (h.foldl fun _ _ h => h.after_ownWord)
  · exact Keeps.after_farAtoms (h.foldl fun _ _ h => h.after_ownWord)
  · exact h.foldl fun _ _ h => h.after_ownWord

theorem Keeps.of_ownPlace_error {who : Agent} {line : Nat} {ws : List Nat} (h : Keeps s₀ s)
    (e : ownPlace s who line ws = .error t) : Keeps s₀ t := by
  unfold ownPlace at e
  split at e
  · split at e
    · cases e
      exact h.after_stallAt
    · split at e <;> cases e
      exact h
  · cases e

theorem Keeps.of_ownPlace_ok {who : Agent} {line : Nat} {ws : List Nat} (h : Keeps s₀ s)
    (e : ownPlace s who line ws = .ok t) : Keeps s₀ t := by
  unfold ownPlace at e
  split at e
  · split at e
    · cases e
    · split at e
      next e' =>
        cases e
        exact h.of_l1Reserve e'
      · cases e
  · cases e
    exact h

theorem Keeps.after_ownArrive {s' : State} {who : Agent} {m : Msg}
    (h : Keeps s₀ s) : Keeps s₀ (ownArrive s s' who m) := by
  unfold ownArrive
  split
  next e => exact h.of_ownPlace_error e
  next e => exact (h.of_ownPlace_ok e).frame.after_ownWords

theorem Keeps.safe_execData {src dst : Agent} (h : Keeps s₀ s) : Safe s₀ (execData src dst s) := by
  unfold execData
  dsimp only
  split
  · exact .next h
  next e =>
    split
    · exact .next h.after_ownArrive
    · split
      · exact .ite (.next h) (.ite (.next (Keeps.after_rdcServe (Keeps.ite (h.of_receive e)
          (h.of_receive e).after_putHostLine))) (.next (h.of_receive e).after_fillWords.after_rdcServe))
      · exact .next (h.of_receive e).after_fillWords
      · exact .next (h.of_receive e)

theorem Keeps.safe_execFwd {src dst : Agent} (h : Keeps s₀ s) : Safe s₀ (execFwd src dst s) := by
  unfold execFwd
  dsimp only
  split
  · exact .next h
  next e => exact .ite (.next h) (.next (h.of_receive e).after_send)

theorem Keeps.safe_execFrep {src dst : Agent} (h : Keeps s₀ s) : Safe s₀ (execFrep src dst s) := by
  unfold execFrep
  split
  · exact .next h
  next e =>
    split
    · exact .next (h.of_receive e).after_fillWords.after_rdcServe
    · exact .next (h.of_receive e).after_fillWords
    · exact .next (h.of_receive e)

theorem Keeps.safe_execReg {src dst : Agent} (h : Keeps s₀ s) : Safe s₀ (execReg src dst s) := by
  unfold execReg
  split
  next e => exact .next (h.of_arrive_error e)
  next e =>
    split
    · exact .next h
    next e1 => exact .next ((h.of_arrive_ok e).of_cacheLine e1).after_registerAt.after_send

theorem Keeps.safe_execMrg {src dst : Agent} (h : Keeps s₀ s) : Safe s₀ (execMrg src dst s) := by
  unfold execMrg
  split
  next e => exact .next (h.of_arrive_error e)
  next e => exact .next (Keeps.after_send ((h.of_arrive_ok e).foldl fun _ _ h => h.after_mergeAt))

theorem Keeps.after_mergeHeld {who : Agent} {held : Held} {v : WordVal} (h : Keeps s₀ s) :
    Keeps s₀ (mergeHeld s who held v) := by
  unfold mergeHeld
  exact h.frame.after_send

theorem Keeps.safe_execMfwd {src dst : Agent} (h : Keeps s₀ s) : Safe s₀ (execMfwd src dst s) := by
  unfold execMfwd
  split
  · exact .next h
  next e =>
    split
    · exact .next h
    · refine .next ?_
      refine (h.of_receive e).foldl fun _ _ h => ?_
      split
      · exact h.after_mergeHeld
      · split
        · exact h.after_putCopy
        · exact h

theorem Keeps.safe_execRack {src dst : Agent} (h : Keeps s₀ s) : Safe s₀ (execRack src dst s) := by
  unfold execRack
  split
  · exact .next h
  next e => exact .next (h.of_receive e).after_settleSyncs

theorem Keeps.safe_execMack {src dst : Agent} (h : Keeps s₀ s) : Safe s₀ (execMack src dst s) := by
  unfold execMack
  split
  · exact .next h
  next e => exact .next (h.of_receive e).after_settleSyncs

theorem Keeps.safe_execWb {src dst : Agent} (h : Keeps s₀ s) : Safe s₀ (execWb src dst s) := by
  unfold execWb
  dsimp only
  split
  · exact .next h
  · split
    next e => exact .next (h.of_arrive_error e)
    next e =>
      refine .next ?_
      refine Keeps.after_settleFlush ?_
      refine Keeps.after_settleSyncs ?_
      refine Keeps.after_send ?_
      refine (h.of_arrive_ok e).foldl fun _ _ h => ?_
      split
      · exact h.after_writeBackOwned
      · exact h.after_writeBackDirty
      · exact h

theorem Keeps.safe_execHostWriteBackAccept {line : Nat} (h : Keeps s₀ s) : Safe s₀ (execHostWriteBackAccept line s) := by
  unfold execHostWriteBackAccept
  split
  · exact .next h
  next e =>
    exact .ite (.next h) (.next (Keeps.after_settleSyncs ((h.of_receive e).foldl fun _ _ h =>
      h.after_putHomeWord.after_stampFor)))

theorem Keeps.safe_execWack {src dst : Agent} (h : Keeps s₀ s) : Safe s₀ (execWack src dst s) := by
  unfold execWack
  split
  · exact .next h
  next e => exact .next (h.of_receive e).frame.after_settleFlush

theorem Keeps.after_giveWords {src dst : Agent} {m : Msg} (h : Keeps s₀ s) : Keeps s₀ (giveWords s src dst m) := by
  unfold giveWords
  exact Keeps.foldl (Keeps.foldl (Keeps.ite (h.foldl fun _ _ h => h.after_mergeAt) (Keeps.after_send
    (h.foldl fun _ _ h => h.after_mergeAt))) fun _ _ h => h.after_send) fun _ _ h => h.after_setOwner

theorem Keeps.safe_execAtq {src dst : Agent} (h : Keeps s₀ s) : Safe s₀ (execAtq src dst s) := by
  unfold execAtq
  split
  next e => exact .next (h.of_arrive_error e)
  next e =>
    split
    · exact .next (h.of_arrive_ok e)
    · split
      · split
        · exact .next h
        · split
          · exact .next h
          next e1 => exact .next ((h.of_arrive_ok e).of_cacheLine e1).after_giveWords.after_settleSyncs
      · split
        · exact .next h
        · split
          · exact .next h
          next e1 =>
            split
            · split
              next e2 => exact .next (((h.of_arrive_ok e).of_cacheLine e1).of_endRuns e2).after_giveWords
              · exact .next h
            · split
              next e2 => exact .next (((h.of_arrive_ok e).of_cacheLine e1).of_endRuns e2).after_giveWords
              · exact .next h
      · split
        · exact .next h
        · split
          · exact .next h
          next e1 =>
            split
            · split
              next e2 => exact .next (((h.of_arrive_ok e).of_cacheLine e1).of_endRuns e2).after_giveWords
              · exact .next h
            · exact .next ((h.of_arrive_ok e).of_cacheLine e1).after_giveWords.after_settleSyncs

theorem Keeps.safe_execXfer {src dst : Agent} (h : Keeps s₀ s) : Safe s₀ (execXfer src dst s) := by
  unfold execXfer
  split
  · exact .next h
  next e => exact .ite (.next h) (.next ((h.of_receive e).foldl fun _ _ h => Keeps.ite h.after_dropCopy h))

theorem Keeps.safe_execXferv {src dst : Agent} (h : Keeps s₀ s) : Safe s₀ (execXferv src dst s) := by
  unfold execXferv
  dsimp only
  split
  · exact .next h
  next e =>
    exact .ite (.next h) (.next (Keeps.after_send ((h.of_receive e).foldl fun _ _ h => Keeps.ite h.after_dropCopy h)))

theorem Keeps.safe_execAval {src dst : Agent} (h : Keeps s₀ s) : Safe s₀ (execAval src dst s) := by
  unfold execAval
  split
  · exact .next h
  next e => exact .next h.after_ownArrive

theorem Keeps.safe_execRcl {src dst : Agent} (h : Keeps s₀ s) : Safe s₀ (execRcl src dst s) := by
  unfold execRcl
  dsimp only
  split
  · exact .next h
  next e =>
    exact .ite (.next h) (.ite (.next h) (.next ((h.of_receive e).after_holdAndSend.foldl fun _ _ h => h.after_putCopy)))

theorem Keeps.safe_execL1Evict {core word : Nat} (h : Keeps s₀ s) : Safe s₀ (execL1Evict core word s) :=
  .next h.after_evictL1

theorem Keeps.safe_execL2Evict {line : Nat} (h : Keeps s₀ s) : Safe s₀ (execL2Evict line s) := by
  unfold execL2Evict
  exact .ite (.next h) (.ite (.next h.frame) (.next h.frame.after_recallWords))

theorem Keeps.safe_execRdcEvict {line : Nat} (h : Keeps s₀ s) : Safe s₀ (execRdcEvict line s) := .next h.after_rdcGiveUp

theorem Keeps.safe_execHostRead {addr : Nat} (h : Keeps s₀ s) : Safe s₀ (execHostRead addr s) := by
  unfold execHostRead
  exact .ite (.next h) (.ite (.next h.after_biasAccess.frame) .fault)

theorem Keeps.safe_execHostWrite {addr : Nat} {v : BitVec 32} (h : Keeps s₀ s) : Safe s₀ (execHostWrite addr v s) := by
  unfold execHostWrite
  exact .ite (.next h) (.ite (.next (Keeps.ite h h.after_biasAccess.after_overtake.after_writeAtHome)) .fault)

theorem Keeps.safe_execHostSnoop {line : Nat} (h : Keeps s₀ s) : Safe s₀ (execHostSnoop line s) := by
  unfold execHostSnoop
  dsimp only
  split
  · exact .next h
  · exact .next (Keeps.ite (h.frame.foldl fun _ _ h => h.after_putHomeWord.after_stampFor) h.frame)

/-! ## Clause -/

theorem Keeps.after_parkAll {fuel core slot : Nat} (h : Keeps s₀ s) : Keeps s₀ (parkAll fuel s core slot) := by
  induction fuel generalizing s with
  | zero => exact h
  | succ fuel ih =>
    unfold parkAll
    split
    · exact h
    · exact Keeps.ite h (ih h.after_settle)

theorem Keeps.of_fetchWords {g : Group} {base n i : Nat} {acc : List Word} (h : Keeps s₀ s)
    (e : fetchWords s g base n i acc = .error (.inr t)) : Keeps s₀ t := by
  induction n generalizing i acc with
  | zero => cases e
  | succ n ih =>
    unfold fetchWords at e
    split at e
    · exact ih e
    · cases e
    next e' =>
      cases e
      exact h.of_fetchWord e'

theorem fetchFault_ne_wait {cause word idx : Nat} {hdr : Word} {pc : Nat} : fetchFault cause word idx hdr pc ≠ .wait t := by
  unfold fetchFault
  split <;> nofun

theorem Keeps.of_tryFresh {g : Group} {i : SlotId} (h : Keeps s₀ s) (e : tryFresh s g i = .wait t) : Keeps s₀ t := by
  unfold tryFresh at e
  dsimp only at e
  split at e
  next e' =>
    cases e
    exact h.of_fetchWord e'
  · exact absurd e fetchFault_ne_wait
  · split at e
    · cases e
    split at e
    · cases e
    split at e
    next e' =>
      cases e
      exact h.of_fetchWords e'
    · exact absurd e fetchFault_ne_wait
    · split at e
      · cases e
      split at e
      · cases e
      · split at e <;> cases e

theorem Keeps.of_tryResume {g : Group} {r : Resume} (h : Keeps s₀ s) (e : tryResume s g r = .wait t) : Keeps s₀ t := by
  unfold tryResume at e
  dsimp only at e
  split at e
  · cases e
  split at e
  · cases e
  split at e
  next e' =>
    cases e
    exact h.of_fetchWords e'
  · exact absurd e fetchFault_ne_wait
  · split at e
    · split at e <;> cases e
    · split at e <;> cases e

theorem Keeps.of_tryStart {g : Group} {i : SlotId} (h : Keeps s₀ s) (e : tryStart s g i = .wait t) : Keeps s₀ t := by
  unfold tryStart at e
  split at e
  · exact h.of_tryResume e
  · exact h.of_tryFresh e

theorem Keeps.after_actStart {g : Group} {i : SlotId} {a : StartTry}
    (h : Keeps s₀ s) (hw : ∀ t, a = .wait t → Keeps s₀ t) : Keeps s₀ (actStart s g i a) := by
  unfold actStart
  split
  · split
    · exact h.after_takeTrap
    · exact h.after_setGroup.frame
  · exact h.after_setGroup
  · exact h.after_takeTrap
  · exact h.after_startBatch
  · exact h
  · exact hw _ rfl

theorem Keeps.after_startFirst {core : Nat} {xs : List (Nat × SlotId)}
    (h : Keeps s₀ s) : Keeps s₀ (startFirst core xs s) := by
  induction xs generalizing s with
  | nil => exact h
  | cons x xs ih =>
    obtain ⟨slot, i⟩ := x
    unfold startFirst
    split
    · exact ih h
    · split
      · exact ih h
      next e => exact ih (h.of_tryStart e)
      · exact h.after_actStart fun t e => h.of_tryStart e

theorem Keeps.safe_execClauseStart {core iss : Nat} (h : Keeps s₀ s) : Safe s₀ (execClauseStart core iss s) :=
  .ite (.next h) (.next (Keeps.after_startFirst (h.foldl fun _ _ h => Keeps.ite h h.after_parkAll)))

theorem Keeps.safe_execIssuePromote {core slot : Nat} (h : Keeps s₀ s) : Safe s₀ (execIssuePromote core slot s) := by
  unfold execIssuePromote
  split
  · exact .ite (.next h.after_setGroup) (.next h)
  · exact .next h

theorem Keeps.safe_execRunAheadTimeout {core slot : Nat}
    (h : Keeps s₀ s) : Safe s₀ (execRunAheadTimeout core slot s) := by
  unfold execRunAheadTimeout
  split
  · exact .ite (.next h.after_endAhead) (.next h)
  · exact .next h

theorem Keeps.after_givenUpFetch {g : Group} {pcs : SlotId} {pc word idx : Nat} {hdr : Word} (h : Keeps s₀ s) :
    Keeps s₀ (givenUpFetch s g pcs pc word idx hdr) :=
  h.after_takeTrap

theorem Keeps.safe_execFaultReissue {core slot : Nat} (h : Keeps s₀ s) : Safe s₀ (execFaultReissue core slot s) := by
  unfold execFaultReissue
  dsimp only
  split
  · exact .next h
  · split
    · exact .next h
    · split
      · exact .next h
      · split
        · exact .ite (.next h.after_dropCoreFails.after_givenUpFetch) (.next h.after_dropCoreFails.after_setGroup)
        · exact .ite (.next h.after_dropCoreFails) (.next h.after_dropCoreFails.after_setGroup.frame)

theorem Keeps.safe_execReggrowGrant {core : Nat} (h : Keeps s₀ s) : Safe s₀ (execReggrowGrant core s) := by
  unfold execReggrowGrant
  dsimp only
  split
  · exact .next h
  · split
    · exact .next h
    · exact .ite (.next h.after_setGroup) (.next h)

theorem Keeps.safe_execRegshrinkDone {core slot : Nat} (h : Keeps s₀ s) : Safe s₀ (execRegshrinkDone core slot s) := by
  unfold execRegshrinkDone
  dsimp only
  split
  · exact .next h
  · split
    · exact .next h
    · exact .ite (.next h) (.next h.after_setGroup)

/-! ## Launch -/

theorem Keeps.after_overflowRec {q : Nat} (h : Keeps s₀ s) : Keeps s₀ (overflowRec s q) := h.after_putBar

theorem Keeps.after_writeCompl {q ctx tag gid level status rsrc cl tm rerr : Nat} (h : Keeps s₀ s) :
    Keeps s₀ (writeCompl s q ctx tag gid level status rsrc cl tm rerr) := by
  unfold writeCompl
  dsimp only
  split
  · exact h.after_overflowRec
  · exact h.after_homeWrites.after_putBar

theorem Keeps.after_queueIrq {q : Nat} (h : Keeps s₀ s) : Keeps s₀ (queueIrq s q) := h.frame

theorem Keeps.after_fillRead {ctx va n : Nat} (h : Keeps s₀ s) : Keeps s₀ (fillRead s ctx va n) :=
  h.foldl fun _ _ h => h.after_fillNow

theorem Keeps.after_tellUnread {ctx va n : Nat} (h : Keeps s₀ s) : Keeps s₀ (tellUnread s ctx va n) := by
  unfold tellUnread
  split
  · exact h.after_tellFault
  · exact h

theorem Keeps.after_advanceRd {q : Nat} (h : Keeps s₀ s) : Keeps s₀ (advanceRd s q) := h.after_putBar

theorem Keeps.after_endLaunch {id : Option Nat} {cls : Nat} (h : Keeps s₀ s) : Keeps s₀ (endLaunch s id cls) := by
  unfold endLaunch
  split
  · exact h
  · exact h.frame

theorem Keeps.after_rejectRecord {q ctx tag rsrc : Nat} {gir : Bool} {cmd : Option EngCmd} (h : Keeps s₀ s) :
    Keeps s₀ (rejectRecord s q ctx tag rsrc gir cmd) := by
  unfold rejectRecord
  exact Keeps.ite (Keeps.after_advanceRd (Keeps.after_endLaunch
    (Keeps.ite h.after_writeCompl.after_queueIrq h.after_writeCompl))) (Keeps.after_putBar (Keeps.after_endLaunch
      (Keeps.ite h.after_writeCompl.after_queueIrq h.after_writeCompl)))

theorem Keeps.after_updGrid {key : Nat} {f : Grid → Grid} (h : Keeps s₀ s) : Keeps s₀ (updGrid s key f) := h.frame

theorem Keeps.after_takeRecord {q : Nat} (h : Keeps s₀ s) : Keeps s₀ (takeRecord s q) := by
  unfold takeRecord
  dsimp only
  split
  · exact h
  · split
    · exact h
    · refine Keeps.getD ?_ fun _ e => h.of_snoopFirst e
      split
      · exact h.after_engineAcquire.after_tellUnread.after_rejectRecord
      · exact Keeps.ite (Keeps.after_rejectRecord (Keeps.ite h.after_engineAcquire.after_tellUnread h.after_engineAcquire))
          h.after_engineAcquire.after_fillRead.after_fillRead.after_advanceRd.frame

theorem Keeps.after_acquireCores {ctx : Nat} {cores : List Nat} (h : Keeps s₀ s) :
    Keeps s₀ (acquireCores s ctx cores).1 := by
  unfold acquireCores
  exact h.foldl fun _ _ h => h.after_acquireAt

/-- A new team's scratchpad reads zero. -/
theorem Keeps.after_placeTeam {g : Grid} {id cls cluster team : Nat} {p : TeamPlace} (h : Keeps s₀ s) :
    Keeps s₀ (placeTeam s g id cls cluster team p) := by
  refine h.of_memory fun ⟨hm, ht⟩ => ⟨hm, fun u hu => ?_⟩
  rcases List.mem_append.1 hu with hu | hu
  · exact ht u hu
  · rw [List.mem_singleton.1 hu]
    rfl

theorem Keeps.after_placeCluster {g : Grid} {id : Nat} {places : List TeamPlace} (h : Keeps s₀ s) :
    Keeps s₀ (placeCluster s g id places) := by
  unfold placeCluster
  exact Keeps.after_updGrid (Keeps.frame (h.foldl fun _ _ h => h.after_placeTeam))

theorem Keeps.after_takeGridId {g : Grid} (h : Keeps s₀ s) : Keeps s₀ (takeGridId s g).2 := by
  unfold takeGridId
  split
  · exact h
  · dsimp only
    exact h.after_updCtx

theorem Keeps.of_logPlaces {g : Grid} {id : Nat} {places : List TeamPlace} (h : Keeps s₀ s)
    (e : logPlaces s g id places = some t) : Keeps s₀ t := by
  obtain ⟨u, hu, rfl⟩ := Option.map_eq_some_iff.1 e
  refine Keeps.after_unstall ?_
  clear e
  generalize places.zipIdx = ps at hu
  have ho : ∀ s', some s = some s' → Keeps s₀ s' := fun s' e => Option.some.inj e ▸ h
  generalize some s = o at hu ho
  induction ps generalizing o with
  | nil => exact ho u hu
  | cons p ps ih =>
    refine ih _ hu fun s' e => ?_
    obtain ⟨v, rfl, e⟩ := Option.bind_eq_some_iff.1 e
    obtain ⟨-, e⟩ := Option.ite_none_right_eq_some.1 e
    obtain rfl := Option.some.inj e
    exact (ho v rfl).after_logWrite.after_raiseFrontier

theorem Keeps.head_replayHead {g : Grid} (h : Keeps s₀ s) : SafeHead s₀ (replayHead s g) := by
  unfold replayHead
  split
  · exact .pass h
  · exact .done h.after_meetBad.after_divergeUnit
  · split
    · split
      next e => exact .pass (h.after_acquireCores.of_fst e)
      next e =>
        have ha := h.after_acquireCores.of_fst e
        exact .done (Keeps.after_placeCluster (Keeps.foldl (Keeps.ite ha ha.after_updCtx) fun _ _ h => h.after_matchRec))
    · exact .pass h

theorem Keeps.head_placeHead {g : Grid} (h : Keeps s₀ s) : SafeHead s₀ (placeHead s g) := by
  unfold placeHead
  split
  · exact h.head_replayHead
  · split
    · exact .pass h
    · split
      next e => exact .pass (h.after_acquireCores.of_fst e)
      next e =>
        have ha := h.after_acquireCores.of_fst e
        dsimp only
        split
        · split
          next e' => exact .done (ha.after_takeGridId.of_logPlaces e').after_placeCluster
          · exact .pass ha.after_stallAt
        · exact .done ha.after_takeGridId.after_placeCluster

theorem Keeps.after_dropTreelets {ctx base : Nat} (h : Keeps s₀ s) : Keeps s₀ (dropTreelets s ctx base) := by
  unfold dropTreelets
  exact h.frame

theorem Keeps.after_acceptRay {g : Grid} {id : Nat} (h : Keeps s₀ s) : Keeps s₀ (acceptRay s g id) := by
  unfold acceptRay
  exact h.after_dropTreelets.after_putCtx.frame.after_updGrid

theorem Keeps.after_rejectTaken {g : Grid} {code : Nat} (h : Keeps s₀ s) : Keeps s₀ (rejectTaken s g code) := by
  unfold rejectTaken
  exact Keeps.after_rejectRecord (Keeps.ite h.frame.after_putBar.after_tellUnread h.frame.after_putBar)

theorem Keeps.after_raiseAll {seq : Nat} (h : Keeps s₀ s) : Keeps s₀ (raiseAll s seq) :=
  h.foldl fun _ _ h => h.after_raiseFrontier

theorem Keeps.head_rayHead {g : Grid} (h : Keeps s₀ s) : SafeHead s₀ (rayHead s g) := by
  unfold rayHead
  dsimp only
  split
  · exact .done h.after_rejectTaken
  · split
    next e => exact .pass (h.after_acquireCores.of_fst e)
    next e =>
      have ha := h.after_acquireCores.of_fst e
      split
      · split
        · exact .done ha.after_takeGridId.after_logWrite.after_raiseAll.after_unstall.after_acceptRay
        · exact .pass ha.after_stallAt
      · split
        · exact .done ha.after_meetBad.after_divergeUnit
        · split
          · exact .done ha.after_matchRec.after_updCtx.after_acceptRay
          split
          · exact .pass ha
          · exact .done ha.after_meetBad.after_divergeUnit
      · exact .done ha.after_takeGridId.after_acceptRay

theorem Keeps.after_placeFirst {qs : List Nat} (h : Keeps s₀ s) : Keeps s₀ (placeFirst qs s) := by
  induction qs generalizing s with
  | nil => exact h
  | cons q qs ih =>
    unfold placeFirst
    split
    · exact ih h
    next g _ =>
      have hr : SafeHead s₀ (if g.isRay then rayHead s g else placeHead s g) := by
        split
        · exact h.head_rayHead
        · exact h.head_placeHead
      refine Keeps.ite ?_ (ih h)
      split
      next e => exact hr.of_done e
      next e => exact ih (hr.of_pass e)

theorem Keeps.after_ageHead {queue : Nat} (h : Keeps s₀ s) : Keeps s₀ (ageHead s queue) := by
  unfold ageHead
  dsimp only
  split
  · exact h
  · exact Keeps.ite h.after_updGrid h

theorem Keeps.safe_execLaunchWindow (h : Keeps s₀ s) : Safe s₀ (execLaunchWindow s) :=
  .ite (.next h) (.next (Keeps.after_placeFirst (Keeps.foldl (h.frame.after_keepStalls.foldl fun _ _ h =>
    h.after_takeRecord) fun _ _ h => h.after_ageHead)))

theorem Keeps.safe_execHeadAged {queue : Nat} (h : Keeps s₀ s) : Safe s₀ (execHeadAged queue s) := .next h.after_ageHead

theorem Keeps.safe_execQueueDoorbell {queue : Nat} {wr : BitVec 32} (h : Keeps s₀ s) :
    Safe s₀ (execQueueDoorbell queue wr s) :=
  .ite (.next h.after_putBar) (.next h)

theorem Keeps.safe_execQueueStpClear {queue : Nat} (h : Keeps s₀ s) : Safe s₀ (execQueueStpClear queue s) :=
  .ite (.next h.after_putBar) (.next h)

theorem Keeps.after_teamEnded {gr : Grid} {cluster team : Nat} (h : Keeps s₀ s) :
    Keeps s₀ (teamEnded s gr cluster team) := by
  unfold teamEnded
  exact Keeps.after_updGrid (Keeps.ite (Keeps.after_writeCompl (Keeps.ite h.after_writeCompl h))
    (Keeps.ite h.after_writeCompl h))

theorem Keeps.after_freeQueues {core slot : Nat} {which : Nat → Bool} (h : Keeps s₀ s) :
    Keeps s₀ (freeQueues s core slot which) := by
  unfold freeQueues
  exact h.frame

theorem Keeps.after_leaveJobs {core slot : Nat} (h : Keeps s₀ s) : Keeps s₀ (leaveJobs s core slot) := h.frame

theorem Keeps.after_dropGroup {g : Group} (h : Keeps s₀ s) : Keeps s₀ (dropGroup s g) := by
  unfold dropGroup
  exact h.after_leaveJobs.frame.after_freeQueues.after_dropAhead

theorem Keeps.after_leaveTeam {g : Group} (h : Keeps s₀ s) : Keeps s₀ (leaveTeam s g) := by
  unfold leaveTeam
  split
  · exact h
  · refine Keeps.ite ?_ (h.after_updTeam fun _ hu => hu)
    dsimp only
    split
    · exact Keeps.after_teamEnded h.of_fewer_teams
    · exact h.of_fewer_teams

theorem Keeps.safe_execGroupEnd {core slot : Nat} (h : Keeps s₀ s) : Safe s₀ (execGroupEnd core slot s) := by
  unfold execGroupEnd
  split
  · exact .next h
  · exact .ite (.next h.after_closeReds.after_dropGroup.after_leaveTeam) (.next h)

theorem Keeps.after_combineRoots {ns : List RedNode} (h : Keeps s₀ s) : Keeps s₀ (combineRoots ns s) := by
  induction ns generalizing s with
  | nil => exact h
  | cons n ns ih =>
    refine Keeps.ite h.after_rootAsks ?_
    split
    next e => exact ih (h.of_rootLog e).after_rootCombine.frame
    · exact Keeps.ite h.after_stallAt h
    · exact h.after_meetBad.after_divergeUnit

theorem Keeps.after_releaseGrid {g : Grid} (h : Keeps s₀ s) : Keeps s₀ (releaseGrid s g) := by
  unfold releaseGrid
  exact Keeps.after_updGrid (h.foldl fun _ _ h => h.after_releaseAt)

theorem Keeps.after_signalGrid {g : Grid} (h : Keeps s₀ s) : Keeps s₀ (signalGrid s g) := by
  unfold signalGrid
  exact Keeps.after_endLaunch (Keeps.frame (Keeps.ite (Keeps.after_queueIrq (Keeps.ite h.after_writeCompl h))
    (Keeps.ite h.after_writeCompl h)))

theorem Keeps.safe_execGridComplete {ctx grid : Nat} (h : Keeps s₀ s) : Safe s₀ (execGridComplete ctx grid s) := by
  unfold execGridComplete
  dsimp only
  split
  · exact .next h
  · split
    · split
      · exact .next h.after_combineRoots
      · split
        · exact .next h.after_combineRoots.after_releaseGrid
        · exact .next (Keeps.ite h.after_combineRoots h.after_combineRoots.after_signalGrid)
    · exact .next h

/-! ## Rays -/

theorem Keeps.after_updRay {id : Nat} {f : Ray → Ray} (h : Keeps s₀ s) : Keeps s₀ (updRay s id f) := h.frame

theorem Keeps.after_makeReady {b : Bin} (h : Keeps s₀ s) : Keeps s₀ (makeReady s b) := h.frame

theorem Keeps.after_forceOldest (h : Keeps s₀ s) : Keeps s₀ (forceOldest s) := by
  unfold forceOldest
  split
  · exact h
  · exact h.after_makeReady

theorem Keeps.after_joinBin {r : Ray} (h : Keeps s₀ s) : Keeps s₀ (joinBin s r) := by
  unfold joinBin
  split
  · exact h
  · exact Keeps.ite h (Keeps.ite h.frame h.after_forceOldest)

theorem Keeps.after_takeBin {r : Ray} (h : Keeps s₀ s) : Keeps s₀ (takeBin s r) := Keeps.ite h h.after_joinBin.frame

theorem Keeps.after_tidyBins (h : Keeps s₀ s) : Keeps s₀ (tidyBins s) := by
  unfold tidyBins
  exact Keeps.ite h (h.frame.foldl fun _ _ h => h.after_takeBin)

theorem Keeps.after_moveRay {id : Nat} {place : RayPlace} (h : Keeps s₀ s) : Keeps s₀ (moveRay s id place) := by
  unfold moveRay
  dsimp only
  split
  · exact h.after_updRay.after_joinBin.after_tidyBins
  · exact h.after_updRay

theorem Keeps.after_retireRay {id : Nat} (h : Keeps s₀ s) : Keeps s₀ (retireRay s id) := h.frame.after_tidyBins

theorem Keeps.after_rayError {r : Ray} {cause : Nat} (h : Keeps s₀ s) : Keeps s₀ (rayError s r cause) := by
  unfold rayError
  dsimp only
  split
  · exact h.after_putCtx.after_putCtx.after_retireRay
  · exact Keeps.after_updGrid (Keeps.ite h.after_putCtx.after_putCtx.after_retireRay
      h.after_putCtx.after_putCtx.after_retireRay.after_reportCtx)

theorem Keeps.after_enterShade {r : Ray} {entry : Nat} (h : Keeps s₀ s) : Keeps s₀ (enterShade s r entry) := by
  unfold enterShade
  exact h.after_moveRay

theorem Keeps.after_finishRay {r : Ray} (h : Keeps s₀ s) : Keeps s₀ (finishRay s r) := by
  unfold finishRay
  split
  · split
    · exact h.after_retireRay
    · split
      · exact Keeps.ite h.after_enterShade h.after_rayError
      · exact h.after_rayError
  · exact Keeps.ite h.after_retireRay h.after_enterShade

theorem Keeps.after_resumeRay {r : Ray} (h : Keeps s₀ s) : Keeps s₀ (resumeRay s r) := by
  unfold resumeRay
  dsimp only
  split
  · exact h.after_finishRay
  · exact h.after_updRay.after_moveRay

theorem Keeps.after_enterTrav {id : Nat} (h : Keeps s₀ s) : Keeps s₀ (enterTrav s id) := by
  unfold enterTrav
  dsimp only
  split
  · exact h.after_updRay.after_resumeRay
  · exact h.after_updRay

theorem Keeps.after_spillTo {r : Ray} {i : Nat} (h : Keeps s₀ s) : Keeps s₀ (spillTo s r i) := by
  unfold spillTo
  exact Keeps.after_updRay (Keeps.frame (h.foldl fun _ _ h => h.after_homeWrite))

theorem Keeps.of_unspill {r : Ray} (h : Keeps s₀ s) (e : unspill s r = some t) : Keeps s₀ t := by
  unfold unspill at e
  split at e
  · cases e
    exact h
  · obtain ⟨-, ⟨⟩⟩ := Option.ite_none_left_eq_some.1 e
    exact h.frame.after_updRay

theorem Keeps.of_onDie {keep : List Nat} {id : Nat} (h : Keeps s₀ s) (e : onDie keep s id = some t) : Keeps s₀ t := by
  unfold onDie at e
  split at e
  · cases e
    exact h
  · split at e
    · cases e
      exact h
    · split at e
      · cases e
        exact h.after_rayError
      next e' =>
        split at e
        · cases e
          exact h.of_unspill e'
        · obtain ⟨v, -, rfl⟩ := Option.map_eq_some_iff.1 e
          exact (h.of_unspill e').after_spillTo

theorem Keeps.after_newRay {r : Ray} (h : Keeps s₀ s) : Keeps s₀ (newRay s r) := by
  unfold newRay
  exact Keeps.ite h.frame.after_spillTo h.frame

theorem Keeps.safe_execGenRayCreate {ctx grid : Nat} (h : Keeps s₀ s) : Safe s₀ (execGenRayCreate ctx grid s) := by
  unfold execGenRayCreate
  dsimp only
  split
  · exact .next h
  · exact .ite (.next h.after_updGrid.after_newRay.after_enterShade) (.next h)

theorem Keeps.safe_execRaySpill {ray : Nat} (h : Keeps s₀ s) : Safe s₀ (execRaySpill ray s) := by
  unfold execRaySpill
  split
  · exact .next h
  · exact .ite (.next h.after_spillTo) (.next h)

theorem Keeps.after_checkDegenerate {id : Nat} (h : Keeps s₀ s) : Keeps s₀ (checkDegenerate s id) := by
  unfold checkDegenerate
  split
  · exact h
  · split
    · exact Keeps.ite h.after_enterTrav h
    · exact h

theorem Keeps.safe_execRayUnspill {ray : Nat} (h : Keeps s₀ s) : Safe s₀ (execRayUnspill ray s) := by
  refine .next (Keeps.getD h fun t e => ?_)
  obtain ⟨u, hu, rfl⟩ := Option.map_eq_some_iff.1 e
  exact (h.of_onDie hu).after_checkDegenerate

/-! ## Ring -/

theorem Keeps.after_unitTold {ctx tlb va : Nat} (h : Keeps s₀ s) : Keeps s₀ (unitTold s ctx tlb va) := h.after_dropFails

theorem Keeps.safe_execCoalescerWrite {core : Nat} (h : Keeps s₀ s) : Safe s₀ (execCoalescerWrite core s) := by
  unfold execCoalescerWrite
  dsimp only
  split
  · exact .next h
  · exact .ite (.ite .fault (.ite (.next h.after_unitRelease) (.next
      (Keeps.ite h.after_unitRelease.frame.after_homeWrites.after_putBar.frame
        h.after_unitRelease.frame.after_homeWrites.after_putBar)))) (.next h)

/-! ## HostRegs -/

theorem Keeps.after_putRingBase {off : Nat} {v : DWord} (h : Keeps s₀ s) : Keeps s₀ (putRingBase s off v) := by
  unfold putRingBase
  exact Keeps.ite h.after_putBarD h

theorem Keeps.after_writeWord {off : Nat} {v : Word} (h : Keeps s₀ s) : Keeps s₀ (writeWord s off v) := by
  unfold writeWord
  exact Keeps.ite h.after_putRingBase (Keeps.ite h.after_putRingBase (Keeps.ite h.after_putBar (Keeps.ite
    (Keeps.ite h.after_putBar h) (Keeps.ite h.after_tailWritten (Keeps.ite
      (Keeps.ite h.after_putCtx.after_wmarkIrq h.after_putCtx) (Keeps.ite h h.after_putBar))))))

theorem Keeps.after_writeBar {off size : Nat} {v : DWord} (h : Keeps s₀ s) : Keeps s₀ (writeBar s off size v) :=
  Keeps.ite h (Keeps.ite h.after_writeWord (Keeps.ite (Keeps.ite h.after_putRingBase h.after_writeWord.after_writeWord) h))

theorem Keeps.after_startCmdAt {c : HostCmd} (h : Keeps s₀ s) : Keeps s₀ (startCmdAt s c) := by
  unfold startCmdAt
  exact h.after_putBar.frame

theorem Keeps.after_endIdle {c : HostCmd} (h : Keeps s₀ s) : Keeps s₀ (endIdle s c) := h.after_finishCmd

theorem Keeps.after_skipIdle {fuel : Nat} (h : Keeps s₀ s) : Keeps s₀ (skipIdle fuel s) := by
  induction fuel generalizing s with
  | zero => exact h
  | succ fuel ih => exact Keeps.ite (ih h.after_engineAcquire.after_startCmdAt.after_endIdle) h

theorem Keeps.after_skipIdles (h : Keeps s₀ s) : Keeps s₀ (skipIdles s) := h.after_skipIdle

theorem Keeps.safe_takeCmd {want : State → HostCmd → Bool} {k : State → HostCmd → State} (h : Keeps s₀ s)
    (hk : ∀ s c, Keeps s₀ s → Keeps s₀ (k s c)) : Safe s₀ (takeCmd s want k) :=
  .ite (.next h) (.ite .fault (.ite (.next (Keeps.after_skipIdles (Keeps.ite h.after_engineAcquire.after_startCmdAt.after_finishCmd
    (Keeps.ite h.after_engineAcquire.after_startCmdAt.after_finishCmd (hk _ _ h.after_engineAcquire.after_startCmdAt)))))
    (.next h)))

theorem Keeps.safe_onCode {code : Nat} {k : State → HostCmd → State} (h : Keeps s₀ s)
    (hk : ∀ s c, Keeps s₀ s → Keeps s₀ (k s c)) : Safe s₀ (onCode code s k) := h.safe_takeCmd hk

theorem Keeps.safe_execCmdDoorbell {kwr : BitVec 32} (h : Keeps s₀ s) : Safe s₀ (execCmdDoorbell kwr s) :=
  .ite (.ite .fault (.next h.after_putBar.after_skipIdles)) (.next h)

theorem Keeps.safe_execHostRegWrite {off size : Nat} {v : BitVec 64} (h : Keeps s₀ s) :
    Safe s₀ (execHostRegWrite off size v s) :=
  .next h.after_writeBar.after_skipIdles

/-! ## Engine -/

theorem Keeps.safe_noRoom {g : Group} {c : Clause} {pd : BitVec 3} {act : Mask} (h : Keeps s₀ s) :
    Safe s₀ (noRoom s g c pd act) :=
  .ite h.safe_waits h.safe_retire

theorem Keeps.after_acceptCmd {g : Group} {eng : Nat} {ws : List DWord} (h : Keeps s₀ s) :
    Keeps s₀ (acceptCmd s g eng ws) := by
  unfold acceptCmd
  exact h.frame

theorem Keeps.safe_execPushc {f : E} {ox : Option Ox} (h : Keeps s₀ s) : Safe s₀ (execPushc f ox s) := by
  unfold execPushc
  dsimp only
  refine h.safe_groupIssue fun _ _ _ => ?_
  split
  · exact h.safe_trapAt
  · exact .ite h.safe_waits (.ite h.after_acceptCmd.safe_retire h.safe_noRoom)

theorem Keeps.safe_bindQueue {f : EQ} {ox : Option Ox} {out : Bool} (h : Keeps s₀ s) : Safe s₀ (bindQueue f ox out s) :=
  .withIssuer fun _ _ => .ite h.safe_trapAt (h.safe_groupIssue fun _ _ _ => .ite h.safe_trapAt h.safe_retire)

theorem Keeps.safe_execQfree {f : EF} {ox : Option Ox} (h : Keeps s₀ s) : Safe s₀ (execQfree f ox s) :=
  h.safe_groupIssue fun _ _ _ => h.after_freeQueues.safe_retire

/-! ## EngineRun -/

/-- A mapped outcome that is a success was one before. -/
theorem ok_of_map {ε α β : Type} {r : Except ε α} {f : α → β} {y : β} (e : r.map f = .ok y) : ∃ x, r = .ok x ∧ f x = y := by
  cases r with
  | error k => cases e
  | ok x => exact ⟨x, rfl, Except.ok.inj e⟩

theorem ok_of_atAddr {α : Type} {a : Nat} {r : Except Nat α} {x : α} (e : atAddr a r = .ok x) : r = .ok x := by
  cases r with
  | error k => cases e
  | ok y => exact congrArg Except.ok (Except.ok.inj e)

/-- What an access mapped to a move answers is what the access answers. -/
theorem ok_of_map_atAddr {α β : Type} {a : Nat} {r : Except Nat α} {f : α → β} {y : β}
    (e : (atAddr a r).map f = .ok y) : ∃ x, r = .ok x ∧ f x = y := by
  obtain ⟨x, hx, e⟩ := ok_of_map e
  exact ⟨x, ok_of_atAddr hx, e⟩

theorem Keeps.of_engWrite {m : EngMem} {a : Nat} {mask : BitVec 4} {v : Word} {poison : Bool} (h : Keeps s₀ s)
    (e : engWrite s m a mask v poison = .ok t) : Keeps s₀ t := by
  unfold engWrite at e
  dsimp only at e
  split at e
  · cases e
    exact h.after_updTeam fun _ hm => spPut_wf hm
  · split at e
    · cases e
    · cases e
    · split at e
      · cases e
      split at e
      · cases e
      · cases e
        exact Keeps.after_homeWrite (Keeps.ite h.after_overtake h)

/-- A write of an engine as a move. -/
theorem Keeps.of_writeMove {m : EngMem} {a b : Nat} {mask : BitVec 4} {v : Word} {poison p q : Bool} (h : Keeps s₀ s)
    (e : ((atAddr b (engWrite s m a mask v poison)).map fun s => (s, p)) = .ok (t, q)) : Keeps s₀ t := by
  obtain ⟨u, hu, e⟩ := ok_of_map_atAddr e
  cases e
  exact h.of_engWrite hu

theorem Keeps.after_reportFault {ctx core ident cause va : Nat} (h : Keeps s₀ s) :
    Keeps s₀ (reportFault s ctx core ident cause va) :=
  Keeps.ite h.after_report h.after_tellFault

theorem Keeps.after_updCmd {eng id : Nat} {f : EngCmd → EngCmd} (h : Keeps s₀ s) : Keeps s₀ (updCmd s eng id f) := h.frame

theorem Keeps.after_endCmd {eng : Nat} {c : EngCmd} {cls : Nat} (h : Keeps s₀ s) : Keeps s₀ (endCmd s eng c cls) :=
  h.after_updCmd

theorem Keeps.after_engWait {ctx eng cause va : Nat} (h : Keeps s₀ s) : Keeps s₀ (engWait s ctx eng cause va) := by
  unfold engWait
  dsimp only
  split
  · exact h.after_askWalk
  · split
    · exact Keeps.ite (Keeps.getD h fun _ e => h.of_snoopFirst e) h.after_recallWords
    · exact h.after_askWalk
    · exact h

theorem Keeps.after_cmdFault {eng : Nat} {c : EngCmd} {cause va : Nat} (h : Keeps s₀ s) :
    Keeps s₀ (cmdFault s eng c cause va) :=
  Keeps.ite h.after_engWait (Keeps.ite h.after_unitTold.after_reportFault.after_updCmd
    h.after_unitTold.after_reportFault.after_endCmd)

theorem Keeps.after_cmdPoison {eng : Nat} {c : EngCmd} (h : Keeps s₀ s) : Keeps s₀ (cmdPoison s eng c) :=
  Keeps.ite h h.after_report.after_updCmd

theorem Keeps.after_startCmd {eng : Nat} {c : EngCmd} (h : Keeps s₀ s) : Keeps s₀ (startCmd s eng c) :=
  Keeps.ite h (Keeps.after_updCmd (Keeps.ite h.after_engineAcquire h))

/-- A mover keeps the invariants where it moves. -/
def Moves (s₀ : State) (mv : Mover) : Prop := ∀ s i t p, Keeps s₀ s → mv s i = .ok (t, p) → Keeps s₀ t

theorem Keeps.after_runMoves {mv : Mover} {n : Nat} {m : Moved} (h : Keeps s₀ m.s) (hmv : Moves s₀ mv) :
    Keeps s₀ (runMoves mv n m).s := by
  induction n generalizing m with
  | zero => exact h
  | succ n ih =>
    unfold runMoves
    split
    · exact h
    next e => exact ih (hmv _ _ _ _ h e)

theorem Keeps.after_runCmd {eng : Nat} {c : EngCmd} {n : Nat} {mv : Mover} (h : Keeps s₀ s) (hmv : Moves s₀ mv) :
    Keeps s₀ (runCmd s eng c n mv) := by
  unfold runCmd
  extract_lets r src s1 s2
  have hr : Keeps s₀ r.s := Keeps.after_runMoves h.after_startCmd hmv
  have h1 : Keeps s₀ s1 := hr.frame.after_updCmd
  have h2 : Keeps s₀ s2 := Keeps.ite h1.after_cmdPoison h1
  split
  · exact h2.after_cmdFault
  · exact h2.after_endCmd

theorem Keeps.of_moveWord {src dst : EngMem} {a b : Nat} {p : Bool} (h : Keeps s₀ s)
    (e : moveWord src dst s a b = .ok (t, p)) : Keeps s₀ t := by
  unfold moveWord at e
  split at e
  · cases e
  · exact h.of_writeMove e

theorem Keeps.safe_execCopy {eng : Nat} (h : Keeps s₀ s) : Safe s₀ (execCopy eng s) := by
  unfold execCopy
  split
  · exact .next h
  · exact .next (h.after_runCmd fun _ _ _ _ h e => h.of_moveWord e)

theorem Keeps.safe_execFill {eng : Nat} (h : Keeps s₀ s) : Safe s₀ (execFill eng s) := by
  unfold execFill
  split
  · exact .next h
  · exact .next (h.after_runCmd fun _ _ _ _ h e => h.of_writeMove e)

/-- The moves of an orderly command keep the invariants where its writes do. -/
theorem moves_orderly {eng : Nat} {c : EngCmd} {n : Nat} {rd wr : List Nat}
    {read : State → Nat → Except (Nat × Nat) (Word × Bool)} {write : State → Nat → Word × Bool → Except (Nat × Nat) State}
    (hw : ∀ s k v t, Keeps s₀ s → write s k v = .ok t → Keeps s₀ t) : Moves s₀ (orderly eng c n rd wr read write) := by
  intro s i t p h e
  unfold orderly at e
  split at e
  · obtain ⟨v, -, e⟩ := ok_of_map e
    cases e
    exact h.after_updCmd
  · obtain ⟨u, hu, e⟩ := ok_of_map e
    cases e
    exact hw _ _ _ _ h hu

theorem Keeps.of_scatterWord {c : EngCmd} {j : Nat} {v : Word × Bool} {p : Bool} (h : Keeps s₀ s)
    (e : scatterWord s c j v = .ok (t, p)) : Keeps s₀ t := by
  unfold scatterWord at e
  split at e
  · cases e
  · split at e
    · cases e
      exact h
    · exact h.of_writeMove e

theorem Keeps.after_startRows {eng : Nat} {c : EngCmd} (h : Keeps s₀ s) : Keeps s₀ (startRows s eng c) :=
  Keeps.ite h h.after_startCmd.after_updCmd

theorem Keeps.after_putElems {core slot n : Nat} {es : List (Lanes × Mask)} (h : Keeps s₀ s) :
    Keeps s₀ (putElems s core slot n es) :=
  h.after_updGroup

/-- Reads of an engine into a command's record, as moves. -/
theorem moves_reads {eng id : Nat} {m : EngMem} {a : Nat → Nat} {f : Word × Bool → EngCmd → EngCmd} :
    Moves s₀ fun s i => (atAddr (a i) (engRead s m (a i))).map fun v => (updCmd s eng id (f v), v.2) := by
  intro s i t p h e
  obtain ⟨v, -, e⟩ := ok_of_map_atAddr e
  cases e
  exact h.after_updCmd

theorem Keeps.after_takeIndexes {eng : Nat} {c : EngCmd} (h : Keeps s₀ s) : Keeps s₀ (takeIndexes s eng c) := by
  unfold takeIndexes
  extract_lets takeOne r s1
  have hr : Keeps s₀ r.s := Keeps.after_runMoves h moves_reads
  have h1 : Keeps s₀ s1 := Keeps.ite hr.after_cmdPoison hr
  split
  · exact h1.after_cmdFault
  · exact h1

theorem Keeps.after_rowsPart {eng : Nat} {c : EngCmd} {n : Nat} {mv : Mover} (h : Keeps s₀ s) (hmv : Moves s₀ mv) :
    Keeps s₀ (rowsPart s eng c n mv) := by
  unfold rowsPart
  extract_lets r s1 s2
  have hr : Keeps s₀ r.s := Keeps.after_runMoves h hmv
  have hs : Keeps s₀ s2 := Keeps.ite hr.after_updCmd.after_cmdPoison hr.after_updCmd
  split
  · exact hs.after_cmdFault
  · exact hs

theorem moves_tableReads {eng : Nat} {c : EngCmd} : Moves s₀ (tableReads eng c) :=
  moves_orderly fun _ _ _ _ h e => by cases e; exact h

theorem Keeps.after_gatherIoQ {eng : Nat} {c : EngCmd} {n : Nat} {q : QueueReg} (h : Keeps s₀ s) :
    Keeps s₀ (gatherIoQ s eng c n q) :=
  Keeps.ite h.after_takeIndexes (Keeps.ite (h.after_rowsPart moves_tableReads) (Keeps.ite h
    (Keeps.ite h.after_putElems.after_updCmd.after_endCmd h.after_putElems.after_updCmd)))

theorem Keeps.after_gatherQ {eng : Nat} {c : EngCmd} (h : Keeps s₀ s) : Keeps s₀ (gatherQ s eng c) := by
  unfold gatherQ
  dsimp only
  split
  · exact h.after_startRows.after_endCmd
  · split
    · exact h.after_startRows.after_gatherIoQ
    · split
      · exact h.after_startRows
      · split
        · exact h.after_startRows.after_cmdFault
        · exact Keeps.ite (Keeps.after_endCmd (Keeps.ite h.after_startRows.after_putElems.after_updCmd.after_cmdPoison
            h.after_startRows.after_putElems.after_updCmd)) (Keeps.ite
              h.after_startRows.after_putElems.after_updCmd.after_cmdPoison h.after_startRows.after_putElems.after_updCmd)

theorem Keeps.after_scatterIoQ {eng : Nat} {c : EngCmd} {n : Nat} {q : QueueReg} (h : Keeps s₀ s) :
    Keeps s₀ (scatterIoQ s eng c n q) := by
  refine Keeps.ite h.after_takeIndexes (Keeps.ite ?_ (h.after_runCmd fun _ _ _ _ h e => h.of_scatterWord e))
  split
  · exact h
  · exact h.after_putElems.after_updCmd

theorem Keeps.after_scatterQ {eng : Nat} {c : EngCmd} (h : Keeps s₀ s) : Keeps s₀ (scatterQ s eng c) := by
  unfold scatterQ
  extract_lets n s
  have h : Keeps s₀ s := h.after_startRows
  split
  · exact h.after_endCmd
  · refine Keeps.ite h.after_scatterIoQ ?_
    split
    · exact h
    · extract_lets ws r s1 s2
      have hr : Keeps s₀ r.s := Keeps.after_runMoves h fun _ _ _ _ h e => h.of_scatterWord e
      have hs : Keeps s₀ s1 := Keeps.ite hr.after_cmdPoison hr
      split
      · exact hs.after_cmdFault
      · exact Keeps.ite hs.after_putElems.after_updCmd.after_endCmd hs.after_putElems.after_updCmd

theorem Keeps.after_orderlyRows {eng : Nat} {c : EngCmd} {gather : Bool} (h : Keeps s₀ s) :
    Keeps s₀ (orderlyRows s eng c gather) := by
  refine Keeps.ite h.after_takeIndexes (h.after_runCmd ?_)
  split
  · exact moves_orderly fun _ _ _ _ h e => h.of_engWrite (ok_of_atAddr e)
  · refine moves_orderly fun s j v t h e => ?_
    obtain ⟨⟨u, p⟩, hu, rfl⟩ := ok_of_map e
    exact h.of_scatterWord hu

theorem Keeps.safe_execGather {eng : Nat} (h : Keeps s₀ s) : Safe s₀ (execGather eng s) := by
  unfold execGather
  split
  · exact .next h
  · refine .ite (.next h.after_gatherQ) (.ite (.next h.after_startRows.after_orderlyRows)
      (.next (h.after_startRows.after_runCmd fun _ _ _ _ h e => ?_)))
    split at e
    · cases e
    · exact h.of_writeMove e

theorem Keeps.safe_execScatter {eng : Nat} (h : Keeps s₀ s) : Safe s₀ (execScatter eng s) := by
  unfold execScatter
  split
  · exact .next h
  · refine .ite (.next h.after_scatterQ) (.ite (.next h.after_startRows.after_orderlyRows)
      (.next (h.after_startRows.after_runCmd fun _ _ _ _ h e => ?_)))
    split at e
    · cases e
    · exact h.of_scatterWord e

theorem Keeps.of_putTensorByte {c : EngCmd} {a b : Tensor} {j : Nat} {v : Word × Bool} (h : Keeps s₀ s)
    (e : putTensorByte c a b s j v = .ok t) : Keeps s₀ t := by
  unfold putTensorByte at e
  dsimp only at e
  split at e
  · cases e
  · exact h.of_engWrite (ok_of_atAddr e)

theorem Keeps.of_tensorByte {c : EngCmd} {a b : Tensor} {j : Nat} {p : Bool} (h : Keeps s₀ s)
    (e : tensorByte c a b s j = .ok (t, p)) : Keeps s₀ t := by
  unfold tensorByte at e
  split at e
  · cases e
  · obtain ⟨u, hu, e⟩ := ok_of_map e
    cases e
    exact h.of_putTensorByte hu

theorem Keeps.after_moveTensor {eng : Nat} {c : EngCmd} (h : Keeps s₀ s) : Keeps s₀ (moveTensor s eng c) :=
  Keeps.ite (h.after_runCmd (moves_orderly fun _ _ _ _ h e => h.of_putTensorByte e))
    (h.after_runCmd fun _ _ _ _ h e => h.of_tensorByte e)

theorem Keeps.safe_execTcopy {eng : Nat} (h : Keeps s₀ s) : Safe s₀ (execTcopy eng s) := by
  unfold execTcopy
  dsimp only
  split
  · exact .next h
  · split
    · exact .next h.after_startCmd.after_moveTensor
    · split
      · exact .next h.after_startCmd.after_cmdFault
      · exact .next h.after_startCmd.after_cmdFault
      · exact .ite (.next (Keeps.after_moveTensor (Keeps.after_updCmd
          (Keeps.ite h.after_startCmd.after_cmdPoison h.after_startCmd)))) (.next (Keeps.after_endCmd
            (Keeps.ite h.after_startCmd.after_cmdPoison h.after_startCmd)))

theorem Keeps.safe_execLaunch (h : Keeps s₀ s) : Safe s₀ (execLaunch s) := by
  unfold execLaunch
  split
  · exact .next h
  · extract_lets q i s1 dst a
    have h1 : Keeps s₀ s1 := Keeps.ite h.after_engineAcquire h
    refine .ite (.next h) ?_
    split
    · exact .next h1.after_cmdFault
    · extract_lets r
      have hr : Keeps s₀ r.s := Keeps.after_runMoves h1 fun _ _ _ _ h e => h.of_writeMove e
      split
      · exact .next hr.after_cmdFault
      · exact .next hr.after_putBar.after_updCmd

theorem Keeps.safe_execPrdx {eng : Nat} (h : Keeps s₀ s) : Safe s₀ (execPrdx eng s) := by
  unfold execPrdx
  split
  · exact .next h
  · extract_lets s1 bytes n src r s2
    have h1 : Keeps s₀ s1 := h.after_startCmd
    have hr : Keeps s₀ r.s := Keeps.after_runMoves h1 moves_reads
    have h2 : Keeps s₀ s2 := Keeps.ite hr.after_cmdPoison hr
    refine .ite (.next h1.after_endCmd) (.ite (.next h1.after_endCmd) ?_)
    split
    · exact .next h2.after_cmdFault
    · exact .next h2.frame

theorem Keeps.after_endPairs {ps : List PairRed} {cls : Nat} (h : Keeps s₀ s) : Keeps s₀ (endPairs s ps cls) := by
  unfold endPairs
  exact h.frame.foldl fun _ _ h => Keeps.ite h h.frame

theorem moves_combineElem {ctx eng : Nat} {ws : List DWord} {xs : List (List (DWord × Bool))} :
    Moves s₀ (combineElem ctx eng ws xs) := by
  intro s i t p h e
  unfold combineElem at e
  dsimp only at e
  split at e
  · cases e
  · cases e
  · split at e
    · cases e
    split at e
    · cases e
    split at e
    · cases e
    · cases e
      exact Keeps.ite h.after_claimWords.after_homeWrite.after_homeWrite h.after_claimWords.after_homeWrite

theorem Keeps.after_combinePairs {ps : List PairRed} {p : PairRed} (h : Keeps s₀ s) : Keeps s₀ (combinePairs s ps p) := by
  unfold combinePairs
  extract_lets r src s1 s2
  have hr : Keeps s₀ r.s := Keeps.after_runMoves h moves_combineElem
  have h1 : Keeps s₀ s1 := hr.frame
  have h2 : Keeps s₀ s2 := Keeps.ite (h1.foldl fun _ _ h => Keeps.ite h h.after_updCmd) h1
  split
  · exact h2.after_endPairs
  · split
    · exact h2
    · exact Keeps.ite h2.after_cmdFault h2.after_cmdFault.after_endPairs

theorem Keeps.safe_execPrdxCombine {idx : Nat} (h : Keeps s₀ s) : Safe s₀ (execPrdxCombine idx s) := by
  unfold execPrdxCombine
  dsimp only
  split
  · exact .next h
  · split
    · exact .next h
    · split
      · exact .next h.after_combinePairs
      · split
        · exact .next h
        · exact .ite (.next h.after_combinePairs) (.next h.after_endPairs)

/-! ## Matrix -/

theorem Keeps.after_updQuad {q : Nat} {f : Quad → Quad} (h : Keeps s₀ s) : Keeps s₀ (updQuad s q f) := h.frame

theorem Keeps.after_updBank {q b : Nat} {f : Bank → Bank} (h : Keeps s₀ s) : Keeps s₀ (updBank s q b f) := h.after_updQuad

theorem Keeps.after_acceptJob {q : Nat} {j : QuadJob}
    (h : Keeps s₀ s) : Keeps s₀ (acceptJob s q j) := h.frame.after_updQuad

theorem Keeps.safe_vecIssue {ctr : BitVec 3} {ox : Ox} {scals : List Nat} {k : Group → Clause → Mask → Res}
    (h : Keeps s₀ s) (hk : ∀ g c act, Safe s₀ (k g c act)) : Safe s₀ (vecIssue ctr ox scals k s) := by
  refine .withIssuer fun g c => ?_
  split
  · exact h.safe_trapAt
  · exact h.safe_groupIssue hk

theorem Keeps.safe_execMloop {f : E} {ox : Ox} (h : Keeps s₀ s) : Safe s₀ (execMloop f ox s) := by
  unfold execMloop
  dsimp only
  refine h.safe_vecIssue fun _ _ _ => ?_
  split
  · exact h.safe_trapAt
  · split
    · exact h.safe_trapAt
    · split
      · exact h.safe_trapAt
      · split
        · exact h.safe_trapAt
        · exact .ite h.after_acceptJob.after_updBank.safe_retire h.safe_noRoom

theorem Keeps.safe_execMscale {f : E} {ox : Ox} (h : Keeps s₀ s) : Safe s₀ (execMscale f ox s) :=
  h.safe_vecIssue fun _ _ _ => .ite h.safe_trapAt (.ite h.safe_trapAt (.ite h.safe_noRoom h.after_updBank.safe_retire))

theorem Keeps.safe_execMzero {f : EZ} {ox : Option Ox} (h : Keeps s₀ s) : Safe s₀ (execMzero f ox s) :=
  h.safe_groupIssue fun _ _ _ => .ite h.after_acceptJob.after_updBank.safe_retire h.safe_noRoom

theorem Keeps.safe_acceptDrain {g : Group} {c : Clause} {f : EN} {q : Nat} {d : List DWord} {kind : QuadWork}
    (h : Keeps s₀ s) : Safe s₀ (acceptDrain s g c f q d kind) := by
  unfold acceptDrain
  exact h.after_acceptJob.safe_retire

theorem Keeps.safe_execMdrainQ {f : EN} {ox : Option Ox} (h : Keeps s₀ s) : Safe s₀ (execMdrainQ f ox s) := by
  unfold execMdrainQ
  dsimp only
  refine h.safe_groupIssue fun _ _ _ => ?_
  split
  · exact h.safe_trapAt
  · exact h.safe_acceptDrain

theorem Keeps.safe_execMdrainSp {f : EN} {ox : Option Ox} (h : Keeps s₀ s) : Safe s₀ (execMdrainSp f ox s) := by
  unfold execMdrainSp
  dsimp only
  refine h.safe_groupIssue fun _ _ _ => ?_
  split
  · exact h.safe_trapAt
  · exact h.safe_acceptDrain

theorem Keeps.safe_execMstat {f : EN} {ox : Option Ox} (h : Keeps s₀ s) : Safe s₀ (execMstat f ox s) :=
  h.safe_groupIssue fun _ _ _ => h.safe_retire

theorem Keeps.safe_execDntile {f : YN} {ox : Option Ox} (h : Keeps s₀ s) : Safe s₀ (execDntile f ox s) := by
  unfold execDntile
  dsimp only
  refine h.safe_groupIssueFor fun _ _ _ => ?_
  split
  · exact h.safe_trapAt
  · exact .ite h.safe_waits h.after_acceptJob.safe_retire

theorem Keeps.after_pathRecord {g : Group} {o : MemOp} {races : List (Nat × Nat)} (h : Keeps s₀ s) :
    Keeps s₀ (pathRecord s g o races).1 := by
  unfold pathRecord
  dsimp only
  split
  · exact h
  · exact h.frame.after_setGroup.after_recordOp

theorem Keeps.safe_execMpath {f : EP} {ox : Ox} (h : Keeps s₀ s) : Safe s₀ (execMpath f ox s) := by
  unfold execMpath
  dsimp only
  refine h.safe_memStart fun _ _ _ => ?_
  split
  · exact h.safe_trapAt
  · split
    · exact h.safe_waits
    · split
      · exact .next (h.foldl fun _ _ h1 => h1.after_askWalk)
      · split
        · exact h.safe_waits
        · split
          next e => exact .next (h.of_snoopFirst e)
          · exact .ite (.next (Keeps.after_startBatch (Keeps.after_pathRecord (h.foldl fun _ _ h1 => h1.after_readHome))))
              (.ite (Keeps.safe_retire (Keeps.after_pathRecord (h.foldl fun _ _ h1 => h1.after_readHome)))
                (Keeps.safe_memTrap (Keeps.after_pathRecord (h.foldl fun _ _ h1 => h1.after_readHome))))

/-! ## Tiles -/

theorem Keeps.after_updTile {ctx tile : Nat} {f : Tile → Tile}
    (h : Keeps s₀ s) : Keeps s₀ (updTile s ctx tile f) := h.frame

theorem Keeps.of_landAdd {a : TileAdd} (h : Keeps s₀ s) (e : landAdd s a = some t) : Keeps s₀ t := by
  unfold landAdd at e
  dsimp only at e
  split at e
  · obtain ⟨-, ⟨⟩⟩ := Option.ite_none_left_eq_some.1 e
    exact h.after_updTile
  · obtain ⟨-, ⟨⟩⟩ := Option.ite_none_right_eq_some.1 e
    exact h.frame

theorem Keeps.after_startVictim {slice : Nat} (h : Keeps s₀ s) : Keeps s₀ (startVictim s slice) := by
  unfold startVictim
  dsimp only
  split
  · exact h
  · exact h.after_updTile

theorem Keeps.after_wantPlace {slice : Nat} (h : Keeps s₀ s) : Keeps s₀ (wantPlace s slice) :=
  Keeps.ite h.after_startVictim h

theorem Keeps.after_addSamples {a : TileAdd} (h : Keeps s₀ s) : Keeps s₀ (addSamples s a).1 := by
  unfold addSamples
  split
  next e => exact h.of_landAdd e
  · exact h.frame.after_wantPlace

theorem Keeps.of_landFirst {pre as : List TileAdd} {a : TileAdd} (h : Keeps s₀ s)
    (e : landFirst s pre as = some (t, a)) : Keeps s₀ t := by
  induction as generalizing pre with
  | nil => cases e
  | cons x as ih =>
    unfold landFirst at e
    split at e
    next e' =>
      cases e
      exact (h.of_landAdd e').frame
    · exact ih e

theorem Keeps.safe_execTileAddResume (h : Keeps s₀ s) : Safe s₀ (execTileAddResume s) := by
  unfold execTileAddResume
  split
  next e => exact .next (Keeps.ite (h.of_landFirst e) (h.of_landFirst e).after_finishOp)
  · exact .next (h.foldl fun _ _ h => h.after_wantPlace)

theorem Keeps.after_mergeImg {t : Tile} {k loc : Nat} (h : Keeps s₀ s) : Keeps s₀ (mergeImg s t k loc).1 := by
  unfold mergeImg
  exact h.after_claimWords.after_homeWrites

theorem Keeps.after_mergeMrk {t : Tile} {k loc : Nat} (h : Keeps s₀ s) : Keeps s₀ (mergeMrk s t k loc).1 := by
  unfold mergeMrk
  exact h.after_claimWords.after_homeWrite

theorem Keeps.after_act {t : Tile} {loc : Nat} {x : RetireStep} (h : Keeps s₀ s) :
    Keeps s₀ (x.act s t loc).1 := by
  unfold RetireStep.act
  split
  · exact h.after_mergeImg
  · exact h.after_mergeMrk
  · exact Keeps.after_homeWrites (h.foldl fun _ _ h => h.after_overtake)

theorem Keeps.after_retireFrom {xs : List RetireStep} {t : Tile} (h : Keeps s₀ s) : Keeps s₀ (retireFrom xs s t).1 := by
  induction xs generalizing s t with
  | nil => exact h
  | cons x xs ih =>
    unfold retireFrom
    dsimp only
    split
    · exact h.after_askWalk
    · exact h.after_unitTold
    · split
      · exact h
      split
      · exact h.after_recallWords
      split
      next e => exact h.of_snoopFirst e
      · exact ih h.after_act

theorem Keeps.after_freeTile {t : Tile} (h : Keeps s₀ s) : Keeps s₀ (freeTile s t) := h.frame

theorem Keeps.after_dropTile {t : Tile} {cause va : Nat} (h : Keeps s₀ s) : Keeps s₀ (dropTile s t cause va) :=
  h.after_freeTile.after_reportCtx

theorem Keeps.after_endFlushes {ctx : Nat} (h : Keeps s₀ s) : Keeps s₀ (endFlushes s ctx) :=
  Keeps.ite h (h.frame.foldl fun _ _ h => h.after_finishCmd)

theorem Keeps.safe_execTileRetire {ctx tile : Nat} (h : Keeps s₀ s) : Safe s₀ (execTileRetire ctx tile s) := by
  unfold execTileRetire
  split
  · exact .next h
  next t _ =>
    have hr := h.after_retireFrom (xs := (retireSteps t).drop t.pos) (t := t)
    refine .ite (.next h) ?_
    dsimp only
    split
    · exact .next hr.after_updTile
    · exact .next (Keeps.ite hr.after_unitRelease.after_freeTile.after_endFlushes hr.after_unitRelease.after_updTile)
    · exact .ite (.next hr.after_updTile.after_reportCtx) (.next hr.after_tellFault.after_dropTile.after_endFlushes)

/-! ## MatrixRun -/

theorem Keeps.after_updJob {q id : Nat} {f : QuadJob → QuadJob} (h : Keeps s₀ s) : Keeps s₀ (updJob s q id f) :=
  h.after_updQuad

theorem Keeps.after_tryRelease {q b : Nat} (h : Keeps s₀ s) : Keeps s₀ (tryRelease s q b) := Keeps.ite h.after_updBank h

theorem Keeps.after_endJob {q : Nat} {j : QuadJob} {cls : Nat} (h : Keeps s₀ s) : Keeps s₀ (endJob s q j cls) :=
  h.after_updJob.after_tryRelease

theorem Keeps.after_jobFault {q : Nat} {j : QuadJob} {cause va : Nat} (h : Keeps s₀ s) :
    Keeps s₀ (jobFault s q j cause va) :=
  Keeps.ite h.after_engWait (Keeps.ite h.after_unitTold.after_reportFault.after_updJob
    h.after_unitTold.after_reportFault.after_endJob)

theorem Keeps.after_softEvent {q : Nat} {j : QuadJob} {cls : Nat} (h : Keeps s₀ s) : Keeps s₀ (softEvent s q j cls) :=
  h.after_report.after_updJob

theorem Keeps.after_jobPoison {q : Nat} {j : QuadJob} {bad : Bool} (h : Keeps s₀ s) : Keeps s₀ (jobPoison s q j bad) :=
  Keeps.ite h.after_report.after_updJob h

theorem Keeps.safe_execBankZero {quad bank : Nat} (h : Keeps s₀ s) : Safe s₀ (execBankZero quad bank s) := by
  unfold execBankZero
  dsimp only
  split
  · exact .next h
  · exact .ite (.next h) (.next h.after_updBank.after_updQuad.after_tryRelease.after_finishOp)

theorem Keeps.safe_execMloopStart {quad : Nat} (h : Keeps s₀ s) : Safe s₀ (execMloopStart quad s) := by
  unfold execMloopStart
  dsimp only
  split
  · exact .next h
  · split
    · exact .next (Keeps.after_jobFault (Keeps.ite h.after_engineAcquire h))
    · exact .next (Keeps.after_jobFault (Keeps.ite h.after_engineAcquire h))
    · exact .ite (.next (Keeps.after_updJob (Keeps.after_jobPoison (Keeps.ite h.after_engineAcquire h)))) (.next
        (Keeps.after_endJob (Keeps.after_jobPoison (Keeps.ite h.after_engineAcquire h))))

theorem Keeps.safe_execDenoiseStart {quad : Nat} (h : Keeps s₀ s) : Safe s₀ (execDenoiseStart quad s) := by
  unfold execDenoiseStart
  dsimp only
  split
  · exact .next h
  · split
    · exact .next h.after_jobFault
    · exact .ite (.next h.after_jobPoison.after_endJob) (.next
        (Keeps.ite h.after_jobPoison.after_updBank.after_updJob.after_updTile h.after_jobPoison.after_updBank.after_updJob))

theorem Keeps.after_writeTile {q : Nat} {j : QuadJob} (h : Keeps s₀ s) : Keeps s₀ (writeTile s q j) := by
  unfold writeTile
  dsimp only
  split
  · exact Keeps.after_jobFault (Keeps.after_updJob (Keeps.after_runMoves h fun _ _ _ _ h e => h.of_writeMove e))
  · exact Keeps.after_endJob (Keeps.after_updJob (Keeps.after_runMoves h fun _ _ _ _ h e => h.of_writeMove e))

theorem Keeps.after_takePages {q fuel : Nat} {j : QuadJob} (h : Keeps s₀ s) : Keeps s₀ (takePages q fuel s j).1 := by
  induction fuel generalizing s j with
  | zero => exact h
  | succ fuel ih =>
    unfold takePages
    split
    · split
      · exact h.after_engWait
      split
      · exact h
      · split
        · exact h.after_askWalk
        · exact h
        · exact ih h.after_updJob
    · exact h

theorem Keeps.after_beginStep {q : Nat} {j : QuadJob} {as bs : List Strip} (h : Keeps s₀ s) :
    Keeps s₀ (beginStep s q j as bs) := by
  unfold beginStep
  exact h.after_updQuad

theorem Keeps.after_startStep {q : Nat} {js : List QuadJob} (h : Keeps s₀ s) : Keeps s₀ (startStep q js s) := by
  induction js generalizing s with
  | nil => exact h
  | cons j js ih =>
    have ht := h.after_takePages (q := q) (fuel := stepPages) (j := j)
    unfold startStep
    refine Keeps.ite (ih h.after_writeTile) ?_
    split
    next e => exact ih (ht.of_fst e)
    next e => exact (ht.of_fst e).after_beginStep
    next e => exact ih (ht.of_fst e).after_jobFault
    next e => exact ih (ht.of_fst e).after_endJob

theorem Keeps.safe_execMatrixStepStart {quad : Nat} (h : Keeps s₀ s) : Safe s₀ (execMatrixStepStart quad s) :=
  .ite (.next h) (.next h.after_startStep)

theorem Keeps.after_commitStep {q : Nat} {j : QuadJob} {o : StepOut}
    (h : Keeps s₀ s) : Keeps s₀ (commitStep s q j o) := by
  unfold commitStep
  exact Keeps.ite (Keeps.ite (Keeps.after_writeTile (Keeps.ite h.after_updBank.after_updJob.after_softEvent
    h.after_updBank.after_updJob)) (Keeps.ite h.after_updBank.after_updJob.after_softEvent h.after_updBank.after_updJob))
      (Keeps.ite (Keeps.after_endJob (Keeps.ite h.after_updBank.after_updJob.after_softEvent h.after_updBank.after_updJob))
        (Keeps.ite h.after_updBank.after_updJob.after_softEvent h.after_updBank.after_updJob))

theorem Keeps.safe_execMatrixStepEnd {quad : Nat} (h : Keeps s₀ s) : Safe s₀ (execMatrixStepEnd quad s) := by
  unfold execMatrixStepEnd
  dsimp only
  split
  · exact .next (Keeps.ite h.after_updQuad h.after_updQuad.after_commitStep)
  · exact .next h.after_updQuad

theorem drainWrite_wf {u : Team} {a n : Nat} {v : Word × Bool} (h : Memory.wf u.mem = true) :
    Memory.wf (drainWrite u a n v).mem = true := by
  unfold drainWrite
  split <;> exact spPut_wf h

theorem Keeps.after_drainToSp {q : Nat} {j : QuadJob} (h : Keeps s₀ s) : Keeps s₀ (drainToSp s q j) := by
  refine h.after_updTeam fun u hu => foldl_team_wf hu fun u x hu => ?_
  split
  · exact drainWrite_wf hu
  · exact hu

theorem Keeps.after_endDrain {q : Nat} {j : QuadJob} {cls : Nat} (h : Keeps s₀ s) : Keeps s₀ (endDrain s q j cls) :=
  h.after_endJob.after_finishOp

theorem Keeps.after_askRelease {q : Nat} {j : QuadJob} (h : Keeps s₀ s) : Keeps s₀ (askRelease s q j) :=
  Keeps.ite h.after_updBank.after_tryRelease h

theorem Keeps.after_readDrain {q : Nat} {j : QuadJob} (h : Keeps s₀ s) : Keeps s₀ (readDrain s q j) := by
  unfold readDrain
  exact Keeps.ite (Keeps.after_endDrain (Keeps.after_askRelease (Keeps.after_drainToSp (Keeps.after_updJob
    (Keeps.ite h.after_softEvent h))))) (Keeps.after_askRelease (Keeps.after_updJob (Keeps.ite h.after_softEvent h)))

theorem Keeps.after_pushDrain {q : Nat} {j : QuadJob} (h : Keeps s₀ s) : Keeps s₀ (pushDrain s q j) := by
  unfold pushDrain
  dsimp only
  split
  · exact h.after_endDrain
  · exact Keeps.ite h (Keeps.ite h.after_putElems.after_updJob.after_endDrain h.after_putElems.after_updJob)

theorem Keeps.safe_execMdrainRead {quad : Nat} (h : Keeps s₀ s) : Safe s₀ (execMdrainRead quad s) := by
  unfold execMdrainRead
  dsimp only
  split
  · exact .next h
  · exact .ite (.next h.after_pushDrain) (.next h.after_readDrain)

theorem Keeps.after_softEnd {q : Nat} {j : QuadJob} (h : Keeps s₀ s) : Keeps s₀ (softEnd s q j) :=
  h.after_updQuad.after_softEvent.after_endJob

theorem Keeps.after_softElement {q : Nat} {j : QuadJob} {key : Nat}
    (h : Keeps s₀ s) : Keeps s₀ (softElement s q j key) := by
  unfold softElement
  exact Keeps.ite h.after_updBank.after_softEnd (Keeps.ite h.after_updBank.after_updJob h)

theorem Keeps.after_softError {q : Nat} {e : SoftErr} (h : Keeps s₀ s) : Keeps s₀ (softError s q e) := by
  unfold softError
  dsimp only
  split
  · exact h
  · split
    · exact h.after_softEvent
    · exact Keeps.ite h.after_softEnd h
    · exact Keeps.ite h.after_updBank.after_softEnd h
    · exact h.after_softElement

theorem Keeps.after_signalTeam {team bofs cls ident : Nat}
    (h : Keeps s₀ s) : Keeps s₀ (signalTeam s team bofs cls ident) :=
  h.after_updTeam fun _ hu => spPutD_wf (spPutD_wf hu)

theorem Keeps.after_releaseEnd {ctx : Nat} {scope : Option Nat}
    (h : Keeps s₀ s) : Keeps s₀ (releaseEnd s ctx scope).1 := by
  unfold releaseEnd
  split
  · exact h
  · exact h.after_unitRelease

theorem Keeps.after_completeCmd {eng : Nat} {c : EngCmd} {cls : Nat} (h : Keeps s₀ s) :
    Keeps s₀ (completeCmd s eng c cls) := by
  unfold completeCmd
  exact Keeps.frame (Keeps.ite h.after_signalTeam h)

theorem Keeps.after_completeJob {q : Nat} {j : QuadJob} {cls : Nat}
    (h : Keeps s₀ s) : Keeps s₀ (completeJob s q j cls) := by
  unfold completeJob
  exact Keeps.after_tryRelease (Keeps.after_updQuad (Keeps.ite h.after_signalTeam h))

theorem Keeps.safe_execEngineCmdComplete {unit id : Nat}
    (h : Keeps s₀ s) : Safe s₀ (execEngineCmdComplete unit id s) := by
  unfold execEngineCmdComplete
  split
  · split
    · exact .next h
    · split
      · split
        next e => exact .next (h.after_releaseEnd.of_fst e).after_completeJob
        next e => exact .next (h.after_releaseEnd.of_fst e)
      · exact .next h
  · split
    · exact .next h
    · split
      · split
        next e => exact .next (h.after_releaseEnd.of_fst e).after_completeCmd
        next e => exact .next (h.after_releaseEnd.of_fst e)
      · exact .next h

/-! ## RayInstr -/

theorem Keeps.safe_rayStart {m : RayForm} {k : Group → Clause → Mask → Res} (h : Keeps s₀ s)
    (hk : ∀ g c act, Safe s₀ (k g c act)) : Safe s₀ (rayStart m k s) := by
  refine .withIssuer fun g c => ?_
  split
  · exact h.safe_trapAt
  · exact .ite h.safe_waits (.ite h.safe_retire (.ite h.safe_trapAt (hk _ _ _)))

theorem Keeps.safe_rayEnd {g : Group} {c : Clause} {dst : Nat} {fs : List (Nat × Nat)} (h : Keeps s₀ s) :
    Safe s₀ (rayEnd s g c dst fs) :=
  .ite h.safe_retire h.safe_memTrap

theorem Keeps.after_putRayWords {g : Group} {l i : Nat} {ws : List Word} (h : Keeps s₀ s) :
    Keeps s₀ (putRayWords s g l i ws) := by
  unfold putRayWords
  split
  · exact h.after_updRay
  · exact h

theorem Keeps.safe_execRayget {f : YK} {ox : Option Ox} (h : Keeps s₀ s) : Safe s₀ (execRayget f ox s) :=
  h.safe_rayStart fun _ _ _ => h.safe_retire

theorem Keeps.safe_execRayset {f : YK} {ox : Option Ox} (h : Keeps s₀ s) : Safe s₀ (execRayset f ox s) := by
  unfold execRayset
  exact h.safe_rayStart fun _ _ _ => Keeps.safe_rayEnd (h.foldl fun _ _ h1 => h1.after_putRayWords)

theorem Keeps.safe_execHitattr {f : YK} {ox : Option Ox} (h : Keeps s₀ s) : Safe s₀ (execHitattr f ox s) :=
  h.safe_rayStart fun _ _ _ => h.safe_retire

theorem Keeps.after_traceLane {g : Group} {a : BitVec 7} {k l : Nat}
    (h : Keeps s₀ s) : Keeps s₀ (traceLane s g a k l) := by
  unfold traceLane
  exact Keeps.after_putRayWords (Keeps.ite h.after_putRayWords h.after_putRayWords.after_putRayWords)

theorem Keeps.safe_execTrace {f : YT} {ox : Option Ox} (h : Keeps s₀ s) : Safe s₀ (execTrace f ox s) := by
  unfold execTrace
  exact h.safe_rayStart fun _ _ _ => .ite h.safe_rayEnd (Keeps.safe_rayEnd (h.foldl fun _ _ h1 => h1.after_traceLane))

theorem Keeps.after_spawnNow {p : Spawning} {f : Y} {l : Nat} (h : Keeps s₀ p.s) : Keeps s₀ (spawnNow p f l).s :=
  h.after_setGroup.after_newRay.after_enterTrav

theorem Keeps.after_spawnLane {f : Y} {status : Bool} {bad : Mask} {p : Spawning} {l : Nat} (h : Keeps s₀ p.s) :
    Keeps s₀ (spawnLane f status bad p l).s := by
  unfold spawnLane
  split
  · exact h
  split
  · exact h
  split
  · exact h
  split
  · exact h.after_spawnNow
  split
  · exact h
  · exact h

theorem Keeps.after_spawns {f : Y} {status : Bool} {bad : Mask} {p : Spawning} {ls : List Nat} (h : Keeps s₀ p.s) :
    Keeps s₀ (ls.foldl (spawnLane f status bad) p).s := by
  induction ls generalizing p with
  | nil => exact h
  | cons l ls ih => exact ih h.after_spawnLane

theorem Keeps.safe_execSpwn {f : Y} {ox : Option Ox} (h : Keeps s₀ s) : Safe s₀ (execSpwn f ox s) := by
  unfold execSpwn
  refine h.safe_rayStart fun _ _ _ => Keeps.safe_rayEnd ?_
  exact Keeps.after_spawns h

theorem Keeps.after_endRsv {g : Group} {total op : Nat} {granted : Bool} (h : Keeps s₀ s) :
    Keeps s₀ (endRsv s g total op granted) :=
  Keeps.ite h.after_recordOp h.after_finishOp

theorem Keeps.after_answerRsv {g : Group} {o : MemOp} {n : List (Nat × Nat)} {total : Nat} {granted : Bool}
    (h : Keeps s₀ s) : Keeps s₀ (answerRsv s g o n total granted) := by
  unfold answerRsv
  exact h.after_updGroup.after_endRsv

theorem Keeps.safe_rsvIssue {g : Group} {c : Clause} {f : YA} {n : List (Nat × Nat)} {want : Option Bool}
    (h : Keeps s₀ s) : Safe s₀ (rsvIssue s g c f n want) := by
  unfold rsvIssue
  exact .ite (.next h.frame.after_setGroup.after_answerRsv) (.next h.frame.after_setGroup.after_updCtx)

theorem Keeps.safe_execRsv {f : YA} {ox : Option Ox} (h : Keeps s₀ s) : Safe s₀ (execRsv f ox s) := by
  unfold execRsv
  dsimp only
  refine h.safe_rayStart fun _ _ _ => ?_
  split
  · exact h.safe_rayEnd
  · split
    · split
      · exact .ite h.after_matchRec.safe_rsvIssue h.after_meetBad.safe_trapAt
      · exact h.after_meetBad.safe_trapAt
    · exact h.safe_rsvIssue

theorem Keeps.after_answerOldest {ctx : Nat} {g : Group} {o : MemOp} {granted : Bool} (h : Keeps s₀ s) :
    Keeps s₀ (answerOldest s ctx g o granted) := by
  unfold answerOldest
  dsimp only
  split
  · exact h.after_updCtx.after_answerRsv
  · exact h.after_updCtx

theorem Keeps.safe_execRsvGrant {ctx : Nat} (h : Keeps s₀ s) : Safe s₀ (execRsvGrant ctx s) := by
  unfold execRsvGrant
  split
  · exact .next h
  · split
    · exact .ite (.next h.after_answerOldest) (.ite (.next h.after_answerOldest) (.next h))
    · exact .next h

theorem Keeps.safe_execPoolDrainTimeout {ctx : Nat} (h : Keeps s₀ s) : Safe s₀ (execPoolDrainTimeout ctx s) := by
  unfold execPoolDrainTimeout
  split
  · exact .next h
  · split
    · exact .ite (.next h.after_answerOldest) (.next h)
    · exact .next h

theorem Keeps.safe_decideHit {ctr : BitVec 3} {ox : Option Ox} {d : AnyHit} (h : Keeps s₀ s) :
    Safe s₀ (decideHit ctr ox d s) :=
  h.safe_rayStart fun _ _ _ => h.safe_retire

theorem Keeps.safe_execEpend {ctr : BitVec 3} {ox : Option Ox} (h : Keeps s₀ s) : Safe s₀ (execEpend ctr ox s) :=
  h.safe_rayStart fun _ _ _ => .ite h.safe_trapAt (.next h.after_settle)

theorem Keeps.safe_accumulate {m : RayForm} {d : BitVec 7} {first : Nat} {pixel : Group → Nat → Nat} (h : Keeps s₀ s) :
    Safe s₀ (accumulate m d first pixel s) := by
  refine h.safe_rayStart fun g c act => ?_
  extract_lets bad out r fs
  have hr : Keeps s₀ r.1 := Keeps.foldl_fst h fun _ _ h => h.after_addSamples
  exact .ite hr.safe_rayEnd hr.frame.safe_rayEnd

theorem Keeps.of_roomForTreelet {slice : Nat} (h : Keeps s₀ s) (e : roomForTreelet s slice = some t) : Keeps s₀ t := by
  unfold roomForTreelet at e
  split at e
  · cases e
    exact h
  · split at e <;> cases e
    exact h.frame

theorem Keeps.after_updTreelet {ctx base t : Nat} {f : Treelet → Treelet} (h : Keeps s₀ s) :
    Keeps s₀ (updTreelet s ctx base t f) :=
  h.frame

theorem Keeps.after_placeTreelet {t : Treelet} (h : Keeps s₀ s) : Keeps s₀ (placeTreelet s t) := by
  unfold placeTreelet
  split
  · exact h
  · split
    next e => exact (h.of_roomForTreelet e).after_updTreelet
    · exact h

theorem Keeps.after_beginFetch {ctx base t : Nat} (h : Keeps s₀ s) : Keeps s₀ (beginFetch s ctx base t) :=
  Keeps.ite h h.frame.after_placeTreelet

theorem Keeps.after_tlpfLane {base : Nat} {g : Group} {t : Nat} (h : Keeps s₀ s) : Keeps s₀ (tlpfLane base g s t) := by
  unfold tlpfLane
  exact Keeps.ite h (Keeps.ite (Keeps.after_beginFetch (h.foldl fun _ _ h => h.after_fillNow))
    (h.foldl fun _ _ h => h.after_fillNow))

theorem Keeps.safe_execTlpf {f : YT} {ox : Option Ox} (h : Keeps s₀ s) : Safe s₀ (execTlpf f ox s) := by
  unfold execTlpf
  exact h.safe_rayStart fun _ _ _ => Keeps.safe_retire (h.foldl fun _ _ h1 => h1.after_tlpfLane)

theorem Keeps.safe_execPoolst {f : YS} {ox : Option Ox} (h : Keeps s₀ s) : Safe s₀ (execPoolst f ox s) :=
  h.safe_rayStart fun _ _ _ => h.safe_retire

/-! ## Traverse -/

theorem Keeps.after_intoTraversal {t : Nat} {r : Ray} (h : Keeps s₀ s) : Keeps s₀ (intoTraversal t s r) := by
  unfold intoTraversal
  split
  next e => exact Keeps.ite (h.of_onDie e).after_enterTrav (h.of_onDie e).after_updRay
  · exact h

theorem Keeps.after_toTraversal {b : Bin} (h : Keeps s₀ s) : Keeps s₀ (toTraversal s b) :=
  Keeps.after_tidyBins (h.foldl fun _ _ h => h.after_intoTraversal)

theorem Keeps.safe_execTreeletFetchStart {ctx grid treelet : Nat} (h : Keeps s₀ s) :
    Safe s₀ (execTreeletFetchStart ctx grid treelet s) := by
  unfold execTreeletFetchStart
  dsimp only
  split
  · split
    · exact .next h
    · split
      · exact .ite (.next h.after_toTraversal) (.next h)
      · exact .ite (.next h.after_beginFetch) (.next h)
  · exact .next h

theorem Keeps.safe_execTreeletAgeExpire {ctx grid treelet : Nat} (h : Keeps s₀ s) :
    Safe s₀ (execTreeletAgeExpire ctx grid treelet s) := by
  unfold execTreeletAgeExpire
  split
  · exact .next h
  · exact .ite (.next h.after_makeReady) (.next h)

theorem Keeps.after_failFetch {t : Treelet} (h : Keeps s₀ s) : Keeps s₀ (failFetch s t) := by
  unfold failFetch
  dsimp only
  refine h.frame.foldl fun _ _ h => ?_
  split
  · exact h.after_rayError
  · exact h

theorem Keeps.after_endFetch {t : Treelet} (h : Keeps s₀ s) : Keeps s₀ (endFetch s t) := by
  unfold endFetch
  exact Keeps.ite h.after_updTreelet (h.after_updTreelet.foldl fun _ _ h => h.after_toTraversal)

theorem Keeps.after_runFetch {t : Treelet} (h : Keeps s₀ s) : Keeps s₀ (runFetch s t) := by
  unfold runFetch
  dsimp only
  split
  · exact Keeps.ite h.after_unitTold.after_updTreelet.after_reportCtx h.after_unitTold.after_tellFault.after_failFetch
  · exact Keeps.ite (h.foldl fun _ _ h => Keeps.ite h.after_askWalk h)
      (Keeps.getD h.after_endFetch fun _ e => h.of_snoopFirst e)

theorem Keeps.safe_execTreeletFetchComplete {ctx grid treelet : Nat} (h : Keeps s₀ s) :
    Safe s₀ (execTreeletFetchComplete ctx grid treelet s) := by
  unfold execTreeletFetchComplete
  dsimp only
  split
  · exact .next h
  · split
    · exact .next h
    · split
      · exact .next (Keeps.ite h.after_placeTreelet.after_runFetch h.after_placeTreelet)
      · exact .next h.after_placeTreelet

theorem Keeps.after_saveTrav {r : Ray} (h : Keeps s₀ s) : Keeps s₀ (saveTrav s r) := h.after_updRay

theorem Keeps.safe_execTraverse {ray : Nat} (h : Keeps s₀ s) : Safe s₀ (execTraverse ray s) := by
  unfold execTraverse
  dsimp only
  split
  · exact .next h
  · split
    · split
      · exact .next h.after_moveRay
      · split
        · exact .next h.after_updTreelet.after_saveTrav
        · exact .next h.after_updTreelet.after_saveTrav.after_resumeRay
        · exact .next h.after_updTreelet.after_rayError
        · exact .next h.after_updTreelet.after_saveTrav.after_enterShade
    · exact .next h

theorem Keeps.after_continueRay {r : Ray} {d : AnyHit} (h : Keeps s₀ s) : Keeps s₀ (continueRay s r d) := by
  unfold continueRay
  exact h.after_saveTrav.after_resumeRay

/-! ## Sorter -/

theorem Keeps.after_disposeRay {g : Group} {e : Nat × Nat} (h : Keeps s₀ s) : Keeps s₀ (disposeRay g s e) := by
  unfold disposeRay
  dsimp only
  split
  · exact h.after_updRay
  · split
    · exact h.after_updRay.after_enterTrav
    · exact h.after_updRay.after_continueRay
    · exact h.after_updRay.after_retireRay

theorem Keeps.after_tellPayload {g : Group}
    (h : Keeps s₀ s) : Keeps s₀ (tellPayload s g) := Keeps.ite h.after_reportGroup h

theorem Keeps.safe_execEpisodeEnd {core slot : Nat} (h : Keeps s₀ s) : Safe s₀ (execEpisodeEnd core slot s) := by
  unfold execEpisodeEnd
  dsimp only
  split
  · exact .next h
  · exact .ite (.ite (.next (Keeps.after_setGroup (Keeps.after_freeQueues (Keeps.after_updCtx
      (h.after_tellPayload.after_closeReds.foldl fun _ _ h => h.after_disposeRay))))) (.next (Keeps.after_dropGroup
        (Keeps.after_freeQueues (Keeps.after_updCtx (h.after_tellPayload.after_closeReds.foldl fun _ _ h =>
          h.after_disposeRay)))))) (.next h)

theorem Keeps.safe_execWaitGroupTimeout {core slot : Nat}
    (h : Keeps s₀ s) : Safe s₀ (execWaitGroupTimeout core slot s) := by
  unfold execWaitGroupTimeout
  split
  · exact .next h
  · split
    · exact .next h
    · exact .ite (.next h.after_dropGroup) (.next h)

theorem Keeps.safe_execBinAgeReady {idx : Nat} (h : Keeps s₀ s) : Safe s₀ (execBinAgeReady idx s) := by
  unfold execBinAgeReady
  split
  · exact .next h
  · exact .ite (.next h.after_makeReady) (.next h)

theorem Keeps.of_onDies {keep ids : List Nat} (h : Keeps s₀ s) (e : ids.foldlM (onDie keep) s = some t) : Keeps s₀ t := by
  induction ids generalizing s with
  | nil =>
    cases e
    exact h
  | cons id ids ih =>
    rw [List.foldlM_cons] at e
    obtain ⟨u, hu, e⟩ := Option.bind_eq_some_iff.1 e
    exact ih (h.of_onDie hu) e

theorem Keeps.of_waveOnDie {w : Wave} {rs : List Ray}
    (h : Keeps s₀ s) (e : waveOnDie s w = some (t, rs)) : Keeps s₀ t := by
  obtain ⟨u, hu, e⟩ := Option.map_eq_some_iff.1 e
  cases e
  exact h.of_onDies hu

theorem Keeps.after_startWave {gr : Grid} {w : Wave} {e : DWord × DWord} {rays : List Ray} {core slot : Nat}
    (h : Keeps s₀ s) : Keeps s₀ (startWave s gr w e rays core slot) := by
  unfold startWave
  dsimp only
  refine Keeps.after_tidyBins ?_
  refine Keeps.after_updGrid ?_
  refine Keeps.foldl ?_ fun _ _ h => h.after_updRay
  refine Keeps.frame (s := ?_) ?_
  split
  · exact h.after_leaveJobs.after_logWrite.after_unstall
  · split
    · exact h.after_leaveJobs.after_matchRec
    · exact h.after_leaveJobs

theorem Keeps.after_dispatchFirst {ws : List Wave} (h : Keeps s₀ s) : Keeps s₀ (dispatchFirst ws s) := by
  induction ws generalizing s with
  | nil => exact h
  | cons w ws ih =>
    unfold dispatchFirst
    split
    next e =>
      split
      · exact h.after_meetBad.after_divergeUnit
      · refine Keeps.ite (h.of_waveOnDie e) (Keeps.ite (ih h) (Keeps.ite (ih h.after_stallAt) ?_))
        split
        · exact (h.of_waveOnDie e).after_startWave
        · exact ih h
    · exact ih h

theorem Keeps.safe_execWaveDispatch (h : Keeps s₀ s) : Safe s₀ (execWaveDispatch s) :=
  .next h.after_keepStalls.after_dispatchFirst

/-! ## Commands -/

theorem Keeps.after_clearBlock {ctx : Nat} (h : Keeps s₀ s) : Keeps s₀ (clearBlock s ctx) := h.frame

theorem Keeps.safe_execCtxcreate (h : Keeps s₀ s) : Safe s₀ (execCtxcreate s) :=
  h.safe_onCode fun _ _ h => Keeps.ite h.after_finishCmd h.after_clearBlock.after_updCtx.after_finishCmd

theorem Keeps.after_startLog {ctx : Nat} (h : Keeps s₀ s) : Keeps s₀ (startLog s ctx) := by
  unfold startLog
  exact Keeps.ite (Keeps.after_setStat (Keeps.ite h.after_putCtx.after_putCtx.frame.after_updCtx.frame
    h.after_putCtx.after_putCtx.frame.after_updCtx)) (Keeps.ite h.after_putCtx.after_putCtx.frame.after_updCtx.frame
      h.after_putCtx.after_putCtx.frame.after_updCtx)

theorem Keeps.after_applyPart {ctx bit : Nat} (h : Keeps s₀ s) : Keeps s₀ (applyPart s ctx bit) := by
  unfold applyPart
  exact Keeps.ite (Keeps.after_startLog (h.foldl fun _ _ h => h.after_putCtx)) (h.foldl fun _ _ h => h.after_putCtx)

theorem Keeps.after_rejectPart {ctx bit : Nat} (h : Keeps s₀ s) : Keeps s₀ (rejectPart s ctx bit) :=
  h.foldl fun _ _ h => h.after_putBar

theorem Keeps.after_putCmd {old new : HostCmd} (h : Keeps s₀ s) : Keeps s₀ (putCmd s old new) := h.frame

theorem Keeps.after_runPart {bit : Nat} {c : HostCmd} (h : Keeps s₀ s) : Keeps s₀ (runPart bit s c) := by
  unfold runPart
  exact Keeps.ite (Keeps.after_finishCmd (Keeps.after_putCmd (Keeps.ite h.after_applyPart h.after_rejectPart)))
    (Keeps.after_putCmd (Keeps.ite h.after_applyPart h.after_rejectPart))

theorem Keeps.safe_setctx {bit : Nat} (h : Keeps s₀ s) : Safe s₀ (setctx bit s) := by
  unfold setctx
  split
  · exact .next h.after_runPart
  · exact h.safe_takeCmd fun _ _ h => h.after_runPart

theorem Keeps.after_dropTranslations {ctx base len : Nat}
    (h : Keeps s₀ s) : Keeps s₀ (dropTranslations s ctx base len) := by
  unfold dropTranslations
  exact h.frame

theorem Keeps.safe_execInval (h : Keeps s₀ s) : Safe s₀ (execInval s) :=
  h.safe_takeCmd fun _ _ h => Keeps.ite h.after_dropTranslations.frame h.after_finishCmd

theorem Keeps.safe_execInvalComplete {idx : Nat} (h : Keeps s₀ s) : Safe s₀ (execInvalComplete idx s) := by
  unfold execInvalComplete
  split
  · exact .next h
  · exact .ite (.next h) (.next h.frame.after_finishCmd)

theorem Keeps.after_verdictBatches {ctx page : Nat} {ok : Bool}
    (h : Keeps s₀ s) : Keeps s₀ (verdictBatches s ctx page ok) :=
  h.frame

theorem Keeps.after_verdictCmds {ctx page : Nat} {ok : Bool} (h : Keeps s₀ s) : Keeps s₀ (verdictCmds s ctx page ok) := by
  unfold verdictCmds
  exact h.foldl fun _ _ h => Keeps.ite h.after_updCmd h.after_updCmd.after_endCmd.after_endPairs

theorem Keeps.after_verdictJobs {ctx page : Nat} {ok : Bool} (h : Keeps s₀ s) : Keeps s₀ (verdictJobs s ctx page ok) := by
  unfold verdictJobs
  exact h.foldl fun _ _ h => Keeps.ite h.after_updJob h.after_updJob.after_endJob

theorem Keeps.after_verdictEngines {ctx page : Nat} {ok : Bool}
    (h : Keeps s₀ s) : Keeps s₀ (verdictEngines s ctx page ok) :=
  h.after_verdictCmds.after_verdictJobs

theorem Keeps.after_verdictTiles {ctx page : Nat} {ok : Bool}
    (h : Keeps s₀ s) : Keeps s₀ (verdictTiles s ctx page ok) := by
  unfold verdictTiles
  exact Keeps.ite (h.foldl fun _ _ h => Keeps.ite h.after_updTile h.after_dropTile) (Keeps.after_endFlushes
    (h.foldl fun _ _ h => Keeps.ite h.after_updTile h.after_dropTile))

theorem Keeps.after_verdictTreelets {ctx page : Nat} {ok : Bool} (h : Keeps s₀ s) :
    Keeps s₀ (verdictTreelets s ctx page ok) :=
  h.foldl fun _ _ h => Keeps.ite h.after_updTreelet h.after_failFetch

theorem Keeps.after_giveVerdict {ctx page : Nat} {ok : Bool} (h : Keeps s₀ s) : Keeps s₀ (giveVerdict s ctx page ok) :=
  h.after_verdictBatches.after_verdictEngines.after_verdictTiles.after_verdictTreelets

theorem Keeps.safe_verdict {ok : Bool} (h : Keeps s₀ s) : Safe s₀ (verdict ok s) :=
  h.safe_takeCmd fun _ _ h => h.after_giveVerdict.after_finishCmd

/-! ## Preempt -/

theorem Keeps.after_resetAtoms {g : Group} (h : Keeps s₀ s) : Keeps s₀ (resetAtoms s g) := by
  unfold resetAtoms
  refine h.foldl fun _ _ h => ?_
  split
  · exact h.foldl fun _ _ h1 => Keeps.ite h1.after_atomLane h1
  · exact h

theorem Keeps.after_foldAll {fuel ctx : Nat} (h : Keeps s₀ s) : Keeps s₀ (foldAll fuel s ctx) := by
  induction fuel generalizing s with
  | zero => exact h
  | succ fuel ih =>
    unfold foldAll
    split
    · exact h
    · exact ih h.after_foldNode

theorem Keeps.after_resetReds {ctx : Nat} (h : Keeps s₀ s) : Keeps s₀ (resetReds s ctx) := by
  unfold resetReds
  exact h.frame.after_foldAll

theorem Keeps.after_resetEngines {ctx : Nat} (h : Keeps s₀ s) : Keeps s₀ (resetEngines s ctx) := by
  unfold resetEngines
  exact h.frame.foldl fun _ _ h => h.foldl fun _ _ h1 => h1.after_releaseEnd.after_completeCmd

theorem Keeps.after_resetQuads {ctx : Nat} (h : Keeps s₀ s) : Keeps s₀ (resetQuads s ctx) := by
  unfold resetQuads
  exact h.frame.foldl fun _ _ h => h.foldl fun _ _ h1 => h1.after_releaseEnd.after_completeJob

theorem Keeps.after_cancelGrid {g : Grid} (h : Keeps s₀ s) : Keeps s₀ (cancelGrid s g) := by
  unfold cancelGrid
  exact Keeps.ite (Keeps.after_queueIrq (Keeps.after_writeCompl (Keeps.ite (Keeps.foldl (Keeps.ite
    (h.foldl fun _ _ h => h.after_writeCompl) h) fun _ _ h => h.after_writeCompl) (Keeps.ite
      (h.foldl fun _ _ h => h.after_writeCompl) h)))) (Keeps.after_writeCompl (Keeps.ite (Keeps.foldl (Keeps.ite
        (h.foldl fun _ _ h => h.after_writeCompl) h) fun _ _ h => h.after_writeCompl) (Keeps.ite
          (h.foldl fun _ _ h => h.after_writeCompl) h)))

theorem Keeps.after_stopQueues {ctx : Nat} (h : Keeps s₀ s) : Keeps s₀ (stopQueues s ctx) :=
  h.foldl fun _ _ h => Keeps.ite h.after_putBar h

theorem Keeps.after_endLog {ctx : Nat} (h : Keeps s₀ s) : Keeps s₀ (endLog s ctx) := by
  unfold endLog
  exact h.after_putCtx.after_setStat.after_updCtx.frame

theorem Keeps.after_resetRays {ctx : Nat} (h : Keeps s₀ s) : Keeps s₀ (resetRays s ctx) := h.frame.after_updCtx

theorem Keeps.after_resetGroups {ctx : Nat} (h : Keeps s₀ s) : Keeps s₀ (resetGroups s ctx) :=
  Keeps.of_fewer_teams (h.foldl fun _ _ h => h.after_dropGroup)

theorem Keeps.after_forcedReset {ctx : Nat} (h : Keeps s₀ s) : Keeps s₀ (forcedReset s ctx) := by
  unfold forcedReset
  exact Keeps.after_flushStep (Keeps.after_updCtx (Keeps.after_stopQueues (Keeps.after_resetRays (Keeps.after_resetQuads
    (Keeps.after_resetEngines (Keeps.frame (Keeps.after_resetGroups (Keeps.foldl (Keeps.after_resetReds (Keeps.foldl
      (Keeps.after_endLog (h.foldl fun _ _ h => h.after_endAhead)) fun _ _ h => h.after_resetAtoms)) fun _ _ h =>
        h.after_cancelGrid))))))))

theorem Keeps.safe_execReset (h : Keeps s₀ s) : Safe s₀ (execReset s) :=
  h.safe_onCode fun _ _ h => h.after_finishCmd.after_forcedReset

theorem Keeps.safe_execPreempt (h : Keeps s₀ s) : Safe s₀ (execPreempt s) :=
  h.safe_onCode fun _ _ h => Keeps.ite h.after_finishCmd (Keeps.foldl
    (h.after_finishCmd.after_updCtx.foldl fun _ _ h1 => h1.after_endAhead) fun _ _ h1 => h1.after_dropGroup)

theorem Keeps.safe_execPreemptComplete {ctx : Nat} (h : Keeps s₀ s) : Safe s₀ (execPreemptComplete ctx s) :=
  .ite (.next h.after_updCtx.after_reportCtx) (.next h)

theorem Keeps.safe_execPreemptDeadline {ctx : Nat} (h : Keeps s₀ s) : Safe s₀ (execPreemptDeadline ctx s) := by
  unfold execPreemptDeadline
  split
  · exact .next h
  · exact .ite (.next h.after_forcedReset) (.next h)

theorem Keeps.safe_execResumePreempt (h : Keeps s₀ s) : Safe s₀ (execResumePreempt s) :=
  h.safe_takeCmd fun _ _ h => h.after_updCtx.after_finishCmd

theorem Keeps.after_dropOrphans {ctx : Nat} (h : Keeps s₀ s) : Keeps s₀ (dropOrphans s ctx) :=
  Keeps.ite (h.of_caches fun ⟨hl, hr⟩ => ⟨hl, Rising.filter _ hr⟩) h

theorem Keeps.after_freeContext {ctx : Nat} (h : Keeps s₀ s) : Keeps s₀ (freeContext s ctx) := by
  unfold freeContext
  exact Keeps.after_updCtx (Keeps.after_clearBlock (h.after_dropOrphans.frame.after_endFlushes.foldl fun _ _ h => Keeps.ite
    h.after_putBar h))

theorem Keeps.safe_execCtxdestroy (h : Keeps s₀ s) : Safe s₀ (execCtxdestroy s) := by
  unfold execCtxdestroy
  dsimp only
  split
  · exact .next (Keeps.ite h h.after_freeContext.after_finishCmd)
  · exact h.safe_onCode fun _ _ h => Keeps.ite h.after_forcedReset h.after_forcedReset.after_freeContext.after_finishCmd

/-! ## Debug -/

theorem Keeps.after_haltNow {g : Group} (h : Keeps s₀ s) : Keeps s₀ (haltNow s g) := h.after_endAhead.after_updGroup

theorem Keeps.after_haltAsked {ctx : Nat} (h : Keeps s₀ s) : Keeps s₀ (haltAsked s ctx) :=
  h.foldl fun _ _ h => h.after_haltNow

theorem Keeps.after_unhold {ctx : Nat} (h : Keeps s₀ s) : Keeps s₀ (unhold s ctx) :=
  Keeps.after_settleSyncs (Keeps.ite h.after_drainLogWait h)

theorem Keeps.safe_execHalt (h : Keeps s₀ s) : Safe s₀ (execHalt s) :=
  h.safe_onCode fun _ _ h => Keeps.after_updCtx (h.after_finishCmd.foldl fun _ _ h1 => h1.after_haltNow)

theorem Keeps.after_endStep {c : HostCmd} (h : Keeps s₀ s) : Keeps s₀ (endStep s c) := by
  unfold endStep
  split
  · exact Keeps.ite h h.after_finishCmd
  · exact h.after_finishCmd

theorem Keeps.safe_execHaltComplete {ctx : Nat} (h : Keeps s₀ s) : Safe s₀ (execHaltComplete ctx s) := by
  unfold execHaltComplete
  exact .ite (.next (Keeps.after_reportCtx (Keeps.after_updCtx (h.after_haltAsked.foldl fun _ _ h => h.after_endStep))))
    (.next (h.after_haltAsked.foldl fun _ _ h => h.after_endStep))

theorem Keeps.safe_execResumeHalt (h : Keeps s₀ s) : Safe s₀ (execResumeHalt s) :=
  h.safe_takeCmd fun _ _ h => Keeps.after_finishCmd (Keeps.after_unhold (h.foldl fun _ _ h1 => h1.after_setGroup))

theorem Keeps.safe_execStep (h : Keeps s₀ s) : Safe s₀ (execStep s) := by
  unfold execStep
  refine h.safe_onCode fun _ _ h => ?_
  split
  · exact Keeps.ite h.after_setGroup.after_unhold h.after_finishCmd
  · exact h.after_finishCmd

theorem Keeps.after_walkRange {ctx a n : Nat} (h : Keeps s₀ s) : Keeps s₀ (walkRange s ctx a n) :=
  h.foldl fun _ _ h => h.after_fillNow

theorem Keeps.after_writeBuf {ctx a : Nat} {bs : List DbgByte} (h : Keeps s₀ s) : Keeps s₀ (writeBuf s ctx a bs) := by
  unfold writeBuf
  dsimp only
  refine h.foldl fun _ _ h => ?_
  split
  next e => exact h.of_engWrite e
  · exact h

theorem Keeps.after_walkEntry {g : Group} {sel index : Nat} (h : Keeps s₀ s) : Keeps s₀ (walkEntry s g sel index) :=
  Keeps.ite h.after_fillNow h

theorem Keeps.safe_execDbgread (h : Keeps s₀ s) : Safe s₀ (execDbgread s) := by
  unfold execDbgread
  dsimp only
  refine h.safe_takeCmd fun _ _ h => ?_
  split
  · exact h.after_finishCmd
  · split
    · exact h.after_finishCmd
    · split
      · exact h.after_walkEntry.after_finishCmd
      · exact Keeps.ite h.after_walkEntry.after_walkRange.after_writeBuf.after_finishCmd
          h.after_walkEntry.after_walkRange.after_finishCmd

theorem Keeps.after_putDbgEntry {g : Group} {i : Nat} {bs : List DbgByte} (h : Keeps s₀ s) :
    Keeps s₀ (putDbgEntry s g i bs) := by
  unfold putDbgEntry
  split
  · exact h.after_setGroup
  · split
    · exact h
    · exact h.foldl fun _ _ h => h.after_l1Store

theorem Keeps.after_putDbg {g : Group} {sel index : Nat} {bs : List DbgByte} (h : Keeps s₀ s) :
    Keeps s₀ (putDbg s g sel index bs) := by
  unfold putDbg
  split
  · exact h.after_setGroup
  · exact h.after_setGroup
  · exact h.after_setGroup
  · exact h.after_setGroup
  · exact h.after_putDbgEntry
  · exact h.after_setGroup
  · exact h.after_setGroup
  · split
    · exact h.after_updTeam fun _ hu => foldl_team_wf hu fun _ _ hu => spPut_wf hu
    · exact h

theorem Keeps.safe_execDbgwrite (h : Keeps s₀ s) : Safe s₀ (execDbgwrite s) := by
  unfold execDbgwrite
  dsimp only
  refine h.safe_onCode fun _ _ h => ?_
  split
  · exact h.after_finishCmd
  · split
    · exact h.after_finishCmd
    · exact Keeps.ite h.after_finishCmd (Keeps.ite h.after_walkEntry.after_finishCmd
        (Keeps.ite h.after_walkEntry.after_walkRange.after_putDbg.after_finishCmd
          h.after_walkEntry.after_walkRange.after_finishCmd))

/-! ## Saves -/

theorem Keeps.after_whenDrained {c : HostCmd} {k : State → State} (h : Keeps s₀ s)
    (hk : ∀ s, Keeps s₀ s → Keeps s₀ (k s)) : Keeps s₀ (whenDrained s c k) := Keeps.ite (hk s h) h.after_finishCmd

theorem Keeps.after_saveRay {id : Nat} (h : Keeps s₀ s) : Keeps s₀ (saveRay s id) := by
  unfold saveRay
  dsimp only
  split
  · exact h
  · split
    · refine Keeps.after_spillTo ?_
      split
      · exact h.after_moveRay
      · exact h
    · split
      · exact h.after_moveRay
      · exact h

theorem Keeps.safe_execRaysave (h : Keeps s₀ s) : Safe s₀ (execRaysave s) :=
  h.safe_onCode fun _ _ h => h.after_whenDrained fun _ h1 => Keeps.ite h1.after_finishCmd (Keeps.after_finishCmd
    (h1.foldl fun _ _ h2 => h2.after_saveRay))

theorem Keeps.after_writeImage {ctx a start : Nat} (h : Keeps s₀ s) : Keeps s₀ (writeImage s ctx a start) := by
  unfold writeImage
  refine h.foldl fun _ _ h => ?_
  split
  next e => exact h.of_engWrite e
  · exact h

theorem Keeps.safe_execBanksave (h : Keeps s₀ s) : Safe s₀ (execBanksave s) :=
  h.safe_onCode fun _ _ h => h.after_whenDrained fun _ h1 => Keeps.ite h1.after_finishCmd (Keeps.ite h1.after_finishCmd
    (Keeps.ite h1.after_walkRange.after_finishCmd
      h1.after_walkRange.frame.after_writeImage.after_updBank.frame.after_finishCmd))

theorem Keeps.after_loadBank {c : HostCmd} (h : Keeps s₀ s) : Keeps s₀ (loadBank s c) :=
  Keeps.ite h.after_walkRange.after_finishCmd h.after_walkRange.frame.after_updBank.after_finishCmd

theorem Keeps.after_tryLoad {c : HostCmd} (h : Keeps s₀ s) : Keeps s₀ (tryLoad s c) :=
  Keeps.ite h.after_finishCmd (Keeps.ite h.after_loadBank h)

theorem Keeps.safe_execBankload (h : Keeps s₀ s) : Safe s₀ (execBankload s) := by
  unfold execBankload
  split
  · exact .next h.after_tryLoad
  · exact h.safe_onCode fun _ _ h => h.after_whenDrained fun _ h1 => Keeps.ite h1.after_finishCmd h1.after_tryLoad

theorem Keeps.safe_execTileflush (h : Keeps s₀ s) : Safe s₀ (execTileflush s) :=
  h.safe_onCode fun _ _ h => h.after_whenDrained fun _ h1 => h1.frame.after_endFlushes

theorem Keeps.safe_execTileclear (h : Keeps s₀ s) : Safe s₀ (execTileclear s) :=
  h.safe_onCode fun _ _ h => h.frame.after_endFlushes

theorem Keeps.after_salvageWord {ctx va dst i : Nat} (h : Keeps s₀ s) : Keeps s₀ (salvageWord ctx va dst s i) := by
  unfold salvageWord
  dsimp only
  split
  · exact h.after_fillNow
  · split
    · exact Keeps.ite h.after_fillNow.after_overtake.after_homeWrite.after_dropCopy h.after_fillNow
    · exact h.after_fillNow

theorem Keeps.safe_execSalvage (h : Keeps s₀ s) : Safe s₀ (execSalvage s) :=
  h.safe_onCode fun _ _ h => Keeps.ite h.after_finishCmd (Keeps.after_finishCmd (h.foldl fun _ _ h1 => h1.after_salvageWord))

/-! ## Bringup -/

/-- Without power nothing of the caches and scratchpads is left, and of memory what lies at other homes. -/
theorem Keeps.after_unpowered (h : Keeps s₀ s) : Keeps s₀ (unpowered s) where
  memory h0 := ⟨filter_wf _ _ (h.memory h0).1, nofun⟩
  caches _ := ⟨fun _ => .nil, .nil⟩
  isW := h.isW
  devId := h.devId
  noTwin _ _ := ⟨rfl, rfl⟩

theorem Keeps.safe_execDeviceReset (h : Keeps s₀ s) : Safe s₀ (execDeviceReset s) := .next h.after_unpowered

theorem Keeps.after_powerDown {mode : DevMode} {code index : Nat} {detail : Word} (h : Keeps s₀ s) :
    Keeps s₀ (powerDown s mode code index detail) := h.after_unpowered.frame

theorem Keeps.after_enterSafe {code index : Nat} {detail : Word} (h : Keeps s₀ s) :
    Keeps s₀ (enterSafe s code index detail) :=
  Keeps.ite h h.after_powerDown

theorem Keeps.after_setReady {bit : Nat} {on : Bool} (h : Keeps s₀ s) : Keeps s₀ (setReady s bit on) := h.frame

theorem Keeps.after_finishBoot (h : Keeps s₀ s) : Keeps s₀ (finishBoot s) := Keeps.ite h.frame h

theorem Keeps.after_regsToRdc (h : Keeps s₀ s) : Keeps s₀ (regsToRdc s) :=
  h.foldl fun _ _ h => h.foldl fun _ _ h1 => h1.after_dropCopy.after_moveToRdc

theorem Keeps.after_keepBytes {v : WordVal} (h : Keeps s₀ s) : Keeps s₀ (keepBytes s v) := by
  unfold keepBytes
  exact Keeps.ite h h.after_moveToRdc

theorem Keeps.after_takeBytes {v : WordVal} (h : Keeps s₀ s) : Keeps s₀ (takeBytes s v) := h.after_moveToRdc

theorem Keeps.after_loseMsg {m : Msg} (h : Keeps s₀ s) : Keeps s₀ (loseMsg s m) := by
  unfold loseMsg
  split
  · exact h.foldl fun _ _ h => h.after_keepBytes
  · exact Keeps.ite h (h.foldl fun _ _ h => h.after_keepBytes)
  · exact Keeps.ite h (h.foldl fun _ _ h => h.after_keepBytes)
  · exact Keeps.ite h (h.foldl fun _ _ h => h.after_takeBytes)
  · exact h

theorem Keeps.after_freeTwinHeld (h : Keeps s₀ s) : Keeps s₀ (freeTwinHeld s) := by
  unfold freeTwinHeld
  exact Keeps.frame (h.foldl fun _ _ h => Keeps.ite h (h.foldl fun _ _ h1 => h1.after_keepBytes))

theorem Keeps.after_reportLost {ctx : Nat} (h : Keeps s₀ s) : Keeps s₀ (reportLost s ctx) := by
  unfold reportLost
  exact h.foldl fun _ _ h => h.after_reportCtx

theorem tget_filter {α : Type} (t : Tbl α) (p : Nat → Bool) (k : Nat) (d : α) :
    tget (t.filter fun e => p e.1) k d = if p k then tget t k d else d := by
  induction t with
  | nil => simp [tget, tfind]
  | cons e t ih =>
    obtain ⟨j, v⟩ := e
    by_cases hj : j = k
    · subst hj
      cases hp : p j
      · simpa [hp] using ih
      · simp [tget, tfind, hp]
    · cases hp : p j
      · simpa [hp, tget, tfind, hj] using ih
      · simpa [hp, tget, tfind, hj] using ih

/-- Where the twin is lost, this core's L1s stay as the write-backs leave them and the twin's are gone. -/
theorem Keeps.after_twinLost (h : Keeps s₀ s) (hw : s.isW = true) : Keeps s₀ (twinLost s) := by
  unfold twinLost
  extract_lets src s1 far s2 s3 s4 s5
  have hr : Keeps s₀ (setReady s 35 false) := h.after_setReady
  have h1 : Keeps s₀ s1 := Keeps.after_freeTwinHeld (Keeps.after_regsToRdc (hr.of_twin hw))
  have h2 : Keeps s₀ s2 := h1.of_caches fun ⟨hl, hr⟩ => ⟨fun core => by
    rw [tget_filter s1.l1 (fun k => decide (k < 128))]
    split
    · exact hl core
    · exact .nil, hr⟩
  have h3 : Keeps s₀ s3 := h2.foldl fun _ _ h => h.after_loseMsg
  exact Keeps.after_settleSyncs (Keeps.foldl h3.after_endPairs.after_report fun _ _ h => h.after_reportLost)

theorem Keeps.safe_execTwinFail (h : Keeps s₀ s) : Safe s₀ (execTwinFail s) := by
  unfold execTwinFail
  split
  next hc => exact .next (h.after_twinLost (Bool.and_eq_true_iff.1 hc).1)
  · exact .next h

theorem Keeps.safe_execTwinFlitRetry (h : Keeps s₀ s) : Safe s₀ (execTwinFlitRetry s) := .next h

theorem Keeps.safe_execSelfTestPass {bit : Nat} (h : Keeps s₀ s) : Safe s₀ (execSelfTestPass bit s) := by
  have hr : Keeps s₀ (setReady s 35 true) := h.after_setReady
  refine .ite (.next h) (.ite (.next (Keeps.ite h.frame.after_finishBoot h)) (.ite ?_ (.next h.after_setReady.after_finishBoot)))
  split
  next hc => exact .next (hr.of_twin (Bool.and_eq_true_iff.1 hc).1)
  · exact .next h

theorem Keeps.after_clearLogs (h : Keeps s₀ s) : Keeps s₀ (clearLogs s) := h.foldl fun _ _ h => Keeps.ite h h.after_endLog

theorem Keeps.safe_execSelfTestFail {bit : Nat} {detail : BitVec 32} (h : Keeps s₀ s) :
    Safe s₀ (execSelfTestFail bit detail s) := by
  unfold execSelfTestFail
  refine .ite (.next h) (.ite ?_ (.ite (.next h.after_enterSafe.frame) (.ite (.next h.after_enterSafe)
    (.ite (.next h.after_enterSafe) (.ite (.next h.after_enterSafe) (.ite ?_ (.ite (.next h.after_clearLogs.after_setReady)
    (.next (Keeps.ite h h.after_enterSafe)))))))))
  · obtain ⟨memory, caches, isW, devId, -⟩ := h.after_powerDown (mode := .linkWait) (code := 0x08) (index := 0) (detail := detail)
    exact .next ⟨memory, caches, isW, devId, h.noTwin⟩
  · split
    next hw => exact .next (h.after_twinLost hw)
    · exact .next h

theorem Keeps.safe_execLinkTrained (h : Keeps s₀ s) : Safe s₀ (execLinkTrained s) := by
  unfold execLinkTrained
  dsimp only
  split
  · exact .next h
  · exact .next h.after_setReady.frame.after_finishBoot
  · exact .next h.after_setReady.after_finishBoot

theorem Keeps.safe_execLinkRetrainTimer (h : Keeps s₀ s) : Safe s₀ (execLinkRetrainTimer s) := .next h

theorem Keeps.safe_execSpdmRequest {nonce : Nat} (h : Keeps s₀ s) : Safe s₀ (execSpdmRequest nonce s) := .next h.frame

theorem Keeps.safe_execClockChange {mhz : Nat} (h : Keeps s₀ s) : Safe s₀ (execClockChange mhz s) :=
  .ite (.next h.frame) (.next h)

theorem Keeps.safe_execThermalThrottle (h : Keeps s₀ s) : Safe s₀ (execThermalThrottle s) :=
  .ite (.next h) (.next h.frame.after_report)

theorem Keeps.after_enterSafeFree {code : Nat} (h : Keeps s₀ s) : Keeps s₀ (enterSafeFree s code) :=
  Keeps.ite h h.frame.after_enterSafe

theorem Keeps.safe_execThermalShutdown (h : Keeps s₀ s) : Safe s₀ (execThermalShutdown s) := .next h.after_enterSafeFree

theorem Keeps.safe_execSupplyFault (h : Keeps s₀ s) : Safe s₀ (execSupplyFault s) := .next h.after_enterSafeFree

/-! ## LaneMove -/

theorem Keeps.safe_shuffle {f : V3} {ox : Option Ox} {src : Nat → Nat → Nat} (h : Keeps s₀ s) :
    Safe s₀ (shuffle f ox src s) :=
  .withIssuer fun _ _ => h.safe_runVec

theorem Keeps.safe_execVshflIdxB32 {f : V3} {ox : Option Ox} (h : Keeps s₀ s) : Safe s₀ (execVshflIdxB32 f ox s) :=
  h.safe_shuffle

theorem Keeps.safe_execVshflUpB32 {f : V3} {ox : Option Ox} (h : Keeps s₀ s) : Safe s₀ (execVshflUpB32 f ox s) :=
  h.safe_shuffle

theorem Keeps.safe_execVshflDnB32 {f : V3} {ox : Option Ox} (h : Keeps s₀ s) : Safe s₀ (execVshflDnB32 f ox s) :=
  h.safe_shuffle

theorem Keeps.safe_execVshflXorB32 {f : V3} {ox : Option Ox} (h : Keeps s₀ s) : Safe s₀ (execVshflXorB32 f ox s) :=
  h.safe_shuffle

theorem Keeps.safe_execVbcstLaneB32 {f : VS} {ox : Option Ox} (h : Keeps s₀ s) : Safe s₀ (execVbcstLaneB32 f ox s) :=
  .withIssuer fun _ _ => h.safe_runVec

theorem Keeps.safe_execVgetB32 {f : VGet} {ox : Option Ox} (h : Keeps s₀ s) : Safe s₀ (execVgetB32 f ox s) := by
  unfold execVgetB32
  dsimp only
  refine .withIssuer fun _ _ => ?_
  split
  · exact h.safe_trapAt
  · exact .ite h.safe_retire (.ite h.safe_waits (.ite h.safe_trapAt (.ite h.safe_trapAt h.safe_retire)))

theorem Keeps.safe_execVrdxB32 {f : V3} {ox : Option Ox} (h : Keeps s₀ s) : Safe s₀ (execVrdxB32 f ox s) :=
  .withIssuer fun _ _ => h.safe_runVec

/-! ## SysRegs -/

theorem Keeps.safe_execRdsys {f : X} (h : Keeps s₀ s) : Safe s₀ (execRdsys f s) := by
  unfold execRdsys
  refine .withIssuer fun _ _ => ?_
  split
  · split
    · exact h.safe_trapAt
    · exact h.safe_retire
  · exact .ite h.safe_retire h.safe_retire

theorem Keeps.safe_wrLanes {f : X} {g : Group} {c : Clause} (h : Keeps s₀ s) : Safe s₀ (wrLanes f s g c) := by
  unfold wrLanes
  exact .ite (.ite h.safe_trapAt (.ite h.safe_retire h.safe_trapAt)) (.ite h.safe_retire h.safe_trapAt)

theorem Keeps.safe_execWrsys {f : X} (h : Keeps s₀ s) : Safe s₀ (execWrsys f s) := by
  unfold execWrsys
  refine .withIssuer fun _ _ => ?_
  split
  · exact .ite h.safe_trapAt (.ite h.safe_trapAt h.safe_retire)
  · split
    · exact h.safe_trapAt
    · exact h.safe_wrLanes

/-! ## Walk -/

theorem Keeps.safe_execPageWalkStart {hamlet : Nat} (h : Keeps s₀ s) : Safe s₀ (execPageWalkStart hamlet s) := by
  unfold execPageWalkStart
  dsimp only
  split
  · exact .next h
  · exact .ite (.next h.frame) (.next h)

theorem Keeps.after_walkFailed {r : WalkReq} {why : WalkEnd} (h : Keeps s₀ s) : Keeps s₀ (walkFailed s r why) := by
  unfold walkFailed
  split
  · exact h
  · split
    · split
      · exact h.after_report
      · exact h
      · exact h.after_report
    · exact h.frame

theorem Keeps.safe_execPageWalkComplete {hamlet ctx page : Nat} (h : Keeps s₀ s) :
    Safe s₀ (execPageWalkComplete hamlet ctx page s) := by
  unfold execPageWalkComplete
  -- The walk and the snoops are hidden from the kernel, which would evaluate them where it reduces the match around them.
  obtain ⟨w, hw⟩ : ∃ w, walk s ctx (page * 4096) = w := ⟨_, rfl⟩
  obtain ⟨snoop, hs⟩ : ∃ f, snoopFirst s = f := ⟨_, rfl⟩
  rw [hw, hs]
  dsimp only
  split
  · exact .next h
  · split
    next e => exact .next (h.of_snoopFirst ((congrFun hs _).trans e))
    · split
      · exact .next (h.frame.foldl fun _ _ h => h.after_tlbFill)
      · exact .next (Keeps.foldl (Keeps.ite h.frame.after_report h.frame) fun _ _ h => h.after_walkFailed)

/-! ## Dispatch -/

/-- Every instruction and every event keeps the invariants, by the function that gives it its meaning. -/
theorem Keeps.safe_exec {i : Instr} (h : Keeps s₀ s) : Safe s₀ (exec i s) := by
  cases i with
  | vaddI32 | vsubI32 | vaddsI32 | vsubsI32 | vaddsN32 | vsubsN32 | vminI32 | vmaxI32 | vminN32 | vmaxN32 | vabsdI32
  | vabsdN32 | vmulI32 | vmulhiI32 | vmulhiN32 | vmadI32 | vdp4I8 | vdp4N8 | vdp2I16 | vandB32 | vorB32 | vxorB32
  | vandnB32 | vornB32 | vxnorB32 | vshlB32 | vshrN32 | vshrI32 | vrotlB32 | vrotrB32 | vpopcB32 | vclzB32 | vctzB32
  | vbrevB32 | vnegI32 | vabsI32 | vmovB32 | vnotB32 | vbfxN32 | vbfxI32 | vbfiB32 | vfshB32 | vprmB8 | vaddI32Vs
  | vsubI32Vs | vmulI32Vs | vandB32Vs | vorB32Vs | vxorB32Vs | vshlB32Vs | vshrN32Vs | vaddI32Vi | vmulI32Vi | vandB32Vi
  | vorB32Vi | vxorB32Vi | vmovB32Vi | faddF32Vi | fmulF32Vi | cmpI32 | cmpN32 | cmpF32 | vselB32 | vbcstB32 | vwrxB32
  | cvtF32I32 | cvtF32N32 | cvtI32F32 | cvtN32F32 | cvtF16F32 | cvtBf16F32 | cvtF32F16 | cvtF32Bf16 | cvtF16x2F32
  | cvtBf16x2F32 | pkE4m3 | pkE5m2 | pkE3m2 | pkE2m3 | pkE2m1 | pkI8 | pkI4 | pkqN8 | pkqN4 | upkE4m3 | upkE5m2 | upkE3m2
  | upkE2m3 | upkE2m1 | upkI8 | upkI4 | upkN8 | upkN4 | faddF32 | fsubF32 | fmulF32 | fminF32 | fmaxF32 | fabsF32
  | fnegF32 | fsgnF32 | ffmaF32 | ffmsF32 | fnfmaF32 | fnfmsF32 | haddF16x2 | hmulF16x2 | hminF16x2 | hmaxF16x2
  | haddBf16x2 | hmulBf16x2 | hminBf16x2 | hmaxBf16x2 | hfmaF16x2 | hfmaBf16x2 | hdot2F32F16x2 | hdot2F32Bf16x2 | frndF32
  | ffloorF32 | fceilF32 | ftruncF32 | ffractF32 | fclassF32 | faddF32Vs | fmulF32Vs | fminF32Vs | fmaxF32Vs | frcpF32
  | frsqF32 | fsqrtF32 | fexp2F32 | flog2F32 | fsinF32 | fcosF32 | ftanhF32 | fdivF32 | fatan2F32 => exact h.safe_runVec
  | pand => exact h.safe_execPand
  | por => exact h.safe_execPor
  | pxor => exact h.safe_execPxor
  | pandn => exact h.safe_execPandn
  | pmov => exact h.safe_execPmov
  | voteAny => exact h.safe_execVoteAny
  | voteAll => exact h.safe_execVoteAll
  | voteUni => exact h.safe_execVoteUni
  | vshflIdxB32 => exact h.safe_execVshflIdxB32
  | vshflUpB32 => exact h.safe_execVshflUpB32
  | vshflDnB32 => exact h.safe_execVshflDnB32
  | vshflXorB32 => exact h.safe_execVshflXorB32
  | vbcstLaneB32 => exact h.safe_execVbcstLaneB32
  | vgetB32 => exact h.safe_execVgetB32
  | vrdxB32 => exact h.safe_execVrdxB32
  | saddIwSi | sandBwSi | sorBwSi | sxorBwSi | smovBw | smulIwSi | saddIw | ssubIw | smulIw | sandBw | sorBw | sxorBw
  | sshlBw | sshrNw | sshrIw | sminIw | smaxIw | sminNw | smaxNw | sseqBw | ssltIw | ssltNw => exact h.safe_runScalar
  | ldgN8 | ldgI8 | ldgN16 | ldgI16 | ldgB32 | ldgB64 | ldgB128 | stgB8 | stgB16 | stgB32 | stgB64 | stgB128 | ldsB32
  | ldsB64 | ldsB128 | stsB32 | stsB64 | stsB128 | atomAddI32 | atomMinI32 | atomMaxI32 | atomMinN32 | atomMaxN32
  | atomAndB32 | atomOrB32 | atomXorB32 | atomXchgB32 | atomCasB32 | atomAddI64 | atomXchgB64 | atomCasB64
    => exact h.safe_memIssue
  | ldgTB32 | ldgTB64 | ldgTB128 => exact h.safe_ldgT
  | lduB32 => exact h.safe_execLduB32
  | lduB64 => exact h.safe_execLduB64
  | lduB128 => exact h.safe_execLduB128
  | lduB256 => exact h.safe_execLduB256
  | lduB512 => exact h.safe_execLduB512
  | stuB32 => exact h.safe_execStuB32
  | stuB64 => exact h.safe_execStuB64
  | redAddF32 | redAddBf16x2 | redAddI32 | redAddI64 | redMinF32 | redMaxF32 => exact h.safe_redIssue
  | pfL1 => exact h.safe_execPfL1
  | pfL2 => exact h.safe_execPfL2
  | pfRdc => exact h.safe_execPfRdc
  | acq => exact h.safe_execAcq
  | rel | acqrel => exact h.safe_relIssue
  | invRgn => exact h.safe_execInvRgn
  | barInit | barArr | barWait | barSync => exact h.safe_barIssue
  | drainSp | drainLoc | drainTwin | drainHost => exact h.safe_drainIssue
  | logmark => exact h.safe_execLogmark
  | bra => exact h.safe_execBra
  | braAny => exact h.safe_execBraAny
  | split => exact h.safe_execSplit
  | call => exact h.safe_execCall
  | ret | brx => exact h.safe_jumpScalar
  | exit => exact h.safe_execExit
  | yield => exact h.safe_execYield
  | nop => exact h.safe_execNop
  | trap => exact h.safe_execTrap
  | brk => exact h.safe_execBrk
  | tretSkip | tretRetry => exact h.safe_tret
  | reggrow => exact h.safe_execReggrow
  | regshrink => exact h.safe_execRegshrink
  | pushc => exact h.safe_execPushc
  | qbindIn | qbindOut => exact h.safe_bindQueue
  | qfree => exact h.safe_execQfree
  | mloop => exact h.safe_execMloop
  | mscale => exact h.safe_execMscale
  | mzero => exact h.safe_execMzero
  | mdrainQ => exact h.safe_execMdrainQ
  | mdrainSp => exact h.safe_execMdrainSp
  | mstat => exact h.safe_execMstat
  | mpath => exact h.safe_execMpath
  | rsv => exact h.safe_execRsv
  | spwn => exact h.safe_execSpwn
  | trace => exact h.safe_execTrace
  | epend => exact h.safe_execEpend
  | hitattr => exact h.safe_execHitattr
  | rayget => exact h.safe_execRayget
  | rayset => exact h.safe_execRayset
  | accum | accumPx | accaux | accauxPx => exact h.safe_accumulate
  | ahitAccept | ahitAcceptEnd | ahitIgnore => exact h.safe_decideHit
  | tlpf => exact h.safe_execTlpf
  | poolst => exact h.safe_execPoolst
  | dntile => exact h.safe_execDntile
  | rdsys => exact h.safe_execRdsys
  | wrsys => exact h.safe_execWrsys
  | clauseStart => exact h.safe_execClauseStart
  | runAheadTimeout => exact h.safe_execRunAheadTimeout
  | faultReissue => exact h.safe_execFaultReissue
  | loadComplete => exact h.safe_execLoadComplete
  | storeComplete => exact h.safe_execStoreComplete
  | relBegin => exact h.safe_execRelBegin
  | acqComplete => exact h.safe_execAcqComplete
  | rdq => exact h.safe_execRdq
  | data => exact h.safe_execData
  | fwd => exact h.safe_execFwd
  | frep => exact h.safe_execFrep
  | reg => exact h.safe_execReg
  | mrg => exact h.safe_execMrg
  | mfwd => exact h.safe_execMfwd
  | rack => exact h.safe_execRack
  | mack => exact h.safe_execMack
  | wb => exact h.safe_execWb
  | wack => exact h.safe_execWack
  | atq => exact h.safe_execAtq
  | xfer => exact h.safe_execXfer
  | xferv => exact h.safe_execXferv
  | aval => exact h.safe_execAval
  | rcl => exact h.safe_execRcl
  | l1Evict => exact h.safe_execL1Evict
  | l2Evict => exact h.safe_execL2Evict
  | rdcEvict => exact h.safe_execRdcEvict
  | hostRead => exact h.safe_execHostRead
  | hostWrite => exact h.safe_execHostWrite
  | hostSnoop => exact h.safe_execHostSnoop
  | biasMerge => exact h.safe_execBiasMerge
  | syncTableOp => exact h.safe_execSyncTableOp
  | redNodeFold => exact h.safe_execRedNodeFold
  | pageWalkStart => exact h.safe_execPageWalkStart
  | pageWalkComplete => exact h.safe_execPageWalkComplete
  | groupEnd => exact h.safe_execGroupEnd
  | episodeEnd => exact h.safe_execEpisodeEnd
  | waitGroupTimeout => exact h.safe_execWaitGroupTimeout
  | waveDispatch => exact h.safe_execWaveDispatch
  | binAgeReady => exact h.safe_execBinAgeReady
  | reggrowGrant => exact h.safe_execReggrowGrant
  | regshrinkDone => exact h.safe_execRegshrinkDone
  | rsvGrant => exact h.safe_execRsvGrant
  | poolDrainTimeout => exact h.safe_execPoolDrainTimeout
  | genRayCreate => exact h.safe_execGenRayCreate
  | treeletFetchStart => exact h.safe_execTreeletFetchStart
  | treeletAgeExpire => exact h.safe_execTreeletAgeExpire
  | treeletFetchComplete => exact h.safe_execTreeletFetchComplete
  | traverse => exact h.safe_execTraverse
  | raySpill => exact h.safe_execRaySpill
  | rayUnspill => exact h.safe_execRayUnspill
  | tileRetire => exact h.safe_execTileRetire
  | tileAddResume => exact h.safe_execTileAddResume
  | copy => exact h.safe_execCopy
  | tcopy => exact h.safe_execTcopy
  | gather => exact h.safe_execGather
  | scatter => exact h.safe_execScatter
  | fill => exact h.safe_execFill
  | launch => exact h.safe_execLaunch
  | prdx => exact h.safe_execPrdx
  | prdxCombine => exact h.safe_execPrdxCombine
  | engineCmdComplete => exact h.safe_execEngineCmdComplete
  | bankZero => exact h.safe_execBankZero
  | mloopStart => exact h.safe_execMloopStart
  | matrixStepStart => exact h.safe_execMatrixStepStart
  | matrixStepEnd => exact h.safe_execMatrixStepEnd
  | mdrainRead => exact h.safe_execMdrainRead
  | denoiseStart => exact h.safe_execDenoiseStart
  | launchWindow => exact h.safe_execLaunchWindow
  | headAged => exact h.safe_execHeadAged
  | issuePromote => exact h.safe_execIssuePromote
  | gridComplete => exact h.safe_execGridComplete
  | queueDoorbell => exact h.safe_execQueueDoorbell
  | queueStpClear => exact h.safe_execQueueStpClear
  | cmdDoorbell => exact h.safe_execCmdDoorbell
  | logTailWrite => exact h.safe_execLogTailWrite
  | hostRegWrite => exact h.safe_execHostRegWrite
  | ctxcreate => exact h.safe_execCtxcreate
  | ctxdestroy => exact h.safe_execCtxdestroy
  | setctxTrans | setctxTrap | setctxLog | setctxRay | setctxPfx | setctxFrame | setctxDbg => exact h.safe_setctx
  | inval => exact h.safe_execInval
  | invalComplete => exact h.safe_execInvalComplete
  | verdictResolved | verdictGivenUp => exact h.safe_verdict
  | preempt => exact h.safe_execPreempt
  | preemptComplete => exact h.safe_execPreemptComplete
  | preemptDeadline => exact h.safe_execPreemptDeadline
  | reset => exact h.safe_execReset
  | resumePreempt => exact h.safe_execResumePreempt
  | resumeHalt => exact h.safe_execResumeHalt
  | halt => exact h.safe_execHalt
  | haltComplete => exact h.safe_execHaltComplete
  | step => exact h.safe_execStep
  | dbgread => exact h.safe_execDbgread
  | dbgwrite => exact h.safe_execDbgwrite
  | raysave => exact h.safe_execRaysave
  | banksave => exact h.safe_execBanksave
  | bankload => exact h.safe_execBankload
  | tileflush => exact h.safe_execTileflush
  | tileclear => exact h.safe_execTileclear
  | salvage => exact h.safe_execSalvage
  | coalescerWrite => exact h.safe_execCoalescerWrite
  | deviceReset => exact h.safe_execDeviceReset
  | selfTestPass => exact h.safe_execSelfTestPass
  | selfTestFail => exact h.safe_execSelfTestFail
  | linkTrained => exact h.safe_execLinkTrained
  | linkRetrainTimer => exact h.safe_execLinkRetrainTimer
  | spdmRequest => exact h.safe_execSpdmRequest
  | clockChange => exact h.safe_execClockChange
  | thermalThrottle => exact h.safe_execThermalThrottle
  | thermalShutdown => exact h.safe_execThermalShutdown
  | supplyFault => exact h.safe_execSupplyFault
  | twinFlitRetry => exact h.safe_execTwinFlitRetry
  | twinFail => exact h.safe_execTwinFail
  | l2FillComplete => exact h.safe_execL2FillComplete
  | backInvalidationAnswer => exact h.safe_execBackInvalidationAnswer
  | hostWriteBackAccept => exact h.safe_execHostWriteBackAccept

/-! ## Ahead -/

theorem Keeps.after_putAhead {a : Group} (h : Keeps s₀ s) : Keeps s₀ (putAhead s a) := h.frame

theorem Keeps.after_addPages {g : Group} {pages : List (Nat × Nat)} (h : Keeps s₀ s) : Keeps s₀ (addPages s g pages) := by
  unfold addPages
  dsimp only
  split
  · exact h
  · exact h.after_dropFails.after_setGroup

theorem Keeps.after_fullBatch {core slot : Nat} (h : Keeps s₀ s) : Keeps s₀ (fullBatch s core slot) := by
  unfold fullBatch
  split
  · exact Keeps.ite h.after_endAhead h
  · exact h

theorem Keeps.after_aheadMem {g a : Group} {c : Clause} {m : MemForm} {soft : Bool} (h : Keeps s₀ s) :
    Keeps s₀ (aheadMem s g a c m soft) := by
  unfold aheadMem
  exact Keeps.ite h.after_putAhead (Keeps.ite (h.foldl fun _ _ h => h.after_askWalk)
    (Keeps.ite h.after_endAhead h.after_addPages.after_putAhead.after_fullBatch))

theorem Keeps.after_aheadKeep {g a : Group} {s' : State} {k : Group → Group} (h : Keeps s₀ s) :
    Keeps s₀ (aheadKeep s g a s' k) := by
  unfold aheadKeep
  split
  · exact h.after_endAhead
  · exact Keeps.ite h.after_endAhead h.frame.after_putAhead

theorem Keeps.after_aheadAlu {g a : Group} {c : Clause} {w : Word} {x : Option Word} (h : Keeps s₀ s) :
    Keeps s₀ (aheadAlu s g a c w x) := by
  unfold aheadAlu
  exact Keeps.ite h.after_endAhead h.after_aheadKeep

theorem Keeps.after_aheadWord {g a : Group} {c : Clause} (h : Keeps s₀ s) : Keeps s₀ (aheadWord s g a c) := by
  unfold aheadWord
  exact Keeps.ite h.after_endAhead (Keeps.ite h.after_aheadAlu (Keeps.ite h.after_putAhead (Keeps.ite
    (Keeps.ite h.after_endAhead h.after_aheadMem) (Keeps.ite h.after_aheadKeep
      (Keeps.ite h.after_endAhead h.after_aheadKeep)))))

theorem Keeps.after_aheadClause {g a : Group} (h : Keeps s₀ s) : Keeps s₀ (aheadClause s g a) := by
  unfold aheadClause
  dsimp only
  split
  · exact h.after_endAhead
  · split
    · exact h.after_putAhead
    next e =>
      obtain ⟨i, -, e⟩ := List.mem_map.1 (List.mem_of_find?_eq_some e)
      exact (h.of_tryFresh e).after_putAhead
    · exact h.after_endAhead
    · exact Keeps.ite h.after_endAhead h.after_putAhead

theorem Keeps.after_aheadStep {g : Group} {b : Batch} (h : Keeps s₀ s) : Keeps s₀ (aheadStep s g b) := by
  unfold aheadStep
  dsimp only
  split
  · exact h.after_endAhead
  · split
    · exact h.after_aheadWord
    · exact h.after_aheadClause

/-! ## Twin -/

theorem Keeps.after_twinStore {u w : Nat} {mask : BitVec 4} {v : Word} (h : Keeps s₀ s) :
    Keeps s₀ (twinStore s u w mask v) :=
  h.after_storeCopy

theorem Keeps.after_twinAtom {ctx va : Nat} {a : TwinAtom} (h : Keeps s₀ s) : Keeps s₀ (twinAtom s ctx va a) := by
  unfold twinAtom
  exact Keeps.ite h.frame.after_farAtoms (Keeps.ite h (Keeps.ite h.frame h.frame.after_dropCopy.after_send))

theorem Keeps.after_twinEvict {u w : Nat} (h : Keeps s₀ s) : Keeps s₀ (twinEvict s u w) := by
  unfold twinEvict
  split
  · split
    · exact h.after_dropCopy
    · exact h.after_holdAndSend
    · exact h.after_holdAndSend
  · exact h

theorem Keeps.after_twinSync {ctx core slot var scope : Nat} {rel acq : Bool} (h : Keeps s₀ s) :
    Keeps s₀ (twinSync s ctx core slot var scope rel acq) := by
  unfold twinSync
  dsimp only
  split
  · exact h
  · split
    next e => exact h.after_roomForEntry.of_fst e
    next e =>
      exact Keeps.frame (Keeps.ite (h.after_roomForEntry.of_fst e).after_tableStep.after_catchUp
        (h.after_roomForEntry.of_fst e).after_tableStep)

theorem Keeps.after_twinRecord {ctx type : Nat} {actor : DWord} {rest : List DWord} (h : Keeps s₀ s) :
    Keeps s₀ (twinRecord s ctx type actor rest) := by
  unfold twinRecord
  exact Keeps.ite (Keeps.ite h.after_logWriteOf.after_updSync h.after_logWriteOf) h

theorem Keeps.after_twinReplayed {ctx unit : Nat} (h : Keeps s₀ s) : Keeps s₀ (twinReplayed s ctx unit) := by
  unfold twinReplayed
  split
  · exact h
  · split
    · exact h.after_matchRec
    · exact h

theorem Keeps.after_twinAct {a : TwinAct} (h : Keeps s₀ s) : Keeps s₀ (twinAct s a) := by
  unfold twinAct
  split
  · exact h
  · split
    · exact Keeps.ite h.after_send h
    · exact Keeps.ite h.after_twinStore h
    · exact h.after_registerWords
    · exact Keeps.ite h.after_twinAtom h
    · exact h.after_twinEvict
    · exact h.after_mapCopies fun _ ht => ht.filter _
    · exact Keeps.ite h.after_overtake.after_homeWrite h
    · exact Keeps.ite h.after_recallWords h
    · exact h.frame
    · exact h.after_twinRecord
    · exact h.after_twinReplayed
    · exact h.after_twinSync

/-! ## Issue -/

theorem Keeps.safe_issueAt {g : Group} {c : Clause} (h : Keeps s₀ s) : Safe s₀ (issueAt s g c) := by
  unfold issueAt
  split
  · exact h.safe_trapAt
  · exact .ite h.safe_exec h.safe_trapAt

theorem Keeps.safe_issueWord {core slot : Nat} (h : Keeps s₀ s) : Safe s₀ (issueWord s core slot) := by
  unfold issueWord
  split
  · exact .next h
  · split
    · split
      · exact .next h.after_aheadStep
      · split
        · exact .next h
        · split
          · exact h.frame.safe_issueAt
          · exact .next h
    · split
      · exact .next h
      · split
        · exact h.frame.safe_issueAt
        · exact .next h

theorem Keeps.after_passTime {n : Nat} (h : Keeps s₀ s) : Keeps s₀ (passTime s n) := h.frame

theorem Keeps.after_spoilWord {word : Nat} (h : Keeps s₀ s) : Keeps s₀ (spoilWord s word) := h.frame.after_settleLine

theorem Keeps.safe_takeTurn {turn : Turn} (h : Keeps s₀ s) : Safe s₀ (takeTurn s turn) := by
  unfold takeTurn
  split
  · exact .ite h.safe_exec (.next h)
  · exact h.safe_issueWord
  · exact .next h.after_passTime
  · exact .next h.after_spoilWord
  · exact .next h.after_softError
  · exact .next h.after_walkAhead
  · exact .next h.after_twinAct

/-! ## Idle -/

theorem Keeps.safe_stepOnce (h : Keeps s₀ s) : Safe s₀ (stepOnce s) := by
  unfold stepOnce
  split
  · exact .next h.frame
  · exact h.frame.safe_takeTurn

end

/-! ## The step -/

theorem Keeps.of_step {s t : State} (e : step s = .next t) : Keeps s t := by
  have h : Safe s (step s) := (Keeps.refl s).safe_stepOnce
  rw [e] at h
  cases h
  assumption

/-- Settles O24: every step writes memories and scratchpads through `memPutWord` or drops them, and the table stays
canonical through either. -/
theorem memoryStaysCanonical : Obligations.MemoryStaysCanonical := fun _ _ h e => (Keeps.of_step e).memory h

/-- Settles O59: every step enters, drops and filters copies in rising order of their words, writes neither the product nor
the device's number, and writes the twin's answers on a PX960-W alone. -/
theorem cachesAndProductStay : Obligations.CachesAndProductStay :=
  ⟨fun _ _ h e => (Keeps.of_step e).caches h, fun _ _ h e => (Keeps.of_step e).noTwin h,
    fun _ _ _ _ ⟨hw, hd⟩ e => ⟨(Keeps.of_step e).isW.trans hw, (Keeps.of_step e).devId.trans hd⟩⟩

end Sys2Proof.Machine
end

section
/-!
The turn of an uncorrectable error changes more than the marks of poison: a line that it keeps from compressing leaves the L2
slot that it shares (R335).
-/

namespace Sys2Proof.Machine

/-- A device of which two lines of zeros, 0 and 8320 of one slice, share a slot of the L2, and whose next turn spoils word 0. -/
def sharedSlot : State := { State.reset with l2 := [[0, 8320]], sched := [.memError 0] }

/-- Two lines of zeros that a slice takes come to share a slot, as in `sharedSlot`. -/
theorem cacheLine_shares_slot :
    ((cacheLine State.reset 0).bind fun s => cacheLine s 8320).map State.l2 = some sharedSlot.l2 := by decide +kernel

/-- The spoilt line moves to a slot of its own. -/
theorem spoilWord_splits_slot : (spoilWord { sharedSlot with sched := [] } 0).l2 = [[0], [8320]] := by decide +kernel

/-- Refutes O23: its clause for the turn of an uncorrectable error lets nothing change but the schedule and the marks of
poison, while the model settles the line in the L2, as R335 has it: in `sharedSlot` the slot that holds lines 0 and 8320 is
split. -/
theorem not_stepRunsTheDecodedInstruction : ¬ Obligations.StepRunsTheDecodedInstruction := by
  rintro ⟨-, -, -, -, -, -, memError, -⟩
  obtain ⟨t, hstep, hframe, -⟩ := memError sharedSlot [] 0 rfl
  have hsplit : t.l2 = [[0], [8320]] := by
    rw [← spoilWord_splits_slot]
    exact congrArg State.l2 (Host.Outcome.next.inj hstep).symm
  have hkept : t.l2 = [[0, 8320]] := by rw [hframe]; rfl
  rw [hsplit] at hkept
  exact absurd hkept (by decide)

end Sys2Proof.Machine
end

section
/-!
What reading memory and translating an address look at: two states that agree in it read and translate alike.
-/

namespace Sys2Proof.Machine

/-- Two states hold the same of every word: in memory, in the caches, and on its way between them. -/
structure SameWords (s t : State) : Prop where
  mem : t.mem = s.mem
  memPoison : t.memPoison = s.memPoison
  homes : t.homes = s.homes
  l1 : t.l1 = s.l1
  holding : t.holding = s.holding
  rdc : t.rdc = s.rdc
  hostLines : t.hostLines = s.hostLines
  msgs : t.msgs = s.msgs

/-- Two states translate alike: beside the words, they hold the same settings of contexts and the same TLBs. -/
structure SameTables (s t : State) : Prop extends SameWords s t where
  isW : t.isW = s.isW
  ctxs : t.ctxs = s.ctxs
  coreTlb : t.coreTlb = s.coreTlb
  hamletTlb : t.hamletTlb = s.hamletTlb
  devTlb : t.devTlb = s.devTlb
  aheadTlb : t.aheadTlb = s.aheadTlb

section
variable {s t : State}

theorem SameWords.copyAt (h : SameWords s t) (who : Agent) (w : Nat) : copyAt t who w = copyAt s who w := by
  simp only [Machine.copyAt, copiesOf, h.l1, h.rdc]

theorem SameWords.heldBytes (h : SameWords s t) (who : Agent) (w : Nat) : heldBytes t who w = heldBytes s who w := by
  simp only [Machine.heldBytes, entriesOf, h.holding, h.copyAt]

theorem SameWords.homeWord (h : SameWords s t) (w : Nat) : homeWord t w = homeWord s w := by
  simp only [Machine.homeWord, h.mem, h.memPoison]

theorem SameWords.ownerOf (h : SameWords s t) (w : Nat) : ownerOf t w = ownerOf s w := by
  simp only [Machine.ownerOf, homeSt, h.homes]

theorem SameWords.hostWord (h : SameWords s t) (w : Nat) : hostWord t w = hostWord s w := by
  simp only [Machine.hostWord, h.hostLines, h.msgs, h.homeWord]

theorem SameWords.withForwarded (h : SameWords s t) (who : Agent) (w : Nat) :
    withForwarded t who w = withForwarded s who w := by
  funext v
  simp only [Machine.withForwarded, h.msgs]

theorem SameWords.valueAt (h : SameWords s t) (w fuel : Nat) (who : Agent) : valueAt t w fuel who = valueAt s w fuel who := by
  induction fuel generalizing who with
  | zero => rfl
  | succ fuel ih => simp only [Machine.valueAt, h.copyAt, h.msgs, h.withForwarded, ih]

theorem SameWords.newest (h : SameWords s t) (w : Nat) : newest t w = newest s w := by
  simp only [Machine.newest, h.hostWord, h.ownerOf, h.valueAt, h.homeWord]

theorem SameWords.readAsEngine (h : SameWords s t) (w : Nat) : readAsEngine t w = readAsEngine s w := by
  simp only [Machine.readAsEngine, rdcCopy, handedOn, regSent, h.msgs, h.copyAt, h.newest, h.heldBytes]

theorem SameWords.walkFrom (h : SameWords s t) (va : Nat) (levels : List (Nat × Nat)) (table : Nat) :
    walkFrom t va levels table = walkFrom s va levels table := by
  induction levels generalizing table with
  | nil => rfl
  | cons x xs ih =>
    obtain ⟨level, sh⟩ := x
    simp only [Machine.walkFrom, pteAt, h.readAsEngine, ih]
    rfl

theorem SameTables.tableRoot (h : SameTables s t) (ctx : Nat) : tableRoot t ctx = tableRoot s ctx := by
  simp only [Machine.tableRoot, ctxDWord, ctxWord, ctxOf, h.ctxs]

theorem SameTables.walk (h : SameTables s t) (ctx va : Nat) : walk t ctx va = walk s ctx va := by
  simp only [Machine.walk, h.tableRoot, h.walkFrom]

theorem SameTables.tlbFind (h : SameTables s t) (ctx core va : Nat) : tlbFind t ctx core va = tlbFind s ctx core va := by
  simp only [Machine.tlbFind, h.coreTlb, h.hamletTlb, h.devTlb, h.aheadTlb]

theorem SameTables.leafCause (h : SameTables s t) (l : Leaf) (acc : Acc) : leafCause t l acc = leafCause s l acc := by
  simp only [Machine.leafCause, h.isW]

theorem SameTables.xlatNow (h : SameTables s t) (ctx core va : Nat) (acc : Acc) :
    xlatNow t ctx core va acc = xlatNow s ctx core va acc := by
  simp only [Machine.xlatNow, h.tlbFind, h.walk, h.leafCause]

end

/-- Failed walks are no part of what translates. -/
theorem sameTables_dropFails (s : State) (ctx core : Nat) (pages : List Nat) : SameTables s (dropFails s ctx core pages) :=
  ⟨⟨rfl, rfl, rfl, rfl, rfl, rfl, rfl, rfl⟩, rfl, rfl, rfl, rfl, rfl, rfl⟩

end Sys2Proof.Machine
end

section
/-!
The device right after reset (R8, R250, R287 to R290): each word of the register map by the table that it lies in.
-/

namespace Sys2Proof.Machine

open Sys2Proof.Safety

/-- A word of a queue's descriptor at reset (R250). -/
theorem barReset_queue {q o : Nat} (hq : q < 32) (ho : o < 64) :
    barReset (queueBase q + o) = if o = 0x20 then 0x00FF0000 else if o = 0x24 then 8192 else 0 := by
  have h1 : ¬ (0x10000 ≤ queueBase q + o ∧ queueBase q + o < 0x20000) := by unfold queueBase; omega
  have h2 : 0x1000 ≤ queueBase q + o ∧ queueBase q + o < 0x1800 := by unfold queueBase; omega
  have h3 : (queueBase q + o) % 64 = o := by unfold queueBase; omega
  rw [barReset, if_neg h1, if_pos h2, h3]

/-- A word of a context's block at reset (R290). -/
theorem barReset_block {ctx o : Nat} (hc : ctx < 64) (ho : o < 1024) : barReset (0x10000 + 1024 * ctx + o) = ctxReset o := by
  have h1 : 0x10000 ≤ 0x10000 + 1024 * ctx + o ∧ 0x10000 + 1024 * ctx + o < 0x20000 := by omega
  have h2 : (0x10000 + 1024 * ctx + o) % 1024 = o := by omega
  rw [barReset, if_pos h1, h2]

theorem barWord_reset (off : Nat) : barWord State.reset off = barReset off := rfl

/-- Right after reset no launch queue is bound or holds a record, and AGE and HMASK stand at their values (R250). -/
theorem queue_reset {q : Nat} (hq : q < 32) : qCtx State.reset q = none ∧ qWr State.reset q = 0 ∧ qRd State.reset q = 0 ∧
    qWord State.reset q 0x24 = 8192 ∧ qHmask State.reset q = 0xFF := by
  simp only [qCtx, qWr, qRd, qHmask, qWord, barWord_reset, barReset_queue hq, Nat.reduceLT]
  decide

/-- Right after reset a context's block reads 127 at CEXP, one pixel by one at FW and FH, and 0 elsewhere (R290). -/
theorem block_reset {ctx : Nat} (hc : ctx < 64) : barWord State.reset (0x10000 + 1024 * ctx + 0xA4) = 127 ∧
    barWord State.reset (0x10000 + 1024 * ctx + 0xB0) = 0x00010001 ∧
    ∀ o, o < 1024 → o ∉ [0xA4, 0xB0] → barWord State.reset (0x10000 + 1024 * ctx + o) = 0 := by
  simp only [barWord_reset]
  refine ⟨by rw [barReset_block hc (by decide)]; rfl, by rw [barReset_block hc (by decide)]; rfl, fun o ho hne => ?_⟩
  simp only [List.mem_cons, List.not_mem_nil, or_false, not_or] at hne
  rw [barReset_block hc ho, ctxReset, if_neg hne.1, if_neg hne.2]

/-- The invariants hold of the device right after reset: it holds no byte, no copy and no twin. -/
theorem invariants_reset : MemoryOk State.reset ∧ CachesOk State.reset ∧ NoTwinOnM State.reset :=
  ⟨⟨rfl, nofun⟩, ⟨fun _ => .nil, .nil⟩, fun _ => ⟨rfl, rfl⟩⟩

/-- Settles O25: what has no register reads as the empty state gives it, and each register as its table does. -/
theorem resetState : Obligations.ResetState :=
  ⟨rfl, rfl, rfl, rfl, rfl, rfl, rfl, fun _ => rfl, fun _ hq => queue_reset hq, rfl, rfl, rfl, rfl, fun _ hc => block_reset hc,
    invariants_reset⟩

end Sys2Proof.Machine
end

section
/-!
Taking a trap (R23 to R26, R114, R369): what `takeTrap` does in each of its four cases, with the forms that raise a software trap or
a breakpoint.
-/

namespace Sys2Proof.Machine

open Sys2Proof.Safety

/-! ## The cases of a trap -/

section
variable {s : State} {g : Group} {c : Clause} {who : SlotId} {t : TrapInfo}

/-- A software trap traps with its code as the address (R114). -/
theorem exec_trap (h : At s g c) (code : BitVec 8) :
    exec (.trap code) s = .next (trapped s g c 0x61 (execMask g c) 0xFF code.toNat []) := withIssuer_eq h _

/-- A breakpoint that no debugger takes traps with its code as the address (R114). -/
theorem exec_brk_trap (h : At s g c) (code : BitVec 8) (hd : dbgOn s g.ctx = false) :
    exec (.brk code) s = .next (trapped s g c 0x60 (execMask g c) 0xFF code.toNat []) := by
  refine (withIssuer_eq h _).trans ?_
  rw [hd]
  rfl

/-- Only lost and uncorrectable data are reported beside the delivery of a trap (R125, R336, R369). -/
theorem reportTrap_eq_self (hc : t.cause ≠ 0x30 ∧ t.cause ≠ 0x31 ∧ t.cause ≠ 0x70) : reportTrap s g t = s := by
  obtain ⟨h30, h31, h70⟩ := hc
  simp [reportTrap, h30, h31, h70]

/-- A trap in a handler is a double trap (R26). -/
theorem takeTrap_double (h : g.inHandler = true) (hc : t.cause ≠ 0x30 ∧ t.cause ≠ 0x31 ∧ t.cause ≠ 0x70) :
    takeTrap s g who t = haltGroup (dropFails s g.ctx g.core (trapPages t)) (setTrapRegs g t) 0x04 t.cause 0 := by
  simp only [takeTrap, h, if_true, reportTrap_eq_self hc]

/-- A trap where the context has no handler (R23). -/
theorem takeTrap_noHandler (h : g.inHandler = false) (hv : trapVec s g.ctx = 0)
    (hc : t.cause ≠ 0x30 ∧ t.cause ≠ 0x31 ∧ t.cause ≠ 0x70) :
    takeTrap s g who t = haltGroup (dropFails s g.ctx g.core (trapPages t)) (setTrapRegs g t) 0x05 t.cause 0 := by
  have hv' : trapVec (dropFails s g.ctx g.core (trapPages t)) g.ctx = 0 := hv
  simp only [takeTrap, h, hv', if_true, if_false, Bool.false_eq_true, reportTrap_eq_self hc]

/-- A trap whose frame cannot be written (R23, R369). -/
theorem takeTrap_frameFault {k : Nat} (h : g.inHandler = false) (hv : trapVec s g.ctx ≠ 0)
    (hf : xlatNow s g.ctx g.core (frameAddr s g) .write = .error k)
    (hc : t.cause ≠ 0x30 ∧ t.cause ≠ 0x31 ∧ t.cause ≠ 0x70) :
    takeTrap s g who t = haltAccess (fillNow (dropFails s g.ctx g.core (trapPages t)) g.ctx g.core (frameAddr s g))
      (setTrapRegs g t) 0x03 k (frameAddr s g) := by
  have hv' : ¬ trapVec (dropFails s g.ctx g.core (trapPages t)) g.ctx = 0 := hv
  have ha : frameAddr (dropFails s g.ctx g.core (trapPages t)) g = frameAddr s g := rfl
  simp only [takeTrap, h, hv', if_false, Bool.false_eq_true, reportTrap_eq_self hc, (sameTables_dropFails s g.ctx g.core (trapPages t)).xlatNow, ha, hf]

/-- A trap that is delivered (R24). -/
theorem takeTrap_delivered {leaf : Leaf} (h : Claims.Deliverable s g leaf)
    (hc : t.cause ≠ 0x30 ∧ t.cause ≠ 0x31 ∧ t.cause ≠ 0x70) :
    takeTrap s g who t = setGroup (storeFrame (fillNow (dropFails s g.ctx g.core (trapPages t)) g.ctx g.core (frameAddr s g)) g
      (leaf.at (frameAddr s g)) (frameWords g who t)) (enterHandler (dropFails s g.ctx g.core (trapPages t)) g who t) := by
  obtain ⟨hin, hv, hf⟩ := h
  have hv' : ¬ trapVec (dropFails s g.ctx g.core (trapPages t)) g.ctx = 0 := hv
  have ha : frameAddr (dropFails s g.ctx g.core (trapPages t)) g = frameAddr s g := rfl
  simp only [takeTrap, hin, hv', if_false, Bool.false_eq_true, reportTrap_eq_self hc, (sameTables_dropFails s g.ctx g.core (trapPages t)).xlatNow, ha, hf]

end

/-! ## Traps that no handler takes (R23, R26, R369) -/

/-- A software trap that no handler takes halts its group and reports why. -/
theorem trapsNotDelivered : Claims.TrapsNotDelivered := by
  intro s0 g c code hat s set
  have hc : (0x61 : Nat) ≠ 0x30 ∧ (0x61 : Nat) ≠ 0x31 ∧ (0x61 : Nat) ≠ 0x70 := by decide
  refine ⟨fun hin => ?_, fun hin hv => ?_, fun k hin hv hf => ?_⟩
  · exact (exec_trap hat code).trans (congrArg _ (takeTrap_double hin hc))
  · exact (exec_trap hat code).trans (congrArg _ (takeTrap_noHandler hin hv hc))
  · rw [(sameTables_dropFails s0 g.ctx g.core _).xlatNow] at hf
    exact (exec_trap hat code).trans (congrArg _ (takeTrap_frameFault hin hv hf hc))

/-! ## A breakpoint under a debugger (R114, R377, R379) -/

section
variable {s : State} {g : Group} {c : Clause}

theorem sameRegisters_refl (g : Group) : Claims.SameRegisters g g := by simp [Claims.SameRegisters]

theorem sameRegisters_setSlot (g : Group) (i : SlotId) (p : PcSlot) : Claims.SameRegisters (setSlot g i p) g := by
  cases i <;> simp [Claims.SameRegisters, setSlot]

/-- The end of a clause changes no register of the program. -/
theorem sameRegisters_endClause (s : State) (g : Group) (c : Clause) (pc : Nat) :
    Claims.SameRegisters (endClause s g c pc) g := sameRegisters_setSlot g c.pcs _

/-- An instruction that retires changes no register of the program. -/
theorem sameRegisters_advance (s : State) (g : Group) (c : Clause) : Claims.SameRegisters (advance s g c) g := by
  unfold advance
  split
  · exact sameRegisters_refl g
  · exact sameRegisters_endClause s g c _

theorem sameRegisters_suspend (g : Group) : Claims.SameRegisters (suspend g) g := by
  unfold suspend
  split <;> exact sameRegisters_refl g

theorem suspend_clause (g : Group) : (suspend g).clause = none := by
  unfold suspend
  split
  · rfl
  · assumption

theorem suspend_halted (g : Group) : (suspend g).halted = g.halted := by
  unfold suspend
  split <;> rfl

theorem suspend_place (g : Group) : (suspend g).core = g.core ∧ (suspend g).slot = g.slot := by
  unfold suspend
  split <;> exact ⟨rfl, rfl⟩

theorem setSlot_place (g : Group) (i : SlotId) (p : PcSlot) : (setSlot g i p).core = g.core ∧ (setSlot g i p).slot = g.slot := by
  cases i <;> exact ⟨rfl, rfl⟩

/-- A group stands in its place after an instruction of it has retired. -/
theorem advance_place (s : State) (g : Group) (c : Clause) : (advance s g c).core = g.core ∧ (advance s g c).slot = g.slot := by
  unfold advance
  split
  · exact ⟨rfl, rfl⟩
  · exact setSlot_place g c.pcs _

/-- A clause goes on at its next word where it has one. -/
theorem advance_clause (s : State) {g : Group} {c : Clause} (h : nextIdx c < c.words.length) :
    advance s g c = { g with clause := some { c with idx := nextIdx c } } := if_pos h

theorem groupAt_report (s : State) (r : Report) (core slot : Nat) : groupAt (report s r) core slot = groupAt s core slot := rfl

end

/-- The group of a breakpoint under a debugger: its instruction has retired and it is halted at what comes next. -/
def brokenAt (s : State) (g : Group) (c : Clause) : Group := suspend { advance s g c with halted := true }

/-- With debugging enabled brk completes, and its group halts at the next word. -/
theorem breakpointUnderDebug : Claims.BreakpointUnderDebug := by
  intro s g c code hat hd
  obtain ⟨hplace, -⟩ := issuer_spec hat
  have hexec : exec (.brk code) s = .next (report (setGroup s (brokenAt s g c))
      ⟨0x10, 0x60, g.ctx, g.core, 0, some g.slot, 0, 0, BitVec.ofNat 32 code.toNat⟩) := by
    refine (withIssuer_eq hat _).trans ?_
    rw [hd]
    rfl
  have hp : (brokenAt s g c).core = g.core ∧ (brokenAt s g c).slot = g.slot :=
    ⟨(suspend_place _).1.trans (advance_place s g c).1, (suspend_place _).2.trans (advance_place s g c).2⟩
  refine ⟨_, brokenAt s g c, hexec, ?_, suspend_halted _, suspend_clause _, ?_, fun hlen hext => ?_, rfl⟩
  · rw [groupAt_report]
    exact groupAt_setGroup hplace hp.1 hp.2
  · have h1 := sameRegisters_suspend { advance s g c with halted := true }
    have h2 := sameRegisters_advance s g c
    unfold Claims.SameRegisters at *
    simp_all [brokenAt]
  · have hidx : nextIdx c = c.idx + 1 := by simp [nextIdx, hext]
    simp only [brokenAt, advance_clause s (hidx ▸ hlen : nextIdx c < c.words.length), suspend, hidx]

/-- Settles O36: the three ways in which a trap is not delivered, and a breakpoint that a debugger takes. -/
theorem trapsWithoutHandler : Obligations.TrapsWithoutHandler := ⟨trapsNotDelivered, breakpointUnderDebug⟩

end Sys2Proof.Machine
end

section
/-!
The trap frame (R24, R370): the words that trap entry writes through the core's L1, and what the core reads back of them.
-/

namespace Sys2Proof.Machine

open Sys2Proof.Safety

/-! ## Stores of whole words into an L1 -/

theorem mergeBytes_all (new old : Word) : mergeBytes 0xF new old = new := by
  refine Eq.trans ?_ (wordOf_bytes new)
  simp [mergeBytes, wordOf]

/-- A write in a word's order changes the stamp of its line alone (R345). -/
theorem stampWrite_eq (s : State) (w : Nat) (ctx core : Option Nat) :
    ∃ stamps, stampWrite s w ctx core = { s with stamps } := by
  unfold stampWrite
  split
  · split <;> exact ⟨_, rfl⟩
  · exact ⟨_, rfl⟩

/-- A store of a whole word leaves the storing unit a copy of it with every byte known, and changes nothing else but its
stamp. -/
theorem storeCopy_whole (s : State) (who : Agent) (ctx : Option Nat) (w : Nat) (v : Word) (poison : Bool) :
    ∃ c stamps, storeCopy s who ctx w 0xF v poison = { putCopy s who w c with stamps } ∧ c.val = v ∧ c.held = 0xF := by
  have hor : ∀ h : BitVec 4, h ||| 0xF = 0xF := by decide
  unfold storeCopy
  split
  · obtain ⟨stamps, hs⟩ := stampWrite_eq (putCopy s who w _) w ctx (coreOf who)
    exact ⟨_, stamps, hs, mergeBytes_all v _, rfl⟩
  · exact ⟨_, _, rfl, mergeBytes_all v _, hor _⟩
  · exact ⟨_, _, rfl, mergeBytes_all v _, hor _⟩
  · exact ⟨_, _, rfl, rfl, rfl⟩

/-- The same for a store of a core. -/
theorem l1Store_whole (s : State) (core ctx w : Nat) (v : Word) (poison : Bool) :
    ∃ c stamps storers, l1Store s core ctx w 0xF v poison = { putCopy s (.core core) w c with stamps, storers } ∧
      c.val = v ∧ c.held = 0xF := by
  obtain ⟨c, stamps, hs, hc⟩ := storeCopy_whole
    { s with storers := tupd s.storers core [] fun t => tput t w ctx } (.core core) (some ctx) w v poison
  exact ⟨c, stamps, _, hs, hc⟩

theorem l1Copy_putCopy_same (s : State) (core w : Nat) (c : Copy) : l1Copy (putCopy s (.core core) w c) core w = some c := by
  simp [l1Copy, copyAt, copiesOf]

theorem l1Copy_putCopy_word (s : State) {core w n : Nat} (c : Copy) (h : n ≠ w) :
    l1Copy (putCopy s (.core core) w c) core n = l1Copy s core n := by
  simp [l1Copy, copyAt, copiesOf, tfind_tput_other _ _ _ _ h]

theorem l1Copy_putCopy_core (s : State) {core other : Nat} (w n : Nat) (c : Copy) (h : other ≠ core) :
    l1Copy (putCopy s (.core core) w c) other n = l1Copy s other n := by
  simp [l1Copy, copyAt, copiesOf, unitKey, tget_tupd_other _ _ _ _ _ h]

/-- A core reads a word of which its copy knows every byte from that copy (R320). -/
theorem readNow_held {s : State} {core w : Nat} {c : Copy} (h : l1Copy s core w = some c) (hh : c.held = 0xF) :
    (readNow s core w).1 = c.val := by
  have hor : ∀ h : BitVec 4, h ||| 0xF = 0xF := by decide
  have hc : copyAt s (.core core) w = some c := h
  have hb : (heldBytes s (.core core) w).1 = c.val ∧ (heldBytes s (.core core) w).2.1 = 0xF := by
    simp only [heldBytes, hc, hh, hor, mergeBytes_all, and_self]
  simp only [readNow, hb.2, if_true, hb.1]

/-! ## The stores of a frame -/

/-- A state after stores of core `core` alone. -/
structure Stored (core : Nat) (s t : State) : Prop where
  eq : ∃ l1 stamps storers, t = { s with l1, stamps, storers }
  others : ∀ other n, other ≠ core → l1Copy t other n = l1Copy s other n

theorem Stored.refl (core : Nat) (s : State) : Stored core s s := ⟨⟨_, _, _, rfl⟩, fun _ _ _ => rfl⟩

theorem Stored.l1Store {core : Nat} {s t : State} (h : Stored core s t) (ctx w : Nat) (v : Word) (poison : Bool) :
    Stored core s (l1Store t core ctx w 0xF v poison) := by
  obtain ⟨⟨l1, stamps, storers, rfl⟩, ho⟩ := h
  obtain ⟨c, stamps', storers', he, -⟩ := l1Store_whole { s with l1, stamps, storers } core ctx w v poison
  rw [he]
  exact ⟨⟨_, _, _, rfl⟩, fun other n hn => (l1Copy_putCopy_core _ w n c hn).trans (ho other n hn)⟩

/-- The words that a frame's stores write, each at its place. -/
def storeWords (g : Group) (loc : Nat) (ws : List (Word × Nat)) (s : State) : State :=
  ws.foldr (fun p s => l1Store s g.core g.ctx (loc + 4 * p.2) 0xF p.1 (framePoison g p.2)) s

theorem storeFrame_eq (s : State) (g : Group) (loc : Nat) (ws : List Word) :
    storeFrame s g loc ws = storeWords g loc ws.zipIdx s := rfl

theorem stored_storeWords (g : Group) (loc : Nat) (ws : List (Word × Nat)) (s : State) :
    Stored g.core s (storeWords g loc ws s) := by
  induction ws with
  | nil => exact .refl _ _
  | cons p ws ih => exact ih.l1Store _ _ _ _

/-- The storing core holds each of the words that it has stored at different places. -/
theorem l1Copy_storeWords (g : Group) (loc : Nat) {ws : List (Word × Nat)} (s : State) (hn : (ws.map Prod.snd).Nodup)
    {p : Word × Nat} (hp : p ∈ ws) : ∃ c, l1Copy (storeWords g loc ws s) g.core (loc + 4 * p.2) = some c ∧
      c.val = p.1 ∧ c.held = 0xF := by
  induction ws with
  | nil => cases hp
  | cons q ws ih =>
    obtain ⟨hq, hn⟩ := List.nodup_cons.1 hn
    obtain ⟨c, stamps, storers, he, hc⟩ := l1Store_whole (storeWords g loc ws s) g.core g.ctx (loc + 4 * q.2) q.1
      (framePoison g q.2)
    have he : storeWords g loc (q :: ws) s = { putCopy (storeWords g loc ws s) (.core g.core) (loc + 4 * q.2) c with
      stamps, storers } := he
    rw [he]
    rcases List.mem_cons.1 hp with rfl | hp
    · exact ⟨c, l1Copy_putCopy_same _ _ _ _, hc⟩
    · obtain ⟨d, hd, hdc⟩ := ih hn hp
      have hne : p.2 ≠ q.2 := fun e => hq (e ▸ List.mem_map_of_mem hp)
      exact ⟨d, (l1Copy_putCopy_word _ c (by omega)).trans hd, hdc⟩

/-- The storing core holds word `i` of a frame that has been stored. -/
theorem l1Copy_storeFrame (s : State) (g : Group) (loc : Nat) {ws : List Word} {i : Nat} {w : Word} (h : ws[i]? = some w) :
    ∃ c, l1Copy (storeFrame s g loc ws) g.core (loc + 4 * i) = some c ∧ c.val = w ∧ c.held = 0xF := by
  have hmem : (w, i) ∈ ws.zipIdx := List.mem_zipIdx_iff_getElem?.2 h
  have hnodup : (ws.zipIdx.map Prod.snd).Nodup := by
    rw [List.zipIdx_map_snd]
    exact List.nodup_range'
  exact l1Copy_storeWords g loc s hnodup hmem

/-! ## The words of a frame (R24) -/

theorem length_blocks {α : Type} (n k : Nat) {f : Nat → List α} (hf : ∀ j, (f j).length = k) :
    ((List.range n).flatMap f).length = n * k := by
  simp [List.length_flatMap, hf]

/-- An element of blocks of one length stands in its block. -/
theorem getElem?_blocks {α : Type} (n k : Nat) {f : Nat → List α} (hf : ∀ j, (f j).length = k) {i : Nat} (h : i < n * k) :
    ((List.range n).flatMap f)[i]? = (f (i / k))[i % k]? := by
  induction n with
  | zero => omega
  | succ n ih =>
    rw [List.range_succ, List.flatMap_append]
    by_cases hi : i < n * k
    · rw [List.getElem?_append_left (by rwa [length_blocks n k hf]), ih hi]
    · have hk : 0 < k := by by_contra h0; simp [Nat.eq_zero_of_not_pos h0] at h
      have hlt : i - n * k < k := by rw [Nat.succ_mul] at h; omega
      have hi' : i = i - n * k + k * n := by rw [Nat.mul_comm k n]; omega
      have hdiv : i / k = n := by rw [hi', Nat.add_mul_div_left _ _ hk, Nat.div_eq_of_lt hlt, Nat.zero_add]
      have hmod : i % k = i - n * k := by rw [hi', Nat.add_mul_mod_self_left, Nat.mod_eq_of_lt hlt, ← hi']
      rw [List.getElem?_append_right (by rw [length_blocks n k hf]; omega), length_blocks n k hf, hdiv, hmod]
      simp

/-- The words of a frame before its scalars. -/
def frameHead (g : Group) (who : SlotId) (t : TrapInfo) : List Word :=
  let me := pcSlot g who
  let ot := pcSlot g who.other
  let w64 (n : Nat) : List Word := [BitVec.ofNat 32 n, BitVec.ofNat 32 (n / 2 ^ 32)]
  w64 t.pc ++ w64 (if ot.st = .running then ot.pc else 0) ++ wordsOfMask me.mask
    ++ wordsOfMask (if ot.st = .empty then 0 else ot.mask) ++ wordsOfMask t.mask
    ++ [BitVec.ofNat 32 (t.cause + 0x100 * t.dst + 0x10000 * t.idx + 0x1000000 * g.latchValid.toNat), t.hdr, g.fpctl,
        BitVec.ofNat 32 g.regAlloc]
    ++ w64 (cntWord g).toNat ++ [BitVec.ofNat 32 g.depth, 0] ++ w64 t.addr ++ List.replicate 38 0

/-- The words of a frame that hold the scalars, the predicates, the lanes' addresses and the latches. -/
def frameScalars (g : Group) : List Word := (List.range 64).flatMap fun n => [loWord (sReg g n), hiWord (sReg g n)]
def framePreds (g : Group) : List Word := (List.range 8).flatMap fun n => wordsOfMask (pReg g n)
def frameAddrs (t : TrapInfo) : List Word := (List.range 128).flatMap fun l =>
  [BitVec.ofNat 32 (tget t.laneAddrs l 0), BitVec.ofNat 32 (tget t.laneAddrs l 0 / 2 ^ 32)]
def frameLatches (g : Group) : List Word := (List.range 4).flatMap fun n => perLane (lane (latch g n))

theorem frameWords_eq (g : Group) (who : SlotId) (t : TrapInfo) : frameWords g who t =
    frameHead g who t ++ (frameScalars g ++ (framePreds g ++ (List.replicate 32 0 ++ (frameAddrs t ++ frameLatches g)))) := by
  simp only [← List.append_assoc]
  rfl

section
variable {g : Group} {c : Clause} {r : Claims.Report} {i : Nat}

/-- What a trap at the word at which a clause stands reports, with no lane's address. -/
def wordReport (c : Clause) (r : Claims.Report) : TrapInfo :=
  ⟨r.cause, r.mask, r.addr, r.dst, [], wordAddr c, c.idx + 1, c.hdr, false⟩

theorem frameHead_getElem? (h : i < 64) : (frameHead g c.pcs (wordReport c r))[i]? = some (Claims.frame g c r i) := by
  interval_cases i <;> simp [frameHead, wordsOfMask, wordReport, wordAddr, Claims.frame, Claims.pair, Claims.maskWord]

theorem frameScalars_getElem? (h : i < 128) : (frameScalars g)[i]? = some (Claims.frame g c r (64 + i)) := by
  rw [frameScalars, getElem?_blocks 64 2 (fun _ => rfl) h]
  have hf : Claims.frame g c r (64 + i) = (sReg g (i / 2)).extractLsb' (32 * (i % 2)) 32 := by
    have hm : (64 + i) % 2 = i % 2 := by omega
    simp (disch := omega) only [Claims.frame, if_neg, if_pos, hm, Nat.add_sub_cancel_left]
  rw [hf]
  rcases Nat.mod_two_eq_zero_or_one i with h0 | h0 <;> rw [h0] <;> rfl

theorem framePreds_getElem? (h : i < 32) : (framePreds g)[i]? = some (Claims.frame g c r (192 + i)) := by
  rw [framePreds, getElem?_blocks 8 4 (fun _ => rfl) h]
  have hf : Claims.frame g c r (192 + i) = Claims.maskWord (pReg g (i / 4)) (i % 4) := by
    have hm : (192 + i) % 4 = i % 4 := by omega
    simp (disch := omega) only [Claims.frame, if_neg, if_pos, hm, Nat.add_sub_cancel_left]
  have hlt : i % 4 < 4 := Nat.mod_lt _ (by decide)
  rw [hf]
  generalize i % 4 = k at hlt
  interval_cases k <;> rfl

theorem frame_zero (h : 224 ≤ i) (h' : i < 512) : Claims.frame g c r i = 0 := by
  simp (disch := omega) only [Claims.frame, if_neg, if_pos]

theorem frameAddrs_getElem? (h : i < 256) : (frameAddrs (wordReport c r))[i]? = some (Claims.frame g c r (256 + i)) := by
  rw [frameAddrs, getElem?_blocks 128 2 (fun _ => rfl) h, frame_zero (by omega) (by omega)]
  rcases Nat.mod_two_eq_zero_or_one i with h0 | h0 <;> simp [h0, wordReport, tget]

theorem frameLatches_getElem? (h : i < 512) : (frameLatches g)[i]? = some (Claims.frame g c r (512 + i)) := by
  rw [frameLatches, getElem?_blocks 4 128 (fun _ => perLane_length _) h]
  have hf : Claims.frame g c r (512 + i) = lane (latch g (i / 128)) (i % 128) := by
    have hm : (512 + i) % 128 = i % 128 := by omega
    simp (disch := omega) only [Claims.frame, if_neg, hm, Nat.add_sub_cancel_left]
  have hlt : i % 128 < 128 := Nat.mod_lt _ (by decide)
  simp [hf, perLane, numLanes, hlt]

/-- The words of the frame of a trap are those of R24. -/
theorem frameWords_getElem? (h : i < 1024) :
    (frameWords g c.pcs (wordReport c r))[i]? = some (Claims.frame g c r i) := by
  have l1 : (frameHead g c.pcs (wordReport c r)).length = 64 := rfl
  have l2 : (frameScalars g).length = 128 := length_blocks 64 2 fun _ => rfl
  have l3 : (framePreds g).length = 32 := length_blocks 8 4 fun _ => rfl
  have l4 : (List.replicate 32 (0 : Word)).length = 32 := rfl
  have l5 : (frameAddrs (wordReport c r)).length = 256 := length_blocks 128 2 fun _ => rfl
  rw [frameWords_eq]
  by_cases h1 : i < 64
  · rw [List.getElem?_append_left (by omega), frameHead_getElem? h1]
  obtain ⟨j, rfl⟩ : ∃ j, i = 64 + j := ⟨i - 64, by omega⟩
  rw [List.getElem?_append_right (by omega), l1, Nat.add_sub_cancel_left]
  by_cases h2 : j < 128
  · rw [List.getElem?_append_left (by omega), frameScalars_getElem? h2]
  obtain ⟨k, rfl⟩ : ∃ k, j = 128 + k := ⟨j - 128, by omega⟩
  rw [List.getElem?_append_right (by omega), l2, Nat.add_sub_cancel_left, ← Nat.add_assoc]
  by_cases h3 : k < 32
  · rw [List.getElem?_append_left (by omega), framePreds_getElem? h3]
  obtain ⟨m, rfl⟩ : ∃ m, k = 32 + m := ⟨k - 32, by omega⟩
  rw [List.getElem?_append_right (by omega), l3, Nat.add_sub_cancel_left, ← Nat.add_assoc]
  by_cases h4 : m < 32
  · rw [List.getElem?_append_left (by omega), frame_zero (by omega) (by omega), List.getElem?_replicate, if_pos h4]
  obtain ⟨n, rfl⟩ : ∃ n, m = 32 + n := ⟨m - 32, by omega⟩
  rw [List.getElem?_append_right (by omega), l4, Nat.add_sub_cancel_left, ← Nat.add_assoc]
  by_cases h5 : n < 256
  · rw [List.getElem?_append_left (by omega), frameAddrs_getElem? h5]
  obtain ⟨p, rfl⟩ : ∃ p, n = 256 + p := ⟨n - 256, by omega⟩
  rw [List.getElem?_append_right (by omega), l5, Nat.add_sub_cancel_left, ← Nat.add_assoc, frameLatches_getElem? (by omega)]

end

end Sys2Proof.Machine
end

section
/-!
Trap entry (R24, R113, R114): the state in which a delivered trap leaves the device.
-/

namespace Sys2Proof.Machine

open Sys2Proof.Safety

/-- A walk made at once fills translations or reports a malformed table, and changes nothing else (R273, R276). -/
theorem fillNow_eq (s : State) (ctx core va : Nat) : ∃ coreTlb hamletTlb devTlb aheadTlb events,
    fillNow s ctx core va = { s with coreTlb, hamletTlb, devTlb, aheadTlb, events } := by
  unfold fillNow
  split
  · exact ⟨_, _, _, _, _, rfl⟩
  · split
    · unfold tlbFill
      split_ifs <;> exact ⟨_, _, _, _, _, rfl⟩
    · unfold tellMalformed
      split <;> exact ⟨_, _, _, _, _, rfl⟩

section
variable {s : State} {g : Group} {c : Clause} {leaf : Leaf} {r : Claims.Report}

/-- The state before the frame's stores. -/
def beforeFrame (s : State) (g : Group) (r : Claims.Report) : State :=
  fillNow (dropFails s g.ctx g.core [r.addr / 4096]) g.ctx g.core (frameAddr s g)

/-- The group in the handler of a trap at the word at which its clause stands. -/
def inHandlerOf (s : State) (g : Group) (c : Clause) (r : Claims.Report) : Group :=
  enterHandler (dropFails s g.ctx g.core [r.addr / 4096]) g c.pcs (wordReport c r)

/-- The state after a trap that is delivered. -/
def delivered (s : State) (g : Group) (c : Clause) (leaf : Leaf) (r : Claims.Report) : State :=
  setGroup (storeFrame (beforeFrame s g r) g (leaf.at (frameAddr s g)) (frameWords g c.pcs (wordReport c r))) (inHandlerOf s g c r)

theorem trapped_delivered (h : Claims.Deliverable s g leaf) (hc : r.cause ≠ 0x30 ∧ r.cause ≠ 0x31 ∧ r.cause ≠ 0x70) :
    trapped s g c r.cause r.mask r.dst r.addr [] = delivered s g c leaf r :=
  takeTrap_delivered (t := wordReport c r) h hc

/-- What trap entry changes: the core's L1 with the line's stamps, the translations, the events, the failed walks, and the
group. -/
theorem delivered_eq (s : State) (g : Group) (c : Clause) (leaf : Leaf) (r : Claims.Report) :
    ∃ l1 stamps storers coreTlb hamletTlb devTlb aheadTlb events walkFails,
      delivered s g c leaf r = setGroup { s with l1, stamps, storers, coreTlb, hamletTlb, devTlb, aheadTlb, events, walkFails }
        (inHandlerOf s g c r) := by
  obtain ⟨coreTlb, hamletTlb, devTlb, aheadTlb, events, hf⟩ :=
    fillNow_eq (dropFails s g.ctx g.core [r.addr / 4096]) g.ctx g.core (frameAddr s g)
  obtain ⟨⟨l1, stamps, storers, ht⟩, -⟩ := stored_storeWords g (leaf.at (frameAddr s g))
    (frameWords g c.pcs (wordReport c r)).zipIdx (beforeFrame s g r)
  refine ⟨l1, stamps, storers, coreTlb, hamletTlb, devTlb, aheadTlb, events, (dropFails s g.ctx g.core [r.addr / 4096]).walkFails, ?_⟩
  rw [delivered, storeFrame_eq, ht, beforeFrame, hf]
  rfl

theorem l1Copy_setGroup (s : State) (g : Group) (core w : Nat) : l1Copy (setGroup s g) core w = l1Copy s core w := rfl

/-- The other cores hold what they held. -/
theorem l1Copy_delivered (s : State) (g : Group) (c : Clause) (leaf : Leaf) (r : Claims.Report) {core : Nat} (w : Nat)
    (h : core ≠ g.core) : l1Copy (delivered s g c leaf r) core w = l1Copy s core w := by
  obtain ⟨coreTlb, hamletTlb, devTlb, aheadTlb, events, hf⟩ :=
    fillNow_eq (dropFails s g.ctx g.core [r.addr / 4096]) g.ctx g.core (frameAddr s g)
  have hs := (stored_storeWords g (leaf.at (frameAddr s g)) (frameWords g c.pcs (wordReport c r)).zipIdx
    (beforeFrame s g r)).others core w h
  have hb : l1Copy (beforeFrame s g r) core w = l1Copy s core w := by
    rw [beforeFrame, hf]
    rfl
  rw [delivered, l1Copy_setGroup, storeFrame_eq, hs, hb]

theorem groupAt_delivered (h : At s g c) (leaf : Leaf) (r : Claims.Report) :
    groupAt (delivered s g c leaf r) g.core g.slot = some (inHandlerOf s g c r) := by
  obtain ⟨hplace, -⟩ := issuer_spec h
  obtain ⟨_, _, _, _, _, _, _, _, _, he⟩ := delivered_eq s g c leaf r
  rw [he]
  exact groupAt_setGroup hplace rfl rfl

theorem entryFrame_delivered (s : State) (g : Group) (c : Clause) (leaf : Leaf) (r : Claims.Report) :
    Claims.EntryFrame s (delivered s g c leaf r) g := by
  obtain ⟨_, _, _, _, _, _, _, _, _, he⟩ := delivered_eq s g c leaf r
  have hother : ∀ core slot, ¬ (core = g.core ∧ slot = g.slot) →
      groupAt (delivered s g c leaf r) core slot = groupAt s core slot := fun core slot hn => by
    rw [he]
    exact groupAt_setGroup_other (g' := inHandlerOf s g c r) hn
  have hcore := fun core w (hn : core ≠ g.core) => l1Copy_delivered s g c leaf r w hn
  rw [he] at hother hcore ⊢
  exact ⟨rfl, rfl, rfl, rfl, rfl, rfl, rfl, hcore, hother⟩

theorem inHandler_inHandlerOf (s : State) (g : Group) {c : Clause} {r : Claims.Report} (hm : execMask g c = (pcSlot g c.pcs).mask) :
    Claims.InHandler s g c r (inHandlerOf s g c r) where
  entry := by rw [hm]; rfl
  slotB := rfl
  stack := ⟨rfl, rfl⟩
  clause := ⟨rfl, rfl, rfl⟩
  handler := rfl
  trapRegs := ⟨rfl, rfl, rfl, rfl, rfl⟩
  kept := ⟨_, rfl, rfl, rfl, rfl, rfl, rfl⟩
  registers := by simp [Claims.SameRegisters, inHandlerOf, enterHandler, dropLatches, setTrapRegs]

/-- The core reads the frame back from its L1. -/
theorem readNow_delivered (s : State) (g : Group) (c : Clause) (leaf : Leaf) (r : Claims.Report) {i : Nat} (h : i < 1024) :
    (readNow (delivered s g c leaf r) g.core (leaf.at (frameAddr s g) + 4 * i)).1 = Claims.frame g c r i := by
  obtain ⟨d, hd, hv, hh⟩ := l1Copy_storeFrame (beforeFrame s g r) g (leaf.at (frameAddr s g))
    (frameWords_getElem? (g := g) (c := c) (r := r) h)
  have hd' : l1Copy (delivered s g c leaf r) g.core (leaf.at (frameAddr s g) + 4 * i) = some d := by
    rw [delivered, l1Copy_setGroup, hd]
  exact (readNow_held hd' hh).trans hv

/-- A delivered trap does what R24 says. -/
theorem trapEntry_of_exec {op : Instr} (h : At s g c) (hd : Claims.Deliverable s g leaf)
    (hc : r.cause ≠ 0x30 ∧ r.cause ≠ 0x31 ∧ r.cause ≠ 0x70)
    (he : exec op s = .next (trapped s g c r.cause r.mask r.dst r.addr [])) :
    ∃ t h, exec op s = .next t ∧ groupAt t g.core g.slot = some h ∧ Claims.InHandler s g c r h ∧ Claims.EntryFrame s t g ∧
      ∀ i, i < 1024 → (readNow t g.core (leaf.at (frameAddr s g) + 4 * i)).1 = Claims.frame g c r i :=
  ⟨_, _, he.trans (congrArg _ (trapped_delivered hd hc)), groupAt_delivered h leaf r,
    inHandler_inHandlerOf s g rfl, entryFrame_delivered s g c leaf r,
    fun _ hi => readNow_delivered s g c leaf r hi⟩

end

/-- Settles O10: the software trap, and the breakpoint where nobody debugs. -/
theorem trapEntry : Obligations.TrapEntry := by
  intro s g c leaf code hat hd p hp hdbg
  simp only [List.mem_cons, List.not_mem_nil, or_false] at hp
  rcases hp with rfl | rfl
  · exact trapEntry_of_exec (r := ⟨0x61, execMask g c, code.toNat, 0xFF⟩) hat hd (by simp) (exec_trap hat code)
  · exact trapEntry_of_exec (r := ⟨0x60, execMask g c, code.toNat, 0xFF⟩) hat hd (by simp) (exec_brk_trap hat code (hdbg rfl))

end Sys2Proof.Machine
end

section
/-!
Register allocation and the system registers (R17, R117, R118).
-/

namespace Sys2Proof.Machine

open Sys2Proof.Safety

/-! ## Masks and tables -/

/-- The lanes of a mask where another holds a bit. -/
theorem among_getLsbD (act m : Mask) : among act (fun l => m.getLsbD l) = act &&& m :=
  maskOf_eq_mask _ _ fun l _ => by simp

/-- A mask without the lanes of no mask. -/
theorem and_not_zero (m : Mask) : m &&& ~~~(0 : Mask) = m := by
  rw [show ~~~(0 : Mask) = BitVec.allOnes 128 from rfl, BitVec.and_allOnes]

/-- The active lanes of a sound field hold no poison. -/
theorem and_fieldPoison_eq_zero {g : Group} {act : Mask} {f : BitVec 7} (h : Sound g act f) : act &&& fieldPoison g f = 0 := by
  rw [← among_getLsbD]
  refine maskOf_eq_zero _ fun l hl => ?_
  cases ha : act.getLsbD l
  · rfl
  · simpa using h l ⟨hl, ha⟩

/-- A table keeps the entries that a filter on its keys lets through. -/
theorem tfind_filter_key {α : Type} (t : Tbl α) (p : Nat → Bool) (k : Nat) (h : p k = true) :
    tfind (t.filter fun e => p e.1) k = tfind t k := by
  induction t with
  | nil => rfl
  | cons e t ih =>
    by_cases hk : e.1 = k
    · simp [hk, h, tfind]
    · cases hp : p e.1 <;> simp [hp, tfind, hk, ih]

theorem mem_lanesIn (m : Mask) (l : Nat) : l ∈ lanesIn m ↔ On m l := by simp [lanesIn, On, numLanes]

/-- A word keeps no bit from `n` up exactly when it is below `2 ^ n`. -/
theorem ushiftRight_eq_zero_iff (v : Word) (n : Nat) : v >>> n = 0 ↔ v.toNat < 2 ^ n := by
  rw [← BitVec.toNat_inj, BitVec.toNat_ushiftRight, Nat.shiftRight_eq_div_pow]
  exact Nat.div_eq_zero_iff_lt (Nat.two_pow_pos n)

/-! ## Register allocation (R117) -/

theorem loadAbove_iff (g : Group) (n : Nat) : loadAbove g n = true ↔ Claims.LoadsAbove g n := by
  rw [loadAbove, List.any_eq_true]
  refine exists_congr fun o => and_congr_right fun _ => ?_
  cases hk : o.kind with
  | load => simp [ceilDiv]; exact decide_eq_true_iff
  | atom => simp [ceilDiv]; exact decide_eq_true_iff
  | _ => simp

theorem loadAbove_false_iff (g : Group) (n : Nat) : loadAbove g n = false ↔ ¬ Claims.LoadsAbove g n := by
  rw [← loadAbove_iff, Bool.not_eq_true]

theorem reggrow_retires {s : State} {g : Group} {c : Clause} {n : BitVec 8} (h : At s g c) (hn : n.toNat ≤ g.regAlloc) :
    exec (.reggrow n) s = .next (after s g c) := by
  refine (withIssuer_eq h _).trans ?_
  rw [if_pos hn]
  rfl

theorem reggrow_waits {s : State} {g : Group} {c : Clause} {n : BitVec 8} (h : At s g c) (hn : g.regAlloc < n.toNat) :
    exec (.reggrow n) s = .next (setGroup s (suspend { advance s g c with grow := some (n.toNat, s.clock) })) := by
  refine (withIssuer_eq h _).trans ?_
  rw [if_neg (by omega)]

/-- A legal regshrink gives up no window and no register of a payload. -/
theorem shrinkOk {g : Group} {n : Nat} (h : Claims.MayShrink g n) :
    ((g.queues.any fun e => decide (n ≤ e.2.window)) || (isEpisode g && decide (n < 16))) = false := by
  obtain ⟨hw, hk⟩ := h
  rw [Bool.or_eq_false_iff]
  refine ⟨?_, ?_⟩
  · rw [List.any_eq_false]
    intro e he
    simpa using hw e he
  · rcases hk with hk | hk <;> simp [isEpisode, hk]

/-- What a legal regshrink does, in its three cases. -/
theorem exec_regshrink {s : State} {g : Group} {c : Clause} {n : BitVec 8} (h : At s g c) (hm : Claims.MayShrink g n.toNat) :
    exec (.regshrink n) s = if g.regAlloc ≤ n.toNat then .next (after s g c)
      else if loadAbove g n.toNat then .next (setGroup s { advance s g c with shrink := some n.toNat })
      else .next (after s (Claims.allocated g n.toNat) c) := by
  refine (withIssuer_eq h _).trans ?_
  rw [shrinkOk hm]
  rfl

theorem oldestOf_mem {rs : List (Nat × Nat × Nat)} {p : Nat × Nat × Nat} (h : oldestOf rs = some p) : p ∈ rs := by
  induction rs generalizing p with
  | nil => simp [oldestOf] at h
  | cons r rs ih =>
    rw [oldestOf] at h
    split at h
    · cases h
      exact List.mem_cons_self
    · rename_i q hq
      split at h <;> cases h
      · exact List.mem_cons_self
      · exact List.mem_cons_of_mem _ (ih hq)

/-- The oldest of some requests: it is as old as every other, and the first of its slot. -/
theorem oldestOf_eq {rs : List (Nat × Nat × Nat)} {q : Nat × Nat × Nat}
    (h : ∀ r ∈ rs, q.1 < r.1 ∨ q.1 = r.1 ∧ q.2.1 ≤ r.2.1) (hq : rs.find? (fun r => r.2.1 == q.2.1) = some q) :
    oldestOf rs = some q := by
  induction rs with
  | nil => cases hq
  | cons r rs ih =>
    have hr := h r List.mem_cons_self
    have hrs := fun p hp => h p (List.mem_cons_of_mem _ hp)
    rw [oldestOf]
    by_cases hs : r.2.1 = q.2.1
    · obtain rfl : r = q := by simpa [hs] using hq
      cases ho : oldestOf rs with
      | none => rfl
      | some p => exact if_pos (hrs p (oldestOf_mem ho))
    · have hq : rs.find? (fun r => r.2.1 == q.2.1) = some q := by simpa [hs] using hq
      rw [ih hrs hq]
      exact if_neg (by omega)

/-- The first of a list to meet a condition is the first to meet a stronger one that it meets. -/
theorem find?_stronger {α : Type} {l : List α} {p q : α → Bool} {a : α} (h : l.find? p = some a) (hq : q a = true)
    (himp : ∀ x, q x = true → p x = true) : l.find? q = some a := by
  rw [List.find?_eq_some_iff_append] at h ⊢
  obtain ⟨-, as, bs, rfl, has⟩ := h
  refine ⟨hq, as, bs, rfl, fun x hx => ?_⟩
  have := has x hx
  have hx := himp x
  grind

/-- The oldest request of a core is that of the group that has waited the longest. -/
theorem oldestOf_growRequests {s : State} {core slot n since : Nat} {g : Group} (h : Claims.Waiting s core slot n since g) :
    oldestOf (growRequests s core) = some (since, slot, n) := by
  obtain ⟨hg, hgrow, hold⟩ := h
  obtain ⟨hcore, hslot⟩ := groupAt_place hg
  refine oldestOf_eq (fun r hr => ?_) ?_
  · obtain ⟨x, hx, e⟩ := List.mem_filterMap.1 hr
    obtain ⟨hx, hxc⟩ := List.mem_filter.1 hx
    obtain ⟨⟨m, t⟩, hgr, rfl⟩ := Option.map_eq_some_iff.1 e
    exact hold x hx (by simpa using hxc) m t hgr
  · have hfind : s.groups.find? (fun a => a.core == core &&
        (a.grow.map fun r => (r.2, a.slot, r.1)).any fun r => r.2.1 == slot) = some g :=
      find?_stronger hg (by simp [hcore, hslot, hgrow]) fun x => by
        cases x.grow <;> simp
    rw [growRequests, List.find?_filterMap, List.find?_filter]
    simp only [Bool.decide_and, Bool.decide_eq_true, hfind, Option.bind_some, hgrow, Option.map_some, hslot]

theorem exec_reggrowGrant {s : State} {core slot n since : Nat} {g : Group} (h : Claims.Waiting s core slot n since g) :
    exec (.reggrowGrant core) s = if (n - g.regAlloc) / 4 ≤ granulesFree s core then
      .next (setGroup s { Claims.allocated g n with grow := none }) else .next s := by
  show execReggrowGrant core s = _
  rw [execReggrowGrant, oldestOf_growRequests h]
  simp only [h.1]
  rfl

theorem exec_regshrinkDone {s : State} {core slot n : Nat} {g : Group} (hg : groupAt s core slot = some g)
    (hn : g.shrink = some n) : exec (.regshrinkDone core slot) s =
      if loadAbove g n then .next s else .next (setGroup s { Claims.allocated g n with shrink := none }) := by
  show execRegshrinkDone core slot s = _
  simp only [execRegshrinkDone, hg, hn]
  rfl

/-- Registers below an allocation keep their contents (R117). -/
theorem readV_allocated (g : Group) {n m : Nat} (l : Nat) (h : m < n) (hm : m < 124) :
    readV (Claims.allocated g n) (BitVec.ofNat 7 m) l = readV g (BitVec.ofNat 7 m) l := by
  have hnat : (BitVec.ofNat 7 m).toNat = m := by simp; omega
  have hreg : isReg (BitVec.ofNat 7 m) = true := by simpa [isReg, hnat] using hm
  simp only [readV, fieldLanes, hreg, if_true, hnat, vReg, tget, Claims.allocated]
  rw [tfind_filter_key _ (fun k => decide (k < n)) m (by simpa using h)]

theorem registerAllocation : Claims.RegisterAllocation := by
  refine ⟨fun s g c n h => ⟨reggrow_retires h, reggrow_waits h, fun hm => ?_⟩, fun s core slot n since g h => ?_,
    fun s core slot n g hg hn => ?_, fun g n m l h => ?_⟩
  · rw [exec_regshrink h hm]
    refine ⟨fun hn => if_pos hn, fun hn hl => ?_, fun hn hl => ?_⟩
    · rw [if_neg (by omega), if_pos ((loadAbove_iff g _).2 hl)]
    · rw [if_neg (by omega), (loadAbove_false_iff g _).2 hl]
      rfl
  · rw [exec_reggrowGrant h]
    exact ⟨fun hn => if_pos hn, fun hn => if_neg (by omega)⟩
  · rw [exec_regshrinkDone hg hn]
    refine ⟨fun hl => ?_, fun hl => if_pos ((loadAbove_iff g _).2 hl)⟩
    rw [(loadAbove_false_iff g _).2 hl]
    rfl
  · rcases Nat.lt_or_ge m 124 with hm | hm
    · exact .inl (readV_allocated g l h hm)
    · exact .inr hm

/-! ## System registers (R17, R118) -/

section
variable {f : X} {s : State} {g : Group} {c : Clause}

theorem foldl_range_six (f : Nat → Nat) :
    (List.range 6).foldl (fun a n => a + f n) 0 = f 0 + f 1 + f 2 + f 3 + f 4 + f 5 := by
  simp [List.range_succ]

theorem loWord_eq_truncate (v : DWord) : loWord v = v.truncate 32 := by
  apply BitVec.eq_of_toNat_eq
  simp [loWord]

/-- The scalar system registers hold what R17 says. -/
theorem sysScalar_eq (s : State) (g : Group) : ∀ p ∈ Claims.systemScalars s g, sysScalar s g p.1.toNat = p.2 := by
  have hcl : (if isEpisode g then (0xFFFFFFFF : DWord) else BitVec.ofNat 64 g.cluster) =
      if g.kind = .compute then BitVec.ofNat 64 g.cluster else 0xFFFFFFFF := by
    by_cases hk : g.kind = .compute <;> simp [isEpisode, hk]
  have hham : hamletOf g.core = g.core / 48 * 4 + g.core % 12 / 3 := by
    rw [hamletOf, Nat.div_div_eq_div_mul]
  have hcnt : cntWord g = BitVec.ofNat 64 (cnt g 0 % 64 + cnt g 1 % 64 * 2 ^ 6 + cnt g 2 % 64 * 2 ^ 12 + cnt g 3 % 64 * 2 ^ 18 +
      cnt g 4 % 64 * 2 ^ 24 + cnt g 5 % 64 * 2 ^ 30) := by
    rw [cntWord, foldl_range_six fun n => cnt g n % 64 * 2 ^ (6 * n), Nat.mul_zero, Nat.pow_zero, Nat.mul_one]
  have hlog : BitVec.ofNat 64 (logMode s g.ctx) = (ctxWord s g.ctx 0x020).zeroExtend 64 := BitVec.ofNat_toNat _ _
  have hfr : ((ctxDWord s g.ctx 0x010).toNat + (g.core * 96 + g.slot) * 4096) % 2 ^ 64 = frameAddr s g := rfl
  simp only [Claims.systemScalars, List.forall_mem_cons, ← hham, ← hcnt, ← hlog, ← hcl, hfr]
  refine ⟨rfl, rfl, rfl, rfl, rfl, rfl, rfl, rfl, rfl, rfl, rfl, rfl, rfl, rfl, rfl, rfl, rfl, rfl, rfl, rfl, rfl, ?_⟩
  simp

theorem sysLane_eq (g : Group) : ∀ p ∈ Claims.systemLanes g, sysLane g p.1.toNat = p.2 := by
  simp only [Claims.systemLanes, List.forall_mem_cons]
  exact ⟨rfl, rfl, rfl, by simp⟩

theorem sysFieldCause_plain {d : BitVec 7} (h : Plain g d) : sysFieldCause g d = none := by
  obtain ⟨hw, hb⟩ := h
  simp [sysFieldCause, hw, hb]

theorem rdsys_scalar (h : At s g c) (hk : f.kd = 1) :
    exec (.rdsys f) s = .next (after s (setS g f.d.toNat (sysScalar s g f.sys.toNat)) c) := by
  refine (withIssuer_eq h _).trans ?_
  simp only [hk]
  rfl

theorem rdsys_lanes (h : At s g c) (hk : f.kd = 0) (hd : Plain g f.d) :
    exec (.rdsys f) s = .next (after s (setV g f.d.toNat (execMask g c) (sysLane g f.sys.toNat)) c) := by
  refine (withIssuer_eq h _).trans ?_
  simp only [hk, if_true, sysFieldCause_plain hd]
  rfl

theorem rdsys_mask (h : At s g c) (hk : f.kd = 2) :
    exec (.rdsys f) s = .next (after s (setP g f.d.toNat (sysMask g c f.sys.toNat)) c) := by
  refine (withIssuer_eq h _).trans ?_
  simp only [hk]
  rfl

theorem systemRegisterReads : Claims.SystemRegisterReads := by
  intro f s g c h
  refine ⟨fun p hp hs hk => ?_, fun p hp hs hk hd => ?_, fun p hp hs hk => ?_⟩
  · rw [rdsys_scalar h hk, hs, sysScalar_eq s g p hp]
  · rw [rdsys_lanes h hk hd, hs, sysLane_eq g p hp]
  · rw [rdsys_mask h hk, hs]
    simp only [List.mem_cons, List.not_mem_nil, or_false] at hp
    rcases hp with rfl | rfl <;> rfl

theorem wrsys_fpctl (h : At s g c) (hs : f.sys = 0x20) (hp : tget g.sPoison f.d.toNat false = false) :
    exec (.wrsys f) s = if loWord (sReg g f.d.toNat) >>> 9 ≠ 0 then .next (trapped s g c 1 (execMask g c) 0xFF 0 [])
      else .next (after s { g with fpctl := loWord (sReg g f.d.toNat) } c) := by
  refine (withIssuer_eq h _).trans ?_
  simp only [hs, if_true, hp, Bool.false_eq_true, if_false]
  rfl

/-- A write of a per-lane register goes by its lanes. -/
theorem wrsys_lanes (h : At s g c) (hs : f.sys ≠ 0x20) (hd : Plain g f.d) : exec (.wrsys f) s = wrLanes f s g c := by
  refine (withIssuer_eq h _).trans ?_
  simp only [hs, if_false, sysFieldCause_plain hd]

theorem wrsys_fflags (h : At s g c) (hs : f.sys = 0x21) (hd : Plain g f.d) (hsound : Sound g (execMask g c) f.d) :
    exec (.wrsys f) s = if (lanesIn (execMask g c)).any fun l => readV g f.d l >>> 5 ≠ 0 then
        .next (trapped s g c 1 (execMask g c) 0xFF 0 [])
      else .next (after s { g with fflags := mergeLanes (execMask g c) (readV g f.d) g.fflags } c) := by
  rw [wrsys_lanes h (by rw [hs]; decide) hd]
  simp only [wrLanes, hs, if_true, and_fieldPoison_eq_zero hsound, and_not_zero]
  rfl

/-- The seeds that wrsys writes: 1 in place of 0 (R68). -/
def seeds (g : Group) (d : BitVec 7) (l : Nat) : Word := if readV g d l = 0 then 1 else readV g d l

theorem wrsys_srseed (h : At s g c) (hs : f.sys = 0x22) (hd : Plain g f.d) :
    let bad := execMask g c &&& fieldPoison g f.d
    let g' := { g with srseed := mergeLanes (execMask g c &&& ~~~bad) (seeds g f.d) g.srseed }
    exec (.wrsys f) s = if bad = 0 then .next (after s g' c) else .next (trapped s g' c 0x70 bad 0xFF 0 []) := by
  rw [wrsys_lanes h (by rw [hs]; decide) hd]
  have h21 : ¬ f.sys = 0x21 := by rw [hs]; decide
  simp only [wrLanes, h21, if_false]
  rfl

end

theorem systemRegisterWrites : Claims.SystemRegisterWrites := by
  intro f s g c h
  refine ⟨fun hs hp => ?_, fun hs hd hsound => ?_, fun hs hd hsound => ?_, fun hs hd => ?_⟩
  · rw [wrsys_fpctl h hs hp, loWord_eq_truncate]
    intro v
    have hz := ushiftRight_eq_zero_iff v 9
    refine ⟨fun hv => ?_, fun hv => if_pos fun h0 => ?_⟩
    · rw [if_neg (not_not.2 (hz.2 hv))]
    · have := hz.1 h0
      omega
  · rw [wrsys_fflags h hs hd hsound]
    refine ⟨fun hv => ?_, fun ⟨l, hl, hv⟩ => if_pos ?_⟩
    · rw [if_neg]
      simp only [List.any_eq_true, mem_lanesIn, decide_eq_true_eq, not_exists, not_and, not_not]
      exact fun l hl => (ushiftRight_eq_zero_iff _ 5).2 (hv l hl)
    · simp only [List.any_eq_true, mem_lanesIn, decide_eq_true_eq]
      refine ⟨l, hl, fun h0 => ?_⟩
      have := (ushiftRight_eq_zero_iff _ 5).1 h0
      omega
  · have hw := wrsys_srseed h hs hd
    simp only [and_fieldPoison_eq_zero hsound, if_true, and_not_zero] at hw
    exact hw
  · intro bad hb
    have hbad : bad = execMask g c &&& fieldPoison g f.d := among_getLsbD _ _
    have hw := wrsys_srseed h hs hd
    simp only [← hbad, if_neg hb] at hw
    exact hw

/-- Settles O37: allocation and its grants, then the reads and the writes of the system registers. -/
theorem systemRegisters : Obligations.SystemRegisters := ⟨registerAllocation, systemRegisterReads, systemRegisterWrites⟩

end Sys2Proof.Machine
end

section
/-!
Register writes, latches, and the checks of the operands of a two-source instruction (R8, R9, R42 to R46, R79, R81, R125).
-/

namespace Sys2Proof.Machine

open Sys2Proof.Safety

/-! ## Writes of registers and latches (R8, R42, R46) -/

theorem lane_setV (g : Group) (n m : Nat) (act : Mask) (f : Nat → Word) (l : Nat) (hl : l < 128) :
    lane (vReg (setV g n act f) m) l = if m = n ∧ act.getLsbD l = true then f l else lane (vReg g m) l := by
  rw [vReg, setV, tget_tput]
  by_cases hm : m = n
  · simp only [hm, if_true, true_and, lane_mergeLanes _ _ _ _ hl]
  · simp [hm, vReg]

theorem sReg_setS (g : Group) (n m : Nat) (v : DWord) : sReg (setS g n v) m = if m = n then v else sReg g m :=
  tget_tput _ _ _ _ _

theorem pReg_setP (g : Group) (n m : Nat) (v : Mask) :
    pReg (setP g n v) m = if m = 0 then BitVec.allOnes 128 else if m = n then v else pReg g m := by
  by_cases hm : m = 0
  · simp [pReg, hm]
  · by_cases hn : n = 0
    · simp [setP, pReg, hm, hn]
    · simp [setP, pReg, hm, hn, tget_tput]

theorem latchValid_shiftLatches (g : Group) {act : Mask} (f : Nat → Word) {n : Nat} (h : act ≠ 0) (hn : n < 4) :
    (shiftLatches g act f).latchValid.getLsbD n = (decide (n = 0) || g.latchValid.getLsbD (n - 1)) := by
  simp only [shiftLatches, if_neg h]
  generalize g.latchValid = v
  interval_cases n <;> simp

/-- What a latch takes in the active lanes: the result, or what the latch before it held. -/
theorem latches_shiftLatches (g : Group) {act : Mask} (f : Nat → Word) {n : Nat} (h : act ≠ 0) (hn : n < 4) :
    (shiftLatches g act f).latches.getD n [] =
      mergeLanes act (if n = 0 then f else lane (latch g (n - 1))) (latch g n) := by
  simp only [shiftLatches, if_neg h]
  interval_cases n <;> rfl

theorem lane_shiftLatches (g : Group) {act : Mask} (f : Nat → Word) {n l : Nat} (h : act ≠ 0) (hn : n < 4) (hl : l < 128) :
    lane (latch (shiftLatches g act f) n) l = if n = 0 ∨ g.latchValid.getLsbD (n - 1) = true then
        (if act.getLsbD l then (if n = 0 then f l else lane (latch g (n - 1)) l) else lane (latch g n) l) else 0 := by
  have hv : ((shiftLatches g act f).latchValid.getLsbD n = true) = (n = 0 ∨ g.latchValid.getLsbD (n - 1) = true) := by
    simp [latchValid_shiftLatches g f h hn]
  rw [latch, latches_shiftLatches g f h hn]
  simp only [hv]
  split
  · rw [lane_mergeLanes _ _ _ _ hl]
    by_cases h0 : n = 0 <;> simp only [h0, if_true, if_false]
  · rfl

theorem registerWrites : Claims.RegisterWrites :=
  ⟨fun g n m act f l hl => lane_setV g n m act f l hl, sReg_setS, pReg_setP,
    fun g _ f _ _ h hn hl => lane_shiftLatches g f h hn hl, fun _ _ => if_pos rfl,
    fun g _ f _ h hn => latchValid_shiftLatches g f h hn⟩

/-! ## What the two-source instructions compute (R79, R81) -/

theorem clampW_eq_saturate {lo hi : Int} (h : lo ≤ hi) (n : Int) : clampW lo hi n = Claims.saturate lo hi n := by
  unfold clampW Claims.saturate
  split_ifs <;> congr 1 <;> omega

theorem minI_eq (a b : Word) : minI a b = if a.toInt ≤ b.toInt then a else b := by
  have he : a.toInt = b.toInt → a = b := BitVec.eq_of_toInt_eq
  simp only [minI, BitVec.slt_iff_toInt_lt]
  grind

theorem maxI_eq (a b : Word) : maxI a b = if a.toInt ≤ b.toInt then b else a := by
  have he : a.toInt = b.toInt → a = b := BitVec.eq_of_toInt_eq
  simp only [maxI, BitVec.slt_iff_toInt_lt]
  grind

theorem minN_eq (a b : Word) : minN a b = if a.toNat ≤ b.toNat then a else b := by
  have he : a.toNat = b.toNat → a = b := BitVec.eq_of_toNat_eq
  simp only [minN, BitVec.ult_iff_lt, BitVec.lt_def]
  grind

theorem maxN_eq (a b : Word) : maxN a b = if a.toNat ≤ b.toNat then b else a := by
  have he : a.toNat = b.toNat → a = b := BitVec.eq_of_toNat_eq
  simp only [maxN, BitVec.ult_iff_lt, BitVec.lt_def]
  grind

theorem absdI_eq (a b : Word) : absdI a b = BitVec.ofInt 32 |a.toInt - b.toInt| := by
  rw [absdI, Int.abs_eq_natAbs, BitVec.ofInt_natCast]

theorem absdN_eq (a b : Word) : absdN a b = if a.toNat ≤ b.toNat then b - a else a - b := by
  have ha := a.isLt
  have hb := b.isLt
  apply BitVec.eq_of_toNat_eq
  split <;> simp only [absdN, BitVec.toNat_ofNat, BitVec.toNat_sub] <;> omega

theorem mulW_eq (a b : Word) : mulW a b = BitVec.ofInt 32 (a.toInt * b.toInt) := by
  rw [mulW, BitVec.ofInt_mul, BitVec.ofInt_toInt, BitVec.ofInt_toInt]

/-- The high half of a 64-bit number. -/
theorem extractHigh_ofInt (n : Int) : (BitVec.ofInt 64 n).extractLsb' 32 32 = BitVec.ofInt 32 (n / 2 ^ 32) := by
  apply BitVec.eq_of_toNat_eq
  simp only [BitVec.extractLsb'_toNat, BitVec.toNat_ofInt, Nat.shiftRight_eq_div_pow]
  omega

theorem mulhiI_eq (a b : Word) : mulhiI a b = (a.signExtend 64 * b.signExtend 64).extractLsb' 32 32 := by
  rw [BitVec.signExtend, BitVec.signExtend, ← BitVec.ofInt_mul, extractHigh_ofInt, mulhiI]

theorem mulhiN_eq (a b : Word) : mulhiN a b = (a.zeroExtend 64 * b.zeroExtend 64).extractLsb' 32 32 := by
  have hz : ∀ v : Word, v.zeroExtend 64 = BitVec.ofInt 64 v.toNat := fun v => by
    rw [BitVec.ofInt_natCast, BitVec.ofNat_toNat]
  rw [hz, hz, ← BitVec.ofInt_mul, extractHigh_ofInt, mulhiN, ← BitVec.ofInt_natCast]
  push_cast
  rfl

theorem shlByte_eq (a b : Word) : shlByte a b = if b.toNat % 256 < 32 then a <<< (b.toNat % 256) else 0 := by
  unfold shlByte countOf
  split
  · rfl
  · exact BitVec.shiftLeft_eq_zero (by omega)

theorem shrByte_eq (a b : Word) : shrByte a b = if b.toNat % 256 < 32 then a >>> (b.toNat % 256) else 0 := by
  unfold shrByte countOf
  split
  · rfl
  · exact BitVec.ushiftRight_eq_zero (by omega)

/-- A shift by the whole width leaves the sign alone. -/
theorem sshiftRight_of_le (a : Word) {n : Nat} (h : 32 ≤ n) :
    a.sshiftRight n = if a.msb then BitVec.allOnes 32 else 0 := by
  apply BitVec.eq_of_getLsbD_eq
  intro i hi
  have hn : ¬ n + i < 32 := by omega
  rw [BitVec.getLsbD_sshiftRight]
  cases a.msb
  · simp [hn]
  · rw [if_pos rfl, BitVec.getLsbD_allOnes]
    simp [hi, hn]

theorem sarByte_eq (a b : Word) : sarByte a b = if b.toNat % 256 < 32 then a.sshiftRight (b.toNat % 256)
    else if a.msb then BitVec.allOnes 32 else 0 := by
  unfold sarByte countOf
  split
  · rfl
  · exact sshiftRight_of_le a (by omega)

theorem countOf_mod (b : Word) : countOf b % 32 = b.toNat % 32 := Nat.mod_mod_of_dvd _ (by decide)

/-- Each two-source instruction computes its operation in each lane. -/
theorem exec_twoSource : ∀ p ∈ Claims.twoSource, ∀ (f : V3) (ox : Option Ox) (s : State),
    exec (p.1 f ox) s = intV3 f ox p.2 s := by
  have use {i : V3 → Option Ox → Instr} {op r : Word → Word → Word} (hi : ∀ f ox s, exec (i f ox) s = intV3 f ox op s)
      (hr : ∀ a b, op a b = r a b) : ∀ f ox s, exec (i f ox) s = intV3 f ox r s := fun f ox s => by
    rw [hi, show op = r from funext₂ hr]
  simp only [Claims.twoSource, Claims.intV3, Claims.logicV3, List.cons_append, List.nil_append, List.forall_mem_cons]
  have sat {lo hi : Int} {n : Word → Word → Int} (h : lo ≤ hi) (a b : Word) := clampW_eq_saturate h (n a b)
  refine ⟨use (fun _ _ _ => rfl) fun _ _ => rfl, use (fun _ _ _ => rfl) fun _ _ => rfl,
    use (fun _ _ _ => rfl) (sat (by decide)), use (fun _ _ _ => rfl) (sat (by decide)),
    use (fun _ _ _ => rfl) (sat (by decide)), use (fun _ _ _ => rfl) (sat (by decide)),
    use (fun _ _ _ => rfl) minI_eq, use (fun _ _ _ => rfl) maxI_eq, use (fun _ _ _ => rfl) minN_eq, use (fun _ _ _ => rfl) maxN_eq,
    use (fun _ _ _ => rfl) absdI_eq, use (fun _ _ _ => rfl) absdN_eq, use (fun _ _ _ => rfl) mulW_eq,
    use (fun _ _ _ => rfl) mulhiI_eq, use (fun _ _ _ => rfl) mulhiN_eq, use (fun _ _ _ => rfl) fun _ _ => rfl,
    use (fun _ _ _ => rfl) fun _ _ => rfl, use (fun _ _ _ => rfl) fun _ _ => rfl, use (fun _ _ _ => rfl) fun _ _ => rfl,
    use (fun _ _ _ => rfl) fun _ _ => rfl, use (fun _ _ _ => rfl) fun _ _ => rfl, use (fun _ _ _ => rfl) shlByte_eq,
    use (fun _ _ _ => rfl) shrByte_eq, use (fun _ _ _ => rfl) sarByte_eq,
    use (fun _ _ _ => rfl) fun a b => congrArg a.rotateLeft (countOf_mod b),
    use (fun _ _ _ => rfl) fun a b => congrArg a.rotateRight (countOf_mod b), ?_⟩
  simp

/-! ## The checks of the operands (R9, R42, R125) -/

section
variable {f : V3} {ox : Option Ox} {s : State} {g : Group} {c : Clause} {op : Word → Word → Word}

theorem v3Op_fields (f : V3) (ox : Option Ox) : (v3Op f ox false).fields = [f.a, f.b] ++ dest f.nw f.d := plainOp_fields

/-- A field at or above REGALLOC, where no field is a window. -/
theorem operandCause_beyond {o : VecOp} (hw : ∀ x ∈ o.fields, windowOf g x = none) (hb : ∃ x ∈ o.fields, beyond g x = true) :
    operandCause g o = some 4 := by
  have w1 : (((o.runs.flatMap fun r => runFields r.1 r.2) ++ o.dst.run).any fun f => (windowOf g f).isSome) = false := by
    rw [List.any_eq_false]
    intro x hx
    have : x ∈ o.fields := by
      rcases List.mem_append.mp hx with hx | hx
      · simp only [VecOp.fields, List.mem_append]
        exact .inl (.inl (.inr hx))
      · simp only [VecOp.fields, List.mem_append]
        exact .inr (dst_run_subset _ x hx)
    simp [hw x this]
  have w2 : (o.srcs.any (outWindow g)) = false := by
    rw [List.any_eq_false]
    intro x hx
    simp [outWindow, hw x (by simp [VecOp.fields, hx])]
  have w3 : ((o.dst.single.map (inWindow g)).getD false) = false := by
    cases hsg : o.dst.single with
    | none => rfl
    | some x => simp [inWindow, hw x (by simp [VecOp.fields, dst_single_mem hsg])]
  have w4 : ((o.srcs ++ (o.runs.flatMap fun r => runFields r.1 r.2) ++ o.named ++ o.dst.fields).any (beyond g)) = true :=
    List.any_eq_true.2 hb
  simp only [operandCause, w1, w2, w3, w4, Bool.or_false, Bool.false_eq_true, if_false, if_true]

theorem intV3_beyond (h : At s g c) (hw : ∀ x ∈ [f.a, f.b] ++ dest f.nw f.d, windowOf g x = none)
    (hb : ∃ x ∈ [f.a, f.b] ++ dest f.nw f.d, beyond g x = true) :
    intV3 f ox op s = .next (trapped s g c 4 (execMask g c) 0xFF 0 []) := by
  rw [← v3Op_fields f ox] at hw hb
  rw [intV3, runVec, withIssuer_eq h, operandCause_beyond hw hb]
  rfl

/-- An instruction without an active lane retires (R42). -/
theorem intV3_idle (h : At s g c) (hp : ∀ x ∈ [f.a, f.b] ++ dest f.nw f.d, Plain g x) (ha : activeMask g c ox = 0) :
    intV3 f ox op s = .next (after s g c) := by
  rw [← v3Op_fields f ox] at hp
  rw [intV3, runVec, withIssuer_eq h, operandCause_plain hp]
  have ha : activeMask g c (v3Op f ox false).ox = 0 := ha
  simp only [ha, if_true]
  rfl

/-- The cause of a lane of a two-source instruction: poison of either source. -/
theorem laneCause_v3 (hp : ∀ x ∈ [f.a, f.b] ++ dest f.nw f.d, Plain g x) (val : Nat → Word) (l : Nat) :
    laneCause g (v3Op f ox false) (fun l => .one (val l)) l =
      if (fieldPoison g f.a).getLsbD l || (fieldPoison g f.b).getLsbD l then some 0x70 else none := by
  have ha := poisonField_plain (hp f.a (by simp)).1 l
  have hb := poisonField_plain (hp f.b (by simp)).1 l
  simp [laneCause, v3Op, plainOp, ownLanes, ha, hb, LaneOut.one]

theorem faultMask_v3 (hp : ∀ x ∈ [f.a, f.b] ++ dest f.nw f.d, Plain g x) (act : Mask) (val : Nat → Word) :
    faultMask g (v3Op f ox false) act (fun l => .one (val l)) = Claims.poisoned g act f.a f.b := by
  unfold faultMask Claims.poisoned among
  congr 1
  funext l
  rw [laneCause_v3 hp]
  split <;> simp_all

/-- The lowest cause of lanes that all have one cause. -/
theorem lowestCause_const {causes : Nat → Option Nat} {m : Mask} {k : Nat} (hm : m ≠ 0) (hk : k ≤ 0x100)
    (h : ∀ l, On m l → causes l = some k) : lowestCause causes m = k := by
  have hall : ∀ (ls : List Nat) (a : Nat), (∀ l ∈ ls, causes l = some k) → k ≤ a →
      ls.foldl (fun a l => match causes l with
        | some k => min a k
        | none => a) a = if ls = [] then a else k := by
    intro ls
    induction ls with
    | nil => intros; rfl
    | cons l ls ih =>
      intro a hl ha
      have hmin : min a k = k := Nat.min_eq_right ha
      simp only [List.foldl_cons, hl l List.mem_cons_self, hmin]
      rw [ih k (fun x hx => hl x (List.mem_cons_of_mem _ hx)) le_rfl]
      simp
  have hne : lanesIn m ≠ [] := fun h0 => hm (by
    rw [← maskOf_eq_mask (fun l => m.getLsbD l) m fun _ _ => rfl]
    refine maskOf_eq_zero _ fun l hl => ?_
    cases hb : m.getLsbD l
    · rfl
    · exact absurd ((mem_lanesIn m l).2 ⟨hl, hb⟩) (by simp [h0]))
  exact (hall (lanesIn m) 0x100 (fun l hl => h l ((mem_lanesIn m l).1 hl)) hk).trans (if_neg hne)

/-- What a two-source instruction delivers in some lanes. -/
theorem vecResult_v3 (hp : ∀ x ∈ [f.a, f.b] ++ dest f.nw f.d, Plain g x) (act good : Mask) (val : Nat → Word) :
    vecResult g (v3Op f ox false) act good (fun l => .one (val l)) = written g good f.nw f.d val := by
  rw [← v3Op_fields f ox] at hp
  have hq : inputQueues (writeDst g (v3Op f ox false) good fun l => .one (val l)) (v3Op f ox false) = [] := by
    rw [writeDst_vec rfl (outputQueue_plain hp)]
    have hsame : inputQueues (setV g f.d.toNat good val) (v3Op f ox false) = inputQueues g (v3Op f ox false) := rfl
    cases f.nw
    · exact hsame.trans (inputQueues_plain hp)
    · exact inputQueues_plain hp
  have hfp : (v3Op f ox false).fp = false := rfl
  simp only [vecResult, hfp, Bool.false_eq_true, if_false]
  rw [popQueues_plain hq, writeDst_vec rfl (outputQueue_plain hp)]
  rfl

theorem intV3_poisoned (h : At s g c) (hp : ∀ x ∈ [f.a, f.b] ++ dest f.nw f.d, Plain g x)
    (hb : Claims.poisoned g (activeMask g c ox) f.a f.b ≠ 0) :
    let bad := Claims.poisoned g (activeMask g c ox) f.a f.b
    intV3 f ox op s = .next (trapped s (written g (activeMask g c ox &&& ~~~bad) f.nw f.d
      fun l => op (readV g f.a l) (readV g f.b l)) c 0x70 bad (if f.nw then 0xFF else f.d.toNat) 0 []) := by
  have hfields := hp
  rw [← v3Op_fields f ox] at hfields
  have hout : (fun l => LaneOut.one (op (readField g f.a l) (readField g f.b l))) =
      fun l => .one (op (readV g f.a l) (readV g f.b l)) := by
    funext l
    rw [readField_plain (hp f.a (by simp)).1, readField_plain (hp f.b (by simp)).1]
  have hbad : ∀ l, On (Claims.poisoned g (activeMask g c ox) f.a f.b) l →
      (activeMask g c ox).getLsbD l = true ∧ ((fieldPoison g f.a).getLsbD l || (fieldPoison g f.b).getLsbD l) = true := by
    rintro l ⟨hl, hm⟩
    rwa [Claims.poisoned, among, maskOf_getLsbD _ _ hl, Bool.and_eq_true] at hm
  have hact : activeMask g c ox ≠ 0 := fun h0 => hb (maskOf_eq_zero _ fun l _ => by simp [h0])
  have hcause : lowestCause (laneCause g (v3Op f ox false) fun l => .one (op (readV g f.a l) (readV g f.b l)))
      (Claims.poisoned g (activeMask g c ox) f.a f.b) = 0x70 :=
    lowestCause_const hb (by decide) fun l hl => by rw [laneCause_v3 hp, if_pos (hbad l hl).2]
  have hox : activeMask g c (v3Op f ox false).ox = activeMask g c ox := rfl
  have hscal : ((v3Op f ox false).scal.map fun n => tget g.sPoison n.toNat false).getD false = false := rfl
  have hcode : (v3Op f ox false).dst.code 0x70 = if f.nw then 0xFF else f.d.toNat := by
    cases hnw : f.nw <;> simp [v3Op, plainOp, Dst.code, hnw]
  rw [intV3, runVec, withIssuer_eq h, operandCause_plain hfields]
  simp only [hox, hact, hcode, hscal, queuesReady_plain hfields, hout, faultMask_v3 hp, vecResult_v3 hp, hb, hcause, if_false,
    Bool.false_eq_true, Bool.true_eq_false]
  rfl

end

theorem operandChecks : Claims.OperandChecks := by
  intro p hp f ox s g c h hw act high bad
  have plain (hh : ¬ high) : ∀ x ∈ [f.a, f.b] ++ dest f.nw f.d, Plain g x := fun x hx =>
    ⟨hw x hx, Bool.not_eq_true _ ▸ fun hb => hh ⟨x, hx, hb⟩⟩
  rw [exec_twoSource p hp]
  exact ⟨fun hh => intV3_beyond h hw hh, fun hh ha => intV3_idle h (plain hh) ha, fun hh hb => intV3_poisoned h (plain hh) hb⟩

/-- Settles O33: what reads after a write, and the checks that come before one. -/
theorem registersAndOperands : Obligations.RegistersAndOperands := ⟨registerWrites, operandChecks⟩

end Sys2Proof.Machine
end

section
/-!
Return from a trap (R25, R115, R370, R390).
-/

namespace Sys2Proof.Machine

open Sys2Proof.Safety

/-! ## The registers that a frame restores -/

theorem tfind_append {α : Type} (t : Tbl α) (e : Nat × α) (k : Nat) :
    tfind (t ++ [e]) k = (tfind t k).orElse fun _ => if e.1 = k then some e.2 else none := by
  induction t with
  | nil => simp [tfind]
  | cons x t ih => by_cases hx : x.1 = k <;> simp [tfind, hx, ih]

/-- What a table of consecutive keys holds. -/
theorem tfind_map_range {α : Type} (f : Nat → α) (lo n k : Nat) :
    tfind ((List.range n).map fun i => (i + lo, f i)) k = if lo ≤ k ∧ k < lo + n then some (f (k - lo)) else none := by
  induction n with
  | zero => rw [if_neg (by omega)]; rfl
  | succ n ih =>
    rw [List.range_succ, List.map_append, List.map_singleton, tfind_append, ih]
    by_cases h1 : lo ≤ k ∧ k < lo + n
    · rw [if_pos h1, if_pos (show lo ≤ k ∧ k < lo + (n + 1) by omega)]
      rfl
    · rw [if_neg h1]
      by_cases h2 : n + lo = k
      · have hk : k - lo = n := by omega
        simp only [h2, hk, if_true, Option.orElse_none]
        rw [if_pos (by omega)]
      · simp only [h2, if_false, Option.orElse_none]
        rw [if_neg (by omega)]

section
variable {g : Group} {d : Aside} {fr : List (Word × Bool)} {skip : Bool}

theorem sReg_restoreRegs (g : Group) (fr : List (Word × Bool)) {n : Nat} (h : n < 64) :
    sReg (restoreRegs g fr) n = Claims.frame64 fr (64 + 2 * n) := by
  have hf := tfind_map_range (fun n => frD fr (64 + 2 * n)) 0 64 n
  rw [if_pos (by omega)] at hf
  exact congrArg (Option.getD · 0) hf

theorem pReg_restoreRegs (g : Group) (fr : List (Word × Bool)) {n : Nat} (h : 1 ≤ n) (h' : n < 8) :
    pReg (restoreRegs g fr) n = Claims.frame128 fr (192 + 4 * n) := by
  have hf := tfind_map_range (fun n => frMask fr (196 + 4 * n)) 1 7 n
  have hn : 196 + 4 * (n - 1) = 192 + 4 * n := by omega
  rw [if_pos (by omega), hn] at hf
  rw [pReg, if_neg (by omega)]
  exact congrArg (Option.getD · 0) hf

theorem lane_restoreRegs (g : Group) (fr : List (Word × Bool)) {n l : Nat} (h : n < 4) (hl : l < 128) :
    lane (latch (restoreRegs g fr) n) l =
      if (Claims.frameWord fr 16).getLsbD (24 + n) then Claims.frameWord fr (512 + 128 * n + l) else 0 := by
  have hv : (restoreRegs g fr).latchValid.getLsbD n = (Claims.frameWord fr 16).getLsbD (24 + n) := by
    simp [restoreRegs, h, frW, Claims.frameWord]
  have hw : (restoreRegs g fr).latches.getD n [] = perLane fun l => frW fr (512 + 128 * n + l) := by
    simp [restoreRegs, h]
  rw [latch, hv, hw]
  split
  · rw [lane_perLane, if_pos hl]
    rfl
  · rfl

/-! ## Where the group goes on -/

/-- A clause that ends changes its slots, its latches and the clause, and nothing else. -/
theorem endClause_eq (s : State) (g : Group) (c : Clause) (pc : Nat) : ∃ a b halted, endClause s g c pc =
    { g with a, b, latches := [], latchValid := 0, clause := none, resume := none, halted, stepping := false } := by
  unfold endClause
  cases c.pcs <;> exact ⟨_, _, _, rfl⟩

theorem restoreSlots_word {r : Resume} (now : Nat) (h : resumePlace g d fr skip = .word r) :
    ∃ a b, restoreSlots g d fr skip now = { g with
        a, b, top := d.top, depth := d.depth, aside := none, inHandler := false, clause := none, resume := some r } ∧
      (pcSlot { g with a, b } d.who).mask = frMask fr 4 := by
  unfold restoreSlots
  simp only [h]
  obtain ⟨da, db, who, top, depth, atHeader, ops⟩ := d
  cases who <;> exact ⟨_, _, rfl, rfl⟩

/-- A frame that still names the faulting word of a trap in mid-clause leads back to it, or to the word after it. -/
theorem resumePlace_middle (hm : d.atHeader = false) (hpc : (Claims.frame64 fr 0).toNat = g.trapPc)
    (hidx : bitsOf (Claims.frame64 fr 16) 16 8 < hdrN (Claims.frameWord fr 17)) :
    let idx := bitsOf (Claims.frame64 fr 16) 16 8
    resumePlace g d fr skip =
      .word ⟨d.who, g.trapPc - 4 * idx, Claims.frameWord fr 17, if skip then idx else idx - 1, skip, []⟩ := by
  have hpc' : (frD fr 0).toNat = g.trapPc := hpc
  have hidx' : ¬ (hdrN (frW fr 17) < bitsOf (frD fr 16) 16 8 ∨ skip = true ∧ hdrN (frW fr 17) = bitsOf (frD fr 16) 16 8) := by
    have : bitsOf (frD fr 16) 16 8 < hdrN (frW fr 17) := hidx
    omega
  unfold resumePlace
  simp only [hpc', hm, hidx', ne_eq, not_true, if_false, Bool.false_eq_true]
  rfl

/-- A frame without poison outside the scalars can be read (R126). -/
theorem framePoisoned_eq_false (hl : fr.length = 1024)
    (h : ∀ i, i < 1024 → ¬ (64 ≤ i ∧ i < 192) → (fr.getD i (0, false)).2 = false) : framePoisoned fr = false := by
  rw [framePoisoned, List.any_eq_false]
  rintro ⟨w, i⟩ hp
  have hget := List.mem_zipIdx_iff_getElem?.1 hp
  have hi : i < 1024 := hl ▸ (List.getElem?_eq_some_iff.1 hget).1
  have := h i hi
  simp only [List.getD_eq_getElem?_getD, hget, Option.getD_some] at this
  by_cases hs : 64 ≤ i ∧ i < 192
  · simp [hs]
  · simp [this hs]

/-- No header's MARK is to be checked where the faulting slot goes on in its clause and the other does not run. -/
theorem tretTargets_eq_nil (hpc : (Claims.frame64 fr 0).toNat = g.trapPc)
    (ha : (pcSlot { g with a := d.a, b := d.b } d.who.other).st ≠ .running) : tretTargets g d fr = [] := by
  have hpc' : (frD fr 0).toNat = g.trapPc := hpc
  obtain ⟨da, db, who, top, depth, atHeader, ops⟩ := d
  cases who
  · have hb : db.st ≠ .running := ha
    simp only [tretTargets, hpc', if_true, if_neg hb, List.append_nil]
  · have hb : da.st ≠ .running := ha
    simp only [tretTargets, hpc', if_true, if_neg hb, List.append_nil]

/-- A group with no split stack is already settled. -/
theorem settle_of_top {s : State} {h : Group} (ht : h.top = none) : settle s h = setGroup s h := by
  have : reconvergeOnce s h = none := by simp [reconvergeOnce, ht]
  simp [settle, reconverge, this]

end

section
variable {s : State} {g : Group} {c : Clause} {d : Aside} {fr : List (Word × Bool)}

theorem exec_tret (skip : Bool) (s : State) : exec (if skip then .tretSkip else .tretRetry) s = tret skip s := by
  cases skip <;> rfl

/-- The group that a return leaves, before R111 is applied. -/
def returned (s : State) (g : Group) (c : Clause) (d : Aside) (fr : List (Word × Bool)) (skip : Bool) : Group :=
  restoreSlots (restoreRegs (endClause s g c (nextHeader c)) fr) d fr skip s.clock

/-- What a return changes of its group. -/
theorem returned_eq (s : State) (c : Clause) (skip : Bool) (hm : d.atHeader = false)
    (hpc : (Claims.frame64 fr 0).toNat = g.trapPc)
    (hidx : bitsOf (Claims.frame64 fr 16) 16 8 < hdrN (Claims.frameWord fr 17)) :
    let idx := bitsOf (Claims.frame64 fr 16) 16 8
    ∃ a b halted, returned s g c d fr skip = { restoreRegs g fr with
      a, b, halted, stepping := false, top := d.top, depth := d.depth, aside := none, inHandler := false, clause := none
      resume := some ⟨d.who, g.trapPc - 4 * idx, Claims.frameWord fr 17, if skip then idx else idx - 1, skip, []⟩ } ∧
      (pcSlot { g with a, b } d.who).mask = Claims.frame128 fr 4 := by
  obtain ⟨a, b, halted, he⟩ := endClause_eq s g c (nextHeader c)
  have hplace : resumePlace (restoreRegs (endClause s g c (nextHeader c)) fr) d fr skip = _ :=
    resumePlace_middle hm (by rw [hpc, he]; rfl) hidx
  obtain ⟨a', b', hr, hmask⟩ := restoreSlots_word s.clock hplace
  refine ⟨a', b', halted, ?_, ?_⟩
  · rw [returned, hr, he]
    rfl
  · rw [he] at hmask
    obtain ⟨da, db, who, top, depth, atHeader, ops⟩ := d
    cases who <;> exact hmask

theorem tret_returns {skip : Bool} (h : At s g c) (hr : Claims.Returns s g d fr) :
    tret skip s = .next (settle s (returned s g c d fr skip)) := by
  obtain ⟨ha, hbusy, ⟨leaf, hx, hfr⟩, hs, hm, hpc, hal, ht⟩ := hr
  have hlen : fr.length = 1024 := by rw [← hfr, readFrame, List.length_map, List.length_range]
  rw [tret, withIssuer_eq h]
  simp only [ha, hbusy, hx, hfr, framePoisoned_eq_false hlen hs, tretTargets_eq_nil hpc hal, checkTargets, Bool.false_eq_true,
    if_false]
  rfl

end

/-- Settles O11: a return from the frame, and the cases in which there is none. -/
theorem trapReturn : Obligations.TrapReturn := by
  refine ⟨?_, fun s g c skip h ha => ?_, fun s g c d skip h ha hb => ?_, fun s g c d skip h ha hb hx => ?_⟩
  · intro s g c d fr skip h hr idx _ hidx
    obtain ⟨a, b, halted, he, hmask⟩ := returned_eq s c skip hr.middle hr.samePc hidx
    refine ⟨returned s g c d fr skip, ?_, ?_⟩
    · rw [exec_tret, tret_returns h hr, settle_of_top (by rw [he]; exact hr.top)]
    · rw [he]
      refine ⟨rfl, rfl, rfl, rfl, rfl, rfl, rfl, rfl, fun n hn => sReg_restoreRegs g fr hn,
        fun n h1 hn => pReg_restoreRegs g fr h1 hn, fun n l hn hl => lane_restoreRegs g fr hn hl, rfl, rfl, ?_, rfl, rfl, rfl, rfl, rfl⟩
      obtain ⟨da, db, who, top, depth, atHeader, ops⟩ := d
      cases who <;> exact hmask
  · rw [exec_tret, tret, withIssuer_eq h]
    simp only [ha]
    rfl
  · rw [exec_tret, tret, withIssuer_eq h]
    simp only [ha, hb, if_true]
    rfl
  · rw [exec_tret, tret, withIssuer_eq h]
    simp only [ha, hb, hx, Bool.false_eq_true, if_false]

end Sys2Proof.Machine
end

section
/-!
The issue of memory instructions (R119 to R134): the checks that all lanes pass, and the operation that is left outstanding.
-/

namespace Sys2Proof.Machine

open Sys2Proof.Safety

/-! ## The checks of the word and of its lanes (R119 to R122) -/

section
variable {s : State} {g : Group} {c : Clause} {ctr : BitVec 3} {m : MemForm} {k : Group → Clause → Mask → Res}

/-- Plain fields raise no cause. -/
theorem memOperandCause_plain (h : ∀ f ∈ m.srcs ++ m.dsts, Plain g f) : memOperandCause g m = none := by
  have hw : ((m.srcs ++ m.dsts).any fun f => (windowOf g f).isSome) = false := by
    rw [List.any_eq_false]
    intro f hf
    simp [(h f hf).1]
  have hb : ((m.srcs ++ m.dsts).any (beyond g)) = false := by
    rw [List.any_eq_false]
    intro f hf
    simp [(h f hf).2]
  simp [memOperandCause, hw, hb]

/-- A group that no batch holds issues for its active lanes. -/
theorem memLanes_of_batch (h : g.batch = none) (ox : Option Ox) : memLanes g c ox = activeMask g c ox := by
  rw [memLanes, h]

/-- What a memory instruction has to meet before its lanes are looked at. -/
structure Starts (s : State) (g : Group) (c : Clause) (ctr : BitVec 3) (m : MemForm) : Prop where
  issues : Claims.Issues s g c ctr m.ox
  counter : m.ctr = ctr.toNat
  plain : ∀ f ∈ m.srcs ++ m.dsts, Plain g f
  scalars : ∀ n ∈ m.base :: m.scals, tget g.sPoison n false = false

theorem memStart_go (h : Starts s g c ctr m) : memStart m k s = k g c (activeMask g c m.ox) := by
  obtain ⟨⟨hat, hact, hcnt, hacq, hsor, hbatch⟩, hctr, hplain, hscal⟩ := h
  have hc : ¬ 63 ≤ cnt g m.ctr := by rw [hctr]; omega
  have hp : ((m.base :: m.scals).any fun n => tget g.sPoison n false) = false := by
    rw [List.any_eq_false]
    intro n hn
    simp [hscal n hn]
  rw [memStart, withIssuer_eq hat, memOperandCause_plain hplain]
  simp only [memLanes_of_batch hbatch, hact, hp, hacq, hsor, hc, decide_false, Bool.or_false, Bool.false_eq_true, if_false]

/-- The effective address of R120. -/
theorem effAddr_eq (g : Group) (sb : BitVec 5) (ofs : Nat) : effAddr g sb.toNat ofs = Claims.address g sb ofs := by
  simp [effAddr, Claims.address, bitsOf, Nat.shiftRight_eq_div_pow]

/-- A lane of a global access that nothing stops (R122). -/
theorem checkLane_global {l va : Nat} {leaf : Leaf} (hb : g.batch = none) (hsp : m.sp = false)
    (hs : ∀ f ∈ m.srcs, (fieldPoison g f).getLsbD l = false) (hva : effAddr g m.base (m.offset g l) = va)
    (hr : Claims.Reaches s g m.acc m.size va leaf) :
    checkLane s g m l = .ok (Claims.ref l va leaf (m.acc == .read) (m.data g l)) := by
  obtain ⟨hal, hx, hlost, hrun⟩ := hr
  have hp : (m.srcs.any fun f => (fieldPoison g f).getLsbD l) = false := by
    rw [List.any_eq_false]
    intro f hf
    simp [hs f hf]
  have hg : gaveUpCause g va = none := by rw [gaveUpCause, hb]
  have hl : (if leaf.dsc && m.acc == .read then none else
      (accWords (leaf.at va) m.size).findSome? fun w => lostCause s (some g.core) w m.acc (needMask (leaf.at va) m.size)) = none := by
    rcases hlost with ⟨hd, ha⟩ | hlost
    · simp [hd, ha]
    · split
      · rfl
      · exact List.findSome?_eq_none_iff.2 hlost
  have hn : ¬ (m.acc = .atom ∧ noRunLeft s g (va / m.size * m.size) (m.size == 8) = true) := by
    rintro ⟨ha, hn⟩
    by_cases hm : logMode s g.ctx = 2
    · simp [hrun ha hm] at hn
    · simp [noRunLeft, hm] at hn
  simp only [checkLane, hp, hva, hal, hsp, checkGlobal, hg, hx, hl, hn, ne_eq, not_true, if_false, Bool.false_eq_true]
  rfl

/-- A lane of a scratchpad access within its team's scratchpad (R120). -/
theorem checkLane_scratch {l va : Nat} {t : Team} (hsp : m.sp = true) (ht : teamOfGroup s g = some t)
    (hs : ∀ f ∈ m.srcs, (fieldPoison g f).getLsbD l = false) (hva : effAddr g m.base (m.offset g l) = va)
    (hal : va % m.size = 0) (hin : va + m.size ≤ t.size) :
    checkLane s g m l = .ok ⟨l, va, va, 0, .nrm, false, m.data g l⟩ := by
  have hp : (m.srcs.any fun f => (fieldPoison g f).getLsbD l) = false := by
    rw [List.any_eq_false]
    intro f hf
    simp [hs f hf]
  simp only [checkLane, hp, hva, hal, hsp, checkScratch, ht, hin, ne_eq, not_true, if_false, if_true, Bool.false_eq_true]

/-! ## Lanes that all pass -/

/-- Checks that some lanes have passed. -/
def passed (ls : List Nat) (r : Nat → LaneRef) : List (Nat × LaneChk) := ls.map fun l => (l, .ok (r l))

theorem missed_passed (ls : List Nat) (r : Nat → LaneRef) : missed (passed ls r) = [] := by
  simp [missed, passed, List.filterMap_map]

theorem okLanes_passed (ls : List Nat) (r : Nat → LaneRef) : okLanes (passed ls r) = ls.map r := by
  simp [okLanes, passed, List.filterMap_map]

theorem faultLanes_passed (m : MemForm) (act : Mask) (ls : List Nat) (r : Nat → LaneRef) :
    faultLanes m act (passed ls r) = [] := by
  simp [faultLanes, passed, List.flatMap_map]

theorem checkLanes_passed {act : Mask} {r : Nat → LaneRef} (hg : m.group = false) (h : ∀ l, On act l → checkLane s g m l = .ok (r l)) :
    checkLanes s g m act = passed (Claims.lanesOn act) r := by
  rw [checkLanes, hg]
  exact List.map_congr_left fun l hl => by rw [h l ((mem_lanesIn act l).1 hl)]

theorem checkLanes_group {act : Mask} {r : LaneRef} (hg : m.group = true) (h : checkLane s g m 128 = .ok r) :
    checkLanes s g m act = passed [128] fun _ => r := by
  rw [checkLanes, hg, if_pos rfl, h]
  rfl

theorem lanesOn_ne_nil {act : Mask} (h : act ≠ 0) : Claims.lanesOn act ≠ [] := by
  intro h0
  refine h ((maskOf_eq_mask (fun l => act.getLsbD l) act fun _ _ => rfl).symm.trans (maskOf_eq_zero _ fun l hl => ?_))
  cases hb : act.getLsbD l
  · rfl
  · exact absurd ((mem_lanesIn act l).2 ⟨hl, hb⟩) (by rw [show lanesIn act = [] from h0]; simp)

/-! ## The operation left outstanding (R15, R121) -/

theorem dropFails_nil (s : State) (ctx core : Nat) : dropFails s ctx core [] = s := by simp [dropFails]

/-- An operation of lanes that have all passed goes on, and the instruction retires. -/
theorem memFinish_passed {refs : List LaneRef} (hb : g.batch = none) (hr : refs ≠ []) :
    memFinish m s g c refs [] = .next (after (addOp s g c m refs).1 (addOp s g c m refs).2 c) := by
  have he : refs.isEmpty = false := by simpa using hr
  have hb' : { (addOp s g c m refs).2 with batch := none } = (addOp s g c m refs).2 := by simp [addOp, incCnt, hb]
  simp only [memFinish, List.map_nil, dropFails_nil, he, hb', List.any_nil, List.isEmpty_nil, Bool.false_eq_true, if_false, if_true]
  rfl

theorem memIssue_passed {ls : List Nat} {r : Nat → LaneRef} (h : Starts s g c ctr m)
    (hcs : checkLanes s g m (activeMask g c m.ox) = passed ls r) (hls : ls ≠ [])
    (ho : g.ops = [] ∨ ∀ l ∈ ls, (r l).mt ≠ .sor) :
    memIssue m s = .next (after (addOp s g c m (ls.map r)).1 (addOp s g c m (ls.map r)).2 c) := by
  have hsor : ((ls.map r).any (fun r => r.mt == .sor) && !g.ops.isEmpty) = false := by
    rcases ho with ho | ho
    · simp [ho]
    · have : (ls.map r).any (fun r => r.mt == .sor) = false := by
        rw [List.any_eq_false]
        intro x hx
        obtain ⟨l, hl, rfl⟩ := List.mem_map.1 hx
        simpa using ho l hl
      rw [this, Bool.false_and]
  rw [memIssue, memStart_go h]
  simp only [hcs, missed_passed, okLanes_passed, faultLanes_passed, hsor, List.isEmpty_nil, if_true, Bool.false_eq_true, if_false]
  exact memFinish_passed h.issues.served (by simpa using hls)

/-! ## Requests for lines (R320) -/

/-- A state after requests of one core for lines. -/
def Asked (core : Nat) (s t : State) : Prop :=
  ∃ asks, Claims.LineRequests core asks ∧ t = { s with msgs := s.msgs ++ asks, msgSeq := s.msgSeq + asks.length }

theorem Asked.refl (core : Nat) (s : State) : Asked core s s := ⟨[], by simp [Claims.LineRequests], by simp⟩

theorem Asked.send {core : Nat} {t : State} {m : Msg} (h : Asked core s t)
    (hm : m.kind = .rdq ∧ m.src = .core core ∧ m.vals = []) : Asked core s (send t m) := by
  obtain ⟨asks, ha, rfl⟩ := h
  refine ⟨asks ++ [{ m with serial := s.msgSeq + asks.length }], fun x hx => ?_, ?_⟩
  · rcases List.mem_append.1 hx with hx | hx
    · exact ha x hx
    · rw [List.mem_singleton.1 hx]
      exact hm
  · simp only [Machine.send, List.append_assoc, List.length_append, List.length_singleton, Nat.add_assoc]

theorem Asked.askLine {core : Nat} {t : State} (h : Asked core s t) (w : Nat) : Asked core s (askLine t core w) := by
  unfold Machine.askLine
  split
  · exact h
  · exact h.send ⟨rfl, rfl, rfl⟩

theorem Asked.foldl {α : Type} {core : Nat} {f : State → α → State} (hf : ∀ t x, Asked core s t → Asked core s (f t x))
    (xs : List α) {t : State} (h : Asked core s t) : Asked core s (xs.foldl f t) := by
  induction xs generalizing t with
  | nil => exact h
  | cons x xs ih => exact ih (hf t x h)

/-- Asking for the lines of an operation sends requests, and does nothing else. -/
theorem asked_askOp (s : State) (core size : Nat) (refs : List LaneRef) : Asked core s (askOp s core size refs) := by
  refine Asked.foldl (fun t r h => ?_) refs (.refl core s)
  split
  · exact h
  · refine Asked.foldl (fun t w h => ?_) _ h
    split
    · exact h
    · exact h.askLine w

/-- A load that asks for its lines. -/
theorem addOp_asks {refs : List LaneRef} (hctr : m.ctr = ctr.toNat)
    (hm : (addOp s g c m refs).1 = { askOp s g.core m.size refs with nextId := s.nextId + 1 }) :
    ∃ asks, Claims.LineRequests g.core asks ∧
      after (addOp s g c m refs).1 (addOp s g c m refs).2 c = Claims.issued s g c ctr m.kind m.dst m.sp refs asks := by
  obtain ⟨asks, ha, he⟩ := asked_askOp s g.core m.size refs
  refine ⟨asks, ha, ?_⟩
  have h2 : (addOp s g c m refs).2 = Claims.outstanding s g c ctr m.kind m.dst m.sp refs := by
    simp only [addOp, hctr]
    rfl
  rw [hm, he, h2]
  rfl

/-- An operation that asks for nothing. -/
theorem addOp_quiet {refs : List LaneRef} (hctr : m.ctr = ctr.toNat)
    (hm : (addOp s g c m refs).1 = { s with nextId := s.nextId + 1 }) :
    after (addOp s g c m refs).1 (addOp s g c m refs).2 c = Claims.issued s g c ctr m.kind m.dst m.sp refs [] := by
  have h2 : (addOp s g c m refs).2 = Claims.outstanding s g c ctr m.kind m.dst m.sp refs := by
    simp only [addOp, hctr]
    rfl
  rw [hm, h2, Claims.issued, List.append_nil]
  rfl

/-! ## Forms with an address in each lane (R127, R131) -/

/-- A form that takes its base, its counter and a lane's offset from the fields of an M word. -/
structure Laned (m : MemForm) (f : M) (ox : Option Ox) : Prop where
  ox : m.ox = ox
  ctr : m.ctr = f.ctr.toNat
  base : m.base = f.sb.toNat
  scals : m.scals = []
  offset : m.offset = fun g l => (readV g f.a l).toNat
  lanes : m.group = false

/-- The address of a lane of an M word. -/
def laneAddr (g : Group) (f : M) (l : Nat) : Nat := Claims.address g f.sb (readV g f.a l).toNat

section
variable {f : M} {ox : Option Ox} {srcs dsts : List (BitVec 7)} {leaf : Nat → Leaf}

theorem Laned.effAddr (h : Laned m f ox) (g : Group) (l : Nat) : effAddr g m.base (m.offset g l) = laneAddr g f l := by
  rw [h.base, h.offset]
  exact effAddr_eq _ _ _

theorem Laned.starts (h : Laned m f ox) (hi : Claims.Issues s g c f.ctr ox)
    (ho : Claims.Operands g (activeMask g c ox) srcs dsts [f.sb.toNat]) (hf : ∀ x ∈ m.srcs ++ m.dsts, x ∈ srcs ++ dsts) :
    Starts s g c f.ctr m where
  issues := h.ox ▸ hi
  counter := h.ctr
  plain := fun x hx => ho.plain x (hf x hx)
  scalars := by rw [h.base, h.scals]; exact ho.scalars

/-- The references of the active lanes of a global access. -/
def laneRefs (g : Group) (c : Clause) (f : M) (ox : Option Ox) (leaf : Nat → Leaf) (read : Bool) (data : Nat → List Word) :
    List LaneRef :=
  (Claims.lanesOn (activeMask g c ox)).map fun l => Claims.ref l (laneAddr g f l) (leaf l) read (data l)

theorem Laned.checks_global (h : Laned m f ox) (hsp : m.sp = false) (hi : Claims.Issues s g c f.ctr ox)
    (hs : ∀ x ∈ m.srcs, Sound g (activeMask g c ox) x)
    (hr : ∀ l, On (activeMask g c ox) l → Claims.Reaches s g m.acc m.size (laneAddr g f l) (leaf l)) :
    checkLanes s g m (activeMask g c m.ox) = passed (Claims.lanesOn (activeMask g c ox))
      fun l => Claims.ref l (laneAddr g f l) (leaf l) (m.acc == .read) (m.data g l) := by
  rw [h.ox]
  exact checkLanes_passed h.lanes fun l hl =>
    checkLane_global hi.served hsp (fun x hx => hs x hx l hl) (h.effAddr g l) (hr l hl)

/-- A global access of which every active lane passes. -/
theorem Laned.memIssue_global (h : Laned m f ox) (hsp : m.sp = false) (hi : Claims.Issues s g c f.ctr ox)
    (ho : Claims.Operands g (activeMask g c ox) srcs dsts [f.sb.toNat])
    (hf : ∀ x ∈ m.srcs ++ m.dsts, x ∈ srcs ++ dsts) (hfs : ∀ x ∈ m.srcs, x ∈ srcs)
    (hr : ∀ l, On (activeMask g c ox) l → Claims.Reaches s g m.acc m.size (laneAddr g f l) (leaf l))
    (hord : Claims.InOrder g (activeMask g c ox) leaf) :
    let refs := laneRefs g c f ox leaf (m.acc == .read) (m.data g)
    memIssue m s = .next (after (addOp s g c m refs).1 (addOp s g c m refs).2 c) :=
  memIssue_passed (h.starts hi ho hf) (h.checks_global hsp hi (fun x hx => ho.sound x (hfs x hx)) hr)
    (lanesOn_ne_nil hi.active) (hord.imp_right fun ho l hl => ho l ((mem_lanesIn _ l).1 hl))

/-- The references of the active lanes of a scratchpad access. -/
def padRefs (g : Group) (c : Clause) (f : M) (ox : Option Ox) (data : Nat → List Word) : List LaneRef :=
  (Claims.lanesOn (activeMask g c ox)).map fun l => ⟨l, laneAddr g f l, laneAddr g f l, 0, .nrm, false, data l⟩

/-- A scratchpad access of which every active lane passes. -/
theorem Laned.memIssue_scratch {t : Team} (h : Laned m f ox) (hsp : m.sp = true) (hi : Claims.Issues s g c f.ctr ox)
    (ho : Claims.Operands g (activeMask g c ox) srcs dsts [f.sb.toNat])
    (hf : ∀ x ∈ m.srcs ++ m.dsts, x ∈ srcs ++ dsts) (hfs : ∀ x ∈ m.srcs, x ∈ srcs) (ht : teamOfGroup s g = some t)
    (hr : ∀ l, On (activeMask g c ox) l → laneAddr g f l % m.size = 0 ∧ laneAddr g f l + m.size ≤ t.size) :
    let refs := padRefs g c f ox (m.data g)
    memIssue m s = .next (after (addOp s g c m refs).1 (addOp s g c m refs).2 c) := by
  refine memIssue_passed (h.starts hi ho hf) ?_ (lanesOn_ne_nil hi.active) (.inr fun _ _ h => by cases h)
  rw [h.ox]
  exact checkLanes_passed h.lanes fun l hl =>
    checkLane_scratch hsp ht (fun x hx => ho.sound x (hfs x hx) l hl) (h.effAddr g l) (hr l hl).1 (hr l hl).2

end

/-! ## Forms of the group (R128) -/

/-- A form that acts once for the group takes its base, its counter and its offset from the scalars of an MS word. -/
structure Grouped (m : MemForm) (f : MS) (ox : Option Ox) (scals : List Nat) : Prop where
  ox : m.ox = ox
  ctr : m.ctr = f.ctr.toNat
  base : m.base = f.sb.toNat
  scals : m.scals = scals
  offset : m.offset = fun g _ => (loWord (sReg g f.a.toNat)).toNat
  group : m.group = true
  fields : m.srcs = [] ∧ m.dsts = []

/-- The address of an MS word. -/
def groupAddr (g : Group) (f : MS) : Nat := Claims.address g f.sb ((sReg g f.a.toNat).toNat % 2 ^ 32)

theorem Grouped.memIssue {f : MS} {ox : Option Ox} {scals : List Nat} {leaf : Leaf} (h : Grouped m f ox scals)
    (hsp : m.sp = false) (hi : Claims.Issues s g c f.ctr ox)
    (ho : Claims.Operands g (activeMask g c ox) [] [] (f.sb.toNat :: scals))
    (hr : Claims.Reaches s g m.acc m.size (groupAddr g f) leaf) (hord : g.ops = [] ∨ leaf.mt ≠ .sor) :
    let refs := [Claims.ref 128 (groupAddr g f) leaf (m.acc == .read) (m.data g 128)]
    memIssue m s = .next (after (addOp s g c m refs).1 (addOp s g c m refs).2 c) := by
  obtain ⟨hsrcs, hdsts⟩ := h.fields
  have hva : effAddr g m.base (m.offset g 128) = groupAddr g f := by
    have hofs : (loWord (sReg g f.a.toNat)).toNat = (sReg g f.a.toNat).toNat % 2 ^ 32 := by
      rw [loWord_eq_truncate]
      exact BitVec.toNat_setWidth _ _
    rw [h.base, h.offset, effAddr_eq]
    exact congrArg _ hofs
  refine memIssue_passed (ls := [128]) ⟨h.ox ▸ hi, h.ctr, ?_, ?_⟩
    (checkLanes_group h.group (checkLane_global hi.served hsp (by rw [hsrcs]; simp) hva hr)) (by simp)
    (hord.imp_right fun ho l _ => ho)
  · rw [hsrcs, hdsts]
    simp
  · rw [h.base, h.scals]
    exact ho.scalars

end

/-! ## Loads (R127 to R129) -/

theorem ldgT_loads {f : M} {ox : Option Ox} (size : Nat) (s : State) (h : ∀ x, ox = some x → x.gp = 0) :
    ldgT f ox size s = memIssue (loadForm f ox size false false) s := by
  cases ox with
  | none => rfl
  | some x => exact if_pos (h x rfl)

/-- Each load of memory issues as its form; ldg.t does so where it has no guard to write. -/
theorem exec_loads : ∀ p ∈ Claims.loads ++ Claims.tLoads.map fun t => (t.1, t.2, false), ∀ (f : M) (ox : Option Ox) (s : State),
    (p.1 ∈ Claims.tLoads.map Prod.fst → ∀ x, ox = some x → x.gp = 0) →
    exec (p.1 f ox) s = memIssue (loadForm f ox p.2.1 p.2.2 false) s := by
  simp only [Claims.loads, Claims.tLoads, List.map_cons, List.map_nil, List.cons_append, List.nil_append, List.forall_mem_cons]
  exact ⟨fun _ _ _ _ => rfl, fun _ _ _ _ => rfl, fun _ _ _ _ => rfl, fun _ _ _ _ => rfl, fun _ _ _ _ => rfl,
    fun _ _ _ _ => rfl, fun _ _ _ _ => rfl, fun _ _ s h => ldgT_loads 4 s (h (by simp)),
    fun _ _ s h => ldgT_loads 8 s (h (by simp)), fun _ _ s h => ldgT_loads 16 s (h (by simp)), by simp⟩

theorem exec_padLoads : ∀ p ∈ Claims.padLoads, ∀ (f : M) (ox : Option Ox) (s : State),
    exec (p.1 f ox) s = memIssue (loadForm f ox p.2 false true) s := by
  simp only [Claims.padLoads, List.forall_mem_cons]
  exact ⟨fun _ _ _ => rfl, fun _ _ _ => rfl, fun _ _ _ => rfl, by simp⟩

theorem exec_groupLoads : ∀ p ∈ Claims.groupLoads, ∀ (f : MS) (ox : Option Ox) (s : State),
    exec (p.1 f ox) s = memIssue (lduForm f ox p.2) s := by
  simp only [Claims.groupLoads, List.forall_mem_cons]
  exact ⟨fun _ _ _ => rfl, fun _ _ _ => rfl, fun _ _ _ => rfl, fun _ _ _ => rfl, fun _ _ _ => rfl, by simp⟩

theorem laned_loadForm (f : M) (ox : Option Ox) (size : Nat) (signed sp : Bool) : Laned (loadForm f ox size signed sp) f ox :=
  ⟨rfl, rfl, rfl, rfl, rfl, rfl⟩

theorem loadsIssue : Claims.LoadsIssue := by
  refine ⟨?_, ?_, ?_⟩
  · intro p hp f ox s g c leaf hi hg act va ho hr hord
    rw [exec_loads p hp f ox s hg, (laned_loadForm f ox p.2.1 p.2.2 false).memIssue_global rfl hi ho (fun _ h => h) (fun _ h => h) hr hord]
    obtain ⟨asks, ha, he⟩ := addOp_asks (s := s) (g := g) (c := c) (m := loadForm f ox p.2.1 p.2.2 false)
      (refs := laneRefs g c f ox leaf true fun _ => []) rfl rfl
    exact ⟨asks, ha, congrArg _ he⟩
  · intro p hp f ox s g c t hi act va ho ht hr
    rw [exec_padLoads p hp, (laned_loadForm f ox p.2 false true).memIssue_scratch rfl hi ho (fun _ h => h) (fun _ h => h) ht hr]
    exact congrArg _ (addOp_quiet rfl rfl)
  · intro p hp f ox s g c leaf hi va ho hr hord
    have hform : Grouped (lduForm f ox p.2) f ox [f.a.toNat] := ⟨rfl, rfl, rfl, rfl, rfl, rfl, rfl, rfl⟩
    rw [exec_groupLoads p hp, hform.memIssue rfl hi ho hr hord]
    obtain ⟨asks, ha, he⟩ := addOp_asks (s := s) (g := g) (c := c) (m := lduForm f ox p.2)
      (refs := [Claims.ref 128 va leaf true []]) rfl rfl
    exact ⟨asks, ha, congrArg _ he⟩

/-! ## Stores (R127, R128) -/

theorem exec_stores : ∀ p ∈ Claims.stores, ∀ (f : M) (ox : Option Ox) (s : State),
    exec (p.1 f ox) s = memIssue (storeForm f ox p.2 false) s := by
  simp only [Claims.stores, List.forall_mem_cons]
  exact ⟨fun _ _ _ => rfl, fun _ _ _ => rfl, fun _ _ _ => rfl, fun _ _ _ => rfl, fun _ _ _ => rfl, by simp⟩

theorem exec_padStores : ∀ p ∈ Claims.padStores, ∀ (f : M) (ox : Option Ox) (s : State),
    exec (p.1 f ox) s = memIssue (storeForm f ox p.2 true) s := by
  simp only [Claims.padStores, List.forall_mem_cons]
  exact ⟨fun _ _ _ => rfl, fun _ _ _ => rfl, fun _ _ _ => rfl, by simp⟩

theorem exec_groupStores : ∀ p ∈ Claims.groupStores, ∀ (f : MS) (ox : Option Ox) (s : State),
    exec (p.1 f ox) s = memIssue (stuForm f ox p.2) s := by
  simp only [Claims.groupStores, List.forall_mem_cons]
  exact ⟨fun _ _ _ => rfl, fun _ _ _ => rfl, by simp⟩

theorem laned_storeForm (f : M) (ox : Option Ox) (size : Nat) (sp : Bool) : Laned (storeForm f ox size sp) f ox :=
  ⟨rfl, rfl, rfl, rfl, rfl, rfl⟩

theorem storesIssue : Claims.StoresIssue := by
  refine ⟨?_, ?_, ?_⟩
  · intro p hp f ox s g c leaf hi act va ho hr hord
    rw [exec_stores p hp, (laned_storeForm f ox p.2 false).memIssue_global rfl hi ho (fun _ h => h) (fun _ h => h) hr hord]
    exact congrArg _ (addOp_quiet rfl rfl)
  · intro p hp f ox s g c t hi act va ho ht hr
    rw [exec_padStores p hp, (laned_storeForm f ox p.2 true).memIssue_scratch rfl hi ho (fun _ h => h) (fun _ h => h) ht hr]
    exact congrArg _ (addOp_quiet rfl rfl)
  · intro p hp f ox s g c leaf hi va ho hr hord
    have hform : Grouped (stuForm f ox p.2) f ox [f.a.toNat, f.d.toNat] := ⟨rfl, rfl, rfl, rfl, rfl, rfl, rfl, rfl⟩
    rw [exec_groupStores p hp, hform.memIssue rfl hi ho hr hord]
    exact congrArg _ (addOp_quiet rfl rfl)

/-! ## Atomics and reductions (R131, R134) -/

/-- The words of 4 or 8 bytes. -/
theorem words_of_size {n : Nat} (h : n = 4 ∨ n = 8) : n / 4 = (n + 3) / 4 := by omega

theorem atoms_size : ∀ p ∈ Claims.atoms, p.2.2 = 4 ∨ p.2.2 = 8 := by simp [Claims.atoms]

theorem exec_atoms : ∀ p ∈ Claims.atoms, ∀ (f : M) (ox : Option Ox) (s : State),
    exec (p.1 f ox) s = memIssue (atomForm f ox p.2.1 p.2.2 []) s := by
  simp only [Claims.atoms, List.forall_mem_cons]
  exact ⟨fun _ _ _ => rfl, fun _ _ _ => rfl, fun _ _ _ => rfl, fun _ _ _ => rfl, fun _ _ _ => rfl, fun _ _ _ => rfl,
    fun _ _ _ => rfl, fun _ _ _ => rfl, fun _ _ _ => rfl, fun _ _ _ => rfl, fun _ _ _ => rfl, by simp⟩

theorem runFields_one (d : BitVec 7) : runFields d 1 = [d] := by simp [runFields]

theorem casAtoms_size : ∀ p ∈ Claims.casAtoms, p.2 = 4 ∨ p.2 = 8 := by simp [Claims.casAtoms]

theorem exec_casAtoms : ∀ p ∈ Claims.casAtoms, ∀ (f : M) (ox : Ox) (s : State),
    exec (p.1 f ox) s = memIssue (atomForm f (some ox) .cas p.2 (Claims.run ox.c p.2)) s := by
  have h4 : ∀ (f : M) (ox : Ox) (s : State),
      exec (.atomCasB32 f ox) s = memIssue (atomForm f (some ox) .cas 4 (Claims.run ox.c 4)) s := fun f ox s => by
    rw [show Claims.run ox.c 4 = [ox.c] from runFields_one _]
    rfl
  simp only [Claims.casAtoms, List.forall_mem_cons]
  exact ⟨h4, fun _ _ _ => rfl, by simp⟩

theorem reductions_size : ∀ p ∈ Claims.reductions, p.2.2 = p.2.1.size := by simp [Claims.reductions, RedForm.size]

theorem exec_reductions : ∀ p ∈ Claims.reductions, ∀ (f : M) (ox : Option Ox) (s : State),
    exec (p.1 f ox) s = redIssue f ox p.2.1 s := by
  simp only [Claims.reductions, List.forall_mem_cons]
  exact ⟨fun _ _ _ => rfl, fun _ _ _ => rfl, fun _ _ _ => rfl, fun _ _ _ => rfl, fun _ _ _ => rfl, fun _ _ _ => rfl, by simp⟩

theorem laned_atomForm (f : M) (ox : Option Ox) (fn : AtomFn) (size : Nat) (c : List (BitVec 7)) :
    Laned (atomForm f ox fn size c) f ox := ⟨rfl, rfl, rfl, rfl, rfl, rfl⟩

theorem laned_redForm (f : M) (ox : Option Ox) (form : RedForm) : Laned (redForm f ox form) f ox :=
  ⟨rfl, rfl, rfl, rfl, rfl, rfl⟩

/-- An atomic whose compare run is `cmp`. -/
theorem atomForm_issues {f : M} {ox : Option Ox} {fn : AtomFn} {n : Nat} {cmp : List (BitVec 7)} {s : State} {g : Group}
    {c : Clause} {leaf : Nat → Leaf} (hn : n = 4 ∨ n = 8) (hi : Claims.Issues s g c f.ctr ox)
    (ho : Claims.Operands g (activeMask g c ox) (f.a :: (Claims.run f.d n ++ cmp)) [] [f.sb.toNat])
    (hr : ∀ l, On (activeMask g c ox) l → Claims.Reaches s g .atom n (laneAddr g f l) (leaf l))
    (hord : Claims.InOrder g (activeMask g c ox) leaf) :
    memIssue (atomForm f ox fn n cmp) s = .next (Claims.issued s g c f.ctr (.atom fn n) f.d.toNat false
      (laneRefs g c f ox leaf false (Claims.valuesOf g (Claims.run f.d n ++ cmp))) []) := by
  have hrun : runFields f.d (n / 4) = Claims.run f.d n := by rw [words_of_size hn]; rfl
  have hsrcs : (atomForm f ox fn n cmp).srcs = f.a :: (Claims.run f.d n ++ cmp) := by rw [← hrun]; rfl
  have hdsts : (atomForm f ox fn n cmp).dsts = Claims.run f.d n := hrun
  have hdata : (atomForm f ox fn n cmp).data g = Claims.valuesOf g (Claims.run f.d n ++ cmp) := by
    funext l
    rw [Claims.valuesOf, List.map_append, ← hrun]
    rfl
  have hissue := (laned_atomForm f ox fn n cmp).memIssue_global rfl hi ho (fun x hx => ?_) (fun x hx => hsrcs ▸ hx) hr hord
  · rw [hissue, hdata]
    exact congrArg _ (addOp_quiet rfl rfl)
  · rw [hsrcs, hdsts] at hx
    simp only [List.mem_append, List.mem_cons] at hx ⊢
    tauto

theorem redAdd_eq (s : State) (g : Group) (form : RedForm) (refs : List LaneRef) (r : LaneRef) :
    ∃ reds, redAdd s g form refs r = { s with reds } := by
  unfold redAdd
  dsimp only
  split <;> exact ⟨_, rfl⟩

/-- A reduction's contributions change the partials alone. -/
theorem redAddAll_eq (s : State) (g : Group) (form : RedForm) (refs : List LaneRef) :
    redAddAll s g form refs = { s with reds := (redAddAll s g form refs).reds } := by
  have hfold : ∀ (rs : List LaneRef) (t : State), ∃ reds, rs.foldl (fun s r => redAdd s g form refs r) t = { t with reds } := by
    intro rs
    induction rs with
    | nil => exact fun t => ⟨_, rfl⟩
    | cons r rs ih =>
      intro t
      obtain ⟨reds, h⟩ := redAdd_eq t g form refs r
      obtain ⟨reds', h'⟩ := ih { t with reds }
      exact ⟨reds', by rw [List.foldl_cons, h, h']⟩
  obtain ⟨reds, h⟩ := hfold _ s
  rw [redAddAll, h]

theorem redForm_issues {f : M} {ox : Option Ox} {form : RedForm} {s : State} {g : Group} {c : Clause} {leaf : Nat → Leaf}
    (hi : Claims.Issues s g c f.ctr ox)
    (ho : Claims.Operands g (activeMask g c ox) (f.a :: Claims.run f.d form.size) [] [f.sb.toNat])
    (hr : ∀ l, On (activeMask g c ox) l → Claims.Reaches s g .atom form.size (laneAddr g f l) (leaf l))
    (hord : Claims.InOrder g (activeMask g c ox) leaf) :
    let refs := laneRefs g c f ox leaf false (Claims.valuesOf g (Claims.run f.d form.size))
    redRoom s g form refs = true → redIssue f ox form s = .next (Claims.issued
      { s with reds := (redAddAll s g form refs).reds } g c f.ctr .red 0xFF false refs []) := by
  intro refs hroom
  have hrun : runFields f.d (form.size / 4) = Claims.run f.d form.size := by cases form <;> rfl
  have hl := laned_redForm f ox form
  have hsrcs : (redForm f ox form).srcs = f.a :: Claims.run f.d form.size := by rw [← hrun]; rfl
  have hst : Starts s g c f.ctr (redForm f ox form) := hl.starts hi ho fun x hx => by
    rw [hsrcs] at hx
    exact hx
  have hcs := hl.checks_global rfl hi (fun x hx => ho.sound x (hsrcs ▸ hx)) hr
  have hok : okLanes (checkLanes s g (redForm f ox form) (activeMask g c (redForm f ox form).ox)) = refs := by
    rw [hcs, okLanes_passed]
    show laneRefs g c f ox leaf false ((redForm f ox form).data g) = _
    have hdata : (redForm f ox form).data g = Claims.valuesOf g (Claims.run f.d form.size) := by
      rw [← hrun]
      rfl
    rw [hdata]
  have hsor : (refs.any (fun r => r.mt == .sor) && !g.ops.isEmpty) = false := by
    rcases hord with ho | ho
    · simp [ho]
    · have : refs.any (fun r => r.mt == .sor) = false := by
        rw [List.any_eq_false]
        intro x hx
        obtain ⟨l, hl, rfl⟩ := List.mem_map.1 hx
        simpa [Claims.ref] using ho l ((mem_lanesIn _ l).1 hl)
      rw [this, Bool.false_and]
  have hne : refs ≠ [] := by simpa [refs, laneRefs] using lanesOn_ne_nil hi.active
  rw [redIssue, memStart_go hst]
  simp only [hok, hroom, hsor]
  rw [hcs]
  simp only [missed_passed, faultLanes_passed, List.isEmpty_nil, if_true, Bool.not_true, Bool.false_eq_true, if_false]
  rw [memFinish_passed hi.served hne, redAddAll_eq]
  exact congrArg _ (addOp_quiet rfl rfl)

theorem atomicsIssue : Claims.AtomicsIssue := by
  refine ⟨?_, ?_, ?_⟩
  · intro p hp f ox s g c leaf hi act va ho hr hord
    have ho : Claims.Operands g (activeMask g c ox) (f.a :: (Claims.run f.d p.2.2 ++ [])) [] [f.sb.toNat] := by
      rw [List.append_nil]
      exact ho
    rw [exec_atoms p hp, atomForm_issues (atoms_size p hp) hi ho hr hord, List.append_nil]
    rfl
  · intro p hp f ox s g c leaf hi act va ho hr hord
    rw [exec_casAtoms p hp, atomForm_issues (casAtoms_size p hp) hi ho hr hord]
    rfl
  · intro p hp f ox s g c leaf hi act va refs ho hr hord hroom
    have hn := reductions_size p hp
    rw [hn] at ho hr
    have hrefs : refs = laneRefs g c f ox leaf false (Claims.valuesOf g (Claims.run f.d p.2.1.size)) := by
      rw [← hn]
      rfl
    rw [hrefs] at hroom ⊢
    rw [exec_reductions p hp]
    exact redForm_issues hi ho hr hord hroom

/-- Settles O38: loads, stores, and atomics with reductions, each from the lanes that its check lets pass. -/
theorem memoryIssue : Obligations.MemoryIssue := ⟨loadsIssue, storesIssue, atomicsIssue⟩

end Sys2Proof.Machine
end

section
/-!
The launch unit (R250 to R265): placement windows, the place of a cluster, the end of a record that is rejected, and the
checks of a compute record.
-/

namespace Sys2Proof.Machine

open Sys2Proof.Safety

/-! ## Windows without work -/

/-- A fold whose every step leaves its start alone. -/
theorem foldl_eq_self {α β : Type} {f : α → β → α} {a : α} {l : List β} (h : ∀ b ∈ l, f a b = a) : l.foldl f a = a := by
  induction l with
  | nil => rfl
  | cons b l ih => rw [List.foldl_cons, h b List.mem_cons_self, ih fun x hx => h x (List.mem_cons_of_mem _ hx)]

theorem mem_of_tfind {α : Type} {t : Tbl α} {k : Nat} {v : α} (h : tfind t k = some v) : (k, v) ∈ t := by
  induction t with
  | nil => cases h
  | cons e t ih =>
    rw [tfind] at h
    split at h
    · cases h
      rename_i hk
      exact hk ▸ List.mem_cons_self
    · exact List.mem_cons_of_mem _ (ih h)

section
variable {s : State} {q : Nat} {g : Grid}

/-- No stall of a unit that has none ends. -/
theorem keepStalls_eq_self {kind : Nat} (live : Nat → Nat → Bool) (h : ∀ c ∈ s.ctxs, ∀ x ∈ c.2.stalls, x % 8 ≠ kind) :
    keepStalls s kind live = s := by
  refine foldl_eq_self fun c hc => if_neg ?_
  simp only [List.any_eq_true, Bool.and_eq_true, beq_iff_eq, not_exists, not_and]
  exact fun x hx hk => absurd hk (h c hc x hx)

/-- A context without stalls of the launch unit holds no head behind one (R344). -/
theorem behindStall_eq_false (h : Claims.Unstalled s) (ctx key : Nat) : behindStall s ctx (stallLaunch key) = false := by
  have hx : ∀ x ∈ (ctxOf s ctx).stalls, x % 8 ≠ 2 := by
    unfold ctxOf tget
    cases hf : tfind s.ctxs ctx with
    | none => simp [noCtx]
    | some c => exact h _ (mem_of_tfind hf)
  rw [behindStall, List.any_eq_false]
  intro x hm
  have := hx x hm
  have hk : stallLaunch key % 8 = 2 := by unfold stallLaunch; omega
  simp [hk, this]

/-- A queue that has no record for the launch unit gives it none (R250). -/
theorem takeRecord_eq_self (h : qCtx s q = none ∨ qWr s q = qRd s q ∨ qStp s q = true ∨ (headOf s q).isSome = true) :
    takeRecord s q = s := by
  unfold takeRecord
  split
  · rfl
  · rename_i ctx hc
    have : (qStp s q || qWr s q == qRd s q || (headOf s q).isSome || !launches s ctx) = true := by
      rcases h with h | h | h | h <;> simp_all
    rw [if_pos this]

theorem ageHead_of_none (h : headOf s q = none) : ageHead s q = s := by simp [ageHead, h]

/-- Ageing changes the grids alone. -/
theorem ageHead_eq (s : State) (q : Nat) : ∃ grids, ageHead s q = { s with grids } := by
  unfold ageHead
  split
  · exact ⟨_, rfl⟩
  · dsimp only
    split <;> exact ⟨_, rfl⟩

/-- A change of a grid that keeps its queue and whether it is placed makes no head. -/
theorem headOf_updGrid_none {key : Nat} {f : Grid → Grid} (hq : ∀ x, (f x).queue = x.queue) (hp : ∀ x, (f x).placed = x.placed)
    (h : headOf s q = none) : headOf (updGrid s key f) q = none := by
  rw [headOf, List.find?_eq_none] at h ⊢
  intro x hx
  obtain ⟨y, hy, rfl⟩ := List.mem_map.1 hx
  have := h y hy
  split
  · rwa [hq, hp]
  · exact this

/-- Ageing one queue's head makes no head of another queue. -/
theorem headOf_ageHead_none (p : Nat) (h : headOf s q = none) : headOf (ageHead s p) q = none := by
  unfold ageHead
  split
  · exact h
  · dsimp only
    split
    · exact headOf_updGrid_none (fun _ => rfl) (fun _ => rfl) h
    · exact h

/-- Of some queues one alone has a head: it alone ages. -/
theorem foldl_ageHead {l : List Nat} (hl : l.Nodup) (hq : q ∈ l) (h : ∀ p, p ≠ q → headOf s p = none) :
    l.foldl ageHead s = ageHead s q := by
  induction l with
  | nil => cases hq
  | cons p l ih =>
    obtain ⟨hp, hl⟩ := List.nodup_cons.1 hl
    rcases List.mem_cons.1 hq with rfl | hq
    · exact foldl_eq_self fun p' hp' => ageHead_of_none (headOf_ageHead_none q (h p' fun e => hp (e ▸ hp')))
    · have hne : p ≠ q := fun e => hp (e ▸ hq)
      rw [List.foldl_cons, ageHead_of_none (h p hne), ih hl hq]

/-- Queues without a head are passed over. -/
theorem placeFirst_none {l : List Nat} (h : ∀ p ∈ l, headOf s p = none) : placeFirst l s = s := by
  induction l with
  | nil => rfl
  | cons p l ih =>
    rw [placeFirst, h p List.mem_cons_self]
    exact ih fun x hx => h x (List.mem_cons_of_mem _ hx)

/-- The one compute head that there is is placed, where its context goes on and it fits. -/
theorem placeFirst_head {t : State} {l : List Nat} (hq : q ∈ l) (hn : ∀ p, p ≠ q → headOf s p = none) (hg : headOf s q = some g)
    (hk : g.isRay = false) (hl : launches s g.ctx = true) (hb : behindStall s g.ctx (stallLaunch g.key) = false)
    (hp : placeHead s g = .done t) : placeFirst l s = t := by
  induction l with
  | nil => cases hq
  | cons p l ih =>
    by_cases he : p = q
    · subst he
      simp only [placeFirst, hg, hl, hb, hk, hp, Bool.not_false, Bool.and_self, if_true, Bool.false_eq_true, if_false]
    · rw [placeFirst, hn p he]
      exact ih ((List.mem_cons.1 hq).resolve_left fun e => he e.symm)

theorem mem_serviceOrder (s : State) (h : q < 32) : q ∈ serviceOrder s := by
  rw [serviceOrder, List.mem_map]
  exact ⟨(qRank s q, q), List.mem_mergeSort.2 (List.mem_map.2 ⟨q, List.mem_range.2 h, rfl⟩), rfl⟩

/-- A placement window (R250) in which no queue has a record to take and no stall is over. -/
theorem exec_launchWindow (h : s.clock % 16 = 0) (hw : s.window ≤ s.clock / 16) {qs : List Nat} (hh : Claims.HeadsOnly s qs)
    (hu : Claims.Unstalled s) :
    let s0 := { s with window := s.clock / 16 + 1 }
    let s1 := (List.range 32).foldl ageHead s0
    exec .launchWindow s = .next (placeFirst (serviceOrder s1) s1) := by
  have htake : (List.range 32).foldl takeRecord { s with window := s.clock / 16 + 1 } = { s with window := s.clock / 16 + 1 } :=
    foldl_eq_self fun p _ => takeRecord_eq_self (hh.1 p)
  have hkeep := keepStalls_eq_self (s := { s with window := s.clock / 16 + 1 }) (kind := 2)
    (fun ctx code => s.grids.any fun g => g.ctx == ctx && code == stallLaunch g.key) hu
  show execLaunchWindow s = _
  rw [execLaunchWindow, if_neg (by omega)]
  dsimp only
  rw [hkeep, htake]

end

/-! ## Acquires with nothing to wait for (R304, R323) -/

/-- A state in which the caches' clean words and the answers on their way to them may be gone. -/
def Dropped (s t : State) : Prop := ∃ l1 rdc hostLines msgs l2Wait, t = { s with l1, rdc, hostLines, msgs, l2Wait }

theorem Dropped.refl (s : State) : Dropped s s := ⟨_, _, _, _, _, rfl⟩

theorem Dropped.trans {s t u : State} (h : Dropped s t) (h' : Dropped t u) : Dropped s u := by
  obtain ⟨_, _, _, _, _, rfl⟩ := h
  obtain ⟨l1, rdc, hostLines, msgs, l2Wait, rfl⟩ := h'
  exact ⟨l1, rdc, hostLines, msgs, l2Wait, rfl⟩

/-- Answers that are not kept are still on their way. -/
theorem handedOn_voidFills (s : State) (a b : Agent) (p : Nat → Bool) (q : Nat → Bool) :
    handedOn (voidFills s a p) b q = handedOn s b q := by
  simp only [handedOn, voidFills, List.any_map]
  congr 1
  funext m
  simp only [Function.comp_apply]
  split <;> rfl

section
variable {s : State} {core : Nat}

/-- An L1 without dirty words drops its clean ones. -/
theorem selfInvalidate_quiescent (h : Claims.dirtyWords s core (fun _ => true) = []) (ctx : Nat) :
    selfInvalidate s core ctx (fun _ => true) = voidFills (mapCopies s (.core core) fun t => t.filter fun e => !(e.2.st == .cln))
      (.core core) fun l => (lineWords l).any fun _ => true := by
  have hd : ∀ e ∈ tget s.l1 core [], (e.2.st == .drt) = false := by
    simpa [Claims.dirtyWords] using h
  unfold selfInvalidate
  dsimp only
  rw [foldl_eq_self]
  · simp
  · intro e he
    refine if_neg ?_
    have hm : e ∈ tget s.l1 core [] := by
      simp [l1Words, copiesOf, unitKey] at he
      exact he.1
    simp [hd e hm]

theorem dropped_acquireAt (h : Claims.dirtyWords s core (fun _ => true) = []) (ctx : Nat) :
    Dropped s (acquireAt s core ctx 5 fun _ => true) := by
  rw [acquireAt, if_neg (by decide), selfInvalidate_quiescent h]
  exact ⟨_, _, _, _, _, rfl⟩

/-- An acquire of a core leaves every core without dirty words that was without. -/
theorem dirtyWords_acquireAt (h : Claims.dirtyWords s core (fun _ => true) = []) (ctx : Nat) {c : Nat}
    (hc : Claims.dirtyWords s c (fun _ => true) = []) :
    Claims.dirtyWords (acquireAt s core ctx 5 fun _ => true) c (fun _ => true) = [] := by
  have hl1 : (acquireAt s core ctx 5 fun _ => true).l1 = tupd s.l1 core [] fun t => t.filter fun e => !(e.2.st == .cln) := by
    rw [acquireAt, if_neg (by decide), selfInvalidate_quiescent h]
    rfl
  rw [Claims.dirtyWords, hl1]
  by_cases he : c = core
  · subst he
    rw [tget_tupd_same, List.filter_filter]
    rw [Claims.dirtyWords] at hc
    simp only [List.filter_eq_nil_iff] at hc ⊢
    intro e hm
    simpa using fun h' => absurd h' (by simpa using hc e hm)
  · rw [tget_tupd_other _ _ _ _ _ he]
    exact hc

theorem handedOn_acquireAt (h : Claims.dirtyWords s core (fun _ => true) = []) (ctx : Nat) (who : Agent) (p : Nat → Bool) :
    handedOn (acquireAt s core ctx 5 fun _ => true) who p = handedOn s who p := by
  rw [acquireAt, if_neg (by decide), selfInvalidate_quiescent h, invalidateRdc, handedOn_voidFills]
  exact handedOn_voidFills (mapCopies s (.core core) fun t => t.filter fun e => !(e.2.st == .cln)) (.core core) who
    (fun l => (lineWords l).any fun _ => true) p

theorem quiescent_acquireAt (h : Claims.Quiescent s core) (ctx : Nat) {c : Nat} (hc : Claims.Quiescent s c) :
    Claims.Quiescent (acquireAt s core ctx 5 fun _ => true) c := by
  obtain ⟨hd, ho, hr⟩ := hc
  exact ⟨dirtyWords_acquireAt h.1 ctx hd, by rwa [handedOn_acquireAt h.1], by rwa [handedOn_acquireAt h.1]⟩

/-- Nothing about any word is on its way, so nothing about the words of a range is. -/
theorem handedOn_mono {who : Agent} (h : handedOn s who (fun _ => true) = false) (p : Nat → Bool) : handedOn s who p = false := by
  rw [handedOn, List.any_eq_false] at h ⊢
  intro m hm
  have := h m hm
  simp only [Bool.and_eq_true, Bool.or_eq_true, List.any_eq_true, not_and, not_or, not_exists] at this ⊢
  intro hk
  obtain ⟨h1, h2⟩ := this hk
  exact ⟨fun x hx => absurd trivial (h1 x hx), fun x hx => absurd trivial (h2 x hx)⟩

theorem acquired_quiescent (h : Claims.Quiescent s core) : acquired s core 5 (fun _ => true) = true := by
  obtain ⟨hd, ho, hr⟩ := h
  have hi : invalidated s core (fun _ => true) = true := by
    rw [invalidated, List.all_eq_true]
    intro e he
    have hd : ∀ e ∈ tget s.l1 core [], (e.2.st == .drt) = false := by
      simpa [Claims.dirtyWords] using hd
    simp [hd e he]
  simp [acquired, hi, ho, handedOn_mono hr]

/-- The acquires of quiescent cores end at once. -/
theorem acquireCores_quiescent {cores : List Nat} (h : ∀ c ∈ cores, Claims.Quiescent s c) (ctx : Nat) :
    ∃ t, acquireCores s ctx cores = (t, true) ∧ Dropped s t := by
  have hfold : ∀ (cs : List Nat) (t : State), (∀ c ∈ cs, Claims.Quiescent t c) →
      let u := cs.foldl (fun s c => acquireAt s c ctx 5 fun _ => true) t
      Dropped t u ∧ ∀ c, Claims.Quiescent t c → Claims.Quiescent u c := by
    intro cs
    induction cs with
    | nil => exact fun t _ => ⟨.refl t, fun _ hc => hc⟩
    | cons c cs ih =>
      intro t ht
      have hc := ht c List.mem_cons_self
      obtain ⟨hd, hq⟩ := ih _ fun x hx => quiescent_acquireAt hc ctx (ht x (List.mem_cons_of_mem _ hx))
      exact ⟨(dropped_acquireAt hc.1 ctx).trans hd, fun x hx => hq x (quiescent_acquireAt hc ctx hx)⟩
  obtain ⟨hd, hq⟩ := hfold cores s h
  refine ⟨_, Prod.ext rfl ?_, hd⟩
  exact List.all_eq_true.2 fun c hc => acquired_quiescent (hq c (h c hc))

end

/-! ## A cluster takes its place (R258 to R260) -/

theorem length_teamSlots (s : State) (core n : Nat) : (teamSlots s core n).length = n := by
  induction n with
  | zero => rfl
  | succ n ih => simp [teamSlots, ih]

section
variable (g : Grid) (id cls cluster now : Nat)

/-- The groups of one team of a cluster, placed in a window at clock `now`. -/
def teamGroups (p : TeamPlace × Nat) : List Group :=
  p.1.2.zipIdx.map fun x => computeGroup g id p.1.1 x.1 cluster p.2 x.2 cls (now / 16 * 16 + 16)

/-- A team of a cluster, under its key. -/
def newTeam (key : Nat) (p : TeamPlace × Nat) : Team :=
  ⟨p.1.1, g.ctx, id, cluster, p.2, key, recScr g.recw, [], [], p.1.2, p.1.2.length⟩

/-- What the teams of a cluster change as they take their places. -/
theorem foldl_placeTeam (ps : List (TeamPlace × Nat)) (s : State) : ∃ teams,
    ps.foldl (fun s p => placeTeam s g id cls cluster p.2 p.1) s =
      { s with
        nextTeam := s.nextTeam + ps.length, teams := s.teams ++ teams
        groups := s.groups ++ ps.flatMap (teamGroups g id cls cluster s.clock) } ∧
      ∀ p ∈ ps, ∃ key, newTeam g id cluster key p ∈ teams := by
  induction ps generalizing s with
  | nil => exact ⟨[], by simp, by simp⟩
  | cons p ps ih =>
    obtain ⟨teams, he, ht⟩ := ih (placeTeam s g id cls cluster p.2 p.1)
    refine ⟨newTeam g id cluster s.nextTeam p :: teams, ?_, fun x hx => ?_⟩
    · rw [List.foldl_cons, he]
      simp only [placeTeam, List.length_cons, List.flatMap_cons, List.append_assoc, Nat.add_assoc, Nat.add_comm 1]
      rfl
    · rcases List.mem_cons.1 hx with rfl | hx
      · exact ⟨_, List.mem_cons_self⟩
      · obtain ⟨key, hk⟩ := ht x hx
        exact ⟨key, List.mem_cons_of_mem _ hk⟩

end

section
variable {s : State} {g : Grid} {cores : List Nat} {id : Nat} {slots : Nat → List Nat}

/-- The places of a cluster's teams, each with its number. -/
def placesOf (cores : List Nat) (slots : Nat → List Nat) : List (TeamPlace × Nat) := (cores.map fun c => (c, slots c)).zipIdx

theorem mem_placesOf {k core : Nat} (slots : Nat → List Nat) (h : cores[k]? = some core) :
    ((core, slots core), k) ∈ placesOf cores slots := by
  rw [placesOf, List.mem_zipIdx_iff_getElem?]
  simp [h]

/-- Each team has as many groups as the record asks for. -/
theorem length_groups_placesOf {n cls cluster now : Nat} (h : ∀ c, (slots c).length = n) :
    ((placesOf cores slots).flatMap (teamGroups g id cls cluster now)).length = cores.length * n := by
  have hl : ∀ p ∈ placesOf cores slots, (teamGroups g id cls cluster now p).length = n := by
    intro p hp
    have := List.mem_zipIdx_iff_getElem?.1 hp
    obtain ⟨c, -, hc⟩ := List.mem_map.1 (List.mem_of_getElem? this)
    rw [teamGroups, List.length_map, List.length_zipIdx, ← hc, h]
  rw [List.length_flatMap, List.map_congr_left hl, List.map_const', List.sum_replicate, smul_eq_mul]
  simp [placesOf]

/-- What R8, R11, R69, R247 and R260 say of group `j` of a team `k` of a cluster that takes its place on a core. -/
def StartsAs (g : Grid) (id core k j : Nat) (h : Group) : Prop :=
  h.core = core ∧ h.ctx = g.ctx ∧ h.grid = id ∧ h.cluster = g.nextCluster ∧ h.team = k ∧
    h.index = j ∧ h.kind = .compute ∧ h.regAlloc = recRegs g.recw ∧ h.a.st = .running ∧ h.a.pc = recEntry g.recw ∧
    h.a.mask = BitVec.allOnes 128 ∧ h.a.rpc = none ∧ h.b.st = .empty ∧ h.v = [] ∧ h.p = [] ∧ h.cnt = [] ∧ h.fpctl = 0 ∧
    sReg h 0 = BitVec.ofNat 64 (bitsOf (g.recw.getD 1 0) 0 48) ∧ (∀ n, n ≠ 0 → sReg h n = 0) ∧
    ∀ l, l < 128 → lane h.srseed l = mix32 (BitVec.ofNat 32 id) (BitVec.ofNat 32 (((g.nextCluster * 12 + k) * 16 + j) * 128 + l))

theorem startsAs_computeGroup (g : Grid) (id core slot k j cls eligible : Nat) :
    StartsAs g id core k j (computeGroup g id core slot g.nextCluster k j cls eligible) := by
  refine ⟨rfl, rfl, rfl, rfl, rfl, rfl, rfl, rfl, rfl, rfl, rfl, rfl, rfl, rfl, rfl, rfl, rfl, rfl, fun n hn => ?_, fun l hl => ?_⟩
  · have : ¬ 0 = n := fun e => hn e.symm
    simp [sReg, computeGroup, tget, tfind, this]
  · exact (lane_perLane _ l).trans (if_pos hl)

/-- Every group of a placed team starts as it should. -/
theorem exists_startsAs {n cls now k core j : Nat} (h : ∀ c, (slots c).length = n) (hk : cores[k]? = some core) (hj : j < n) :
    ∃ x ∈ (placesOf cores slots).flatMap (teamGroups g id cls g.nextCluster now), StartsAs g id core k j x := by
  have hlen : j < (slots core).length := by rwa [h]
  refine ⟨_, List.mem_flatMap.2 ⟨_, mem_placesOf slots hk, List.mem_map.2 ⟨((slots core)[j], j), ?_, rfl⟩⟩,
    startsAs_computeGroup g id core _ k j cls _⟩
  exact List.mem_zipIdx_iff_getElem?.2 (List.getElem?_eq_getElem hlen)

/-- What a cluster that takes its place changes, but for the ranks of the queues. -/
theorem placeCluster_eq (s : State) (g : Grid) (id : Nat) (cores : List Nat) (slots : Nat → List Nat) : ∃ cls nextTeam teams served grids,
    placeCluster s g id (cores.map fun c => (c, slots c)) = { s with
      nextTeam, served, grids, teams := s.teams ++ teams
      groups := s.groups ++ (placesOf cores slots).flatMap (teamGroups g id cls g.nextCluster s.clock) } ∧
    (∀ p ∈ placesOf cores slots, ∃ key, newTeam g id g.nextCluster key p ∈ teams) ∧
    (g ∈ s.grids → ∃ x ∈ grids, x.key = g.key ∧ x.id = some id ∧ x.nextCluster = g.nextCluster + 1) := by
  obtain ⟨teams, he, ht⟩ := foldl_placeTeam g id (if g.nextCluster = 0 ∧ qPromoted s g.queue then 0 else g.cls) g.nextCluster
    (placesOf cores slots) s
  have hp : (cores.map fun c => (c, slots c)).zipIdx = placesOf cores slots := rfl
  refine ⟨if g.nextCluster = 0 ∧ qPromoted s g.queue then 0 else g.cls, s.nextTeam + (placesOf cores slots).length, teams,
    tput s.served (qEffClass s g.queue) g.queue, (placeCluster s g id (cores.map fun c => (c, slots c))).grids, ?_, ht, fun hg => ?_⟩
  · simp only [placeCluster, hp, he]
    rfl
  · simp only [placeCluster, hp, he, updGrid]
    exact ⟨_, List.mem_map.2 ⟨g, hg, if_pos (beq_self_eq_true _)⟩, rfl, rfl, rfl⟩

end

/-- A grid takes its own GRIDID, or the next of its context. -/
theorem takeGridId_eq (s : State) (g : Grid) : ∃ ctxs,
    takeGridId s g = (g.id.getD ((ctxOf s g.ctx).nextGrid % 2 ^ 32), { s with ctxs }) := by
  unfold takeGridId
  cases g.id with
  | none => exact ⟨_, rfl⟩
  | some id => exact ⟨_, rfl⟩

/-- A compute head that fits on quiescent cores is placed (R304). -/
theorem placeHead_done {s : State} {g : Grid} {cores : List Nat} (hm : logMode s g.ctx = 0) (hf : findPlace s g = some cores)
    (hq : ∀ c ∈ cores, Claims.Quiescent s c) : ∃ t ctxs, Dropped s t ∧ placeHead s g = .done (placeCluster { t with ctxs } g
      (g.id.getD ((ctxOf s g.ctx).nextGrid % 2 ^ 32)) (cores.map fun c => (c, teamSlots s c (recNg g.recw)))) := by
  obtain ⟨t, ht, hd⟩ := acquireCores_quiescent hq g.ctx
  obtain ⟨ctxs, hid⟩ := takeGridId_eq t g
  refine ⟨t, ctxs, hd, ?_⟩
  obtain ⟨_, _, _, _, _, rfl⟩ := hd
  simp only [placeHead, hm, hf, ht, hid]
  rfl

/-- The state of a placement window. -/
def atWindow (s : State) (n : Nat) : State := { s with window := n }

theorem ageHead_atWindow (s : State) (n q : Nat) : ageHead (atWindow s n) q = atWindow (ageHead s q) n := by
  have hh : headOf (atWindow s n) q = headOf s q := rfl
  have hw : qWord (atWindow s n) q 0x24 = qWord s q 0x24 := rfl
  have hc : (atWindow s n).clock = s.clock := rfl
  simp only [ageHead, hh, hw, hc]
  cases headOf s q with
  | none => rfl
  | some g =>
    dsimp only
    split <;> rfl

/-- The slots of a team depend on the groups alone. -/
theorem teamSlots_congr {s t : State} (h : s.groups = t.groups) (core n : Nat) : teamSlots s core n = teamSlots t core n := by
  have hg : coreGroups s core = coreGroups t core := by simp [coreGroups, h]
  have hn : ∀ l, nextSlot s core l = nextSlot t core l := fun l => by rw [nextSlot, nextSlot, hg]
  induction n with
  | zero => rfl
  | succ n ih => rw [teamSlots, teamSlots, ih, hn]

/-- A window with one head, which fits: its next cluster takes its place, and nothing else changes but the caches' clean
words. -/
theorem launchWindow_places {s : State} {q : Nat} {g : Grid} {cores : List Nat} (h : s.clock % 16 = 0) (hw : s.window ≤ s.clock / 16)
    (hq : q < 32) (hh : Claims.HeadsOnly s [q]) (hu : Claims.Unstalled s) (hg : headOf (ageHead s q) q = some g)
    (hk : recKind g.recw = 0) (hl : launches s g.ctx = true) (hm : logMode s g.ctx = 0)
    (hf : findPlace (ageHead s q) g = some cores) (hc : ∀ c ∈ cores, Claims.Quiescent s c) :
    ∃ grids ctxs t, Dropped { s with window := s.clock / 16 + 1, grids } t ∧ g ∈ grids ∧
      exec .launchWindow s = .next (placeCluster { t with ctxs } g (g.id.getD ((ctxOf s g.ctx).nextGrid % 2 ^ 32))
        (cores.map fun c => (c, teamSlots (ageHead s q) c (recNg g.recw)))) := by
  have hnone : ∀ p, p ≠ q → headOf s p = none := fun p hp => hh.2 p (by simpa using hp)
  have hnone' : ∀ p, p ≠ q → headOf (atWindow s (s.clock / 16 + 1)) p = none := hnone
  have hage := foldl_ageHead List.nodup_range (List.mem_range.2 hq) hnone'
  rw [ageHead_atWindow] at hage
  have hnone'' : ∀ p, p ≠ q → headOf (atWindow (ageHead s q) (s.clock / 16 + 1)) p = none := fun p hp =>
    headOf_ageHead_none q (hnone p hp)
  obtain ⟨grids, hgr⟩ := ageHead_eq s q
  have hmem : g ∈ grids := by
    have := List.mem_of_find?_eq_some hg
    rwa [hgr] at this
  rw [hgr] at hage hnone'' hg hf ⊢
  obtain ⟨t, ctxs, hd, hp⟩ := placeHead_done (s := { s with window := s.clock / 16 + 1, grids }) hm hf hc
  have hfirst := placeFirst_head (mem_serviceOrder (atWindow { s with grids } (s.clock / 16 + 1)) hq) hnone'' hg (by simp [Grid.isRay, hk]) hl (behindStall_eq_false hu _ _) hp
  refine ⟨grids, ctxs, t, hd, hmem, (exec_launchWindow h hw hh hu).trans ?_⟩
  have hslots : ∀ c, teamSlots { s with window := s.clock / 16 + 1, grids } c (recNg g.recw) =
      teamSlots { s with grids } c (recNg g.recw) := fun c => teamSlots_congr (by rfl) c _
  simp only [hslots] at hfirst
  exact congrArg _ ((congrArg (fun x => placeFirst (serviceOrder x) x) hage).trans hfirst)

/-! ## Records that are rejected (R256, R257) -/

theorem barWord_putBar (s : State) (off n : Nat) (v : Word) :
    barWord (putBar s off v) n = if n / 4 = off / 4 then v else barWord s n := tget_tput _ _ _ _ _

theorem barWord_endLaunch (s : State) (id : Option Nat) (cls off : Nat) : barWord (endLaunch s id cls) off = barWord s off := by
  cases id <;> rfl

/-- The end of a record for which no completion can be written, up to the queue's own registers. -/
theorem rejectRecord_eq {s : State} {q ctx : Nat} (tag code : Nat) (gir : Bool) (cmd : Option EngCmd)
    (h : complSlot s q ctx = none) : ∃ t, (∀ off, off / 4 ≠ (queueBase q + 0x1C) / 4 → barWord t off = barWord s off) ∧
      rejectRecord s q ctx tag code gir cmd =
        if qRej s q then advanceRd t q else putBar t (queueBase q + 0x20) (barWord s (queueBase q + 0x20) ||| 0x1000) := by
  have hover : writeCompl s q ctx tag 0xFFFFFFFF 0 1 code 0 0 0 = overflowRec s q := by rw [writeCompl, h]
  have hbar : ∀ off, off / 4 ≠ (queueBase q + 0x1C) / 4 →
      barWord (endLaunch (if gir then queueIrq (overflowRec s q) q else overflowRec s q) (cmd.map fun c => c.id) 0x20) off = barWord s off := by
    intro off ho
    have hq : barWord (overflowRec s q) off = barWord s off := by rw [overflowRec, barWord_putBar, if_neg ho]
    rw [barWord_endLaunch]
    split
    · exact hq
    · exact hq
  have hflags := hbar (queueBase q + 0x20) (by omega)
  refine ⟨_, hbar, ?_⟩
  have hrej : qRej (endLaunch (if gir then queueIrq (overflowRec s q) q else overflowRec s q) (cmd.map fun c => c.id) 0x20) q =
      qRej s q := by rw [qRej, hflags, qRej]
  simp only [rejectRecord, hover, hrej, hflags]

theorem qRd_rejectRecord {s : State} {q ctx : Nat} (tag code : Nat) (gir : Bool) (cmd : Option EngCmd)
    (h : complSlot s q ctx = none) : qRd (rejectRecord s q ctx tag code gir cmd) q = if qRej s q then (qRd s q + 1) % 2 ^ 32 else qRd s q := by
  obtain ⟨t, hbar, he⟩ := rejectRecord_eq tag code gir cmd h
  have hrd := hbar (queueBase q + 0x08) (by omega)
  rw [he]
  split
  · simp [qRd, qWord, advanceRd, barWord_putBar, hrd]
  · have : ¬ (queueBase q + 0x08) / 4 = (queueBase q + 0x20) / 4 := by omega
    simp only [qRd, qWord, barWord_putBar, this, if_false, hrd]

theorem qStp_rejectRecord {s : State} {q ctx : Nat} (tag code : Nat) (gir : Bool) (cmd : Option EngCmd)
    (h : complSlot s q ctx = none) : qStp (rejectRecord s q ctx tag code gir cmd) q = (!qRej s q || qStp s q) := by
  obtain ⟨t, hbar, he⟩ := rejectRecord_eq tag code gir cmd h
  have hflags := hbar (queueBase q + 0x20) (by omega)
  rw [he]
  split
  · rename_i hr
    have : ¬ (queueBase q + 0x20) / 4 = (queueBase q + 0x08) / 4 := by omega
    simp only [qStp, advanceRd, barWord_putBar, this, if_false, hflags, hr, Bool.not_true, Bool.false_or]
  · rename_i hr
    simp [qStp, barWord_putBar, hr]

/-! ## The checks of a compute record (R256) -/

/-- An allocation within its bounds. -/
theorem allocIn_iff (lo n : Nat) : allocIn lo n = true ↔ n % 4 = 0 ∧ lo ≤ n ∧ n ≤ 124 := by
  simp [allocIn, and_assoc]

theorem checkRecord_entry {s : State} {ctx q : Nat} {r : List DWord} (hr : recReserved r = false) (hk : recKind r = 0) :
    checkRecord s ctx q r = if recEntry r = 0 ∨ recEntry r % 256 ≠ 0 then 2 else checkCompute r (qHmask s q) := by
  have hb : (badAddr (recEntry r) 256 = true) = (recEntry r = 0 ∨ recEntry r % 256 ≠ 0) := by simp [badAddr]
  simp only [checkRecord, hr, hk, if_true, Bool.false_eq_true, if_false, hb]

/-- A compute record that passes has its sizes within the bounds of R256. -/
theorem bounds_of_checkCompute {r : List DWord} {hmask : Nat} (h : checkCompute r hmask = 0) :
    1 ≤ recNcl r ∧ 1 ≤ recCw r ∧ recCw r ≤ 3 ∧ 1 ≤ recCh r ∧ recCh r ≤ 4 ∧ 1 ≤ recNg r ∧ recNg r ≤ 16 ∧
      recRegs r % 4 = 0 ∧ 8 ≤ recRegs r ∧ recRegs r ≤ 124 ∧ recScr r ≤ 655360 ∧ recScr r % 8 = 0 := by
  unfold checkCompute at h
  split at h
  · cases h
  split at h
  · cases h
  split at h
  · cases h
  split at h
  · cases h
  split at h
  · cases h
  rename_i hncl hdim hng hregs hscr
  obtain ⟨h4, hlo, hhi⟩ := (allocIn_iff 8 (recRegs r)).1 (by simpa using hregs)
  omega

/-- Settles O18 (`launches` is the model's own name for a context whose launches go on). -/
theorem launchesHold : Obligations.Launches := by
  refine ⟨fun s h => ?_, fun s h hw hh hu => ?_, ?_, fun s q ctx tag code gir cmd h => ?_, fun s ctx q r hr hk => ?_⟩
  · show execLaunchWindow s = _
    rw [execLaunchWindow, if_pos h]
  · have hnone : ∀ p, headOf s p = none := fun p => hh.2 p (by simp)
    have hage : (List.range 32).foldl ageHead { s with window := s.clock / 16 + 1 } = { s with window := s.clock / 16 + 1 } :=
      foldl_eq_self fun p _ => ageHead_of_none (hnone p)
    rw [exec_launchWindow h hw hh hu, hage]
    exact congrArg _ (placeFirst_none (s := atWindow s (s.clock / 16 + 1)) fun p _ => hnone p)
  · intro s q g cores h hw hq hh hu hg hk hl hm hf hc id
    obtain ⟨grids, ctxs, t, hd, hmem, he⟩ := launchWindow_places h hw hq hh hu hg hk hl hm hf hc
    obtain ⟨l1, rdc, hostLines, msgs, l2Wait, rfl⟩ := hd
    obtain ⟨cls, nextTeam, teams, served, grids', hp, hteams, hgrid⟩ := placeCluster_eq
      { s with window := s.clock / 16 + 1, grids, l1, rdc, hostLines, msgs, l2Wait, ctxs } g id cores
      fun c => teamSlots (ageHead s q) c (recNg g.recw)
    have hlen := fun c => length_teamSlots (ageHead s q) c (recNg g.recw)
    refine ⟨_, he.trans (congrArg _ hp), rfl, rfl, fun h hm => List.mem_append_left _ hm, ?_, fun k core hk => ⟨?_, fun j hj => ?_⟩,
      hgrid hmem⟩
    · exact List.length_append.trans (congrArg _ (length_groups_placesOf hlen))
    · obtain ⟨key, hkey⟩ := hteams _ (mem_placesOf _ hk)
      exact ⟨_, List.mem_append_right _ hkey, rfl, rfl, rfl, rfl, rfl, rfl, rfl, hlen core⟩
    · obtain ⟨x, hx, hs⟩ := exists_startsAs (g := g) (id := id) (cls := cls) (now := s.clock) hlen hk hj
      exact ⟨x, List.mem_append_right _ hx, hs⟩
  · rw [qRd_rejectRecord tag code gir cmd h, qStp_rejectRecord tag code gir cmd h]
    exact ⟨fun hr => by simp [hr], fun hr => by simp [hr]⟩
  · rw [checkRecord_entry hr hk]
    refine ⟨fun he => if_pos he, fun h0 h256 => ?_⟩
    rw [if_neg (by omega)]
    exact ⟨fun hn => if_pos hn, bounds_of_checkCompute⟩

end Sys2Proof.Machine
end

section
/-!
What the movement of words leaves of a device: the traffic of copies, write-backs and writes at homes touches neither work nor
settings, keeps memory canonical and the lines of the host whole, and takes no message away, so that a release under way stays
under way.
-/

namespace Sys2Proof.Machine

/-- The state apart from where words and translations are, and from the reports of the coalescers. -/
def work (s : State) : State :=
  { s with
    mem := [], memPoison := [], homes := [], l2 := [], l2Wait := [], l2Evict := [], stamps := [], l1 := [], holding := []
    rdc := [], hostLines := [], msgs := [], msgSeq := 0, bias := [], biasWait := [], storers := [], placers := [], events := []
    coreTlb := [], hamletTlb := [], devTlb := [], aheadTlb := [], walkQ := [], walkFails := [] }

/-- A message about nothing that the host is home of. -/
def Foreign (m : Msg) : Prop := homeOf m.addr ≠ 2 ∧ ∀ w, m.names w = true → homeOf w ≠ 2

/-- A message whose host-homed words lie in the line that it is about. -/
def InLine (m : Msg) : Prop := ∀ w, m.names w = true → homeOf w = 2 → lineBase w = m.addr

/-- A property of messages that looks at what they are about alone, and that foreign ones have. -/
structure About (P : Msg → Prop) : Prop where
  foreign : ∀ m, Foreign m → P m
  same : ∀ m n, n.addr = m.addr → n.words = m.words → n.vals = m.vals → P m → P n

theorem names_congr {m n : Msg} (hw : n.words = m.words) (hv : n.vals = m.vals) (w : Nat) : n.names w = m.names w := by
  simp only [Msg.names, hw, hv]

theorem about_foreign : About Foreign where
  foreign _ h := h
  same m n ha hw hv h := by
    simp only [Foreign, ha, names_congr hw hv]
    exact h

theorem about_inLine : About InLine where
  foreign _ h := fun w hn hw => absurd hw (h.2 w hn)
  same m n ha hw hv h := by
    simp only [InLine, ha, names_congr hw hv]
    exact h

/-- A write-back that a release of the RDC, or its giving up a line, has sent (R303). -/
def OfRelease (s : State) (m : Msg) : Prop := m.src = .rdc ∧ m.form = 1 ∧ m.serial < s.msgSeq

/-- The words of a device are in order: lines of the host are whole, memory is canonical, and a write-back on its way to the
host has a property or belongs to a release. -/
structure WordsOk (P : Msg → Prop) (s : State) : Prop where
  lines : ∀ e ∈ s.hostLines, e.2.vals.length = 32
  memory : Memory.wf s.mem = true
  backs : ∀ m ∈ s.msgs, m.kind = .wb → m.dst = .host → P m ∨ OfRelease s m

/-- A change that keeps the words in order and takes no message away. -/
structure Sends (P : Msg → Prop) (s t : State) : Prop where
  ok : WordsOk P s → WordsOk P t
  seq : s.msgSeq ≤ t.msgSeq
  out : ∀ k, rdcOut s k = true → rdcOut t k = true

/-- A change of where words and translations are alone. -/
structure Shifts (P : Msg → Prop) (s t : State) : Prop extends Sends P s t where
  work : work t = work s

section
variable {P : Msg → Prop} {s t u : State}

theorem Sends.refl (s : State) : Sends P s s := ⟨id, Nat.le_refl _, fun _ h => h⟩

theorem Sends.trans (h : Sends P s t) (h' : Sends P t u) : Sends P s u :=
  ⟨fun x => h'.ok (h.ok x), Nat.le_trans h.seq h'.seq, fun k x => h'.out k (h.out k x)⟩

theorem Shifts.refl (s : State) : Shifts P s s := ⟨Sends.refl s, rfl⟩

theorem Shifts.trans (h : Shifts P s t) (h' : Shifts P t u) : Shifts P s u :=
  ⟨h.toSends.trans h'.toSends, h'.work.trans h.work⟩

theorem Shifts.foldl_from {α : Type} {f : State → α → State} {l : List α} (h : ∀ a ∈ l, ∀ t, Shifts P s t → Shifts P s (f t a))
    (h0 : Shifts P s t) : Shifts P s (l.foldl f t) := by
  induction l generalizing t with
  | nil => exact h0
  | cons a l ih => exact ih (fun b hb => h b (List.mem_cons_of_mem a hb)) (h a List.mem_cons_self t h0)

theorem Shifts.foldl {α : Type} {f : State → α → State} {l : List α} (h : ∀ a ∈ l, ∀ t, Shifts P t (f t a)) (s : State) :
    Shifts P s (l.foldl f s) :=
  Shifts.foldl_from (fun a ha t ht => ht.trans (h a ha t)) (Shifts.refl s)

theorem Shifts.foldr {α : Type} {f : α → State → State} {l : List α} (h : ∀ a ∈ l, ∀ t, Shifts P t (f a t)) (s : State) :
    Shifts P s (l.foldr f s) := by
  induction l with
  | nil => exact Shifts.refl s
  | cons a l ih => exact (ih fun b hb => h b (List.mem_cons_of_mem a hb)).trans (h a List.mem_cons_self _)

/-- A change that leaves messages, memory and the host's lines alone. -/
theorem Sends.of_eq (hl : t.hostLines = s.hostLines) (hm : t.mem = s.mem) (hs : t.msgs = s.msgs) (hq : t.msgSeq = s.msgSeq) :
    Sends P s t where
  ok h := ⟨hl ▸ h.lines, hm ▸ h.memory, fun m hm' hk hd => by
    rw [OfRelease, hq]
    exact h.backs m (hs ▸ hm') hk hd⟩
  seq := hq ▸ Nat.le_refl _
  out k h := by simpa only [rdcOut, regsOut, atqOut, hs] using h

/-- Moving words about, with messages, memory and the host's lines as they were. -/
theorem Shifts.of_eq (hl : t.hostLines = s.hostLines) (hm : t.mem = s.mem) (hs : t.msgs = s.msgs) (hq : t.msgSeq = s.msgSeq)
    (hw : Machine.work t = Machine.work s) : Shifts P s t :=
  ⟨Sends.of_eq hl hm hs hq, hw⟩

/-- Two messages are the same but for the mark on a fill that is no longer kept. -/
structure SameButVoid (m n : Msg) : Prop where
  kind : n.kind = m.kind
  src : n.src = m.src
  dst : n.dst = m.dst
  addr : n.addr = m.addr
  tag : n.tag = m.tag
  form : n.form = m.form
  words : n.words = m.words
  vals : n.vals = m.vals
  serial : n.serial = m.serial

theorem sameButVoid_mark (m : Msg) (p : Bool) : SameButVoid m (if p then { m with void := true } else m) := by
  cases p <;> exact ⟨rfl, rfl, rfl, rfl, rfl, rfl, rfl, rfl, rfl⟩

/-- Marks on fills change nothing that a release looks at. -/
theorem Sends.of_marks {mark : Msg → Msg} (hmark : ∀ m, SameButVoid m (mark m)) (hP : About P) (hl : t.hostLines = s.hostLines)
    (hm : t.mem = s.mem) (hs : t.msgs = s.msgs.map mark) (hq : t.msgSeq = s.msgSeq) : Sends P s t where
  ok h := by
    refine ⟨hl ▸ h.lines, hm ▸ h.memory, fun m hm' hk hd => ?_⟩
    rw [hs, List.mem_map] at hm'
    obtain ⟨n, hn, rfl⟩ := hm'
    rw [(hmark n).kind] at hk
    rw [(hmark n).dst] at hd
    rw [OfRelease, (hmark n).src, (hmark n).form, (hmark n).serial, hq]
    exact (h.backs n hn hk hd).imp_left (hP.same n _ (hmark n).addr (hmark n).words (hmark n).vals)
  seq := hq ▸ Nat.le_refl _
  out k h := by
    simpa only [rdcOut, regsOut, atqOut, hs, List.any_map, Function.comp_def, (hmark _).src, (hmark _).dst, (hmark _).kind,
      (hmark _).form, (hmark _).serial, (hmark _).tag, (hmark _).vals, (hmark _).addr] using h

/-- A message may be sent that is no write-back to the host, or is one with the property, or one of a release. -/
theorem Shifts.send (m : Msg) (hP : About P) (h : m.kind = .wb → m.dst = .host → P m ∨ (m.src = .rdc ∧ m.form = 1)) :
    Shifts P s (send s m) where
  ok hs := by
    refine ⟨hs.lines, hs.memory, fun n hn hk hd => ?_⟩
    simp only [send_msgs, List.mem_append, List.mem_singleton] at hn
    rcases hn with hn | rfl
    · refine (hs.backs n hn hk hd).imp_right ?_
      rintro ⟨h1, h2, h3⟩
      exact ⟨h1, h2, Nat.lt_succ_of_lt h3⟩
    · refine (h hk hd).imp (hP.same m _ rfl rfl rfl) ?_
      rintro ⟨h1, h2⟩
      exact ⟨h1, h2, Nat.lt_succ_self _⟩
  seq := Nat.le_succ _
  out k hk := by
    simp only [rdcOut, regsOut, atqOut, send_msgs, List.any_append, Bool.or_eq_true] at hk ⊢
    tauto
  work := rfl

/-- A message that is no write-back may be sent. -/
theorem Shifts.send_other (m : Msg) (hP : About P) (h : m.kind ≠ .wb) : Shifts P s (Machine.send s m) :=
  Shifts.send m hP fun hk => absurd hk h

end

end Sys2Proof.Machine
end

section
/-!
What moves words about only: copies in the caches, write-backs, lines of the host, writes at homes and releases.
-/

namespace Sys2Proof.Machine

section
variable {P : Msg → Prop} {s t : State}

/-! ## Copies, marks and places -/

theorem shifts_mapCopies (s : State) (who : Agent) (f : Tbl Copy → Tbl Copy) : Shifts P s (mapCopies s who f) :=
  Shifts.of_eq rfl rfl rfl rfl rfl

theorem shifts_putCopy (s : State) (who : Agent) (w : Nat) (c : Copy) : Shifts P s (putCopy s who w c) :=
  shifts_mapCopies s who _

theorem shifts_dropCopy (s : State) (who : Agent) (w : Nat) : Shifts P s (dropCopy s who w) :=
  shifts_mapCopies s who _

theorem shifts_report (s : State) (r : Report) : Shifts P s (report s r) := Shifts.of_eq rfl rfl rfl rfl rfl

theorem shifts_reportCtx (s : State) (ctx kind cause addr : Nat) (aux : Word) : Shifts P s (reportCtx s ctx kind cause addr aux) :=
  shifts_report s _

theorem shifts_setVal (s : State) (w : Nat) : Shifts P s (setVal s w) := Shifts.of_eq rfl rfl rfl rfl rfl

theorem shifts_stampWrite (s : State) (w : Nat) (ctx core : Option Nat) : Shifts P s (stampWrite s w ctx core) := by
  obtain ⟨stamps, h⟩ := stampWrite_eq s w ctx core
  rw [h]
  exact Shifts.of_eq rfl rfl rfl rfl rfl

theorem shifts_biasAccess (s : State) (line : Nat) (host : Bool) : Shifts P s (biasAccess s line host) := by
  unfold biasAccess
  simp only
  split
  · exact Shifts.refl s
  · exact Shifts.of_eq rfl rfl rfl rfl rfl

theorem shifts_snoopFirst (s : State) (ws : List Nat) : Shifts P s ((snoopFirst s ws).getD s) := by
  unfold snoopFirst
  split
  · exact Shifts.refl s
  · exact Shifts.of_eq rfl rfl rfl rfl rfl

theorem shifts_storeCopy (s : State) (who : Agent) (ctx : Option Nat) (w : Nat) (mask : BitVec 4) (v : Word) (poison : Bool) :
    Shifts P s (storeCopy s who ctx w mask v poison) := by
  unfold storeCopy
  split
  · exact (shifts_putCopy s _ _ _).trans (shifts_stampWrite _ _ _ _)
  · exact shifts_putCopy s _ _ _
  · exact shifts_putCopy s _ _ _
  · exact shifts_putCopy s _ _ _

theorem shifts_l1Store (s : State) (core ctx w : Nat) (mask : BitVec 4) (v : Word) (poison : Bool) :
    Shifts P s (l1Store s core ctx w mask v poison) :=
  Shifts.trans (t := { s with storers := tupd s.storers core [] fun t => tput t w ctx }) (Shifts.of_eq rfl rfl rfl rfl rfl)
    (shifts_storeCopy _ _ _ _ _ _ _)

theorem shifts_voidFills (hP : About P) (s : State) (who : Agent) (p : Nat → Bool) : Shifts P s (voidFills s who p) :=
  ⟨Sends.of_marks (fun m => sameButVoid_mark m _) hP rfl rfl rfl rfl, rfl⟩

theorem shifts_overtake (hP : About P) (s : State) (w : Nat) (mask : BitVec 4) : Shifts P s (overtake s w mask) := by
  unfold overtake
  simp only
  split
  · split
    · refine Shifts.trans ?_ (shifts_dropCopy _ _ _)
      exact ⟨Sends.of_marks (fun m => sameButVoid_mark m _) hP rfl rfl rfl rfl, rfl⟩
    · exact ⟨Sends.of_marks (fun m => sameButVoid_mark m _) hP rfl rfl rfl rfl, rfl⟩
  · exact ⟨Sends.of_marks (fun m => sameButVoid_mark m _) hP rfl rfl rfl rfl, rfl⟩

/-! ## Writes of memory -/

theorem shifts_recallWords (hP : About P) (s : State) (ws : List Nat) : Shifts P s (recallWords s ws) := by
  unfold recallWords
  exact Shifts.foldl (fun o _ t => Shifts.foldl (fun l _ t => Shifts.send_other _ hP (by simp)) t) s

theorem shifts_settleLine (hP : About P) (s : State) (line : Nat) : Shifts P s (settleLine s line) := by
  unfold settleLine
  simp only
  split
  · exact Shifts.of_eq rfl rfl rfl rfl rfl
  · split
    · refine Shifts.trans ?_ (shifts_recallWords hP _ _)
      exact Shifts.of_eq rfl rfl rfl rfl rfl
    · exact Shifts.of_eq rfl rfl rfl rfl rfl

theorem shifts_putHomeWord (hP : About P) (s : State) (w : Nat) (mask : BitVec 4) (v : Word) (poison : Bool) :
    Shifts P s (putHomeWord s w mask v poison) := by
  unfold putHomeWord
  refine Shifts.trans ?_ (shifts_settleLine hP _ _)
  exact ⟨⟨fun h => ⟨h.lines, memPutWord_wf s.mem w mask v h.memory, h.backs⟩, Nat.le_refl _, fun _ h => h⟩, rfl⟩

/-! ## Write-backs -/

/-- Words that one agent gives up together, from a line that is foreign to the host or all of them in it. -/
theorem shifts_holdAndSend (hP : About P) (s : State) (who : Agent) (ctx : Option Nat) (owned : Bool) (es : List (Nat × Copy))
    (h : ∀ e ∈ es, ∀ m : Msg, m.addr = lineBase e.1 → m.words = [] → (∀ v ∈ m.vals, v.word ∈ es.map Prod.fst) → P m) :
    Shifts P s (holdAndSend s who ctx owned es) := by
  unfold holdAndSend
  split
  · exact Shifts.refl s
  · rename_i e rest
    refine Shifts.trans ?_ (Shifts.send _ hP fun _ _ => .inl (h e List.mem_cons_self _ rfl rfl ?_))
    · refine Shifts.trans (Shifts.trans ?_ (Shifts.foldl (fun e _ t => shifts_dropCopy t _ _) _)) (shifts_voidFills hP _ _ _)
      exact Shifts.of_eq rfl rfl rfl rfl rfl
    · simp only [List.mem_map]
      rintro v ⟨x, hx, rfl⟩
      exact ⟨x, hx, rfl⟩

theorem names_of_vals {m : Msg} {ws : List Nat} (h0 : m.words = []) (h : ∀ v ∈ m.vals, v.word ∈ ws) {w : Nat}
    (hn : m.names w = true) : w ∈ ws := by
  simp only [Msg.names, h0, List.contains_nil, Bool.false_or, List.any_eq_true, beq_iff_eq] at hn
  obtain ⟨v, hv, rfl⟩ := hn
  exact h v hv

/-- Words of one line that the host is not home of go home. -/
theorem shifts_holdAndSend_foreign (hP : About P) (s : State) (who : Agent) (ctx : Option Nat) (owned : Bool)
    {es : List (Nat × Copy)} {line : Nat} (hl : homeOf line ≠ 2) (h : ∀ e ∈ es, lineBase e.1 = line) :
    Shifts P s (holdAndSend s who ctx owned es) := by
  refine shifts_holdAndSend hP s who ctx owned es fun e he m ha h0 hv => hP.foreign m ⟨by rw [ha, h e he]; exact hl, ?_⟩
  intro w hn
  obtain ⟨x, hx, rfl⟩ := List.mem_map.mp (names_of_vals h0 hv hn)
  have := h x hx
  simp only [homeOf, lineBase] at this hl ⊢
  omega

/-- Words of one line go home. -/
theorem shifts_holdAndSend_line (s : State) (who : Agent) (ctx : Option Nat) (owned : Bool) {es : List (Nat × Copy)} {line : Nat}
    (h : ∀ e ∈ es, lineBase e.1 = line) : Shifts InLine s (holdAndSend s who ctx owned es) := by
  refine shifts_holdAndSend about_inLine s who ctx owned es fun e he m ha h0 hv w hn _ => ?_
  obtain ⟨x, hx, rfl⟩ := List.mem_map.mp (names_of_vals h0 hv hn)
  rw [ha, h x hx, h e he]

/-! ## The remote-data cache -/

theorem WordsOk.length_takeHostLine (h : WordsOk P s) (line : Nat) : (takeHostLine s line).vals.length = 32 := by
  unfold takeHostLine
  cases hf : tfind s.hostLines line with
  | none => simp [lineWords]
  | some l => exact h.lines _ (mem_of_tfind hf)

theorem mem_tput {α : Type} {t : Tbl α} {k : Nat} {v : α} {e : Nat × α} (h : e ∈ tput t k v) : e = (k, v) ∨ e ∈ t := by
  induction t with
  | nil => simpa [tput] using h
  | cons x t ih =>
    obtain ⟨j, w⟩ := x
    simp only [tput] at h
    split at h
    · simpa using h
    · split at h
      · rcases List.mem_cons.mp h with h | h
        · exact .inl h
        · exact .inr (List.mem_cons_of_mem _ h)
      · rcases List.mem_cons.mp h with h | h
        · exact .inr (h ▸ List.mem_cons_self)
        · exact (ih h).imp_right (List.mem_cons_of_mem _)

/-- A line of the host may be changed while it stays whole. -/
theorem Shifts.put_line (h : Shifts P s t) {line : Nat} {l : HostLine} (hl : WordsOk P s → l.vals.length = 32) :
    Shifts P s { t with hostLines := tput t.hostLines line l } where
  ok hs := ⟨fun _ he => (mem_tput he).elim (fun e => e ▸ hl hs) ((h.ok hs).lines _), (h.ok hs).memory, (h.ok hs).backs⟩
  seq := h.seq
  out := h.out
  work := h.work

/-- A line of the host may go. -/
theorem Shifts.del_line (s : State) (line : Nat) : Shifts P s { s with hostLines := tdel s.hostLines line } :=
  ⟨⟨fun hs => ⟨fun e he => hs.lines e (List.mem_of_mem_filter he), hs.memory, hs.backs⟩, Nat.le_refl _, fun _ h => h⟩, rfl⟩

theorem shifts_rdcGiveUp (hP : About P) (s : State) (line : Nat) : Shifts P s (rdcGiveUp s line) := by
  unfold rdcGiveUp
  split
  · split
    · exact Shifts.refl s
    · simp only
      split
      · exact (Shifts.del_line s line).trans (Shifts.send _ hP fun _ _ => .inr ⟨rfl, rfl⟩)
      · exact Shifts.del_line s line
  · rename_i hl
    simp only
    have hc (l : List (Nat × Copy)) : Shifts P s (l.foldl (fun s e => dropCopy s .rdc e.1) s) :=
      Shifts.foldl (fun e _ t => shifts_dropCopy t .rdc e.1) s
    split
    · exact hc _
    · refine ((hc _).trans (shifts_holdAndSend_foreign hP _ _ _ _ hl ?_)).trans (shifts_holdAndSend_foreign hP _ _ _ _ hl ?_) <;>
        simp +contextual

theorem shifts_rdcMakeRoom (hP : About P) (s : State) (line : Nat) : Shifts P s (rdcMakeRoom s line) := by
  unfold rdcMakeRoom
  split
  · exact Shifts.refl s
  · split
    · exact shifts_rdcGiveUp hP s _
    · exact Shifts.refl s

theorem shifts_putHostLine (hP : About P) {line : Nat} {l : HostLine} (hl : WordsOk P s → l.vals.length = 32) :
    Shifts P s (putHostLine s line l) :=
  (shifts_rdcMakeRoom hP s line).put_line hl

theorem shifts_takeHostLine (hP : About P) (s : State) (line : Nat) : Shifts P s (putHostLine s line (takeHostLine s line)) :=
  shifts_putHostLine hP fun h => h.length_takeHostLine line

theorem shifts_putHostWord (hP : About P) (s : State) (w : Nat) (mask : BitVec 4) (v : Word) (poison : Bool) :
    Shifts P s (putHostWord s w mask v poison) := by
  unfold putHostWord
  split
  · rename_i l hl
    refine shifts_putHostLine hP fun h => ?_
    rw [List.length_set]
    cases hf : tfind s.hostLines (lineBase w) with
    | some l' =>
      simp only [hf, Option.orElse_some, Option.some.injEq] at hl
      exact hl ▸ h.lines _ (mem_of_tfind hf)
    | none =>
      simp only [hf, Option.orElse_none, Option.ite_none_right_eq_some, Option.some.injEq] at hl
      exact hl.2 ▸ h.length_takeHostLine _
  · exact shifts_putHomeWord hP s w mask v poison

theorem shifts_rdcSees (hP : About P) (s : State) (w : Nat) (mask : BitVec 4) (v : Word) (poison : Bool) :
    Shifts P s (rdcSees s w mask v poison).1 := by
  have hv := shifts_voidFills hP s .rdc fun l => l == lineBase w
  unfold rdcSees
  simp only
  split
  · exact hv
  · split
    · exact hv.trans (shifts_dropCopy _ _ _)
    · simp only
      split
      · exact hv.trans (shifts_dropCopy _ _ _)
      · exact hv.trans (shifts_putCopy _ _ _ _)
    · split
      · exact hv.trans (shifts_putCopy _ _ _ _)
      · split
        · exact hv
        · split
          · exact hv.trans (shifts_dropCopy _ _ _)
          · exact hv.trans (shifts_putCopy _ _ _ _)

/-! ## Writes at the home -/

theorem shifts_writeAtHome (hP : About P) (s : State) (w : Nat) (mask : BitVec 4) (v : Word) (poison : Bool) (ctx core : Option Nat) :
    Shifts P s (writeAtHome s w mask v poison ctx core) := by
  unfold writeAtHome
  split
  · exact shifts_reportCtx s _ _ _ _ _
  · split
    · exact (shifts_putHostWord hP s w mask v poison).trans (shifts_stampWrite _ _ _ _)
    · split
      · exact shifts_storeCopy s _ _ _ _ _ _
      · simp only
        refine Shifts.trans ?_ (shifts_stampWrite _ _ _ _)
        have hs : Shifts P s (if homeOf w = 1 then rdcSees s w mask v poison else (s, false)).1 := by
          split
          · exact shifts_rdcSees hP s w mask v poison
          · exact Shifts.refl s
        generalize (if homeOf w = 1 then rdcSees s w mask v poison else (s, false)) = seen at hs ⊢
        split
        · split
          · exact hs
          · split
            · exact ((hs.trans (Shifts.send_other _ hP (by simp))).trans (shifts_setVal _ _)).trans (shifts_putHomeWord hP _ _ _ _ _)
            · exact hs.trans (Shifts.send_other _ hP (by simp))
        · exact (hs.trans (shifts_setVal _ _)).trans (shifts_putHomeWord hP _ _ _ _ _)

theorem shifts_homeWrite (hP : About P) (s : State) (w : Nat) (mask : BitVec 4) (v : Word) (poison : Bool) (ctx core : Option Nat) :
    Shifts P s (homeWrite s w mask v poison ctx core) :=
  (shifts_biasAccess s _ _).trans (shifts_writeAtHome hP _ _ _ _ _ _ _)

theorem shifts_homeWrites (hP : About P) (s : State) (loc : Nat) (ws : List Word) (ctx : Option Nat) :
    Shifts P s (homeWrites s loc ws ctx) :=
  Shifts.foldr (fun _ _ t => shifts_homeWrite hP t _ _ _ _ _ _) s

/-! ## Releases of the RDC -/

theorem shifts_registerWords (hP : About P) (s : State) (who : Agent) (ctx : Option Nat) (es : List (Nat × Copy)) :
    Shifts P s (registerWords s who ctx es) := by
  unfold registerWords
  refine Shifts.foldl (fun l _ t => ?_) s
  simp only
  have h1 : ∀ full : List (Nat × Copy), Shifts P t (if full.isEmpty then t else
      send (full.foldl (fun s e => putCopy s who e.1 { e.2 with st := .reg }) t)
        { kind := .reg, src := who, dst := homeAgent l.1, addr := l.1, who, ctx, words := full.map Prod.fst }) := by
    intro full
    split
    · exact Shifts.refl t
    · exact (Shifts.foldl (fun e _ t => shifts_putCopy t _ _ _) t).trans (Shifts.send_other _ hP (by simp))
  split
  · exact h1 _
  · exact (((h1 _).trans (Shifts.foldl (fun e _ t => shifts_putCopy t _ _ _) _)).trans (shifts_voidFills hP _ _ _)).trans
      (Shifts.send_other _ hP (by simp))

theorem shifts_releaseRdc (hP : About P) (s : State) (ctx : Option Nat) (scope : Nat) : Shifts P s (releaseRdc s ctx scope) := by
  unfold releaseRdc
  simp only
  have h1 : Shifts P s (if 4 ≤ scope && s.isW && s.twinUp then registerWords s .rdc ctx (s.rdc.filter fun e => e.2.st == .drt)
      else s) := by
    split
    · exact shifts_registerWords hP s _ _ _
    · exact Shifts.refl s
  split
  · refine h1.trans (Shifts.foldl_from (fun e he t ht => ?_) (Shifts.refl _))
    refine Shifts.trans (ht.put_line (line := e.1) (l := { e.2 with st := .exclusive }) fun h => h.lines e (List.mem_of_mem_filter he)) ?_
    exact Shifts.send _ hP fun _ _ => .inr ⟨rfl, rfl⟩
  · exact h1

/-! ## Evictions -/

theorem shifts_moveToRdc (hP : About P) (s : State) (w : Nat) (c : Copy) : Shifts P s (moveToRdc s w c) := by
  unfold moveToRdc
  simp only
  have hr : Shifts P s (if homeOf w = 2 then s else rdcMakeRoom s (lineBase w)) := by
    split
    · exact Shifts.refl s
    · exact shifts_rdcMakeRoom hP s _
  generalize (if homeOf w = 2 then s else rdcMakeRoom s (lineBase w)) = t at hr ⊢
  refine hr.trans ?_
  split
  · exact (shifts_takeHostLine hP t _).trans (shifts_putHostWord hP _ _ _ _ _)
  · split <;> exact shifts_putCopy t _ _ _

theorem shifts_moveAway (hP : About P) (s : State) (core ctx w : Nat) (c : Copy) : Shifts P s (moveAway s core ctx w c) := by
  unfold moveAway
  simp only
  have hd := (shifts_dropCopy s (.core core) w).trans (shifts_voidFills hP _ (.core core) fun l => l == lineBase w)
  split
  · exact (hd.trans (shifts_putHomeWord hP _ _ _ _ _)).trans (shifts_stampWrite _ _ _ _)
  · refine hd.trans (Shifts.trans ?_ (shifts_moveToRdc hP _ _ _))
    exact Shifts.of_eq rfl rfl rfl rfl rfl

theorem lineBase_of_mem_pairOf {w x : Nat} (h : x ∈ pairOf w) : lineBase x = lineBase w := by
  unfold pairOf at h
  simp only [lineBase]
  split at h <;> simp only [List.mem_cons, List.not_mem_nil, or_false] at h <;> omega

theorem lineBase_of_mem_evictSet {s : State} {who : Agent} {w : Nat} {e : Nat × Copy} (h : e ∈ evictSet s who w) :
    lineBase e.1 = lineBase w := by
  unfold evictSet at h
  split at h
  · cases h
  · obtain ⟨x, hx, he⟩ := List.mem_filterMap.mp h
    split at he
    · split at he
      · exact Option.some.inj he ▸ lineBase_of_mem_pairOf hx
      · cases he
    · cases he

theorem shifts_moveAll (s : State) (core ctx : Nat) (es : List (Nat × Copy)) : Shifts InLine s (moveAll s core ctx es) := by
  unfold moveAll
  simp only
  refine Shifts.trans (Shifts.foldl (fun e _ t => ?_) s) (Shifts.foldl (fun e _ t => shifts_moveAway about_inLine t _ _ _ _) _)
  split
  · split
    · exact shifts_holdAndSend_line t _ _ _ (line := lineBase e.1) (by simp)
    · exact Shifts.refl t
  · exact Shifts.refl t

theorem shifts_evictL1 (s : State) (core ctx w : Nat) : Shifts InLine s (evictL1 s core ctx w) := by
  unfold evictL1
  simp only
  have hh (owned : Bool) : Shifts InLine s (holdAndSend s (.core core) (some ctx) owned (evictSet s (.core core) w)) :=
    shifts_holdAndSend_line s _ _ _ fun _ he => lineBase_of_mem_evictSet he
  split
  · exact Shifts.refl s
  · split
    · exact Shifts.refl s
    · split
      · exact shifts_dropCopy s _ _
      · exact hh _
      · split
        · exact hh _
        · exact shifts_moveAll s _ _ _

/-! ## Atomics and reductions at the home -/

theorem shifts_claimWords (hP : About P) (s : State) (ws : List Nat) : Shifts P s (claimWords s ws) := by
  unfold claimWords
  refine Shifts.foldl (fun w _ t => ?_) s
  simp only
  split
  · exact (shifts_overtake hP t w _).trans (shifts_takeHostLine hP _ _)
  · exact shifts_overtake hP t w _

theorem shifts_rootAsks (hP : About P) (s : State) (n : RedNode) : Shifts P s (rootAsks s n) :=
  (shifts_recallWords hP s _).trans (shifts_snoopFirst _ _)

theorem shifts_rootCombine (hP : About P) (s : State) (n : RedNode) : Shifts P s (rootCombine s n) := by
  unfold rootCombine
  simp only
  split
  · exact ((shifts_claimWords hP s _).trans (shifts_homeWrite hP _ _ _ _ _ _ _)).trans (shifts_homeWrite hP _ _ _ _ _ _ _)
  · exact (shifts_claimWords hP s _).trans (shifts_homeWrite hP _ _ _ _ _ _ _)

theorem shifts_atomPrepare (hP : About P) (s : State) (core ctx : Nat) (r : LaneRef) (bytes : Nat) :
    Shifts P s (atomPrepare s core ctx r bytes) := by
  unfold atomPrepare
  refine Shifts.foldl (fun w _ t => ?_) s
  have hd : Shifts P t (match (l1Copy t core w : Option Copy) with
      | some c => if c.st = CopySt.drt then moveAway t core ctx w c else t
      | none => t) := by
    split
    · split
      · exact shifts_moveAway hP t _ _ _ _
      · exact Shifts.refl t
    · exact Shifts.refl t
  split
  · exact hd.trans (shifts_takeHostLine hP _ _)
  · split
    · exact hd
    · exact Shifts.refl t

theorem shifts_atomPut (hP : About P) (s : State) (core ctx : Nat) (r : LaneRef) (bytes : Nat) (v : DWord) (poison : Bool) :
    Shifts P s (atomPut s core ctx r bytes v poison) := by
  have hone (t : State) (w : Nat) (x : Word) : Shifts P t (
      let s := overtake t w (if atomInL1 t r then 0 else 0xF)
      if atomInL1 s r then l1Store s core ctx w 0xF x poison else homeWrite s w 0xF x poison (some ctx) (some core)) := by
    refine (shifts_overtake hP t w (if atomInL1 t r then 0 else 0xF)).trans ?_
    generalize overtake t w (if atomInL1 t r then 0 else 0xF) = u
    simp only
    split
    · exact shifts_l1Store _ _ _ _ _ _ _
    · exact shifts_homeWrite hP _ _ _ _ _ _ _
  unfold atomPut
  simp only
  split
  · exact (hone s _ _).trans (hone _ _ _)
  · exact hone s _ _

/-! ## Translations and reports -/

theorem shifts_fillNow (s : State) (ctx core va : Nat) : Shifts P s (fillNow s ctx core va) := by
  obtain ⟨_, _, _, _, _, h⟩ := fillNow_eq s ctx core va
  rw [h]
  exact Shifts.of_eq rfl rfl rfl rfl rfl

theorem shifts_dropFails (s : State) (ctx core : Nat) (pages : List Nat) : Shifts P s (dropFails s ctx core pages) :=
  Shifts.of_eq rfl rfl rfl rfl rfl

theorem shifts_dropCoreFails (s : State) (ctx core : Nat) : Shifts P s (dropCoreFails s ctx core) :=
  Shifts.of_eq rfl rfl rfl rfl rfl

theorem shifts_storeFrame (s : State) (g : Group) (loc : Nat) (ws : List Word) : Shifts P s (storeFrame s g loc ws) :=
  Shifts.foldr (fun _ _ t => shifts_l1Store t _ _ _ _ _ _) s

theorem shifts_reportLanes (s : State) (g : Group) (fs : List (Nat × Nat × Nat)) : Shifts P s (reportLanes s g fs) := by
  unfold reportLanes
  refine Shifts.foldl (fun f _ t => ?_) s
  split
  · exact shifts_report t _
  · split
    · exact shifts_report t _
    · exact Shifts.refl t

theorem shifts_reportTrap (s : State) (g : Group) (t : TrapInfo) : Shifts P s (reportTrap s g t) := by
  unfold reportTrap
  split
  · exact Shifts.refl s
  · split
    · exact shifts_report s _
    · split
      · exact shifts_report s _
      · exact Shifts.refl s

theorem shifts_tellFault (s : State) (ctx core : Nat) (slot : Option Nat) (ident cause va : Nat) :
    Shifts P s (tellFault s ctx core slot ident cause va) := by
  unfold tellFault
  simp only
  split
  · exact shifts_report s _
  · split
    · exact shifts_report s _
    · split
      · exact shifts_report s _
      · exact Shifts.refl s

theorem shifts_reportPages (s : State) (g : Group) (pages : List BatchPage) : Shifts P s (reportPages s g pages) :=
  Shifts.foldl (fun _ _ t => shifts_report t _) s

end

end Sys2Proof.Machine
end

section
/-!
Word 7 of a command reads back as it was written (R289), and how a command ends when nothing waits for a release.
-/

namespace Sys2Proof.Machine

section
variable {P : Msg → Prop} {s t u : State} {w : Nat}

/-! ## Changes that send no write-back -/

/-- A change that sends no write-back: each that is under way was. -/
def NoNewBacks (s t : State) : Prop := ∀ m ∈ t.msgs, m.kind = .wb → ∃ n ∈ s.msgs, SameButVoid n m

theorem NoNewBacks.refl (s : State) : NoNewBacks s s := fun m hm _ => ⟨m, hm, ⟨rfl, rfl, rfl, rfl, rfl, rfl, rfl, rfl, rfl⟩⟩

theorem SameButVoid.trans {m n o : Msg} (h : SameButVoid m n) (h' : SameButVoid n o) : SameButVoid m o :=
  ⟨h'.kind.trans h.kind, h'.src.trans h.src, h'.dst.trans h.dst, h'.addr.trans h.addr, h'.tag.trans h.tag, h'.form.trans h.form,
    h'.words.trans h.words, h'.vals.trans h.vals, h'.serial.trans h.serial⟩

theorem NoNewBacks.trans (h : NoNewBacks s t) (h' : NoNewBacks t u) : NoNewBacks s u := by
  intro m hm hk
  obtain ⟨n, hn, e⟩ := h' m hm hk
  obtain ⟨o, ho, e'⟩ := h n hn (e.kind ▸ hk)
  exact ⟨o, ho, e'.trans e⟩

theorem NoNewBacks.of_eq (h : t.msgs = s.msgs) : NoNewBacks s t := fun m hm hk => NoNewBacks.refl s m (h ▸ hm) hk

theorem NoNewBacks.send (m : Msg) (h : m.kind ≠ .wb) : NoNewBacks s (Machine.send s m) := by
  intro n hn hk
  simp only [send_msgs, List.mem_append, List.mem_singleton] at hn
  rcases hn with hn | rfl
  · exact NoNewBacks.refl s n hn hk
  · exact absurd hk h

theorem NoNewBacks.foldl {α : Type} {f : State → α → State} {l : List α} (h : ∀ a ∈ l, ∀ t, NoNewBacks t (f t a)) (s : State) :
    NoNewBacks s (l.foldl f s) := by
  induction l generalizing s with
  | nil => exact NoNewBacks.refl s
  | cons a l ih => exact (h a List.mem_cons_self s).trans (ih (fun b hb => h b (List.mem_cons_of_mem a hb)) _)

theorem noNewBacks_voidFills (s : State) (who : Agent) (p : Nat → Bool) : NoNewBacks s (voidFills s who p) := by
  intro m hm _
  obtain ⟨n, hn, rfl⟩ := List.mem_map.mp hm
  exact ⟨n, hn, sameButVoid_mark n _⟩

theorem noNewBacks_stampWrite (s : State) (w : Nat) (ctx core : Option Nat) : NoNewBacks s (stampWrite s w ctx core) := by
  obtain ⟨_, h⟩ := stampWrite_eq s w ctx core
  rw [h]
  exact NoNewBacks.of_eq rfl

theorem noNewBacks_recallWords (s : State) (ws : List Nat) : NoNewBacks s (recallWords s ws) := by
  unfold recallWords
  exact NoNewBacks.foldl (fun o _ t => NoNewBacks.foldl (fun l _ t => NoNewBacks.send _ (by simp)) t) s

theorem noNewBacks_settleLine (s : State) (line : Nat) : NoNewBacks s (settleLine s line) := by
  unfold settleLine
  simp only
  split
  · exact NoNewBacks.of_eq rfl
  · split
    · refine NoNewBacks.trans ?_ (noNewBacks_recallWords _ _)
      exact NoNewBacks.of_eq rfl
    · exact NoNewBacks.of_eq rfl

theorem noNewBacks_putHomeWord (s : State) (w : Nat) (mask : BitVec 4) (v : Word) (poison : Bool) :
    NoNewBacks s (putHomeWord s w mask v poison) := by
  refine NoNewBacks.trans ?_ (noNewBacks_settleLine _ _)
  exact NoNewBacks.of_eq rfl

theorem noNewBacks_storeCopy (s : State) (who : Agent) (ctx : Option Nat) (w : Nat) (mask : BitVec 4) (v : Word) (poison : Bool) :
    NoNewBacks s (storeCopy s who ctx w mask v poison) := by
  unfold storeCopy
  split
  · exact (NoNewBacks.of_eq rfl).trans (noNewBacks_stampWrite (putCopy _ _ _ _) _ _ _)
  all_goals exact NoNewBacks.of_eq rfl

theorem noNewBacks_rdcSees (s : State) (w : Nat) (mask : BitVec 4) (v : Word) (poison : Bool) :
    NoNewBacks s (rdcSees s w mask v poison).1 := by
  refine (noNewBacks_voidFills s .rdc fun l => l == lineBase w).trans (NoNewBacks.of_eq ?_)
  unfold rdcSees
  simp only
  split
  · rfl
  · split
    · rfl
    · simp only
      split <;> rfl
    · split
      · rfl
      · split
        · rfl
        · split <;> rfl

/-- No write-back of a host-homed line is under way. -/
def HostStill (s : State) : Prop := ∀ m ∈ s.msgs, m.kind = .wb → m.dst = .host → Foreign m

theorem HostStill.mono (h : HostStill s) (hn : NoNewBacks s t) : HostStill t := by
  intro m hm hk hd
  obtain ⟨n, hn, e⟩ := hn m hm hk
  exact about_foreign.same n m e.addr e.words e.vals (h n hn (e.kind ▸ hk) (e.dst ▸ hd))

theorem HostStill.not_busy (h : HostStill s) {line : Nat} (hl : homeOf line = 2) : hostBusy s line = false := by
  rw [hostBusy, List.any_eq_false]
  intro m hm hb
  simp only [Bool.and_eq_true, beq_iff_eq] at hb
  obtain ⟨⟨hk, hd⟩, ha⟩ := hb
  exact (h m hm hk hd).1 (ha ▸ hl)

theorem homeOf_lineBase (w : Nat) : homeOf (lineBase w) = homeOf w := by
  simp only [homeOf, lineBase]
  omega

theorem rdcFits_of_line {line : Nat} {l : HostLine} (h : tfind s.hostLines line = some l) : rdcFits s line = true := by
  have hm : line ∈ s.hostLines.map fun e => e.1 := List.mem_map.mpr ⟨_, mem_of_tfind h, rfl⟩
  simp [rdcFits, rdcLines, hm]

theorem putHostLine_of_line {line : Nat} {l : HostLine} (l' : HostLine) (h : tfind s.hostLines line = some l) :
    putHostLine s line l' = { s with hostLines := tput s.hostLines line l' } := by
  rw [putHostLine, rdcMakeRoom, if_pos (rdcFits_of_line h)]

theorem noNewBacks_putHostWord (h : HostStill s) {w : Nat} (hw : homeOf w = 2) (mask : BitVec 4) (v : Word) (poison : Bool) :
    NoNewBacks s (putHostWord s w mask v poison) := by
  unfold putHostWord
  rw [h.not_busy (by rw [homeOf_lineBase, hw])]
  cases hf : tfind s.hostLines (lineBase w) with
  | none => exact noNewBacks_putHomeWord s w mask v poison
  | some l =>
    simp only [Option.orElse_some]
    rw [putHostLine_of_line _ hf]
    exact NoNewBacks.of_eq rfl

theorem noNewBacks_biasAccess (s : State) (line : Nat) (host : Bool) : NoNewBacks s (biasAccess s line host) := by
  unfold biasAccess
  simp only
  split <;> exact NoNewBacks.of_eq rfl

theorem noNewBacks_homeWrite (h : HostStill s) (w : Nat) (mask : BitVec 4) (v : Word) (poison : Bool) (ctx core : Option Nat) :
    NoNewBacks s (homeWrite s w mask v poison ctx core) := by
  have hb := noNewBacks_biasAccess s (lineBase w) false
  refine hb.trans ?_
  replace h := h.mono hb
  unfold homeWrite writeAtHome
  generalize biasAccess s (lineBase w) false = s at h ⊢
  split
  · exact NoNewBacks.of_eq rfl
  · split
    · rename_i hw
      exact (noNewBacks_putHostWord h hw mask v poison).trans (noNewBacks_stampWrite _ _ _ _)
    · split
      · exact noNewBacks_storeCopy s _ _ _ _ _ _
      · simp only
        refine NoNewBacks.trans ?_ (noNewBacks_stampWrite _ _ _ _)
        have hs : NoNewBacks s (if homeOf w = 1 then rdcSees s w mask v poison else (s, false)).1 := by
          split
          · exact noNewBacks_rdcSees s w mask v poison
          · exact NoNewBacks.refl s
        generalize (if homeOf w = 1 then rdcSees s w mask v poison else (s, false)) = seen at hs ⊢
        split
        · split
          · exact hs
          · split
            · refine (hs.trans (NoNewBacks.send _ ?_)).trans (NoNewBacks.trans (NoNewBacks.of_eq rfl) (noNewBacks_putHomeWord (setVal _ _) _ _ _ _))
              simp
            · exact hs.trans (NoNewBacks.send _ (by simp))
        · exact (hs.trans (NoNewBacks.of_eq rfl)).trans (noNewBacks_putHomeWord (setVal _ _) _ _ _ _)

theorem HostStill.homeWrites (h : HostStill s) (loc : Nat) (ws : List Word) (ctx : Option Nat) :
    HostStill (homeWrites s loc ws ctx) := by
  unfold Machine.homeWrites
  induction ws.zipIdx with
  | nil => exact h
  | cons p l ih => exact ih.mono (noNewBacks_homeWrite ih _ _ _ _ _ _)

/-! ## What has been written at a home reads back -/

theorem stampWrite_mem (s : State) (w : Nat) (ctx core : Option Nat) : (stampWrite s w ctx core).mem = s.mem := by
  obtain ⟨_, h⟩ := stampWrite_eq s w ctx core
  rw [h]

theorem stampWrite_homes (s : State) (w : Nat) (ctx core : Option Nat) : (stampWrite s w ctx core).homes = s.homes := by
  obtain ⟨_, h⟩ := stampWrite_eq s w ctx core
  rw [h]

/-- A whole word written at a home that is neither the twin nor the host goes into memory, and is VAL. -/
theorem homeWrite_plain (h1 : homeOf w ≠ 1) (h2 : homeOf w ≠ 2) (v : Word) :
    (homeWrite s w 0xF v false none none).mem = memPutWord s.mem w 0xF v ∧
      (homeWrite s w 0xF v false none none).homes = tdel s.homes w := by
  obtain ⟨bias, hb⟩ : ∃ bias, biasAccess s (lineBase w) false = { s with bias } := by
    unfold biasAccess
    simp only
    split
    · exact ⟨_, rfl⟩
    · exact ⟨_, rfl⟩
  unfold homeWrite writeAtHome
  rw [hb]
  simp only [ne_eq, not_true_eq_false, and_false, if_false, h2, h1, false_and, if_true]
  have hp (t : State) : (putHomeWord t w 0xF v false).mem = memPutWord t.mem w 0xF v ∧ (putHomeWord t w 0xF v false).homes = t.homes := by
    obtain ⟨_, _, _, _, h⟩ := putHomeWord_frame t w 0xF v false
    rw [h]
    exact ⟨rfl, rfl⟩
  rw [stampWrite_mem, stampWrite_homes]
  split
  · exact hp _
  · exact hp _

/-- A whole word written at the host: into the RDC's line where it holds one, or takes one back, else into host memory. -/
theorem homeWrite_host (h2 : homeOf w = 2) (v : Word) :
    ∃ stamps, homeWrite s w 0xF v false none none = { putHostWord s w 0xF v false with stamps } := by
  have hb : biasAccess s (lineBase w) false = s := by
    unfold biasAccess
    simp only
    rw [if_pos (.inl (by rw [homeOf_lineBase, h2]; decide))]
  unfold homeWrite writeAtHome
  rw [hb, if_neg (by simp), if_pos h2]
  exact stampWrite_eq _ w none none

theorem NoNewBacks.not_busy {line : Nat} (h : NoNewBacks s t) (hb : hostBusy s line = false) : hostBusy t line = false := by
  rw [hostBusy, List.any_eq_false] at hb ⊢
  intro m hm hp
  simp only [Bool.and_eq_true, beq_iff_eq] at hp
  obtain ⟨⟨hk, hd⟩, ha⟩ := hp
  obtain ⟨n, hn, e⟩ := h m hm hk
  exact hb n hn (by simp [← e.kind, ← e.dst, ← e.addr, hk, hd, ha])

/-- Every write-back to the host that is under way is of words of its line. -/
def BacksInLine (s : State) : Prop := ∀ m ∈ s.msgs, m.kind = .wb → m.dst = .host → InLine m

theorem BacksInLine.mono (h : BacksInLine s) (hn : NoNewBacks s t) : BacksInLine t := by
  intro m hm hk hd
  obtain ⟨n, hn, e⟩ := hn m hm hk
  exact about_inLine.same n m e.addr e.words e.vals (h n hn (e.kind ▸ hk) (e.dst ▸ hd))

/-- Where the RDC holds no line of a host-homed word and none goes back to the host, the word is one of memory. -/
structure InMemory (s : State) (line : Nat) : Prop where
  absent : tfind s.hostLines line = none
  still : hostBusy s line = false
  backs : BacksInLine s

/-- Then a write of the word is one of memory. -/
theorem InMemory.homeWrite (h : InMemory s (lineBase w)) (h2 : homeOf w = 2) (v : Word) :
    InMemory (homeWrite s w 0xF v false none none) (lineBase w) ∧
      (Machine.homeWrite s w 0xF v false none none).mem = memPutWord s.mem w 0xF v := by
  have e : putHostWord s w 0xF v false = putHomeWord s w 0xF v false := by
    simp only [putHostWord, h.absent, h.still, Option.orElse_none, Bool.false_eq_true, if_false]
  have hn : NoNewBacks s (putHomeWord s w 0xF v false) := noNewBacks_putHomeWord s w _ v false
  have hm : (putHomeWord s w 0xF v false).mem = memPutWord s.mem w 0xF v ∧ (putHomeWord s w 0xF v false).hostLines = s.hostLines := by
    obtain ⟨_, _, _, _, h⟩ := putHomeWord_frame s w 0xF v false
    rw [h]
    exact ⟨rfl, rfl⟩
  obtain ⟨stamps, e'⟩ := homeWrite_host (s := s) h2 v
  rw [e', e]
  refine ⟨⟨?_, hn.not_busy h.still, h.backs.mono hn⟩, hm.1⟩
  show tfind (putHomeWord s w 0xF v false).hostLines _ = none
  rw [hm.2, h.absent]

/-- Else the RDC holds the line then, with the word in it. -/
theorem putHostWord_line (h : tfind s.hostLines (lineBase w) ≠ none ∨ hostBusy s (lineBase w) = true) (hs : WordsOk P s) (v : Word) :
    ∃ l : HostLine, l.vals.length = 32 ∧
      tfind (putHostWord s w 0xF v false).hostLines (lineBase w) = some ⟨.modified, l.vals.set (w % 128 / 4) (v, false)⟩ ∧
      ∀ l', tfind s.hostLines (lineBase w) = some l' → l = l' := by
  have hset (l : HostLine) (t : State) : putHostLine t (lineBase w) ⟨.modified, l.vals.set (w % 128 / 4)
      (mergeBytes 0xF v (l.vals.getD (w % 128 / 4) (0, false)).1, false || ((l.vals.getD (w % 128 / 4) (0, false)).2 && (0xF : BitVec 4) ≠ 0xF))⟩ =
      putHostLine t (lineBase w) ⟨.modified, l.vals.set (w % 128 / 4) (v, false)⟩ := by
    rw [mergeBytes_all]
    simp
  unfold putHostWord
  cases hf : tfind s.hostLines (lineBase w) with
  | some l =>
    simp only [Option.orElse_some]
    refine ⟨l, hs.lines _ (mem_of_tfind hf), ?_, fun l' e => Option.some.inj e⟩
    rw [hset, putHostLine, tfind_tput_same]
  | none =>
    have hb : hostBusy s (lineBase w) = true := h.resolve_left fun hn => hn hf
    simp only [Option.orElse_none, hb, if_true]
    refine ⟨takeHostLine s (lineBase w), hs.length_takeHostLine _, ?_, by simp⟩
    rw [hset, putHostLine, tfind_tput_same]

theorem newest_of_val (h2 : homeOf w ≠ 2) (h : homeSt s w = none) : newest s w = homeWord s w := by
  rw [newest, if_neg h2, ownerOf, h]

theorem InMemory.hostWord (h : InMemory s (lineBase w)) (hw : homeOf w = 2) : hostWord s w = homeWord s w := by
  have hn : s.msgs.reverse.find? (fun m => m.kind == .wb && m.dst == .host && m.names w) = none := by
    rw [List.find?_eq_none]
    intro m hm hp
    simp only [Bool.and_eq_true, beq_iff_eq] at hp
    obtain ⟨⟨hk, hd⟩, hn⟩ := hp
    rw [List.mem_reverse] at hm
    have hb := h.still
    rw [hostBusy, List.any_eq_false] at hb
    exact hb m hm (by simp [hk, hd, h.backs m hm hk hd w hn hw])
  simp only [Machine.hostWord, h.absent, hn, Option.bind_none]

theorem hostWord_line {l : HostLine} (hl : tfind s.hostLines (lineBase w) = some l) :
    hostWord s w = l.vals.getD (w % 128 / 4) (0, false) := by
  simp only [hostWord, hl]

/-- Two words of a line of the host that are written one after the other are there then. -/
theorem hostWord_homeWrites (hP : About P) (hs : WordsOk P s) (hi : BacksInLine s)
    {a b : Nat} (hb : homeOf b = 2) (hl : lineBase a = lineBase b) (hd : a + 4 ≤ b) (x y : Word) :
    let t := homeWrite (homeWrite s b 0xF y false none none) a 0xF x false none none
    (hostWord t a).1 = x ∧ (hostWord t b).1 = y := by
  have ha : homeOf a = 2 := by rw [← homeOf_lineBase, hl, homeOf_lineBase, hb]
  have hi1 : a % 128 / 4 ≠ b % 128 / 4 ∧ a % 128 / 4 < 32 ∧ b % 128 / 4 < 32 := by
    simp only [lineBase] at hl
    omega
  obtain ⟨hne, ha32, hb32⟩ := hi1
  have hu := (shifts_homeWrite hP s b 0xF y false none none).ok hs
  obtain ⟨st1, e1⟩ := homeWrite_host (s := s) hb y
  obtain ⟨st2, e2⟩ := homeWrite_host (s := homeWrite s b 0xF y false none none) ha x
  simp only
  by_cases hA : tfind s.hostLines (lineBase b) ≠ none ∨ hostBusy s (lineBase b) = true
  · obtain ⟨l, hlen, hline, -⟩ := putHostWord_line hA hs y
    have hline' : tfind (homeWrite s b 0xF y false none none).hostLines (lineBase a) = some ⟨.modified, l.vals.set (b % 128 / 4) (y, false)⟩ := by
      rw [hl, e1]
      exact hline
    obtain ⟨l2, -, hline2, he⟩ := putHostWord_line (w := a) (.inl (by rw [hline']; simp)) hu x
    obtain rfl := he _ hline'
    rw [e2]
    constructor
    · rw [hostWord_line (by exact hline2)]
      simp [hlen, ha32]
    · rw [hostWord_line (by rw [← hl]; exact hline2)]
      simp [hlen, hne, hb32]
  · push Not at hA
    obtain ⟨hf, hbusy⟩ := hA
    have hmem : InMemory s (lineBase b) := ⟨hf, by simpa using hbusy, hi⟩
    obtain ⟨hmu, eu⟩ := hmem.homeWrite hb y
    rw [← hl] at hmu
    obtain ⟨hmt, et⟩ := hmu.homeWrite ha x
    have hwf := memPutWord_wf s.mem b 0xF y hs.memory
    rw [hmt.hostWord ha, InMemory.hostWord (hl ▸ hmt) hb]
    simp only [homeWord, et, eu]
    exact ⟨memWord_memPutWord_same _ _ _ hwf, by
      rw [memWord_memPutWord_other _ _ _ _ _ hwf (by omega), memWord_memPutWord_same _ _ _ hs.memory]⟩

/-- Two words written at a home other than the twin read back. -/
theorem readAsEngine_homeWrites (hP : About P) {loc : Nat} (hs : WordsOk P s) (hi : BacksInLine s)
    (h1 : homeOf loc ≠ 1) (h64 : loc % 64 = 0) (lo hi' : Word) :
    (readAsEngine (homeWrites s (loc + 56) [lo, hi'] none) (loc + 56)).1 = lo ∧
      (readAsEngine (homeWrites s (loc + 56) [lo, hi'] none) (loc + 60)).1 = hi' := by
  have e : homeWrites s (loc + 56) [lo, hi'] none =
      homeWrite (homeWrite s (loc + 60) 0xF hi' false none none) (loc + 56) 0xF lo false none none := rfl
  have ha : homeOf (loc + 56) = homeOf loc := by simp only [homeOf]; omega
  have hb : homeOf (loc + 60) = homeOf loc := by simp only [homeOf]; omega
  have hr (t : State) (w : Nat) (hw : homeOf w = homeOf loc) : readAsEngine t w = newest t w := by
    rw [readAsEngine, if_pos (.inl (hw ▸ h1))]
  rw [hr _ _ ha, hr _ _ hb, e]
  by_cases h2 : homeOf loc = 2
  · have hl : lineBase (loc + 56) = lineBase (loc + 60) := by simp only [lineBase]; omega
    simpa only [newest, ha, hb, h2, if_true] using hostWord_homeWrites hP hs hi (hb.trans h2) hl (by omega) lo hi'
  · obtain ⟨hm, hh⟩ := homeWrite_plain (s := s) (hb ▸ h1) (hb ▸ h2) hi'
    obtain ⟨hm', hh'⟩ := homeWrite_plain (s := homeWrite s (loc + 60) 0xF hi' false none none) (ha ▸ h1) (ha ▸ h2) lo
    have hwf := memPutWord_wf s.mem (loc + 60) 0xF hi' hs.memory
    have hval (w : Nat) (hw : w = loc + 56 ∨ w = loc + 60) :
        homeSt (homeWrite (homeWrite s (loc + 60) 0xF hi' false none none) (loc + 56) 0xF lo false none none) w = none := by
      rw [homeSt, hh', hh, tfind_tdel, tfind_tdel]
      rcases hw with rfl | rfl <;> simp
    rw [newest_of_val (ha ▸ h2) (hval _ (.inl rfl)), newest_of_val (hb ▸ h2) (hval _ (.inr rfl))]
    simp only [homeWord, hm', hm]
    refine ⟨memWord_memPutWord_same _ _ _ hwf, ?_⟩
    rw [memWord_memPutWord_other _ _ _ _ _ hwf (by omega), memWord_memPutWord_same _ _ _ hs.memory]

end

end Sys2Proof.Machine
end

section
/-!
How a command ends, and how the command at the ring's head is taken (R288, R289).
-/

namespace Sys2Proof.Machine

/-- The state apart from words, translations, reports, and the host's commands with what ends them. -/
def beyondCmds (s : State) : State := { work s with cmds := [], cmdEnds := [], irqs := [] }

/-- A change of words and of the host's commands alone. -/
structure Ends (P : Msg → Prop) (s t : State) : Prop extends Sends P s t where
  beyond : beyondCmds t = beyondCmds s

section
variable {P : Msg → Prop} {s t u : State} {c d : HostCmd}

theorem Ends.refl (s : State) : Ends P s s := ⟨Sends.refl s, rfl⟩

theorem Ends.trans (h : Ends P s t) (h' : Ends P t u) : Ends P s u := ⟨h.toSends.trans h'.toSends, h'.beyond.trans h.beyond⟩

theorem Ends.foldl {α : Type} {f : State → α → State} {l : List α} (h : ∀ a ∈ l, ∀ t, Ends P t (f t a)) (s : State) :
    Ends P s (l.foldl f s) := by
  induction l generalizing s with
  | nil => exact Ends.refl s
  | cons a l ih => exact (h a List.mem_cons_self s).trans (ih (fun b hb => h b (List.mem_cons_of_mem a hb)) _)

theorem Ends.of_eq (hl : t.hostLines = s.hostLines) (hm : t.mem = s.mem) (hs : t.msgs = s.msgs) (hq : t.msgSeq = s.msgSeq)
    (hb : beyondCmds t = beyondCmds s) : Ends P s t := ⟨Sends.of_eq hl hm hs hq, hb⟩

/-- What a change of words leaves alone. -/
theorem Shifts.get {α : Sort*} (h : Shifts P s t) (f : State → α) (hf : ∀ s, f (Machine.work s) = f s) : f t = f s := by
  rw [← hf t, h.work, hf]

theorem Shifts.ends (h : Shifts P s t) : Ends P s t :=
  ⟨h.toSends, congrArg (fun u : State => { u with cmds := [], cmdEnds := [], irqs := [] }) h.work⟩

/-- What such a change leaves alone. -/
theorem Ends.get {α : Sort*} (h : Ends P s t) (f : State → α) (hf : ∀ s, f (beyondCmds s) = f s) : f t = f s := by
  rw [← hf t, h.beyond, hf]

theorem Ends.barWord (h : Ends P s t) (off : Nat) : barWord t off = barWord s off := h.get (Machine.barWord · off) fun _ => rfl

theorem Ends.ctxs (h : Ends P s t) : t.ctxs = s.ctxs := h.get State.ctxs fun _ => rfl

theorem Ends.ctxOf (h : Ends P s t) (ctx : Nat) : ctxOf t ctx = ctxOf s ctx := h.get (Machine.ctxOf · ctx) fun _ => rfl

theorem Ends.workKept (h : Ends P s t) : Claims.WorkKept s t where
  groups := h.get State.groups fun _ => rfl
  teams := h.get State.teams fun _ => rfl
  grids := h.get State.grids fun _ => rfl
  rays := h.get State.rays fun _ => rfl
  units := ⟨h.get State.engines fun _ => rfl, h.get State.quads fun _ => rfl⟩
  tiles := ⟨h.get State.tiles fun _ => rfl, h.get State.treelets fun _ => rfl⟩
  sync := ⟨h.get State.syncTab fun _ => rfl, h.get State.syncOps fun _ => rfl⟩

/-! ## The end of a command -/

theorem ends_writeEnd (hP : About P) (s : State) (e : CmdEnd) : Ends P s (writeEnd s e) := by
  unfold writeEnd
  simp only
  split
  · exact (shifts_homeWrites hP s _ _ _).ends.trans (Ends.of_eq rfl rfl rfl rfl rfl)
  · exact (shifts_homeWrites hP s _ _ _).ends

theorem ends_settleEnds (hP : About P) (s : State) : Ends P s (settleEnds s) := by
  unfold settleEnds
  refine Ends.trans ?_ (Ends.foldl (fun e _ t => ends_writeEnd hP t e) _)
  exact Ends.of_eq rfl rfl rfl rfl rfl

/-- The state in which a command's end joins those that wait. -/
def ending (s : State) (c : HostCmd) (status result : Nat) : State :=
  let s := unitRelease { s with cmds := s.cmds.filter fun x => x ≠ c } c.ctx 5
  { s with cmdEnds := s.cmdEnds ++ [⟨c, status, result, s.msgSeq⟩] }

theorem finishCmd_eq (s : State) (c : HostCmd) (status result : Nat) :
    finishCmd s c status result = settleEnds (ending s c status result) := rfl

theorem ends_ending (hP : About P) (s : State) (c : HostCmd) (status result : Nat) : Ends P s (ending s c status result) := by
  have hr : Ends P s (unitRelease { s with cmds := s.cmds.filter fun x => x ≠ c } c.ctx 5) := by
    refine Ends.trans ?_ (shifts_releaseRdc hP _ _ _).ends
    exact Ends.of_eq rfl rfl rfl rfl rfl
  refine hr.trans ?_
  exact Ends.of_eq rfl rfl rfl rfl rfl

theorem ends_finishCmd (hP : About P) (s : State) (c : HostCmd) (status result : Nat) : Ends P s (finishCmd s c status result) :=
  (ends_ending hP s c status result).trans (ends_settleEnds hP _)

theorem cmds_writeEnd (s : State) (e : CmdEnd) :
    (writeEnd s e).cmds = s.cmds ∧ (writeEnd s e).cmdEnds = s.cmdEnds ∧
      (writeEnd s e).irqs = if e.cmd.irq then (barWord s 0x110).toNat % 2048 :: s.irqs else s.irqs := by
  have h := shifts_homeWrites about_foreign s (e.cmd.loc + 56) [loWord e.word7, hiWord e.word7] none
  have hb := h.ends.barWord 0x110
  have hi := h.get State.irqs fun _ => rfl
  have hc := h.get State.cmds fun _ => rfl
  have he := h.get State.cmdEnds fun _ => rfl
  unfold writeEnd
  simp only [hb]
  split
  · exact ⟨hc, he, congrArg _ hi⟩
  · exact ⟨hc, he, hi⟩

theorem loWord_word7 (e : CmdEnd) : loWord e.word7 = BitVec.ofNat 32 (e.result * 2 ^ 16 + e.status) := by
  apply BitVec.eq_of_toNat_eq
  simp only [loWord, CmdEnd.word7, BitVec.extractLsb'_toNat, BitVec.toNat_ofNat]
  omega

theorem hiWord_word7 {e : CmdEnd} (h : e.result * 2 ^ 16 + e.status < 2 ^ 32) : hiWord e.word7 = 0x80000000 := by
  apply BitVec.eq_of_toNat_eq
  have hn : (0x80000000 : Word).toNat = 2 ^ 31 := rfl
  simp only [hn, hiWord, CmdEnd.word7, BitVec.extractLsb'_toNat, BitVec.toNat_ofNat, Nat.shiftRight_eq_div_pow]
  omega

/-- Word 7 as it is written reads back. -/
theorem readAsEngine_writeEnd (hP : About P) (hs : WordsOk P s) (hi : BacksInLine s) {e : CmdEnd} (h1 : homeOf e.cmd.loc ≠ 1)
    (h64 : e.cmd.loc % 64 = 0) (h : e.result * 2 ^ 16 + e.status < 2 ^ 32) :
    (readAsEngine (writeEnd s e) (e.cmd.loc + 56)).1 = BitVec.ofNat 32 (e.result * 2 ^ 16 + e.status) ∧
      (readAsEngine (writeEnd s e) (e.cmd.loc + 60)).1 = 0x80000000 := by
  have hw (w : Nat) : readAsEngine (writeEnd s e) w =
      readAsEngine (homeWrites s (e.cmd.loc + 56) [loWord e.word7, hiWord e.word7] none) w := by
    unfold writeEnd
    simp only
    split
    · exact SameWords.readAsEngine ⟨rfl, rfl, rfl, rfl, rfl, rfl, rfl, rfl⟩ w
    · rfl
  rw [hw, hw, ← hiWord_word7 h, ← loWord_word7]
  exact readAsEngine_homeWrites hP hs hi h1 h64 _ _

/-! ## Nothing waits for a release -/

/-- Nothing waits for a release, and the words are in order. -/
structure Calm (s : State) : Prop where
  settled : Claims.Settled s
  ok : WordsOk Foreign s

/-- What decides it. -/
theorem Calm.congr (h : Calm s) (hl : t.hostLines = s.hostLines) (hm : t.mem = s.mem) (hs : t.msgs = s.msgs) (hq : t.msgSeq = s.msgSeq)
    (hr : t.rdc = s.rdc) (hw : t.isW = s.isW) (hu : t.twinUp = s.twinUp) (he : t.cmdEnds = s.cmdEnds) : Calm t where
  settled := ⟨he ▸ h.settled.ends, by
    simpa only [unitReleased, rdcOut, regsOut, atqOut, hl, hs, hq, hr, hw, hu] using h.settled.still, hs ▸ h.settled.host⟩
  ok := (Sends.of_eq hl hm hs hq).ok h.ok

theorem Calm.backsInLine (h : Calm s) : BacksInLine s := fun m hm hk hd => absurd hd (h.settled.host m hm hk)

theorem registerWords_nil (s : State) (who : Agent) (ctx : Option Nat) : registerWords s who ctx [] = s := rfl

/-- A release that has nothing to do does nothing. -/
theorem releaseRdc_released (h : unitReleased s 5 = true) (ctx : Option Nat) : releaseRdc s ctx 5 = s := by
  simp only [unitReleased, Bool.or_eq_true, Bool.and_eq_true, decide_eq_true_eq, List.all_eq_true, bne_iff_ne, ne_eq,
    Bool.not_eq_true', (by decide : ¬ (5 : Nat) < 4), (by decide : ¬ (5 : Nat) < 5), false_or] at h
  obtain ⟨⟨-, hr⟩, hl⟩ := h
  have hlines : s.hostLines.filter (fun e => e.2.st == .modified) = [] := by simpa [List.filter_eq_nil_iff] using hl
  have hfirst : (if 4 ≤ 5 && s.isW && s.twinUp then registerWords s .rdc ctx (s.rdc.filter fun e => e.2.st == .drt) else s) = s := by
    split
    · rename_i hup
      have hrdc : s.rdc.filter (fun e => e.2.st == .drt) = [] := by
        simp only [List.filter_eq_nil_iff, beq_iff_eq]
        refine hr.resolve_left ?_
        simpa [Bool.and_assoc] using hup
      rw [hrdc, registerWords_nil]
    · rfl
  rw [releaseRdc]
  simp only [hfirst, hlines, List.foldl_nil]
  rfl

theorem settleEnds_single {e : CmdEnd} (he : s.cmdEnds = [e]) (ho : rdcOut s e.mark = false) :
    settleEnds s = writeEnd { s with cmdEnds := [] } e := by
  simp [settleEnds, he, ho]

/-- A command that ends while nothing waits for a release has its word 7 written at once. -/
theorem finishCmd_calm (h : Calm s) (c : HostCmd) (status result : Nat) : finishCmd s c status result =
    writeEnd { s with cmds := s.cmds.filter fun x => x ≠ c, cmdEnds := [] } ⟨c, status, result, s.msgSeq⟩ := by
  have hc : Calm { s with cmds := s.cmds.filter fun x => x ≠ c } := h.congr rfl rfl rfl rfl rfl rfl rfl rfl
  have ho : rdcOut s s.msgSeq = false := by
    have := h.settled.still
    simp only [unitReleased, Bool.or_eq_true, Bool.and_eq_true, decide_eq_true_eq, Bool.not_eq_true',
      (by decide : ¬ (5 : Nat) < 4), false_or] at this
    exact this.1.1
  rw [finishCmd, unitRelease, releaseRdc_released hc.settled.still]
  exact settleEnds_single (by simp [h.settled.ends]) ho

/-- A command ends while nothing waits for a release: what its start has left, `u`, and what it has been since, `d`. -/
structure Ready (s u : State) (c d : HostCmd) : Prop where
  calm : Calm u
  home : homeOf c.loc ≠ 1
  place : c.loc % 64 = 0
  same : d.loc = c.loc ∧ d.irq = c.irq
  taken : barWord u 0x10C = barWord s 0x10C + 1
  vector : barWord u 0x110 = barWord s 0x110
  irqs : u.irqs = s.irqs
  gone : c ∉ u.cmds.filter fun x => x ≠ d
  others : (∀ x ∈ u.cmds.filter fun x => x ≠ d, x ∈ s.cmds) ∧ ∀ x ∈ s.cmds, x.loc ≠ c.loc → x ∈ u.cmds.filter fun x => x ≠ d

theorem Ready.completed (h : Ready s u c d) {status result : Nat} (hb : result * 2 ^ 16 + status < 2 ^ 32) :
    Claims.Completed s (finishCmd u d status result) c status result := by
  have he := ends_finishCmd about_foreign u d status result
  have hcalm : Calm { u with cmds := u.cmds.filter fun x => x ≠ d, cmdEnds := [] } :=
    h.calm.congr rfl rfl rfl rfl rfl rfl rfl h.calm.settled.ends.symm
  obtain ⟨hloc, hirq⟩ := h.same
  have hk : (0x10C : Nat) = 268 := rfl
  rw [finishCmd_calm h.calm] at he ⊢
  obtain ⟨hc, -, hi⟩ := cmds_writeEnd { u with cmds := u.cmds.filter fun x => x ≠ d, cmdEnds := [] } ⟨d, status, result, u.msgSeq⟩
  obtain ⟨hlo, hhi⟩ := readAsEngine_writeEnd about_foreign hcalm.ok hcalm.backsInLine (e := ⟨d, status, result, u.msgSeq⟩)
    (hloc ▸ h.home) (hloc ▸ h.place) hb
  rw [hloc] at hlo hhi
  refine ⟨by rw [hc]; exact h.gone, by rw [hc]; exact h.others, by rw [he.barWord, h.taken], hlo, hhi, ?_⟩
  rw [hi, hirq]
  show (if c.irq = true then (barWord u 0x110).toNat % 2048 :: u.irqs else u.irqs) = _
  rw [h.vector, h.irqs]

/-! ## The command at the ring's head -/

theorem rdcOut_marks {mark : Msg → Msg} (hmark : ∀ m, SameButVoid m (mark m)) (hs : t.msgs = s.msgs.map mark) (k : Nat) :
    rdcOut t k = rdcOut s k := by
  simp only [rdcOut, regsOut, atqOut, hs, List.any_map, Function.comp_def, (hmark _).src, (hmark _).dst, (hmark _).kind,
    (hmark _).form, (hmark _).serial, (hmark _).tag, (hmark _).vals, (hmark _).addr]

/-- The acquire with which a command is read leaves nothing waiting for a release. -/
theorem settled_engineAcquire (h : Claims.Settled s) : Claims.Settled (engineAcquire s 5) := by
  obtain ⟨mark, hmark, hmsgs⟩ : ∃ mark : Msg → Msg, (∀ m, SameButVoid m (mark m)) ∧
      (Machine.engineAcquire s 5).msgs = s.msgs.map mark := ⟨_, fun m => sameButVoid_mark m _, rfl⟩
  refine ⟨h.ends, ?_, ?_⟩
  · have hs := h.still
    have ho : rdcOut (Machine.engineAcquire s 5) s.msgSeq = rdcOut s s.msgSeq := rdcOut_marks hmark hmsgs _
    simp only [unitReleased, Bool.or_eq_true, Bool.and_eq_true, decide_eq_true_eq, List.all_eq_true, Bool.not_eq_true',
      (by decide : ¬ (5 : Nat) < 4), (by decide : ¬ (5 : Nat) < 5), false_or] at hs ⊢
    obtain ⟨⟨hout, hrdc⟩, hlines⟩ := hs
    refine ⟨⟨ho.trans hout, hrdc.imp_right fun hall e he => ?_⟩, fun e he => hlines e (List.mem_of_mem_filter he)⟩
    obtain ⟨x, hx, hxe⟩ := List.mem_filterMap.mp he
    have := hall x hx
    split at hxe
    · exact Option.some.inj hxe ▸ this
    · split at hxe
      · cases hxe
      · exact Option.some.inj hxe ▸ this
      · exact Option.some.inj hxe ▸ this
  · intro m hm hk
    rw [hmsgs] at hm
    obtain ⟨n, hn, rfl⟩ := List.mem_map.mp hm
    rw [(hmark n).dst]
    exact h.host n hn ((hmark n).kind ▸ hk)

/-- The state with the command at the ring's head taken. -/
def cmdTaken (s : State) (c : HostCmd) : State := startCmdAt (engineAcquire s 5) c

theorem shifts_engineAcquire (s : State) : Shifts Foreign s (engineAcquire s 5) := by
  refine ⟨Sends.trans (t := { engineAcquire s 5 with msgs := s.msgs }) ?_
    (Sends.of_marks (fun m => sameButVoid_mark m _) about_foreign rfl rfl rfl rfl), rfl⟩
  exact ⟨fun h => ⟨fun e he => h.lines e (List.mem_of_mem_filter he), h.memory, h.backs⟩, Nat.le_refl _, fun _ h => h⟩

theorem calm_cmdTaken (h : Claims.HeadStands s c) : Calm (cmdTaken s c) :=
  Calm.congr (s := engineAcquire s 5) ⟨settled_engineAcquire h.settled, (shifts_engineAcquire s).ok
    ⟨h.lines, h.memory, fun m hm hk hd => absurd hd (h.settled.host m hm hk)⟩⟩ rfl rfl rfl rfl rfl rfl rfl rfl

theorem barWord_cmdTaken (s : State) (c : HostCmd) (off : Nat) :
    barWord (cmdTaken s c) off = if off / 4 = 0x10C / 4 then barWord s 0x10C + 1 else barWord s off := by
  have e : BitVec.ofNat 32 (cmdKrd s + 1) = barWord s 0x10C + 1 := by
    apply BitVec.eq_of_toNat_eq
    simp [cmdKrd]
  rw [← e]
  exact barWord_putBar (engineAcquire s 5) 0x10C off _

/-- The command at the ring's head may end in a state that its start has led to. -/
theorem ready_of_taken (h : Claims.HeadStands s c) (hc : Calm u) (hb : ∀ off, off < 0x1000 → barWord u off = barWord (cmdTaken s c) off)
    (hi : u.irqs = s.irqs) (hm : u.cmds = s.cmds ++ [c]) : Ready s u c c where
  calm := hc
  home := h.home
  place := h.place
  same := ⟨rfl, rfl⟩
  taken := by rw [hb _ (by decide), barWord_cmdTaken, if_pos rfl]
  vector := by rw [hb _ (by decide), barWord_cmdTaken, if_neg (by decide)]
  irqs := hi
  gone := by simp
  others := by
    simp only [hm, List.mem_filter, List.mem_append, List.mem_singleton, decide_eq_true_eq]
    exact ⟨fun x hx => hx.1.resolve_right hx.2, fun x hx hl => ⟨.inl hx, fun e => hl (e ▸ rfl)⟩⟩

theorem takeCmd_head {want : State → HostCmd → Bool} (h : Claims.HeadIs s c) (hw : want (engineAcquire s 5) c = true)
    (k : State → HostCmd → State) : takeCmd s want k = .next (skipIdles (if badCmd c then finishCmd (cmdTaken s c) c 2 0
      else if c.code ≠ 1 ∧ (ctxOf s c.ctx).live = false then finishCmd (cmdTaken s c) c 3 0 else k (cmdTaken s c) c)) := by
  unfold takeCmd
  simp only [h.pending, h.inMemory, h.read, hw, Bool.not_true, Bool.false_eq_true, if_false, if_true]
  rfl

theorem takeCmd_proper {want : State → HostCmd → Bool} (h : Claims.Proper s c) (hw : want (engineAcquire s 5) c = true)
    (k : State → HostCmd → State) : takeCmd s want k = .next (skipIdles (k (cmdTaken s c) c)) := by
  rw [takeCmd_head h.toHeadIs hw, if_neg (by simp [h.good]), if_neg (by simp [h.live])]

theorem onCode_stands (h : Claims.HeadStands s c) (hg : badCmd c = false) (hl : c.code = 1 ∨ (ctxOf s c.ctx).live = true)
    (k : State → HostCmd → State) : onCode c.code s k = .next (skipIdles (k (cmdTaken s c) c)) := by
  rw [Machine.onCode, takeCmd_head h.toHeadIs (by simp), if_neg (by simp [hg]), if_neg (by rcases hl with hl | hl <;> simp [hl])]

theorem workKept_cmdTaken (s : State) (c : HostCmd) : Claims.WorkKept s (cmdTaken s c) :=
  ⟨rfl, rfl, rfl, rfl, ⟨rfl, rfl⟩, ⟨rfl, rfl⟩, ⟨rfl, rfl⟩⟩

theorem workKept_trans (h : Claims.WorkKept s t) (h' : Claims.WorkKept t u) : Claims.WorkKept s u where
  groups := h'.groups.trans h.groups
  teams := h'.teams.trans h.teams
  grids := h'.grids.trans h.grids
  rays := h'.rays.trans h.rays
  units := ⟨h'.units.1.trans h.units.1, h'.units.2.trans h.units.2⟩
  tiles := ⟨h'.tiles.1.trans h.tiles.1, h'.tiles.2.trans h.tiles.2⟩
  sync := ⟨h'.sync.1.trans h.sync.1, h'.sync.2.trans h.sync.2⟩

/-- The command at the ring's head ends and does nothing else. -/
theorem endsAs_of_taken (h : Claims.HeadStands s c) {i : Instr} {status result : Nat} (hb : result * 2 ^ 16 + status < 2 ^ 32)
    (he : exec i s = .next (skipIdles (finishCmd (cmdTaken s c) c status result))) : Claims.EndsAs i s c status result := by
  have hf := ends_finishCmd about_foreign (cmdTaken s c) c status result
  refine ⟨_, he, (ready_of_taken h (calm_cmdTaken h) (fun _ _ => rfl) rfl rfl).completed hb, workKept_trans (workKept_cmdTaken s c) hf.workKept, hf.ctxs, fun off ho => ?_⟩
  rw [hf.barWord, barWord_cmdTaken, if_neg ho]

end

end Sys2Proof.Machine
end

section
/-!
CTXCREATE and the parts of a SETCTX (R289, R290).
-/

namespace Sys2Proof.Machine

section
variable {s t u : State} {c : HostCmd}

/-! ## A context's block and settings -/

theorem tfind_filter_out {α : Type} (t : Tbl α) (p : Nat → Bool) (k : Nat) (h : p k = false) :
    tfind (t.filter fun e => p e.1) k = none := by
  induction t with
  | nil => rfl
  | cons e t ih =>
    by_cases hk : e.1 = k
    · simp [hk, h, ih]
    · cases hp : p e.1 <;> simp [hp, tfind, hk, ih]

theorem barWord_clearBlock_in (s : State) {ctx o : Nat} (h : o < 1024) :
    barWord (clearBlock s ctx) (0x10000 + 1024 * ctx + o) = barReset (0x10000 + 1024 * ctx + o) := by
  have hf := tfind_filter_out s.bar (fun k => !(decide (ctxBlock ctx ≤ 4 * k) && decide (4 * k < ctxBlock ctx + 1024)))
    ((0x10000 + 1024 * ctx + o) / 4)
    (by
      simp only [Bool.not_eq_false', Bool.and_eq_true, decide_eq_true_eq]
      unfold ctxBlock
      omega)
  rw [barWord, tget]
  exact congrArg (Option.getD · _) hf

theorem barWord_clearBlock_out (s : State) {ctx off : Nat} (h : off < 0x10000) : barWord (clearBlock s ctx) off = barWord s off := by
  have hf := tfind_filter_key s.bar (fun k => !(decide (ctxBlock ctx ≤ 4 * k) && decide (4 * k < ctxBlock ctx + 1024)))
    (off / 4) (by
      simp only [Bool.not_eq_true', Bool.and_eq_false_iff, decide_eq_false_iff_not]
      unfold ctxBlock
      omega)
  rw [barWord, barWord, tget, tget]
  exact congrArg (Option.getD · _) hf

theorem ctxOf_updCtx_same (s : State) (ctx : Nat) (f : Ctx → Ctx) : ctxOf (updCtx s ctx f) ctx = f (ctxOf s ctx) := by
  simp [ctxOf]

theorem ctxOf_updCtx_other (s : State) {ctx other : Nat} (f : Ctx → Ctx) (h : other ≠ ctx) :
    ctxOf (updCtx s ctx f) other = ctxOf s other := by
  simp [ctxOf, tget_tput_other _ _ _ _ _ h]

/-- Off what a part of a SETCTX writes. -/
def offSettings (s : State) : State := { s with ctxs := [], bar := [], runs := [], frontier := [], syncTab := [] }

/-- A change of the settings of one context, and of its block, alone. -/
structure Sets (ctx : Nat) (s t : State) : Prop where
  off : offSettings t = offSettings s
  others : ∀ x, x ≠ ctx → ctxOf t x = ctxOf s x
  bar : ∀ o, o < 0x10000 → barWord t o = barWord s o

theorem Sets.refl (ctx : Nat) (s : State) : Sets ctx s s := ⟨rfl, fun _ _ => rfl, fun _ _ => rfl⟩

theorem Sets.trans {ctx : Nat} (h : Sets ctx s t) (h' : Sets ctx t u) : Sets ctx s u :=
  ⟨h'.off.trans h.off, fun x hx => (h'.others x hx).trans (h.others x hx), fun o ho => (h'.bar o ho).trans (h.bar o ho)⟩

theorem Sets.get {ctx : Nat} {α : Sort*} (h : Sets ctx s t) (f : State → α) (hf : ∀ s, f (offSettings s) = f s) : f t = f s := by
  rw [← hf t, h.off, hf]

theorem Sets.calm {ctx : Nat} (h : Sets ctx s t) (hc : Calm s) : Calm t :=
  hc.congr (h.get State.hostLines fun _ => rfl) (h.get State.mem fun _ => rfl) (h.get State.msgs fun _ => rfl)
    (h.get State.msgSeq fun _ => rfl) (h.get State.rdc fun _ => rfl) (h.get State.isW fun _ => rfl) (h.get State.twinUp fun _ => rfl)
    (h.get State.cmdEnds fun _ => rfl)

theorem Sets.workKept {ctx : Nat} (h : Sets ctx s t) (hs : t.syncTab = s.syncTab) : Claims.WorkKept s t where
  groups := h.get State.groups fun _ => rfl
  teams := h.get State.teams fun _ => rfl
  grids := h.get State.grids fun _ => rfl
  rays := h.get State.rays fun _ => rfl
  units := ⟨h.get State.engines fun _ => rfl, h.get State.quads fun _ => rfl⟩
  tiles := ⟨h.get State.tiles fun _ => rfl, h.get State.treelets fun _ => rfl⟩
  sync := ⟨hs, h.get State.syncOps fun _ => rfl⟩

/-- The command at the ring's head may end after a change of its context's settings. -/
theorem Sets.ready {ctx : Nat} (hs : Sets ctx (cmdTaken s c) u) (h : Claims.HeadStands s c) : Ready s u c c :=
  ready_of_taken h (hs.calm (calm_cmdTaken h)) (fun off ho => hs.bar off (by omega)) (hs.get State.irqs fun _ => rfl)
    (hs.get State.cmds fun _ => rfl)

theorem sets_clearBlock (s : State) (ctx : Nat) : Sets ctx s (clearBlock s ctx) :=
  ⟨rfl, fun _ _ => rfl, fun _ ho => barWord_clearBlock_out s ho⟩

theorem sets_updCtx (s : State) (ctx : Nat) (f : Ctx → Ctx) : Sets ctx s (updCtx s ctx f) :=
  ⟨rfl, fun _ hx => ctxOf_updCtx_other s f hx, fun _ _ => rfl⟩

theorem sets_putBar (s : State) {ctx off : Nat} (v : Word) (h : 0x10000 ≤ off) : Sets ctx s (putBar s off v) :=
  ⟨rfl, fun _ _ => rfl, fun o ho => by rw [barWord_putBar, if_neg (by omega)]⟩

theorem sets_putCtx (s : State) (ctx off : Nat) (v : Word) : Sets ctx s (putCtx s ctx off v) :=
  (sets_updCtx s ctx _).trans (sets_putBar _ v (by simp only [ctxBlock]; omega))

/-! ## CTXCREATE -/

/-- The state with a context made live. -/
def created (s : State) (ctx : Nat) : State := updCtx (clearBlock s ctx) ctx fun _ => { noCtx with live := true }

theorem sets_created (s : State) (ctx : Nat) : Sets ctx s (created s ctx) := (sets_clearBlock s ctx).trans (sets_updCtx _ ctx _)

theorem ctxcreate_creates (h : Claims.HeadStands s c) (hc : c.code = 1) (hg : badCmd c = false) :
    ((ctxOf s c.ctx).live = true → Claims.EndsAs .ctxcreate s c 5 0) ∧
    ((ctxOf s c.ctx).live = false → ∃ t, exec .ctxcreate s = .next (skipIdles t) ∧ Claims.Completed s t c 0 0 ∧ Claims.WorkKept s t ∧
      (ctxOf t c.ctx).live = true ∧ (∀ o, ctxWord t c.ctx o = ctxReset o) ∧ (ctxOf t c.ctx).nextGrid = 0 ∧
      (∀ o, o < 1024 → barWord t (0x10000 + 1024 * c.ctx + o) = barReset (0x10000 + 1024 * c.ctx + o)) ∧
      ∀ ctx, ctx ≠ c.ctx → ctxOf t ctx = ctxOf s ctx) := by
  have he : exec .ctxcreate s = .next (skipIdles (if (ctxOf s c.ctx).live then finishCmd (cmdTaken s c) c 5 0
      else finishCmd (created (cmdTaken s c) c.ctx) c 0 0)) := by
    have := onCode_stands h hg (.inl hc) fun s c => if (ctxOf s c.ctx).live then finishCmd s c 5 0 else finishCmd (created s c.ctx) c 0 0
    rw [hc] at this
    exact this
  constructor
  · intro hl
    rw [hl, if_pos rfl] at he
    exact endsAs_of_taken h (by decide) he
  · intro hl
    rw [hl, if_neg (by simp)] at he
    have hf := ends_finishCmd about_foreign (created (cmdTaken s c) c.ctx) c 0 0
    have hs := sets_created (cmdTaken s c) c.ctx
    have hx : ctxOf (created (cmdTaken s c) c.ctx) c.ctx = { noCtx with live := true } := ctxOf_updCtx_same _ _ _
    refine ⟨_, he, (hs.ready h).completed (by decide),
      workKept_trans (workKept_cmdTaken s c) (workKept_trans (hs.workKept rfl) hf.workKept),
      ?_, fun o => ?_, ?_, fun o ho => ?_, fun ctx hne => ?_⟩
    · rw [hf.ctxOf, hx]
    · rw [ctxWord, hf.ctxOf, hx]
      rfl
    · rw [hf.ctxOf, hx]
      rfl
    · rw [hf.barWord]
      exact barWord_clearBlock_in (cmdTaken s c) ho
    · rw [hf.ctxOf, hs.others _ hne]
      rfl

/-! ## The words of a part -/

theorem ctxWord_putCtx (s : State) (ctx off o : Nat) (v : Word) :
    ctxWord (putCtx s ctx off v) ctx o = if o / 4 = off / 4 then v else ctxWord s ctx o := by
  have h : (ctxOf (putCtx s ctx off v) ctx).active = tput (ctxOf s ctx).active (off / 4) v := by
    simp only [putCtx, ctxOf, putBar_ctxs, updCtx_ctxs, tget_tput_same]
  rw [ctxWord, h]
  exact tget_tput _ _ _ _ _

theorem barWord_putCtx (s : State) (ctx off n : Nat) (v : Word) :
    barWord (putCtx s ctx off v) n = if n / 4 = (ctxBlock ctx + off) / 4 then v else barWord s n := barWord_putBar _ _ _ _

/-- A change of the settings of one context that leaves its words but for some alone. -/
structure SetsAt (ks : List Nat) (ctx : Nat) (s t : State) : Prop extends Sets ctx s t where
  words : ∀ o, o / 4 ∉ ks → ctxWord t ctx o = ctxWord s ctx o

section
variable {ks : List Nat} {ctx : Nat}

theorem SetsAt.refl (s : State) : SetsAt ks ctx s s := ⟨Sets.refl ctx s, fun _ _ => rfl⟩

theorem SetsAt.trans (h : SetsAt ks ctx s t) (h' : SetsAt ks ctx t u) : SetsAt ks ctx s u :=
  ⟨h.toSets.trans h'.toSets, fun o ho => (h'.words o ho).trans (h.words o ho)⟩

theorem SetsAt.mono {ks' : List Nat} (h : SetsAt ks ctx s t) (hk : ∀ k ∈ ks, k ∈ ks') : SetsAt ks' ctx s t :=
  ⟨h.toSets, fun o ho => h.words o fun h => ho (hk _ h)⟩

theorem SetsAt.of_eq (hc : t.ctxs = s.ctxs) (hb : t.bar = s.bar) (ho : offSettings t = offSettings s) : SetsAt ks ctx s t :=
  ⟨⟨ho, fun _ _ => by rw [ctxOf, ctxOf, hc], fun _ _ => by rw [barWord, barWord, hb]⟩, fun _ _ => by rw [ctxWord, ctxWord, ctxOf, ctxOf, hc]⟩

theorem setsAt_putCtx (s : State) {off : Nat} (h : off / 4 ∈ ks) (v : Word) : SetsAt ks ctx s (putCtx s ctx off v) :=
  ⟨sets_putCtx s ctx off v, fun o ho => by rw [ctxWord_putCtx, if_neg fun (e : o / 4 = off / 4) => ho (e ▸ h)]⟩

theorem setsAt_updCtx (s : State) {f : Ctx → Ctx} (hf : (f (ctxOf s ctx)).active = (ctxOf s ctx).active) :
    SetsAt ks ctx s (updCtx s ctx f) :=
  ⟨sets_updCtx s ctx f, fun o _ => by rw [ctxWord, ctxOf_updCtx_same, hf, ctxWord]⟩

theorem SetsAt.ite {p : Prop} [Decidable p] (h : SetsAt ks ctx s t) (h' : SetsAt ks ctx s u) : SetsAt ks ctx s (if p then t else u) := by
  split
  · exact h
  · exact h'

/-- What takes effect as a log part changes touches STAT and RPTR alone among the settings. -/
theorem setsAt_startLog (s : State) (ctx : Nat) : SetsAt [0x5C / 4, 0x50 / 4] ctx s (startLog s ctx) := by
  have h1 := ((setsAt_putCtx (ctx := ctx) s (ks := [0x5C / 4, 0x50 / 4]) (off := 0x5C) (by simp) 0).trans
    (setsAt_putCtx _ (off := 0x50) (by simp) (ctxWord s ctx 0x4C)))
  have hstat (t : State) : SetsAt [0x5C / 4, 0x50 / 4] ctx t (setStat t ctx 2 true) := setsAt_putCtx t (by simp) _
  unfold startLog
  dsimp only
  generalize hm : updCtx _ ctx _ = m
  have h2 : SetsAt [0x5C / 4, 0x50 / 4] ctx s m := by
    rw [← hm]
    refine SetsAt.trans (h1.trans ?_) (setsAt_updCtx _ ?_)
    · exact SetsAt.of_eq rfl rfl rfl
    · rfl
  refine SetsAt.ite (SetsAt.trans ?h (hstat _)) ?h
  case h =>
    split
    · exact h2.trans (SetsAt.of_eq rfl rfl rfl)
    · exact h2

theorem partWords_aligned {bit o : Nat} (h : o ∈ partWords bit) : o % 4 = 0 := by
  have : ∀ b < 7, ∀ o ∈ partWords b, o % 4 = 0 := by decide
  by_cases hb : bit < 7
  · exact this bit hb o h
  · refine this 6 (by decide) o ?_
    obtain ⟨n, rfl⟩ := Nat.exists_eq_add_of_le (Nat.le_of_not_lt hb)
    rwa [show 7 + n = n + 1 + 6 by omega] at h

/-- The words of a list take effect as they are staged. -/
def takeStaged (ctx : Nat) (l : List Nat) (s : State) : State := l.foldl (fun s o => putCtx s ctx o (staged s ctx o)) s

theorem staged_putCtx (s : State) {o a : Nat} (ho : o % 4 = 0) (ha : a % 4 = 0) :
    staged (putCtx s ctx a (staged s ctx a)) ctx o = staged s ctx o := by
  rw [staged, barWord_putCtx]
  split
  · rename_i e
    have : o = a := by
      simp only [ctxBlock] at e
      omega
    rw [this]
  · rfl

theorem setsAt_takeStaged {l : List Nat} (s : State) (hl : ∀ o ∈ l, o % 4 = 0) :
    SetsAt (l.map (· / 4)) ctx s (takeStaged ctx l s) ∧ (takeStaged ctx l s).syncTab = s.syncTab ∧
      ∀ o ∈ l, ctxWord (takeStaged ctx l s) ctx o = staged s ctx o := by
  induction l generalizing s with
  | nil => exact ⟨SetsAt.refl s, rfl, by simp⟩
  | cons a l ih =>
    have ha := hl a List.mem_cons_self
    have hl' : ∀ o ∈ l, o % 4 = 0 := fun o ho => hl o (List.mem_cons_of_mem a ho)
    obtain ⟨hs, hy, hw⟩ := ih (putCtx s ctx a (staged s ctx a)) hl'
    refine ⟨(setsAt_putCtx s (by simp) _).trans (hs.mono (by simp +contextual)), hy, fun o ho => ?_⟩
    by_cases hm : o ∈ l
    · exact (hw o hm).trans (staged_putCtx s (hl' o hm) ha)
    · obtain rfl : o = a := (List.mem_cons.mp ho).resolve_right hm
      have hk : o / 4 ∉ l.map (· / 4) := by
        simp only [List.mem_map, not_exists, not_and]
        intro x hx e
        have := hl' x hx
        exact hm ((by omega : o = x) ▸ hx)
      exact (hs.words o hk).trans (by rw [ctxWord_putCtx, if_pos rfl])

/-- The words of a list are staged as they are in effect. -/
def stageActive (ctx : Nat) (l : List Nat) (s : State) : State := l.foldl (fun s o => putBar s (ctxBlock ctx + o) (ctxWord s ctx o)) s

theorem sets_stageActive {l : List Nat} (s : State) (hl : ∀ o ∈ l, o % 4 = 0) :
    Sets ctx s (stageActive ctx l s) ∧ (stageActive ctx l s).ctxs = s.ctxs ∧ (stageActive ctx l s).syncTab = s.syncTab ∧
      ∀ o, o % 4 = 0 → barWord (stageActive ctx l s) (ctxBlock ctx + o) = if o ∈ l then ctxWord s ctx o else barWord s (ctxBlock ctx + o) := by
  induction l generalizing s with
  | nil => exact ⟨Sets.refl ctx s, rfl, rfl, by simp [stageActive]⟩
  | cons a l ih =>
    have ha := hl a List.mem_cons_self
    obtain ⟨hs, hc, hy, hw⟩ := ih (putBar s (ctxBlock ctx + a) (ctxWord s ctx a)) fun o ho => hl o (List.mem_cons_of_mem a ho)
    refine ⟨(sets_putBar s _ (by simp only [ctxBlock]; omega)).trans hs, hc, hy, fun o ho => (hw o ho).trans ?_⟩
    rw [barWord_putBar]
    by_cases hm : o ∈ l
    · rw [if_pos hm, if_pos (List.mem_cons_of_mem a hm)]
      rfl
    · by_cases he : o = a
      · subst he
        simp [hm]
      · rw [if_neg hm, if_neg (by simp only [ctxBlock]; omega), if_neg (by simp [he, hm])]

/-- A part that passes takes effect: its words as staged, but for those that the device itself sets. -/
theorem applyPart_takes (s : State) (ctx bit : Nat) :
    SetsAt ((partWords bit).map (· / 4)) ctx s (applyPart s ctx bit) ∧ (bit ≠ 2 → (applyPart s ctx bit).syncTab = s.syncTab) ∧
      ∀ o ∈ partWords bit, o ∉ [0x50, 0x5C] → ctxWord (applyPart s ctx bit) ctx o = staged s ctx o := by
  obtain ⟨hs, hy, hw⟩ := setsAt_takeStaged (ctx := ctx) s (l := partWords bit) fun _ => partWords_aligned
  have e : applyPart s ctx bit = if bit == 2 && logChanges s ctx then startLog (takeStaged ctx (partWords bit) s) ctx
      else takeStaged ctx (partWords bit) s := rfl
  rw [e]
  split
  · rename_i hc
    obtain rfl : bit = 2 := by
      simp only [Bool.and_eq_true, beq_iff_eq] at hc
      exact hc.1
    have hlog := setsAt_startLog (takeStaged ctx (partWords 2) s) ctx
    refine ⟨hs.trans (hlog.mono (by decide)), by simp, fun o ho hne => ?_⟩
    rw [hlog.words o, hw o ho]
    have := partWords_aligned ho
    simp only [List.mem_cons, List.not_mem_nil, or_false, not_or] at hne ⊢
    omega
  · exact ⟨hs, fun _ => hy, fun o ho _ => hw o ho⟩

/-! ## The check of a part -/

theorem barWord_cmdTaken_other (s : State) (c : HostCmd) {off : Nat} (h : 0x1000 ≤ off) : barWord (cmdTaken s c) off = barWord s off := by
  rw [barWord_cmdTaken, if_neg (by omega)]

theorem staged_cmdTaken (s : State) (c : HostCmd) (ctx o : Nat) : staged (cmdTaken s c) ctx o = staged s ctx o :=
  barWord_cmdTaken_other s c (by simp only [ctxBlock]; omega)

theorem queue_cmdTaken (s : State) (c : HostCmd) (q : Nat) : qCtx (cmdTaken s c) q = qCtx s q ∧ qWr (cmdTaken s c) q = qWr s q ∧
    qRd (cmdTaken s c) q = qRd s q := by
  have h (o : Nat) : barWord (cmdTaken s c) (queueBase q + o) = barWord s (queueBase q + o) :=
    barWord_cmdTaken_other s c (by simp only [queueBase]; omega)
  simp only [qCtx, qWr, qRd, qWord, h, and_self]

/-- The check of a part does not look at the ring. -/
theorem partOk_cmdTaken (s : State) (c : HostCmd) (ctx bit : Nat) : partOk (cmdTaken s c) ctx bit = partOk s ctx bit := by
  have hst : staged (cmdTaken s c) = staged s := funext fun x => funext fun o => staged_cmdTaken s c x o
  have hsd : stagedD (cmdTaken s c) = stagedD s := by
    funext x o
    simp only [stagedD, hst]
  have hbusy : logBusy (cmdTaken s c) ctx = logBusy s ctx := by
    simp only [logBusy, (queue_cmdTaken s c _).1, (queue_cmdTaken s c _).2.1, (queue_cmdTaken s c _).2.2]
    rfl
  unfold partOk
  split
  · simp only [transOk, hsd]
  · simp only [trapOk, hsd]
    rfl
  · simp only [logOk, logZero, logChanges, hst, hsd, hbusy]
    rfl
  · simp only [rayOk, hst, hsd]
    rfl
  · simp only [pfxOk, hst]
  · simp only [frameOk, hst, hsd]
  · simp only [dbgOk, hsd]

/-! ## SETCTX -/

/-- What the command at the ring's head says of itself. -/
theorem headCmd_fields {s : State} : (headCmd s).todo = bitsOf ((headCmd s).arg 0) 16 7 ∧ (headCmd s).bad = 0 := ⟨rfl, rfl⟩

end

/-- A command with the part carried out that was its only one. -/
def partDone (c : HostCmd) (bad : Nat) : HostCmd := { c with todo := 0, bad }

/-- The only part of a SETCTX is carried out, and the command ends. -/
theorem runPart_last {bit : Nat} (u : State) (ht : c.todo = 2 ^ bit) (hb : c.bad = 0) :
    runPart bit u c = if partOk u c.ctx bit then finishCmd (putCmd (applyPart u c.ctx bit) c (partDone c 0)) (partDone c 0) 0 0
      else finishCmd (putCmd (rejectPart u c.ctx bit) c (partDone c (2 ^ bit))) (partDone c (2 ^ bit)) 1 (2 ^ bit) := by
  unfold runPart
  cases partOk u c.ctx bit <;> simp [ht, hb, partDone]

/-- The command at the ring's head may end as it stands after its only part. -/
theorem Sets.ready_partDone {ctx bad : Nat} (hs : Sets ctx (cmdTaken s c) u) (h : Claims.HeadStands s c) (ht : c.todo ≠ 0) :
    Ready s (putCmd u c (partDone c bad)) c (partDone c bad) := by
  have hr := hs.ready h
  have hne : c ≠ partDone c bad := fun e => ht (congrArg HostCmd.todo e)
  have hm : (putCmd u c (partDone c bad)).cmds = (s.cmds ++ [c]).map fun x => if x == c then partDone c bad else x := by
    rw [← show u.cmds = s.cmds ++ [c] from hs.get State.cmds fun _ => rfl]
    rfl
  refine ⟨hr.calm.congr rfl rfl rfl rfl rfl rfl rfl rfl, hr.home, hr.place, ⟨rfl, rfl⟩, hr.taken, hr.vector, hr.irqs, ?_, ?_, ?_⟩
  · rw [hm]
    simp only [List.mem_filter, List.mem_map, not_and]
    rintro ⟨x, -, hx⟩
    split at hx
    · exact absurd hx.symm hne
    · rename_i hxc
      exact absurd hx (by simpa using hxc)
  · rw [hm]
    simp only [List.mem_filter, List.mem_map, decide_eq_true_eq]
    rintro x ⟨⟨y, hy, rfl⟩, hx⟩
    split at hx
    · exact absurd rfl hx
    · rename_i hyc
      rw [if_neg hyc]
      rcases List.mem_append.mp hy with hy | hy
      · exact hy
      · exact absurd (List.mem_singleton.mp hy) (by simpa using hyc)
  · rw [hm]
    intro x hx hl
    simp only [List.mem_filter, List.mem_map, decide_eq_true_eq]
    refine ⟨⟨x, by simp [hx], if_neg ?_⟩, fun e => hl (e ▸ rfl)⟩
    simpa using fun e : x = c => hl (e ▸ rfl)

theorem workKept_putCmd (s : State) (c d : HostCmd) : Claims.WorkKept s (putCmd s c d) :=
  ⟨rfl, rfl, rfl, rfl, ⟨rfl, rfl⟩, ⟨rfl, rfl⟩, ⟨rfl, rfl⟩⟩

theorem staged_eq (s : State) (ctx o : Nat) : staged s ctx o = barWord s (0x10000 + 1024 * ctx + o) := rfl

/-- A part of a SETCTX at the ring's head is carried out. -/
theorem setctx_head {bit : Nat} (h : Claims.Proper s c) (hc : c.code = 3) (hp : bitsOf (c.arg 0) 16 7 = 2 ^ bit)
    (hn : ∀ x ∈ s.cmds, ¬ (x.code = 3 ∧ x.todo.testBit bit = true)) :
    setctx bit s = .next (skipIdles (runPart bit (cmdTaken s c) c)) ∧ c.todo = 2 ^ bit ∧ c.bad = 0 := by
  obtain ⟨ht, hb⟩ : c.todo = 2 ^ bit ∧ c.bad = 0 := by
    rw [← hp, ← h.read]
    exact headCmd_fields
  have hnone : s.cmds.find? (hasPart bit) = none := by
    rw [List.find?_eq_none]
    intro x hx hpart
    simp only [hasPart, Bool.and_eq_true, beq_iff_eq] at hpart
    exact hn x hx hpart
  refine ⟨?_, ht, hb⟩
  rw [setctx, hnone]
  exact takeCmd_proper h (by simp [hasPart, hc, ht, Nat.testBit_two_pow_self]) _

/-- A part that breaks a rule is rejected: its words are staged as they are in effect. -/
theorem setctx_rejects {bit : Nat} (hbit : bit < 7) (h : Claims.Proper s c) (hc : c.code = 3) (hp : bitsOf (c.arg 0) 16 7 = 2 ^ bit)
    (hn : ∀ x ∈ s.cmds, ¬ (x.code = 3 ∧ x.todo.testBit bit = true)) (hok : partOk s c.ctx bit = false) :
    ∃ t, setctx bit s = .next (skipIdles t) ∧ Claims.Completed s t c 1 (2 ^ bit) ∧ Claims.WorkKept s t ∧ Claims.SettingsKept s t ∧
      ∀ o ∈ partWords bit, barWord t (0x10000 + 1024 * c.ctx + o) = ctxWord s c.ctx o := by
  obtain ⟨he, ht, hb⟩ := setctx_head h hc hp hn
  rw [runPart_last _ ht hb, partOk_cmdTaken, hok, if_neg (by simp)] at he
  obtain ⟨hs, hctx, hsync, hw⟩ := sets_stageActive (ctx := c.ctx) (cmdTaken s c) (l := partWords bit) fun _ => partWords_aligned
  have hf := ends_finishCmd about_foreign (putCmd (rejectPart (cmdTaken s c) c.ctx bit) c (partDone c (2 ^ bit))) (partDone c (2 ^ bit)) 1
    (2 ^ bit)
  have hr : Ready s (putCmd (rejectPart (cmdTaken s c) c.ctx bit) c (partDone c (2 ^ bit))) c (partDone c (2 ^ bit)) :=
    hs.ready_partDone h.toHeadStands (by rw [ht]; positivity)
  have hlt : 2 ^ bit * 2 ^ 16 + 1 < 2 ^ 32 := by interval_cases bit <;> decide
  refine ⟨_, he, hr.completed hlt, workKept_trans (workKept_cmdTaken s c) (workKept_trans (hs.workKept hsync)
    (workKept_trans (workKept_putCmd _ _ _) hf.workKept)), hf.ctxs.trans hctx, fun o ho => ?_⟩
  rw [hf.barWord]
  exact (hw o (partWords_aligned ho)).trans (if_pos ho)

/-- A part that keeps the rules takes effect as a whole. -/
theorem setctx_applies {bit : Nat} (h : Claims.Proper s c) (hc : c.code = 3) (hp : bitsOf (c.arg 0) 16 7 = 2 ^ bit)
    (hn : ∀ x ∈ s.cmds, ¬ (x.code = 3 ∧ x.todo.testBit bit = true)) (hok : partOk s c.ctx bit = true) :
    ∃ t, setctx bit s = .next (skipIdles t) ∧ Claims.Completed s t c 0 0 ∧ (bit ≠ 2 → Claims.WorkKept s t) ∧
      t.groups = s.groups ∧ t.teams = s.teams ∧ t.grids = s.grids ∧ t.rays = s.rays ∧
      (∀ o ∈ partWords bit, o ∉ [0x50, 0x5C] → ctxWord t c.ctx o = barWord s (0x10000 + 1024 * c.ctx + o)) ∧
      (∀ o, o / 4 ∉ (partWords bit).map (· / 4) → ctxWord t c.ctx o = ctxWord s c.ctx o) ∧
      ∀ ctx, ctx ≠ c.ctx → ctxOf t ctx = ctxOf s ctx := by
  obtain ⟨he, ht, hb⟩ := setctx_head h hc hp hn
  rw [runPart_last _ ht hb, partOk_cmdTaken, hok, if_pos rfl] at he
  obtain ⟨hs, hsync, hw⟩ := applyPart_takes (cmdTaken s c) c.ctx bit
  have hf := ends_finishCmd about_foreign (putCmd (applyPart (cmdTaken s c) c.ctx bit) c (partDone c 0)) (partDone c 0) 0 0
  have hr : Ready s (putCmd (applyPart (cmdTaken s c) c.ctx bit) c (partDone c 0)) c (partDone c 0) :=
    hs.toSets.ready_partDone h.toHeadStands (by rw [ht]; positivity)
  have hword (o : Nat) : ctxWord (finishCmd (putCmd (applyPart (cmdTaken s c) c.ctx bit) c (partDone c 0)) (partDone c 0) 0 0) c.ctx o =
      ctxWord (applyPart (cmdTaken s c) c.ctx bit) c.ctx o := by
    rw [ctxWord, hf.ctxOf]
    rfl
  refine ⟨_, he, hr.completed (by decide), fun hne => workKept_trans (workKept_cmdTaken s c) (workKept_trans (hs.workKept (hsync hne))
    (workKept_trans (workKept_putCmd _ _ _) hf.workKept)), hf.workKept.groups.trans (hs.get State.groups fun _ => rfl),
    hf.workKept.teams.trans (hs.get State.teams fun _ => rfl), hf.workKept.grids.trans (hs.get State.grids fun _ => rfl),
    hf.workKept.rays.trans (hs.get State.rays fun _ => rfl), fun o ho hne => ?_, fun o ho => ?_, fun ctx hne => ?_⟩
  · rw [hword, hw o ho hne, staged_cmdTaken, staged_eq]
  · rw [hword, hs.words o ho]
    rfl
  · rw [hf.ctxOf]
    exact hs.others ctx hne

theorem exec_byPart : ∀ p ∈ Claims.byPart, p.2 < 7 ∧ ∀ s, exec p.1 s = setctx p.2 s := by
  intro p hp
  simp only [Claims.byPart, List.mem_cons, List.not_mem_nil, or_false] at hp
  rcases hp with rfl | rfl | rfl | rfl | rfl | rfl | rfl <;> exact ⟨by decide, fun _ => rfl⟩

/-! ## The rules of the parts -/

theorem toNat_joinWords (lo hi : Word) : (joinWords lo hi).toNat = lo.toNat + 2 ^ 32 * hi.toNat := by
  rw [joinWords, BitVec.toNat_append, Nat.shiftLeft_eq, ← Nat.shiftLeft_eq, ← Nat.shiftLeft_add_eq_or_of_lt lo.isLt, Nat.shiftLeft_eq]
  omega

theorem toNat_stagedD (s : State) (ctx o : Nat) : (stagedD s ctx o).toNat = Claims.st64 s ctx o := toNat_joinWords _ _

theorem toNat_staged (s : State) (ctx o : Nat) : (staged s ctx o).toNat = Claims.st s ctx o := rfl

theorem st64_lt (s : State) (ctx o : Nat) : Claims.st64 s ctx o < 2 ^ 64 := toNat_stagedD s ctx o ▸ (stagedD s ctx o).isLt

theorem bitsOf_eq (w : DWord) (lo n : Nat) : bitsOf w lo n = w.toNat / 2 ^ lo % 2 ^ n := by
  rw [bitsOf, BitVec.extractLsb'_toNat, Nat.shiftRight_eq_div_pow]

theorem transOk_iff (s : State) (ctx : Nat) : transOk s ctx = true ↔ Claims.partRule s ctx 0 := by
  have := st64_lt s ctx 0
  simp only [transOk, Claims.partRule, bitsOf_eq, toNat_stagedD, Bool.and_eq_true, Bool.or_eq_true, beq_iff_eq, List.mem_cons,
    List.not_mem_nil, or_false]
  omega

theorem pfxOk_iff (s : State) (ctx : Nat) : pfxOk s ctx = true ↔ Claims.partRule s ctx 4 := by
  simp only [pfxOk, Claims.partRule, Bool.and_eq_true, Bool.or_eq_true, beq_iff_eq, decide_eq_true_eq]
  exact Iff.rfl

theorem frameOk_iff (s : State) (ctx : Nat) : frameOk s ctx = true ↔ Claims.partRule s ctx 5 := by
  have h1 := st64_lt s ctx 0xB8
  have h2 := st64_lt s ctx 0xC0
  have h3 := st64_lt s ctx 0xC8
  have hz : staged s ctx 0xB4 = 0 ↔ Claims.st s ctx 0xB4 = 0 := by
    rw [← toNat_staged, BitVec.toNat_eq]
    rfl
  simp only [frameOk, Claims.partRule, bitsOf_eq, toNat_stagedD, toNat_staged, Bool.and_eq_true, beq_iff_eq, bne_iff_ne, hz]
  omega

theorem dbgOk_iff (s : State) (ctx : Nat) : dbgOk s ctx = true ↔ Claims.partRule s ctx 6 := by
  have := st64_lt s ctx 0x18
  simp only [dbgOk, Claims.partRule, bitsOf_eq, toNat_stagedD, beq_iff_eq]
  omega

theorem partOk_iff {s : State} {ctx bit : Nat} (h : bit ∈ [0, 4, 5, 6]) : partOk s ctx bit = true ↔ Claims.partRule s ctx bit := by
  simp only [List.mem_cons, List.not_mem_nil, or_false] at h
  rcases h with rfl | rfl | rfl | rfl
  · exact transOk_iff s ctx
  · exact pfxOk_iff s ctx
  · exact frameOk_iff s ctx
  · exact dbgOk_iff s ctx

theorem partOk_running (s : State) (ctx : Nat) : ((∃ g ∈ s.groups, g.ctx = ctx) → partOk s ctx 1 = false) ∧
    (Claims.st s ctx 0x20 = 0 → (∀ o ∈ partWords 2, Claims.st s ctx o = (ctxWord s ctx o).toNat) → logZero s ctx = true → partOk s ctx 2 = true) ∧
    (2 < Claims.st s ctx 0x20 → partOk s ctx 2 = false) ∧ (Claims.st s ctx 0x80 % 16 ≠ 0 → partOk s ctx 3 = false) ∧
    (0 < Claims.st64 s ctx 0x90 → 0 < Claims.st s ctx 0x80 → Claims.st s ctx 0x80 < 128 → partOk s ctx 3 = false) := by
  simp only [partOk]
  refine ⟨?_, fun h0 hw hz => ?_, fun h2 => ?_, fun h => ?_, fun hsize hpos hlt => ?_⟩
  · rintro ⟨g, hg, he⟩
    have hwork : hasWork s ctx = true := by
      rw [hasWork, Bool.or_eq_true, List.any_eq_true]
      exact .inl ⟨g, hg, by simpa using he⟩
    simp [trapOk, hwork]
  · have hc : logChanges s ctx = false := by
      rw [logChanges, List.any_eq_false]
      intro o ho hne
      exact (bne_iff_ne.mp hne) (BitVec.eq_of_toNat_eq (hw o ho))
    simp [logOk, hz, hc, toNat_staged, h0]
  · have : ¬ (staged s ctx 0x20).toNat < 3 := by
      rw [toNat_staged]
      omega
    simp [logOk, this]
  · simp [rayOk, toNat_staged, h]
  · have h0 : Claims.st64 s ctx 0x90 ≠ 0 := by omega
    have h1 : ¬ 128 ≤ Claims.st s ctx 0x80 := by omega
    have h2 : Claims.st s ctx 0x80 ≠ 0 := by omega
    simp [rayOk, toNat_staged, toNat_stagedD, h0, h1, h2]

end

end Sys2Proof.Machine
end

section
/-!
INVAL and VERDICT (R283, R284, R373).
-/

namespace Sys2Proof.Machine

section
variable {s t u : State} {c : HostCmd}

/-! ## INVAL -/

theorem takeCmd_unwanted {want : State → HostCmd → Bool} (h : Claims.HeadIs s c) (hw : want (engineAcquire s 5) c = false)
    (k : State → HostCmd → State) : takeCmd s want k = .next s := by
  unfold takeCmd
  simp only [h.pending, h.inMemory, h.read, hw, Bool.not_true, Bool.false_eq_true, if_false]

theorem tget_map_tbl {α β : Type} (t : Tbl α) (f : α → β) (k : Nat) (d : α) : tget (t.map fun e => (e.1, f e.2)) k (f d) = f (tget t k d) := by
  induction t with
  | nil => rfl
  | cons e t ih =>
    obtain ⟨j, u⟩ := e
    by_cases hj : j = k
    · simp [tget, tfind, hj]
    · simpa [tget, tfind, hj] using ih

/-- The entries of a TLB that do not overlap a range. -/
def keptEntries (ctx base len : Nat) (t : List TlbEntry) : List TlbEntry := t.filter fun e => !e.overlaps ctx base len

theorem tlbHit_kept {ctx base len va : Nat} (t : List TlbEntry) (h : base ≤ va) (h' : va < base + len) :
    tlbHit (keptEntries ctx base len t) ctx va = none := by
  rw [tlbHit, Option.map_eq_none_iff, List.find?_eq_none]
  intro e he hh
  simp only [keptEntries, List.mem_filter, TlbEntry.overlaps, TlbEntry.hits, Bool.and_eq_true, Bool.not_eq_true',
    Bool.and_eq_false_iff, beq_iff_eq, decide_eq_true_eq, decide_eq_false_iff_not, beq_eq_false_iff_ne] at he hh
  obtain ⟨-, he⟩ := he
  obtain ⟨⟨hc, h1⟩, h2⟩ := hh
  rcases he with (he | he) | he
  · exact he hc
  · omega
  · omega

theorem tlbHit_kept_other {ctx base len other : Nat} (t : List TlbEntry) (va : Nat) (h : other ≠ ctx) :
    tlbHit (keptEntries ctx base len t) other va = tlbHit t other va := by
  rw [tlbHit, tlbHit, keptEntries, List.find?_filter]
  congr 2
  funext e
  by_cases he : e.ctx = other
  · simp [TlbEntry.overlaps, he, h]
  · simp [TlbEntry.hits, he]

theorem tlb_dropTranslations (s : State) (ctx base len : Nat) (core : Nat) :
    let t := dropTranslations s ctx base len
    tget t.coreTlb core [] = keptEntries ctx base len (tget s.coreTlb core []) ∧
      tget t.hamletTlb core [] = keptEntries ctx base len (tget s.hamletTlb core []) ∧
      tget t.aheadTlb core [] = keptEntries ctx base len (tget s.aheadTlb core []) ∧ t.devTlb = keptEntries ctx base len s.devTlb :=
  ⟨tget_map_tbl s.coreTlb (keptEntries ctx base len) core [], tget_map_tbl s.hamletTlb (keptEntries ctx base len) core [],
    tget_map_tbl s.aheadTlb (keptEntries ctx base len) core [], rfl⟩

theorem tlbFind_dropTranslations (s : State) {ctx base len va : Nat} (core : Nat) (h : base ≤ va) (h' : va < base + len) :
    tlbFind (dropTranslations s ctx base len) ctx core va = none := by
  simp only [tlbFind, (tlb_dropTranslations s ctx base len _).1, (tlb_dropTranslations s ctx base len _).2.1,
    (tlb_dropTranslations s ctx base len _).2.2.1, (tlb_dropTranslations s ctx base len 0).2.2.2, tlbHit_kept _ h h',
    Option.orElse_none, ite_self]

theorem tlbFind_dropTranslations_other (s : State) {ctx base len other : Nat} (core va : Nat) (h : other ≠ ctx) :
    tlbFind (dropTranslations s ctx base len) other core va = tlbFind s other core va := by
  simp only [tlbFind, (tlb_dropTranslations s ctx base len _).1, (tlb_dropTranslations s ctx base len _).2.1,
    (tlb_dropTranslations s ctx base len _).2.2.1, (tlb_dropTranslations s ctx base len 0).2.2.2, tlbHit_kept_other _ _ h]

theorem walking_dropTranslations (s : State) (ctx base len h : Nat) :
    ∀ r ∈ tget (dropTranslations s ctx base len).walking h [], r.within ctx base len = false := by
  have e : tget (dropTranslations s ctx base len).walking h [] = (tget s.walking h []).filter fun r => !r.within ctx base len :=
    tget_map_tbl s.walking (fun l => l.filter fun (r : WalkReq) => !r.within ctx base len) h []
  intro r hr
  rw [e] at hr
  simpa using (List.mem_filter.mp hr).2

/-- The state with an invalidation begun. -/
def invalBegun (s : State) (c : HostCmd) : State :=
  { dropTranslations s c.ctx (invalBase c) (invalLen c) with
    invals := s.invals ++ [⟨c.ctx, invalBase c, invalLen c, s.nextId,
      (invalBase c, invalLen c) :: overlapping s c.ctx (invalBase c) (invalLen c), c⟩] }

theorem invalBegun_keeps (s : State) (c : HostCmd) : (invalBegun s c).cmds = s.cmds ∧ (invalBegun s c).groups = s.groups ∧
    (invalBegun s c).teams = s.teams ∧ (invalBegun s c).grids = s.grids ∧ (invalBegun s c).rays = s.rays ∧
    (invalBegun s c).engines = s.engines ∧ (invalBegun s c).ctxs = s.ctxs ∧ (invalBegun s c).mem = s.mem :=
  ⟨rfl, rfl, rfl, rfl, rfl, rfl, rfl, rfl⟩

theorem barWord_invalBegun (s : State) (c : HostCmd) (off : Nat) : barWord (invalBegun s c) off = barWord s off := by
  rw [barWord, barWord]
  rfl

theorem tlbFind_invalBegun (s : State) (c : HostCmd) (ctx core va : Nat) :
    tlbFind (invalBegun s c) ctx core va = tlbFind (dropTranslations s c.ctx (invalBase c) (invalLen c)) ctx core va := by
  unfold tlbFind
  rfl

theorem tlbFind_cmdTaken (s : State) (c : HostCmd) (ctx core va : Nat) : tlbFind (cmdTaken s c) ctx core va = tlbFind s ctx core va := by
  unfold tlbFind
  rfl

theorem inval_invalidates (h : Claims.Proper s c) (hc : c.code = 4) :
    let base := (c.arg 1).toNat; let len := (c.arg 2).toNat
    (base % 4096 ≠ 0 ∨ len % 4096 ≠ 0 ∨ len < 4096 ∨ 2 ^ 48 < len → Claims.EndsAs .inval s c 2 0) ∧
    (base % 4096 = 0 → len % 4096 = 0 → 4096 ≤ len → len ≤ 2 ^ 48 →
      (16 ≤ s.invals.length → exec .inval s = .next s) ∧
      (s.invals.length < 16 → ∃ t, exec .inval s = .next (skipIdles t) ∧ t.invals.length = s.invals.length + 1 ∧
        t.cmds = s.cmds ++ [c] ∧ barWord t 0x10C = barWord s 0x10C + 1 ∧ t.groups = s.groups ∧ t.teams = s.teams ∧ t.grids = s.grids ∧
        t.rays = s.rays ∧ t.engines = s.engines ∧ Claims.SettingsKept s t ∧ t.mem = s.mem ∧
        (∀ core va leaf, tlbFind t c.ctx core va = some leaf → base ≤ va → va < base + len → False) ∧
        (∀ ctx core va, ctx ≠ c.ctx → tlbFind t ctx core va = tlbFind s ctx core va) ∧
        ∀ h, ∀ r ∈ tget t.walking h [], ¬ (r.ctx = c.ctx ∧ base ≤ r.page * 4096 ∧ r.page * 4096 < base + len))) := by
  have hok : invalOk c = true ↔ (c.arg 1).toNat % 4096 = 0 ∧ (c.arg 2).toNat % 4096 = 0 ∧ 4096 ≤ (c.arg 2).toNat ∧
      (c.arg 2).toNat ≤ 2 ^ 48 := by
    simp only [invalOk, Bool.and_eq_true, beq_iff_eq, decide_eq_true_eq, and_assoc]
    exact Iff.rfl
  have he : exec .inval s = takeCmd s (fun s c => c.code == 4 && (decide (s.invals.length < 16) || badCmd c || !invalOk c))
      fun s c => if invalOk c then invalBegun s c else finishCmd s c 2 0 := rfl
  simp only
  constructor
  · intro hbad
    have hno : invalOk c = false := by
      rw [Bool.eq_false_iff, Ne, hok]
      omega
    refine endsAs_of_taken h.toHeadStands (by decide) ?_
    rw [he, takeCmd_proper h (by simp [hc, hno]), hno]
    rfl
  · intro h1 h2 h3 h4
    have hyes : invalOk c = true := hok.mpr ⟨h1, h2, h3, h4⟩
    have hlen : (engineAcquire s 5).invals.length = s.invals.length := rfl
    constructor
    · intro hfull
      rw [he, takeCmd_unwanted h.toHeadIs]
      simp [hlen, hfull, hyes, h.good]
    · intro hroom
      have hw : (fun (s : State) (c : HostCmd) => c.code == 4 && (decide (s.invals.length < 16) || badCmd c || !invalOk c))
          (engineAcquire s 5) c = true := by
        simp [hc, hlen, hroom]
      rw [he, takeCmd_proper h hw, hyes, if_pos rfl]
      obtain ⟨hcmds, hgroups, hteams, hgrids, hrays, hengines, hctxs, hmem⟩ := invalBegun_keeps (cmdTaken s c) c
      refine ⟨invalBegun (cmdTaken s c) c, rfl, ?_, hcmds, by rw [barWord_invalBegun, barWord_cmdTaken, if_pos rfl], hgroups, hteams,
        hgrids, hrays, hengines, hctxs, hmem, ?_, ?_, ?_⟩
      · exact List.length_append.trans rfl
      · intro core va leaf hf hb hl
        rw [tlbFind_invalBegun, tlbFind_dropTranslations (base := invalBase c) (len := invalLen c) _ core hb hl] at hf
        cases hf
      · intro ctx core va hne
        rw [tlbFind_invalBegun, tlbFind_dropTranslations_other _ core va hne, tlbFind_cmdTaken]
      · rintro k r hr ⟨hx, hb, hl⟩
        have := walking_dropTranslations (cmdTaken s c) c.ctx (invalBase c) (invalLen c) k r hr
        simp only [WalkReq.within, Bool.and_eq_false_iff, beq_eq_false_iff_ne, decide_eq_false_iff_not] at this
        rcases this with (this | this) | this
        · exact this hx
        · exact this hb
        · exact this hl

/-! ## VERDICT: the work that waits for the page -/

/-- A verdict for one command that waits for the page. -/
def verdictOne (ok : Bool) (s : State) (x : Nat × EngCmd) : State :=
  let s1 := updCmd s x.1 x.2.id fun c => { c with wait := none }
  if ok then s1 else endPairs (endCmd s1 x.1 x.2 0x08) (pairsOf s x.2) 0x08

/-- What a verdict makes of a command that waits. -/
def answered (ok : Bool) (c : EngCmd) : EngCmd := { c with wait := none, ended := if ok then c.ended else some 0x08 }

theorem endPairs_frame (s : State) (ps : List PairRed) (cls : Nat) : ∃ engines pairReds, endPairs s ps cls = { s with engines, pairReds } := by
  have hfold (l : List PairRed) (t : State) : ∃ engines, l.foldl (fun s p => if p.far then s else
      { s with engines := tupd s.engines p.eng [] fun cs => cs.map fun c => if c.id == p.cmd then { c with ended := some cls } else c }) t =
      { t with engines } := by
    induction l generalizing t with
    | nil => exact ⟨_, rfl⟩
    | cons p l ih =>
      rw [List.foldl_cons]
      split
      · exact ih t
      · obtain ⟨engines, h⟩ := ih { t with engines := tupd t.engines p.eng [] fun cs => cs.map fun c =>
          if c.id == p.cmd then { c with ended := some cls } else c }
        exact ⟨engines, h⟩
  obtain ⟨engines, h⟩ := hfold ps { s with pairReds := s.pairReds.filter fun p => !(ps.any fun q => q.id == p.id) }
  exact ⟨engines, _, h⟩

theorem verdictOne_frame (ok : Bool) (s : State) (x : Nat × EngCmd) : ∃ engines pairReds, verdictOne ok s x = { s with engines, pairReds } := by
  unfold verdictOne
  simp only
  split
  · exact ⟨_, s.pairReds, rfl⟩
  · obtain ⟨engines, pairReds, h⟩ := endPairs_frame (endCmd (updCmd s x.1 x.2.id fun c => { c with wait := none }) x.1 x.2 0x08)
      (pairsOf s x.2) 0x08
    exact ⟨engines, pairReds, h⟩

theorem verdictCmds_frame (s : State) (ctx page : Nat) (ok : Bool) : ∃ engines pairReds, verdictCmds s ctx page ok = { s with engines, pairReds } := by
  have hfold (l : List (Nat × EngCmd)) (t : State) : ∃ engines pairReds, l.foldl (verdictOne ok) t = { t with engines, pairReds } := by
    induction l generalizing t with
    | nil => exact ⟨_, _, rfl⟩
    | cons x l ih =>
      obtain ⟨_, _, h⟩ := verdictOne_frame ok t x
      obtain ⟨engines, pairReds, h'⟩ := ih (verdictOne ok t x)
      exact ⟨engines, pairReds, by rw [List.foldl_cons, h', h]⟩
  exact hfold _ s

theorem tryRelease_frame (s : State) (q b : Nat) : ∃ quads, tryRelease s q b = { s with quads } := by
  unfold tryRelease
  split
  · exact ⟨_, rfl⟩
  · exact ⟨_, rfl⟩

theorem verdictJobs_frame (s : State) (ctx page : Nat) (ok : Bool) : ∃ quads, verdictJobs s ctx page ok = { s with quads } := by
  have hone (t : State) (x : Nat × QuadJob) : ∃ quads, (
      let s1 := updJob t x.1 x.2.id fun j => { j with wait := none }
      if ok then s1 else endJob s1 x.1 x.2 0x08) = { t with quads } := by
    simp only
    split
    · exact ⟨_, rfl⟩
    · obtain ⟨quads, h⟩ := tryRelease_frame (updJob (updJob t x.1 x.2.id fun j => { j with wait := none }) x.1 x.2.id
        fun j => { j with ended := some 0x08 }) x.1 x.2.bank
      exact ⟨quads, h⟩
  have hfold (l : List (Nat × QuadJob)) (t : State) : ∃ quads, l.foldl (fun s x =>
      let s1 := updJob s x.1 x.2.id fun j => { j with wait := none }
      if ok then s1 else endJob s1 x.1 x.2 0x08) t = { t with quads } := by
    induction l generalizing t with
    | nil => exact ⟨_, rfl⟩
    | cons x l ih =>
      obtain ⟨_, h⟩ := hone t x
      obtain ⟨quads, h'⟩ := ih { t with quads := _ }
      exact ⟨quads, by rw [List.foldl_cons, h, h']⟩
  exact hfold _ s

/-- A verdict where no tile and no treelet waits reaches batches, commands and jobs. -/
theorem giveVerdict_frame {ctx : Nat} (page : Nat) (ok : Bool) (ht : ∀ x ∈ s.tiles, x.ctx ≠ ctx) (hr : ∀ x ∈ s.treelets, x.ctx ≠ ctx) :
    ∃ quads pairReds, giveVerdict s ctx page ok =
      { s with
        groups := (verdictBatches s ctx page ok).groups
        engines := (verdictCmds (verdictBatches s ctx page ok) ctx page ok).engines
        pairReds := pairReds
        quads := quads } := by
  obtain ⟨_, pairReds, hc⟩ := verdictCmds_frame (verdictBatches s ctx page ok) ctx page ok
  obtain ⟨quads, hj⟩ := verdictJobs_frame (verdictCmds (verdictBatches s ctx page ok) ctx page ok) ctx page ok
  have htiles (t : State) (h : t.tiles = s.tiles) : verdictTiles t ctx page ok = t := by
    have hn : t.tiles.filter (fun x => x.ctx == ctx && x.waitPage == some page) = [] := by
      rw [List.filter_eq_nil_iff, h]
      intro x hx
      simp [ht x hx]
    simp [verdictTiles, hn]
  have htree (t : State) (h : t.treelets = s.treelets) : verdictTreelets t ctx page ok = t := by
    have hn : t.treelets.filter (fun x => x.ctx == ctx && x.fault == some page) = [] := by
      rw [List.filter_eq_nil_iff, h]
      intro x hx
      simp [hr x hx]
    simp [verdictTreelets, hn]
  have he : verdictEngines (verdictBatches s ctx page ok) ctx page ok = { s with
      groups := (verdictBatches s ctx page ok).groups
      engines := (verdictCmds (verdictBatches s ctx page ok) ctx page ok).engines
      pairReds := pairReds
      quads := quads } := by
    rw [verdictEngines, hj, hc]
    rfl
  refine ⟨quads, pairReds, ?_⟩
  rw [giveVerdict, he, htiles, htree] <;> rfl

/-! ## VERDICT: batches of groups -/

/-- What a verdict makes of a group. -/
def batchAnswered (ctx page : Nat) (ok : Bool) (g : Group) : Group := match g.batch with
  | none => g
  | some b =>
    if g.ctx = ctx ∧ b.ahead = false ∧ b.released = false then
      { g with batch := some { b with pages := b.pages.map fun p =>
          if p.page = page * 4096 ∧ p.verdict = none then { p with verdict := some ok } else p } }
    else g

theorem batchAnswered_eq (ctx page : Nat) (ok : Bool) (g : Group) : ∃ batch, batchAnswered ctx page ok g = { g with batch } := by
  unfold batchAnswered
  split
  · exact ⟨_, rfl⟩
  · split
    · exact ⟨_, rfl⟩
    · exact ⟨_, rfl⟩

theorem groupAt_answered {t : State} {ctx page core slot : Nat} {ok : Bool} {g : Group} (h : groupAt s core slot = some g)
    (ht : t.groups = s.groups.map (batchAnswered ctx page ok)) : groupAt t core slot = some (batchAnswered ctx page ok g) := by
  rw [groupAt, ht, List.find?_map]
  have e : ((fun g : Group => g.core == core && g.slot == slot) ∘ batchAnswered ctx page ok) = fun g => g.core == core && g.slot == slot := by
    funext g
    obtain ⟨batch, hb⟩ := batchAnswered_eq ctx page ok g
    rw [Function.comp_apply, hb]
  rw [e, show s.groups.find? (fun g => g.core == core && g.slot == slot) = some g from h]
  rfl

/-- Every page of a group's batch that waits for the verdict takes it, and nothing else changes. -/
theorem batchAnswered_spec (ctx page : Nat) (ok : Bool) (g : Group) :
    Claims.SameRegisters (batchAnswered ctx page ok g) g ∧
      (g.ctx ≠ ctx ∨ g.batch = none → batchAnswered ctx page ok g = g) ∧
      (∀ b, g.ctx = ctx → g.batch = some b → b.ahead = false → b.released = false → ∃ d, (batchAnswered ctx page ok g).batch = some d ∧
        d.pages.length = b.pages.length ∧ ∀ (i : Nat) (x : BatchPage), b.pages[i]? = some x → d.pages[i]? = some
          (if x.page = page * 4096 ∧ x.verdict = none then { x with verdict := some ok } else x)) ∧
      ∀ b, g.ctx = ctx → g.batch = some b → b.ahead = true ∨ b.released = true → batchAnswered ctx page ok g = g := by
  refine ⟨?_, fun h => ?_, fun b hc hb ha hr => ?_, fun b _ hb h => ?_⟩
  · obtain ⟨batch, h⟩ := batchAnswered_eq ctx page ok g
    rw [h]
    exact sameRegisters_refl g
  · unfold batchAnswered
    split
    · rfl
    · rename_i b hb
      exact if_neg fun hx => h.elim (fun hn => hn hx.1) fun hn => by simp [hn] at hb
  · refine ⟨{ b with pages := b.pages.map fun p => if p.page = page * 4096 ∧ p.verdict = none then { p with verdict := some ok } else p },
      ?_, List.length_map _, fun i x hx => ?_⟩
    · simp only [batchAnswered, hb, if_pos (And.intro hc (And.intro ha hr))]
    · simp only [List.getElem?_map, hx, Option.map_some]
  · simp only [batchAnswered, hb]
    refine if_neg fun hx => ?_
    rcases h with h | h
    · exact absurd (hx.2.1.symm.trans h) (by decide)
    · exact absurd (hx.2.2.symm.trans h) (by decide)

/-! ## VERDICT: commands of engines -/

theorem endPairs_nil (s : State) (cls : Nat) : endPairs s [] cls = { s with pairReds := s.pairReds.filter fun _ => true } := rfl

theorem pairsOf_nil (h : s.pairReds = []) (x : EngCmd) : pairsOf s x = [] := by
  simp [pairsOf, h]

/-- What a verdict for one command makes of the engines, where nothing is combined with the twin. -/
theorem tget_verdictOne {ok : Bool} {x : Nat × EngCmd} (h : s.pairReds = []) (k : Nat) :
    (verdictOne ok s x).pairReds = [] ∧ tget (verdictOne ok s x).engines k [] =
      if k = x.1 then (tget s.engines k []).map fun c => if c.id = x.2.id then answered ok c else c else tget s.engines k [] := by
  cases ok with
  | true =>
    refine ⟨h, ?_⟩
    simp only [verdictOne, if_true, updCmd, tupd, tget_tput, answered, beq_iff_eq]
    split
    · rename_i hk
      subst hk
      rfl
    · rfl
  | false =>
    simp only [verdictOne, Bool.false_eq_true, if_false, pairsOf_nil h, endPairs_nil, endCmd, updCmd]
    refine ⟨by simp [h], ?_⟩
    simp only [tupd, tget_tput]
    split
    · rename_i hk
      subst hk
      rw [if_pos trivial, List.map_map]
      refine List.map_congr_left fun c _ => ?_
      by_cases hc : c.id = x.2.id <;> simp [hc, answered]
    · rfl

/-- A verdict for one command keeps what holds of a command that it keeps. -/
theorem exists_verdictOne {ok : Bool} {x : Nat × EngCmd} {k : Nat} {Q : EngCmd → Prop} (h : s.pairReds = [])
    (hQ : ∀ c, Q c → Q (answered ok c)) (hy : ∃ y ∈ tget s.engines k [], Q y) : ∃ y ∈ tget (verdictOne ok s x).engines k [], Q y := by
  obtain ⟨y, hm, hq⟩ := hy
  rw [(tget_verdictOne h k).2]
  split
  · refine ⟨_, List.mem_map_of_mem hm, ?_⟩
    split
    · exact hQ y hq
    · exact hq
  · exact ⟨y, hm, hq⟩

theorem exists_foldl_verdictOne {ok : Bool} {l : List (Nat × EngCmd)} {k : Nat} {Q : EngCmd → Prop} (h : s.pairReds = [])
    (hQ : ∀ c, Q c → Q (answered ok c)) (hy : ∃ y ∈ tget s.engines k [], Q y) :
    (l.foldl (verdictOne ok) s).pairReds = [] ∧ ∃ y ∈ tget (l.foldl (verdictOne ok) s).engines k [], Q y := by
  induction l generalizing s with
  | nil => exact ⟨h, hy⟩
  | cons x l ih => exact ih (tget_verdictOne h k).1 (exists_verdictOne h hQ hy)

/-- A verdict for a list of commands reaches each of them. -/
theorem verdict_reaches {ok : Bool} {l : List (Nat × EngCmd)} {k : Nat} {x : EngCmd} (h : s.pairReds = []) (hl : (k, x) ∈ l)
    (hx : x ∈ tget s.engines k []) : ∃ y ∈ tget (l.foldl (verdictOne ok) s).engines k [], y.id = x.id ∧ y.wait = none ∧
      y.ended = if ok then x.ended else some 0x08 := by
  obtain ⟨l1, l2, rfl⟩ := List.append_of_mem hl
  rw [List.foldl_append, List.foldl_cons]
  obtain ⟨h1, y, hy, hid, hend⟩ := exists_foldl_verdictOne (ok := ok) (l := l1) (k := k)
    (Q := fun y => y.id = x.id ∧ (ok = true → y.ended = x.ended)) h
    (fun c hc => ⟨hc.1, fun ho => by rw [answered, if_pos ho, hc.2 ho]⟩) ⟨x, hx, rfl, fun _ => rfl⟩
  refine (exists_foldl_verdictOne (Q := fun y => y.id = x.id ∧ y.wait = none ∧ y.ended = if ok then x.ended else some 0x08)
    (tget_verdictOne h1 k).1 ?_ ?_).2
  · rintro c ⟨hid, -, he⟩
    refine ⟨hid, rfl, ?_⟩
    cases ok
    · rfl
    · exact he
  · rw [(tget_verdictOne h1 k).2, if_pos rfl]
    refine ⟨_, List.mem_map_of_mem hy, ?_⟩
    rw [if_pos hid]
    refine ⟨hid, rfl, ?_⟩
    cases ok
    · rfl
    · exact hend rfl

theorem tget_of_mem {α : Type} {t : Tbl α} {e : Nat × α} (d : α) (hn : (t.map Prod.fst).Nodup) (he : e ∈ t) : tget t e.1 d = e.2 := by
  induction t with
  | nil => cases he
  | cons a t ih =>
    rw [List.map_cons, List.nodup_cons] at hn
    rcases List.mem_cons.mp he with rfl | he
    · simp [tget, tfind]
    · have hne : a.1 ≠ e.1 := fun h => hn.1 (h ▸ List.mem_map_of_mem he)
      simpa [tget, tfind, hne] using ih hn.2 he

theorem verdictCmds_answers {ctx page : Nat} {ok : Bool} (h : s.pairReds = []) (hn : (s.engines.map Prod.fst).Nodup)
    {e : Nat × List EngCmd} (he : e ∈ s.engines) (h64 : e.1 < 64) {x : EngCmd} (hx : x ∈ e.2) (hc : x.ctx = ctx) (hw : x.wait = some page) :
    ∃ y ∈ tget (verdictCmds s ctx page ok).engines e.1 [], y.id = x.id ∧ y.wait = none ∧ y.ended = if ok then x.ended else some 0x08 := by
  refine verdict_reaches h ?_ (by rwa [tget_of_mem [] hn he])
  rw [List.mem_flatMap]
  refine ⟨e, he, List.mem_map.mpr ⟨x, List.mem_filter.mpr ⟨hx, ?_⟩, rfl⟩⟩
  have : e.1 ≠ 64 := by omega
  simp [hc, hw, this]

/-! ## VERDICT -/

/-- The state with a verdict given. -/
def verdictGiven (s : State) (c : HostCmd) (ok : Bool) : State := giveVerdict (cmdTaken s c) c.ctx (bitsOf (c.arg 1) 12 36) ok

theorem verdictGiven_frame (h : Claims.HeadStands s c) (ok : Bool) (ht : ∀ x ∈ s.tiles, x.ctx ≠ c.ctx) (hr : ∀ x ∈ s.treelets, x.ctx ≠ c.ctx) :
    Ready s (verdictGiven s c ok) c c ∧ (verdictGiven s c ok).ctxs = s.ctxs ∧
      ((verdictGiven s c ok).rays = s.rays ∧ (verdictGiven s c ok).teams = s.teams) ∧
      (verdictGiven s c ok).groups = s.groups.map (batchAnswered c.ctx (bitsOf (c.arg 1) 12 36) ok) ∧
      (verdictGiven s c ok).engines =
        (verdictCmds (verdictBatches (cmdTaken s c) c.ctx (bitsOf (c.arg 1) 12 36) ok) c.ctx (bitsOf (c.arg 1) 12 36) ok).engines := by
  obtain ⟨quads, pairReds, hv⟩ := giveVerdict_frame (s := cmdTaken s c) (bitsOf (c.arg 1) 12 36) ok ht hr
  rw [verdictGiven, hv]
  refine ⟨ready_of_taken h ((calm_cmdTaken h).congr rfl rfl rfl rfl rfl rfl rfl rfl) (fun off _ => ?_) rfl rfl, rfl, ⟨rfl, rfl⟩, rfl, rfl⟩
  rw [barWord, barWord]

theorem verdictBatches_engines (s : State) (ctx page : Nat) (ok : Bool) : (verdictBatches s ctx page ok).engines = s.engines := rfl

theorem verdictBatches_pairReds (s : State) (ctx page : Nat) (ok : Bool) : (verdictBatches s ctx page ok).pairReds = s.pairReds := rfl

theorem cmdTaken_engines (s : State) (c : HostCmd) : (cmdTaken s c).engines = s.engines := rfl

theorem cmdTaken_pairReds (s : State) (c : HostCmd) : (cmdTaken s c).pairReds = s.pairReds := rfl

theorem verdict_given (h : Claims.Proper s c) (hc : c.code = 5) {ok : Bool} (hok : (c.arg 2).getLsbD 0 = !ok)
    (ht : ∀ x ∈ s.tiles, x.ctx ≠ c.ctx) (hr : ∀ x ∈ s.treelets, x.ctx ≠ c.ctx) :
    ∃ t, verdict ok s = .next (skipIdles t) ∧ Claims.Completed s t c 0 0 ∧ t.rays = s.rays ∧ t.teams = s.teams ∧ Claims.SettingsKept s t ∧
      (∀ core slot g, groupAt s core slot = some g → ∃ h, groupAt t core slot = some h ∧ Claims.SameRegisters h g ∧
        (g.ctx ≠ c.ctx ∨ g.batch = none → h = g) ∧
        (∀ b, g.ctx = c.ctx → g.batch = some b → b.ahead = false → b.released = false → ∃ d, h.batch = some d ∧
          d.pages.length = b.pages.length ∧ ∀ (i : Nat) (x : BatchPage), b.pages[i]? = some x → d.pages[i]? = some
            (if x.page = bitsOf (c.arg 1) 12 36 * 4096 ∧ x.verdict = none then { x with verdict := some ok } else x)) ∧
        ∀ b, g.ctx = c.ctx → g.batch = some b → b.ahead = true ∨ b.released = true → h = g) ∧
      (s.pairReds = [] → ((s.engines.flatMap Prod.snd).map fun x => x.id).Nodup → (s.engines.map Prod.fst).Nodup →
        ∀ e ∈ s.engines, e.1 < 64 → ∀ x ∈ e.2, x.ctx = c.ctx → x.wait = some (bitsOf (c.arg 1) 12 36) →
        ∃ y ∈ tget t.engines e.1 [], y.id = x.id ∧ y.wait = none ∧ y.ended = if ok then x.ended else some 0x08) := by
  have he : verdict ok s = .next (skipIdles (finishCmd (verdictGiven s c ok) c 0 0)) :=
    takeCmd_proper h (by rw [hc, hok]; simp) _
  obtain ⟨hready, hset, hwork, hgroups, hengines⟩ := verdictGiven_frame h.toHeadStands ok ht hr
  have hf := ends_finishCmd about_foreign (verdictGiven s c ok) c 0 0
  refine ⟨_, he, hready.completed (by decide), hf.workKept.rays.trans hwork.1, hf.workKept.teams.trans hwork.2, hf.ctxs.trans hset,
    fun core slot g hg => ?_, fun hp _ hn e hem h64 x hx hxc hxw => ?_⟩
  · exact ⟨_, groupAt_answered hg (hf.workKept.groups.trans hgroups), batchAnswered_spec _ _ _ _⟩
  · rw [hf.workKept.units.1, hengines]
    rw [← cmdTaken_pairReds s c, ← verdictBatches_pairReds _ c.ctx (bitsOf (c.arg 1) 12 36) ok] at hp
    rw [← cmdTaken_engines s c, ← verdictBatches_engines _ c.ctx (bitsOf (c.arg 1) 12 36) ok] at hn hem
    exact verdictCmds_answers hp hn hem h64 hx hxc hxw

theorem invalidationsAndVerdicts : Claims.InvalidationsAndVerdicts := by
  refine ⟨fun s c => inval_invalidates, fun s c h hc p hp hok ht hr => ?_⟩
  simp only [List.mem_cons, List.not_mem_nil, or_false] at hp
  rcases hp with rfl | rfl
  · exact verdict_given h hc hok ht hr
  · exact verdict_given h hc hok ht hr

end

end Sys2Proof.Machine
end

section
/-!
What a forced reset leaves of a device (R375): the ring, the settings that are live, the commands and the order of the words stay,
and of every context no group, team, grid, ray or reduction comes to be that was not.
-/

namespace Sys2Proof.Machine

/-- A context has a group. -/
def HasGroup (s : State) (ctx : Nat) : Prop := ∃ g ∈ s.groups, g.ctx = ctx

/-- Work goes, and none comes: commands, the low registers and what is live stay, and the words stay in order. -/
structure Ebbs (s t : State) : Prop extends Sends InLine s t where
  low : ∀ off, off < 0x1000 → barWord t off = barWord s off
  cmds : t.cmds = s.cmds
  cmdEnds : t.cmdEnds = s.cmdEnds
  live : ∀ ctx, (ctxOf t ctx).live = (ctxOf s ctx).live
  groups : ∀ g ∈ t.groups, HasGroup s g.ctx
  teams : ∀ x ∈ t.teams, ∃ y ∈ s.teams, y.ctx = x.ctx
  grids : ∀ x ∈ t.grids, ∃ y ∈ s.grids, y.ctx = x.ctx
  rays : ∀ x ∈ t.rays, ∃ y ∈ s.rays, y.ctx = x.ctx
  reds : ∀ x ∈ t.reds, ∃ y ∈ s.reds, y.ctx = x.ctx

section
variable {s t u : State}

theorem Ebbs.refl (s : State) : Ebbs s s where
  toSends := Sends.refl s
  low _ _ := rfl
  cmds := rfl
  cmdEnds := rfl
  live _ := rfl
  groups g hg := ⟨g, hg, rfl⟩
  teams x hx := ⟨x, hx, rfl⟩
  grids x hx := ⟨x, hx, rfl⟩
  rays x hx := ⟨x, hx, rfl⟩
  reds x hx := ⟨x, hx, rfl⟩

theorem exists_ctx_trans {α : Type} {f : α → Nat} {a b c : List α} (h : ∀ x ∈ b, ∃ y ∈ a, f y = f x) (h' : ∀ x ∈ c, ∃ y ∈ b, f y = f x) :
    ∀ x ∈ c, ∃ y ∈ a, f y = f x := by
  intro x hx
  obtain ⟨y, hy, e⟩ := h' x hx
  obtain ⟨z, hz, e'⟩ := h y hy
  exact ⟨z, hz, e'.trans e⟩

theorem Ebbs.trans (h : Ebbs s t) (h' : Ebbs t u) : Ebbs s u where
  toSends := h.toSends.trans h'.toSends
  low off ho := (h'.low off ho).trans (h.low off ho)
  cmds := h'.cmds.trans h.cmds
  cmdEnds := h'.cmdEnds.trans h.cmdEnds
  live ctx := (h'.live ctx).trans (h.live ctx)
  groups := exists_ctx_trans h.groups h'.groups
  teams := exists_ctx_trans h.teams h'.teams
  grids := exists_ctx_trans h.grids h'.grids
  rays := exists_ctx_trans h.rays h'.rays
  reds := exists_ctx_trans h.reds h'.reds

theorem Ebbs.foldl {α : Type} {f : State → α → State} {l : List α} (h0 : Ebbs s t) (h : ∀ a ∈ l, ∀ t, Ebbs s t → Ebbs s (f t a)) :
    Ebbs s (l.foldl f t) := by
  induction l generalizing t with
  | nil => exact h0
  | cons a l ih => exact ih (h a List.mem_cons_self t h0) fun b hb => h b (List.mem_cons_of_mem a hb)

theorem Ebbs.ite {p : Prop} [Decidable p] (h : Ebbs s t) (h' : Ebbs s u) : Ebbs s (if p then t else u) := by
  split
  · exact h
  · exact h'

/-- A change of nothing of this. -/
theorem Ebbs.frame (h : Ebbs s t) (hostLines : u.hostLines = t.hostLines := by rfl) (mem : u.mem = t.mem := by rfl)
    (msgs : u.msgs = t.msgs := by rfl) (msgSeq : u.msgSeq = t.msgSeq := by rfl) (bar : u.bar = t.bar := by rfl)
    (ctxs : u.ctxs = t.ctxs := by rfl) (cmds : u.cmds = t.cmds := by rfl) (cmdEnds : u.cmdEnds = t.cmdEnds := by rfl)
    (groups : u.groups = t.groups := by rfl) (teams : u.teams = t.teams := by rfl) (grids : u.grids = t.grids := by rfl)
    (rays : u.rays = t.rays := by rfl) (reds : u.reds = t.reds := by rfl) : Ebbs s u where
  toSends := h.toSends.trans (Sends.of_eq hostLines mem msgs msgSeq)
  low off ho := by rw [barWord, bar]; exact h.low off ho
  cmds := cmds.trans h.cmds
  cmdEnds := cmdEnds.trans h.cmdEnds
  live ctx := by rw [ctxOf, ctxs]; exact h.live ctx
  groups := groups ▸ h.groups
  teams := teams ▸ h.teams
  grids := grids ▸ h.grids
  rays := rays ▸ h.rays
  reds := reds ▸ h.reds

/-- A change of words and translations. -/
theorem Ebbs.shifts (h : Ebbs s t) (hs : Shifts InLine t u) : Ebbs s u :=
  have groups : u.groups = t.groups := hs.get State.groups fun _ => rfl
  have teams : u.teams = t.teams := hs.get State.teams fun _ => rfl
  have grids : u.grids = t.grids := hs.get State.grids fun _ => rfl
  have rays : u.rays = t.rays := hs.get State.rays fun _ => rfl
  have reds : u.reds = t.reds := hs.get State.reds fun _ => rfl
  { toSends := h.toSends.trans hs.toSends
    low := fun off ho => (hs.get (barWord · off) fun _ => rfl).trans (h.low off ho)
    cmds := (hs.get State.cmds fun _ => rfl).trans h.cmds
    cmdEnds := (hs.get State.cmdEnds fun _ => rfl).trans h.cmdEnds
    live := fun ctx => (hs.get (fun s => (ctxOf s ctx).live) fun _ => rfl).trans (h.live ctx)
    groups := groups ▸ h.groups
    teams := teams ▸ h.teams
    grids := grids ▸ h.grids
    rays := rays ▸ h.rays
    reds := reds ▸ h.reds }

theorem Ebbs.hasGroup (h : Ebbs s t) {ctx : Nat} (hg : HasGroup t ctx) : HasGroup s ctx := by
  obtain ⟨g, hg, rfl⟩ := hg
  exact h.groups g hg

/-- Work of some contexts may go. -/
theorem Ebbs.fewer (h : Ebbs s t) {groups : List Group} {teams : List Team} {grids : List Grid} {rays : List Ray} {reds : List RedNode}
    (hg : ∀ x ∈ groups, x ∈ t.groups) (ht : ∀ x ∈ teams, x ∈ t.teams) (hd : ∀ x ∈ grids, x ∈ t.grids) (hr : ∀ x ∈ rays, x ∈ t.rays)
    (hn : ∀ x ∈ reds, ∃ y ∈ t.reds, y.ctx = x.ctx) : Ebbs s { t with groups, teams, grids, rays, reds } where
  toSends := h.toSends.trans (Sends.of_eq rfl rfl rfl rfl)
  low := h.low
  cmds := h.cmds
  cmdEnds := h.cmdEnds
  live := h.live
  groups g hx := h.groups g (hg g hx)
  teams x hx := h.teams x (ht x hx)
  grids x hx := h.grids x (hd x hx)
  rays x hx := h.rays x (hr x hx)
  reds := exists_ctx_trans h.reds hn

/-! ## Registers, contexts and groups -/

theorem Ebbs.after_putBar (h : Ebbs s t) {off : Nat} (v : Word) (ho : 0x1000 ≤ off) : Ebbs s (putBar t off v) :=
  { h with
    toSends := h.toSends.trans (Sends.of_eq rfl rfl rfl rfl)
    low := fun o hlt => by rw [barWord_putBar, if_neg (by omega)]; exact h.low o hlt }

theorem Ebbs.after_updCtx (h : Ebbs s t) {ctx : Nat} {f : Ctx → Ctx} (hf : ∀ c, (f c).live = c.live := by intro; rfl) : Ebbs s (updCtx t ctx f) :=
  { h with
    toSends := h.toSends.trans (Sends.of_eq rfl rfl rfl rfl)
    live := fun x => by
      by_cases hx : x = ctx
      · subst hx
        rw [ctxOf_updCtx_same, hf]
        exact h.live x
      · rw [ctxOf_updCtx_other _ _ hx]
        exact h.live x }

theorem Ebbs.after_putCtx (h : Ebbs s t) (ctx off : Nat) (v : Word) : Ebbs s (putCtx t ctx off v) :=
  (h.after_updCtx (f := fun c => { c with active := tput c.active (off / 4) v })).after_putBar v (by simp only [ctxBlock]; omega)

theorem Ebbs.after_setGroup (h : Ebbs s t) {g : Group} (hg : HasGroup s g.ctx) : Ebbs s (setGroup t g) :=
  { h with
    toSends := h.toSends.trans (Sends.of_eq rfl rfl rfl rfl)
    groups := fun x hx => by
      rw [setGroup_groups] at hx
      obtain ⟨y, hy, rfl⟩ := List.mem_map.mp hx
      split
      · exact hg
      · exact h.groups y hy }

theorem hasGroup_of_groupAt {core slot : Nat} {g : Group} (h : groupAt s core slot = some g) : HasGroup s g.ctx :=
  ⟨g, List.mem_of_find?_eq_some h, rfl⟩

theorem Ebbs.after_updGroup (h : Ebbs s t) {core slot : Nat} {f : Group → Group} (hf : ∀ g, (f g).ctx = g.ctx := by intro; rfl) :
    Ebbs s (updGroup t core slot f) := by
  unfold updGroup
  split
  · rename_i g hg
    exact h.after_setGroup (hf g ▸ h.hasGroup (hasGroup_of_groupAt hg))
  · exact h

theorem Ebbs.after_updTeam (h : Ebbs s t) {key : Nat} {f : Team → Team} (hf : ∀ x, (f x).ctx = x.ctx := by intro; rfl) : Ebbs s (updTeam t key f) :=
  { h with
    toSends := h.toSends.trans (Sends.of_eq rfl rfl rfl rfl)
    teams := fun x hx => by
      obtain ⟨y, hy, rfl⟩ := List.mem_map.mp hx
      split
      · rw [hf]
        exact h.teams y hy
      · exact h.teams y hy }

end

end Sys2Proof.Machine
end

section
/-!
The parts of a forced reset, each of which takes work away and brings none (R375).
-/

namespace Sys2Proof.Machine

section
variable {s t u : State}

/-! ## Groups, their traps and their run-ahead -/

theorem Ebbs.after_haltGroup {g : Group} (h : Ebbs s t) (hg : HasGroup s g.ctx) (kind cause addr : Nat) :
    Ebbs s (haltGroup t g kind cause addr) :=
  (h.after_setGroup (g := { g with stopped := some kind, clause := none }) hg).shifts (shifts_report _ _)

theorem Ebbs.after_haltAccess {g : Group} (h : Ebbs s t) (hg : HasGroup s g.ctx) (kind cause va : Nat) :
    Ebbs s (haltAccess t g kind cause va) :=
  (h.shifts (shifts_tellFault _ _ _ _ _ _ _)).after_haltGroup hg _ _ _

theorem Ebbs.after_takeTrap {g : Group} (h : Ebbs s t) (hg : HasGroup s g.ctx) (who : SlotId) (x : TrapInfo) :
    Ebbs s (takeTrap t g who x) := by
  have hd : Ebbs s (dropFails t g.ctx g.core (trapPages x)) := h.shifts (shifts_dropFails _ _ _ _)
  have hr {u : State} (hu : Ebbs s u) : Ebbs s (reportTrap u g x) := hu.shifts (shifts_reportTrap _ _ _)
  unfold takeTrap
  dsimp only
  split
  · exact (hr hd).after_haltGroup (g := setTrapRegs g x) hg _ _ _
  · split
    · exact (hr hd).after_haltGroup (g := setTrapRegs g x) hg _ _ _
    · split
      · exact (hr (hd.shifts (shifts_fillNow _ _ _ _))).after_haltAccess (g := setTrapRegs g x) hg _ _ _
      · exact ((hr (hd.shifts (shifts_fillNow _ _ _ _))).shifts (shifts_storeFrame _ _ _ _)).after_setGroup hg

theorem endOp_ctx (g : Group) (id : Nat) : (endOp g id).ctx = g.ctx := by
  unfold endOp
  split <;> rfl

theorem hasGroup_of_opNamed {core slot id : Nat} {g : Group} {o : MemOp} (h : opNamed s core slot id = some (g, o)) :
    HasGroup s g.ctx := by
  simp only [opNamed, Option.bind_eq_some_iff, Option.map_eq_some_iff] at h
  obtain ⟨x, hx, y, -, e⟩ := h
  obtain rfl : x = g := congrArg Prod.fst e
  exact hasGroup_of_groupAt hx

theorem Ebbs.after_trapLanes (h : Ebbs s t) (core slot id : Nat) (bad : LaneRef → Option (Nat × Nat)) :
    Ebbs s (trapLanes t core slot id bad) := by
  unfold trapLanes
  dsimp only
  split
  · exact h
  · rename_i g o e
    refine Ebbs.after_takeTrap (Ebbs.shifts h.frame (shifts_reportLanes _ _ _)) ?_ _ _
    have hg := h.hasGroup (hasGroup_of_opNamed e)
    dsimp only
    split
    · rwa [endOp_ctx]
    · exact hg

theorem Ebbs.after_endAhead {g : Group} (h : Ebbs s t) (hg : HasGroup s g.ctx) : Ebbs s (endAhead t g) := by
  unfold endAhead
  split
  · rename_i b hb
    refine Ebbs.ite ?_ h
    have hc : Ebbs s (dropCoreFails t g.ctx g.core) := h.shifts (shifts_dropCoreFails _ _ _)
    have ha : Ebbs s (dropAhead (dropCoreFails t g.ctx g.core) g.core g.slot) := hc.frame
    exact (ha.after_setGroup (g := { g with batch := some { b with ahead := false } }) hg).shifts (shifts_reportPages _ _ _)
  · exact h

theorem Ebbs.after_deliver (h : Ebbs s t) (g : Group) {f : Group → Group} (hf : ∀ g, (f g).ctx = g.ctx) : Ebbs s (deliver t g f) :=
  (h.after_updGroup hf).frame

theorem Ebbs.after_dropGroup (h : Ebbs s t) (g : Group) : Ebbs s (dropGroup t g) :=
  Ebbs.frame (h.fewer (groups := t.groups.filter fun x => !(x.core == g.core && x.slot == g.slot)) (teams := t.teams) (grids := t.grids)
    (rays := t.rays) (reds := t.reds) (fun _ hx => List.mem_of_mem_filter hx) (fun _ => id) (fun _ => id) (fun _ => id)
    fun x hx => ⟨x, hx, rfl⟩)

/-! ## The event log -/

theorem Ebbs.after_setStat (h : Ebbs s t) (ctx bit : Nat) (on : Bool) : Ebbs s (setStat t ctx bit on) := h.after_putCtx _ _ _

theorem Ebbs.after_writeDev (h : Ebbs s t) (ctx va : Nat) (v : DWord) : Ebbs s (writeDev t ctx va v) := by
  have hf := h.shifts (shifts_fillNow t ctx noTlb va)
  unfold writeDev
  dsimp only
  split
  · exact (hf.shifts (shifts_homeWrite about_inLine _ _ _ _ _ _ _)).shifts (shifts_homeWrite about_inLine _ _ _ _ _ _ _)
  · exact hf

theorem Ebbs.after_writeDevs (h : Ebbs s t) (ctx va : Nat) (ws : List DWord) : Ebbs s (writeDevs t ctx va ws) :=
  h.foldl fun _ _ _ h => h.after_writeDev _ _ _

theorem Ebbs.after_wmarkIrq (h : Ebbs s t) (ctx : Nat) : Ebbs s (wmarkIrq t ctx) := by
  have hi : Ebbs s { t with irqs := (ctxWord t ctx 0x058).toNat :: t.irqs } := h.frame
  unfold wmarkIrq
  exact Ebbs.ite (Ebbs.ite hi.after_updCtx h) h.after_updCtx

theorem Ebbs.after_logWrite (h : Ebbs s t) (ctx type : Nat) (w1 : DWord) (rest : List DWord) : Ebbs s (logWrite t ctx type w1 rest) := by
  unfold logWrite logWriteOf
  dsimp only
  exact (Ebbs.after_updCtx (Ebbs.after_putCtx (Ebbs.after_writeDevs (Ebbs.ite h (h.after_writeDevs _ _ _)) _ _ _)
    _ _ _)).after_wmarkIrq _

theorem Ebbs.after_setStalls (h : Ebbs s t) (ctx : Nat) (f : List Nat → List Nat) : Ebbs s (setStalls t ctx f) :=
  (h.after_updCtx (f := fun c => { c with stalls := f c.stalls })).after_setStat _ _ _

theorem Ebbs.after_stallAt (h : Ebbs s t) (ctx code : Nat) : Ebbs s (stallAt t ctx code) := Ebbs.ite h (h.after_setStalls _ _)

theorem Ebbs.after_unstall (h : Ebbs s t) (ctx code : Nat) : Ebbs s (unstall t ctx code) := Ebbs.ite (h.after_setStalls _ _) h

theorem Ebbs.after_divergeUnit (h : Ebbs s t) (ctx : Nat) : Ebbs s (divergeUnit t ctx) :=
  ((h.after_setStat ctx 1 true).shifts (shifts_reportCtx _ _ _ _ _ _)).after_updCtx

theorem Ebbs.after_meetBad (h : Ebbs s t) (ctx : Nat) : Ebbs s (meetBad t ctx) := by
  unfold meetBad
  split
  · exact h
  · split
    · exact h
    · refine Ebbs.after_divergeUnit (h.foldl fun va _ u hu => ?_) _
      split
      · exact hu.shifts (shifts_tellFault _ _ _ _ _ _ _)
      · exact hu

theorem Ebbs.after_advanceRptr (h : Ebbs s t) (ctx : Nat) (rs : List LRec) : Ebbs s (advanceRptr t ctx rs) := by
  induction rs generalizing t with
  | nil => exact Ebbs.ite (h.after_setStat _ _ _) h
  | cons r rs ih => exact Ebbs.ite (h.after_meetBad _) (Ebbs.ite (ih (h.after_putCtx _ _ _).after_updCtx) h)

theorem Ebbs.after_matchRec (h : Ebbs s t) (ctx : Nat) (r : LRec) : Ebbs s (matchRec t ctx r) := by
  unfold matchRec
  exact (h.shifts (shifts_fillNow _ _ _ _)).after_updCtx.after_advanceRptr _ _

theorem Ebbs.after_endRun (h : Ebbs s t) (r : AtomRun) : Ebbs s (endRun t r) := Ebbs.after_logWrite h.frame _ _ _ _

theorem Ebbs.of_endRuns {loc n code : Nat} {keep : AtomRun → Bool} (h : Ebbs s t) (e : endRuns t loc n code keep = .ok u) : Ebbs s u := by
  unfold endRuns at e
  generalize List.filter _ _ = rs at e
  induction rs generalizing t with
  | nil =>
    cases e
    exact h
  | cons r rs ih =>
    rw [List.foldl_cons] at e
    dsimp only at e
    split at e
    · exact ih ((h.after_endRun r).after_unstall _ _) e
    · refine absurd e ?_
      clear ih e
      induction rs with
      | nil => exact fun e => nomatch e
      | cons _ _ ih => exact ih

/-- The log lets an atomic go on in a state that has ebbed. -/
def EbbsGo (s : State) : LogGo → Prop
  | .go t => Ebbs s t
  | .stall _ => True
  | .diverge => True

theorem Ebbs.go_recordAtom (h : Ebbs s t) (g : Group) (va loc : Nat) (wide : Bool) (code : Nat) :
    EbbsGo s (recordAtom t g va loc wide code) := by
  unfold recordAtom
  split
  · exact Ebbs.frame h
  · split
    · exact Ebbs.frame h
    · split
      · exact (h.after_endRun _).after_unstall _ _
      · trivial

theorem Ebbs.go_replayAtom (h : Ebbs s t) (g : Group) (va loc : Nat) (wide : Bool) : EbbsGo s (replayAtom t g va loc wide) := by
  -- The definition's equation comes by `delta`: comparing value and body would evaluate the search for the record.
  rw [show replayAtom = _ from by delta replayAtom; rfl]
  split
  · trivial
  · split
    · extract_lets done others
      split
      · exact Ebbs.after_matchRec (Ebbs.frame h) _ _
      · exact Ebbs.frame h
    · trivial

theorem Ebbs.go_atomLog (h : Ebbs s t) (g : Group) (va loc : Nat) (wide : Bool) (op : Nat) : EbbsGo s (atomLog t g va loc wide op) := by
  unfold atomLog
  split
  · trivial
  · rename_i u hu
    split
    · exact (h.of_endRuns hu).go_recordAtom _ _ _ _ _
    · exact (h.of_endRuns hu).go_replayAtom _ _ _ _
    · exact h.of_endRuns hu

theorem Ebbs.of_atomLog {g : Group} {va loc op : Nat} {wide : Bool} (h : Ebbs s t) (e : atomLog t g va loc wide op = .go u) :
    Ebbs s u := by
  have hg := h.go_atomLog g va loc wide op
  rwa [e] at hg

theorem Ebbs.after_endLog (h : Ebbs s t) (ctx : Nat) : Ebbs s (endLog t ctx) :=
  Ebbs.frame (((h.after_putCtx ctx 0x020 0).after_setStat ctx 0 false).after_updCtx
    (f := fun c => { c with stopped := false, matched := [], stalls := [] }))

/-! ## Atomics and reductions -/

theorem poisonV_ctx (g : Group) (n : Nat) (lanes : Mask) : (poisonV g n lanes).ctx = g.ctx := by
  unfold poisonV
  split <;> rfl

theorem setV_ctx (g : Group) (n : Nat) (act : Mask) (f : Nat → Word) : (setV g n act f).ctx = g.ctx := rfl

theorem Ebbs.after_atomLane (h : Ebbs s t) (core slot id : Nat) (fn : AtomFn) (bytes : Nat) (r : LaneRef) :
    Ebbs s (atomLane t core slot id fn bytes r) := by
  unfold atomLane
  dsimp only
  split
  · exact h
  · split
    · exact Ebbs.ite (h.after_stallAt _ _) h
    · exact (h.after_meetBad _).after_trapLanes _ _ _ _
    · rename_i e
      have hl := h.of_atomLog e
      refine Ebbs.after_deliver (Ebbs.shifts (Ebbs.ite hl (hl.shifts (shifts_atomPrepare about_inLine _ _ _ _ _)))
        (shifts_atomPut about_inLine _ _ _ _ _ _ _)) _ fun g => ?_
      simp only [apply_ite Group.ctx, poisonV_ctx, setV_ctx, ite_self]

theorem Ebbs.after_resetAtoms (h : Ebbs s t) (g : Group) : Ebbs s (resetAtoms t g) := by
  unfold resetAtoms
  refine h.foldl fun o _ u hu => ?_
  split
  · exact hu.foldl fun r _ v hv => Ebbs.ite (hv.after_atomLane _ _ _ _ _ _) hv
  · exact hu

theorem parentOf_ctx (n : RedNode) : (parentOf n).ctx = n.ctx := by
  unfold parentOf
  split
  · rfl
  · split <;> rfl

theorem Ebbs.after_reds (h : Ebbs s t) {reds : List RedNode} (hr : ∀ x ∈ reds, ∃ y ∈ t.reds, y.ctx = x.ctx) : Ebbs s { t with reds } :=
  h.fewer (fun _ => id) (fun _ => id) (fun _ => id) (fun _ => id) hr

/-- A node that folds goes, and what it folds into is of its context. -/
theorem Ebbs.after_foldNode (h : Ebbs s t) {n : RedNode} (hn : n ∈ t.reds) : Ebbs s (foldNode t n) := by
  unfold foldNode
  dsimp only
  split
  · refine h.after_reds fun x hx => ?_
    obtain ⟨y, hy, rfl⟩ := List.mem_map.mp hx
    refine ⟨y, List.mem_of_mem_filter hy, ?_⟩
    split <;> rfl
  · refine h.after_reds fun x hx => ?_
    rcases List.mem_append.mp hx with hx | hx
    · exact ⟨x, List.mem_of_mem_filter hx, rfl⟩
    · obtain rfl := List.mem_singleton.mp hx
      exact ⟨n, hn, (parentOf_ctx n).symm⟩

theorem foldl_pick_mem {α : Type} {p : α → α → Bool} (l : List α) (a : α) :
    l.foldl (fun b n => if p b n then b else n) a ∈ a :: l := by
  induction l generalizing a with
  | nil => exact List.mem_cons_self
  | cons x l ih =>
    rw [List.foldl_cons]
    refine (List.mem_cons.mp (ih _)).elim (fun h => ?_) fun h => List.mem_cons_of_mem _ (List.mem_cons_of_mem _ h)
    rw [h]
    split
    · exact List.mem_cons_self
    · exact List.mem_cons_of_mem _ List.mem_cons_self

theorem nextFold_mem {ctx : Nat} {n : RedNode} (h : nextFold s ctx = some n) : n ∈ s.reds := by
  unfold nextFold at h
  dsimp only at h
  split at h
  · cases h
  · rename_i e
    cases h
    exact List.mem_of_mem_filter (e ▸ foldl_pick_mem _ _)

theorem Ebbs.after_foldAll (h : Ebbs s t) (fuel ctx : Nat) : Ebbs s (foldAll fuel t ctx) := by
  induction fuel generalizing t with
  | zero => exact h
  | succ fuel ih =>
    unfold foldAll
    split
    · exact h
    · rename_i hn
      exact ih (h.after_foldNode (nextFold_mem hn))

theorem Ebbs.after_resetReds (h : Ebbs s t) (ctx : Nat) : Ebbs s (resetReds t ctx) :=
  Ebbs.after_foldAll (h.after_reds fun x hx => ⟨x, List.mem_of_mem_filter hx, rfl⟩) _ _

theorem Ebbs.after_resetRoots (h : Ebbs s t) (ctx : Nat) (ns : List RedNode) : Ebbs s (resetRoots ctx ns t) := by
  induction ns generalizing t with
  | nil => exact h
  | cons n ns ih =>
    refine Ebbs.ite (ih ?_) (h.shifts (shifts_rootAsks about_inLine _ _))
    have hr : (rootCombine t n).reds = t.reds := (shifts_rootCombine about_inLine t n).get State.reds fun _ => rfl
    exact (h.shifts (shifts_rootCombine about_inLine t n)).after_reds fun x hx => ⟨x, hr ▸ List.mem_of_mem_filter hx, rfl⟩

/-! ## Grids, engines and quadrants -/

theorem Ebbs.after_overflowRec (h : Ebbs s t) (q : Nat) : Ebbs s (overflowRec t q) :=
  h.after_putBar _ (by simp only [queueBase]; omega)

theorem Ebbs.after_writeCompl (h : Ebbs s t) (q ctx tag gid level status rsrc cl tm rerr : Nat) :
    Ebbs s (writeCompl t q ctx tag gid level status rsrc cl tm rerr) := by
  unfold writeCompl
  dsimp only
  split
  · exact h.after_overflowRec q
  · exact (h.shifts (shifts_homeWrites about_inLine _ _ _ _)).after_putBar _ (by simp only [queueBase]; omega)

theorem Ebbs.after_cancelGrid (h : Ebbs s t) (g : Grid) : Ebbs s (cancelGrid t g) := by
  unfold cancelGrid
  dsimp only
  have h1 {u : State} {p : Prop} [Decidable p] (hu : Ebbs s u) (l : List Team) (tag gid : Nat) : Ebbs s (if p then
      l.foldl (fun s x => writeCompl s g.queue g.ctx tag gid 2 2 0 x.cluster x.team 0) u else u) :=
    Ebbs.ite (hu.foldl fun _ _ _ h => h.after_writeCompl _ _ _ _ _ _ _ _ _ _) hu
  have h2 {u : State} {p : Prop} [Decidable p] (hu : Ebbs s u) (l : List (Nat × Nat)) (tag gid : Nat) : Ebbs s (if p then
      l.foldl (fun s x => writeCompl s g.queue g.ctx tag gid 1 2 0 x.1 0 0) u else u) :=
    Ebbs.ite (hu.foldl fun _ _ _ h => h.after_writeCompl _ _ _ _ _ _ _ _ _ _) hu
  have h3 := (h2 (p := recFlag g.recw 56) (h1 (p := recFlag g.recw 57) h
    (t.teams.filter fun t => t.ctx == g.ctx && some t.grid == g.id) (recTag g.recw) (g.id.getD 0xFFFFFFFF)) g.teamsLeft
    (recTag g.recw) (g.id.getD 0xFFFFFFFF)).after_writeCompl g.queue g.ctx (recTag g.recw) (g.id.getD 0xFFFFFFFF) 0 2 0 0 0 g.rerr
  exact Ebbs.ite h3.frame h3

theorem spPutD_ctx (x : Team) (off : Nat) (v : DWord) : (spPutD x off v).ctx = x.ctx := rfl

theorem Ebbs.after_signalTeam (h : Ebbs s t) (team bofs cls ident : Nat) : Ebbs s (signalTeam t team bofs cls ident) :=
  h.after_updTeam fun x => by rw [spPutD_ctx, spPutD_ctx]

theorem Ebbs.after_releaseEnd (h : Ebbs s t) (ctx : Nat) (scope : Option Nat) : Ebbs s (releaseEnd t ctx scope).1 := by
  unfold releaseEnd
  split
  · exact h
  · exact h.shifts (shifts_releaseRdc about_inLine _ _ _)

theorem Ebbs.after_completeCmd (h : Ebbs s t) (eng : Nat) (c : EngCmd) (cls : Nat) : Ebbs s (completeCmd t eng c cls) :=
  Ebbs.frame (Ebbs.ite (h.after_signalTeam _ _ _ _) h)

theorem Ebbs.after_completeJob (h : Ebbs s t) (q : Nat) (j : QuadJob) (cls : Nat) : Ebbs s (completeJob t q j cls) := by
  unfold completeJob tryRelease
  have hu {u : State} (hu : Ebbs s u) : Ebbs s (updQuad u q fun x => { x with jobs := x.jobs.filter fun p => p.id ≠ j.id }) := hu.frame
  have hj := hu (Ebbs.ite (p := j.bar.1) (h.after_signalTeam j.team j.bar.2 (finalClass cls j.worst) (quadIdent q)) h)
  exact Ebbs.ite hj.frame hj

theorem Ebbs.after_resetEngines (h : Ebbs s t) (ctx : Nat) : Ebbs s (resetEngines t ctx) := by
  unfold resetEngines
  exact h.frame.foldl fun _ _ _ h => h.foldl fun _ _ _ h => (h.after_releaseEnd _ _).after_completeCmd _ _ _

theorem Ebbs.after_resetQuads (h : Ebbs s t) (ctx : Nat) : Ebbs s (resetQuads t ctx) := by
  unfold resetQuads
  exact h.frame.foldl fun _ _ _ h => h.foldl fun _ _ _ h => (h.after_releaseEnd _ _).after_completeJob _ _ _

/-! ## Queues, and the words that are written back -/

theorem Ebbs.after_stopQueues (h : Ebbs s t) (ctx : Nat) : Ebbs s (stopQueues t ctx) :=
  h.foldl fun q _ u hu => Ebbs.ite (hu.after_putBar _ (by simp only [queueBase]; omega)) hu

theorem Ebbs.after_flushStep (h : Ebbs s t) (ctx : Nat) : Ebbs s (flushStep t ctx) := by
  unfold flushStep
  dsimp only
  split
  · exact h
  · rename_i ws _
    have hr := Ebbs.after_resetRoots (h.foldl (f := fun s p => if stillDirty s p then evictL1 s p.1 ctx p.2 else s) (l := ws)
      fun p _ u hu => Ebbs.ite (hu.shifts (shifts_evictL1 _ _ _ _)) hu) ctx (rootsLeft (ws.foldl (fun s p =>
        if stillDirty s p then evictL1 s p.1 ctx p.2 else s) t) ctx)
    exact Ebbs.ite (hr.after_updCtx.shifts (shifts_reportCtx _ _ _ _ _ _)) hr.after_updCtx

end

end Sys2Proof.Machine
end

section
/-!
The forced reset as a whole (R375): nothing of the context's work is left, and one of a context without groups and reductions is
complete at once.
-/

namespace Sys2Proof.Machine

section
variable {s t : State} {ctx : Nat}

/-! ## Its parts -/

/-- A forced reset up to the atomics that its cores perform. -/
def resetStart (s : State) (ctx : Nat) : State :=
  let s := endLog ((ctxGroups s ctx).foldl endAhead s) ctx
  (ctxGroups s ctx).foldl resetAtoms s

/-- A forced reset up to the end of the context's groups and teams. -/
def resetMid (s : State) (ctx : Nat) : State :=
  let s := resetReds (resetStart s ctx) ctx
  resetGroups ((s.grids.filter fun g => g.ctx == ctx).foldl cancelGrid s) ctx

/-- A forced reset up to the stores that it writes back. -/
def resetEnd (s : State) (ctx : Nat) : State :=
  let s := resetMid s ctx
  stopQueues (resetRays (resetQuads (resetEngines { s with grids := s.grids.filter fun g => g.ctx ≠ ctx } ctx) ctx) ctx) ctx

/-- The settings of a context as its stores are written back. -/
def flushing (words : List (Nat × Nat)) (c : Ctx) : Ctx :=
  { c with preempt := false, drained := false, deadline := none, haltWait := false, flush := some words }

theorem forcedReset_eq (s : State) (ctx : Nat) : forcedReset s ctx = flushStep (updCtx (resetEnd s ctx) ctx
    (flushing (dirtyOf (resetStart s ctx) ((ctxGroups s ctx).map fun g => g.core).dedup))) ctx := rfl

theorem hasGroup_of_mem_ctxGroups {g : Group} (h : g ∈ ctxGroups s ctx) : HasGroup s g.ctx := ⟨g, List.mem_of_mem_filter h, rfl⟩

theorem ebbs_resetStart (s : State) (ctx : Nat) : Ebbs s (resetStart s ctx) := by
  unfold resetStart
  exact (Ebbs.after_endLog ((Ebbs.refl s).foldl fun g hg _ h => h.after_endAhead (hasGroup_of_mem_ctxGroups hg)) ctx).foldl
    fun g _ _ h => h.after_resetAtoms g

theorem Ebbs.after_resetGroups (h : Ebbs s t) (ctx : Nat) : Ebbs s (resetGroups t ctx) := by
  have hd : Ebbs s ((ctxGroups t ctx).foldl dropGroup t) := h.foldl fun g _ _ h => h.after_dropGroup g
  exact Ebbs.frame (hd.fewer (fun _ => id) (fun _ hx => List.mem_of_mem_filter hx) (fun _ => id) (fun _ => id) fun x hx => ⟨x, hx, rfl⟩)

theorem ebbs_resetMid (s : State) (ctx : Nat) : Ebbs s (resetMid s ctx) := by
  unfold resetMid
  exact (((ebbs_resetStart s ctx).after_resetReds ctx).foldl fun g _ _ h => h.after_cancelGrid g).after_resetGroups ctx

theorem Ebbs.after_grids (h : Ebbs s t) {grids : List Grid} (hg : ∀ x ∈ grids, x ∈ t.grids) : Ebbs s { t with grids } :=
  h.fewer (fun _ => id) (fun _ => id) hg (fun _ => id) fun x hx => ⟨x, hx, rfl⟩

theorem Ebbs.after_rays (h : Ebbs s t) {rays : List Ray} (hr : ∀ x ∈ rays, x ∈ t.rays) : Ebbs s { t with rays } :=
  h.fewer (fun _ => id) (fun _ => id) (fun _ => id) hr fun x hx => ⟨x, hx, rfl⟩

theorem Ebbs.after_resetRays (h : Ebbs s t) (ctx : Nat) : Ebbs s (resetRays t ctx) := by
  unfold resetRays
  exact Ebbs.after_updCtx (Ebbs.frame (h.after_rays (rays := t.rays.filter fun r => r.ctx ≠ ctx) fun _ hx => List.mem_of_mem_filter hx))

theorem ebbs_resetUnits (s : State) (ctx : Nat) : Ebbs { s with grids := s.grids.filter fun g => g.ctx ≠ ctx }
    (resetQuads (resetEngines { s with grids := s.grids.filter fun g => g.ctx ≠ ctx } ctx) ctx) :=
  ((Ebbs.refl _).after_resetEngines ctx).after_resetQuads ctx

theorem ebbs_resetEnd (s : State) (ctx : Nat) : Ebbs s (resetEnd s ctx) := by
  unfold resetEnd
  exact ((((ebbs_resetMid s ctx).after_grids fun _ hx => List.mem_of_mem_filter hx).trans
    (ebbs_resetUnits _ ctx)).after_resetRays ctx).after_stopQueues ctx

theorem Ebbs.after_flushing (h : Ebbs s t) (words : List (Nat × Nat)) : Ebbs s (updCtx t ctx (flushing words)) := h.after_updCtx

/-- Work goes in a forced reset, and none comes. -/
theorem ebbs_forcedReset (s : State) (ctx : Nat) : Ebbs s (forcedReset s ctx) :=
  ((ebbs_resetEnd s ctx).after_flushing _).after_flushStep ctx

/-! ## Nothing is left of the context's work -/

theorem no_ctx_of_exists {α : Type} {f : α → Nat} {a b : List α} (h : ∀ x ∈ b, ∃ y ∈ a, f y = f x) (ha : ∀ y ∈ a, f y ≠ ctx) :
    ∀ x ∈ b, f x ≠ ctx := by
  intro x hx e
  obtain ⟨y, hy, e'⟩ := h x hx
  exact ha y hy (e'.trans e)

/-- A context has no group and no team. -/
def NoGroups (s : State) (ctx : Nat) : Prop := (∀ g ∈ s.groups, g.ctx ≠ ctx) ∧ ∀ x ∈ s.teams, x.ctx ≠ ctx

theorem NoGroups.ebbs (hs : NoGroups s ctx) (h : Ebbs s t) : NoGroups t ctx :=
  ⟨no_ctx_of_exists h.groups hs.1, no_ctx_of_exists h.teams hs.2⟩

theorem noWork_ebbs (hs : Claims.NoWork s ctx) (h : Ebbs s t) : Claims.NoWork t ctx := by
  obtain ⟨hg, ht, hd, hr⟩ := hs
  exact ⟨no_ctx_of_exists h.groups hg, no_ctx_of_exists h.teams ht, no_ctx_of_exists h.grids hd, no_ctx_of_exists h.rays hr⟩

theorem mem_groups_dropGroup {g x : Group} (h : x ∈ (dropGroup s g).groups) : x ∈ s.groups ∧ x ≠ g := by
  obtain ⟨hx, hne⟩ := List.mem_filter.mp (show x ∈ s.groups.filter fun h => !(h.core == g.core && h.slot == g.slot) from h)
  exact ⟨hx, fun e => by simp [e] at hne⟩

theorem mem_groups_foldl_dropGroup {x : Group} {l : List Group} (h : x ∈ (l.foldl dropGroup s).groups) : x ∈ s.groups ∧ x ∉ l := by
  induction l generalizing s with
  | nil => exact ⟨h, List.not_mem_nil⟩
  | cons g l ih =>
    obtain ⟨hx, hl⟩ := ih h
    obtain ⟨hx, hg⟩ := mem_groups_dropGroup hx
    exact ⟨hx, List.not_mem_cons_of_ne_of_not_mem hg hl⟩

theorem noGroups_resetGroups (s : State) (ctx : Nat) : NoGroups (resetGroups s ctx) ctx := by
  constructor
  · intro g hg e
    obtain ⟨hs, hn⟩ := mem_groups_foldl_dropGroup (show g ∈ ((ctxGroups s ctx).foldl dropGroup s).groups from hg)
    exact hn (List.mem_filter.mpr ⟨hs, beq_iff_eq.mpr e⟩)
  · intro x hx
    exact of_decide_eq_true (List.mem_filter.mp hx).2

theorem noWork_resetEnd (s : State) (ctx : Nat) : Claims.NoWork (resetEnd s ctx) ctx := by
  have hm : NoGroups (resetMid s ctx) ctx := noGroups_resetGroups _ ctx
  unfold resetEnd
  dsimp only
  generalize resetMid s ctx = r at hm ⊢
  have hu := ebbs_resetUnits r ctx
  have hug : NoGroups _ ctx := NoGroups.ebbs (s := { r with grids := r.grids.filter fun g => g.ctx ≠ ctx }) hm hu
  have hud := no_ctx_of_exists hu.grids fun x hx => of_decide_eq_true (List.mem_filter.mp hx).2
  generalize resetQuads _ ctx = u at hug hud ⊢
  have hy := (Ebbs.refl u).after_resetRays ctx
  have hr : ∀ x ∈ (resetRays u ctx).rays, x.ctx ≠ ctx := fun x hx => of_decide_eq_true (List.mem_filter.mp hx).2
  obtain ⟨hg, ht⟩ := hug.ebbs hy
  exact noWork_ebbs ⟨hg, ht, no_ctx_of_exists hy.grids hud, hr⟩ ((Ebbs.refl _).after_stopQueues ctx)

theorem noWork_forcedReset (s : State) (ctx : Nat) : Claims.NoWork (forcedReset s ctx) ctx :=
  noWork_ebbs (noWork_resetEnd s ctx) (((Ebbs.refl _).after_flushing _).after_flushStep ctx)

/-! ## One that is complete at once -/

theorem rootsLeft_of_none (h : ∀ n ∈ s.reds, n.ctx ≠ ctx) : rootsLeft s ctx = [] := by
  have hf : (s.reds.filter fun n => n.ctx == ctx) = [] := List.filter_eq_nil_iff.mpr fun n hn => by simp [h n hn]
  rw [rootsLeft, hf, List.mergeSort_nil]

theorem ctxOf_reportCtx (s : State) (c kind cause addr : Nat) (aux : Word) (x : Nat) :
    ctxOf (reportCtx s c kind cause addr aux) x = ctxOf s x := rfl

theorem flushStep_complete (hf : (ctxOf s ctx).flush = some []) (h : ∀ n ∈ s.reds, n.ctx ≠ ctx) :
    (ctxOf (flushStep s ctx) ctx).flush = none := by
  simp only [flushStep, hf, List.foldl_nil, List.filter_nil, rootsLeft_of_none h, resetRoots, List.isEmpty_nil, Bool.and_self, if_true]
  rw [ctxOf_reportCtx, ctxOf_updCtx_same]

theorem forcedReset_complete (hg : ∀ g ∈ s.groups, g.ctx ≠ ctx) (hn : ∀ n ∈ s.reds, n.ctx ≠ ctx) :
    (ctxOf (forcedReset s ctx) ctx).flush = none := by
  have hc : ctxGroups s ctx = [] := List.filter_eq_nil_iff.mpr fun g h => by simp [hg g h]
  rw [forcedReset_eq, hc]
  refine flushStep_complete ?_ (no_ctx_of_exists (ebbs_resetEnd s ctx).reds hn)
  rw [ctxOf_updCtx_same]
  rfl

end

end Sys2Proof.Machine
end

section
/-!
How a command ends where earlier ends may still wait for their releases (R289), and what a context's freeing leaves (R289).
-/

namespace Sys2Proof.Machine

section
variable {P : Msg → Prop} {s t u : State} {c : HostCmd} {ctx : Nat}

/-! ## Ends that wait, and ends that are written -/

/-- Each end that waits does so for a release that is under way. -/
def Awaits (s : State) : Prop := ∀ e ∈ s.cmdEnds, rdcOut s e.mark = true

/-- The state in which the ends of a list that wait for nothing have been written, and the others stay. -/
def olderWritten (s : State) (l : List CmdEnd) : State :=
  (l.filter fun e => !rdcOut s e.mark).foldl writeEnd { s with cmdEnds := l.filter fun e => rdcOut s e.mark }

theorem settleEnds_eq (s : State) : settleEnds s = olderWritten s s.cmdEnds := rfl

theorem ends_olderWritten (hP : About P) (s : State) (l : List CmdEnd) : Ends P s (olderWritten s l) := by
  refine Ends.trans ?_ (Ends.foldl (fun e _ t => ends_writeEnd hP t e) _)
  exact Ends.of_eq rfl rfl rfl rfl rfl

theorem cmds_foldl_writeEnd (l : List CmdEnd) (s : State) :
    (l.foldl writeEnd s).cmds = s.cmds ∧ (l.foldl writeEnd s).cmdEnds = s.cmdEnds := by
  induction l generalizing s with
  | nil => exact ⟨rfl, rfl⟩
  | cons e l ih =>
    obtain ⟨hc, he, -⟩ := cmds_writeEnd s e
    obtain ⟨hc', he'⟩ := ih (writeEnd s e)
    exact ⟨hc'.trans hc, he'.trans he⟩

theorem cmds_olderWritten (s : State) (l : List CmdEnd) :
    (olderWritten s l).cmds = s.cmds ∧ (olderWritten s l).cmdEnds = l.filter fun e => rdcOut s e.mark :=
  cmds_foldl_writeEnd _ _

theorem olderWritten_snoc_out {l : List CmdEnd} {e : CmdEnd} (h : rdcOut s e.mark = true) :
    e ∈ (olderWritten s (l ++ [e])).cmdEnds := by
  rw [(cmds_olderWritten s _).2]
  exact List.mem_filter.mpr ⟨List.mem_append_right _ List.mem_cons_self, h⟩

theorem olderWritten_snoc_in {l : List CmdEnd} {e : CmdEnd} (h : rdcOut s e.mark = false) :
    olderWritten s (l ++ [e]) = writeEnd (olderWritten s l) e := by
  simp only [olderWritten, List.filter_append, List.filter_cons, h, List.filter_nil, Bool.not_false, if_true, Bool.false_eq_true, if_false,
    List.append_nil, List.foldl_append, List.foldl_cons, List.foldl_nil]

/-- Where none of them is ready, none is written. -/
theorem olderWritten_of_out {l : List CmdEnd} (h : ∀ e ∈ l, rdcOut s e.mark = true) : olderWritten s l = { s with cmdEnds := l } := by
  have hf : l.filter (fun e => !rdcOut s e.mark) = [] := List.filter_eq_nil_iff.mpr fun e he => by simp [h e he]
  rw [olderWritten, hf, List.filter_eq_self.mpr h]
  rfl

theorem awaits_olderWritten (s : State) (l : List CmdEnd) : Awaits (olderWritten s l) := by
  intro e he
  rw [(cmds_olderWritten s l).2] at he
  exact (ends_olderWritten about_foreign s l).out _ (List.mem_filter.mp he).2

theorem awaits_finishCmd (s : State) (c : HostCmd) (status result : Nat) : Awaits (finishCmd s c status result) :=
  awaits_olderWritten _ _

theorem lists_ending (s : State) (c : HostCmd) (status result : Nat) :
    (ending s c status result).cmds = s.cmds.filter (fun x => x ≠ c) ∧
      (ending s c status result).cmdEnds = s.cmdEnds ++ [⟨c, status, result, (ending s c status result).msgSeq⟩] := by
  have hr := shifts_releaseRdc about_foreign { s with cmds := s.cmds.filter fun x => x ≠ c } (some c.ctx) 5
  refine ⟨hr.get State.cmds fun _ => rfl, ?_⟩
  have he := hr.get State.cmdEnds fun _ => rfl
  exact congrArg (fun l => l ++ [(⟨c, status, result, (ending s c status result).msgSeq⟩ : CmdEnd)]) he

/-- With no release under way, a write-back to the host has the property. -/
theorem WordsOk.backs_of_released (h : WordsOk P s) (ho : rdcOut s s.msgSeq = false) :
    ∀ m ∈ s.msgs, m.kind = .wb → m.dst = .host → P m := by
  intro m hm hk hd
  refine (h.backs m hm hk hd).resolve_right fun ⟨hs, hf, hq⟩ => ?_
  have : regsOut s .rdc s.msgSeq = true := List.any_eq_true.mpr ⟨m, hm, by simp [hs, hf, hq, hk]⟩
  rw [rdcOut, this, Bool.true_or] at ho
  cases ho

/-- A command ends: word 7 reads as it was written, or waits for the release. -/
theorem closed_finishCmd (hP : About P) (hs : WordsOk P s) {status result : Nat} (h1 : homeOf c.loc ≠ 1) (h64 : c.loc % 64 = 0)
    (hb : result * 2 ^ 16 + status < 2 ^ 32)
    (hi : rdcOut (ending s c status result) (ending s c status result).msgSeq = false →
      BacksInLine (olderWritten (ending s c status result) s.cmdEnds)) : Claims.Closed (finishCmd s c status result) c status result := by
  obtain ⟨hc, he⟩ := lists_ending s c status result
  have hu : WordsOk P (olderWritten (ending s c status result) s.cmdEnds) :=
    (ends_olderWritten hP _ _).ok ((ends_ending hP s c status result).ok hs)
  rw [finishCmd_eq, settleEnds_eq, he]
  generalize ending s c status result = u at hc hi hu ⊢
  refine ⟨?_, ?_⟩
  · rw [(cmds_olderWritten _ _).1, hc]
    simp
  · cases ho : rdcOut u u.msgSeq with
    | true => exact .inr ⟨_, olderWritten_snoc_out ho, rfl, rfl, rfl⟩
    | false =>
      rw [olderWritten_snoc_in ho]
      exact .inl (readAsEngine_writeEnd hP hu (hi ho) h1 h64 hb)

/-- Where the ends that wait go on waiting, theirs is the only word that may be written. -/
theorem closed_of_awaits (hs : WordsOk InLine s) (ha : Awaits s) {status result : Nat} (h1 : homeOf c.loc ≠ 1) (h64 : c.loc % 64 = 0)
    (hb : result * 2 ^ 16 + status < 2 ^ 32) : Claims.Closed (finishCmd s c status result) c status result := by
  have hu := ends_ending about_inLine s c status result
  refine closed_finishCmd about_inLine hs h1 h64 hb fun ho => ?_
  rw [olderWritten_of_out fun e he => hu.out _ (ha e he)]
  exact (hu.ok hs).backs_of_released ho

theorem hostStill_writeEnd (h : HostStill s) (e : CmdEnd) : HostStill (writeEnd s e) := by
  have hw := h.homeWrites (e.cmd.loc + 56) [loWord e.word7, hiWord e.word7] none
  unfold writeEnd
  simp only
  split
  · exact hw.mono (NoNewBacks.of_eq rfl)
  · exact hw

theorem hostStill_foldl_writeEnd (h : HostStill s) (l : List CmdEnd) : HostStill (l.foldl writeEnd s) := by
  induction l generalizing s with
  | nil => exact h
  | cons e l ih => exact ih (hostStill_writeEnd h e)

theorem HostStill.backsInLine (h : HostStill s) : BacksInLine s := fun m hm hk hd => about_inLine.foreign m (h m hm hk hd)

/-- Where no line of the host is on its way, ends that are ready are written one after the other. -/
theorem closed_of_foreign (hs : WordsOk Foreign s) {status result : Nat} (h1 : homeOf c.loc ≠ 1) (h64 : c.loc % 64 = 0)
    (hb : result * 2 ^ 16 + status < 2 ^ 32) : Claims.Closed (finishCmd s c status result) c status result := by
  have hu := ends_ending about_foreign s c status result
  refine closed_finishCmd about_foreign hs h1 h64 hb fun ho => ?_
  have hh : HostStill (ending s c status result) := (hu.ok hs).backs_of_released ho
  refine HostStill.backsInLine (hostStill_foldl_writeEnd ?_ _)
  exact hh.mono (NoNewBacks.of_eq rfl)

/-- A command that asks for it has raised its interrupt once no end waits. -/
theorem irq_finishCmd {status result : Nat} (he : (finishCmd s c status result).cmdEnds = []) (hq : c.irq = true) :
    (barWord s 0x110).toNat % 2048 ∈ (finishCmd s c status result).irqs := by
  obtain ⟨-, hl⟩ := lists_ending s c status result
  have hu := (ends_ending about_foreign s c status result).barWord 0x110
  rw [finishCmd_eq, settleEnds_eq, hl] at he ⊢
  generalize ending s c status result = u at he hu ⊢
  cases ho : rdcOut u u.msgSeq with
  | true => exact absurd (olderWritten_snoc_out (l := s.cmdEnds) (e := ⟨c, status, result, u.msgSeq⟩) ho) (by rw [he]; exact List.not_mem_nil)
  | false =>
    rw [olderWritten_snoc_in ho, (cmds_writeEnd _ _).2.2, if_pos hq, (ends_olderWritten about_foreign u _).barWord, hu]
    exact List.mem_cons_self

end

end Sys2Proof.Machine
end

section
/-!
CTXDESTROY (R289): what its context held is freed once its reset is complete.
-/

namespace Sys2Proof.Machine

section
variable {P : Msg → Prop} {s t u : State} {c : HostCmd} {ctx : Nat}

/-! ## What a context holds beside its work -/

/-- What a context that is gone no longer holds (R289). -/
structure Freed (s : State) (ctx : Nat) : Prop where
  live : (ctxOf s ctx).live = false
  sync : ∀ x ∈ s.syncTab, x.ctx ≠ ctx
  tiles : ∀ x ∈ s.tiles, x.ctx ≠ ctx
  treelets : ∀ x ∈ s.treelets, x.ctx ≠ ctx
  queues : ∀ q, q < 32 → qCtx s q ≠ some ctx
  banks : ∀ quad b, holdsBank s ctx quad b = false

theorem qCtx_ends (h : Ends P s t) (q : Nat) : qCtx t q = qCtx s q := by rw [qCtx, h.barWord, qCtx]

theorem Freed.ends (hs : Freed s ctx) (h : Ends P s t) : Freed t ctx where
  live := by rw [h.ctxOf, hs.live]
  sync := h.workKept.sync.1 ▸ hs.sync
  tiles := h.workKept.tiles.1 ▸ hs.tiles
  treelets := h.workKept.tiles.2 ▸ hs.treelets
  queues q hq := by
    rw [qCtx_ends h]
    exact hs.queues q hq
  banks quad b := (h.get (holdsBank · ctx quad b) fun _ => rfl).trans (hs.banks quad b)

theorem Freed.destroyed (hs : Freed s c.ctx) (hc : Claims.Closed s c 0 0) : Claims.Destroyed s c :=
  ⟨hc, hs.live, hs.sync, hs.tiles, hs.treelets, hs.queues, hs.banks⟩

/-! ## Banks, tables and tiles -/

/-- A quadrant without the banks of a context. -/
def bankless (ctx : Nat) (q : Quad) : Quad := { q with banks := q.banks.filter fun b => b.2.owner ≠ some ctx }

/-- A state without the banks, sync entries, tiles and treelets of a context. -/
def emptied (s : State) (ctx : Nat) : State :=
  { s with
    quads := s.quads.map fun q => (q.1, bankless ctx q.2)
    syncTab := s.syncTab.filter fun e => e.ctx ≠ ctx
    tiles := s.tiles.filter fun t => t.ctx ≠ ctx
    treelets := s.treelets.filter fun t => t.ctx ≠ ctx }

/-- A launch queue bound to a context is no longer. -/
def unbind (ctx : Nat) (s : State) (q : Nat) : State :=
  if qCtx s q = some ctx then putBar s (queueBase q + 0x20) (barWord s (queueBase q + 0x20) &&& 0xFFFFFF00) else s

theorem freeContext_eq (s : State) (ctx : Nat) : freeContext s ctx =
    updCtx (clearBlock ((List.range 32).foldl (unbind ctx) (endFlushes (emptied (dropOrphans s ctx) ctx) ctx)) ctx) ctx fun _ => noCtx := rfl

theorem owner_bank_filter (t : Tbl Bank) (ctx b : Nat) : (tget (t.filter fun e => e.2.owner ≠ some ctx) b noBank).owner ≠ some ctx := by
  rw [tget]
  cases hf : tfind (t.filter fun e => e.2.owner ≠ some ctx) b with
  | none => simp [noBank]
  | some v => exact of_decide_eq_true (List.mem_filter.mp (mem_of_tfind hf)).2

theorem holdsBank_emptied (s : State) (ctx quad b : Nat) : holdsBank (emptied s ctx) ctx quad b = false := by
  have hq : quadAt (emptied s ctx) quad = bankless ctx (quadAt s quad) := tget_map_tbl s.quads (bankless ctx) quad noQuad
  rw [holdsBank, bankAt, hq]
  exact beq_eq_false_iff_ne.mpr (owner_bank_filter _ _ _)

/-! ## The ends of flushes -/

/-- The commands that wait for flushes of a context's tiles end, and nothing else becomes of the device but that they no longer wait. -/
theorem ends_endFlushes (hP : About P) (s : State) (ctx : Nat) : ∃ flushing, Ends P { s with flushing } (endFlushes s ctx) := by
  unfold endFlushes
  split
  · exact ⟨s.flushing, Ends.refl s⟩
  · exact ⟨_, Ends.foldl (fun f _ t => ends_finishCmd hP t f.2 0 0) _⟩

theorem Awaits.foldl_finishCmd {α : Type} (h : Awaits s) (l : List (α × HostCmd)) : Awaits (l.foldl (fun s f => finishCmd s f.2 0 0) s) := by
  induction l generalizing s with
  | nil => exact h
  | cons f l ih => exact ih (awaits_finishCmd s f.2 0 0)

theorem awaits_endFlushes (h : Awaits s) (ctx : Nat) : Awaits (endFlushes s ctx) := by
  unfold endFlushes
  split
  · exact h
  · exact Awaits.foldl_finishCmd (s := { s with flushing := s.flushing.filter fun f => f.1 ≠ ctx }) h _

/-! ## Queues -/

theorem qCtx_unbind (s : State) (ctx q n : Nat) : qCtx (unbind ctx s n) q = if q = n ∧ qCtx s n = some ctx then none else qCtx s q := by
  unfold unbind
  by_cases h : qCtx s n = some ctx
  · rw [if_pos h]
    by_cases hq : q = n
    · subst hq
      have hbit : (barWord s (queueBase q + 0x20) &&& 0xFFFFFF00).getLsbD 7 = false := by
        rw [BitVec.getLsbD_and, show (0xFFFFFF00 : Word).getLsbD 7 = false by decide, Bool.and_false]
      rw [if_pos ⟨rfl, h⟩, qCtx, barWord_putBar, if_pos rfl]
      simp only [hbit, Bool.false_eq_true, if_false]
    · have hb (v : Word) : barWord (putBar s (queueBase n + 0x20) v) (queueBase q + 0x20) = barWord s (queueBase q + 0x20) := by
        rw [barWord_putBar, if_neg (by simp only [queueBase]; omega)]
      rw [if_neg fun hh => hq hh.1]
      simp only [qCtx, hb]
  · rw [if_neg h, if_neg fun hh => h hh.2]

theorem qCtx_foldl_unbind {l : List Nat} {q : Nat} (h : q ∈ l ∨ qCtx s q ≠ some ctx) : qCtx (l.foldl (unbind ctx) s) q ≠ some ctx := by
  induction l generalizing s with
  | nil => exact h.resolve_left List.not_mem_nil
  | cons n l ih =>
    refine ih ?_
    rw [qCtx_unbind]
    rcases h with h | h
    · rcases List.mem_cons.mp h with rfl | h
      · right
        split
        · exact fun e => nomatch e
        · rename_i hn
          exact fun e => hn ⟨rfl, e⟩
      · exact .inl h
    · right
      split
      · exact fun e => nomatch e
      · exact h

theorem barWord_unbind (s : State) (ctx q : Nat) {off : Nat} (h : off < 0x1000) : barWord (unbind ctx s q) off = barWord s off := by
  unfold unbind
  split
  · rw [barWord_putBar, if_neg (by simp only [queueBase]; omega)]
  · rfl

/-- Queues that are no longer bound differ in their words alone, and the low registers stay. -/
theorem foldl_unbind_eq (ctx : Nat) (l : List Nat) (s : State) :
    ∃ bar, l.foldl (unbind ctx) s = { s with bar } ∧ ∀ off, off < 0x1000 → barWord { s with bar } off = barWord s off := by
  induction l generalizing s with
  | nil => exact ⟨s.bar, rfl, fun _ _ => rfl⟩
  | cons q l ih =>
    obtain ⟨bar, he, hb⟩ := ih (unbind ctx s q)
    obtain ⟨bar', hu⟩ : ∃ bar', unbind ctx s q = { s with bar := bar' } := by
      unfold unbind
      split
      · exact ⟨_, rfl⟩
      · exact ⟨s.bar, rfl⟩
    refine ⟨bar, by rw [List.foldl_cons, he, hu], fun off ho => ?_⟩
    rw [← barWord_unbind s ctx q ho, ← hb off ho, hu]

/-! ## The context is freed -/

/-- A context goes, with what it holds beside its work: words and ends go on, the low registers stay. -/
structure Frees (P : Msg → Prop) (s t : State) (ctx : Nat) : Prop extends Sends P s t where
  freed : Freed t ctx
  low : ∀ off, off < 0x1000 → barWord t off = barWord s off
  noWork : Claims.NoWork s ctx → Claims.NoWork t ctx
  awaits : Awaits s → Awaits t

theorem dropOrphans_eq (s : State) (ctx : Nat) : ∃ rdc, dropOrphans s ctx = { s with rdc } := by
  unfold dropOrphans
  split
  · exact ⟨_, rfl⟩
  · exact ⟨s.rdc, rfl⟩

theorem noWork_ends (hs : Claims.NoWork s ctx) (h : Ends P s t) : Claims.NoWork t ctx := by
  have hk := h.workKept
  unfold Claims.NoWork
  rw [hk.groups, hk.teams, hk.grids, hk.rays]
  exact hs

theorem frees_freeContext (hP : About P) (s : State) (ctx : Nat) : Frees P s (freeContext s ctx) ctx := by
  rw [freeContext_eq]
  obtain ⟨rdc, hr⟩ := dropOrphans_eq s ctx
  rw [hr]
  have ha : Awaits s → Awaits (endFlushes (emptied { s with rdc } ctx) ctx) := fun h => awaits_endFlushes (s := emptied { s with rdc } ctx) h ctx
  obtain ⟨flushing, he⟩ := ends_endFlushes hP (emptied { s with rdc } ctx) ctx
  generalize endFlushes (emptied { s with rdc } ctx) ctx = u at ha he ⊢
  have hq {q : Nat} (h : q < 32) := qCtx_foldl_unbind (s := u) (ctx := ctx) (.inl (List.mem_range.mpr h))
  obtain ⟨bar, hb, hlow⟩ := foldl_unbind_eq ctx (List.range 32) u
  rw [hb] at hq ⊢
  have hk := he.workKept
  have hs : Sends P s { emptied { s with rdc } ctx with flushing } := Sends.of_eq rfl rfl rfl rfl
  exact {
    toSends := hs.trans (he.toSends.trans (Sends.of_eq rfl rfl rfl rfl))
    freed := {
      live := by rw [ctxOf_updCtx_same]; rfl
      sync := fun x hx => of_decide_eq_true (List.mem_filter.mp (hk.sync.1 ▸ hx : x ∈ (emptied { s with rdc } ctx).syncTab)).2
      tiles := fun x hx => of_decide_eq_true (List.mem_filter.mp (hk.tiles.1 ▸ hx : x ∈ (emptied { s with rdc } ctx).tiles)).2
      treelets := fun x hx => of_decide_eq_true (List.mem_filter.mp (hk.tiles.2 ▸ hx : x ∈ (emptied { s with rdc } ctx).treelets)).2
      queues := fun q hlt => by
        have := hq hlt
        rw [qCtx] at this ⊢
        rw [← barWord_clearBlock_out { u with bar } (ctx := ctx) (by simp only [queueBase]; omega)] at this
        exact this
      banks := fun quad b => (he.get (holdsBank · ctx quad b) fun _ => rfl).trans (holdsBank_emptied { s with rdc } ctx quad b) }
    low := fun off ho => (barWord_clearBlock_out { u with bar } (by omega)).trans ((hlow off ho).trans (he.barWord off))
    noWork := fun h => (noWork_ends (s := { emptied { s with rdc } ctx with flushing }) h he : Claims.NoWork u ctx)
    awaits := ha }

/-! ## CTXDESTROY -/

/-- A CTXDESTROY whose reset is complete. -/
def destroyed (s : State) (c : HostCmd) : State := finishCmd (freeContext s c.ctx) c 0 0

theorem execCtxdestroy_eq (s : State) : exec .ctxdestroy s = match s.cmds.find? (fun c => c.code == 0x02 && (ctxOf s c.ctx).flush.isNone) with
    | some c => .next (if (ctxOf s c.ctx).flush.isSome then s else destroyed s c)
    | none => onCode 0x02 s fun s c =>
      if (ctxOf (forcedReset s c.ctx) c.ctx).flush.isSome then forcedReset s c.ctx else destroyed (forcedReset s c.ctx) c := rfl

theorem destroyed_of_closed (h : Claims.Closed (destroyed s c) c 0 0) : Claims.Destroyed (destroyed s c) c :=
  ((frees_freeContext about_foreign s c.ctx).freed.ends (ends_finishCmd about_foreign _ c 0 0)).destroyed h

theorem noWork_destroyed (h : Claims.NoWork s c.ctx) : Claims.NoWork (destroyed s c) c.ctx :=
  noWork_ends ((frees_freeContext about_foreign s c.ctx).noWork h) (ends_finishCmd about_foreign _ c 0 0)

theorem barWord_destroyed (s : State) (c : HostCmd) {off : Nat} (h : off < 0x1000) : barWord (destroyed s c) off = barWord s off :=
  ((ends_finishCmd about_foreign _ c 0 0).barWord off).trans ((frees_freeContext about_foreign s c.ctx).low off h)

/-- One whose reset was complete before (R289). -/
theorem ctxdestroy_complete (hc : s.cmds = [c]) (hcode : c.code = 2) (hf : (ctxOf s c.ctx).flush = none) (h1 : homeOf c.loc ≠ 1)
    (h64 : c.loc % 64 = 0) (hs : WordsOk Foreign s) (hw : Claims.NoWork s c.ctx) :
    ∃ t, exec .ctxdestroy s = .next t ∧ Claims.Destroyed t c ∧ Claims.NoWork t c.ctx := by
  refine ⟨destroyed s c, ?_, destroyed_of_closed ?_, noWork_destroyed hw⟩
  · have hfind : s.cmds.find? (fun c => c.code == 0x02 && (ctxOf s c.ctx).flush.isNone) = some c := by
      simp [hc, hcode, hf]
    rw [execCtxdestroy_eq, hfind]
    simp only [hf, Option.isSome_none, Bool.false_eq_true, if_false]
  · exact closed_of_foreign ((frees_freeContext about_foreign s c.ctx).ok hs) h1 h64 (by decide)

/-- What the command at the ring's head leaves as its context is reset. -/
theorem wordsOk_forcedReset (h : Claims.HeadStands s c) (ctx : Nat) : WordsOk InLine (forcedReset (cmdTaken s c) ctx) := by
  have hc := calm_cmdTaken h
  exact (ebbs_forcedReset (cmdTaken s c) ctx).ok ⟨hc.ok.lines, hc.ok.memory, fun m hm hk hd => absurd hd (hc.settled.host m hm hk)⟩

theorem awaits_forcedReset (h : Claims.HeadStands s c) (ctx : Nat) : Awaits (forcedReset (cmdTaken s c) ctx) := by
  intro e he
  rw [(ebbs_forcedReset (cmdTaken s c) ctx).cmdEnds, (calm_cmdTaken h).settled.ends] at he
  exact absurd he List.not_mem_nil

theorem destroyed_forcedReset (h : Claims.HeadStands s c) : Claims.Destroyed (destroyed (forcedReset (cmdTaken s c) c.ctx) c) c := by
  have hf := frees_freeContext about_inLine (forcedReset (cmdTaken s c) c.ctx) c.ctx
  exact destroyed_of_closed (closed_of_awaits (hf.ok (wordsOk_forcedReset h _)) (hf.awaits (awaits_forcedReset h _)) h.home h.place (by decide))

theorem barWord_forcedReset (s : State) (c : HostCmd) {off : Nat} (h : off < 0x1000) :
    barWord (forcedReset (cmdTaken s c) c.ctx) off = if off / 4 = 0x10C / 4 then barWord s 0x10C + 1 else barWord s off :=
  ((ebbs_forcedReset (cmdTaken s c) c.ctx).low off h).trans (barWord_cmdTaken s c off)

/-- The one at the ring's head (R289, R375). -/
theorem ctxdestroy_head (h : Claims.Proper s c) (hcode : c.code = 2) (hn : ∀ x ∈ s.cmds, x.code ≠ 2) :
    ∃ t, exec .ctxdestroy s = .next (skipIdles t) ∧ barWord t 0x10C = barWord s 0x10C + 1 ∧ Claims.NoWork t c.ctx ∧
    (Claims.Destroyed t c ∨ c ∈ t.cmds ∧ (ctxOf t c.ctx).live = true ∧ (ctxOf t c.ctx).flush.isSome = true) ∧
    ((∀ g ∈ s.groups, g.ctx ≠ c.ctx) → (∀ n ∈ s.reds, n.ctx ≠ c.ctx) →
      Claims.Destroyed t c ∧ (t.cmdEnds = [] → c.irq = true → (barWord s 0x110).toNat % 2048 ∈ t.irqs)) := by
  have hfind : s.cmds.find? (fun c => c.code == 0x02 && (ctxOf s c.ctx).flush.isNone) = none :=
    List.find?_eq_none.mpr fun x hx => by simp [hn x hx]
  have he := onCode_stands h.toHeadStands h.good (.inr h.live) fun s c =>
    if (ctxOf (forcedReset s c.ctx) c.ctx).flush.isSome then forcedReset s c.ctx else destroyed (forcedReset s c.ctx) c
  rw [execCtxdestroy_eq, hfind, ← hcode]
  have hb {off : Nat} (ho : off < 0x1000) := barWord_forcedReset s c ho
  have hw := noWork_forcedReset (cmdTaken s c) c.ctx
  have hr := ebbs_forcedReset (cmdTaken s c) c.ctx
  refine ⟨_, he, ?_⟩
  split
  · rename_i hsome
    refine ⟨hb (by decide), hw, .inr ⟨?_, ?_, hsome⟩, fun hg hd => ?_⟩
    · rw [hr.cmds]
      exact List.mem_append_right _ List.mem_cons_self
    · exact (hr.live c.ctx).trans h.live
    · rw [forcedReset_complete (s := cmdTaken s c) hg hd] at hsome
      cases hsome
  · have hd := destroyed_forcedReset h.toHeadStands
    refine ⟨(barWord_destroyed _ c (by decide)).trans (hb (by decide)), noWork_destroyed hw, .inl hd, fun _ _ => ⟨hd, fun hend hirq => ?_⟩⟩
    have hi := irq_finishCmd hend hirq
    rwa [(frees_freeContext about_foreign _ c.ctx).low _ (by decide), hb (by decide), if_neg (by decide)] at hi

/-! ## The claim -/

theorem contextSettings : Claims.ContextSettings :=
  ⟨fun _ _ h hc hg => ctxcreate_creates h hc hg,
    fun _ _ h hc hn => ctxdestroy_head h hc hn,
    fun _ _ hc hcode hf h1 h64 hm hl hw hn =>
      ctxdestroy_complete hc hcode hf h1 h64 ⟨hl, hw, fun m hm' hk hd => absurd hd (hm m hm' hk)⟩ hn,
    fun _ _ p hp h hc hbit hn => by
      obtain ⟨hlt, he⟩ := exec_byPart p hp
      rw [he]
      exact ⟨setctx_rejects hlt h hc hbit hn, setctx_applies h hc hbit hn⟩,
    fun _ _ _ h => partOk_iff h,
    partOk_running⟩

/-- Settles O56: a reset takes work away and brings none, ends of commands read back or wait for their release, and an invalidation
and a verdict reach all they name. -/
theorem contextsAndTranslations : Obligations.ContextsAndTranslations := ⟨contextSettings, invalidationsAndVerdicts⟩

end

end Sys2Proof.Machine
end

section
/-!
The decoder undoes the encoder (R34 to R41, R47): what the fields of a word put together from its fields are, what each form reads
from the words that its layout writes, and where the opcode map holds each form.
-/

namespace Sys2Proof

/-! ## Fields of a word put together from its fields -/

/-- The bits that a number names are all zero in a bit vector. -/
def Clear {n : Nat} (mask : Nat) (w : BitVec n) : Prop := ∀ i, mask.testBit i = true → w.getLsbD i = false

section
variable {m n : Nat} {x : BitVec m} {y : BitVec n} {lo len mask : Nat}

@[simp] theorem extract_append_low (h : lo + len ≤ n) : (x.append y).extractLsb' lo len = y.extractLsb' lo len :=
  BitVec.extractLsb'_append_eq_of_add_le h

@[simp] theorem extract_append_high (h : n ≤ lo) : (x.append y).extractLsb' lo len = x.extractLsb' (lo - n) len :=
  BitVec.extractLsb'_append_eq_of_le h

theorem getLsbD_append_low (h : lo < n) : (x.append y).getLsbD lo = y.getLsbD lo :=
  BitVec.getLsbD_append.trans (if_pos h)

theorem getLsbD_append_high (h : n ≤ lo) : (x.append y).getLsbD lo = x.getLsbD (lo - n) :=
  BitVec.getLsbD_append.trans (if_neg (Nat.not_lt.mpr h))

/-- One bit of a word, as a field. -/
theorem bitAt_eq (w : Word) (i : Nat) : bitAt w i = (w.extractLsb' i 1)[0] := by simp [bitAt]

@[simp] theorem getElem_bit (b : Bool) : (bit b)[0] = b := by simp [bit]

@[simp] theorem bit_false : bit false = 0#1 := rfl

@[simp] theorem bit_true : bit true = 1#1 := rfl

@[simp] theorem clear_append :
    Clear mask (x.append y) ↔ Clear (mask / 2 ^ n) x ∧ Clear (mask % 2 ^ n) y := by
  constructor
  · refine fun h => ⟨fun i hi => ?_, fun i hi => ?_⟩
    · rw [Nat.testBit_div_two_pow] at hi
      simpa [getLsbD_append_high (Nat.le_add_left n i), -BitVec.append_eq] using h (i + n) hi
    · rw [Nat.testBit_mod_two_pow, Bool.and_eq_true, decide_eq_true_eq] at hi
      exact getLsbD_append_low (x := x) hi.1 ▸ h i hi.2
  · intro ⟨hx, hy⟩ i hi
    rcases Nat.lt_or_ge i n with h | h
    · rw [getLsbD_append_low h]
      exact hy i (by rw [Nat.testBit_mod_two_pow, hi, decide_eq_true h]; rfl)
    · rw [getLsbD_append_high h]
      exact hx _ (by rw [Nat.testBit_div_two_pow, Nat.sub_add_cancel h, hi])

@[simp] theorem clear_zero_mask : Clear 0 x := fun i hi => by simp at hi

@[simp] theorem clear_zero : Clear mask 0#n := fun i _ => by simp

theorem clear_one (h : mask.testBit 0 = false) : Clear mask 1#n := by
  intro i hi
  cases i with
  | zero => simp [h] at hi
  | succ i => simp

end

theorem zeros_ok {mask w : Word} (h : Clear mask.toNat w) : zeros mask w = .ok () := by
  refine if_pos (BitVec.eq_of_getLsbD_eq fun i _ => ?_)
  rw [BitVec.getLsbD_and]
  cases hm : mask.getLsbD i
  · simp
  · simp [h i hm]

/-! ## Extension words (R41) -/

theorem isExt_oxWord (o : Ox) : isExt (oxWord o) = true := by
  simp [isExt, opField, fld, oxWord, HAppend.hAppend, -BitVec.append_eq]

theorem isExt_ixWord (imm : BitVec 32) : isExt (ixWord imm) = true := by
  simp [isExt, opField, fld, ixWord, HAppend.hAppend, -BitVec.append_eq]

theorem isExt_txWord (join : BitVec 20) : isExt (txWord join) = true := by
  simp [isExt, opField, fld, txWord, HAppend.hAppend, -BitVec.append_eq]

theorem readOx_oxWord (o : Ox) : readOx (oxWord o) = .ok o := by
  have hz : zeros 0x01FFC380 (oxWord o) = .ok () :=
    zeros_ok (by simp [oxWord, HAppend.hAppend, -BitVec.append_eq])
  rw [readOx, hz]
  simp [bitAt_eq, fld, oxWord, HAppend.hAppend, -BitVec.append_eq, bind, Except.bind, pure, Except.pure]

theorem fld_ixWord (imm : BitVec 32) : fld (ixWord imm) 0 25 = imm.extractLsb' 0 25 := by
  simp [fld, ixWord, HAppend.hAppend, -BitVec.append_eq]

/-- An immediate from the two parts in which its words hold it. -/
theorem immediate_parts (imm : BitVec 32) : (imm.extractLsb' 25 7).append (imm.extractLsb' 0 25) = imm :=
  (BitVec.extractLsb'_append_extractLsb'_eq_extractLsb' rfl).trans BitVec.extractLsb'_eq_self

/-! ## The decoder at a form -/

/-- The form that the opcode map holds at OP and F (R47). -/
noncomputable def formAt (op : BitVec 7) (fn : BitVec 3) : Option Form :=
  (opcodeMap.lookup op.toNat).bind fun forms => forms[fn.toNat]?

/-- An opcode that holds one form whatever F is. -/
theorem formAt_replicate {op : BitVec 7} {form : Form} (h : opcodeMap.lookup op.toNat = some (List.replicate 8 form))
    (fn : BitVec 3) : formAt op fn = some form := by
  rw [formAt, h]
  exact List.getElem?_replicate_of_lt fn.isLt

section
variable {op : BitVec 7} {fn : BitVec 3} {low : BitVec 22} {form : Form} {i : Instr} {mask : Word} {ox : Option Ox}

theorem opField_formWord : opField (formWord op fn low) = op := by
  simp [opField, fld, formWord, HAppend.hAppend, -BitVec.append_eq]

theorem fnField_formWord : fnField (formWord op fn low) = fn := by
  simp [fnField, fld, formWord, HAppend.hAppend, -BitVec.append_eq]

theorem decode_formWord (h : formAt op fn = some form) (x : Option Word) :
    decode (formWord op fn low) x = form (formWord op fn low) x := by
  obtain ⟨forms, hl, hf⟩ := Option.bind_eq_some_iff.mp h
  simp only [decode, opField_formWord, fnField_formWord, hl, hf]

/-- A word alone, or a word with its extension word, is what its form reads. -/
theorem decodeWords_formWord (h : formAt op fn = some form) (x : Option Word) (hx : ∀ e ∈ x, isExt e = true)
    (hf : form (formWord op fn low) x = .ok i) : decodeWords (formWord op fn low :: x.toList) = .ok (i, []) := by
  rw [← decode_formWord h] at hf
  cases x with
  | none => simp [decodeWords, hf, bind, Except.bind, pure, Except.pure]
  | some e => simp [decodeWords, hf, hx e rfl, bind, Except.bind, pure, Except.pure]

theorem oxWords_eq (ox : Option Ox) : oxWords ox = (ox.map oxWord).toList := by cases ox <;> rfl

/-- Any form of a word with an optional OX word. -/
theorem decodeWords_oxWords (h : formAt op fn = some form) (hf : form (formWord op fn low) (ox.map oxWord) = .ok i) :
    decodeWords (formWord op fn low :: oxWords ox) = .ok (i, []) := by
  rw [oxWords_eq]
  refine decodeWords_formWord h _ (fun e he => ?_) hf
  obtain ⟨o, -, rfl⟩ := Option.mem_map.mp he
  exact isExt_oxWord o

theorem optOx_reads {w : Word} {mk : Word → Option Ox → Instr} (hr : Clear mask.toNat w ∧ mk w ox = i) :
    optOx mask mk w (ox.map oxWord) = .ok i := by
  obtain ⟨hz, hm⟩ := hr
  unfold optOx
  rw [zeros_ok hz]
  cases ox with
  | none => exact congrArg _ hm
  | some o =>
    rw [Option.map_some]
    dsimp only
    rw [readOx_oxWord]
    exact congrArg _ hm

/-- A form with an optional OX word. What a layout has to show, here and for the other forms, is that the bits outside its fields
are zero and that its fields read back. -/
theorem decodeWords_optOx {mk : Word → Option Ox → Instr} (h : formAt op fn = some (optOx mask mk))
    (hr : Clear mask.toNat (formWord op fn low) ∧ mk (formWord op fn low) ox = i) :
    decodeWords (formWord op fn low :: oxWords ox) = .ok (i, []) :=
  decodeWords_oxWords h (optOx_reads hr)

/-- A form with a mandatory OX word. -/
theorem decodeWords_mustOx {mk : Word → Ox → Instr} {o : Ox} (h : formAt op fn = some (mustOx mask mk))
    (hr : Clear mask.toNat (formWord op fn low) ∧ mk (formWord op fn low) o = i) :
    decodeWords [formWord op fn low, oxWord o] = .ok (i, []) := by
  obtain ⟨hz, hm⟩ := hr
  refine decodeWords_oxWords (ox := some o) h ?_
  unfold mustOx
  simp only [Option.map_some]
  rw [zeros_ok hz, readOx_oxWord]
  exact congrArg _ hm

/-- A form with an IX word. -/
theorem decodeWords_mustIx {mk : Word → BitVec 25 → Instr} {imm : BitVec 32} (h : formAt op fn = some (mustIx mask mk))
    (hr : Clear mask.toNat (formWord op fn low) ∧ mk (formWord op fn low) (imm.extractLsb' 0 25) = i) :
    decodeWords [formWord op fn low, ixWord imm] = .ok (i, []) := by
  obtain ⟨hz, hm⟩ := hr
  refine decodeWords_formWord h (some (ixWord imm)) (fun e he => ?_) ?_
  · cases he
    exact isExt_ixWord imm
  · unfold mustIx
    rw [zeros_ok hz]
    exact congrArg _ (fld_ixWord imm ▸ hm)

/-- A form without an extension word. -/
theorem decodeWords_bare {mk : Word → Instr} (h : formAt op fn = some (bare mask mk))
    (hr : Clear mask.toNat (formWord op fn low) ∧ mk (formWord op fn low) = i) :
    decodeWords [formWord op fn low] = .ok (i, []) := by
  obtain ⟨hz, hm⟩ := hr
  refine decodeWords_formWord h none (fun e he => by cases he) ?_
  unfold bare
  rw [zeros_ok hz]
  exact congrArg _ hm

end

/-! ## What each form reads from its own layout (R35 to R40) -/

section
variable {op : BitVec 7} {fn : BitVec 3}

theorem decodeWords_v3 {c : V3 → Option Ox → Instr} (h : formAt op fn = some (v3Form c)) (f : V3) (ox : Option Ox) :
    decodeWords (v3Word op fn f :: oxWords ox) = .ok (c f ox, []) :=
  decodeWords_optOx h (by simp [getV3, fld, bitAt_eq, formWord, HAppend.hAppend, -BitVec.append_eq])

theorem decodeWords_v4 {c : V3 → Ox → Instr} (h : formAt op fn = some (v4Form c)) (f : V3) (o : Ox) :
    decodeWords [v3Word op fn f, oxWord o] = .ok (c f o, []) :=
  decodeWords_mustOx h (by simp [getV3, fld, bitAt_eq, formWord, HAppend.hAppend, -BitVec.append_eq])

theorem decodeWords_v2 {c : V2 → Option Ox → Instr} (h : formAt op fn = some (v2Form c)) (f : V2) (ox : Option Ox) :
    decodeWords (v2Word op fn f :: oxWords ox) = .ok (c f ox, []) :=
  decodeWords_optOx h (by simp [fld, bitAt_eq, formWord, HAppend.hAppend, -BitVec.append_eq])

theorem decodeWords_vsel {c : BitVec 3 → V3 → Option Ox → Instr} (h : formAt op fn = some (vselForm c)) (f : V3) (ox : Option Ox) :
    decodeWords (v3Word op fn f :: oxWords ox) = .ok (c fn f ox, []) :=
  decodeWords_optOx h (by simp [fnField, getV3, fld, bitAt_eq, formWord, HAppend.hAppend, -BitVec.append_eq])

theorem decodeWords_vs {c : VS → Option Ox → Instr} (h : formAt op fn = some (vsForm c)) (f : VS) (ox : Option Ox) :
    decodeWords (vsWord op fn f :: oxWords ox) = .ok (c f ox, []) :=
  decodeWords_optOx h (by simp [fld, bitAt_eq, formWord, HAppend.hAppend, -BitVec.append_eq])

theorem decodeWords_vx {c : VX → Option Ox → Instr} (h : formAt op fn = some (vxForm c)) (f : VX) (ox : Option Ox) :
    decodeWords (vxWord op fn f :: oxWords ox) = .ok (c f ox, []) :=
  decodeWords_optOx h (by simp [fld, bitAt_eq, formWord, HAppend.hAppend, -BitVec.append_eq])

theorem decodeWords_vb {c : VB → Option Ox → Instr} (h : formAt op fn = some (vbForm c)) (f : VB) (ox : Option Ox) :
    decodeWords (vbWord op fn f :: oxWords ox) = .ok (c f ox, []) :=
  decodeWords_optOx h (by simp [fld, bitAt_eq, formWord, HAppend.hAppend, -BitVec.append_eq])

theorem decodeWords_vget {c : VGet → Option Ox → Instr} (h : formAt op fn = some (vgetForm c)) (f : VGet) (ox : Option Ox) :
    decodeWords (vgetWord op fn f :: oxWords ox) = .ok (c f ox, []) :=
  decodeWords_optOx h (by simp [fld, bitAt_eq, formWord, HAppend.hAppend, -BitVec.append_eq])

theorem decodeWords_vi {c : VI → Instr} (h : formAt op fn = some (viForm c)) (f : VI) :
    decodeWords (viWords op fn f) = .ok (c f, []) :=
  decodeWords_mustIx h (by simp [immediate_parts, fld, bitAt_eq, formWord, HAppend.hAppend, -BitVec.append_eq])

theorem decodeWords_vm {c : VM → Instr} (h : formAt op fn = some (vmForm c)) (f : VM) :
    decodeWords (vmWords op fn f) = .ok (c f, []) :=
  decodeWords_mustIx h (by simp [immediate_parts, fld, bitAt_eq, formWord, HAppend.hAppend, -BitVec.append_eq])

theorem decodeWords_si {c : SI → Instr} (h : formAt op fn = some (siForm c)) (f : SI) :
    decodeWords (siWords op fn f) = .ok (c f, []) :=
  decodeWords_mustIx h (by simp [immediate_parts, fld, bitAt_eq, formWord, HAppend.hAppend, -BitVec.append_eq])

theorem decodeWords_sm {c : SM → Instr} (h : formAt op fn = some (smForm c)) (f : SM) :
    decodeWords (smWords op fn f) = .ok (c f, []) :=
  decodeWords_mustIx h (by simp [immediate_parts, fld, bitAt_eq, formWord, HAppend.hAppend, -BitVec.append_eq])

theorem decodeWords_pc {c : PC → Option Ox → Instr} (h : ∀ fn, formAt op fn = some (pcForm c)) (f : PC) (ox : Option Ox) :
    decodeWords (pcWord op f :: oxWords ox) = .ok (c f ox, []) :=
  decodeWords_optOx (h _) (by simp [fnField, fld, formWord, HAppend.hAppend, -BitVec.append_eq])

theorem decodeWords_pl {c : PL → Option Ox → Instr} (h : formAt op fn = some (plForm c)) (f : PL) (ox : Option Ox) :
    decodeWords (plWord op fn f :: oxWords ox) = .ok (c f ox, []) :=
  decodeWords_optOx h (by simp [fld, bitAt_eq, formWord, HAppend.hAppend, -BitVec.append_eq])

theorem decodeWords_p1 {c : P1 → Option Ox → Instr} (h : formAt op fn = some (p1Form c)) (f : P1) (ox : Option Ox) :
    decodeWords (p1Word op fn f :: oxWords ox) = .ok (c f ox, []) :=
  decodeWords_optOx h (by simp [fld, bitAt_eq, formWord, HAppend.hAppend, -BitVec.append_eq])

theorem decodeWords_s3 {c : S3 → Instr} (h : formAt op fn = some (s3Form c)) (f : S3) :
    decodeWords [s3Word op fn f] = .ok (c f, []) :=
  decodeWords_bare h (by simp [fld, bitAt_eq, formWord, HAppend.hAppend, -BitVec.append_eq])

theorem decodeWords_m {c : M → Option Ox → Instr} (h : formAt op fn = some (mForm c)) (f : M) (ox : Option Ox) :
    decodeWords (mWord op fn f :: oxWords ox) = .ok (c f ox, []) :=
  decodeWords_optOx h (by simp [getM, fld, formWord, HAppend.hAppend, -BitVec.append_eq])

theorem decodeWords_mc {c : M → Ox → Instr} (h : formAt op fn = some (mcForm c)) (f : M) (o : Ox) :
    decodeWords [mWord op fn f, oxWord o] = .ok (c f o, []) :=
  decodeWords_mustOx h (by simp [getM, fld, formWord, HAppend.hAppend, -BitVec.append_eq])

theorem decodeWords_ms {c : MS → Option Ox → Instr} (h : formAt op fn = some (msForm c)) (f : MS) (ox : Option Ox) :
    decodeWords (msWord op fn f :: oxWords ox) = .ok (c f ox, []) :=
  decodeWords_optOx h (by simp [fld, formWord, HAppend.hAppend, -BitVec.append_eq])

theorem decodeWords_mp {c : MP → Option Ox → Instr} (h : formAt op fn = some (mpForm c)) (f : MP) (ox : Option Ox) :
    decodeWords (mpWord op fn f :: oxWords ox) = .ok (c f ox, []) :=
  decodeWords_optOx h (by simp [fld, formWord, HAppend.hAppend, -BitVec.append_eq])

theorem decodeWords_mq {c : MQ → Option Ox → Instr} (h : ∀ fn, formAt op fn = some (mqForm c)) (f : MQ) (ox : Option Ox) :
    decodeWords (mqWord op f :: oxWords ox) = .ok (c f ox, []) :=
  decodeWords_optOx (h _) (by simp [fnField, fld, formWord, HAppend.hAppend, -BitVec.append_eq])

theorem decodeWords_mr {c : MR → Option Ox → Instr} (h : ∀ fn, formAt op fn = some (mrForm c)) (f : MR) (ox : Option Ox) :
    decodeWords (mrWord op f :: oxWords ox) = .ok (c f ox, []) :=
  decodeWords_optOx (h _) (by simp [fnField, fld, formWord, HAppend.hAppend, -BitVec.append_eq])

theorem decodeWords_ma {c : MA → Option Ox → Instr} (h : formAt op fn = some (maForm c)) (f : MA) (ox : Option Ox) :
    decodeWords (maWord op fn f :: oxWords ox) = .ok (c f ox, []) :=
  decodeWords_optOx h (by simp [fld, formWord, HAppend.hAppend, -BitVec.append_eq])

theorem decodeWords_md {c : MA → Option Ox → Instr} (h : formAt op fn = some (mdForm c)) (f : MA) (ox : Option Ox) :
    decodeWords (mdWord op fn f :: oxWords ox) = .ok (c f ox, []) :=
  decodeWords_optOx h (by simp [fld, formWord, HAppend.hAppend, -BitVec.append_eq])

theorem decodeWords_mb {c : MB → Option Ox → Instr} (h : formAt op fn = some (mbForm c)) (f : MB) (ox : Option Ox) :
    decodeWords (mbWord op fn f :: oxWords ox) = .ok (c f ox, []) :=
  decodeWords_optOx h (by simp [fld, formWord, HAppend.hAppend, -BitVec.append_eq])

theorem decodeWords_mz {c : BitVec 3 → Option Ox → Instr} (h : formAt op fn = some (mzForm c)) (ctr : BitVec 3) (ox : Option Ox) :
    decodeWords (mzWord op fn ctr :: oxWords ox) = .ok (c ctr ox, []) :=
  decodeWords_optOx h (by simp [fld, formWord, HAppend.hAppend, -BitVec.append_eq])

theorem decodeWords_bra {all any : B → Instr} (h : ∀ fn, formAt op fn = some (braForm all any)) (f : B) :
    decodeWords [bWord op f false] = .ok (all f, []) :=
  decodeWords_bare (h _) (by simp [bitAt_eq, getB, fld, formWord, HAppend.hAppend, -BitVec.append_eq])

theorem decodeWords_braAny {all any : B → Instr} (h : ∀ fn, formAt op fn = some (braForm all any)) (f : B) :
    decodeWords [bWord op f true] = .ok (any f, []) :=
  decodeWords_bare (h _) (by simp [bitAt_eq, getB, fld, formWord, HAppend.hAppend, -BitVec.append_eq])

theorem decodeWords_call {c : B → Instr} (h : ∀ fn, formAt op fn = some (callForm c)) (f : B) :
    decodeWords [bWord op f false] = .ok (c f, []) :=
  decodeWords_bare (h _) (by simp [bitAt_eq, getB, fld, formWord, HAppend.hAppend, -BitVec.append_eq])

theorem decodeWords_split {c : B → BitVec 20 → Instr} (h : ∀ fn, formAt op fn = some (splitForm c)) (f : B) (join : BitVec 20) :
    decodeWords [bWord op f false, txWord join] = .ok (c f join, []) := by
  have hb : getB (bWord op f false) = f := by simp [bWord, bitAt_eq, getB, fld, formWord, HAppend.hAppend, -BitVec.append_eq]
  have hj : fld (txWord join) 0 20 = join := by simp [fld, txWord, HAppend.hAppend, -BitVec.append_eq]
  have hw : zeros 0x100000 (bWord op f false) = .ok () := zeros_ok (by simp [bWord, formWord, HAppend.hAppend, -BitVec.append_eq])
  have hx : zeros 0x01F00000 (txWord join) = .ok () := zeros_ok (by simp [txWord, HAppend.hAppend, -BitVec.append_eq])
  refine decodeWords_formWord (h f.pg) (some (txWord join)) (fun e he => ?_) ?_
  · cases he
    exact isExt_txWord join
  · change splitForm c (bWord op f false) (some (txWord join)) = _
    simp only [splitForm, hw, hx, hb, hj]
    rfl

theorem decodeWords_x0 {i : Instr} (h : formAt op fn = some (x0Form i)) : decodeWords [xWord op fn 0 0 0] = .ok (i, []) :=
  decodeWords_bare h (by simp [formWord, HAppend.hAppend, -BitVec.append_eq])

theorem decodeWords_xs {c : BitVec 6 → Instr} (h : formAt op fn = some (xsForm c)) (d : BitVec 6) :
    decodeWords [xWord op fn 1 ((0 : BitVec 1) ++ d) 0] = .ok (c d, []) := by
  have hk : fld (xWord op fn 1 ((0 : BitVec 1) ++ d) 0) 19 2 = 1 := by
    simp [xWord, fld, formWord, HAppend.hAppend, -BitVec.append_eq]
  have hd : fld (xWord op fn 1 ((0 : BitVec 1) ++ d) 0) 12 6 = d := by
    simp [xWord, fld, formWord, HAppend.hAppend, -BitVec.append_eq]
  have hz : zeros 0x240FFF (xWord op fn 1 ((0 : BitVec 1) ++ d) 0) = .ok () :=
    zeros_ok (by simp [xWord, formWord, HAppend.hAppend, -BitVec.append_eq])
  refine decodeWords_formWord h none (fun e he => by cases he) ?_
  change xsForm c (xWord op fn 1 ((0 : BitVec 1) ++ d) 0) none = _
  simp only [xsForm, hk, hz, hd]
  rfl

theorem decodeWords_xc {c : BitVec 8 → Instr} (h : formAt op fn = some (xcForm c)) (code : BitVec 8) :
    decodeWords [xWord op fn 0 0 code] = .ok (c code, []) :=
  decodeWords_bare h (by simp [fld, formWord, HAppend.hAppend, -BitVec.append_eq])

theorem decodeWords_xr {c : X → Instr} (h : formAt op fn = some (xrForm c)) (f : X) :
    decodeWords [xWord op fn f.kd f.d f.sys] = .ok (c f, []) :=
  decodeWords_bare h (by simp [fld, formWord, HAppend.hAppend, -BitVec.append_eq])

theorem decodeWords_e {c : E → Option Ox → Instr} (h : formAt op fn = some (eForm c)) (f : E) (ox : Option Ox) :
    decodeWords (eWord op fn f :: oxWords ox) = .ok (c f ox, []) :=
  decodeWords_optOx h (by simp [getE, fld, formWord, HAppend.hAppend, -BitVec.append_eq])

theorem decodeWords_ec {c : E → Ox → Instr} (h : formAt op fn = some (ecForm c)) (f : E) (o : Ox) :
    decodeWords [eWord op fn f, oxWord o] = .ok (c f o, []) :=
  decodeWords_mustOx h (by simp [getE, fld, formWord, HAppend.hAppend, -BitVec.append_eq])

theorem decodeWords_eqb {c : EQ → Option Ox → Instr} (h : formAt op fn = some (eqbForm c)) (f : EQ) (ox : Option Ox) :
    decodeWords (eqWord op fn f :: oxWords ox) = .ok (c f ox, []) :=
  decodeWords_optOx h (by simp [fld, formWord, HAppend.hAppend, -BitVec.append_eq])

theorem decodeWords_ef {c : EF → Option Ox → Instr} (h : formAt op fn = some (efForm c)) (f : EF) (ox : Option Ox) :
    decodeWords (efWord op fn f :: oxWords ox) = .ok (c f ox, []) :=
  decodeWords_optOx h (by simp [fld, formWord, HAppend.hAppend, -BitVec.append_eq])

theorem decodeWords_ez {c : EZ → Option Ox → Instr} (h : formAt op fn = some (ezForm c)) (f : EZ) (ox : Option Ox) :
    decodeWords (ezWord op fn f :: oxWords ox) = .ok (c f ox, []) :=
  decodeWords_optOx h (by simp [fld, formWord, HAppend.hAppend, -BitVec.append_eq])

theorem decodeWords_en {c : EN → Option Ox → Instr} (h : formAt op fn = some (enForm c)) (f : EN) (ox : Option Ox) :
    decodeWords (enWord op fn f :: oxWords ox) = .ok (c f ox, []) :=
  decodeWords_optOx h (by simp [fld, formWord, HAppend.hAppend, -BitVec.append_eq])

theorem decodeWords_ep {c : EP → Ox → Instr} (h : formAt op fn = some (epForm c)) (f : EP) (o : Ox) :
    decodeWords [epWord op fn f, oxWord o] = .ok (c f o, []) :=
  decodeWords_mustOx h (by simp [fld, formWord, HAppend.hAppend, -BitVec.append_eq])

theorem decodeWords_y {c : Y → Option Ox → Instr} (h : formAt op fn = some (yForm c)) (f : Y) (ox : Option Ox) :
    decodeWords (yWord op fn f.ctr f.d f.a f.k :: oxWords ox) = .ok (c f ox, []) :=
  decodeWords_optOx h (by simp [fld, formWord, HAppend.hAppend, -BitVec.append_eq])

theorem decodeWords_ya {c : YA → Option Ox → Instr} (h : formAt op fn = some (yaForm c)) (f : YA) (ox : Option Ox) :
    decodeWords (yWord op fn f.ctr f.d f.a 0 :: oxWords ox) = .ok (c f ox, []) :=
  decodeWords_optOx h (by simp [fld, formWord, HAppend.hAppend, -BitVec.append_eq])

theorem decodeWords_yt {c : YT → Option Ox → Instr} (h : formAt op fn = some (ytForm c)) (f : YT) (ox : Option Ox) :
    decodeWords (yWord op fn f.ctr 0 f.a f.k :: oxWords ox) = .ok (c f ox, []) :=
  decodeWords_optOx h (by simp [fld, formWord, HAppend.hAppend, -BitVec.append_eq])

theorem decodeWords_yz {c : BitVec 3 → Option Ox → Instr} (h : formAt op fn = some (yzForm c)) (ctr : BitVec 3) (ox : Option Ox) :
    decodeWords (yWord op fn ctr 0 0 0 :: oxWords ox) = .ok (c ctr ox, []) :=
  decodeWords_optOx h (by simp [fld, formWord, HAppend.hAppend, -BitVec.append_eq])

theorem decodeWords_ahit {go fin : BitVec 3 → Option Ox → Instr} (h : formAt op fn = some (ahitForm go fin)) (ctr : BitVec 3)
    (ox : Option Ox) : decodeWords (yWord op fn ctr 0 0 0 :: oxWords ox) = .ok (go ctr ox, []) :=
  decodeWords_optOx h (by simp [bitAt_eq, fld, formWord, HAppend.hAppend, -BitVec.append_eq])

theorem decodeWords_ahitEnd {go fin : BitVec 3 → Option Ox → Instr} (h : formAt op fn = some (ahitForm go fin)) (ctr : BitVec 3)
    (ox : Option Ox) : decodeWords (yWord op fn ctr 0 0 1 :: oxWords ox) = .ok (fin ctr ox, []) :=
  decodeWords_optOx h (by simp [bitAt_eq, fld, clear_one, formWord, HAppend.hAppend, -BitVec.append_eq])

theorem decodeWords_yk {c : YK → Option Ox → Instr} (h : formAt op fn = some (ykForm c)) (f : YK) (ox : Option Ox) :
    decodeWords (yWord op fn f.ctr f.d 0 f.k :: oxWords ox) = .ok (c f ox, []) :=
  decodeWords_optOx h (by simp [fld, formWord, HAppend.hAppend, -BitVec.append_eq])

theorem decodeWords_acc {own : YD → Option Ox → Instr} {px : YA → Option Ox → Instr} (h : formAt op fn = some (accForm own px))
    (f : YD) (ox : Option Ox) : decodeWords (yWord op fn f.ctr f.d 0 0 :: oxWords ox) = .ok (own f ox, []) := by
  have hb : bitAt (yWord op fn f.ctr f.d 0 0) 0 = false := by simp [yWord, bitAt_eq, formWord, HAppend.hAppend, -BitVec.append_eq]
  refine decodeWords_oxWords h ((if_neg (Bool.eq_false_iff.mp hb)).trans (optOx_reads ?_))
  simp [fld, formWord, HAppend.hAppend, -BitVec.append_eq]

theorem decodeWords_accPx {own : YD → Option Ox → Instr} {px : YA → Option Ox → Instr} (h : formAt op fn = some (accForm own px))
    (f : YA) (ox : Option Ox) : decodeWords (yWord op fn f.ctr f.d f.a 1 :: oxWords ox) = .ok (px f ox, []) := by
  have hb : bitAt (yWord op fn f.ctr f.d f.a 1) 0 = true := by simp [yWord, bitAt_eq, formWord, HAppend.hAppend, -BitVec.append_eq]
  refine decodeWords_oxWords h ((if_pos hb).trans (optOx_reads ?_))
  simp [fld, clear_one, formWord, HAppend.hAppend, -BitVec.append_eq]

theorem decodeWords_ys {c : YS → Option Ox → Instr} (h : formAt op fn = some (ysForm c)) (f : YS) (ox : Option Ox) :
    decodeWords (yWord op fn f.ctr ((0 : BitVec 1) ++ f.d) 0 f.k :: oxWords ox) = .ok (c f ox, []) :=
  decodeWords_optOx h (by simp [fld, formWord, HAppend.hAppend, -BitVec.append_eq])

theorem decodeWords_yn {c : YN → Option Ox → Instr} (h : formAt op fn = some (ynForm c)) (f : YN) (ox : Option Ox) :
    decodeWords (yWord op fn f.ctr ((0 : BitVec 1) ++ f.d) 0 ((0 : BitVec 3) ++ f.k) :: oxWords ox) = .ok (c f ox, []) :=
  decodeWords_optOx h (by simp [fld, formWord, HAppend.hAppend, -BitVec.append_eq])

end

/-- Settles O21, constructor by constructor: the opcode map holds at OP and F of an instruction's word the form that reads the
layout in which the encoder writes its operands. -/
theorem decodeEncode : Obligations.DecodeEncode := by
  intro i hi _
  cases i with
  | vaddI32 f ox | vsubI32 f ox | vaddsI32 f ox | vsubsI32 f ox | vaddsN32 f ox | vsubsN32 f ox | vminI32 f ox | vmaxI32 f ox
    | vminN32 f ox | vmaxN32 f ox | vabsdI32 f ox | vabsdN32 f ox | vmulI32 f ox | vmulhiI32 f ox | vmulhiN32 f ox
    | vandB32 f ox | vorB32 f ox | vxorB32 f ox | vandnB32 f ox | vornB32 f ox | vxnorB32 f ox | vshlB32 f ox | vshrN32 f ox
    | vshrI32 f ox | vrotlB32 f ox | vrotrB32 f ox | vshflIdxB32 f ox | vshflUpB32 f ox | vshflDnB32 f ox | vshflXorB32 f ox
    | vrdxB32 f ox | vwrxB32 f ox | cvtF16x2F32 f ox | cvtBf16x2F32 f ox | pkE4m3 f ox | pkE5m2 f ox | pkE3m2 f ox
    | pkE2m3 f ox | pkE2m1 f ox | pkI8 f ox | pkI4 f ox | upkE4m3 f ox | upkE5m2 f ox | upkE3m2 f ox | upkE2m3 f ox
    | upkE2m1 f ox | upkI8 f ox | upkI4 f ox | upkN8 f ox | upkN4 f ox | faddF32 f ox | fsubF32 f ox | fmulF32 f ox
    | fminF32 f ox | fmaxF32 f ox | fsgnF32 f ox | haddF16x2 f ox | hmulF16x2 f ox | hminF16x2 f ox | hmaxF16x2 f ox
    | haddBf16x2 f ox | hmulBf16x2 f ox | hminBf16x2 f ox | hmaxBf16x2 f ox | fdivF32 f ox
    | fatan2F32 f ox => exact decodeWords_v3 rfl _ _
  | vmadI32 f ox | vdp4I8 f ox | vdp4N8 f ox | vdp2I16 f ox | vbfxN32 f ox | vbfxI32 f ox | vbfiB32 f ox | vfshB32 f ox
    | vprmB8 f ox | pkqN8 f ox | pkqN4 f ox | ffmaF32 f ox | ffmsF32 f ox | fnfmaF32 f ox | fnfmsF32 f ox | hfmaF16x2 f ox
    | hfmaBf16x2 f ox | hdot2F32F16x2 f ox | hdot2F32Bf16x2 f ox => exact decodeWords_v4 rfl _ _
  | vpopcB32 f ox | vclzB32 f ox | vctzB32 f ox | vbrevB32 f ox | vnegI32 f ox | vabsI32 f ox | vmovB32 f ox | vnotB32 f ox
    | cvtF32I32 f ox | cvtF32N32 f ox | cvtI32F32 f ox | cvtN32F32 f ox | cvtF16F32 f ox | cvtBf16F32 f ox | cvtF32F16 f ox
    | cvtF32Bf16 f ox | fabsF32 f ox | fnegF32 f ox | frndF32 f ox | ffloorF32 f ox | fceilF32 f ox | ftruncF32 f ox
    | ffractF32 f ox | fclassF32 f ox | frcpF32 f ox | frsqF32 f ox | fsqrtF32 f ox | fexp2F32 f ox | flog2F32 f ox
    | fsinF32 f ox | fcosF32 f ox | ftanhF32 f ox => exact decodeWords_v2 rfl _ _
  | vaddI32Vs f ox | vsubI32Vs f ox | vmulI32Vs f ox | vandB32Vs f ox | vorB32Vs f ox | vxorB32Vs f ox | vshlB32Vs f ox
    | vshrN32Vs f ox | vbcstLaneB32 f ox => exact decodeWords_vs rfl _ _
  | vaddI32Vi f | vmulI32Vi f | vandB32Vi f | vorB32Vi f | vxorB32Vi f | faddF32Vi f
    | fmulF32Vi f => exact decodeWords_vi rfl _
  | vmovB32Vi f => exact decodeWords_vm rfl _
  | cmpI32 f ox | cmpN32 f ox | cmpF32 f ox => exact decodeWords_pc (formAt_replicate rfl) _ _
  | pand f ox | por f ox | pxor f ox | pandn f ox => exact decodeWords_pl rfl _ _
  | pmov f ox | voteAny f ox | voteAll f ox | voteUni f ox => exact decodeWords_p1 rfl _ _
  | vselB32 sel f ox => exact decodeWords_vsel (formAt_replicate rfl _) _ _
  | vbcstB32 f ox => exact decodeWords_vb rfl _ _
  | vgetB32 f ox => exact decodeWords_vget rfl _ _
  | saddIwSi f | sandBwSi f | sorBwSi f | sxorBwSi f | smulIwSi f => exact decodeWords_si rfl _
  | smovBw f => exact decodeWords_sm rfl _
  | faddF32Vs f ox | fmulF32Vs f ox | fminF32Vs f ox | fmaxF32Vs f ox => exact decodeWords_vx rfl _ _
  | saddIw f | ssubIw f | smulIw f | sandBw f | sorBw f | sxorBw f | sshlBw f | sshrNw f | sshrIw f | sminIw f | smaxIw f
    | sminNw f | smaxNw f | sseqBw f | ssltIw f | ssltNw f => exact decodeWords_s3 rfl _
  | ldgN8 f ox | ldgI8 f ox | ldgN16 f ox | ldgI16 f ox | ldgB32 f ox | ldgB64 f ox | ldgB128 f ox | stgB8 f ox | stgB16 f ox
    | stgB32 f ox | stgB64 f ox | stgB128 f ox | ldgTB32 f ox | ldgTB64 f ox | ldgTB128 f ox | ldsB32 f ox | ldsB64 f ox
    | ldsB128 f ox | stsB32 f ox | stsB64 f ox | stsB128 f ox | atomAddI32 f ox | atomMinI32 f ox | atomMaxI32 f ox
    | atomMinN32 f ox | atomMaxN32 f ox | atomAndB32 f ox | atomOrB32 f ox | atomXorB32 f ox | atomXchgB32 f ox
    | atomAddI64 f ox | atomXchgB64 f ox | redAddF32 f ox | redAddBf16x2 f ox | redAddI32 f ox | redAddI64 f ox
    | redMinF32 f ox | redMaxF32 f ox => exact decodeWords_m rfl _ _
  | lduB32 f ox | lduB64 f ox | lduB128 f ox | lduB256 f ox | lduB512 f ox | stuB32 f ox
    | stuB64 f ox => exact decodeWords_ms rfl _ _
  | atomCasB32 f ox | atomCasB64 f ox => exact decodeWords_mc rfl _ _
  | pfL1 f ox | pfL2 f ox | pfRdc f ox => exact decodeWords_mp rfl _ _
  | acq f ox | rel f ox | acqrel f ox => exact decodeWords_mq (formAt_replicate rfl) _ _
  | invRgn f ox => exact decodeWords_mr (formAt_replicate rfl) _ _
  | barInit f ox | barWait f ox => exact decodeWords_ma rfl _ _
  | barArr f ox => exact decodeWords_md rfl _ _
  | barSync f ox | logmark f ox => exact decodeWords_mb rfl _ _
  | drainSp ctr ox | drainLoc ctr ox | drainTwin ctr ox | drainHost ctr ox => exact decodeWords_mz rfl _ _
  | bra f => exact decodeWords_bra (formAt_replicate rfl) _
  | braAny f => exact decodeWords_braAny (formAt_replicate rfl) _
  | split f join => exact decodeWords_split (formAt_replicate rfl) _ _
  | call f => exact decodeWords_call (formAt_replicate rfl) _
  | ret | exit | yield | nop | tretSkip | tretRetry => exact decodeWords_x0 rfl
  | brx d => exact decodeWords_xs rfl _
  | trap code | brk code | reggrow code | regshrink code => exact decodeWords_xc rfl _
  | pushc f ox => exact decodeWords_e rfl _ _
  | qbindIn f ox | qbindOut f ox => exact decodeWords_eqb rfl _ _
  | qfree f ox => exact decodeWords_ef rfl _ _
  | mloop f ox | mscale f ox => exact decodeWords_ec rfl _ _
  | mzero f ox => exact decodeWords_ez rfl _ _
  | mdrainQ f ox | mdrainSp f ox | mstat f ox => exact decodeWords_en rfl _ _
  | mpath f ox => exact decodeWords_ep rfl _ _
  | rsv f ox => exact decodeWords_ya rfl _ _
  | spwn f ox => exact decodeWords_y rfl _ _
  | trace f ox | tlpf f ox => exact decodeWords_yt rfl _ _
  | epend ctr ox | ahitIgnore ctr ox => exact decodeWords_yz rfl _ _
  | hitattr f ox | rayget f ox | rayset f ox => exact decodeWords_yk rfl _ _
  | accum f ox | accaux f ox => exact decodeWords_acc rfl _ _
  | accumPx f ox | accauxPx f ox => exact decodeWords_accPx rfl _ _
  | ahitAccept ctr ox => exact decodeWords_ahit rfl _ _
  | ahitAcceptEnd ctr ox => exact decodeWords_ahitEnd rfl _ _
  | poolst f ox => exact decodeWords_ys rfl _ _
  | dntile f ox => exact decodeWords_yn rfl _ _
  | rdsys f | wrsys f => exact decodeWords_xr rfl _
  | _ => cases hi

end Sys2Proof
end

section
/-!
The worked words of the spec and the words that no instruction has (R34 to R48).
-/

namespace Sys2Proof

/-- Each worked word is the encoding of its instruction, which is well formed. -/
theorem encode_workedWords : ∀ p ∈ Claims.workedWords, p.2.isEvent = false ∧ encode p.2 = p.1 ∧ p.2.wf = true := by
  decide

/-- Settles O22: the worked words are encodings, which decode to what they encode, and each of the other words is rejected where
the opcode map, or the form that it holds, says so. -/
theorem workedWordsDecode : Obligations.WorkedWordsDecode := by
  refine ⟨fun p hp => ?_, rfl, rfl, rfl, rfl, rfl⟩
  obtain ⟨hi, he, hw⟩ := encode_workedWords p hp
  exact ⟨he ▸ decodeEncode p.2 hi hw, he, hw⟩

end Sys2Proof
end

section
/-!
Integer instructions whose second operand is a scalar or an immediate (R35, R84, R85).
-/

namespace Sys2Proof.Machine

open Sys2Proof.Safety

section
variable {s : State} {g : Group} {c : Clause} {ox : Option Ox} {srcs : List (BitVec 7)} {nw : Bool} {d : BitVec 7}

/-- What a lane reads of its own of plain and sound sources is neither a window's nor poisoned. -/
theorem ownLanes_sound (h : LaneOp s g c ox srcs nw d) (l : Nat) (hl : On (activeMask g c ox) l) :
    ∀ r ∈ ownLanes srcs [] l, windowOf g r.1 = none ∧ (fieldPoison g r.1).getLsbD r.2 = false := by
  intro r hr
  obtain ⟨x, hx, rfl⟩ : ∃ x ∈ srcs, (x, l) = r := by simpa [ownLanes] using hr
  exact ⟨(h.plain x (List.mem_append_left _ hx)).1, h.sound x hx l hl⟩

theorem readField_of_laneOp (h : LaneOp s g c ox srcs nw d) {x : BitVec 7} (hx : x ∈ srcs) (l : Nat) :
    readField g x l = readV g x l := readField_plain (h.plain x (List.mem_append_left _ hx)).1 l

end

section
variable {s : State} {g : Group} {c : Clause}

theorem intVS_sound {f : VS} {ox : Option Ox} (h : LaneOp s g c ox [f.a] f.nw f.d) (hs : ScalarSound g f.si f.sb) (zeroExt : Bool)
    (op : Word → Word → Word) : intVS f ox zeroExt op s = .next (after s (written g (activeMask g c ox) f.nw f.d
      fun l => op (readV g f.a l) (Claims.operandVS g f zeroExt)) c) := by
  refine runVec_one h (vsOp f ox) rfl _ _ (fun l => ?_) ?_ (ownLanes_sound h)
  · rw [readField_of_laneOp h (List.mem_singleton_self _)]
    rfl
  · cases hsi : f.si
    · simpa [vsOp, hsi] using hs hsi
    · simp [vsOp, hsi]

theorem intVI_sound {f : VI} (h : LaneOp s g c none [f.a] f.nw f.d) (op : Word → Word → Word) :
    intVI f op s = .next (after s (written g (activeMask g c none) f.nw f.d fun l => op (readV g f.a l) f.imm) c) :=
  runVec_plain h _ _ fun l => by rw [readField_of_laneOp h (List.mem_singleton_self _)]

end

/-- Without an OX word the active lanes are those of EXEC (R42). -/
theorem activeMask_none (g : Group) (c : Clause) : activeMask g c none = execMask g c := BitVec.and_allOnes

/-- Each VS form computes its operation in each lane. -/
theorem exec_intVS : ∀ p ∈ Claims.intVS, ∀ (f : VS) (ox : Option Ox) (s : State),
    exec (p.1 f ox) s = intVS f ox p.2.1 p.2.2 s := by
  have shl : (fun a b : Word => if b.toNat % 256 < 32 then a <<< (b.toNat % 256) else 0) = shlByte :=
    (funext₂ shlByte_eq).symm
  have shr : (fun a b : Word => if b.toNat % 256 < 32 then a >>> (b.toNat % 256) else 0) = shrByte :=
    (funext₂ shrByte_eq).symm
  simp only [Claims.intVS, List.forall_mem_cons, shl, shr]
  exact ⟨fun _ _ _ => rfl, fun _ _ _ => rfl, fun _ _ _ => rfl, fun _ _ _ => rfl, fun _ _ _ => rfl, fun _ _ _ => rfl,
    fun _ _ _ => rfl, fun _ _ _ => rfl, List.forall_mem_nil _⟩

/-- Each VI form of two operands computes its operation in each lane. -/
theorem exec_intVI : ∀ p ∈ Claims.intVI, ∀ (f : VI) (s : State), exec (p.1 f) s = intVI f p.2 s := by
  simp only [Claims.intVI, List.forall_mem_cons]
  exact ⟨fun _ _ => rfl, fun _ _ => rfl, fun _ _ => rfl, fun _ _ => rfl, fun _ _ => rfl, List.forall_mem_nil _⟩

/-- Settles O2: a VS form reads its scalar beside its own lane of A, and a form with an immediate takes EXEC for its lanes. -/
theorem scalarAndImmediateOperands : Obligations.ScalarAndImmediateOperands := by
  refine ⟨fun p hp f ox s g c h hs => ?_, fun p hp f s g c h => ?_, fun f s g c h => ?_⟩
  · rw [exec_intVS p hp]
    exact intVS_sound h hs _ _
  · rw [exec_intVI p hp, ← activeMask_none]
    exact intVI_sound h _
  · rw [← activeMask_none]
    exact runVec_plain h _ _ fun _ => rfl

end Sys2Proof.Machine
end

section
/-!
Scalar arithmetic at both widths (R36, R104, R105).
-/

namespace Sys2Proof.Machine

open Sys2Proof.Safety

/-! ## What the scalar operations compute at a width -/

section
variable {w : Nat} (a b : BitVec w)

theorem minSigned_eq : minSigned a b = if a.toInt ≤ b.toInt then a else b := by
  have he : a.toInt = b.toInt → a = b := BitVec.eq_of_toInt_eq
  simp only [minSigned, BitVec.slt_iff_toInt_lt]
  grind

theorem maxSigned_eq : maxSigned a b = if a.toInt ≤ b.toInt then b else a := by
  have he : a.toInt = b.toInt → a = b := BitVec.eq_of_toInt_eq
  simp only [maxSigned, BitVec.slt_iff_toInt_lt]
  grind

theorem minUnsigned_eq : minUnsigned a b = if a.toNat ≤ b.toNat then a else b := by
  have he : a.toNat = b.toNat → a = b := BitVec.eq_of_toNat_eq
  simp only [minUnsigned, BitVec.ult_iff_lt, BitVec.lt_def]
  grind

theorem maxUnsigned_eq : maxUnsigned a b = if a.toNat ≤ b.toNat then b else a := by
  have he : a.toNat = b.toNat → a = b := BitVec.eq_of_toNat_eq
  simp only [maxUnsigned, BitVec.ult_iff_lt, BitVec.lt_def]
  grind

theorem shlS_eq (n : Nat) : shlS a n = if n < w then a <<< n else 0 := by
  split
  · rfl
  · exact BitVec.shiftLeft_eq_zero (by omega)

theorem shrS_eq (n : Nat) : shrS a n = if n < w then a >>> n else 0 := by
  split
  · rfl
  · exact BitVec.ushiftRight_eq_zero (by omega)

theorem sarS_eq (n : Nat) : sarS a n = if n < w then a.sshiftRight n else if a.msb then BitVec.allOnes w else 0 := by
  split
  · rfl
  · have hn (i : Nat) : ¬ n + i < w := by omega
    refine BitVec.eq_of_getLsbD_eq fun i hi => ?_
    rw [sarS, BitVec.getLsbD_sshiftRight]
    cases a.msb <;> simp [hi, hn]

end

/-! ## Operands (R36, R104, R126) -/

section
variable {s : State} {g : Group} {c : Clause} {f : S3}

theorem s3Srcs_sound (h : Claims.SoundS3 g f) : ∀ n ∈ s3Srcs f, tget g.sPoison n false = false := by
  cases hsi : f.si <;> simp [s3Srcs, hsi, h.1, h.2]

theorem s3B_eq (g : Group) (f : S3) : s3B g f = Claims.operandS3 64 g f := by
  cases hsi : f.si <;> simp [s3B, Claims.operandS3, hsi]

theorem loWord_eq (v : DWord) : loWord v = v.truncate 32 := rfl

theorem loWord_signExtend (k : BitVec 8) : loWord (k.signExtend 64) = k.signExtend 32 := by
  refine BitVec.eq_of_getLsbD_eq fun i hi => ?_
  simp only [loWord_eq, BitVec.truncate_eq_setWidth, BitVec.getLsbD_setWidth, BitVec.getLsbD_signExtend, hi,
    Nat.lt_trans hi (by decide : 32 < 64), decide_true, Bool.true_and]

theorem loWord_s3B (g : Group) (f : S3) : loWord (s3B g f) = Claims.operandS3 32 g f := by
  cases hsi : f.si
  · simp [s3B, Claims.operandS3, hsi, loWord_eq]
  · simp [s3B, Claims.operandS3, hsi, loWord_signExtend]

/-! ## Each form from sound scalars -/

theorem scalarS3_sound (h : At s g c) (hs : Claims.SoundS3 g f) (op : ∀ w : Nat, BitVec w → BitVec w → BitVec w) :
    scalarS3 f (op 32) (op 64) s = .next (after s (setS g f.d.toNat (Claims.atWidth f.w
      (op 32 ((sReg g f.a.toNat).truncate 32) (Claims.operandS3 32 g f)) (op 64 (sReg g f.a.toNat) (Claims.operandS3 64 g f)))) c) := by
  rw [scalarS3, runScalar_sound h (s3Srcs_sound hs), loWord_s3B, s3B_eq]
  rfl

theorem scalarShift_sound (h : At s g c) (hs : Claims.SoundS3 g f) (op : ∀ w : Nat, BitVec w → Nat → BitVec w) :
    scalarShift f (op 32) (op 64) s = .next (after s (setS g f.d.toNat (Claims.atWidth f.w
      (op 32 ((sReg g f.a.toNat).truncate 32) (Claims.countS3 g f)) (op 64 (sReg g f.a.toNat) (Claims.countS3 g f)))) c) :=
  runScalar_sound h (s3Srcs_sound hs)

theorem scalarCmp_sound (h : At s g c) (hs : Claims.SoundS3 g f) (op : ∀ w : Nat, BitVec w → BitVec w → Bool) :
    scalarCmp f (op 32) (op 64) s = .next (after s (setS g f.d.toNat (if (if f.w
      then op 64 (sReg g f.a.toNat) (Claims.operandS3 64 g f)
      else op 32 ((sReg g f.a.toNat).truncate 32) (Claims.operandS3 32 g f)) then 1 else 0)) c) := by
  rw [scalarCmp, runScalar_sound h (s3Srcs_sound hs), loWord_s3B, s3B_eq]
  rfl

theorem scalarSI_sound {f : SI} (h : At s g c) (hs : tget g.sPoison f.a.toNat false = false)
    (op : ∀ w : Nat, BitVec w → BitVec w → BitVec w) :
    scalarSI f (op 32) (op 64) s = .next (after s (setS g f.d.toNat (Claims.atWidth f.w
      (op 32 ((sReg g f.a.toNat).truncate 32) f.imm) (op 64 (sReg g f.a.toNat) (f.imm.signExtend 64)))) c) :=
  runScalar_sound h (by simpa using hs)

end

/-! ## The forms of the opcode map -/

theorem exec_scalarS3 : ∀ p ∈ Claims.scalarS3, ∀ (f : S3) (s : State), exec (p.1 f) s = scalarS3 f (p.2 32) (p.2 64) s := by
  simp only [Claims.scalarS3, List.forall_mem_cons, ← minSigned_eq, ← maxSigned_eq, ← minUnsigned_eq, ← maxUnsigned_eq]
  exact ⟨fun _ _ => rfl, fun _ _ => rfl, fun _ _ => rfl, fun _ _ => rfl, fun _ _ => rfl, fun _ _ => rfl, fun _ _ => rfl,
    fun _ _ => rfl, fun _ _ => rfl, fun _ _ => rfl, List.forall_mem_nil _⟩

theorem exec_scalarShifts : ∀ p ∈ Claims.scalarShifts, ∀ (f : S3) (s : State),
    exec (p.1 f) s = scalarShift f (p.2 32) (p.2 64) s := by
  simp only [Claims.scalarShifts, List.forall_mem_cons, ← shlS_eq, ← shrS_eq, ← sarS_eq]
  exact ⟨fun _ _ => rfl, fun _ _ => rfl, fun _ _ => rfl, List.forall_mem_nil _⟩

theorem exec_scalarCompares : ∀ p ∈ Claims.scalarCompares, ∀ (f : S3) (s : State),
    exec (p.1 f) s = scalarCmp f (p.2 32) (p.2 64) s := by
  simp only [Claims.scalarCompares, List.forall_mem_cons]
  exact ⟨fun _ _ => rfl, fun _ _ => rfl, fun _ _ => rfl, List.forall_mem_nil _⟩

theorem exec_scalarSI : ∀ p ∈ Claims.scalarSI, ∀ (f : SI) (s : State), exec (p.1 f) s = scalarSI f (p.2 32) (p.2 64) s := by
  simp only [Claims.scalarSI, List.forall_mem_cons]
  exact ⟨fun _ _ => rfl, fun _ _ => rfl, fun _ _ => rfl, fun _ _ => rfl, fun _ _ => rfl, List.forall_mem_nil _⟩

/-- Settles O7: each form, from sound scalars, writes the result of its operation at the word's width and retires. -/
theorem scalarArithmetic : Obligations.ScalarArithmetic := by
  refine ⟨fun p hp f s g c h hs => ?_, fun p hp f s g c h hs => ?_, fun p hp f s g c h hs => ?_, fun p hp f s g c h hs => ?_,
    fun f s g c h => ?_⟩
  · rw [exec_scalarS3 p hp]
    exact scalarS3_sound h hs p.2
  · rw [exec_scalarShifts p hp]
    exact scalarShift_sound h hs p.2
  · rw [exec_scalarCompares p hp]
    exact scalarCmp_sound h hs p.2
  · rw [exec_scalarSI p hp]
    exact scalarSI_sound h hs p.2
  · exact runScalar_sound h (List.forall_mem_nil _)

end Sys2Proof.Machine
end

section
/-!
Branches, calls, returns, and the traps of their targets (R32, R39, R106, R107).
-/

namespace Sys2Proof.Machine

open Sys2Proof.Safety

section
variable {s : State} {g : Group} {c : Clause} {t : Nat} {k : Group → Res}

/-! ## Guards and targets -/

theorem guardLanes_eq (g : Group) (c : Clause) (f : B) : guardLanes g c f = among (execMask g c) (Claims.guardOf g f) := by
  refine (maskOf_eq_mask _ _ fun l hl => ?_).symm
  cases hn : f.pn <;> simp [guardLanes, Claims.guardOf, hn, hl]

theorem guardAll_iff (g : Group) (c : Clause) (f : B) : guardAll g c f = true ↔ Claims.AllTake g c f := by
  rw [guardAll, beq_iff_eq, guardLanes_eq]
  constructor
  · rintro h l ⟨hl, hm⟩
    rw [← h, among, maskOf_getLsbD _ _ hl, Bool.and_eq_true] at hm
    exact hm.2
  · intro h
    refine maskOf_eq_mask _ _ fun l hl => ?_
    cases hm : (execMask g c).getLsbD l
    · rfl
    · simpa using h l ⟨hl, hm⟩

theorem guardLanes_ne_zero_iff (g : Group) (c : Clause) (f : B) : guardLanes g c f ≠ 0 ↔ Claims.SomeTake g c f := by
  rw [guardLanes_eq]
  constructor
  · intro h
    by_contra hno
    refine h (maskOf_eq_zero _ fun l hl => ?_)
    cases hm : (execMask g c).getLsbD l
    · rfl
    · simpa using fun hg => hno ⟨l, ⟨hl, hm⟩, hg⟩
  · rintro ⟨l, ⟨hl, hm⟩, hg⟩ h0
    have hb : (among (execMask g c) (Claims.guardOf g f)).getLsbD l = true := by rw [among, maskOf_getLsbD _ _ hl, hm, hg]; rfl
    rw [h0] at hb
    simp at hb

theorem branchTarget_eq (c : Clause) (ofs : BitVec 20) : branchTarget c ofs = Claims.target c ofs := by
  rw [Claims.target, BitVec.toNat_ofInt]
  rfl

theorem bitsOf_low (v : DWord) (n : Nat) : bitsOf v 0 n = v.toNat % 2 ^ n := by
  rw [bitsOf_eq, Nat.pow_zero, Nat.div_one]

/-! ## Transfers (R32) -/

theorem transfer_header (h : Claims.HeaderAt s g t) : transfer s g c t k = k { g with batch := none } := by
  obtain ⟨ha, w, hw, hm⟩ := h
  simp only [transfer, checkTarget, ha, hw, hm, ne_eq, not_true_eq_false, if_false, if_true]

theorem transfer_misaligned (ha : t % 4 ≠ 0) :
    transfer s g c t k = .next (trapped s { g with batch := none } c 3 (execMask g c) 0xFF t []) := by
  simp only [transfer, checkTarget, if_pos ha]
  rfl

theorem transfer_unmarked {w : Word} (ha : t % 4 = 0) (hw : fetchWord s g.ctx g.core t = .word w) (hm : isHeader w = false) :
    transfer s g c t k = .next (trapped s { g with batch := none } c 3 (execMask g c) 0xFF t []) := by
  simp only [transfer, checkTarget, ha, hw, hm, ne_eq, not_true_eq_false, if_false, Bool.false_eq_true]
  rfl

theorem transfer_fault {n : Nat} (ha : t % 4 = 0) (hf : fetchWord s g.ctx g.core t = .fault n) (hn : n ≠ 0x20) :
    transfer s g c t k = .next (trapped s { g with batch := none } c n (execMask g c) 0xFF t []) := by
  simp only [transfer, checkTarget, ha, hf, hn, ne_eq, not_true_eq_false, false_and, if_false]
  rfl

/-- A clause that ends after a transfer. -/
theorem moveTo_eq (s : State) (g : Group) (c : Clause) (t : Nat) :
    moveTo s { g with batch := none } c t = .next (setGroup s (Claims.left s g c t)) := by
  unfold moveTo endClause Claims.left
  cases c.pcs <;> rfl

theorem transfer_moveTo (h : Claims.HeaderAt s g t) :
    transfer s g c t (fun g => moveTo s g c t) = .next (setGroup s (Claims.left s g c t)) := by
  rw [transfer_header h, moveTo_eq]

/-! ## The instructions that transfer (R106, R107, R110) -/

theorem execBra_taken {f : B} (h : At s g c) (hg : Claims.AllTake g c f) :
    exec (.bra f) s = transfer s g c (Claims.target c f.ofs) fun g => moveTo s g c (Claims.target c f.ofs) := by
  rw [← branchTarget_eq]
  exact (withIssuer_eq h _).trans (if_pos ((guardAll_iff g c f).2 hg))

theorem execBraAny_taken {f : B} (h : At s g c) (hg : Claims.SomeTake g c f ∨ f.pg = 0 ∧ f.pn = false) :
    exec (.braAny f) s = transfer s g c (Claims.target c f.ofs) fun g => moveTo s g c (Claims.target c f.ofs) := by
  rw [← branchTarget_eq]
  exact (withIssuer_eq h _).trans (if_pos (hg.imp_left (guardLanes_ne_zero_iff g c f).2))

theorem execCall_taken {f : B} (h : At s g c) (hg : Claims.AllTake g c f) :
    exec (.call f) s = transfer s g c (Claims.target c f.ofs) fun g =>
      moveTo s (setS g 63 (BitVec.ofNat 64 (nextHeader c))) c (Claims.target c f.ofs) := by
  rw [← branchTarget_eq]
  exact (withIssuer_eq h _).trans (if_pos ((guardAll_iff g c f).2 hg))

theorem jumpScalar_sound {n : Nat} (h : At s g c) (hs : tget g.sPoison n false = false) :
    jumpScalar n s = transfer s g c ((sReg g n).toNat % 2 ^ 48) fun g => moveTo s g c ((sReg g n).toNat % 2 ^ 48) := by
  rw [← bitsOf_low, jumpScalar, withIssuer_eq h, hs]
  rfl

theorem execSplit_looks {f : B} {join : BitVec 20} (h : At s g c) (hh : g.inHandler = false) :
    ∃ k, exec (.split f join) s = transfer s g c (Claims.target c f.ofs) k := by
  rw [← branchTarget_eq]
  exact ⟨_, (withIssuer_eq h _).trans (if_neg (Bool.eq_false_iff.mp hh))⟩

/-- What transfers checks its target before anything else. -/
theorem exec_transfersTo {i : Instr} (h : At s g c) (ht : Claims.TransfersTo g c i t) : ∃ k, exec i s = transfer s g c t k := by
  cases ht with
  | bra _ hg => exact ⟨_, execBra_taken h hg⟩
  | braAny _ hg => exact ⟨_, execBraAny_taken h hg⟩
  | call _ hg => exact ⟨_, execCall_taken h hg⟩
  | ret hs => exact ⟨_, jumpScalar_sound h hs⟩
  | brx _ hs => exact ⟨_, jumpScalar_sound h hs⟩
  | split _ _ hh => exact execSplit_looks h hh

/-! ## The instructions that go on -/

theorem execBra_passes {f : B} (h : At s g c) (hg : ¬ Claims.AllTake g c f) : exec (.bra f) s = .next (after s g c) :=
  (withIssuer_eq h _).trans (if_neg (mt (guardAll_iff g c f).1 hg))

theorem execCall_passes {f : B} (h : At s g c) (hg : ¬ Claims.AllTake g c f) : exec (.call f) s = .next (after s g c) :=
  (withIssuer_eq h _).trans (if_neg (mt (guardAll_iff g c f).1 hg))

theorem execBraAny_passes {f : B} (h : At s g c) (hg : ¬ (Claims.SomeTake g c f ∨ f.pg = 0 ∧ f.pn = false)) :
    exec (.braAny f) s = .next (after s g c) :=
  (withIssuer_eq h _).trans (if_neg (mt (Or.imp_left (guardLanes_ne_zero_iff g c f).1) hg))

end

theorem branches : Claims.Branches := fun s g c h =>
  ⟨fun _ => ⟨fun hg ht => ⟨(execBra_taken h hg).trans (transfer_moveTo ht),
        (execCall_taken h hg).trans ((transfer_header ht).trans (moveTo_eq s (setS g 63 _) c _))⟩,
      fun hg => ⟨execBra_passes h hg, execCall_passes h hg⟩,
      fun hg ht => (execBraAny_taken h hg).trans (transfer_moveTo ht), fun hg => execBraAny_passes h hg⟩,
    fun hs ht => (jumpScalar_sound h hs).trans (transfer_moveTo ht),
    fun _ hs ht => (jumpScalar_sound h hs).trans (transfer_moveTo ht)⟩

theorem transferTraps : Claims.TransferTraps := by
  intro s g c h i t ht
  obtain ⟨k, hk⟩ := exec_transfersTo h ht
  rw [hk]
  exact ⟨transfer_misaligned, fun _ => transfer_unmarked, fun _ => transfer_fault⟩

/-- Settles O34: a transfer that is taken checks its target, which a header lets pass and all else traps. -/
theorem transfers : Obligations.Transfers := ⟨branches, transferTraps⟩

end Sys2Proof.Machine
end

section
/-!
Comparisons into predicates (R37, R86): what a word with a predicate destination leaves, and how FP32 values are ordered.
-/

namespace Sys2Proof.Machine

open Sys2Proof.Safety

/-! ## A word with a predicate destination -/

section
variable {s : State} {g : Group} {c : Clause} {ox : Option Ox} {srcs : List (BitVec 7)} {pd : BitVec 3}

theorem predOp_fields {fp : Bool} : (plainOp (.pred pd) srcs [] ox fp).fields = srcs ++ dest true 0 := by
  simp [VecOp.fields, plainOp, Dst.fields, dest]

theorem inputQueues_setP (g : Group) (n : Nat) (m : Mask) (o : VecOp) : inputQueues (setP g n m) o = inputQueues g o := by
  unfold setP
  split <;> rfl

/-- The bits of some lanes, merged into a predicate. -/
theorem setP_mergeMask (g : Group) (act : Mask) (pd : BitVec 3) (bit : Nat → Bool) :
    setP g pd.toNat (mergeMask act (maskOf bit) (pReg g pd.toNat)) = Claims.decided g act pd bit := by
  refine congrArg (setP g pd.toNat) (maskOf_eq_mask _ _ fun l hl => ?_).symm
  rw [mergeMask_getLsbD _ _ _ _ hl, maskOf_getLsbD _ _ hl]

/-- Lanes that read sound data and raise no trap of their own all perform their operation (R77). -/
theorem performedMask_sound {o : VecOp} {act : Mask} {out : Nat → LaneOut}
    (hr : ∀ l, On act l → ∀ r ∈ o.reads l, windowOf g r.1 = none ∧ (fieldPoison g r.1).getLsbD r.2 = false)
    (hc : ∀ l, (out l).cause = none) : performedMask g o act out = act := by
  refine maskOf_eq_mask _ _ fun l hl => ?_
  cases hact : act.getLsbD l
  · rfl
  · have hp : ((o.reads l).any fun r => poisonField g r.1 r.2) = false := List.any_eq_false.2 fun r h => by
      obtain ⟨hw, hf⟩ := hr l ⟨hl, hact⟩ r h
      simp [poisonField_plain hw, hf]
    simp [hp, hc]

/-- The group after lanes have raised their conditions, in an instruction that can raise some. -/
def flagged (g : Group) (fp : Bool) (act : Mask) (fl : Nat → Flags) : Group := if fp then setFlags g act fl else g

/-- What a word with a predicate destination leaves when no lane advances the generator. -/
theorem vecResult_pred {o : VecOp} {act good : Mask} {out : Nat → LaneOut} (hd : o.dst = .pred pd) (hq : inputQueues g o = [])
    (hs : ∀ l, (out l).seed = none) : vecResult g o act good out =
      Claims.decided (flagged g o.fp (performedMask g o act out) fun l => (out l).fl) good pd fun l => (out l).val 0 ≠ 0 := by
  have hseeds : (maskOf fun l => good.getLsbD l && (out l).seed.isSome) = 0 := maskOf_eq_zero _ fun l _ => by simp [hs l]
  have hpop : inputQueues (flagged g o.fp (performedMask g o act out) fun l => (out l).fl) o = [] := by
    rw [← hq]
    unfold flagged
    cases o.fp <;> rfl
  simp only [vecResult, writeDst, shiftDst, hd, hseeds, setSeeds, if_true, ite_self]
  rw [popQueues_plain (by rw [inputQueues_setP]; exact hpop), setP_mergeMask]
  rfl

/-- A word with a predicate destination whose lanes raise no enabled condition sets the bits of its active lanes. -/
theorem runVec_pred (h : LaneOp s g c ox srcs true 0) (fp : Bool) (f : Group → Nat → LaneOut) (bit : Nat → Bool)
    (fl : Nat → Flags) (hv : ∀ l, f g l = { LaneOut.bit (bit l) with fl := fl l })
    (hq : fp = false ∨ ∀ l, On (activeMask g c ox) l → fpFaults (enabledTraps g.fpctl) (fl l) = false) :
    runVec (plainOp (.pred pd) srcs [] ox fp) f s = .next (after s
      (Claims.decided (flagged g fp (activeMask g c ox) fl) (activeMask g c ox) pd bit) c) := by
  have hp := h.plain
  rw [← predOp_fields (ox := ox) (pd := pd) (fp := fp)] at hp
  have hout : f g = fun l => { LaneOut.bit (bit l) with fl := fl l } := funext hv
  have hbit : (fun l => decide ((f g l).val 0 ≠ 0)) = bit := funext fun l => by
    rw [hv]
    cases bit l <;> rfl
  have hres : vecResult g (plainOp (.pred pd) srcs [] ox fp) (activeMask g c ox) (activeMask g c ox) (f g) =
      Claims.decided (flagged g fp (activeMask g c ox) fl) (activeMask g c ox) pd bit := by
    rw [vecResult_pred rfl (inputQueues_plain hp) fun l => by rw [hv]; rfl, hbit,
      performedMask_sound (ownLanes_sound h) fun l => by rw [hv]; rfl, hout]
    rfl
  rw [runVec_quiet (c := c) (g := g) h.standing hp h.active rfl fun l hl ha => ?_]
  · exact congrArg (fun g' => Host.Outcome.next (after s g' c)) hres
  · refine laneCause_sound (ownLanes_sound h l ⟨hl, ha⟩) (by rw [hv]; rfl) (hq.imp_right fun hf => ?_)
    rw [hv]
    exact hf l ⟨hl, ha⟩

end

/-! ## Conditions of an ordered comparison (R37) -/

theorem condHolds_eq {cond : Nat} (h : cond < 6) (lt eq : Bool) : condHolds cond lt eq = Claims.holds cond lt eq := by
  interval_cases cond <;> cases lt <;> cases eq <;> rfl

section
variable {s : State} {g : Group} {c : Clause} {ox : Option Ox} {f : PC}

theorem execCmpI32_sound (h : LaneOp s g c ox [f.a, f.b] true 0) (hc : f.cond.toNat < 6) :
    exec (.cmpI32 f ox) s = .next (after s (Claims.decided g (activeMask g c ox) f.pd fun l => Claims.holds f.cond.toNat
      (decide ((readV g f.a l).toInt < (readV g f.b l).toInt)) (readV g f.a l == readV g f.b l)) c) := by
  refine runVec_pred h false _ _ (fun _ => 0) (fun l => ?_) (.inl rfl)
  rw [readField_of_laneOp h (by simp), readField_of_laneOp h (by simp), condHolds_eq hc]
  rfl

theorem execCmpN32_sound (h : LaneOp s g c ox [f.a, f.b] true 0) (hc : f.cond.toNat < 6) :
    exec (.cmpN32 f ox) s = .next (after s (Claims.decided g (activeMask g c ox) f.pd fun l => Claims.holds f.cond.toNat
      (decide ((readV g f.a l).toNat < (readV g f.b l).toNat)) (readV g f.a l == readV g f.b l)) c) := by
  refine runVec_pred h false _ _ (fun _ => 0) (fun l => ?_) (.inl rfl)
  rw [readField_of_laneOp h (by simp), readField_of_laneOp h (by simp), condHolds_eq hc]
  rfl

end

/-! ## The order of FP32 values (R86) -/

/-- The signed mantissa of a finite value, over a power of two that is not above its own, is its value. -/
theorem value_scaledTo (n : Bool) (m : Nat) {e q : Int} (h : q ≤ e) :
    Claims.value (.fin n m e) = scaledTo n m e q * (2 : ℚ) ^ q := by
  have hpow : (2 : ℚ) ^ e = 2 ^ (e - q).toNat * 2 ^ q := by
    rw [← zpow_natCast, ← zpow_add₀ two_ne_zero]
    congr 1
    omega
  cases n <;> simp [Claims.value, scaledTo, hpow, mul_assoc]

theorem fpOrder_finite (n k : Bool) (m o : Nat) (e h : Int) :
    fpOrder (.fin n m e) (.fin k o h) =
      (decide (Claims.value (.fin n m e) < Claims.value (.fin k o h)), decide (Claims.value (.fin n m e) = Claims.value (.fin k o h))) := by
  have hq : (0 : ℚ) < 2 ^ min e h := by positivity
  have hneg : scaledTo (!k) o h (min e h) = -scaledTo k o h (min e h) := by cases k <;> simp [scaledTo]
  rw [value_scaledTo n m (min_le_left e h), value_scaledTo k o (min_le_right e h)]
  simp only [mul_lt_mul_iff_left₀ hq, mul_left_inj' hq.ne', Int.cast_lt, Int.cast_inj, fpOrder, fpNeg, fpAdd, hneg]
  generalize scaledTo n m e (min e h) = a
  generalize scaledTo k o h (min e h) = b
  by_cases hab : a = b
  · by_cases hz : m = 0 ∧ o = 0 ∧ n = !k <;> simp [hab, hz]
  · have h0 : ¬ a + -b = 0 := by omega
    simp [hab, h0]

theorem fpOrder_inf_left (n : Bool) {y : Fp} (hy : Claims.Finite y) : fpOrder (.inf n) y = (n, false) := by
  obtain ⟨k, m, e, rfl⟩ := hy
  rfl

theorem fpOrder_inf_right (n : Bool) {x : Fp} (hx : Claims.Finite x) : fpOrder x (.inf n) = (!n, false) := by
  obtain ⟨k, m, e, rfl⟩ := hx
  rfl

theorem fpOrder_inf (n k : Bool) : fpOrder (.inf n) (.inf k) = (n && !k, n == k) := by
  cases n <;> cases k <;> rfl

theorem fpCond_flags (cond : Nat) (x y : Fp) : (fpCond cond x y).2 = Claims.comparisonFlags cond x y := by
  unfold fpCond Claims.comparisonFlags
  cases hn : x.isNan || y.isNan
  · simp only [Bool.false_eq_true, false_and, if_false]
    split_ifs <;> rfl
  · simp

/-- With an ordered condition of values that are not NaN, the order decides. -/
theorem fpCond_ordered {cond : Nat} {x y : Fp} (hx : x.isNan = false) (hy : y.isNan = false) (hc : cond < 6) :
    (fpCond cond x y).1 = Claims.holds cond (fpOrder x y).1 (fpOrder x y).2 := by
  have h6 : cond ≠ 6 := by omega
  have h7 : cond ≠ 7 := by omega
  simp [fpCond, hx, hy, h6, h7, condHolds_eq hc]

theorem isNan_finite {x : Fp} (h : Claims.Finite x) : x.isNan = false := by
  obtain ⟨n, m, e, rfl⟩ := h
  rfl

/-- The truth of a condition is what the values say, −0 equal to +0 and NaN unordered. -/
theorem fpCond_compares (cond : Nat) (x y : Fp) : Claims.Compares cond x y (fpCond cond x y).1 := by
  refine ⟨fun hn => by simp [fpCond, hn], fun hn h6 => by simp [fpCond, hn, h6], fun hn h7 => by simp [fpCond, hn, h7],
    fun hx hy hc => ?_, fun n hx hy hc => ?_, fun n hy hx hc => ?_, fun n k hx hy hc => ?_⟩
  · rw [fpCond_ordered (isNan_finite hx) (isNan_finite hy) hc]
    obtain ⟨n, m, e, rfl⟩ := hx
    obtain ⟨k, o, h, rfl⟩ := hy
    rw [fpOrder_finite]
  · subst hx
    rw [fpCond_ordered rfl (isNan_finite hy) hc, fpOrder_inf_left n hy]
  · subst hy
    rw [fpCond_ordered (isNan_finite hx) rfl hc, fpOrder_inf_right n hx]
  · subst hx hy
    rw [fpCond_ordered rfl rfl hc, fpOrder_inf]

theorem floatingPointComparison : Claims.FloatingPointComparison := by
  intro f ox s g c h e act x y fl hq
  refine ⟨fun l => (fpCond f.cond.toNat (x l) (y l)).1, ?_, fun l _ => fpCond_compares _ _ _⟩
  refine runVec_pred h true _ _ fl (fun l => ?_) (.inr hq)
  have hfl : fl l = (fpCond f.cond.toNat (x l) (y l)).2 := (fpCond_flags _ _ _).symm
  rw [hfl, readField_of_laneOp h (by simp), readField_of_laneOp h (by simp)]
  rfl

/-- Settles O28: a comparison sets the bits of its active lanes, and the order of two values is the sign of their exact
difference. -/
theorem comparisons : Obligations.Comparisons :=
  ⟨⟨fun _ _ _ _ _ h hc => execCmpI32_sound h hc, fun _ _ _ _ _ h hc => execCmpN32_sound h hc⟩, floatingPointComparison⟩

end Sys2Proof.Machine
end

section
/-!
Which clause an issue slot starts: the ranks of its candidates, what a slot finds at its header, and promotion (R29 to R33, R266,
R386, R387).
-/

namespace Sys2Proof.Machine

open Sys2Proof.Safety

/-! ## Ranks (R266) -/

theorem rankLe_cons (a b : Nat) (as bs : List Nat) :
    rankLe (a :: as) (b :: bs) = true ↔ a < b ∨ a = b ∧ rankLe as bs = true := by simp [rankLe]

theorem rankLe_trans : ∀ as bs cs : List Nat, rankLe as bs = true → rankLe bs cs = true → rankLe as cs = true
  | [], _, _, _, _ => by simp [rankLe]
  | _ :: _, [], _, h, _ => by simp [rankLe] at h
  | _ :: _, _ :: _, [], _, h => by simp [rankLe] at h
  | a :: as, b :: bs, c :: cs, h, h' => by
    rw [rankLe_cons] at *
    rcases h with h | ⟨rfl, h⟩ <;> rcases h' with h' | ⟨rfl, h'⟩
    · exact .inl (h.trans h')
    · exact .inl h
    · exact .inl h'
    · exact .inr ⟨rfl, rankLe_trans as bs cs h h'⟩

theorem rankLe_total : ∀ as bs : List Nat, (rankLe as bs || rankLe bs as) = true
  | [], _ => by simp [rankLe]
  | _ :: _, [] => by simp [rankLe]
  | a :: as, b :: bs => by
    rw [Bool.or_eq_true, rankLe_cons, rankLe_cons]
    rcases Nat.lt_trichotomy a b with h | rfl | h
    · exact .inl (.inl h)
    · exact (Bool.or_eq_true _ _ ▸ rankLe_total as bs).imp (fun h => .inr ⟨rfl, h⟩) fun h => .inr ⟨rfl, h⟩
    · exact .inr (.inl h)

/-- What stands in a sorted list before the first place of an element. -/
theorem mergeSort_before {α : Type} {le : α → α → Bool} (trans : ∀ a b c, le a b = true → le b c = true → le a c = true)
    (total : ∀ a b, (le a b || le b a) = true) {l : List α} {a : α} (h : a ∈ l) :
    ∃ before rest, l.mergeSort le = before ++ a :: rest ∧ ∀ x ∈ before, x ∈ l ∧ x ≠ a ∧ le x a = true := by
  obtain ⟨before, rest, he, hn⟩ := List.eq_append_cons_of_mem (List.mem_mergeSort.2 h)
  have hs := List.pairwise_mergeSort trans total l
  rw [he, List.pairwise_append] at hs
  refine ⟨before, rest, he, fun x hx => ⟨?_, fun hxa => hn (hxa ▸ hx), hs.2.2 x hx a List.mem_cons_self⟩⟩
  exact List.mem_mergeSort.1 (he ▸ List.mem_append_left _ hx)

/-! ## The candidates of an issue slot (R109, R266) -/

/-- A slot that its issue slot may choose: it runs, its group is not held, and where the group resumes a clause the slot is the
clause's. -/
structure MayStart (s : State) (core iss : Nat) (g : Group) (i : SlotId) : Prop where
  mem : g ∈ issueGroups s core iss
  free : issueHeld s g = false
  running : (pcSlot g i).st = .running
  resumes : (g.resume.map fun r => r.pcs == i).getD true = true

/-- The candidates with their ranks, as `slotOrder` sorts them. -/
def rankedSlots (s : State) (core iss : Nat) : List (List Nat × Nat × SlotId) :=
  (issueGroups s core iss).flatMap fun g =>
    if issueHeld s g then []
    else ([SlotId.a, SlotId.b].filter fun i => (pcSlot g i).st == .running &&
      (g.resume.map fun r => r.pcs == i).getD true).map fun i => (rankKey s g i, g.slot, i)

section
variable {s : State} {core iss : Nat} {g h : Group} {i j : SlotId}

theorem slotOrder_eq (s : State) (core iss : Nat) :
    slotOrder s core iss = ((rankedSlots s core iss).mergeSort fun a b => rankLe a.1 b.1).map Prod.snd := rfl

theorem mem_rankedSlots_iff {x : List Nat × Nat × SlotId} :
    x ∈ rankedSlots s core iss ↔ ∃ g i, MayStart s core iss g i ∧ (rankKey s g i, g.slot, i) = x := by
  constructor
  · intro hx
    obtain ⟨g, hg, hx⟩ := List.mem_flatMap.1 hx
    split at hx
    · cases hx
    next hh =>
      obtain ⟨i, hi, rfl⟩ := List.mem_map.1 hx
      obtain ⟨hr, hres⟩ := Bool.and_eq_true _ _ ▸ (List.mem_filter.1 hi).2
      exact ⟨g, i, ⟨hg, Bool.eq_false_iff.2 hh, beq_iff_eq.1 hr, hres⟩, rfl⟩
  · rintro ⟨g, i, hm, rfl⟩
    refine List.mem_flatMap.2 ⟨g, hm.mem, ?_⟩
    rw [hm.free, if_neg Bool.false_ne_true]
    refine List.mem_map.2 ⟨i, List.mem_filter.2 ⟨by cases i <;> decide, ?_⟩, rfl⟩
    rw [hm.running, hm.resumes]
    rfl

theorem eq_of_mem_issueGroups (hn : ((issueGroups s core iss).map fun g => g.slot).Nodup) (hg : g ∈ issueGroups s core iss)
    (hh : h ∈ issueGroups s core iss) (he : h.slot = g.slot) : h = g :=
  List.inj_on_of_nodup_map hn hh hg he

theorem mem_issueGroups_iff : g ∈ issueGroups s core iss ↔ g ∈ s.groups ∧ g.core = core ∧ g.slot % 8 = iss := by
  simp [issueGroups]

/-- A group of an issue slot is the one found in its place. -/
theorem groupAt_of_mem_issueGroups (hn : ((issueGroups s core iss).map fun g => g.slot).Nodup) (hg : g ∈ issueGroups s core iss) :
    groupAt s core g.slot = some g := by
  obtain ⟨hmem, hc, hs⟩ := mem_issueGroups_iff.1 hg
  cases hf : groupAt s core g.slot with
  | none => exact absurd (List.find?_eq_none.1 hf g hmem) (by simp [hc])
  | some x =>
    obtain ⟨hxc, hxs⟩ := groupAt_place hf
    have hx : x ∈ issueGroups s core iss := mem_issueGroups_iff.2 ⟨List.mem_of_find?_eq_some hf, hxc, by rw [hxs, hs]⟩
    rw [eq_of_mem_issueGroups hn hg hx hxs]

/-- The candidates that come before one in the order are others, of no higher rank. -/
theorem slotOrder_before (hn : ((issueGroups s core iss).map fun g => g.slot).Nodup) (hm : MayStart s core iss g i) :
    ∃ before rest, slotOrder s core iss = before ++ (g.slot, i) :: rest ∧ ∀ x ∈ before, ∃ h, MayStart s core iss h x.2 ∧
      h.slot = x.1 ∧ ¬ (h.slot = g.slot ∧ x.2 = i) ∧ rankLe (rankKey s h x.2) (rankKey s g i) = true := by
  obtain ⟨before, rest, he, hb⟩ := mergeSort_before (fun a b c => rankLe_trans a.1 b.1 c.1) (fun a b => rankLe_total a.1 b.1)
    (mem_rankedSlots_iff.2 ⟨g, i, hm, rfl⟩)
  refine ⟨before.map Prod.snd, rest.map Prod.snd, by rw [slotOrder_eq, he]; simp, fun x hx => ?_⟩
  obtain ⟨y, hy, rfl⟩ := List.mem_map.1 hx
  obtain ⟨hmem, hne, hle⟩ := hb y hy
  obtain ⟨h, j, hh, rfl⟩ := mem_rankedSlots_iff.1 hmem
  refine ⟨h, hh, rfl, fun ⟨hs, hj⟩ => hne ?_, hle⟩
  rw [eq_of_mem_issueGroups hn hm.mem hh.mem hs, show j = i from hj]

/-! ## CLAUSE_START (R33, R109, R266) -/

/-- Slots that find nothing to start are passed over. -/
theorem startFirst_passes {before rest : List (Nat × SlotId)}
    (hb : ∀ x ∈ before, ∃ h, groupAt s core x.1 = some h ∧ tryStart s h x.2 = .not) :
    startFirst core (before ++ rest) s = startFirst core rest s := by
  induction before with
  | nil => rfl
  | cons x before ih =>
    obtain ⟨h, hp, ht⟩ := hb x List.mem_cons_self
    rw [List.cons_append, startFirst, hp]
    dsimp only
    rw [ht]
    exact ih fun y hy => hb y (List.mem_cons_of_mem _ hy)

theorem startFirst_starts {rest : List (Nat × SlotId)} {c : Clause} {fresh : Bool} (hp : groupAt s core g.slot = some g)
    (ht : tryStart s g i = .start c fresh) (hd : g.diverged = none) : startFirst core ((g.slot, i) :: rest) s =
      { setGroup s (started s g c fresh) with cur := some (g.core, g.slot) } := by
  rw [startFirst, hp]
  dsimp only
  rw [ht]
  simp only [actStart, hd]

/-- Nothing parks where no running slot stands at its RPC (R109). -/
theorem parkAll_settled {fuel : Nat} (hp : groupAt s core g.slot = some g)
    (hr : ∀ i, (pcSlot g i).st = .running → (pcSlot g i).rpc ≠ some (pcSlot g i).pc) :
    parkAll (fuel + 1) s core g.slot = s := by
  have ha : parkSlot g.a = g.a := if_neg fun h => hr .a h.1 h.2
  have hb : parkSlot g.b = g.b := if_neg fun h => hr .b h.1 h.2
  rw [parkAll, hp]
  exact if_pos ⟨ha, hb⟩

/-- A free issue slot with no slot to park looks at its candidates as they stand. -/
theorem execClauseStart_free (h : Claims.IssueFree s core iss) :
    exec (.clauseStart core iss) s = .next (startFirst core (slotOrder s core iss) s) := by
  obtain ⟨hn, hfree⟩ := h
  have hidle : (issueGroups s core iss).any holdsSlot = false := List.any_eq_false.2 fun g hg => by simp [(hfree g hg).1]
  have hpark : ∀ l ⊆ issueGroups s core iss,
      l.foldl (fun s g => if issueHeld s g then s else parkAll (g.depth + 3) s core g.slot) s = s := by
    intro l hl
    induction l with
    | nil => rfl
    | cons g l ih =>
      have hg := hl List.mem_cons_self
      rw [List.foldl_cons, parkAll_settled (groupAt_of_mem_issueGroups hn hg) (hfree g hg).2, ite_self]
      exact ih fun x hx => hl (List.mem_cons_of_mem _ hx)
  have he : exec (.clauseStart core iss) s = execClauseStart core iss s := rfl
  rw [he, execClauseStart, if_neg (by rw [hidle]; exact Bool.false_ne_true), hpark _ (List.Subset.refl _)]

theorem sameRegisters_started (s : State) (g : Group) (c : Clause) (fresh : Bool) :
    Claims.SameRegisters (started s g c fresh) g := by
  cases fresh <;> exact sameRegisters_refl g

/-- The candidate that ranks first among those that can act starts its clause. -/
theorem execClauseStart_starts {c : Clause} {fresh : Bool} (hf : Claims.IssueFree s core iss) (hm : MayStart s core iss g i)
    (hd : g.diverged = none) (ht : tryStart s g i = .start c fresh)
    (hb : ∀ h ∈ issueGroups s core iss, ∀ j, issueHeld s h = false → (pcSlot h j).st = .running →
      ¬ (h.slot = g.slot ∧ j = i) → rankLe (rankKey s h j) (rankKey s g i) = true → tryStart s h j = .not) :
    exec (.clauseStart core iss) s = .next { setGroup s (started s g c fresh) with cur := some (g.core, g.slot) } := by
  obtain ⟨before, rest, he, hbefore⟩ := slotOrder_before hf.1 hm
  rw [execClauseStart_free hf, he, startFirst_passes fun x hx => ?_,
    startFirst_starts (groupAt_of_mem_issueGroups hf.1 hm.mem) ht hd]
  obtain ⟨h, hh, hs, hne, hle⟩ := hbefore x hx
  exact ⟨h, hs ▸ groupAt_of_mem_issueGroups hf.1 hh.mem, hb h hh.mem x.2 hh.free hh.running hne hle⟩

theorem execClauseStart_held (hg : g ∈ s.groups) (hc : g.core = core) (hs : g.slot % 8 = iss) (hcl : g.clause.isSome = true)
    (hst : g.stopped = none) (hh : g.halted = false) (hb : g.batch = none) : exec (.clauseStart core iss) s = .next s := by
  have hold : holdsSlot g = true := by simp [holdsSlot, hcl, hst, hh, hb]
  exact if_pos (List.any_eq_true.2 ⟨g, mem_issueGroups_iff.2 ⟨hg, hc, hs⟩, hold⟩)

/-! ## The fetch and the check of a clause (R29 to R31, R386, R387) -/

theorem waitMet_iff (g : Group) (h : Word) : waitMet g h = true ↔ Claims.CountersZero g h := by
  simp only [waitMet, Claims.CountersZero, List.all_eq_true, List.mem_range, Bool.or_eq_true, Bool.not_eq_true', beq_iff_eq]
  refine forall₂_congr fun n _ => ?_
  cases hdrWait h n <;> simp

theorem classHeld_iff (s : State) (g : Group)
    (h : Word) : classHeld s g h = true ↔ acqHeld s g = true ∧ hdrClass h ∈ [2, 4, 5] := by
  simp [classHeld, or_assoc]

theorem classHeld_free {h : Word} (hf : Claims.Free s g h) : classHeld s g h = false := by
  rw [← Bool.not_eq_true, classHeld_iff]
  rintro ⟨ha, hc⟩
  rcases hf with hf | hf
  · exact Bool.false_ne_true (hf.symm.trans ha)
  · exact hf hc

/-- Words that are all there are fetched in order, after those that have been. -/
theorem fetchWords_ok {base : Nat} (ws : List Word) : ∀ (k : Nat) (acc : List Word),
    (∀ m w, ws[m]? = some w → fetchWord s g.ctx g.core (base + 4 * (k + m + 1)) = .word w) →
    fetchWords s g base ws.length k acc = .ok (acc ++ ws) := by
  induction ws with
  | nil => intro k acc _; simp [fetchWords]
  | cons w ws ih =>
    intro k acc hw
    have h0 : fetchWord s g.ctx g.core (base + 4 * (k + 1)) = .word w := hw 0 w rfl
    rw [List.length_cons, fetchWords, h0]
    dsimp only
    rw [ih (k + 1) (acc ++ [w]) fun m x hx => by
      rw [show k + 1 + m + 1 = k + (m + 1) + 1 by omega]
      exact hw (m + 1) x hx, List.append_assoc]
    rfl

/-- The first word of a clause whose fetch faults stops it. -/
theorem fetchWords_fault {base cause : Nat} (n : Nat) : ∀ (count k : Nat) (acc : List Word), n < count →
    (∀ m, m < n → ∃ w, fetchWord s g.ctx g.core (base + 4 * (k + m + 1)) = .word w) →
    fetchWord s g.ctx g.core (base + 4 * (k + n + 1)) = .fault cause →
    fetchWords s g base count k acc = .error (.inl (cause, base + 4 * (k + n + 1))) := by
  induction n with
  | zero =>
    intro count k acc hc _ hf
    obtain ⟨count, rfl⟩ := Nat.exists_eq_succ_of_ne_zero (Nat.ne_of_gt hc)
    rw [Nat.succ_eq_add_one, fetchWords, show k + 1 = k + 0 + 1 from rfl, hf]
  | succ n ih =>
    intro count k acc hc hw hf
    obtain ⟨count, rfl⟩ := Nat.exists_eq_succ_of_ne_zero (Nat.ne_of_gt (Nat.zero_lt_of_lt hc))
    obtain ⟨w, h0⟩ := hw 0 (Nat.succ_pos n)
    have hk (m : Nat) : k + (m + 1) + 1 = k + 1 + m + 1 := by omega
    rw [Nat.succ_eq_add_one, fetchWords, show k + 1 = k + 0 + 1 from rfl, h0]
    dsimp only
    rw [hk] at hf ⊢
    exact ih count (k + 1) (acc ++ [w]) (Nat.lt_of_succ_lt_succ hc) (fun m hm => hk m ▸ hw (m + 1) (Nat.succ_lt_succ hm)) hf

section
variable {hdr : Word} {ws : List Word}

theorem tryStart_fault {k : Nat} (hr : g.resume = none) (hf : fetchWord s g.ctx g.core (pcSlot g i).pc = .fault k) :
    tryStart s g i = fetchFault k (pcSlot g i).pc 1 0 (pcSlot g i).pc := by
  simp only [tryStart, tryFresh, hr, hf]

theorem tryStart_unmarked (hr : g.resume = none) (hf : fetchWord s g.ctx g.core (pcSlot g i).pc = .word hdr)
    (hm : isHeader hdr = false) : tryStart s g i = .trap 0x02 (pcSlot g i).pc 1 hdr (pcSlot g i).pc := by
  simp only [tryStart, tryFresh, hr, hf, hm, if_true]

theorem tryStart_waits (hr : g.resume = none) (hf : fetchWord s g.ctx g.core (pcSlot g i).pc = .word hdr)
    (hm : isHeader hdr = true) (hw : waitMet g hdr = false ∨ classHeld s g hdr = true) : tryStart s g i = .not := by
  simp only [tryStart, tryFresh, hr, hf, hm, hw, Bool.true_eq_false, Bool.or_eq_true, decide_eq_true_eq, if_false, if_true]

/-- A slot may fetch the words of its clause: its header is marked, no counter or acq that the header names holds it. -/
structure HeaderReady (s : State) (g : Group) (i : SlotId) (hdr : Word) : Prop where
  fresh : g.resume = none
  fetched : fetchWord s g.ctx g.core (pcSlot g i).pc = .word hdr
  marked : isHeader hdr = true
  counters : Claims.CountersZero g hdr
  free : Claims.Free s g hdr

theorem tryStart_faultingWord {n k : Nat} (h : HeaderReady s g i hdr) (hn : n < hdrN hdr)
    (hw : ∀ m, m < n → ∃ w, fetchWord s g.ctx g.core ((pcSlot g i).pc + 4 * (m + 1)) = .word w)
    (hf : fetchWord s g.ctx g.core ((pcSlot g i).pc + 4 * (n + 1)) = .fault k) :
    tryStart s g i = fetchFault k ((pcSlot g i).pc + 4 * (n + 1)) 1 hdr (pcSlot g i).pc := by
  have hws := fetchWords_fault n (hdrN hdr) 0 [] hn (by simpa using hw) (by simpa using hf)
  simp only [Nat.zero_add] at hws
  simp [tryStart, tryFresh, h.fresh, h.fetched, h.marked, (waitMet_iff g hdr).2 h.counters, classHeld_free h.free, hws]

theorem fetchWords_fetched (hl : ws.length = hdrN hdr) (hf : Claims.Fetched s g (pcSlot g i).pc ws) :
    fetchWords s g (pcSlot g i).pc (hdrN hdr) 0 [] = .ok ws := by
  rw [← hl]
  exact fetchWords_ok ws 0 [] fun m w hm => by rw [Nat.zero_add]; exact hf m w hm

theorem tryStart_illegal (h : HeaderReady s g i hdr) (hl : ws.length = hdrN hdr) (hf : Claims.Fetched s g (pcSlot g i).pc ws)
    (hok : hdrOk hdr = false) : tryStart s g i = .trap 0x02 (pcSlot g i).pc 1 hdr (pcSlot g i).pc := by
  simp [tryStart, tryFresh, h.fresh, h.fetched, h.marked, (waitMet_iff g hdr).2 h.counters, classHeld_free h.free,
    fetchWords_fetched hl hf, hok]

theorem tryStart_flawed {k : Nat} (h : HeaderReady s g i hdr) (hl : ws.length = hdrN hdr)
    (hf : Claims.Fetched s g (pcSlot g i).pc ws) (hok : hdrOk hdr = true) (hk : clauseFlaw (hdrClass hdr) ws 0 = some k) :
    tryStart s g i = .trap 0x02 ((pcSlot g i).pc + 4 * (k + 1)) 1 hdr (pcSlot g i).pc := by
  simp [tryStart, tryFresh, h.fresh, h.fetched, h.marked, (waitMet_iff g hdr).2 h.counters, classHeld_free h.free,
    fetchWords_fetched hl hf, hok, hk]

theorem tryStart_legal (h : HeaderReady s g i hdr) (hl : ws.length = hdrN hdr) (hf : Claims.Fetched s g (pcSlot g i).pc ws)
    (hok : hdrOk hdr = true) (hk : clauseFlaw (hdrClass hdr) ws 0 = none) (hq : queueNeeds g ws = true) :
    tryStart s g i = .start ⟨i, (pcSlot g i).pc, hdr, ws, 0⟩ true := by
  simp [tryStart, tryFresh, h.fresh, h.fetched, h.marked, (waitMet_iff g hdr).2 h.counters, classHeld_free h.free,
    fetchWords_fetched hl hf, hok, hk, hq]

end

/-! ## Promotion (R266) -/

theorem overdue_of_candSince {n : Nat} (h : g.candSince = some n) : overdue s g = decide (n + 4096 ≤ s.clock) := by
  simp [overdue, h]

theorem execIssuePromote_eq (hp : groupAt s g.core g.slot = some g) : exec (.issuePromote g.core g.slot) s =
    if overdue s g then .next (setGroup s { g with promoted := true }) else .next s := by
  have he : exec (.issuePromote g.core g.slot) s = execIssuePromote g.core g.slot s := rfl
  rw [he, execIssuePromote, hp]

theorem effClass_promoted (h : g.promoted = true ∨ ∃ n, g.candSince = some n ∧ n + 4096 ≤ s.clock) : effClass s g = 0 := by
  refine if_pos ?_
  rcases h with h | ⟨n, hn, hle⟩
  · simp [h]
  · simp [overdue_of_candSince hn, hle]

theorem effClass_waiting (hp : h.promoted = false)
    (hc : ∀ n, h.candSince = some n → s.clock < n + 4096) : effClass s h = h.cls := by
  refine if_neg ?_
  cases hs : h.candSince with
  | none => simp [overdue, hs, hp]
  | some n => simpa [overdue_of_candSince hs, hp] using hc n hs

/-- A lower class ranks first among groups that have not yielded. -/
theorem rankLe_of_effClass_lt (hg : g.yielded = false) (hh : h.yielded = false) (hlt : effClass s g < effClass s h) :
    rankLe (rankKey s g i) (rankKey s h j) = true := by
  simp [rankKey, rankLe_cons, hg, hh, hlt]

end

/-- Settles O16: the first candidate in rank that can act starts, a slot finds at its header what the fetch and the checks say, and
4,096 clocks give class 0. -/
theorem clauseStarts : Obligations.ClauseStarts := by
  refine ⟨?_, fun s core iss g => execClauseStart_held, ?_, fun s g i k => tryStart_fault, ?_, ?_⟩
  · intro s core iss g i c fresh hf hmem hp hh hrun hd hres ht hb
    have hm : MayStart s core iss g i := ⟨hmem, hh, hrun, by
      rcases hres with hr | ⟨r, hr, hi⟩
      · rw [hr]
        rfl
      · simp [hr, hi]⟩
    obtain ⟨hcore, -⟩ := groupAt_place hp
    have hat : groupAt (setGroup s (started s g c fresh)) g.core g.slot = some (started s g c fresh) :=
      groupAt_setGroup (by rw [hcore]; exact hp) (by cases fresh <;> rfl) (by cases fresh <;> rfl)
    refine ⟨_, started s g c fresh, execClauseStart_starts hf hm hd ht hb, by rw [hcore], hcore ▸ hat, rfl, rfl, rfl, rfl,
      sameRegisters_started s g c fresh, fun hfr => ?_, rfl, rfl⟩
    subst hfr
    exact ⟨rfl, rfl⟩
  · intro s g i h ws hr hf
    refine ⟨tryStart_unmarked hr hf, fun hm hc => ?_, fun hm ha hcl => ?_, fun n k hm hc hfree hn hw hk => ?_,
      fun hm hc hfree hok hl hws => ?_, fun hm hc hfree hok hl hws hk hq => ?_, fun k hm hc hfree hok hl hws hk => ?_⟩
    · exact tryStart_waits hr hf hm (.inl (Bool.eq_false_iff.2 fun h' => hc ((waitMet_iff g h).1 h')))
    · exact tryStart_waits hr hf hm (.inr ((classHeld_iff s g h).2 ⟨ha, hcl⟩))
    · exact tryStart_faultingWord ⟨hr, hf, hm, hc, hfree⟩ hn hw hk
    · exact tryStart_illegal ⟨hr, hf, hm, hc, hfree⟩ hl hws hok
    · exact tryStart_legal ⟨hr, hf, hm, hc, hfree⟩ hl hws hok hk hq
    · exact tryStart_flawed ⟨hr, hf, hm, hc, hfree⟩ hl hws hok hk
  · intro s g n hp hn
    rw [execIssuePromote_eq hp, overdue_of_candSince hn]
    exact ⟨fun h => if_pos (decide_eq_true h), fun h => if_neg (by simpa using h)⟩
  · intro s g h i hg hh hp hnp hc hcls
    refine rankLe_of_effClass_lt hg hh ?_
    rw [effClass_promoted hp, effClass_waiting hnp hc]
    exact hcls

end Sys2Proof.Machine
end

section
/-!
Codes of the floating-point formats (R53 to R55): the number that a code stands for, and the code that rounding delivers.
-/

namespace Sys2Proof.Machine

/-! ## Codes of finite numbers -/

/-- A format whose codes without sign are, from 0 up, its finite numbers, its infinity if it has one, and NaN. -/
structure FpFmt.Sound (f : FpFmt) : Prop where
  mant : 1 ≤ f.mant
  width : 2 ≤ f.width
  max : f.maxMag < 2 ^ (f.width - 1)
  inf : f.infMag.getD f.maxMag < 2 ^ (f.width - 1)
  nan : f.nan.getD 0 < 2 ^ f.width

theorem sound_fp32 : fp32.Sound := ⟨by decide, by decide, by decide, by decide, by decide⟩
theorem sound_fp16 : fp16.Sound := ⟨by decide, by decide, by decide, by decide, by decide⟩
theorem sound_bf16 : bf16.Sound := ⟨by decide, by decide, by decide, by decide, by decide⟩

/-- The code without sign of `n` × 2^`q`. -/
def codeMag (f : FpFmt) (q : Int) (n : Nat) : Nat := (q - f.low).toNat * 2 ^ f.mant + n

/-- `n` × 2^`q` as a format writes it: with its leading bit unless it is subnormal. -/
structure Canonical (f : FpFmt) (q : Int) (n : Nat) : Prop where
  low : f.low ≤ q
  small : n < 2 ^ (f.mant + 1)
  lead : q = f.low ∨ 2 ^ f.mant ≤ n

section
variable {f : FpFmt} {neg : Bool} {mag bits n : Nat} {q : Int}

theorem two_pow_width (hf : f.Sound) : 2 ^ f.width = 2 * 2 ^ (f.width - 1) := by
  rw [← Nat.pow_succ']
  congr 1
  have := hf.width
  omega

theorem withSign_lt (hf : f.Sound) (h : mag < 2 ^ (f.width - 1)) : withSign f neg mag < 2 ^ f.width := by
  rw [two_pow_width hf, withSign]
  split <;> omega

theorem magOf_withSign (h : mag < 2 ^ (f.width - 1)) : magOf f (withSign f neg mag) = mag := by
  cases neg <;> simp [magOf, withSign, Nat.mod_eq_of_lt h]

theorem negOf_withSign (h : mag < 2 ^ (f.width - 1)) : negOf f (withSign f neg mag) = neg := by
  cases neg <;> simp [negOf, withSign, Nat.div_eq_of_lt h]

theorem withSign_parts (hf : f.Sound) (h : bits < 2 ^ f.width) : withSign f (negOf f bits) (magOf f bits) = bits := by
  have hdiv : bits / 2 ^ (f.width - 1) < 2 := Nat.div_lt_of_lt_mul (by rw [Nat.mul_comm, ← two_pow_width hf]; exact h)
  have hparts := Nat.mod_add_div bits (2 ^ (f.width - 1))
  rcases Nat.le_one_iff_eq_zero_or_eq_one.1 (Nat.le_of_lt_succ hdiv) with hd | hd
  · have hneg : negOf f bits = false := by simp [negOf, hd]
    simpa [withSign, hneg, magOf, hd] using hparts
  · have hneg : negOf f bits = true := by simp [negOf, hd]
    simpa [withSign, hneg, magOf, hd] using hparts

/-- The parity of a code is that of its mantissa. -/
theorem withSign_codeMag_mod_two (hf : f.Sound) : withSign f neg (codeMag f q n) % 2 = n % 2 := by
  obtain ⟨k, hk⟩ := Nat.exists_eq_add_of_le hf.mant
  obtain ⟨j, hj⟩ := Nat.exists_eq_add_of_le (Nat.le_sub_one_of_lt hf.width)
  have he : 2 ^ f.mant = 2 * 2 ^ k := by rw [hk, Nat.pow_add, Nat.pow_one]
  have ho : 2 ^ (f.width - 1) = 2 * 2 ^ j := by rw [hj, Nat.pow_add, Nat.pow_one]
  rw [withSign, codeMag, he, ho, Nat.mul_left_comm]
  split <;> omega

/-- The code of a number in its canonical form reads back as that form. -/
theorem fpRead_codeMag (hf : f.Sound) (h : Canonical f q n) (hmax : codeMag f q n ≤ f.maxMag) :
    fpRead f (withSign f neg (codeMag f q n)) = .fin neg n q := by
  have hlt : codeMag f q n < 2 ^ (f.width - 1) := lt_of_le_of_lt hmax hf.max
  have hpos : 0 < 2 ^ f.mant := by positivity
  obtain ⟨hlow, hsmall, hlead⟩ := h
  rw [Nat.pow_succ] at hsmall
  simp only [fpRead, magOf_withSign hlt, negOf_withSign hlt, if_pos hmax]
  by_cases hn : n < 2 ^ f.mant
  · obtain rfl : q = f.low := hlead.resolve_right (by omega)
    simp [codeMag, Nat.div_eq_of_lt hn]
  · obtain ⟨r, rfl⟩ := Nat.exists_eq_add_of_le (not_lt.1 hn)
    have hr : r < 2 ^ f.mant := by omega
    have hcode : codeMag f q (2 ^ f.mant + r) = r + 2 ^ f.mant * ((q - f.low).toNat + 1) := by rw [codeMag]; ring
    have hdiv : codeMag f q (2 ^ f.mant + r) / 2 ^ f.mant = (q - f.low).toNat + 1 := by
      rw [hcode, Nat.add_mul_div_left _ _ hpos, Nat.div_eq_of_lt hr, Nat.zero_add]
    have hmod : codeMag f q (2 ^ f.mant + r) % 2 ^ f.mant = r := by rw [hcode, Nat.add_mul_mod_self_left, Nat.mod_eq_of_lt hr]
    rw [hdiv, hmod, if_neg (by omega), Nat.add_comm r]
    congr 1
    omega

/-- A code that is a number stands for a canonical form. -/
theorem canonical_of_fpRead {k : Bool} (h : fpRead f bits = .fin k n q) :
    Canonical f q n ∧ magOf f bits = codeMag f q n ∧ magOf f bits ≤ f.maxMag ∧ negOf f bits = k := by
  have hpos : 0 < 2 ^ f.mant := by positivity
  have hparts := Nat.mod_add_div (magOf f bits) (2 ^ f.mant)
  have hmod := Nat.mod_lt (magOf f bits) hpos
  simp only [fpRead] at h
  split_ifs at h with hmax hex <;> cases h
  · have hlt : magOf f bits < 2 ^ f.mant := (Nat.div_eq_zero_iff_lt hpos).1 hex
    refine ⟨⟨le_rfl, by rw [Nat.pow_succ]; omega, .inl rfl⟩, by simp [codeMag], hmax, rfl⟩
  · obtain ⟨j, hj⟩ := Nat.exists_eq_succ_of_ne_zero hex
    rw [hj] at hparts ⊢
    have hq : f.low + ((j + 1 : Nat) : Int) - 1 = f.low + j := by push_cast; ring
    rw [hq]
    refine ⟨⟨by omega, by rw [Nat.pow_succ]; omega, .inr (by omega)⟩, ?_, hmax, rfl⟩
    have hj' : (f.low + j - f.low).toNat = j := by omega
    rw [codeMag, hj']
    linarith [Nat.mul_succ (2 ^ f.mant) j, Nat.mul_comm j (2 ^ f.mant)]

/-! ## Codes are delivered as they stand -/

/-- The quantum at which a format cuts m × 2^e (R65). -/
def cutQuantum (f : FpFmt) (m : Nat) (e : Int) : Int := max (quantum f m e) f.low

/-- The multiple of that quantum to which a magnitude is rounded. -/
def cutMant (f : FpFmt) (rm : Rm) (neg : Bool) (m : Nat) (e : Int) : Nat := (roundAt rm neg m e false (cutQuantum f m e)).1

/-- The code that rounding without FTZ delivers, unless it overflows. -/
theorem fpRound_bits {rm : Rm} {m : Nat} {e : Int}
    (h : codeMag f (cutQuantum f m e) (cutMant f rm neg m e) ≤ f.maxMag) :
    (fpRound f rm false neg m e false).bits = withSign f neg (codeMag f (cutQuantum f m e) (cutMant f rm neg m e)) := by
  have h' : ¬ codeMag f (cutQuantum f m e) (cutMant f rm neg m e) > f.maxMag := by omega
  simp only [codeMag, cutQuantum, cutMant] at h'
  simp [fpRound, flushed, h', codeMag, cutQuantum, cutMant]

theorem cutQuantum_canonical (h : Canonical f q n) (hn : n ≠ 0) : cutQuantum f n q = q := by
  have hle : n.log2 ≤ f.mant := Nat.le_of_lt_succ ((Nat.log2_lt hn).2 h.small)
  have hlow := h.low
  simp only [cutQuantum, quantum]
  rcases h.lead with rfl | hlead
  · omega
  · have hge : f.mant ≤ n.log2 := (Nat.le_log2 hn).2 hlead
    omega

/-- A magnitude at the quantum's own exponent is not cut. -/
theorem roundAt_self (rm : Rm) (neg : Bool) (n : Nat) (q : Int) : roundAt rm neg n q false q = (n, false) := by
  cases rm <;> simp [roundAt, cutAt, roundsAway]

/-- A number of the format is delivered as itself, with no condition. -/
theorem fpRound_canonical (h : Canonical f q n) (hn : n ≠ 0) (hmax : codeMag f q n ≤ f.maxMag) (rm : Rm) :
    fpRound f rm false neg n q false = ⟨withSign f neg (codeMag f q n), 0⟩ := by
  have hq : max (quantum f n q) f.low = q := cutQuantum_canonical h hn
  have h' : ¬ f.maxMag < codeMag f q n := by omega
  simp only [codeMag] at h'
  simp [fpRound, hq, roundAt_self, flushed, codeMag, h']

theorem fpRead_inf {k : Bool} (h : fpRead f bits = .inf k) : f.infMag = some (magOf f bits) ∧ negOf f bits = k := by
  simp only [fpRead] at h
  split_ifs at h with hmax hex hinf
  cases h
  exact ⟨hinf.symm, rfl⟩

/-- A code that is a number or an infinity is delivered as itself, and NaN as the canonical one. -/
theorem fpDeliver_fpRead (hf : f.Sound) (rm : Rm) (h : bits < 2 ^ f.width) :
    fpDeliver f rm false (fpRead f bits) = if fpRead f bits = .nan then ⟨f.nan.getD 0, 0⟩ else ⟨bits, 0⟩ := by
  have hparts := withSign_parts hf h
  cases hx : fpRead f bits with
  | nan => rfl
  | inf k =>
    obtain ⟨hinf, rfl⟩ := fpRead_inf hx
    simp [fpDeliver, infCode, hinf, hparts]
  | fin k n q =>
    obtain ⟨hc, hmag, hmax, rfl⟩ := canonical_of_fpRead hx
    rw [hmag] at hparts hmax
    cases n with
    | zero =>
      obtain rfl : q = f.low := hc.lead.resolve_right (by simp)
      simpa [fpDeliver, codeMag] using hparts
    | succ n => simp [fpDeliver, fpRound_canonical hc n.succ_ne_zero hmax, hparts]

theorem codesRoundTrip : Claims.CodesRoundTrip := by
  intro f hf rm b hb
  have hs : f.Sound := by
    simp only [List.mem_cons, List.not_mem_nil, or_false] at hf
    rcases hf with rfl | rfl | rfl
    · exact sound_fp32
    · exact sound_fp16
    · exact sound_bf16
  exact fpDeliver_fpRead hs rm hb

/-! ## Codes that rounding delivers lie in the format -/

theorem nanCode_lt (hf : f.Sound) : nanCode f < 2 ^ f.width := hf.nan

theorem infCode_lt (hf : f.Sound) (neg : Bool) : infCode f neg < 2 ^ f.width := withSign_lt hf hf.inf

theorem overflowed_bits_lt (hf : f.Sound) (rm : Rm) (neg : Bool) : (overflowed f rm neg).bits < 2 ^ f.width := by
  have hite (b : Bool) : (if b then infCode f neg else withSign f neg f.maxMag) < 2 ^ f.width := by
    split
    · exact infCode_lt hf neg
    · exact withSign_lt hf hf.max
  exact hite _

theorem flushed_bits_lt (hf : f.Sound) (ftz neg : Bool) (fl : Flags) (h : mag ≤ f.maxMag) :
    (flushed f ftz neg mag fl).bits < 2 ^ f.width := by
  unfold flushed
  split
  · exact withSign_lt hf (by positivity)
  · exact withSign_lt hf (lt_of_le_of_lt h hf.max)

theorem fpRound_bits_lt (hf : f.Sound) (rm : Rm) (ftz neg : Bool) (m : Nat) (e : Int) (sticky : Bool) :
    (fpRound f rm ftz neg m e sticky).bits < 2 ^ f.width := by
  unfold fpRound
  dsimp only
  split
  · exact overflowed_bits_lt hf rm neg
  · exact flushed_bits_lt hf ftz neg _ (by omega)

theorem srRound_bits_lt (hf : f.Sound) (ftz neg : Bool) (m : Nat) (e : Int) (u : Nat) :
    (srRound f ftz neg m e u).bits < 2 ^ f.width := by
  unfold srRound
  dsimp only
  split
  · exact withSign_lt hf hf.max
  · rename_i hfit
    refine flushed_bits_lt hf ftz neg _ ?_
    simp only [not_or, not_and, not_lt] at hfit
    obtain ⟨hlo, hup⟩ := hfit
    split
    · rename_i hdraw
      have hrem : (cutAt m e (max (quantum f m e) f.low)).2.1 ≠ 0 := by
        intro h0
        simp [h0] at hdraw
      exact hup hrem
    · exact hlo

theorem clampNoInf_bits_lt (hf : f.Sound) (neg : Bool) {r : FRes} (h : r.bits < 2 ^ f.width) :
    (clampNoInf f neg r).bits < 2 ^ f.width := by
  unfold clampNoInf
  split
  · exact withSign_lt hf hf.max
  · exact h

theorem convSpecial_bits_lt (hf : f.Sound) {x : Fp} {r : FRes} (h : convSpecial f x = some r) : r.bits < 2 ^ f.width := by
  unfold convSpecial at h
  split at h <;> cases h
  · exact nanCode_lt hf
  · exact infCode_lt hf _
  · exact withSign_lt hf (by positivity)

/-- A conversion delivers a code of its format. -/
theorem fpConvert_bits_lt (hf : f.Sound) (env : RndEnv) (x : Fp) (seed : Word) : (fpConvert f env x seed).1.bits < 2 ^ f.width := by
  unfold fpConvert
  dsimp only
  split
  next h => exact convSpecial_bits_lt hf h
  · split
    · split
      · exact srRound_bits_lt hf _ _ _ _ _
      · exact clampNoInf_bits_lt hf _ (fpRound_bits_lt hf _ _ _ _ _ _)
    · exact nanCode_lt hf

end

end Sys2Proof.Machine
end

section
/-!
Instructions that deliver a run of registers or advance the generator (R45, R46, R68): conversions, packing and unpacking (R98 to
R103).
-/

namespace Sys2Proof.Machine

open Sys2Proof.Safety

/-! ## Results of several registers -/

section
variable {s : State} {g g' : Group} {c : Clause} {ox : Option Ox} {srcs : List (BitVec 7)} {runs : List (BitVec 7 × Nat)}
  {nw : Bool} {d : BitVec 7} {m : Nat} {act : Mask}

/-- The registers that an operation reads in every lane: its sources, and those of its runs. -/
def readFields (srcs : List (BitVec 7)) (runs : List (BitVec 7 × Nat)) : List (BitVec 7) :=
  srcs ++ runs.flatMap fun r => runFields r.1 r.2

theorem laneOp_noDest (h : LaneOp s g c ox srcs nw d) : LaneOp s g c ox srcs true d :=
  ⟨h.standing, fun x hx => h.plain x (List.mem_append_left _ (by simpa [dest] using hx)), h.active, h.sound⟩

theorem plain_of_laneOp_dest (h : LaneOp s g c ox srcs nw d) (hn : nw = false) : ∀ x ∈ runFields d 1, Plain g x := by
  subst hn
  intro x hx
  exact h.plain x (List.mem_append_right _ (by simpa [runFields, dest] using hx))

/-- The windows of a group are those of its queues. -/
theorem windowOf_congr (h : g'.queues = g.queues) (x : BitVec 7) : windowOf g' x = windowOf g x := by
  simp only [windowOf, h]

theorem inputQueues_congr (h : g'.queues = g.queues) (o : VecOp) : inputQueues g' o = inputQueues g o := by
  simp only [inputQueues, windowOf_congr h]

theorem outputQueue_congr (h : g'.queues = g.queues) (o : VecOp) : outputQueue g' o = outputQueue g o := by
  simp only [outputQueue, windowOf_congr h]

theorem queues_setSeeds (g : Group) (act : Mask) (seed : Nat → Word) : (setSeeds g act seed).queues = g.queues := by
  unfold setSeeds
  split <;> rfl

theorem queues_foldl_setV (act : Mask) (reg : Nat → Nat) (val : Nat → Nat → Word) (is : List Nat) (g : Group) :
    (is.foldl (fun g i => setV g (reg i) act (val i)) g).queues = g.queues := by
  induction is generalizing g with
  | nil => rfl
  | cons i is ih => exact ih _

/-- A run of registers as the destination, without a window. -/
theorem writeDst_run {o : VecOp} {good : Mask} {out : Nat → LaneOut} (hd : o.dst = .vec nw d m) (hq : outputQueue g o = none) :
    writeDst g o good out = if nw then g else
      (List.range m).foldl (fun g i => setV g (d.toNat + i) good fun l => (out l).val i) g := by
  simp only [writeDst, hd, hq]

/-- The group after lanes have raised their conditions and advanced the generator. -/
def advanced (g : Group) (act : Mask) (out : Nat → LaneOut) : Group :=
  setSeeds (setFlags g act fun l => (out l).fl) (among act fun l => (out l).seed.isSome) fun l => (out l).seed.getD 0

theorem queues_advanced (g : Group) (act : Mask) (out : Nat → LaneOut) : (advanced g act out).queues = g.queues :=
  queues_setSeeds _ _ _

/-- What a vector instruction leaves that may raise conditions and advance the generator, where all its active lanes deliver. -/
theorem vecResult_run {o : VecOp} {out : Nat → LaneOut} (hd : o.dst = .vec nw d m) (hfp : o.fp = true)
    (hp : ∀ x ∈ o.fields, windowOf g x = none ∧ beyond g x = false) (hperf : performedMask g o act out = act) :
    vecResult g o act act out = Claims.runWritten g act nw d m out := by
  have hadv : vecResult g o act act out =
      shiftDst (popQueues (writeDst (advanced g act out) o act out) o) o act out := by
    simp only [vecResult, hfp, if_true, hperf]
    rfl
  have hw := writeDst_run (good := act) (out := out) hd
    ((outputQueue_congr (queues_advanced g act out) o).trans (outputQueue_plain hp))
  have hqueues : (writeDst (advanced g act out) o act out).queues = g.queues := by
    rw [hw]
    split
    · exact queues_advanced g act out
    · exact (queues_foldl_setV _ _ _ _ _).trans (queues_advanced g act out)
  rw [hadv, popQueues_plain ((inputQueues_congr hqueues o).trans (inputQueues_plain hp)), hw, shiftDst, hd]
  rfl

/-- A vector instruction that may raise conditions and advance the generator, where no lane raises an enabled one. -/
theorem runVec_run (h : LaneOp s g c ox (readFields srcs runs) true d) (hd : nw = false → ∀ x ∈ runFields d m, Plain g x)
    {f : Group → Nat → LaneOut} {out : Nat → LaneOut} (hv : ∀ l, f g l = out l) (hc : ∀ l, (out l).cause = none)
    (hq : ∀ l, On (activeMask g c ox) l → fpFaults (enabledTraps g.fpctl) (out l).fl = false) :
    runVec (plainOp (.vec nw d m) srcs runs ox true) f s =
      .next (after s (Claims.runWritten g (activeMask g c ox) nw d m out) c) := by
  obtain rfl : f g = out := funext hv
  have hp : ∀ x ∈ (plainOp (.vec nw d m) srcs runs ox true).fields, windowOf g x = none ∧ beyond g x = false := by
    intro x hx
    have hx' : x ∈ readFields srcs runs ∨ x ∈ (Dst.vec nw d m).fields := by
      simpa [VecOp.fields, plainOp, readFields, or_assoc] using hx
    rcases hx' with hx' | hx'
    · exact h.plain x (List.mem_append_left _ hx')
    · cases nw
      · exact hd rfl x hx'
      · simp [Dst.fields] at hx'
  have hr : ∀ l, On (activeMask g c ox) l → ∀ r ∈ ownLanes srcs runs l,
      windowOf g r.1 = none ∧ (fieldPoison g r.1).getLsbD r.2 = false := by
    intro l hl r hr
    obtain ⟨x, hx, rfl⟩ : ∃ x ∈ readFields srcs runs, (x, l) = r := List.mem_map.1 hr
    exact ⟨(h.plain x (List.mem_append_left _ hx)).1, h.sound x hx l hl⟩
  rw [runVec_quiet (c := c) (g := g) h.standing hp h.active rfl fun l hl ha =>
    laneCause_sound (hr l ⟨hl, ha⟩) (hc l) (.inr (hq l ⟨hl, ha⟩))]
  exact congrArg (fun g' => Host.Outcome.next (after s g' c)) (vecResult_run rfl rfl hp (performedMask_sound hr hc))

end

/-! ## Conversions that narrow (R98, R99) -/

section
variable {s : State} {g : Group} {c : Clause} {ox : Option Ox} {fmt : FpFmt}

theorem convertAll_one (hf : fmt.Sound) (hw : fmt.width = 16) (e : RndEnv) (a seed : Word) :
    convertAll fmt e 16 [(Claims.single e a, 0)] 0 seed = Claims.convertOne fmt e a seed := by
  have hx := hw ▸ fpConvert_bits_lt hf e (Claims.single e a) seed
  simp only [convertAll, Claims.convertOne, Nat.mod_eq_of_lt hx]
  simp

theorem convertAll_two (hf : fmt.Sound) (hw : fmt.width = 16) (e : RndEnv) (a b seed : Word) :
    convertAll fmt e 16 [(Claims.single e a, 0), (Claims.single e b, 0)] 0 seed = Claims.convertTwo fmt e a b seed := by
  have hx := hw ▸ fpConvert_bits_lt hf e (Claims.single e a) seed
  have hy := hw ▸ fpConvert_bits_lt hf e (Claims.single e b) (fpConvert fmt e (Claims.single e a) seed).2
  simp only [convertAll, Claims.convertTwo, Nat.mod_eq_of_lt hx, Nat.mod_eq_of_lt hy]
  simp [Nat.mul_comm]

theorem toHalf_sound {f : V2} (hf : fmt.Sound) (hw : fmt.width = 16) (h : LaneOp s g c ox [f.a] f.nw f.d) :
    let e := rndEnv g.fpctl
    let out := fun l => Claims.oneWord e (Claims.convertOne fmt e (readV g f.a l) (lane g.srseed l))
    (∀ l, On (activeMask g c ox) l → fpFaults (enabledTraps g.fpctl) (out l).fl = false) →
    toHalf fmt f ox s = .next (after s (Claims.runWritten g (activeMask g c ox) f.nw f.d 1 out) c) := by
  intro e out hq
  refine runVec_run (laneOp_noDest h) (plain_of_laneOp_dest h) (fun l => ?_) (fun _ => rfl) hq
  rw [readField_of_laneOp h (by simp)]
  exact congrArg (narrowOut e) (convertAll_one hf hw e _ _)

theorem toHalves_sound {f : V3} (hf : fmt.Sound) (hw : fmt.width = 16) (h : LaneOp s g c ox [f.a, f.b] f.nw f.d) :
    let e := rndEnv g.fpctl
    let out := fun l => Claims.oneWord e (Claims.convertTwo fmt e (readV g f.a l) (readV g f.b l) (lane g.srseed l))
    (∀ l, On (activeMask g c ox) l → fpFaults (enabledTraps g.fpctl) (out l).fl = false) →
    toHalves fmt f ox s = .next (after s (Claims.runWritten g (activeMask g c ox) f.nw f.d 1 out) c) := by
  intro e out hq
  refine runVec_run (laneOp_noDest h) (plain_of_laneOp_dest h) (fun l => ?_) (fun _ => rfl) hq
  rw [readField_of_laneOp h (by simp), readField_of_laneOp h (by simp)]
  exact congrArg (narrowOut e) (convertAll_two hf hw e _ _ _)

end

theorem narrowingConversions : Claims.NarrowingConversions := by
  simp only [Claims.NarrowingConversions, List.forall_mem_cons]
  exact ⟨⟨fun _ _ _ _ _ h => toHalf_sound sound_fp16 rfl h, fun _ _ _ _ _ h => toHalf_sound sound_bf16 rfl h,
    List.forall_mem_nil _⟩, fun _ _ _ _ _ h => toHalves_sound sound_fp16 rfl h,
    fun _ _ _ _ _ h => toHalves_sound sound_bf16 rfl h, List.forall_mem_nil _⟩

/-- Settles O31: a canonical number is rounded to itself, and what a conversion delivers is a code of 16 bits, so that two stand
side by side in a word. -/
theorem conversions : Obligations.Conversions := ⟨codesRoundTrip, narrowingConversions⟩

/-! ## Packing (R100, R102) -/

theorem packInt_eq (w m : Nat) (f : V3) (ox : Option Ox) : packInt w m f ox = runVec (packOp f ox m) fun g l =>
    Claims.packedInts w (rndEnv g.fpctl) (runProducts (rndEnv g.fpctl) g f.a m (readField g f.b l) l) := by
  simp [packInt, Claims.packedInts, LaneOut.fp, Function.comp_def]

/-- Each packing form makes one word of the products of its run with the multiplier. -/
theorem exec_packs : ∀ p ∈ Claims.packs, ∀ (f : V3) (ox : Option Ox) (s : State), exec (p.1 f ox) s =
    runVec (packOp f ox p.2.1) (fun g l => p.2.2 (rndEnv g.fpctl)
      (runProducts (rndEnv g.fpctl) g f.a p.2.1 (readField g f.b l) l) (lane g.srseed l)) s := by
  simp only [Claims.packs, List.forall_mem_cons]
  exact ⟨fun _ _ _ => rfl, fun _ _ _ => rfl, fun _ _ _ => rfl, fun _ _ _ => rfl, fun _ _ _ => rfl,
    fun f ox => congrFun (packInt_eq 8 4 f ox), fun f ox => congrFun (packInt_eq 4 8 f ox), List.forall_mem_nil _⟩

/-- A code held within the range of its width, by comparison or by minimum and maximum. -/
theorem clamp_eq {lo hi q : Int} (h : lo ≤ hi) : max lo (min hi q) = if q < lo then lo else if hi < q then hi else q := by
  split_ifs <;> omega

theorem zeroPoint_eight (c : BitVec 8) : zeroPoint 8 c.toNat = c.toInt := by
  simp [zeroPoint, signedElem, Nat.mod_eq_of_lt c.isLt]

theorem zeroPoint_zero8 (c : Word) : zeroPoint 8 c.toNat = Claims.zero8 c := by
  have hc : (c.extractLsb' 0 8).toNat = c.toNat % 256 := by simp
  rw [Claims.zero8, ← zeroPoint_eight, hc]
  simp [zeroPoint]

theorem zeroPoint_zero4 (c : Word) : zeroPoint 4 c.toNat = Claims.zero4 c := by simp [zeroPoint, Claims.zero4]

/-- Quantisation about a zero point in C. -/
theorem packQuant_eq (w m : Nat) (f : V3) (ox : Ox) {zero : Word → Int} (hz : ∀ c : Word, zeroPoint w c.toNat = zero c) :
    packQuant w m f ox = runVec (plainOp (.vec f.nw f.d 1) [f.b, ox.c] [(f.a, m)] (some ox) true) fun g l =>
      Claims.quantised w (rndEnv g.fpctl) (zero (readField g ox.c l))
        (runProducts (rndEnv g.fpctl) g f.a m (readField g f.b l) l) := by
  have hrange : -(2 : Int) ^ (w - 1) ≤ 2 ^ (w - 1) - 1 := by
    have : (0 : Int) < 2 ^ (w - 1) := by positivity
    omega
  simp only [packQuant, hz, LaneOut.fp, Claims.quantised, ← clamp_eq hrange]
  rfl

/-- Each quantising form makes one word of the products of its run with the multiplier, about its zero point. -/
theorem exec_quantisers : ∀ p ∈ Claims.quantisers, ∀ (f : V3) (ox : Ox) (s : State), exec (p.1 f ox) s =
    runVec (plainOp (.vec f.nw f.d 1) [f.b, ox.c] [(f.a, p.2.1)] (some ox) true) (fun g l =>
      Claims.quantised p.2.2.1 (rndEnv g.fpctl) (p.2.2.2 (readField g ox.c l))
        (runProducts (rndEnv g.fpctl) g f.a p.2.1 (readField g f.b l) l)) s := by
  simp only [Claims.quantisers, List.forall_mem_cons]
  exact ⟨fun f ox => congrFun (packQuant_eq 8 4 f ox zeroPoint_zero8),
    fun f ox => congrFun (packQuant_eq 4 8 f ox zeroPoint_zero4), List.forall_mem_nil _⟩

theorem cause_packs : ∀ p ∈ Claims.packs, ∀ (e : RndEnv) (xs : List (Fp × Flags)) (seed : Word),
    (p.2.2 e xs seed).cause = none := by
  simp only [Claims.packs, List.forall_mem_cons]
  exact ⟨fun _ _ _ => rfl, fun _ _ _ => rfl, fun _ _ _ => rfl, fun _ _ _ => rfl, fun _ _ _ => rfl, fun _ _ _ => rfl,
    fun _ _ _ => rfl, List.forall_mem_nil _⟩

theorem packing : Claims.Packing := by
  constructor
  · intro p hp f ox s g c h e out hq
    rw [exec_packs p hp]
    refine runVec_run (by simpa [readFields] using laneOp_noDest h) (plain_of_laneOp_dest h) (fun l => ?_)
      (fun _ => cause_packs p hp _ _ _) hq
    rw [readField_of_laneOp h (by simp)]
    rfl
  · intro p hp f ox s g c h e out hq
    rw [exec_quantisers p hp]
    refine runVec_run (by simpa [readFields] using laneOp_noDest h) (plain_of_laneOp_dest h) (fun l => ?_) (fun _ => rfl) hq
    rw [readField_of_laneOp h (by simp), readField_of_laneOp h (by simp)]
    rfl

/-! ## Unpacking (R101, R103) -/

theorem signedElem_packedElem (a : Word) (w i : Nat) : signedElem w (packedElem a w i) = (Claims.element w a i).toInt :=
  congrArg BitVec.toInt ((BitVec.ofNat_toNat w (Claims.element w a i)).trans (BitVec.setWidth_eq _))

theorem zeroPoint_packedElem (b : Word) : zeroPoint 8 (packedElem b 8 2) = (Claims.element 8 b 2).toInt := zeroPoint_eight _

theorem halfOf_zero (b : Word) : halfOf b 0 = b.toNat % 2 ^ 16 := by simp [halfOf]

/-- Each unpacking form makes its values from the elements of A and from B. -/
theorem exec_unpacks : ∀ p ∈ Claims.unpacks, ∀ (f : V3) (ox : Option Ox) (s : State), exec (p.1 f ox) s =
    runVec (plainOp (.vec f.nw f.d p.2.1) [f.a, f.b] [] ox true) (fun g l =>
      Claims.values ((List.range p.2.1).map (p.2.2 (rndEnv g.fpctl) (readField g f.a l) (readField g f.b l)))) s := by
  simp only [Claims.unpacks, List.forall_mem_cons, ← zeroPoint_packedElem]
  simp only [← signedElem_packedElem, ← halfOf_zero]
  exact ⟨fun _ _ _ => rfl, fun _ _ _ => rfl, fun _ _ _ => rfl, fun _ _ _ => rfl, fun _ _ _ => rfl, fun _ _ _ => rfl,
    fun _ _ _ => rfl, fun _ _ _ => rfl, fun _ _ _ => rfl, List.forall_mem_nil _⟩

theorem unpacking : Claims.Unpacking := by
  intro p hp f ox s g c h hd e out hq
  rw [exec_unpacks p hp]
  refine runVec_run h hd (fun l => ?_) (fun _ => rfl) hq
  rw [readField_of_laneOp h (by simp), readField_of_laneOp h (by simp)]

/-- Settles O32: each form is a vector instruction over a run, at its source or at its destination, that makes of its elements what
its rule says. -/
theorem packingAndUnpacking : Obligations.PackingAndUnpacking := ⟨packing, unpacking⟩

end Sys2Proof.Machine
end

section
/-!
Rounding to the nearest number of a format, ties to even (R64), and the read-back of a channel (R74).
-/

namespace Sys2Proof.Machine

/-! ## The value of a code -/

/-- A sign as a factor. -/
def signOf (neg : Bool) : ℚ := if neg then -1 else 1

theorem signOf_mul_self (neg : Bool) : signOf neg * signOf neg = 1 := by cases neg <;> simp [signOf]

theorem abs_signOf (neg : Bool) : |signOf neg| = 1 := by cases neg <;> simp [signOf]

theorem value_fin (neg : Bool) (m : Nat) (e : Int) : Claims.value (.fin neg m e) = signOf neg * m * (2 : ℚ) ^ e := rfl

section
variable {f : FpFmt} {neg : Bool} {n bits m : Nat} {q e : Int}

/-- A mantissa that rounding has carried to the next power of two stands at the next exponent. -/
theorem codeMag_carry (h : f.low ≤ q) : codeMag f q (2 ^ (f.mant + 1)) = codeMag f (q + 1) (2 ^ f.mant) := by
  obtain ⟨k, rfl⟩ := Int.le.dest h
  have h0 : (f.low + k - f.low).toNat = k := by omega
  have h1 : (f.low + k + 1 - f.low).toNat = k + 1 := by omega
  rw [codeMag, codeMag, h0, h1]
  ring

/-- The code of a rounded mantissa is a number, that mantissa times its quantum. -/
theorem fpRead_rounded (hf : f.Sound) (hlow : f.low ≤ q) (hn : n ≤ 2 ^ (f.mant + 1)) (hlead : q = f.low ∨ 2 ^ f.mant ≤ n)
    (hmax : codeMag f q n ≤ f.maxMag) :
    Claims.Finite (fpRead f (withSign f neg (codeMag f q n))) ∧
      Claims.value (fpRead f (withSign f neg (codeMag f q n))) = signOf neg * n * (2 : ℚ) ^ q := by
  rcases hn.lt_or_eq with hlt | rfl
  · rw [fpRead_codeMag hf ⟨hlow, hlt, hlead⟩ hmax]
    exact ⟨⟨_, _, _, rfl⟩, rfl⟩
  · rw [codeMag_carry hlow] at hmax ⊢
    rw [fpRead_codeMag hf ⟨by omega, by gcongr <;> omega, .inr le_rfl⟩ hmax]
    refine ⟨⟨_, _, _, rfl⟩, ?_⟩
    rw [value_fin, zpow_add_one₀ two_ne_zero]
    push_cast
    ring

/-- In units of a quantum, a number of the format is an integer, or lies below the least mantissa with a leading bit. -/
theorem value_in_quanta (q : Int) (h : Claims.Finite (fpRead f bits)) :
    ∃ t : ℚ, Claims.value (fpRead f bits) = t * 2 ^ q ∧ ((∃ k : ℤ, t = k) ∨ q ≠ f.low ∧ |t| < 2 ^ f.mant) := by
  obtain ⟨k, o, j, hx⟩ := h
  obtain ⟨⟨hlowj, hsmall, -⟩, -⟩ := canonical_of_fpRead hx
  have h2 : (2 : ℚ) ^ j = 2 ^ (j - q) * 2 ^ q := by rw [← zpow_add₀ two_ne_zero]; congr 1; ring
  refine ⟨signOf k * o * 2 ^ (j - q), by rw [hx, value_fin, h2]; ring, ?_⟩
  by_cases hj : q ≤ j
  · obtain ⟨i, hi⟩ := Int.le.dest hj
    refine .inl ⟨(if k then -1 else 1) * o * 2 ^ i, ?_⟩
    have : j - q = i := by omega
    rw [this]
    cases k <;> simp [signOf]
  · refine .inr ⟨by omega, ?_⟩
    have hexp : (2 : ℚ) ^ (j - q) ≤ 2 ^ (-1 : ℤ) := zpow_le_zpow_right₀ one_le_two (by omega)
    have ho : (o : ℚ) < 2 ^ (f.mant + 1) := by exact_mod_cast hsmall
    rw [abs_mul, abs_mul, abs_signOf, one_mul, Nat.abs_cast, abs_of_pos (by positivity : (0 : ℚ) < 2 ^ (j - q))]
    calc (o : ℚ) * 2 ^ (j - q) ≤ o * 2 ^ (-1 : ℤ) := by gcongr
      _ < 2 ^ (f.mant + 1) * 2 ^ (-1 : ℤ) := by gcongr
      _ = 2 ^ f.mant := by rw [zpow_neg_one]; ring

/-! ## Nearest integers -/

/-- `n` is the nearest integer to `x`, and of two equally near the even one. -/
def NearEven (n : Nat) (x : ℚ) : Prop := |(n : ℚ) - x| ≤ 1 / 2 ∧ (|(n : ℚ) - x| = 1 / 2 → n % 2 = 0)

theorem nearEven_self (n : Nat) : NearEven n n := by simp [NearEven]

/-- No integer is nearer, and an odd one is not as near as another. -/
theorem NearEven.le_int {x : ℚ} (h : NearEven n x) (k : ℤ) :
    |(n : ℚ) - x| ≤ |k - x| ∧ (|(n : ℚ) - x| = |k - x| → (k : ℚ) ≠ n → n % 2 = 0) := by
  obtain ⟨hle, htie⟩ := h
  by_cases hk : k = n
  · subst hk
    simp
  · have hdist : 1 ≤ |(k : ℚ) - n| := by
      have : 1 ≤ |k - (n : ℤ)| := Int.one_le_abs (sub_ne_zero.2 hk)
      exact_mod_cast this
    have htri : |(k : ℚ) - n| ≤ |k - x| + |(n : ℚ) - x| := abs_sub_comm (n : ℚ) x ▸ abs_sub_le _ _ _
    exact ⟨by linarith, fun he _ => htie (by linarith)⟩

theorem NearEven.lt_of_lt {x t : ℚ} {p : Nat} (h : NearEven n x) (hp : p ≤ x) (ht : t < p) : |(n : ℚ) - x| < |t - x| := by
  have hle := (h.le_int p).1
  rw [Int.cast_natCast, abs_of_nonpos (by linarith : (p : ℚ) - x ≤ 0)] at hle
  rw [abs_of_nonpos (by linarith : t - x ≤ 0)]
  linarith

theorem NearEven.le_of_le {x : ℚ} {k : Nat} (h : NearEven n x) (hk : x ≤ k) : n ≤ k := by
  have hn : (n : ℚ) < k + 1 := by linarith [(abs_le.1 h.1).2]
  exact Nat.lt_succ_iff.1 (by exact_mod_cast hn)

theorem NearEven.ge_of_ge {x : ℚ} {k : Nat} (h : NearEven n x) (hk : k ≤ x) : k ≤ n := by
  have hn : (k : ℚ) < n + 1 := by linarith [(abs_le.1 h.1).1]
  exact Nat.lt_succ_iff.1 (by exact_mod_cast hn)

/-- A quotient rounded up from half way on, and half way only to an even number. -/
theorem nearEven_div {p : Nat} (hp : 0 < p) (m : Nat) :
    NearEven (if p < 2 * (m % p) ∨ 2 * (m % p) = p ∧ m / p % 2 = 1 then m / p + 1 else m / p) (m * (p : ℚ)⁻¹) := by
  have hp' : (0 : ℚ) < p := by exact_mod_cast hp
  have hx : (m : ℚ) * (p : ℚ)⁻¹ = (m / p : Nat) + (m % p : Nat) / p := by
    have hm : (m : ℚ) = p * (m / p : Nat) + (m % p : Nat) := by exact_mod_cast (Nat.div_add_mod m p).symm
    rw [hm]
    field_simp
  have hlt : (m % p : Nat) / (p : ℚ) < 1 := (div_lt_one hp').2 (by exact_mod_cast Nat.mod_lt m hp)
  have hnn : (0 : ℚ) ≤ (m % p : Nat) / (p : ℚ) := by positivity
  have hhalf : (m % p : Nat) / (p : ℚ) = 1 / 2 ↔ 2 * (m % p) = p := by
    rw [div_eq_div_iff hp'.ne' two_ne_zero]
    norm_cast
    omega
  rw [hx]
  split
  · rename_i hup
    have hge : (1 : ℚ) / 2 ≤ (m % p : Nat) / p := by
      rw [div_le_div_iff₀ two_pos hp']
      norm_cast
      omega
    have habs : |((m / p + 1 : Nat) : ℚ) - ((m / p : Nat) + (m % p : Nat) / p)| = 1 - (m % p : Nat) / p := by
      rw [← abs_of_nonneg (by linarith : (0 : ℚ) ≤ 1 - (m % p : Nat) / p)]
      push_cast
      congr 1
      ring
    rw [NearEven, habs]
    refine ⟨by linarith, fun h => ?_⟩
    have := hhalf.1 (by linarith)
    omega
  · rename_i hdown
    have hle : (m % p : Nat) / (p : ℚ) ≤ 1 / 2 := by
      rw [div_le_div_iff₀ hp' two_pos]
      norm_cast
      omega
    have habs : |((m / p : Nat) : ℚ) - ((m / p : Nat) + (m % p : Nat) / p)| = (m % p : Nat) / p := by
      rw [sub_add_cancel_left, abs_neg, abs_of_nonneg hnn]
    rw [NearEven, habs]
    refine ⟨hle, fun h => ?_⟩
    have := hhalf.1 h
    omega

/-- Rounding in mode NE takes the nearest multiple of the quantum, and of two equally near the even one. -/
theorem roundAt_nearEven (neg : Bool) (m : Nat) (e q : Int) :
    NearEven (roundAt .ne neg m e false q).1 (m * (2 : ℚ) ^ (e - q)) := by
  by_cases he : q ≤ e
  · obtain ⟨i, hi⟩ := Int.le.dest he
    have hi' : e - q = i := by omega
    have hr : (roundAt .ne neg m e false q).1 = m * 2 ^ i := by simp [roundAt, cutAt, he, roundsAway, hi']
    rw [hr, hi']
    convert nearEven_self (m * 2 ^ i) using 1
    push_cast
    simp
  · obtain ⟨s, hs⟩ := Int.le.dest (not_le.1 he).le
    have hs' : (q - e).toNat = s := by omega
    have hs0 : s ≠ 0 := by omega
    have hr : (roundAt .ne neg m e false q).1 =
        if 2 ^ s < 2 * (m % 2 ^ s) ∨ 2 * (m % 2 ^ s) = 2 ^ s ∧ m / 2 ^ s % 2 = 1 then m / 2 ^ s + 1 else m / 2 ^ s := by
      simp [roundAt, cutAt, he, roundsAway, hs', hs0]
    have hpow : (2 : ℚ) ^ (e - q) = ((2 ^ s : Nat) : ℚ)⁻¹ := by
      rw [Nat.cast_pow, Nat.cast_ofNat, ← zpow_natCast, ← zpow_neg]
      congr 1
      omega
    rw [hr, hpow]
    exact nearEven_div (Nat.two_pow_pos s) m

/-! ## The nearest number of a format -/

/-- A magnitude in units of the quantum at which it is cut. -/
def quanta (f : FpFmt) (m : Nat) (e : Int) : ℚ := m * (2 : ℚ) ^ (e - cutQuantum f m e)

theorem low_le_cutQuantum (f : FpFmt) (m : Nat) (e : Int) : f.low ≤ cutQuantum f m e := le_max_right _ _

theorem value_quanta (f : FpFmt) (neg : Bool) (m : Nat) (e : Int) :
    Claims.value (.fin neg m e) = signOf neg * quanta f m e * 2 ^ cutQuantum f m e := by
  have h2 : (2 : ℚ) ^ e = 2 ^ (e - cutQuantum f m e) * 2 ^ cutQuantum f m e := by
    rw [← zpow_add₀ two_ne_zero]
    congr 1
    ring
  rw [value_fin, quanta, h2]
  ring

theorem quanta_le (f : FpFmt) (m : Nat) (e : Int) : quanta f m e ≤ (2 ^ (f.mant + 1) : Nat) := by
  have hlog : (m : ℚ) ≤ 2 ^ ((m.log2 : ℤ) + 1) := by exact_mod_cast (Nat.lt_log2_self (n := m)).le
  have hq : (m.log2 : ℤ) + 1 + (e - cutQuantum f m e) ≤ (f.mant + 1 : Nat) := by
    have : quantum f m e ≤ cutQuantum f m e := le_max_left _ _
    rw [quantum] at this
    omega
  calc quanta f m e ≤ 2 ^ ((m.log2 : ℤ) + 1) * 2 ^ (e - cutQuantum f m e) := by rw [quanta]; gcongr
    _ = (2 : ℚ) ^ ((m.log2 : ℤ) + 1 + (e - cutQuantum f m e)) := (zpow_add₀ two_ne_zero _ _).symm
    _ ≤ (2 : ℚ) ^ ((f.mant + 1 : Nat) : ℤ) := by gcongr; norm_num
    _ = (2 ^ (f.mant + 1) : Nat) := by rw [zpow_natCast]; push_cast; rfl

theorem le_quanta (hm : m ≠ 0) (hq : cutQuantum f m e ≠ f.low) : (2 ^ f.mant : Nat) ≤ quanta f m e := by
  have hlog : (2 : ℚ) ^ (m.log2 : ℤ) ≤ m := by exact_mod_cast Nat.log2_self_le hm
  have hq : (m.log2 : ℤ) + (e - cutQuantum f m e) = f.mant := by
    have : cutQuantum f m e = quantum f m e := (max_choice _ _).resolve_right hq
    rw [quantum] at this
    omega
  calc ((2 ^ f.mant : Nat) : ℚ) = (2 : ℚ) ^ (f.mant : ℤ) := by rw [zpow_natCast]; push_cast; rfl
    _ = 2 ^ (m.log2 : ℤ) * 2 ^ (e - cutQuantum f m e) := by rw [← hq, zpow_add₀ two_ne_zero]
    _ ≤ quanta f m e := by rw [quanta]; gcongr

theorem cutMant_nearEven (f : FpFmt) (neg : Bool) (m : Nat) (e : Int) : NearEven (cutMant f .ne neg m e) (quanta f m e) :=
  roundAt_nearEven neg m e _

/-- What rounding in mode NE delivers is a number of the format, the rounded mantissa times its quantum. -/
theorem fpRead_fpRound_ne (hf : f.Sound) (hm : m ≠ 0) (hfit : codeMag f (cutQuantum f m e) (cutMant f .ne neg m e) ≤ f.maxMag) :
    Claims.Finite (fpRead f (fpRound f .ne false neg m e false).bits) ∧
      Claims.value (fpRead f (fpRound f .ne false neg m e false).bits) =
        signOf neg * cutMant f .ne neg m e * 2 ^ cutQuantum f m e := by
  have hnear := cutMant_nearEven f neg m e
  rw [fpRound_bits hfit]
  refine fpRead_rounded hf (low_le_cutQuantum f m e) (hnear.le_of_le (quanta_le f m e)) ?_ hfit
  by_cases hq : cutQuantum f m e = f.low
  · exact .inl hq
  · exact .inr (hnear.ge_of_ge (le_quanta hm hq))

/-- Distances to a number, in units of a quantum and with its sign taken off. -/
theorem abs_sub_quanta (neg : Bool) (t x : ℚ) (q : Int) :
    |t * 2 ^ q - signOf neg * x * 2 ^ q| = |signOf neg * t - x| * 2 ^ q := by
  have h : t * 2 ^ q - signOf neg * x * 2 ^ q = signOf neg * (signOf neg * t - x) * 2 ^ q := by
    rw [mul_sub, ← mul_assoc, signOf_mul_self]
    ring
  rw [h, abs_mul, abs_mul, abs_signOf, one_mul, abs_of_pos (by positivity : (0 : ℚ) < 2 ^ q)]

/-- Rounding in mode NE delivers the nearest number of the format, and of two equally near the one of an even code. -/
theorem fpRound_ne_nearest (hf : f.Sound) (hm : m ≠ 0) (hfit : codeMag f (cutQuantum f m e) (cutMant f .ne neg m e) ≤ f.maxMag)
    (hb : Claims.Finite (fpRead f bits)) :
    let r := fpRound f .ne false neg m e false
    let x := Claims.value (.fin neg m e)
    |Claims.value (fpRead f r.bits) - x| ≤ |Claims.value (fpRead f bits) - x| ∧
      (|Claims.value (fpRead f r.bits) - x| = |Claims.value (fpRead f bits) - x| →
        Claims.value (fpRead f bits) ≠ Claims.value (fpRead f r.bits) → r.bits % 2 = 0) := by
  intro r x
  have hnear := cutMant_nearEven f neg m e
  have hpos : (0 : ℚ) < 2 ^ cutQuantum f m e := by positivity
  obtain ⟨t, ht, hcases⟩ := value_in_quanta (cutQuantum f m e) hb
  have hx : x = signOf neg * quanta f m e * 2 ^ cutQuantum f m e := value_quanta f neg m e
  have hy : |Claims.value (fpRead f r.bits) - x| = |(cutMant f .ne neg m e : ℚ) - quanta f m e| * 2 ^ cutQuantum f m e := by
    rw [(fpRead_fpRound_ne hf hm hfit).2, hx, abs_sub_quanta, ← mul_assoc, signOf_mul_self, one_mul]
  have hxb : |Claims.value (fpRead f bits) - x| = |signOf neg * t - quanta f m e| * 2 ^ cutQuantum f m e := by
    rw [ht, hx, abs_sub_quanta]
  rw [hy, hxb, mul_le_mul_iff_left₀ hpos, mul_left_inj' hpos.ne', (fpRead_fpRound_ne hf hm hfit).2, ht, fpRound_bits hfit,
    withSign_codeMag_mod_two hf]
  rcases hcases with ⟨k, rfl⟩ | ⟨hq, hlt⟩
  · obtain ⟨j, hj⟩ : ∃ j : ℤ, signOf neg * k = j := ⟨(if neg then -1 else 1) * k, by cases neg <;> simp [signOf]⟩
    obtain ⟨hle, htie⟩ := hnear.le_int j
    refine ⟨hj ▸ hle, fun he hne => htie (hj ▸ he) fun hjn => hne ?_⟩
    rw [← hjn, ← hj, ← mul_assoc, signOf_mul_self, one_mul]
  · have hsmall : signOf neg * t < (2 ^ f.mant : Nat) := by
      push_cast
      exact lt_of_le_of_lt (le_abs_self _) (by rwa [abs_mul, abs_signOf, one_mul])
    have hstrict := hnear.lt_of_lt (le_quanta hm hq) hsmall
    exact ⟨hstrict.le, fun he => absurd he hstrict.ne⟩

/-- A magnitude that is a multiple of its quantum is delivered exactly. -/
theorem value_fpRound_of_integral (hf : f.Sound) (hm : m ≠ 0)
    (hfit : codeMag f (cutQuantum f m e) (cutMant f .ne neg m e) ≤ f.maxMag) {k : Nat} (hk : quanta f m e = k) :
    Claims.value (fpRead f (fpRound f .ne false neg m e false).bits) = Claims.value (.fin neg m e) := by
  have hnear := cutMant_nearEven f neg m e
  rw [hk] at hnear
  have hn : cutMant f .ne neg m e = k := le_antisymm (hnear.le_of_le le_rfl) (hnear.ge_of_ge le_rfl)
  rw [(fpRead_fpRound_ne hf hm hfit).2, value_quanta f, hn, hk]

/-- A magnitude of few significant bits, not below the least subnormal, is a multiple of its quantum. -/
theorem quanta_integral {a k : Nat} (h0 : a * 2 ^ k ≠ 0) (ha : a < 2 ^ (f.mant + 1)) (hlow : f.low ≤ e + k) :
    ∃ j : Nat, quanta f (a * 2 ^ k) e = j := by
  have hlog : (a * 2 ^ k).log2 < f.mant + 1 + k := (Nat.log2_lt h0).2 (by rw [Nat.pow_add]; gcongr)
  have hq : cutQuantum f (a * 2 ^ k) e ≤ e + k := max_le (by rw [quantum]; omega) hlow
  obtain ⟨i, hi⟩ := Int.le.dest hq
  refine ⟨a * 2 ^ i, ?_⟩
  have hexp : (k : ℤ) + (e - cutQuantum f (a * 2 ^ k) e) = i := by omega
  rw [quanta, Nat.cast_mul, Nat.cast_pow, Nat.cast_ofNat, mul_assoc, ← zpow_natCast, ← zpow_add₀ two_ne_zero, hexp]
  push_cast
  rw [zpow_natCast]

end

/-! ## Channels (R74) -/

section
variable {c : DWord}

/-- A channel is a number of units of 2^-24. -/
theorem value_channel (c : DWord) :
    Claims.value (.fin (decide (c.toInt < 0)) c.toInt.natAbs (-24)) = c.toInt * (2 : ℚ) ^ (-24 : ℤ) := by
  have hsign : signOf (decide (c.toInt < 0)) * c.toInt.natAbs = c.toInt := by
    rcases lt_or_ge c.toInt 0 with h | h
    · have habs : (c.toInt.natAbs : ℤ) = -c.toInt := Int.ofNat_natAbs_of_nonpos h.le
      rw [← Int.cast_natCast, habs]
      simp [signOf, h]
    · have habs : (c.toInt.natAbs : ℤ) = c.toInt := Int.natAbs_of_nonneg h
      rw [← Int.cast_natCast, habs]
      simp [signOf, not_lt.2 h]
  rw [value_fin, hsign]

theorem natAbs_channel_le (c : DWord) : c.toInt.natAbs ≤ 2 ^ 63 := by
  have h1 := BitVec.le_toInt c
  have h2 := BitVec.toInt_lt (x := c)
  omega

/-- No channel overflows. -/
theorem channel_fits (h : c.toInt ≠ 0) (neg : Bool) :
    codeMag fp32 (cutQuantum fp32 c.toInt.natAbs (-24)) (cutMant fp32 .ne neg c.toInt.natAbs (-24)) ≤ fp32.maxMag := by
  have hn : cutMant fp32 .ne neg c.toInt.natAbs (-24) ≤ 2 ^ 24 := (cutMant_nearEven _ _ _ _).le_of_le (quanta_le _ _ _)
  have hlog : c.toInt.natAbs.log2 < 64 :=
    (Nat.log2_lt (Int.natAbs_ne_zero.2 h)).2 ((natAbs_channel_le c).trans_lt (by norm_num))
  have hlow : fp32.low = -149 := rfl
  have hq : cutQuantum fp32 c.toInt.natAbs (-24) ≤ 17 := max_le (by have : fp32.mant = 23 := rfl; rw [quantum]; omega) (by omega)
  have hcode : (cutQuantum fp32 c.toInt.natAbs (-24) + 149).toNat ≤ 166 := by omega
  have hmant : fp32.mant = 23 := rfl
  have hmax : fp32.maxMag = 0x7F7FFFFF := rfl
  rw [codeMag, hlow, hmant, hmax]
  omega

theorem readBack_zero (h : c.toInt = 0) : readBack c 0 = 0 := by simp [readBack, roundDyad, h]

/-- A channel that is not zero reads back as it is rounded. -/
theorem readBack_toNat (h : c.toInt ≠ 0) :
    (readBack c 0).toNat = (fpRound fp32 .ne false (decide (c.toInt < 0)) c.toInt.natAbs (-24) false).bits := by
  have hlt := fpRound_bits_lt sound_fp32 .ne false (decide (c.toInt < 0)) c.toInt.natAbs (-24) false
  rw [readBack, roundDyad, if_neg h, BitVec.toNat_ofNat]
  exact Nat.mod_eq_of_lt hlt

theorem finite_readBack (c : DWord) : Claims.Finite (fpRead fp32 (readBack c 0).toNat) := by
  by_cases h : c.toInt = 0
  · rw [readBack_zero h]
    exact ⟨_, _, _, rfl⟩
  · rw [readBack_toNat h]
    exact (fpRead_fpRound_ne sound_fp32 (Int.natAbs_ne_zero.2 h) (channel_fits h _)).1

theorem value_readBack_zero (h : c.toInt = 0) : Claims.value (fpRead fp32 (readBack c 0).toNat) = 0 := by
  rw [readBack_zero h]
  simp [fpRead, magOf, Claims.value]

/-- A channel reads back as the nearest FP32 number, of two equally near the one of an even code. -/
theorem readBack_nearest (c : DWord) {b : Nat} (hb : Claims.Finite (fpRead fp32 b)) :
    let x : ℚ := c.toInt * (2 : ℚ) ^ (-24 : ℤ)
    let y := Claims.value (fpRead fp32 (readBack c 0).toNat)
    |y - x| ≤ |Claims.value (fpRead fp32 b) - x| ∧
      (|y - x| = |Claims.value (fpRead fp32 b) - x| → Claims.value (fpRead fp32 b) ≠ y → (readBack c 0).toNat % 2 = 0) := by
  intro x y
  by_cases h : c.toInt = 0
  · have hx : x = 0 := by simp [x, h]
    have hy : y = 0 := value_readBack_zero h
    rw [hx, hy, sub_zero, sub_zero, abs_zero]
    exact ⟨abs_nonneg _, fun he hne => absurd (abs_eq_zero.1 he.symm) hne⟩
  · have hnear := fpRound_ne_nearest (neg := decide (c.toInt < 0)) sound_fp32 (Int.natAbs_ne_zero.2 h) (channel_fits h _) hb
    simp only [← readBack_toNat h, value_channel] at hnear
    exact hnear

/-- A channel of at most 24 significant bits reads back exactly. -/
theorem readBack_exact {m : ℤ} {k : Nat} (hc : c.toInt = m * 2 ^ k) (hm : |m| < 2 ^ 24) :
    Claims.value (fpRead fp32 (readBack c 0).toNat) = c.toInt * (2 : ℚ) ^ (-24 : ℤ) := by
  by_cases h : c.toInt = 0
  · rw [value_readBack_zero h, h, Int.cast_zero, zero_mul]
  · have habs : c.toInt.natAbs = m.natAbs * 2 ^ k := by rw [hc, Int.natAbs_mul, Int.natAbs_pow]; rfl
    have h0 : c.toInt.natAbs ≠ 0 := Int.natAbs_ne_zero.2 h
    have hm' : m.natAbs < 2 ^ (fp32.mant + 1) := by
      rw [← Int.natCast_natAbs] at hm
      exact_mod_cast hm
    have hlow : fp32.low ≤ -24 + k := by
      have : fp32.low = -149 := rfl
      omega
    obtain ⟨j, hj⟩ := quanta_integral (habs ▸ h0) hm' hlow
    rw [← value_channel, readBack_toNat h]
    exact value_fpRound_of_integral sound_fp32 h0 (channel_fits h _) (habs ▸ hj)

end

/-- Settles O60: FP32 reaches beyond every channel, so that a read-back is the rounding of its value in mode NE. -/
theorem channelsReadBack : Obligations.ChannelsReadBack := by
  intro c x y
  have hx : x = ((c.toInt * (2 : ℚ) ^ (-24 : ℤ) : ℚ) : ℝ) := by
    push_cast
    rfl
  refine ⟨finite_readBack c, fun b hb => ?_, fun m k hc hm => ?_⟩
  · obtain ⟨hle, htie⟩ := readBack_nearest c hb
    rw [hx]
    refine ⟨by exact_mod_cast hle, fun he hne => ?_⟩
    have heven := htie (by exact_mod_cast he) (by exact_mod_cast hne)
    simp [BitVec.getLsbD, heven]
  · rw [hx]
    exact_mod_cast readBack_exact hc hm

end Sys2Proof.Machine
end

section
/-!
Accumulation tiles (R72, R73, R239 to R241): additions that wait, and retirement.
-/

namespace Sys2Proof.Machine

open Sys2Proof.Safety

/-! ## Sums of a channel (R72) -/

theorem toInt_satAdd (x : DWord) (n : Int) : (satAdd x n).toInt = max (-2 ^ 63) (min (x.toInt + n) (2 ^ 63 - 1)) := by
  rw [satAdd, BitVec.toInt_ofInt]
  refine Int.bmod_eq_of_le ?_ ?_ <;> norm_num

/-! ## Samples in their place (R73) -/

section
variable {s t u : State} {p : Tile} {ctx n : Nat}

/-- One sample reaches its channel and its mark. -/
def landOne (slot first : Nat) (t : Tile) (p : Word × Nat) : Tile :=
  { t with
    chans := tupd t.chans (8 * slot + first + p.2) 0 fun c => satAdd c (sampleOf p.1).1
    marks := tupd t.marks slot 0 fun m => orMark m (first + p.2) (sampleOf p.1).2 }

theorem landIn_eq (t : Tile) (slot first clock : Nat) (samples : List Word) :
    landIn t slot first clock samples = { samples.zipIdx.foldl (landOne slot first) t with last := clock } := rfl

theorem landOnes_frame (slot first k : Nat) (samples : List Word) (t : Tile) :
    ∃ chans marks, (samples.zipIdx k).foldl (landOne slot first) t = { t with chans, marks } := by
  induction samples generalizing t k with
  | nil => exact ⟨_, _, rfl⟩
  | cons w ws ih =>
    obtain ⟨chans, marks, h⟩ := ih (k + 1) (landOne slot first t (w, k))
    exact ⟨chans, marks, h⟩

theorem chan_landOne_same (slot first k : Nat) (w : Word) (t : Tile) :
    tget (landOne slot first t (w, k)).chans (8 * slot + first + k) 0 =
      satAdd (tget t.chans (8 * slot + first + k) 0) (sampleOf w).1 := by simp [landOne]

theorem chan_landOne_other {slot first k key : Nat} (w : Word) (t : Tile) (h : key ≠ 8 * slot + first + k) :
    tget (landOne slot first t (w, k)).chans key 0 = tget t.chans key 0 := by
  simp [landOne, tget_tupd_other _ _ _ _ _ h]

theorem chan_landOnes_other {slot first k key : Nat} {samples : List Word} {t : Tile}
    (h : ∀ i, i < samples.length → key ≠ 8 * slot + first + (k + i)) :
    tget ((samples.zipIdx k).foldl (landOne slot first) t).chans key 0 = tget t.chans key 0 := by
  induction samples generalizing t k with
  | nil => rfl
  | cons w ws ih =>
    have h0 : key ≠ 8 * slot + first + k := h 0 (by simp)
    refine (ih (k := k + 1) (t := landOne slot first t (w, k)) fun i hi => ?_).trans (chan_landOne_other w t h0)
    have := h (i + 1) (by simpa using hi)
    omega

theorem chan_landOnes {slot first k i : Nat} {w : Word} {samples : List Word} {t : Tile} (h : samples[i]? = some w) :
    tget ((samples.zipIdx k).foldl (landOne slot first) t).chans (8 * slot + first + (k + i)) 0 =
      satAdd (tget t.chans (8 * slot + first + (k + i)) 0) (sampleOf w).1 := by
  induction samples generalizing t k i with
  | nil => simp at h
  | cons x xs ih =>
    cases i with
    | zero =>
      obtain rfl : x = w := by simpa using h
      exact (chan_landOnes_other (t := landOne slot first t (x, k)) fun j _ => by omega).trans (chan_landOne_same _ _ _ _ _)
    | succ i =>
      have hi : k + (i + 1) = k + 1 + i := by omega
      have hk : 8 * slot + first + (k + 1 + i) ≠ 8 * slot + first + k := by omega
      have := ih (k := k + 1) (t := landOne slot first t (x, k)) (i := i) (by simpa using h)
      rwa [chan_landOne_other x t hk, ← hi] at this

/-- A sample is added to its channel. -/
theorem chan_landIn {t : Tile} {slot first clock i : Nat} {w : Word} {samples : List Word} (h : samples[i]? = some w) :
    tget (landIn t slot first clock samples).chans (8 * slot + first + i) 0 =
      satAdd (tget t.chans (8 * slot + first + i) 0) (sampleOf w).1 := by
  have := chan_landOnes (slot := slot) (first := first) (k := 0) (t := t) h
  rwa [Nat.zero_add] at this

/-- The other channels stay. -/
theorem chan_landIn_other {t : Tile} {slot first clock key : Nat} {samples : List Word}
    (h : ∀ i, i < samples.length → key ≠ 8 * slot + first + i) :
    tget (landIn t slot first clock samples).chans key 0 = tget t.chans key 0 :=
  chan_landOnes_other (k := 0) fun i hi => by rw [Nat.zero_add]; exact h i hi

theorem landIn_frame (t : Tile) (slot first clock : Nat) (samples : List Word) :
    ∃ chans marks last, landIn t slot first clock samples = { t with chans, marks, last } := by
  obtain ⟨chans, marks, h⟩ := landOnes_frame slot first 0 samples t
  exact ⟨chans, marks, clock, by rw [landIn_eq, h]⟩

/-! ## Places (R239) -/

theorem placedTile_names (h : placedTile s ctx n = some p) : p.ctx = ctx ∧ p.tile = n := by
  simpa using List.find?_some h

theorem placedTile_congr (h : t.tiles = s.tiles) (ctx n : Nat) : placedTile t ctx n = placedTile s ctx n := by
  rw [placedTile, placedTile, h]

/-- A place that is rewritten under its name. -/
theorem placedTile_updTile {f : Tile → Tile} (hf : ∀ x, x.ctx = ctx → x.tile = n → (f x).ctx = ctx ∧ (f x).tile = n)
    (h : placedTile s ctx n = some p) :
    placedTile (updTile s ctx n f) ctx n = some (f p) := by
  have hname : (p.ctx == ctx && p.tile == n) = true := by simp [placedTile_names h]
  have hsame : (fun x : Tile => x.ctx == ctx && x.tile == n) ∘ (fun x => if x.ctx == ctx && x.tile == n then f x else x) =
      fun x => x.ctx == ctx && x.tile == n := by
    funext x
    simp only [Function.comp]
    split
    · rename_i hx
      obtain ⟨hc, hn⟩ : x.ctx = ctx ∧ x.tile = n := by simpa using hx
      obtain ⟨hfc, hfn⟩ := hf x hc hn
      rw [hfc, hfn, hc, hn]
    · rfl
  rw [placedTile] at h
  rw [placedTile, updTile, List.find?_map, hsame, h, Option.map_some, hname, if_pos rfl]

theorem placedTile_append_same (hc : p.ctx = ctx) (hn : p.tile = n) (h : placedTile s ctx n = none) :
    placedTile { s with tiles := s.tiles ++ [p] } ctx n = some p := by
  rw [placedTile] at h
  simp [placedTile, List.find?_append, h, hc, hn]

theorem placedTile_append_other (h : ¬ (ctx = p.ctx ∧ n = p.tile)) :
    placedTile { s with tiles := s.tiles ++ [p] } ctx n = placedTile s ctx n := by
  have hp : (p.ctx == ctx && p.tile == n) = false := by
    rw [Bool.and_eq_false_iff, beq_eq_false_iff_ne, beq_eq_false_iff_ne, ← not_and_or]
    exact fun hcon => h ⟨hcon.1.symm, hcon.2.symm⟩
  simp [placedTile, List.find?_append, hp]

theorem placedTile_freeTile_same (s : State) (p : Tile) : placedTile (freeTile s p) p.ctx p.tile = none := by
  simp [placedTile, freeTile, ← not_and_or]

theorem placedTile_freeTile_other (h : ¬ (ctx = p.ctx ∧ n = p.tile)) : placedTile (freeTile s p) ctx n = placedTile s ctx n := by
  rw [placedTile, placedTile, freeTile, List.find?_filter]
  refine congrArg (fun q => s.tiles.find? q) (funext fun x => ?_)
  cases hx : (x.ctx == ctx && x.tile == n)
  · simp
  · obtain ⟨rfl, rfl⟩ : x.ctx = ctx ∧ x.tile = n := by simpa using hx
    simpa [← not_and_or] using h

/-! ## Additions that wait (R239, R241) -/

/-- An addition reaches its place. -/
def landed (s : State) (a : TileAdd) (p : Tile) : Tile := landIn p (pixSlot a.fw a.pixel) a.first s.clock a.samples

theorem landed_names (s : State) (a : TileAdd) (p : Tile) :
    (landed s a p).ctx = p.ctx ∧ (landed s a p).tile = p.tile ∧ (landed s a p).retiring = p.retiring := by
  obtain ⟨chans, marks, last, h⟩ := landIn_frame p (pixSlot a.fw a.pixel) a.first s.clock a.samples
  rw [landed, h]
  exact ⟨rfl, rfl, rfl⟩

theorem landAdd_placed {a : TileAdd} (h : placedTile s a.ctx a.tile = some p) (hr : p.retiring = false) :
    landAdd s a = some (updTile s a.ctx a.tile (landed s a)) := by
  simp only [landAdd, h, hr]
  rfl

theorem landAdd_new {a : TileAdd} (h : placedTile s a.ctx a.tile = none)
    (hroom : (s.tiles.filter fun t => t.tile % 8 == a.tile % 8).length < 512) :
    landAdd s a = some { s with tiles := s.tiles ++ [landed s a (newTile a.ctx a.tile)] } := by
  simp only [landAdd, h]
  exact if_pos hroom

section
variable {a : TileAdd} {rest : List TileAdd} {g : Group} {o : MemOp}

theorem endOp_ended (ho : g.ops.find? (fun x => x.id == a.op) = some o) : Claims.Ended g (endOp g a.op) o := by
  have hid : o.id = a.op := by simpa using List.find?_some ho
  rw [endOp, ho, ← hid]
  exact ⟨rfl, rfl⟩

theorem endOp_place (g : Group) (id : Nat) : (endOp g id).core = g.core ∧ (endOp g id).slot = g.slot := by
  unfold endOp
  split <;> exact ⟨rfl, rfl⟩

/-- The first of the additions that wait lands, and its instruction's counter goes down with its last. -/
theorem execTileAddResume_lands (hadds : s.tileAdds = a :: rest) (hland : landAdd s a = some u) (hu : u.groups = s.groups)
    (hg : groupAt s a.core a.slot = some g) (ho : g.ops.find? (fun x => x.id == a.op) = some o) :
    ∃ t, exec .tileAddResume s = .next t ∧ t.tileAdds = rest ∧ t.mem = u.mem ∧ t.tiles = u.tiles ∧
      ((∃ x ∈ rest, x.op = a.op) → t.groups = s.groups) ∧
      ((∀ x ∈ rest, x.op ≠ a.op) → ∃ h, groupAt t a.core a.slot = some h ∧ Claims.Ended g h o) := by
  have hrun : exec .tileAddResume s = .next (if rest.any fun x => x.op == a.op then { u with tileAdds := rest }
      else finishOp { u with tileAdds := rest } a.core a.slot a.op) := by
    have hexec : exec .tileAddResume s = execTileAddResume s := rfl
    simp only [hexec, execTileAddResume, hadds, landFirst, hland, List.nil_append]
  by_cases hmore : ∃ x ∈ rest, x.op = a.op
  · have hany : (rest.any fun x => x.op == a.op) = true := by simpa using hmore
    rw [hrun, if_pos hany]
    obtain ⟨x, hx, hop⟩ := hmore
    exact ⟨_, rfl, rfl, rfl, rfl, fun _ => hu, fun hlast => absurd hop (hlast x hx)⟩
  · have hany : ¬ (rest.any fun x => x.op == a.op) = true := by simpa using hmore
    have hgu : groupAt { u with tileAdds := rest } a.core a.slot = some g := by
      rw [groupAt, hu]
      exact hg
    obtain ⟨hcore, hslot⟩ := groupAt_place hg
    have hend := groupAt_setGroup (g' := endOp g a.op) (hcore ▸ hslot ▸ hgu) (endOp_place g a.op).1 (endOp_place g a.op).2
    rw [hcore, hslot] at hend
    rw [hrun, if_neg hany, finishOp, updGroup, hgu]
    exact ⟨_, rfl, rfl, rfl, rfl, fun h => absurd h hmore, fun _ => ⟨_, hend, endOp_ended ho⟩⟩

end

/-! ## Retirement (R240) -/

theorem unitReleased_of_quiet (hrdc : ∀ e ∈ s.rdc, e.2.st ≠ .drt) (hl : ∀ e ∈ s.hostLines, e.2.st ≠ .modified)
    (ho : rdcOut s s.msgSeq = false) : unitReleased s 5 = true := by
  simp only [unitReleased, ho, Bool.or_eq_true, Bool.and_eq_true, List.all_eq_true, bne_iff_ne]
  exact .inr ⟨⟨rfl, .inr hrdc⟩, .inr hl⟩

/-- With no flush under way none ends. -/
theorem endFlushes_idle (h : s.flushing = []) (ctx : Nat) : endFlushes s ctx = s := by
  have hkeep : s.flushing.filter (fun f => f.1 ≠ ctx) = s.flushing := by rw [h]; rfl
  have hnone : s.flushing.filter (fun f => f.1 == ctx) = [] := by rw [h]; rfl
  unfold endFlushes
  split
  · rfl
  · rw [hkeep, hnone]
    rfl

/-- Reports of what made an access fail change nothing but the events. -/
theorem tellFault_frame (s : State) (ctx core : Nat) (slot : Option Nat) (ident cause va : Nat) :
    ∃ events, tellFault s ctx core slot ident cause va = { s with events } := by
  unfold tellFault
  dsimp only
  split_ifs <;> exact ⟨_, rfl⟩

theorem retireSteps_none (hi : p.frame.img = 0) (hm : p.frame.mrk = 0) (hr : p.frame.res = 0) : retireSteps p = [] := by
  simp [retireSteps, pixelSteps, hi, hm, hr]

theorem retireFrom_fails {x : RetireStep} {xs : List RetireStep} {va len k : Nat} {acc : Acc}
    (hx : x.access p.frame = (va, len, acc)) (hk : unitXlat s p.ctx (tileTlb p) va len acc = .fail k) :
    retireFrom (x :: xs) s p = (unitTold s p.ctx (tileTlb p) va, p, .fault k va) := by
  simp only [retireFrom, hx, hk]

theorem execTileRetire_idle (h : placedTile s ctx n = some p) (hi : p.retiring = false ∨ p.waitPage.isSome = true) :
    exec (.tileRetire ctx n) s = .next s := by
  have hexec : exec (.tileRetire ctx n) s = execTileRetire ctx n s := rfl
  rcases hi with hi | hi <;> simp [hexec, execTileRetire, h, hi]

/-- With nowhere to go and nothing to release, a tile that retires gives up its place. -/
theorem execTileRetire_done (h : placedTile s ctx n = some p) (hr : p.retiring = true) (hw : p.waitPage = none)
    (hnil : retireSteps p = []) (hrel : unitReleased s 5 = true) (hf : s.flushing = []) :
    exec (.tileRetire ctx n) s = .next (freeTile s p) := by
  have hsame : unitRelease s ctx 5 = s := releaseRdc_released hrel _
  have hidle : endFlushes (freeTile s p) ctx = freeTile s p := endFlushes_idle (s := freeTile s p) hf ctx
  have hexec : exec (.tileRetire ctx n) s = execTileRetire ctx n s := rfl
  simp [hexec, execTileRetire, h, hr, hw, hnil, retireFrom, hsame, hrel, hidle]

section
variable {x : RetireStep} {xs : List RetireStep} {va len : Nat} {acc : Acc}

/-- A tile whose next access fails keeps its place where the page is absent, and is dropped otherwise. -/
theorem execTileRetire_fails {k : Nat} (h : placedTile s ctx n = some p) (hr : p.retiring = true) (hw : p.waitPage = none)
    (hx : (retireSteps p).drop p.pos = x :: xs) (ha : x.access p.frame = (va, len, acc))
    (hk : unitXlat s ctx (tileTlb p) va len acc = .fail k) :
    exec (.tileRetire ctx n) s = if k = 0x20 then
        .next (reportCtx (updTile (unitTold s ctx (tileTlb p) va) ctx n fun _ => { p with waitPage := some (va / 4096) }) ctx 0x0A
          0x20 (va / 4096 * 4096) (BitVec.ofNat 32 n))
      else .next (endFlushes (dropTile (tellFault (unitTold s ctx (tileTlb p) va) ctx noCore none 0 k va) p k va) ctx) := by
  obtain ⟨rfl, -⟩ := placedTile_names h
  have hexec : exec (.tileRetire p.ctx n) s = execTileRetire p.ctx n s := rfl
  simp [hexec, execTileRetire, h, hr, hw, hx, retireFrom_fails ha hk]

end

end

/-- Settles O15: an addition that lands adds each sample to its own channel, and a retirement ends, waits or drops its tile by what
its next access meets. -/
theorem tileEvents : Obligations.TileEvents := by
  refine ⟨?_, ?_, ?_, ?_, ?_, ?_⟩
  · intro s a rest p g o hadds hp hr hg ho _
    obtain ⟨t, hrun, hrest, hmem, htiles, hmore, hlast⟩ := execTileAddResume_lands hadds (landAdd_placed hp hr) rfl hg ho
    have hq : placedTile t a.ctx a.tile = some (landed s a p) := by
      rw [placedTile_congr htiles]
      refine placedTile_updTile (fun x hc hn => ?_) hp
      obtain ⟨hxc, hxn, -⟩ := landed_names s a x
      exact ⟨hxc.trans hc, hxn.trans hn⟩
    exact ⟨t, _, hrun, hrest, hmem, hq, fun i w hw => chan_landIn hw, hmore, hlast⟩
  · intro s a rest g o hadds hp hroom hg ho _
    obtain ⟨t, hrun, hrest, hmem, htiles, hmore, hlast⟩ := execTileAddResume_lands hadds (landAdd_new hp hroom) rfl hg ho
    obtain ⟨hctx, htile, hret⟩ := landed_names s a (newTile a.ctx a.tile)
    have hq : placedTile t a.ctx a.tile = some (landed s a (newTile a.ctx a.tile)) := by
      rw [placedTile_congr htiles]
      exact placedTile_append_same hctx htile hp
    refine ⟨t, _, hrun, hrest, hmem, hq, hret, fun c m hne => ?_, fun i w hw => chan_landIn hw, fun k hk => chan_landIn_other hk,
      hmore, hlast⟩
    rw [placedTile_congr htiles]
    exact placedTile_append_other (by rwa [hctx, htile])
  · intro s ctx n p hp
    obtain ⟨rfl, rfl⟩ := placedTile_names hp
    refine ⟨execTileRetire_idle hp, ?_, ?_, ?_⟩
    · intro hr hw hi hm hres hf hrdc hl ho
      exact ⟨_, execTileRetire_done hp hr hw (retireSteps_none hi hm hres) (unitReleased_of_quiet hrdc hl ho) hf,
        placedTile_freeTile_same s p, rfl, rfl, fun c m hne => placedTile_freeTile_other hne⟩
    · intro x xs va len acc hr hw hx ha hk
      have hq : placedTile (unitTold s p.ctx (tileTlb p) va) p.ctx p.tile = some p := hp
      exact ⟨_, _, (execTileRetire_fails hp hr hw hx ha hk).trans (if_pos rfl),
        placedTile_updTile (fun _ _ _ => ⟨rfl, rfl⟩) hq, rfl, rfl, rfl, rfl, rfl⟩
    · intro x xs va len acc k hr hw hf hx ha hk hne
      obtain ⟨events, htell⟩ := tellFault_frame (unitTold s p.ctx (tileTlb p) va) p.ctx noCore none 0 k va
      have hrun := (execTileRetire_fails hp hr hw hx ha hk).trans (if_neg hne)
      rw [htell, endFlushes_idle (by exact hf)] at hrun
      exact ⟨_, hrun, placedTile_freeTile_same s p, rfl, rfl, rfl⟩
  · intro x n h1 h2
    rw [toInt_satAdd]
    omega
  · intro x n h
    rw [toInt_satAdd]
    omega
  · intro x n h
    rw [toInt_satAdd]
    omega

end Sys2Proof.Machine
end
